-- ==== Sys2Proof/Word.lean ====
section
/-! DEFINITION. Word.lean: the machine's word types and their plainest readings (00 R6, R7). -/

namespace Sys2Proof

/-- One byte, the unit every space is addressed in. -/
abbrev Byte := BitVec 8

/-- A 32-bit parcel of code (02 R42). -/
abbrev Parcel := BitVec 32

/-- A 64-bit word: general registers, control registers, addresses (06 R204). -/
abbrev Word := BitVec 64

/-- A six-bit register field (02 R54). -/
abbrev Reg := BitVec 6

end Sys2Proof
end

