-- ==== Sys2Proof/Machine/Bits.lean ====
section
/-! DEFINITION. Bits.lean: byte order (00 R7), fields of words, sign extension. -/

namespace Sys2Proof.Machine

/-- The number a byte string holds, low byte first (00 R7). -/
def leNat : List Byte → Nat
  | [] => 0
  | b :: bs => b.toNat + 256 * leNat bs

/-- The `n` bytes of a number, low byte first. -/
def leBytes : Nat → Nat → List Byte
  | 0, _ => []
  | n + 1, x => BitVec.ofNat 8 x :: leBytes n (x / 256)

/-- The word a byte string holds. -/
def leWord (bs : List Byte) : Word := BitVec.ofNat 64 (leNat bs)

/-- Bits `hi … lo` of a number. -/
def bitsOf (x hi lo : Nat) : Nat := x / 2 ^ lo % 2 ^ (hi + 1 - lo)

/-- Bits `hi … lo` of a word, as a number. -/
def wbits (w : Word) (hi lo : Nat) : Nat := bitsOf w.toNat hi lo

/-- One bit of a word. -/
def wbit (w : Word) (i : Nat) : Bool := w.toNat.testBit i

/-- A word from a number, modulo 2^64. -/
abbrev word (x : Nat) : Word := BitVec.ofNat 64 x

/-- The signed reading of the low `w` bits of a number. -/
def toSigned (w x : Nat) : Int := (BitVec.ofNat w x).toInt

/-- The low `w` bits that stand for an integer. -/
def ofSigned (w : Nat) (x : Int) : Nat := (BitVec.ofInt w x).toNat

/-- Sign- or zero-extend a loaded value of `n` bytes to 64 bits (07 R246). -/
def extendLoad (n : Nat) (signed : Bool) (x : Nat) : Word :=
  if signed then BitVec.ofInt 64 (toSigned (8 * n) x) else word x

/-- The bytes of a string from `off`, `n` of them, zeros past its end. -/
def slice (bs : List Byte) (off n : Nat) : List Byte :=
  let t := (bs.drop off).take n
  t ++ List.replicate (n - t.length) 0

/-- A field of `n` bytes at `off`, as a number. -/
def field (bs : List Byte) (off n : Nat) : Nat := leNat (slice bs off n)

/-- Put bytes at an offset of a string that reaches past it. -/
def splice (bs : List Byte) (off : Nat) (x : List Byte) : List Byte :=
  bs.take off ++ x ++ bs.drop (off + x.length)

/-- A Boolean as a number. -/
def b2n (b : Bool) : Nat := if b then 1 else 0

/-- Canonical G addresses (04 R124): bits 63:57 equal to bit 56. -/
def canonical (a : Word) : Bool :=
  a.toNat < 2 ^ 56 || 2 ^ 64 - 2 ^ 56 ≤ a.toNat

/-- Replace the `n`-th element of a list. -/
def setAt {α : Type} (l : List α) (n : Nat) (x : α) : List α := l.set n x

end Sys2Proof.Machine
end

