-- ==== Sys2Proof/Machine/Cipher.lean ====
section
/-! DEFINITION. Cipher.lean: AES-XTS-256, under which a line stands in memory (15 R476): AES with keys of 256 bits, and the
XTS mode over data units of one line. The spec names the algorithms; their definitions are those of the standards (log 14). -/

namespace Sys2Proof.Machine

/-! ## Bytes as polynomials -/

/-- Twice a byte, in the field of AES. -/
def gfDouble (a : Byte) : Byte := (a <<< 1) ^^^ (if a.msb then 0x1B else 0)
def gfMul (a b : Byte) : Byte :=
  (List.range 8).foldr (fun i r => gfDouble r ^^^ (if b.getLsbD i then a else 0)) 0
/-- The inverse of a byte, its 254th power; that of 0 is 0. -/
def gfInv (a : Byte) : Byte :=
  ((List.range 7).foldl (fun (x : Byte × Byte) _ => (gfMul x.1 x.1, gfMul x.2 (gfMul x.1 x.1))) (a, 1)).2
def subByte (a : Byte) : Byte :=
  let x := gfInv a
  x ^^^ x.rotateLeft 1 ^^^ x.rotateLeft 2 ^^^ x.rotateLeft 3 ^^^ x.rotateLeft 4 ^^^ 0x63
def unsubByte (a : Byte) : Byte := gfInv (a.rotateLeft 1 ^^^ a.rotateLeft 3 ^^^ a.rotateLeft 6 ^^^ 0x05)

/-! ## AES with a key of 256 bits -/

def xorBytes (a b : List Byte) : List Byte := List.zipWith (· ^^^ ·) a b

/-- The 60 words of the expanded key. -/
def expandKey (key : List Byte) : List (List Byte) :=
  let start := (List.range 8).map (fun i => slice key (4 * i) 4)
  (List.range 52).foldl (fun ws j =>
    let i := j + 8
    let t := ws.getLastD []
    let t' := if i % 8 = 0 then
        xorBytes ((t.rotateLeft 1).map subByte) [(List.range (i / 8 - 1)).foldl (fun r _ => gfDouble r) 1, 0, 0, 0]
      else if i % 8 = 4 then t.map subByte
      else t
    ws ++ [xorBytes ((ws[j]?).getD []) t']) start
def roundKey (ws : List (List Byte)) (r : Nat) : List Byte := ((ws.drop (4 * r)).take 4).flatten

/-- Row r of a block, whose byte 4c + r is in column c, turns by `n` columns per row. -/
def shiftRows (n : Nat) (b : List Byte) : List Byte :=
  (List.range 16).map (fun i => (b[(i + 4 * n * (i % 4)) % 16]?).getD 0)
/-- Each column is multiplied by a polynomial. -/
def mixColumns (m : List Byte) (b : List Byte) : List Byte :=
  (List.range 16).map (fun i =>
    m.zipIdx.foldl (fun r x => r ^^^ gfMul x.1 ((b[i / 4 * 4 + (i + x.2) % 4]?).getD 0)) 0)

def aesEncrypt (key block : List Byte) : List Byte :=
  let ws := expandKey key
  let last := (List.range 13).foldl (fun b r =>
    xorBytes (mixColumns [2, 3, 1, 1] (shiftRows 1 (b.map subByte))) (roundKey ws (r + 1))) (xorBytes block (roundKey ws 0))
  xorBytes (shiftRows 1 (last.map subByte)) (roundKey ws 14)
def aesDecrypt (key block : List Byte) : List Byte :=
  let ws := expandKey key
  let first := (List.range 13).foldl (fun b r =>
    mixColumns [14, 11, 13, 9] (xorBytes ((shiftRows 3 b).map unsubByte) (roundKey ws (13 - r)))) (xorBytes block (roundKey ws 14))
  xorBytes ((shiftRows 3 first).map unsubByte) (roundKey ws 0)

/-! ## XTS -/

/-- The masks of the blocks of a data unit: the encrypted tweak, doubled from block to block. -/
def xtsMasks (key : List Byte) (tweak : Word) (blocks : Nat) : List (List Byte) :=
  let t0 := BitVec.ofNat 128 (leNat (aesEncrypt key (leBytes 16 tweak.toNat)))
  ((List.range blocks).foldl (fun (x : List (List Byte) × BitVec 128) _ =>
    (x.1 ++ [leBytes 16 x.2.toNat], (x.2 <<< 1) ^^^ (if x.2.msb then 0x87 else 0))) ([], t0)).1

/-- Encrypt or decrypt the blocks of a data unit under the two keys of a slot, the first for the data. -/
def xts (decrypt : Bool) (key : BitVec 512) (tweak : Word) (bs : List Byte) : List Byte :=
  let k := leBytes 64 key.toNat
  let run := if decrypt then aesDecrypt (k.take 32) else aesEncrypt (k.take 32)
  (xtsMasks (k.drop 32) tweak (bs.length / 16)).zipIdx.flatMap (fun x =>
    xorBytes (run (xorBytes (slice bs (16 * x.2) 16) x.1)) x.1)

/-- What a line that stands under one key reads as under another (15 R476). -/
def recode (stored read : Option (BitVec 512)) (tweak : Word) (bs : List Byte) : List Byte :=
  let raw := match stored with
    | some k => xts false k tweak bs
    | none => bs
  match read with
  | some k => xts true k tweak raw
  | none => raw

end Sys2Proof.Machine
end

