-- ==== Sys2Proof/Syntax.lean ====
section
/-! DEFINITION. Syntax.lean: the instruction formats (02 R47, R51, R56) and the one inductive of the
module's steps, a constructor for each row of the opcode table: the encoded instructions, and the steps
of the other agents (95), whose operands say which unit, request or command the step concerns. -/

namespace Sys2Proof

/-- Format A (R51): empty-source bit, selector, and three register fields. -/
structure FA where
  e : BitVec 1 := 0
  fn : BitVec 3 := 0
  b : Reg := 0
  a : Reg := 0
  d : Reg := 0
deriving DecidableEq, Repr

/-- Format I (R51); the memory forms split `imm` as R60 states. -/
structure FI where
  imm : BitVec 10 := 0
  a : Reg := 0
  d : Reg := 0
deriving DecidableEq, Repr

/-- Format U (R51). -/
structure FU where
  imm : BitVec 16 := 0
  d : Reg := 0
deriving DecidableEq, Repr

/-- Format B (R51): a signed offset in halfwords. -/
structure FB where
  off : BitVec 13 := 0
  cond : BitVec 3 := 0
  a : Reg := 0
deriving DecidableEq, Repr

/-- Format J (R51). -/
structure FJ where
  off : BitVec 22 := 0
deriving DecidableEq, Repr

/-- Format L (R51, R52): the hardware-loop instructions. -/
structure FL where
  flags : BitVec 4 := 0
  body : BitVec 12 := 0
  count : Reg := 0
deriving DecidableEq, Repr

/-- Compressed layout CR (R47). -/
structure CR where
  x : BitVec 3 := 0
  a : BitVec 4 := 0
  d : BitVec 4 := 0
deriving DecidableEq, Repr

/-- Compressed layout CI (R47). -/
structure CI where
  imm : BitVec 7 := 0
  d : BitVec 4 := 0
deriving DecidableEq, Repr

/-- Compressed layout CB (R47). -/
structure CB where
  off : BitVec 7 := 0
  a : BitVec 4 := 0
deriving DecidableEq, Repr

/-- Compressed layout CJ (R47). -/
structure CJ where
  off : BitVec 11 := 0
deriving DecidableEq, Repr

/-- The fields of the first word of a pair (R56, R57); its bits 31:29 must be zero. -/
structure Prefix where
  ord : BitVec 1 := 0
  ixb : Reg := 0
  slot : BitVec 4 := 0
  emp : BitVec 3 := 0
  sat : BitVec 2 := 0
  rnd : BitVec 3 := 0
deriving DecidableEq, Repr

/-- Who answers a read request (10 R317, R319): the home, the home after the line has been filled
(`miss`: the line is put in flight first, R321), or copy number `copy`. -/
inductive Serve where
  | home
  | miss
  | copy (k : Nat)
deriving DecidableEq, Repr

/-- The operands of another agent's step, as the turn that names it gives them: each constructor of `Instr` that
stands for such a step says which of these it reads. `part` is how far an engine's command goes in the step: to its end,
or, with 0, to its beginning, or, with k + 1, over its element k (04 R147). -/
structure EventArgs where
  unit : Nat := 0
  sub : Nat := 0
  value : BitVec 256 := 0
  flag : Bool := false
  slots : List Nat := []
  bytes : List Byte := []
  serve : Serve := .home
  part : Option Nat := none
deriving DecidableEq, Repr

/-- Every row of the opcode table: the encoded instructions first, then the steps of other agents. -/
inductive Instr where
  /-- PREFIXED_PAIR (R56): A prefix word joins the next parcel into one 64-bit instruction whose prefix fields set rounding, saturation, empty traps, slot, index base and order. -/
  | prefixedPair (px : Prefix) (inner : Instr)
  /-- C_MV (R48): Compressed move, expanding to add d', a', g0. -/
  | cMv (f : CR)
  /-- C_ADD (R48): Compressed add, expanding to add d', d', a'. -/
  | cAdd (f : CR)
  /-- C_SUB (R48): Compressed subtract. -/
  | cSub (f : CR)
  /-- C_AND (R48): Compressed and. -/
  | cAnd (f : CR)
  /-- C_OR (R48): Compressed or. -/
  | cOr (f : CR)
  /-- C_XOR (R48): Compressed xor. -/
  | cXor (f : CR)
  /-- C_LDS (R48): Compressed weak 64-bit S-space load. -/
  | cLds (f : CR)
  /-- C_STS (R48): Compressed weak 64-bit S-space store. -/
  | cSts (f : CR)
  /-- C_ADDI (R48): Compressed add immediate. -/
  | cAddi (f : CI)
  /-- C_LI (R48): Compressed load immediate. -/
  | cLi (f : CI)
  /-- C_SHLI (R48): Compressed shift left immediate. -/
  | cShli (f : CI)
  /-- C_SHRI (R48): Compressed logical shift right immediate. -/
  | cShri (f : CI)
  /-- C_BEQZ (R48): Compressed branch if zero. -/
  | cBeqz (f : CB)
  /-- C_BNEZ (R48): Compressed branch if nonzero. -/
  | cBnez (f : CB)
  /-- C_BRB (R48): Compressed decrement and branch if nonzero. -/
  | cBrb (f : CB)
  /-- C_JMP (R48): Compressed jump. -/
  | cJmp (f : CJ)
  /-- C_JR (R48): Compressed indirect jump. -/
  | cJr (f : CR)
  /-- C_NOP (R48): Compressed no-operation. -/
  | cNop (f : CR)
  /-- C_YIELD (R48): Compressed yield. -/
  | cYield (f : CR)
  /-- C_LIDX (R48): Compressed read of a loop index. -/
  | cLidx (f : CR)
  /-- ADD (R219): 64-bit add. -/
  | add (f : FA)
  /-- SUB (R219): 64-bit subtract. -/
  | sub (f : FA)
  /-- ADDI (R219): Add signed 10-bit immediate. -/
  | addi (f : FI)
  /-- AND (R219): Bitwise and. -/
  | andR (f : FA)
  /-- OR (R219): Bitwise or. -/
  | orR (f : FA)
  /-- XOR (R219): Bitwise xor. -/
  | xorR (f : FA)
  /-- LOGI (R219): Logic with zero-extended 8-bit immediate. -/
  | logi (f : FI)
  /-- SHL (R219): Shift left by register. -/
  | shl (f : FA)
  /-- SHR (R219): Logical shift right by register. -/
  | shr (f : FA)
  /-- SAR (R219): Arithmetic shift right by register. -/
  | sar (f : FA)
  /-- SHI (R219): Shift or rotate by immediate. -/
  | shi (f : FI)
  /-- MUL (R219): Low 64 bits of product. -/
  | mul (f : FA)
  /-- MULH (R219): High 64 bits of product. -/
  | mulh (f : FA)
  /-- DIV (R220): Truncating division. -/
  | div (f : FA)
  /-- REM (R220): Remainder. -/
  | rem (f : FA)
  /-- MINMAX (R219): Signed or unsigned minimum or maximum. -/
  | minmax (f : FA)
  /-- CMP (R219): Integer compare to 1 or 0. -/
  | cmp (f : FA)
  /-- SEL (R219): Select g[a] or g[b] by g[d]. -/
  | sel (f : FA)
  /-- LUI (R219): Load upper immediate. -/
  | lui (f : FU)
  /-- ADDPC (R219): PC-relative address. -/
  | addpc (f : FU)
  /-- FOPS (R222): Scalar FP32 operation. -/
  | fops (f : FA)
  /-- FFMA (R222): Scalar fused multiply-add. -/
  | ffma (f : FA)
  /-- FCMP (R223): Scalar FP32 compare. -/
  | fcmp (f : FA)
  /-- FCVT (R224): Scalar conversion. -/
  | fcvt (f : FA)
  /-- BR (R225): Conditional branch. -/
  | br (f : FB)
  /-- BRB (R226): Decrement and branch. -/
  | brb (f : FB)
  /-- JMP (R227): Jump. -/
  | jmp (f : FJ)
  /-- JAL (R227): Jump and link in g31. -/
  | jal (f : FJ)
  /-- JR (R227): Indirect jump with link. -/
  | jr (f : FA)
  /-- LOOP (R228): Push a hardware loop with register count. -/
  | loopR (f : FL)
  /-- LOOPI (R228): Push a hardware loop with immediate count. -/
  | loopi (f : FL)
  /-- LEXIT (R229): Leave n innermost loop levels. -/
  | lexit (f : FA)
  /-- LIDX (R230): Read a loop index. -/
  | lidx (f : FA)
  /-- FE (R231): Set or test a register's full/empty bit. -/
  | fe (f : FA)
  /-- GETC (R232): Read a control register. -/
  | getc (f : FU)
  /-- SETC (R232): Write a control register. -/
  | setc (f : FU)
  /-- TRAP (R233): Enter the user-trap handler with a code. -/
  | trap (f : FU)
  /-- TRET (R236): Return from a trap. -/
  | tret (f : FA)
  /-- SYS (R235): Call supervisor service. -/
  | sys (f : FU)
  /-- BRK (R234): Breakpoint trap. -/
  | brk (f : FU)
  /-- LD_S (R246): S-space load. -/
  | ldS (f : FI)
  /-- ST_S (R246): S-space store. -/
  | stS (f : FI)
  /-- LD_C (R246): C-space load. -/
  | ldC (f : FI)
  /-- ST_C (R246): C-space store. -/
  | stC (f : FI)
  /-- LD_T (R246): T-space load. -/
  | ldT (f : FI)
  /-- ST_T (R246): T-space store. -/
  | stT (f : FI)
  /-- LD_G (R246): G-space load. -/
  | ldG (f : FI)
  /-- ST_G (R246): G-space store. -/
  | stG (f : FI)
  /-- LDQ (R246): 32-byte S-space load into a q register. -/
  | ldq (f : FI)
  /-- STQ (R246): 32-byte S-space store from a q register. -/
  | stq (f : FI)
  /-- LDFE (R249): Take a full S word and mark it empty. -/
  | ldfe (f : FI)
  /-- STFE (R249): Fill an empty S word and mark it full. -/
  | stfe (f : FI)
  /-- FEFILL (R251): Set full/empty bits of a run of S words. -/
  | fefill (f : FA)
  /-- LDFE_C (R249): Take a full C word and mark it empty. -/
  | ldfeC (f : FI)
  /-- STFE_C (R249): Fill an empty C word and mark it full. -/
  | stfeC (f : FI)
  /-- FENCE (R253): Memory fence at a scope. -/
  | fence (f : FA)
  /-- XCH (R256): Lane-aligned short-vector exchange with a peer strand. -/
  | xch (f : FA)
  /-- RGCLAIM (R259): Claim a berth slot for filling. -/
  | rgclaim (f : FA)
  /-- RGPOST (R259): Post a filled berth slot. -/
  | rgpost (f : FA)
  /-- RGTAKE (R259): Take a filled berth slot. -/
  | rgtake (f : FA)
  /-- RGFREE (R259): Return a berth slot as free. -/
  | rgfree (f : FA)
  /-- RGINIT (R258): Initialise a berth-ring descriptor. -/
  | rginit (f : FA)
  /-- PREF (R261): Prefetch a G line. -/
  | pref (f : FI)
  /-- TSPLIT (R242): Resize the tower's T space. -/
  | tsplit (f : FA)
  /-- CAS_S (R254): Compare and swap an S word. -/
  | casS (f : FA)
  /-- AMO_S (R255): Atomic operation on an S word. -/
  | amoS (f : FA)
  /-- LEASEQ (R262): Query the L1 lease expiry of a unit. -/
  | leaseq (f : FA)
  /-- WFULL (R252): Wait until a local word is full. -/
  | wfull (f : FA)
  /-- CPUB (R274): Publish code lines at a scope. -/
  | cpub (f : FA)
  /-- CPUBQ (R275): Place a publish command in the crane queue. -/
  | cpubq (f : FA)
  /-- IFENCE (R276): Order later fetches after earlier accesses. -/
  | ifence (f : FA)
  /-- IPATCH (R277): Write and publish one code parcel. -/
  | ipatch (f : FA)
  /-- SPAWN (R197): Submit a child manifest. -/
  | spawn (f : FA)
  /-- SPAWNW (R197): Submit a child manifest and fill g[d] when its subtree completes. -/
  | spawnw (f : FA)
  /-- YIELD (R198): Mark a yield point. -/
  | yield (f : FA)
  /-- RETIRE (R199): End the strand's part of its iteration. -/
  | retire (f : FA)
  /-- CBAR (R200): Arrive at the crew barrier or a completion barrier. -/
  | cbar (f : FA)
  /-- CBARQ (R201): Wait for a completion barrier to leave a phase. -/
  | cbarq (f : FA)
  /-- WSEQ (R202): Wait on a command queue's completion number. -/
  | wseq (f : FA)
  /-- ABORT (R203): End the launch with SW_ABORT. -/
  | abort (f : FU)
  /-- VLONG (R294): Move the crew into long vector mode. -/
  | vlong (f : FA)
  /-- VSHORT (R295): Return the crew to short mode. -/
  | vshort (f : FA)
  /-- SETVL (R296): Set the crew's vector length. -/
  | setvl (f : FA)
  /-- MSET (R297): Build a range mask. -/
  | mset (f : FA)
  /-- MPOP (R297): Count set mask bits. -/
  | mpop (f : FA)
  /-- VXCH (R298): Long-vector exchange with a peer. -/
  | vxch (f : FA)
  /-- VIDX (R297): Write element indices. -/
  | vidx (f : FA)
  /-- VLD (R308): Unit-stride vector load. -/
  | vld (f : FA)
  /-- VST (R308): Unit-stride vector store. -/
  | vst (f : FA)
  /-- VLDS (R308): Strided vector load. -/
  | vlds (f : FA)
  /-- VSTS (R308): Strided vector store. -/
  | vsts (f : FA)
  /-- VLDX (R308): Indexed vector load. -/
  | vldx (f : FA)
  /-- VSTX (R308): Indexed vector store. -/
  | vstx (f : FA)
  /-- VADD (R299): Element-wise add. -/
  | vadd (f : FA)
  /-- VSUB (R299): Element-wise subtract. -/
  | vsub (f : FA)
  /-- VMUL (R299): Element-wise multiply. -/
  | vmul (f : FA)
  /-- VMULH_I (R299): Signed high product. -/
  | vmulhI (f : FA)
  /-- VMULH_N (R299): Unsigned high product. -/
  | vmulhN (f : FA)
  /-- VFMA (R299): Element-wise fused multiply-add. -/
  | vfma (f : FA)
  /-- VDIV (R300): Signed or floating divide. -/
  | vdiv (f : FA)
  /-- VDIV_N (R300): Unsigned divide. -/
  | vdivN (f : FA)
  /-- VMIN (R299): Signed or floating minimum. -/
  | vmin (f : FA)
  /-- VMIN_N (R299): Unsigned minimum. -/
  | vminN (f : FA)
  /-- VMAX (R299): Signed or floating maximum. -/
  | vmax (f : FA)
  /-- VMAX_N (R299): Unsigned maximum. -/
  | vmaxN (f : FA)
  /-- VAND (R299): Vector and. -/
  | vand (f : FA)
  /-- VOR (R299): Vector or. -/
  | vor (f : FA)
  /-- VXOR (R299): Vector xor. -/
  | vxor (f : FA)
  /-- VANDN (R299): Vector and-not. -/
  | vandn (f : FA)
  /-- VORN (R299): Vector or-not. -/
  | vorn (f : FA)
  /-- VXNOR (R299): Vector xnor. -/
  | vxnor (f : FA)
  /-- VSHL (R299): Vector shift left. -/
  | vshl (f : FA)
  /-- VSHR (R299): Vector logical shift right. -/
  | vshr (f : FA)
  /-- VSAR (R299): Vector arithmetic shift right. -/
  | vsar (f : FA)
  /-- VCMP (R301): Vector compare into a mask. -/
  | vcmp (f : FA)
  /-- VSEL (R297): Select elements by m0. -/
  | vsel (f : FA)
  /-- VMOV (R297): Broadcast a g register. -/
  | vmov (f : FA)
  /-- VABS (R299): Element absolute value. -/
  | vabs (f : FA)
  /-- VNEG (R299): Element negation. -/
  | vneg (f : FA)
  /-- VEXP2 (R302): Element exp2. -/
  | vexp2 (f : FA)
  /-- VLOG2 (R302): Element log2. -/
  | vlog2 (f : FA)
  /-- VRECIP (R302): Element reciprocal. -/
  | vrecip (f : FA)
  /-- VSQRT (R302): Element square root. -/
  | vsqrt (f : FA)
  /-- VRSQRT (R302): Element reciprocal square root. -/
  | vrsqrt (f : FA)
  /-- VACT (R302): Element tanh or sigmoid. -/
  | vact (f : FA)
  /-- VPERM (R303): Permute by index vector. -/
  | vperm (f : FA)
  /-- VSLIDE (R303): Slide elements. -/
  | vslide (f : FA)
  /-- VCOMPRESS (R303): Compress active elements. -/
  | vcompress (f : FA)
  /-- VEXPAND (R303): Expand into active elements. -/
  | vexpand (f : FA)
  /-- VREDSUM (R304): Unordered sum reduction. -/
  | vredsum (f : FA)
  /-- VREDSUM_O (R304): Ordered sum reduction. -/
  | vredsumO (f : FA)
  /-- VREDMM (R304): Min or max reduction. -/
  | vredmm (f : FA)
  /-- VSCAN (R305): Inclusive scan. -/
  | vscan (f : FA)
  /-- VSORTKV (R306): Stable key-value sort. -/
  | vsortkv (f : FA)
  /-- VSEGRED (R307): Segmented sum. -/
  | vsegred (f : FA)
  /-- AMO_G (R331): Returning atomic at the home. -/
  | amoG (f : FA)
  /-- CAS_G (R331): Compare and swap at the home. -/
  | casG (f : FA)
  /-- RED_G (R332): Return-free integer reduction. -/
  | redG (f : FA)
  /-- FRED_G (R332): Return-free FP32 reduction. -/
  | fredG (f : FA)
  /-- FAMO_G (R331): Returning FP32 atomic. -/
  | famoG (f : FA)
  /-- VRED_G (R333): Vector scatter integer reduction. -/
  | vredG (f : FA)
  /-- VFRED_G (R333): Vector scatter FP32 reduction. -/
  | vfredG (f : FA)
  /-- RFENCE (R335): Wait for return-free reductions, then full fence. -/
  | rfence (f : FA)
  /-- RGRAIN (R324): Declare a range unit. -/
  | rgrain (f : FA)
  /-- RDROP (R324): Remove a range unit. -/
  | rdrop (f : FA)
  /-- GFLUSH (R336): Write back, optionally drop, dirty lines. -/
  | gflush (f : FA)
  /-- GQUERY (R337): Query a line's home state. -/
  | gquery (f : FA)
  /-- SEED (R352): Write a sign-seed slot. -/
  | seed (f : FA)
  /-- SEEDQ (R352): Read a sign-seed slot. -/
  | seedq (f : FA)
  /-- SRSEED (R352): Set the stochastic seed and reset EIDX. -/
  | srseed (f : FA)
  /-- RTAG (R352): Replace a rotation tag in a pointer. -/
  | rtag (f : FA)
  /-- CVTN (R355): Narrowing conversion. -/
  | cvtn (f : FA)
  /-- CVTN_F (R355): Fused FP32 to MXFP4 narrowing. -/
  | cvtnF (f : FA)
  /-- CVTW (R358): Widening conversion. -/
  | cvtw (f : FA)
  /-- CVTW_F (R358): Fused MXFP4 to FP32 widening. -/
  | cvtwF (f : FA)
  /-- QSCALE (R356): Compute block scales. -/
  | qscale (f : FA)
  /-- ROTV (R360): Rotate without narrowing. -/
  | rotv (f : FA)
  /-- UNROTV (R360): Inverse rotation without narrowing. -/
  | unrotv (f : FA)
  /-- CVTI (R361): Integer and ternary conversion. -/
  | cvti (f : FA)
  /-- MZERO (R372): Issue an accumulator zeroing command. -/
  | mzero (f : FA)
  /-- MLD (R372): Issue an accumulator load command. -/
  | mld (f : FA)
  /-- MST (R372): Issue an accumulator store command. -/
  | mst (f : FA)
  /-- MBAR (R382): Issue a matrix barrier arrival command. -/
  | mbar (f : FA)
  /-- MWAIT (R383): Wait on the own matrix queue. -/
  | mwait (f : FA)
  /-- MTR (R372): Issue a transpose command. -/
  | mtr (f : FA)
  /-- MROW (R372): Issue an accumulator row read command. -/
  | mrow (f : FA)
  /-- MRAMP (R390): Ask for a matrix grant and set the filler hold. -/
  | mramp (f : FA)
  /-- MTAG (R384): Build a descriptor format and tag word. -/
  | mtag (f : FA)
  /-- MSCL (R372): Issue an accumulator scaling command. -/
  | mscl (f : FA)
  /-- MMA (R372): Issue a matrix product command. -/
  | mma (f : FA)
  /-- MMA_C (R377): Issue a crew-cooperative product command. -/
  | mmaC (f : FA)
  /-- MMAS (R376): Issue a scaled product command. -/
  | mmas (f : FA)
  /-- MMAX (R377): Issue a scaled cooperative product command. -/
  | mmax (f : FA)
  /-- MACC (R372): Issue an accumulator add command. -/
  | macc (f : FA)
  /-- MCVT (R380): Issue an accumulator narrowing command. -/
  | mcvt (f : FA)
  /-- CRN (R399): Issue a crane copy. -/
  | crn (f : FA)
  /-- CRN_F (R403): Issue a copy with a follow-on matrix command. -/
  | crnF (f : FA)
  /-- CRN_T (R406): Issue a corner turn. -/
  | crnT (f : FA)
  /-- CRN_R (R405): Issue a berth-ring command. -/
  | crnR (f : FA)
  /-- CRNQ (R402): Read a value of the own crane queue. -/
  | crnq (f : FA)
  /-- CRNW (R402): Place a crane wait command. -/
  | crnw (f : FA)
  /-- CRN_X (R402): Cancel crane commands not yet begun. -/
  | crnX (f : FA)
  /-- CRN_C (R399): Issue a crane fill. -/
  | crnC (f : FA)
  /-- LD_B (R441): Load elements from a bead tensor. -/
  | ldB (f : FA)
  /-- ST_B (R441): Store elements to a bead tensor. -/
  | stB (f : FA)
  /-- BCALL (R442): Place a call of a bead entry. -/
  | bcall (f : FA)
  /-- BFENCE (R443): Wait on a bead queue. -/
  | bfence (f : FA)
  /-- BLOCK (R444): Place a row lock command. -/
  | block (f : FA)
  /-- BUNLK (R444): Place a row unlock command. -/
  | bunlk (f : FA)
  /-- BSEAL (R444): Place a row seal command. -/
  | bseal (f : FA)
  /-- BSTAT (R445): Read a bead channel status value. -/
  | bstat (f : FA)
  /-- BCSL (R446): Place a control-store load command. -/
  | bcsl (f : FA)
  /-- BSAVE (R447): Park the running entry or save work rows. -/
  | bsave (f : FA)
  /-- BREST (R447): Restore a parked entry or work rows. -/
  | brest (f : FA)
  /-- BWDOG (R448): Set a channel's watchdog interval. -/
  | bwdog (f : FA)
  /-- BMODE (R449): Place a bank mode command. -/
  | bmode (f : FA)
  /-- BPART (R450): Place a partition command. -/
  | bpart (f : FA)
  /-- BSCRUB (R451): Place a scrub command. -/
  | bscrub (f : FA)
  /-- MODULE_RESET (R489): Module reset is asserted while the 48 V input is below 42 V or the host asserts the CXL reset of port 0. -/
  | moduleReset
  /-- RESET_RELEASE (R489): After the input has held 44 V or more for 10 ms, reset is released, registers take their reset values and the boot sequencer starts. -/
  | resetRelease
  /-- TOWER_START (R490): The boot sequencer brings up the next tower's dies in order once the previous tower's lane die is up, and leaves a failed tower out of TUP. Operands: flag = the starts. -/
  | towerStart
  /-- BOOT_LAUNCH_START (R491): The sequencer copies firmware code and data, starts the tide and places the supervisor boot launch on tower 0 under the boot mapping. -/
  | bootLaunchStart
  /-- DOE_ATTEST_REQUEST (R495): A DOE object of type 0 carrying a nonce makes the module return a signed attestation report. Operands: value = the nonce. -/
  | doeAttestRequest
  /-- DOE_CERT_CHAIN (R495): A DOE object of type 1 returns the X.509 certificate chain of the device key. -/
  | doeCertChain
  /-- DOE_IMAGE_CHUNK (R496): A DOE object of type 2 writes a chunk of a firmware image into the staging area while BERR is 1. Operands: unit = the offset, bytes = the chunk. -/
  | doeImageChunk
  /-- DOE_IMAGE_DONE (R496): A DOE object of type 3 checks the staged header and, if it passes, continues boot at verification. -/
  | doeImageDone
  /-- READY_WRITE (R499): Firmware writes READY to 1, after which the pilots fetch launches and host HDM accesses complete normally. Operands: value = the value written. -/
  | readyWrite
  /-- ATTEST_START (R495): A supervisor write of ATGO starts building an attestation report over ATNONCE and sets ATBUSY. Operands: value = the value written. -/
  | attestStart
  /-- ATTEST_REPORT_DONE (R495): The finished report is written to ATDST as a release at module scope and ATBUSY returns to 0. -/
  | attestReportDone
  /-- FUSESVN_WRITE (R499): A supervisor write raises the fused rollback counter; a value below the current one is ignored. Operands: value = the value written. -/
  | fusesvnWrite
  /-- KEY_LOAD (R477): A write to KEYDATA offset 0x98 loads the two XTS keys into the key slot named by KSLOT. Operands: unit = the tower, value = the value written. -/
  | keyLoad
  /-- SHOOT_DOWN (R469): Writing SDGO starts a shoot-down of an ASID range across TLBs, walker caches and all cached copies. Operands: unit = the tower, value = the value written. -/
  | shootDown
  /-- SHOOT_DOWN_DONE (R469): When every covered entry and copy is dropped and every access translated under them is performed, the shoot-down completes and SDBUSY clears. Operands: unit = the tower. -/
  | shootDownDone
  /-- MIGRATION (R475): A write of MGGO, or the resolver, starts migrating one page to a new frame: drain, copy, rewrite the leaf by compare-and-swap, shoot down. Operands: unit = the tower. -/
  | migration
  /-- DUTY_WRITE (R485): A write of DUTY selects hardware or host-assisted mode for the four duties, and is ignored while any launch context is enabled. Operands: value = the value written. -/
  | dutyWrite
  /-- CONTEXT_ENABLE (R165): Writing EN of a launch context enables or stops fetching launches from its ring. Operands: unit = the ctx, value = the value written. -/
  | contextEnable
  /-- LAUNCH_DOORBELL (R482): A write of LRTAIL announces new launch records and acts as a system-scope acquire for the launch it admits. Operands: unit = the ctx, value = the value written. -/
  | launchDoorbell
  /-- CRHEAD_WRITE (R167): The host consumes completion records by writing CRHEAD, making room for a waiting completion record. Operands: unit = the ctx, value = the value written. -/
  | crheadWrite
  /-- COMPLETION_RING_RETARGET (R167): A write of CRBASE or CRLOG while a record is held makes the pilot retry writing the held completion record. Operands: unit = the ctx, flag = the isLog, value = the value written. -/
  | completionRingRetarget
  /-- FRHEAD_WRITE (R487): The host consumes fault records by writing FRHEAD, making room for a waiting fault record. Operands: value = the value written. -/
  | frheadWrite
  /-- FAULT_ANSWER (R487): The host writes RSEQ and RSTAT to answer a page-fault or lighter-growth record as resolved or unresolvable. Operands: value = the value written. -/
  | faultAnswer
  /-- CSL_LOAD_COMMAND (R486): In host-assisted mode a write of CSLQ places a bcsl command loading the image at CSLADDR into the named channel. Operands: value = the value written. -/
  | cslLoadCommand
  /-- REGISTER_WRITE (R8): A write to a register field that has no behaviour of its own stores the value under its access type. Operands: unit = the offset, value = the value written. -/
  | registerWrite
  /-- LAUNCH_FETCH (R165): With EN set, RUN clear and LRTAIL above LRHEAD, the pilot reads the next launch record with strong loads and checks it. Operands: unit = the ctx. -/
  | launchFetch
  /-- MANIFEST_ADMIT (R165): A checked launch manifest is admitted to a tower pool once the pool holds fewer than 960 pending manifests. Operands: unit = the ctx. -/
  | manifestAdmit
  /-- MANIFEST_READY (R168): A manifest becomes ready when every dependence queue's completion number reaches its sequence number, acquiring those commands' effects. Operands: unit = the mid. -/
  | manifestReady
  /-- ITERATION_PLACE (R169): The pilot starts an iteration of a ready manifest on a free crew of slots and loads the initial strand state. Operands: unit = the mid, slots = the slots. -/
  | iterationPlace
  /-- LIGHTER_FETCH_BACK (R178): The pilot fetches the oldest lighter-queue entry back into its tower's pool once the pool has room. Operands: unit = the ctx. -/
  | lighterFetchBack
  /-- COMPLETION_RECORD_WRITE (R167): When a launch completes or ends the pilot writes its completion record as a system-scope release, advances CRTAIL and LRHEAD and clears RUN. Operands: unit = the ctx. -/
  | completionRecordWrite
  /-- AGING_TICK (R175): Each AGE times 1,024 tide ticks without a placement lower a ready manifest's effective priority by one. Operands: unit = the mid. -/
  | agingTick
  /-- PREEMPT_REQUEST (R183): The pilot asks a crew to stop by sending a class-0 signal to every strand. Operands: unit = the crew. -/
  | preemptRequest
  /-- STRAND_STOP (R183): A signalled strand stops at its next yield point. Operands: unit = the slot. -/
  | strandStop
  /-- FRAME_WRITE (R186): After all strands have stopped and the crew's queues have completed, the pilot writes the crew's frame and frees its slots. Operands: unit = the crew. -/
  | frameWrite
  /-- CREW_SUSPEND (R190): An unresolved page fault stops every strand of the crew, waits for its queues, saves the frame with MID set and frees the slots. Operands: unit = the crew. -/
  | crewSuspend
  /-- CREW_RESUME (R191): When its pages arrive, a saved crew is restored on a crew of the same size, its pending stores are re-issued and REPIN is incremented. Operands: unit = the crew, slots = the slots. -/
  | crewResume
  /-- LAUNCH_END (R192): A fatal fault stops every crew of the launch, drains its queues, discards pending manifests and frames, and writes the completion record. Operands: unit = the ctx, sub = the which. -/
  | launchEnd
  /-- PREEMPT_LIMIT (R185): When a strand's retired-instruction count would exceed PLIM times 4,096, the instruction raises PREEMPT_LIMIT instead of executing. -/
  | preemptLimit
  /-- FULL_EMPTY_WAKE (R35): A fill or empty of a word or register that ends a wait wakes the waiting strand, by class-0 message for C space. Operands: unit = the slot. -/
  | fullEmptyWake
  /-- BARRIER_WAKE (R30): A class-0 wake-up reaches a strand waiting on a completion barrier in cbarq. Operands: unit = the slot. -/
  | barrierWake
  /-- VECTOR_CAPACITY_GRANT (R289): A waiting vlong request is granted long-vector file capacity once enough is free. Operands: unit = the crew. -/
  | vectorCapacityGrant
  /-- TIDE_TICK (R140): The module-wide tide counter rises by one. -/
  | tideTick
  /-- LEASE_EXPIRY (R319): When the tide reaches a unit's LEXP, an operation held under HOLD is performed and HOLD clears. Operands: unit = the req. -/
  | leaseExpiry
  /-- HOME_READ_REQUEST (R319): A read request at a home slice is served with a new lease, once without a lease under HOLD, or waits. Operands: unit = the req, serve = the serve. -/
  | homeReadRequest
  /-- HOME_WEAK_STORE (R142): A weak store is performed at the home on arrival. Operands: unit = the req, slots = the order of the elements that stand with it (R138). -/
  | homeWeakStore
  /-- HOME_STRONG_WRITE (R142): A strong, release or CXL write at the home sets HOLD and waits until no unexpired lease covers its unit. Operands: unit = the req, slots = the order of the elements that stand with it (R138). -/
  | homeStrongWrite
  /-- HOME_ATOMIC (R326): A memory port's write-queue entry applies a read-modify-write or reduction to its line as one event once the unit is free. Operands: unit = the req. -/
  | homeAtomic
  /-- LINE_FILL_DONE (R321): When an in-flight line is ready, the slice serves its recorded requests and then the spilled ones in arrival order. Operands: unit = the line. -/
  | lineFillDone
  /-- PAGE_WALK (R461): A request that misses its TLB is translated by a walker and checked in order for noncanonical, not-present, malformed and permission faults. Operands: unit = the req. -/
  | pageWalk
  /-- HW_FAULT_RESOLVE (R470): The hardware resolver handles a non-present entry by its KIND: zero-fill, copy a moved page, or send the fault to the host. Operands: unit = the fault. -/
  | hwFaultResolve
  /-- FAULT_RECORD_POST (R487): The module writes a fault record to the fault ring as a system-scope release once the ring has room. Operands: unit = the fault. -/
  | faultRecordPost
  /-- HOST_MEM_READ (R480): A host or peer CXL.mem read reaches a module place through the HDM window. Operands: unit = the offset, sub = the len. -/
  | hostMemRead
  /-- HOST_MEM_WRITE (R481): A host or peer CXL.mem write is performed at the line's home as a strong write. Operands: unit = the offset, bytes = the bytes. -/
  | hostMemWrite
  /-- HOST_SNOOP (R481): A host snoop to a host line the module caches is answered once every lease on the unit has expired. Operands: unit = the line, sub = an offset in it, bytes = what the host then stores there. -/
  | hostSnoop
  /-- CXL_PORT_TRAIN (R479): A CXL port trains as a x16 CXL 3.x link, or fails and leaves the module usable on the others. Operands: unit = the port, flag = the up. -/
  | cxlPortTrain
  /-- POWER_CAP_EXCEED (R500): While PNOW exceeds PCAP the module lowers its arithmetic clock in steps, and restores it when PNOW falls below. Operands: value = the power in watts. -/
  | powerCapExceed
  /-- THERMAL_WARNING (R502): A layer reaching its warning temperature makes the tower lower its clock. Operands: unit = the tower, flag = the warm. -/
  | thermalWarning
  /-- LANE_DIE_TRIP (R502): A lane die at its trip temperature stops and every launch with a crew in the tower ends with MC_THERM_LANE. Operands: unit = the tower. -/
  | laneDieTrip
  /-- LANE_DIE_RESTART (R502): A tripped lane die restarts when it is 20 degrees below its trip temperature. Operands: unit = the tower. -/
  | laneDieRestart
  /-- RC_DIE_TRIP (R502): A register-and-cache die trip sheds stranded lines, ends the tower's launches with MC_THERM_RC and removes the tower from TUP. Operands: unit = the tower. -/
  | rcDieTrip
  /-- BASE_DIE_TRIP (R502): A base die trip acts as a register-and-cache die trip with MC_THERM_BASE. Operands: unit = the tower. -/
  | baseDieTrip
  /-- DRAM_LAYER_TRIP (R339): A DRAM layer trip saves bead state and enters emergency self-refresh; its dirty lines become stranded and accesses wait. Operands: unit = the tower, sub = the layer, 1 to 16. -/
  | dramLayerTrip
  /-- DRAM_LAYER_RETURN (R339): When a tripped layer returns, slices write back stranded lines and serve the waiting requests in arrival order. Operands: unit = the tower, sub = the layer, 1 to 16. -/
  | dramLayerReturn
  /-- OUTER_MEMORY_TRIP (R502): An outer-memory chiplet trip enters self-refresh and accesses homed there wait. Operands: unit = the chiplet. -/
  | outerMemoryTrip
  /-- IO_CHIPLET_TRIP (R502): An I/O chiplet trip takes its CXL port down and logs MC_CXL. Operands: unit = the port. -/
  | ioChipletTrip
  /-- DRAM_UE (R503): An uncorrectable stacked-DRAM error poisons the word and raises MC_DRAM_UE. Operands: unit = the place, flag = an access of a strand met it, sub = its slot. -/
  | dramUe
  /-- SRAM_UE (R503): An uncorrectable error in L2, T, S, C, registers or control stores raises MC_SRAM_UE. Operands: unit = 0 a memory word, 1 the registers of a strand, 2 a control store; sub = the place, the slot, the chan; flag = an access of a strand met the word, value = its slot. -/
  | sramUe
  /-- CACHE_PARITY_ERROR (R503): A parity error in an L1, instruction cache or loop buffer drops the copy, which is fetched again. Operands: unit = the copy. -/
  | cacheParityError
  /-- LINK_FAIL (R503): A mesh, UCIe or CXL link failing beyond retry raises MC_LINK or MC_CXL. Operands: unit = 1 for a CXL link, flag = an access of a strand is lost, sub = its slot. -/
  | linkFail
  /-- PATROL_SCRUB (R503): Patrol scrub reads G rows of stacked DRAM, correcting single errors and poisoning uncorrectable ones. Operands: unit = the place, flag = the uncorrectable. -/
  | patrolScrub
  /-- MATRIX_GRANT (R388): A ready matrix unit is granted in the earliest cycle the four-cycle change spacing allows, by crew index. Operands: unit = the cluster. -/
  | matrixGrant
  /-- MATRIX_RELEASE_REQUEST (R389): A granted unit that has run its hold of consecutive filler steps asks for release. Operands: unit = the core. -/
  | matrixReleaseRequest
  /-- MATRIX_RELEASE (R389): A unit waiting for release is released in the earliest cycle the change spacing allows. Operands: unit = the cluster. -/
  | matrixRelease
  /-- MATRIX_PRODUCT_EXEC (R375): A product command checks its descriptors and computes promoted group sums into its accumulator. Operands: unit = the slot. -/
  | matrixProductExec
  /-- MZERO_EXEC (R379): An mzero command zeroes every element of the accumulator. Operands: unit = the slot. -/
  | mzeroExec
  /-- MLD_EXEC (R379): An mld command loads a tile into the accumulator. Operands: unit = the slot. -/
  | mldExec
  /-- MST_EXEC (R379): An mst command claims its destination and stores the accumulator as FP32 or BF16. Operands: unit = the slot. -/
  | mstExec
  /-- MBAR_ARRIVE (R382): An mbar command arrives at its barrier once every earlier command of its queue has completed. Operands: unit = the slot. -/
  | mbarArrive
  /-- MTR_EXEC (R381): An mtr command transposes a source tile into a destination tile. Operands: unit = the slot. -/
  | mtrExec
  /-- MROW_EXEC (R379): An mrow command copies one accumulator row into a v register and fills it. Operands: unit = the slot. -/
  | mrowExec
  /-- MSCL_EXEC (R379): An mscl command multiplies every accumulator element by an FP32 factor. Operands: unit = the slot. -/
  | msclExec
  /-- MACC_EXEC (R379): A macc command adds one accumulator into the other element by element. Operands: unit = the slot. -/
  | maccExec
  /-- MCVT_EXEC (R380): An mcvt command narrows a whole accumulator into a group of v registers. Operands: unit = the slot. -/
  | mcvtExec
  /-- COPY_EXEC (R400): A crane copy checks its ranges, claims its destination, moves its elements and completes. Operands: unit = the slot, sub = the seq. -/
  | copyExec
  /-- FILL_EXEC (R400): A crane fill writes its pattern over the destination range. Operands: unit = the slot, sub = the seq. -/
  | fillExec
  /-- CORNER_TURN_EXEC (R406): A crane corner turn moves elements between an array and a bead tensor's bit planes. Operands: unit = the slot, sub = the seq. -/
  | cornerTurnExec
  /-- RING_COPY_EXEC (R405): A crane ring command claims or takes a berth slot, copies one slot of data and posts or frees it. Operands: unit = the slot, sub = the seq. -/
  | ringCopyExec
  /-- CRANE_WAIT_DONE (R402): A crnw wait command completes when the named queue's completion number reaches its target. Operands: unit = the slot, sub = the seq. -/
  | craneWaitDone
  /-- PUBLISH_COMMAND_EXEC (R275): A cpubq command publishes its range after every earlier command of the crane queue has completed. Operands: unit = the slot, sub = the seq. -/
  | publishCommandExec
  /-- BEAD_ENTRY_RUN (R428): A bcall command at the head of its bead queue claims its row set, checks locks and starts its microprogram. Operands: unit = the chan. -/
  | beadEntryRun
  /-- ACT (R423): Micro-word that reads a row into the latch. Operands: unit = the chan. -/
  | actWord
  /-- AAP (R423): Micro-word that copies row A into row B and the latch. Operands: unit = the chan. -/
  | aapWord
  /-- TRA (R423): Micro-word that writes the majority of three rows into all three. Operands: unit = the chan. -/
  | traWord
  /-- CSL (R423): Micro-word that writes the latch shifted left by one column. Operands: unit = the chan. -/
  | cslWord
  /-- CSR (R423): Micro-word that writes the latch shifted right by one column. Operands: unit = the chan. -/
  | csrWord
  /-- REP (R423): Micro-word that repeats a body on a counter. Operands: unit = the chan. -/
  | repWord
  /-- BRF (R423): Micro-word that branches on the pass of a counter. Operands: unit = the chan. -/
  | brfWord
  /-- WAIT (R423): Micro-word that waits until every running bank has completed every earlier word. Operands: unit = the chan. -/
  | waitWord
  /-- END (R428): Micro-word that ends the entry, optionally seals the written rows, releases the row set and completes the command. Operands: unit = the chan. -/
  | endWord
  /-- BEAD_REFRESH (R430): The reckoner refreshes a bank in compute mode at a refresh-safe boundary. Operands: unit = the chan, sub = the bank. -/
  | beadRefresh
  /-- BEAD_WATCHDOG_EXPIRE (R433): An entry whose run count reaches WD stops, expires its rows, leaves compute mode and sends a watchdog notice. Operands: unit = the chan. -/
  | beadWatchdogExpire
  /-- BANK_POWER_DOWN (R437): An idle bank in power-down-allowed mode saves its work rows and entry state and powers down. Operands: unit = the chan, sub = the bank. -/
  | bankPowerDown
  /-- BLOCK_EXEC (R444): A block command locks its rows under KEY, or faults BEAD_LOCKED and locks none. Operands: unit = the chan. -/
  | blockExec
  /-- BUNLK_EXEC (R444): A bunlk command unlocks its rows locked under KEY. Operands: unit = the chan. -/
  | bunlkExec
  /-- BSEAL_EXEC (R444): A bseal command seals its unsealed and expired rows. Operands: unit = the chan. -/
  | bsealExec
  /-- BCSL_EXEC (R446): A bcsl command replaces the channel's control store and entry table as one event. Operands: unit = the chan. -/
  | bcslExec
  /-- BMODE_EXEC (R449): A bmode command puts a bank in normal, compute or power-down-allowed mode. Operands: unit = the chan. -/
  | bmodeExec
  /-- BPART_EXEC (R450): A bpart command assigns or returns a subarray, zeroing, sealing and unlocking its rows. Operands: unit = the chan. -/
  | bpartExec
  /-- BSCRUB_EXEC (R451): A bscrub command scrubs its sealed rows, correcting or poisoning them. Operands: unit = the chan, flag = a row holds an uncorrectable error, sub = the row. -/
  | bscrubExec
  /-- PADDING_HALF (R50): A high half of exactly 0x0003 does nothing. -/
  | paddingHalf
  /-- ILL_OPC (R71): A strand reaches a parcel that is 0x0000_0000, has an unassigned opcode, or is an illegal compressed or padding half, and raises ILL_OPC. -/
  | illOpc
  /-- DATA_RETURN (R34): A result that arrives after issue, such as a load's data, an atomic's old value or a vector or rotator result, is written into its destination register, which becomes full. Operands: unit = the ret. -/
  | dataReturn
  /-- LOGHEAD_WRITE (R499): A supervisor write of LOGHEAD consumes log records and makes room for a log record that waits on a full log ring. Operands: value = the value written. -/
  | logheadWrite
  /-- OUTER_MEMORY_RETURN (R502): An outer-memory chiplet leaves self-refresh after a trip, and the accesses homed on it that were waiting proceed. Operands: unit = the chiplet. -/
  | outerMemoryReturn
deriving DecidableEq, Repr

end Sys2Proof
end

