-- ==== Sys2Proof/Config.lean ====
section
/-! DEFINITION. Config.lean: what an implementation fixes (00 R1, R2; 17 R497), and the values and choices the
spec leaves open. Each is a constant without a body: nothing in Lean can say what it is. -/

namespace Sys2Proof.Config

/-! ## Implementation parameters and fused identity (17 R497, R498) -/

/-- TIDEHZ: tide ticks per second (06 R208), 100,000,000 to 1,000,000,000 (17 R498). -/
opaque tideParam : Nat
def tideHz : BitVec 64 := BitVec.ofNat 64 (100000000 + tideParam % 900000001)
/-- CLKHZ. -/
opaque clkHz : BitVec 64
/-- STEP, BUILD (1 or 2: the foundry build) and SERIAL of the identity block (17 R497). -/
opaque stepping : BitVec 8
opaque secondBuild : Bool
def build : BitVec 8 := if secondBuild then 2 else 1
opaque serial : BitVec 64
/-- TLBENT, at least 256; SLMISS, at least 16; LVLANES, a power of two up to 64; IGW, 1 to 8 (17 R498). -/
opaque tlbParam : BitVec 16
opaque missParam : BitVec 16
opaque lanesParam : Nat
opaque groupParam : Nat
def tlbEnt : BitVec 16 := if tlbParam.toNat < 256 then 256 else tlbParam
def slMiss : BitVec 16 := if missParam.toNat < 16 then 16 else missParam
def lvLanes : BitVec 8 := BitVec.twoPow 8 (lanesParam % 7)
def igw : BitVec 8 := BitVec.ofNat 8 (1 + groupParam % 8)
/-- The command-queue entries BQENT, CQENT, MQENT (01 R24: at least 16). -/
opaque bqParam : BitVec 16
opaque cqParam : BitVec 16
opaque mqParam : BitVec 16
/-- Hardware entries of a command queue: at least 16 (01 R24), as a field of 16 bits shows them (17 R498). -/
def bqEnt : Nat := max 16 bqParam.toNat
def cqEnt : Nat := max 16 cqParam.toNat
def mqEnt : Nat := max 16 mqParam.toNat
/-- OUTBW and DRAMBW. -/
opaque outBw : BitVec 64
opaque dramBw : BitVec 64

/-- The L2 slice, modulo 64, of a tower that a virtual address chooses (15 R467); the memory port beside it has its number
modulo 32. -/
opaque sliceFor : BitVec 64 → Nat

/-! ## Free values -/

/-- A 64-bit value the spec leaves open, the n-th one drawn (log 2). -/
opaque freeWord : Nat → BitVec 64
/-- The signature over a report, and the certificate chain, of the device key, which derives from a fused secret and the
firmware measurement (17 R495): the measurement, and for the signature the report. -/
opaque sign : BitVec 256 → List (BitVec 8) → List (BitVec 8)
opaque certChain : BitVec 256 → List (BitVec 8)
/-- The trusted HSS public key, whose digest is fused (17 R494). -/
opaque trustedKey : List (BitVec 8)

end Sys2Proof.Config
end

