-- ==== Sys2Proof/Machine/Sparse.lean ====
section
/-! DEFINITION. Sparse.lean: data by key in one canonical form: keys strictly rising, no entry equal to what an
unlisted key reads as. Memory is such a list of `Host.Cell`. -/

namespace Sys2Proof.Machine

/-- Key and value pairs; a key that is not listed holds the default given to each operation. -/
abbrev Sparse (α : Type) := List (Nat × α)

/-- The value under a key. -/
def sget {α : Type} (dflt : α) : Sparse α → Nat → α
  | [], _ => dflt
  | (j, v) :: m, k => if j = k then v else if k < j then dflt else sget dflt m k

/-- Put an entry, or none, in place of a key's entry. -/
def sput {α : Type} (e : Option α) : Sparse α → Nat → Sparse α
  | [], k => match e with
    | some v => [(k, v)]
    | none => []
  | (j, w) :: m, k =>
    if j = k then match e with
      | some v => (k, v) :: m
      | none => m
    else if k < j then match e with
      | some v => (k, v) :: (j, w) :: m
      | none => (j, w) :: m
    else (j, w) :: sput e m k

/-- Set a key's value; the default is not listed. -/
def sset {α : Type} [DecidableEq α] (dflt : α) (m : Sparse α) (k : Nat) (v : α) : Sparse α :=
  sput (if v = dflt then none else some v) m k

/-- Every entry's key is above `lo`, keys rise, and no entry holds the default. -/
def swfFrom {α : Type} [DecidableEq α] (dflt : α) (lo : Option Nat) : Sparse α → Bool
  | [] => true
  | (j, v) :: m =>
    (match lo with
      | some l => l < j
      | none => true) && v != dflt && swfFrom dflt (some j) m

/-- The canonical form. -/
def swf {α : Type} [DecidableEq α] (dflt : α) (m : Sparse α) : Bool := swfFrom dflt none m

end Sys2Proof.Machine
end

