-- ==== Sys2Proof/Machine/State.lean ====
section
/-! DEFINITION. State.lean: the module's state as plain data, and its state right after reset.
Strands (06 R204, R208 to R211), command queues (01 R24 to R26), crews, manifests and launch contexts (05), the
memory system (04, 07, 08, 10, 15), bead channels (14), module registers and boot (16, 17). -/

namespace Sys2Proof.Machine

/-! ## The model's own: turns -/

/-- Who moves next (log 1). A strand's turn may be served by lines it has fetched ahead (08 R264, R270); a cache may drop
a copy (log 29) and write a dirty line back; a part of a strand's instruction may be done ahead of the rest (08 R274, 07 R251,
04 R127); a tower writes a report of use to a leaf (15 R473); a host cache gives a line up (16 R481). -/
inductive Turn where
  | strand (slot : Nat) (ahead : Bool)
  | fetchAhead (slot : Nat) (addr : Word)
  | evict (copy : Nat)
  | writeBack (line : Nat)
  | publish (slot line : Nat)
  | useReport (tower : Nat)
  | hostDrop (line : Nat)
  | keepWalk (tower : Nat) (asid : BitVec 16) (va : Word) (how : Nat)
  | dropWalk (leaf : Bool) (n : Nat)
  | event (i : Instr) (args : EventArgs)
  | cycle
deriving DecidableEq, Repr, Inhabited

/-! ## Strands -/

/-- One active level of the loop stack (06 R204); `down` is its direction (06 R215). -/
structure LoopLevel where
  start : Word
  stop : Word
  count : Word
  index : Word
  down : Bool
deriving DecidableEq, Repr

/-- Who issued a command or an access: the launch context, the crew, the strand's index in it, its address space,
whether it ran user code, and where it was placed then; its manifest and its iteration's loop indices (05 R166). -/
structure Issuer where
  ctx : Nat := 0
  crew : Nat := 0
  idx : Nat := 0
  asid : BitVec 16 := 0
  user : Bool := true
  slot : Nat := 0
  mid : BitVec 32 := 0
  indices : List (BitVec 32) := []
deriving DecidableEq, Repr

/-- Where an element of a command lies: its address, its place, its key slot, and what its page grants. -/
structure Spot where
  va : Word
  place : Nat
  key : Nat := 0
  user : Bool := true
  read : Bool := true
  fetch : Bool := false
deriving DecidableEq, Repr

/-- The queue an identifier names (01 R27, R28): a strand's crane or matrix queue, or a bead channel of the module. -/
inductive QueueRef where
  | crane (crew idx : Nat)
  | matrix (crew idx : Nat)
  | bead (chan : Nat)
deriving DecidableEq, Repr

/-- One command of a queue (01 R24, R25): its instruction with the operands captured at issue. It follows the accesses
of its strand issued before it, those numbered below `born` (01 R39); `pageWait` is a page it waits for; `stage` is 0
before it begins, 1 once it has begun (12 R374), 2 while a product's array steps run (12 R369); `bar` is the place of the
barrier it arrives at, `after` the crane number of the copy a follow-on still waits for, `spoiled` the fault of that copy
(13 R403), `scope` that of its issue edge (04 R129), `inT` are the spans of its operands in T space once they have been checked (07 R243); `moved` are the elements it has moved, `descs` the descriptors it has read, by address (12 R366), `seen` the source elements
it has read, by place (04 R147);
`ticket` is its request in a ring's arrival queue, `slot` the ring slot it has been given (13 R405). -/
structure Cmd where
  seq : Nat
  pc : Word
  who : Issuer
  op : Instr
  args : List Word := []
  bytes : List Byte := []
  born : Nat := 0
  pageWait : Option Word := none
  stage : Nat := 0
  bar : Option Nat := none
  after : Nat := 0
  spoiled : Option (BitVec 8 × Word) := none
  scope : Nat := 3
  inT : List (Nat × Nat) := []
  moved : List Nat := []
  descs : List (Word × List Byte) := []
  seen : List (Nat × List Byte) := []
  ticket : Nat := 0
  slot : Option Word := none
  cancelled : Bool := false
  done : Bool := false
deriving DecidableEq, Repr

/-- A latched fault (01 R25): code, sequence number, fault address, PC of the issuing instruction. -/
structure Latch where
  code : BitVec 8
  seq : Nat
  addr : Word
  pc : Word
deriving DecidableEq, Repr

/-- A command queue (01 R24, R25). -/
structure Queue where
  issue : Nat := 0
  completion : Nat := 0
  latch : Option Latch := none
  cmds : List Cmd := []
deriving DecidableEq, Repr

/-- What a strand waits on between turns: a place in the arrival queue of a word or ring (07 R250), a completion
barrier's wake-up (05 R201), a peer's exchange (07 R256: the peer's index, q fields d and a, the type code), or a
condition it tests again at its turn (05 R181). `sent` says that the wake-up is on its way (01 R35, R30). -/
inductive Wait where
  | queued (id : Nat) (sent : Bool)
  | barrier (place : Nat) (sent : Bool)
  | exchange (peer : Nat) (d a : Nat) (ty : Nat) (len : Nat)
  | retry
deriving DecidableEq, Repr

/-- A line fetched ahead of execution (08 R264, R270), virtual and physical: `fresh` are its halfwords whose instructions
are fetched and not yet executed; others serve, from the loop buffer, only under an unexpired lease; `user` says that the page
grants U. -/
structure FetchLine where
  vline : Nat
  line : Nat
  user : Bool
  data : List Byte
  expiry : Nat
  fresh : BitVec 64 := BitVec.allOnes 64
  mask : BitVec 16 := BitVec.allOnes 16
deriving DecidableEq, Repr

/-- A strand (06 R204): its registers, full/empty bits, loop stack, control registers and queues; `arrival` is the
collective it waits in (09 R294 to R296: 0 vlong, 1 vshort, 2 setvl), with its operand and destination; `since` are the
strands of its core that have issued since it last did (06 R213); `cleared` are the lines that its cpub has published so
far (08 R274), `looped` the instructions that its core's loop buffer holds for it (08 R264, R270), and `looked` the words it
has read ahead for the instruction it executes (04 R127); `cur` is that instruction, with its length, once it has had a part of its
effect (08 R266); `masks` is the yield-table entry under whose masks its frame is written (05 R182, R187); `taint` are the loads that the values of its registers depend on, by spans of their names (Depend.lean), and `ctl` those
that a branch of it has (04 R137). -/
structure Strand where
  slot : Nat := 0
  crew : Nat := 0
  idx : Nat := 0
  pc : Word := 0
  g : Vector Word 32 := Vector.replicate 32 0
  gFull : BitVec 32 := BitVec.allOnes 32
  q : List (List Byte) := List.replicate 32 (List.replicate 32 0)
  qFull : BitVec 32 := BitVec.allOnes 32
  v : List (List Byte) := []
  vFull : BitVec 64 := BitVec.allOnes 64
  m : List (List Bool) := List.replicate 32 true :: List.replicate 7 (List.replicate 32 false)
  acc0 : Sparse (BitVec 32) := []
  acc1 : Sparse (BitVec 32) := []
  sd : Vector Word 16 := Vector.replicate 16 0
  loops : List LoopLevel := []
  tld : Nat := 0
  long : Bool := false
  inTrap : Bool := false
  pPriv : Bool := false
  priv : Bool := false
  tvec : Word := 0
  tpc : Word := 0
  taddr : Word := 0
  tkind : BitVec 2 := 0
  tcode : BitVec 8 := 0
  eidx : Word := 0
  srs : Word := 0
  rot : BitVec 4 := 0
  rmode : BitVec 3 := 1
  vl : Nat := 0
  pcnt : Nat := 0
  retired : Bool := false
  stopReq : Bool := false
  stopped : Bool := false
  ended : Bool := false
  wait : Option Wait := none
  barPhase : Option (BitVec 32) := none
  arrival : Option (Nat × Word × Nat) := none
  pageWait : Option Word := none
  pageCode : BitVec 8 := 0x10
  ytHit : Bool := false
  masks : Option (List Byte) := none
  mq : Queue := {}
  cq : Queue := {}
  ahead : List FetchLine := []
  looped : List Word := []
  since : BitVec 8 := 0
  cleared : List Nat := []
  looked : List (Word × List Byte) := []
  cur : Option (Instr × Nat) := none
  taint : List ((Nat × Nat) × List Nat) := []
  ctl : List Nat := []
deriving DecidableEq, Repr

/-! ## Crews, manifests, launches -/

/-- A pending-store record's access (05 R188) is a request kept while its crew is saved. A crew (05 R169 to R172). -/
structure Crew where
  id : Nat := 0
  mid : BitVec 32 := 0
  ctx : Nat := 0
  asid : BitVec 16 := 0
  size : Nat := 1
  isLocal : Bool := false
  towers : BitVec 16 := 0
  plim : Nat := 0
  code : Word := 0
  ytab : Word := 0
  ycnt : Nat := 0
  indices : List (BitVec 32) := []
  barPhase : BitVec 32 := 0
  arrived : List Nat := []
  vlGrant : Nat := 0
  vlAsked : Option Nat := none
  vlAskedAt : Nat := 0
  repin : Word := 0
  stopReq : Bool := false
  suspended : Bool := false
  saved : Bool := false
  cores : List Nat := []
  frame : Nat := 0
  frameLen : Nat := 0
deriving DecidableEq, Repr

/-- A manifest (05 R159 to R162). `spawner` and `ret` are the strand and the register of a spawnw to which its completion
is reported (R197); `deps` are its dependences, resolved at acceptance (01 R27). -/
structure Manifest where
  mid : BitVec 32
  ctx : Nat
  record : List Byte
  tower : Nat
  towers : BitVec 16
  parent : Option (BitVec 32) := none
  ret : Option Nat := none
  deps : List (QueueRef × Nat) := []
  spawner : Issuer := {}
  next : Nat := 0
  running : Nat := 0
  kids : Nat := 0
  ready : Bool := false
  prio : Nat := 0
  ageFrom : Nat := 0
  placedAt : Nat := 0
  born : Nat := 0
  done : Bool := false
deriving DecidableEq, Repr

/-- One fault a completion record may describe (05 R166, R193). -/
structure FaultRec where
  code : BitVec 8
  strand : BitVec 8 := 0xFF
  mid : BitVec 32 := 0
  pc : Word := 0
  addr : Word := 0
  tower : Nat := 0
  user : BitVec 16 := 0
  indices : List (BitVec 32) := []
deriving DecidableEq, Repr

/-- A launch in progress (05 R158, R165 to R167): what its pilot has read, its root's dependences, the faults that
occurred in it, and the completion record once it is due. -/
structure Launch where
  root : BitVec 32 := 0
  record : Option (List Byte) := none
  deps : List (QueueRef × Nat) := []
  admitted : Bool := false
  tag : Word := 0
  born : Nat := 0
  ending : Bool := false
  faults : List FaultRec := []
  completion : Option (List Byte) := none
deriving DecidableEq, Repr

/-- A launch context's registers (05 R164, 16 R484), its launch, its lighter queue (05 R178), and
whether its pilot waits for a page of that, `lqWait`. -/
structure Ctx where
  asid : BitVec 16 := 0
  en : Bool := false
  run : Bool := false
  lrbase : Word := 0
  lrlog : BitVec 5 := 0
  lrtail : Word := 0
  lrhead : Word := 0
  crbase : Word := 0
  crlog : BitVec 5 := 0
  crtail : Word := 0
  crhead : Word := 0
  lqbase : Word := 0
  lqlog : BitVec 5 := 0
  frbase : Word := 0
  frsize : Word := 0
  chbase : Word := 0
  chsize : Word := 0
  cien : Bool := false
  launch : Option Launch := none
  lighter : List (BitVec 32) := []
  lqTail : Nat := 0
  held : Bool := false
  retry : Bool := false
  pageWait : Option Word := none
  lqWait : Option Word := none
deriving DecidableEq, Repr

/-! ## The memory system -/

/-- The spaces an access may name (04 R124), with the core or tower that holds it; bead space (14 R452); and the register
window (17 R488). -/
inductive Space where
  | s (core : Nat)
  | c (core : Nat)
  | t (tower : Nat)
  | g
  | b
  | win
deriving DecidableEq, Repr

/-- Access kinds (04 R131). -/
inductive Kind where
  | weak
  | strong
  | acq
  | rel
deriving DecidableEq, Repr

/-- What an access does where it is performed: a load of `n` bytes, sign-extended or not, a store, a read-modify-write
(07 R254, R255; 10 R331, R332), a fence (07 R253), a lane access to the element of a bead tensor at a rod, whose container
has `w` bytes (14 R441), or a strand's arrival at a completion barrier (05 R200). -/
inductive ReqOp where
  | load (n : Nat) (signed : Bool)
  | store (data : List Byte)
  | amo (fn : Nat) (n : Nat) (v : Word)
  | cas (n : Nat) (c v : Word)
  | famo (fn : Nat) (v : Word)
  | fence (fn : Nat) (scope : Nat)
  | laneLoad (p : Word) (rod w : Nat)
  | laneStore (p : Word) (rod : Nat) (v : Int)
  | arrive
deriving DecidableEq, Repr

/-- An access that has been issued and not yet performed (04 R131 to R143, 10 R319 to R326). The list of them is in
issue order. `place` is where it goes once translated; `key` is the leaf's key slot; `held` says that it set HOLD, and
`arrived`, unless 0, when it began to wait at its home; the accesses of one vector instruction, or of one ldq or stq,
share their `group`; `deps` are the loads that a branch before it, its address or its data depend on (R137), and
`again` says that it has been issued again after its crew was saved (05 R191). -/
structure Req where
  id : Nat
  who : Issuer
  pc : Word
  op : ReqOp
  kind : Kind
  space : Space
  addr : Word
  place : Option Nat := none
  key : Nat := 0
  pageUser : Bool := false
  ret : Option (Nat × Nat) := none
  vector : Bool := false
  seqAfter : Bool := false
  held : Bool := false
  fault : Bool := false
  opc : BitVec 8 := 0
  group : Nat := 0
  pageRead : Bool := true
  pageFetch : Bool := true
  arrived : Nat := 0
  deps : List Nat := []
  again : Bool := false
deriving DecidableEq, Repr

/-- A destination register (01 R33). -/
inductive Dest where
  | g (n : Nat)
  | q (n : Nat)
  | v (n : Nat)
  | none
deriving DecidableEq, Repr

/-- A producer pending on a destination (01 R34): the result's bytes as they become known; `vector` marks that of
a vector instruction. -/
structure Return where
  id : Nat
  crew : Nat
  idx : Nat
  dest : Dest
  data : List (Option Byte)
  vector : Bool := false
deriving DecidableEq, Repr

/-- Holders of copies under lease (10 R318). -/
inductive Holder where
  | l1 (core : Nat)
  | vmu (core : Nat)
  | tile (core : Nat)
  | icache (core : Nat)
  | tower (t : Nat)
deriving DecidableEq, Repr

/-- What one event of the history passes on to another without a word of memory (05 R168, R173, R200; 16 R482): a manifest, by
its number, may start; an iteration of it is over; its subtree is complete; a crew's strand has arrived at a phase of its
barrier, or has retired while that phase stood; a launch doorbell of a context has been written; a copy of a strand's crane queue has
completed, for its follow-on (13 R404). -/
inductive Mark where
  | start (n : Nat)
  | over (n : Nat)
  | tree (n : Nat)
  | phase (crew ph : Nat)
  | gone (crew ph : Nat)
  | bell (ctx : Nat)
  | copied (crew idx n : Nat)
deriving DecidableEq, Repr

/-- An event of the module's history, in the order of performing (04 R132 to R139): an access that has been performed, by a strand
of a crew; by a command, `cmd`, that the strand issued; by the host; or with crew 0 by the module's own units; a fence that a
strand has issued, with its form and its scope; or an event that only passes marks on, `gives`, takes them, `takes`, or acquires what
the commands of queues up to a number have done, `after` (04 R145). `id` is its place in its strand's program order, for a command
that of its issue, whose scope is `scope`; `tower` where it was performed; `words` what it touches, under the names of `wordsAt`,
`cellName`, `rowName` and `subName`; `stamp` how many writes the module had performed when it read or wrote; `deps` the loads that a
store's address, its data or a branch before it depend on (R137); `group` that of its .o instruction; `time` its place in the history;
`patch` the scope of the ipatch whose write it is (08 R277, R278); `launch` the number of the launch it is part of, and `ends` that
of the launch whose completion record it writes (05 R167). -/
structure Event where
  id : Nat := 0
  crew : Nat := 0
  idx : Nat := 0
  host : Bool := false
  cmd : Option (QueueRef × Nat) := none
  scope : Nat := 3
  launch : Nat := 0
  tower : Nat := 0
  fence : Option (Nat × Nat) := none
  reads : Bool := false
  writes : Bool := false
  strong : Bool := false
  acq : Bool := false
  rel : Bool := false
  words : List Nat := []
  stamp : Nat := 0
  group : Nat := 0
  time : Nat := 0
  patch : Option Nat := none
  deps : List Nat := []
  gives : List Mark := []
  takes : List Mark := []
  after : List (QueueRef × Nat) := []
  ends : Option Nat := none
deriving DecidableEq, Repr

/-- What a strand's access that went past a fence of its own has touched (04 R130): until the fence's condition holds, no other
agent of the fence's scope instance meets these words in a way that would show it. -/
structure Veil where
  fence : Nat
  who : Issuer
  scope : Nat
  words : List Nat
  writes : Bool
deriving DecidableEq, Repr

/-- HOLD on a unit for an operation that is no request and no claim (10 R319, R324): a strand's, or with crew 0 the module's
own, numbered `idx`; `arrived` is when it came. -/
structure LineHold where
  crew : Nat
  idx : Nat
  unit : Nat
  arrived : Nat := 0
deriving DecidableEq, Repr

/-- A copy of a line under a lease (04 R141, 10 R317, R318): its virtual and physical line, the unit it was leased under
and the words of the line that belong to it, the permissions it was filled under (15 R467), its bytes, and its expiry.
`key` is its key slot, `stamp` counts the writes performed before it was granted, and `late` says that a publish has overtaken
it (08 R270). -/
structure Copy where
  holder : Holder
  asid : BitVec 16
  vline : Nat
  line : Nat
  unit : Nat
  user : Bool
  read : Bool := true
  fetch : Bool := true
  mask : BitVec 16 := BitVec.allOnes 16
  data : List Byte
  expiry : Nat
  stamp : Nat := 0
  late : Bool := false
  key : Nat := 0
deriving DecidableEq, Repr

/-- A lease that stood on the unit of a strand's weak store when it was performed (04 R143). -/
structure LeaseWait where
  req : Nat
  ctx : Nat
  crew : Nat
  idx : Nat
  holder : Holder
  expiry : Nat
deriving DecidableEq, Repr

/-- What a queued request needs of its word or ring (07 R250, R259). -/
inductive Need where
  | takeFull
  | seeFull
  | putEmpty (v : Word)
  | claim
  | take
deriving DecidableEq, Repr

/-- A request in the arrival queue of a word or ring, its answer once it has been served, and the event that the history then has
of it. -/
structure Waiter where
  id : Nat
  crew : Nat
  idx : Nat
  place : Nat
  need : Need
  served : Option Word := none
  event : Event := {}
deriving DecidableEq, Repr

/-- A declared range unit (10 R322, R323): its elements, and, by their addresses divided by 8, the 64-bit words of memory
that hold them, as places divided by 8; the words are those of the range through every view of their pages. -/
structure Range where
  asid : BitVec 16
  base : Word
  stride : Nat
  count : Nat
  width : Nat
  places : List (Nat × Nat) := []
deriving DecidableEq, Repr

/-- A leaf as a translation uses it (15 R458, R462): `bases` are the prime windows' bases when it was read, for a SKEW of 2
(15 R478). -/
structure Leaf where
  base : Nat
  size : Nat
  policy : Nat
  skew : Nat
  key : Nat
  r : Bool
  w : Bool
  x : Bool
  u : Bool
  entry : Nat := 0
  entryKey : Nat := 0
  bases : List Nat := []
deriving DecidableEq, Repr

/-- A cached translation (15 R467, R468) of the page number `page`, counted in pages of the leaf's size, in the TLB
beside a memory port of a tower, or, under port 32, in the cache of the tower's walkers. -/
structure Tlb where
  tower : Nat
  port : Nat
  asid : BitVec 16
  page : Nat
  leaf : Leaf
deriving DecidableEq, Repr

/-- A valid table entry in the cache of a tower's walkers (15 R468): it leads to the table of a level, whose entries map the region of
the virtual addresses with this number, counted in regions of its size. -/
structure Walked where
  tower : Nat
  asid : BitVec 16
  level : Nat
  region : Nat
  policy : Nat
  pa : Nat
  key : Nat
deriving DecidableEq, Repr

/-- A fault sent to the resolver or the host (15 R470 to R472, 16 R487): KIND 1, a page fault, shared by the faults of
one ASID on one page; KIND 2, a lighter queue to grow; KIND 3, a machine check, for the host's ring or the log ring (17
R504), `info` its code. `info` is the access kind, plus 32 when user code made it.
`state` is 0 new, 1 for the host, 2 posted under number `seq`, 4 answered, for a queue still to be moved to `addr`, with LQLOG in
`info`; `waiter` is the strand that a queue is to grow for; `source` are the places in flight of the copy that a page is
to be filled from. -/
structure PageFault where
  id : Nat
  kind : Nat := 1
  asid : BitVec 16
  addr : Word
  tower : Nat
  info : Nat := 0
  waiter : Nat := 0
  ctx : Nat := 0
  state : Nat := 0
  seq : Nat := 0
  failed : Bool := false
  host : Bool := false
  source : List Nat := []
deriving DecidableEq, Repr

/-- A chain block in use by a queue (13 R395): `kind` 1 crane, 2 matrix, 3 bead; the sequence number of its entry 0, how
many entries have been written into it, and how many of them have not moved back into hardware; the tower from which it
was linked; `owed` says that its header in memory is still to be brought up to date. -/
structure ChainBlock where
  ctx : Nat
  crew : Nat
  idx : Nat
  kind : Nat
  addr : Word
  tower : Nat
  first : Nat
  count : Nat
  inUse : Nat
  owed : Bool := false
deriving DecidableEq, Repr

/-- Lines in flight and the requests recorded there (10 R321): those in the slice's table, then those that spilled, each
in arrival order. `stuck` says that the line's memory is out of reach (R339), `moving` that the lines are those of a page
that migrates (R338). -/
structure InFlight where
  lines : List Nat
  reqs : List Nat := []
  spilled : List Nat := []
  stuck : Bool := false
  moving : Bool := false
deriving DecidableEq, Repr

/-- An engine command's claim of its destination (01 R36, R37), elements of `n` bytes at `cells`, which fill `spans` of
memory, or bead rows at `rows` (14 R431): it waits, having set HOLD on the units it found leased, or it is granted and the
command owns them, those of G space in `held`; `src` are its source elements, as they were checked with the claim (13 R401).
`arrived` numbers the claims in the order of their arrival. -/
structure Claim where
  q : QueueRef
  seq : Nat
  asid : BitVec 16
  n : Nat
  cells : List Spot
  spans : List (Nat × Nat)
  src : List Spot := []
  rows : List Nat := []
  arrived : Nat := 0
  held : List Nat := []
  granted : Bool := false
deriving DecidableEq, Repr

/-! ## Cores and towers -/

/-- The owner of a core's local spaces (05 R170), and its matrix unit (12 R364, R387 to R391): its holder, as the tag of
a strand, the real steps the product under way still needs, its filler steps in a row and its hold; the slot, plus 1,
whose strand issued last, and how many instructions of its issue group it has issued (06 R213). -/
structure Core where
  owner : Option (BitVec 16) := none
  granted : Bool := false
  ready : Bool := false
  waiting : Bool := false
  filler : Nat := 0
  hold : Nat := 64
  work : Nat := 0
  holder : Nat := 0
  issuing : Nat := 0
  groupLen : Nat := 0
deriving DecidableEq, Repr

/-- A tower: its T units (07 R241) and the range of T space in resize (R242), translation registers (15 R478), performance counters (17 R506), victim queue (15
R473: address space, page, and whether a use was reported as reused), and whether its dies work (17 R502). `sdmark`
numbers the accesses issued before the shoot-down that runs, `sdrun` is what it names, and `sdgone` are the pages that the
leaves it dropped from TLBs map, each as its first address and its size; `uses` are the reports of use that it has still to
write to leaves: address space, page, and whether it was used again; `mgrun` is what the migration
that runs names, and `mgleaf` the leaf it found, with its entry; `evicting` is the page being evicted, with the leaf and the
entry it was found with. -/
structure Tower where
  tUnits : Nat := 0
  resizing : Option (Nat × Nat) := none
  astbase : Word := 0
  sdva : Word := 0
  sdasid : BitVec 16 := 0
  sdsize : BitVec 2 := 0
  sdbusy : Bool := false
  sdmark : Nat := 0
  sdrun : Word × BitVec 16 × BitVec 2 := (0, 0, 0)
  sdgone : List (Nat × Nat) := []
  mgva : Word := 0
  mgdst : Word := 0
  mgasid : BitVec 16 := 0
  mgres : BitVec 2 := 0
  mgbusy : Bool := false
  mgrun : Word × BitVec 16 × Word := (0, 0, 0)
  mgleaf : Option (Leaf × Nat) := none
  ffbase : Word := 0
  fftail : BitVec 32 := 0
  ffhead : BitVec 32 := 0
  fflog : BitVec 5 := 0
  spbase : Word := 0
  sptail : BitVec 32 := 0
  sphead : BitVec 32 := 0
  splog : BitVec 5 := 0
  pwsize : BitVec 32 := 0
  pwbase : BitVec 19 := 0
  kslot : BitVec 12 := 0
  keydata : BitVec 512 := 0
  perf : List Word := List.replicate 11 0
  victims : List (BitVec 16 × Nat × Bool) := []
  uses : List (BitVec 16 × Nat × Bool) := []
  evicting : Option (BitVec 16 × Nat × Leaf × Nat) := none
  laneDown : Bool := false
  rcDown : Bool := false
  warm : Bool := false
  layersDown : List Nat := []
deriving DecidableEq, Repr

/-! ## Bead channels (14) -/

/-- The state of a data row (14 R418). -/
inductive RowState where
  | isSealed
  | unsealed
  | expired
  | poisoned
deriving DecidableEq, Repr

/-- The 8,192 columns of a row, rod k in bit k (14 R412). -/
abbrev Row := BitVec 8192

/-- A running or parked entry (14 R420, R428, R436): its command, whose bytes are the argument block; the micro-PC and
the last word executed; counters and their initial values; the banks that still run and the latch of each; the banks
that failed, with the row and word of the first failure; the rows it wrote, each with its bank; the tide ticks it has
run, up to `since`; the watchdog interval in force; and whether the last word was a refresh-safe boundary, and a REP. -/
structure Entry where
  cmd : Cmd
  upc : Nat := 0
  last : Nat := 0
  ctr : List Nat := [1, 1, 1, 1]
  ini : List Nat := [1, 1, 1, 1]
  banks : List Nat := []
  latch : List (Nat × Row) := []
  failed : List Nat := []
  failRow : Nat := 0
  failWord : Nat := 0
  wrote : List (Nat × Nat) := []
  count : Nat := 0
  since : Nat := 0
  wd : Nat := 0
  atSafe : Bool := true
  atRep : Bool := false
deriving DecidableEq, Repr

/-- A bead channel (14): its queue, whose latch holds the bead fault address; the mode of its sixteen banks (0 normal, 1
compute, 2 power-down-allowed) and their power (0 on, 1 down, 2 down with its work rows saved); its control store; its
watchdog; its entry, and whether that is parked (1 by bsave, 2 by a trip); the strands whose bsave waits for the
parking, and those it is complete for. -/
structure Chan where
  queue : Queue := {}
  mode : List Nat := List.replicate 16 0
  power : List Nat := List.replicate 16 0
  store : List Byte := []
  wd : BitVec 32 := 0
  entry : Option Entry := none
  parked : Nat := 0
  parkers : List (Nat × Nat) := []
  parkersDone : List (Nat × Nat) := []
deriving DecidableEq, Repr

/-! ## Module registers and boot (16, 17) -/

/-- The module's registers (16 R486, R487; 17 R499). -/
structure Module where
  duty : BitVec 4 := 0
  frbase : Word := 0
  frlog : BitVec 5 := 0
  frtail : Word := 0
  frhead : Word := 0
  hdmkey : BitVec 12 := 0
  csladdr : Word := 0
  ready : Bool := false
  berr : BitVec 4 := 0
  tup : BitVec 16 := 0
  svcbase : Word := 0
  svccount : BitVec 16 := 0
  logbase : Word := 0
  loglog : BitVec 5 := 0
  logtail : Word := 0
  loghead : Word := 0
  pnow : BitVec 16 := 0
  pcap : BitVec 16 := 1300
  meas : BitVec 256 := 0
  fusesvn : BitVec 32 := 0
  atdst : Word := 0
  atbusy : Bool := false
  atnonce : BitVec 256 := 0
  atreq : BitVec 256 := 0
  attgt : Word := 0
  ports : List Bool := List.replicate 4 false
  lowered : Bool := false
  outerDown : List Nat := []
deriving DecidableEq, Repr

/-- Where the module stands in its bring-up (17 R489 to R496). -/
inductive Phase where
  | held
  | staged
  | towers (next : Nat)
  | failed
  | running
deriving DecidableEq, Repr

/-- The module (see INVENTORY.md, ## State). -/
structure State where
  self : Strand := {}
  peers : List Strand := []
  saved : List Strand := []
  crews : List Crew := []
  manifests : List Manifest := []
  ctxs : List Ctx := List.replicate 65 {}
  cores : Sparse Core := []
  grantCycle : Sparse Nat := []
  towers : List Tower := List.replicate 16 {}
  cycle : Nat := 0
  tide : Nat := 0
  tideOn : Bool := false
  mem : List Host.Cell := []
  empties : Sparse Bool := []
  unpub : Sparse Bool := []
  poison : Sparse Bool := []
  dirty : Sparse Bool := []
  stranded : Sparse Bool := []
  lineKey : Sparse (Option (BitVec 512)) := []
  copies : List Copy := []
  hostLines : Sparse Bool := []
  lexp : Sparse Nat := []
  lineHolds : List LineHold := []
  inflight : List InFlight := []
  ranges : List Range := []
  reqs : List Req := []
  returns : List Return := []
  leaseWaits : List LeaseWait := []
  waiters : List Waiter := []
  tlb : List Tlb := []
  walked : List Walked := []
  pageFaults : List PageFault := []
  claims : List Claim := []
  writes : Nat := 0
  history : List Event := []
  veils : List Veil := []
  chains : List ChainBlock := []
  spills : List (Nat × Nat) := []
  keys : Sparse (Option (BitVec 512)) := []
  chans : Sparse Chan := []
  subOwner : Sparse (Option (BitVec 16)) := []
  rowState : Sparse RowState := []
  rowLock : Sparse (BitVec 16) := []
  workRows : Sparse (Option Row) := []
  saveRows : Sparse (Option Row) := []
  mod : Module := {}
  phase : Phase := .held
  flash : List Byte := []
  codeSize : Nat := 0
  fwsvn : Word := 0
  answers : List (List Byte) := []
  agenda : List Turn := []
  args : EventArgs := {}
  turns : Nat := 0
  free : Nat := 0
  serial : Nat := 0
deriving DecidableEq, Repr

/-- A turn the agenda does not name: who moves is open (log 1). -/
opaque freeTurn : Nat → Turn

/-- Why the machine stops. -/
inductive Fault where
  /-- Raised by the step when a turn names a slot where no strand is placed. Safe: the agenda is the model's own, and
  the module has no such step. -/
  | noStrand (slot : Nat)
deriving DecidableEq, Repr

/-- Why an instruction has no meaning. -/
inductive Refusal where
  /-- Raised by the dispatch of an instruction that has no meaning yet. Safe: nothing follows from it. -/
  | notModelled (mnemonic : String)
deriving DecidableEq, Repr

/-- The module right after reset (17 R489): reset asserted, every register at its Reset value, nothing placed. -/
def State.reset : State := {}

end Sys2Proof.Machine
end

