-- ==== Sys2Proof/Machine/Ops.lean ====
section
/-! DEFINITION. Ops.lean: the named operations over places, registers, strands, crews and launches; taking a trap and
returning from one (06 R236); ending a launch (05 R192). -/

namespace Sys2Proof.Machine

/-! ## Places: one number for every byte of every memory (01 R14 to R16, R41; 04 R125) -/

/-- Byte `x` of line `g` of bank `b` of a tower's stacked DRAM (15 R463, R464). -/
def Place.dram (t b g x : Nat) : Nat := ((t * 512 + b) * 2 ^ 19 + g) * 128 + x
/-- A byte of an outer-memory chiplet. -/
def Place.outer (chiplet a : Nat) : Nat := 2 ^ 60 + chiplet * 2 ^ 38 + a
/-- A byte of host memory. -/
def Place.host (a : Nat) : Nat := 2 * 2 ^ 60 + a
/-- A byte of a core's S space (07 R239). -/
def Place.s (core off : Nat) : Nat := 3 * 2 ^ 60 + core * 2 ^ 19 + off
/-- A byte of a core's part of C space (07 R240). -/
def Place.c (core off : Nat) : Nat := 4 * 2 ^ 60 + core * 2 ^ 20 + off
/-- A byte of a tower's T space (07 R241). -/
def Place.t (tower off : Nat) : Nat := 5 * 2 ^ 60 + tower * 2 ^ 29 + off
/-- Memory that holds G lines: stacked DRAM, outer memory, host memory. -/
def Place.isG (p : Nat) : Bool := p < 3 * 2 ^ 60
def Place.isDram (p : Nat) : Bool := p < 2 ^ 60
/-- The tower of a place of stacked DRAM, and its bank, line and byte. -/
def Place.towerOf (p : Nat) : Nat := p / 2 ^ 35
def Place.bankOf (p : Nat) : Nat := p / 2 ^ 26 % 512
def Place.gOf (p : Nat) : Nat := p / 128 % 2 ^ 19

/-- Space of a place in a space (07 R239 to R241). -/
def Space.place : Space → Nat → Nat
  | .s core, a => Place.s core a
  | .c core, a => Place.c core a
  | .t tower, a => Place.t tower a
  | .g, a => a
  | .b, a => a
  | .win, a => a

/-- The space of a place. -/
def Place.space (p : Nat) : Space :=
  if Place.isG p then .g
  else if p < 4 * 2 ^ 60 then .s ((p - 3 * 2 ^ 60) / 2 ^ 19)
  else if p < 5 * 2 ^ 60 then .c ((p - 4 * 2 ^ 60) / 2 ^ 20)
  else .t ((p - 5 * 2 ^ 60) / 2 ^ 29)

/-! ## Bytes of memory -/

/-- A memory byte that is not listed reads as zero (log 4). -/
abbrev Memory := List Host.Cell
def Memory.get (m : Memory) (p : Nat) : Byte := sget 0 m p
def Memory.set (m : Memory) (p : Nat) (b : Byte) : Memory := sset 0 m p b
/-- The canonical form of memory. -/
def Memory.wf (m : Memory) : Bool := swf (0 : Byte) m

/-- The key in a slot; slot 0 is plaintext (15 R477). -/
def State.keyOf (s : State) (slot : Nat) : Option (BitVec 512) := if slot = 0 then none else sget none s.keys slot

/-- The address of a place that depends on no mapping, the tweak of its line (15 R476); for a word of a local space, its
offset there (log 15). -/
def placeAddr (p : Nat) : Word :=
  if Place.isDram p then word (2 ^ 52 + Place.towerOf p * 2 ^ 35 + (Place.gOf p * 512 + Place.bankOf p) * 128 + p % 128)
  else if Place.isG p then word (p / 2 ^ 60 * 2 ^ 52 + 2 ^ 52 + p % 2 ^ 52)
  else word (p % 2 ^ 60)

/-- What a stored byte reads as under a key: a line in L2 is plaintext, one in memory stands under the key it was written
with (15 R476; log 14). -/
def State.underKey (s : State) (key : Option (BitVec 512)) (p : Nat) (b : Byte) : Byte :=
  let line := p / 128
  let k := sget none s.lineKey line
  if !Place.isG p || k = key || sget false s.dirty line then b
  else ((recode k key (placeAddr (128 * line)) ((List.range 128).map (fun i => Memory.get s.mem (128 * line + i))))[p % 128]?).getD 0

/-- The byte at a place, read under a key. -/
def State.byteAt (s : State) (key : Option (BitVec 512)) (p : Nat) : Byte := s.underKey key p (Memory.get s.mem p)

/-- `n` bytes from a place upwards: each is `byteAt` of its place (Laws/Memory.lean), found from one place on. -/
def State.bytesAt (s : State) (key : Option (BitVec 512)) (p n : Nat) : List Byte :=
  let m := s.mem.dropWhile (fun c => c.1 < p)
  (List.range n).map (fun i => s.underKey key (p + i) (Memory.get m (p + i)))

/-- Write bytes from a place upwards, nothing else. -/
def Memory.setBytes (m : Memory) (p : Nat) : List Byte → Memory
  | [] => m
  | b :: bs => Memory.setBytes (Memory.set m p b) (p + 1) bs

/-- Make a G line stand under a key: a line stored under another key is read under this one first (15 R476). -/
def State.rekey (s : State) (key : Option (BitVec 512)) (p : Nat) : State :=
  let line := p / 128
  if Place.isG p && sget none s.lineKey line != key then
    { s with
      mem := Memory.setBytes s.mem (128 * line) (s.bytesAt key (128 * line) 128)
      lineKey := sset none s.lineKey line key }
  else s

/-- The tower of a place's home: of its stacked DRAM, of the outer chiplet's attachment (01 R16: chiplets 0 to 7 attach
to towers 0 to 3 and 12 to 15), of a CXL port's attachment: tower 4, that of port 0 (log 18). -/
def homeTower (p : Nat) : Nat :=
  if Place.isDram p then Place.towerOf p
  else if p < 2 * 2 ^ 60 then let k := p / 2 ^ 38 % 8; if k < 4 then k else k + 8
  else 4

def State.tower (s : State) (t : Nat) : Tower := (s.towers[t]?).getD {}
def State.setTower (s : State) (t : Nat) (f : Tower → Tower) : State := { s with towers := s.towers.modify t f }
/-- TSIZE of a tower (07 R241). -/
def State.tsize (s : State) (t : Nat) : Nat := (s.tower t).tUnits * 0x4000000

/-- Slices, counted over the module, 64 a tower, and the slice of a place (15 R462, R464). -/
def sliceOf (p : Nat) : Nat :=
  homeTower p * 64 + (if Place.isDram p then 2 * (Place.bankOf p % 32) + Place.bankOf p / 32 % 2 else p / 128 % 64)
/-- The slice of a tower that holds its copy of a line of another tower: the one that the virtual address chooses (15 R467). -/
def Copy.slice (c : Copy) (t : Nat) : Nat := t * 64 + Config.sliceFor (word (128 * c.vline)) % 64
def Copy.inSlice (c : Copy) (k : Nat) : Bool := c.holder == .tower (k / 64) && c.slice (k / 64) == k
/-- The lines in a slice: those it holds dirty as their home, and its tower's copies that it holds. -/
def State.sliceUsed (s : State) (k : Nat) : Nat :=
  (s.dirty.filter (fun e => sliceOf (128 * e.1) == k)).length + (s.copies.filter (fun c => c.inSlice k)).length
/-- The lines a slice holds: its 16 MiB less its part of T space (01 R14, R41). -/
def State.sliceLines (s : State) (k : Nat) : Nat := (2 ^ 24 - s.tsize (k / 64) / 64) / 128
/-- A line too many in a slice displaces its oldest copy, or else a dirty line that is not stranded, which is written back (10
R321, R339). -/
def State.fitL2 (s : State) (k : Nat) : State :=
  if s.dirty.length + s.copies.length ≤ s.sliceLines k || s.sliceUsed k ≤ s.sliceLines k then s
  else match s.copies.findIdx? (fun c => c.inSlice k) with
    | some i => { s with copies := s.copies.eraseIdx i }
    | none =>
      match s.dirty.find? (fun e => sliceOf (128 * e.1) == k && !sget false s.stranded e.1) with
      | some e => { s with dirty := sset false s.dirty e.1 false }
      | none => s

/-! ## The history of what has been performed (04 R132, R139) -/

/-- The 64-bit words that bytes at a place touch, as places divided by 8. -/
def wordsAt (p n : Nat) : List Nat := (List.range ((p % 8 + n + 7) / 8)).map (fun i => p / 8 + i)
/-- The names of a cell of bead space, a data row at one rod (14 R452), of a whole row, and of a whole subarray. -/
def cellName (row rod : Nat) : Nat := 2 ^ 90 + row * 8192 + rod
def rowName (row : Nat) : Nat := 2 ^ 100 + row
def subName (sub : Nat) : Nat := 2 ^ 110 + sub
/-- The row or the subarray that a name of bead space lies in. -/
def rowOfName (x : Nat) : Nat := if x < 2 ^ 100 then (x - 2 ^ 90) / 8192 else x - 2 ^ 100
def subOfName (x : Nat) : Nat := if x < 2 ^ 110 then rowOfName x / 1024 else x - 2 ^ 110
/-- Two names stand for words, cells, rows or subarrays that share something. -/
def sameSpot (x y : Nat) : Bool :=
  x == y || (2 ^ 90 ≤ x && 2 ^ 90 ≤ y && (2 ^ 100 ≤ x || 2 ^ 100 ≤ y) &&
    (if 2 ^ 110 ≤ x || 2 ^ 110 ≤ y then subOfName x == subOfName y else rowOfName x == rowOfName y))

/-- An event takes its place in the history (04 R139). -/
def State.record (s : State) (e : Event) : State :=
  { s with
    history := s.history ++ [{ e with time := s.history.length }]
    writes := s.writes + (if e.writes then 1 else 0) }

/-- Put bytes within one line at a place under a key; a write to a G line makes the line dirty and unpublished (08 R268, 10
R317). -/
def State.putAt (s : State) (key : Option (BitVec 512)) (p : Nat) (bs : List Byte) : State :=
  let s := s.rekey key p
  if Place.isG p && bs != [] then
    State.fitL2 { s with
      mem := Memory.setBytes s.mem p bs
      unpub := sset false s.unpub (p / 128) true
      dirty := sset false s.dirty (p / 128) true } (sliceOf p)
  else { s with mem := Memory.setBytes s.mem p bs }
/-- A strong write of an agent, which `e` names, within one line. -/
def State.writeAs (s : State) (e : Event) (key : Option (BitVec 512)) (p : Nat) (bs : List Byte) : State :=
  (s.putAt key p bs).record { e with writes := true, strong := true, words := wordsAt p bs.length, stamp := s.writes }
/-- A strong write of the module's own. -/
def State.writeAt (s : State) (key : Option (BitVec 512)) (p : Nat) (bs : List Byte) : State := s.writeAs {} key p bs

/-- A command owns some of the bytes (01 R36): an access of a strand waits, in the recall, until it releases them (R38). -/
def State.ownedAt (s : State) (p n : Nat) : Bool :=
  s.claims.any (fun c => c.granted && c.spans.any (fun x => x.1 < p + n && p < x.1 + x.2))

/-- Any of the 64-bit words the bytes touch is poisoned (10 R340). -/
def State.poisonedAt (s : State) (p n : Nat) : Bool :=
  (List.range ((p + n - 1) / 8 + 1 - p / 8)).any (fun i => sget false s.poison (p / 8 + i))

/-- Clear the poison of the words the bytes cover whole. -/
def State.clearPoison (s : State) (p n : Nat) : State :=
  { s with poison := (List.range (n / 8)).foldl (fun m i => sset false m (p / 8 + i) false) s.poison }

/-! ## Geometry of slots (01 R17, 06 R211) -/

def towerOfSlot (slot : Nat) : Nat := slot / 896
def clusterOfSlot (slot : Nat) : Nat := slot / 64
def coreOfSlot (slot : Nat) : Nat := slot / 8
def towerOfCore (core : Nat) : Nat := core / 112
def clusterOfCore (core : Nat) : Nat := core / 8

/-! ## Free values and serial numbers -/

/-- A number for a new request, crew, or record of the model's own (log 1). -/
def State.newId (s : State) : Nat × State := (s.serial, { s with serial := s.serial + 1 })
/-- A free word (log 2). -/
def State.freeWord (s : State) : Word × State := (Config.freeWord s.free, { s with free := s.free + 1 })

/-! ## Strands and crews -/

def noCrew : Crew := {}
def State.crewById (s : State) (id : Nat) : Crew := (s.crews.find? (fun c => c.id == id)).getD noCrew
/-- The crew of the strand whose turn it is. -/
def State.crew (s : State) : Crew := s.crewById s.self.crew
def State.setCrew (s : State) (id : Nat) (f : Crew → Crew) : State :=
  { s with crews := s.crews.map (fun c => if c.id == id then f c else c) }
def State.mapSelf (s : State) (f : Strand → Strand) : State := { s with self := f s.self }
/-- Apply a change to every placed strand of a crew. -/
def State.mapCrew (s : State) (id : Nat) (f : Strand → Strand) : State :=
  { s with
    self := if s.self.crew == id then f s.self else s.self
    peers := s.peers.map (fun st => if st.crew == id then f st else st) }
/-- Every placed strand; a strand of no crew only fills the place of one. -/
def State.strands (s : State) : List Strand := (s.self :: s.peers).filter (fun st => st.crew != 0)
def State.strandsOf (s : State) (id : Nat) : List Strand :=
  (s.self :: s.peers ++ s.saved).filter (fun st => st.crew == id)
def State.strandAt (s : State) (crew idx : Nat) : Option Strand :=
  (s.self :: s.peers ++ s.saved).find? (fun st => st.crew == crew && st.idx == idx)
/-- Apply a change to one strand, wherever it is. -/
def State.mapStrand (s : State) (crew idx : Nat) (f : Strand → Strand) : State :=
  let h := fun (st : Strand) => if st.crew == crew && st.idx == idx then f st else st
  { s with self := h s.self, peers := s.peers.map h, saved := s.saved.map h }
def State.strandInSlot (s : State) (slot : Nat) : Option Strand := s.strands.find? (fun st => st.slot == slot)
def Strand.core (st : Strand) : Nat := coreOfSlot st.slot
def Strand.tower (st : Strand) : Nat := towerOfSlot st.slot
def State.issuerOf (s : State) (st : Strand) : Issuer :=
  let c := s.crewById st.crew
  { ctx := c.ctx, crew := st.crew, idx := st.idx, asid := c.asid, user := !st.priv, slot := st.slot, mid := c.mid
    indices := c.indices }
def State.issuer (s : State) : Issuer := s.issuerOf s.self
/-- Make the strand in a slot the one whose turn it is. -/
def State.focus (s : State) (slot : Nat) : Option State :=
  if s.self.slot == slot && s.self.crew != 0 then some s
  else match s.peers.find? (fun st => st.slot == slot) with
    | some st =>
      let rest := s.peers.filter (fun x => x.slot != slot)
      some { s with self := st, peers := if s.self.crew = 0 then rest else s.self :: rest }
    | none => none
/-- A strand that is placed, counts for its crew and may still run. -/
def Strand.live (st : Strand) : Bool := !st.retired && !st.ended
/-- A strand has done a part of a cpub, a fefill or a tsplit and is at no yield point: it stops when that is complete (08 R274, 07
R242, R251). -/
def Strand.amid (st : Strand) : Bool := !st.cleared.isEmpty && st.wait.isNone

/-! ## Events of strands and commands -/

/-- The number of the launch that a context runs. -/
def State.launchOf (s : State) (k : Nat) : Nat := (((s.ctxs[k]?).bind (·.launch)).map (·.born)).getD 0
/-- The issuer of an access as it is placed now: a re-placed crew stays the same crew (04 R128). -/
def State.slotOf (s : State) (w : Issuer) : Nat := ((s.strandAt w.crew w.idx).map (·.slot)).getD w.slot
/-- An event of a strand, numbered `id` in its program order. -/
def State.eventBy (s : State) (w : Issuer) (id : Nat) : Event :=
  { id, crew := w.crew, idx := w.idx, launch := s.launchOf w.ctx, tower := towerOfSlot (s.slotOf w) }
/-- An event of a command of a queue: it follows what its issuer did before its issue (04 R145). -/
def State.eventFor (s : State) (q : QueueRef) (c : Cmd) : Event :=
  { s.eventBy c.who c.born with cmd := some (q, c.seq), scope := c.scope }
/-- An event of the strand whose turn it is, after what it has issued and before what it will issue. -/
def State.ownEvent (s : State) : Event := s.eventBy s.issuer s.serial
/-- The strand's next event comes after this one. -/
def State.pass (s : State) : State := { s with serial := s.serial + 1 }
/-- The strand whose turn it is meets an event that puts no bytes anywhere. -/
def State.meets (s : State) (e : Event) : State :=
  let b := s.ownEvent
  (s.record { e with id := b.id, crew := b.crew, idx := b.idx, launch := b.launch, tower := b.tower }).pass

/-! ## Registers (01 R33, 06 R205) -/

/-- Write g[n] and mark it full; g0 discards the write (R205). -/
def Strand.setG (st : Strand) (n : Nat) (v : Word) : Strand :=
  if n = 0 then st
  else { st with g := st.g.setIfInBounds n v, gFull := st.gFull ||| BitVec.twoPow 32 n }
/-- Mark g[n] empty; g0 is always full. -/
def Strand.emptyG (st : Strand) (n : Nat) : Strand :=
  if n = 0 then st else { st with gFull := st.gFull &&& ~~~BitVec.twoPow 32 n }
def Strand.readG (st : Strand) (n : Nat) : Word := if n = 0 then 0 else (st.g[n]?).getD 0
def Strand.gIsFull (st : Strand) (n : Nat) : Bool := n = 0 || st.gFull.getLsbD n

/-- A vector operand's register: q in short mode, v in long mode (02 R54). -/
def Strand.vreg (st : Strand) (n : Nat) : List Byte :=
  if st.long then (st.v[n]?).getD [] else (st.q[n]?).getD []
def Strand.vIsFull (st : Strand) (n : Nat) : Bool := if st.long then st.vFull.getLsbD n else st.qFull.getLsbD n
def Strand.vdest (st : Strand) (n : Nat) : Dest := if st.long then .v n else .q n

/-- Write a destination register and mark it full. -/
def Strand.fill (st : Strand) (d : Dest) (bs : List Byte) : Strand :=
  match d with
  | .g n => st.setG n (leWord bs)
  | .q n => { st with q := setAt st.q n bs, qFull := st.qFull ||| BitVec.twoPow 32 n }
  | .v n => { st with v := setAt st.v n bs, vFull := st.vFull ||| BitVec.twoPow 64 n }
  | .none => st
/-- Mark a destination register empty. -/
def Strand.empty (st : Strand) (d : Dest) : Strand :=
  match d with
  | .g n => st.emptyG n
  | .q n => { st with qFull := st.qFull &&& ~~~BitVec.twoPow 32 n }
  | .v n => { st with vFull := st.vFull &&& ~~~BitVec.twoPow 64 n }
  | .none => st

/-- A producer is pending on a strand's destination (01 R34). -/
def State.pendingOn (s : State) (crew idx : Nat) (d : Dest) : Bool :=
  s.returns.any (fun r => r.crew == crew && r.idx == idx && r.dest == d)

/-! ## How a strand's instruction ends -/

/-- An instruction of a strand that does not complete: it waits, in the state given, or faults with a code and an
address, the fault leaving the state given (a load's destination stays empty, 01 R34); or meets a page that is not present, for an
access of its own or for a chain block (13 R395); or needs memory in a bank that is to wake first; or ends its launch (06
R236). Faults, pages and wakes leave nothing of the instruction's own effect. -/
inductive Stop where
  | wait (s : State)
  | fault (code : BitVec 8) (addr : Word)
  | page (addr : Word) (access : Nat)
  | wake (place : Nat)
  | faulted (s : State) (code : BitVec 8) (addr : Word)
  | chainPage (addr : Word)
  | endLaunch (code : BitVec 8) (addr : Word) (user : BitVec 16)

/-- Wait, and try again at the strand's next turn (05 R181). -/
def State.retry (s : State) : Stop := .wait (s.mapSelf (fun st => { st with wait := some .retry }))

/-- Go no further for now, at a point that is no yield point (08 R274, R277; 05 R203). -/
def State.hold (s : State) : Stop := .wait (s.mapSelf (fun st => { st with wait := none }))

/-- Fault codes (02 R72). -/
abbrev ILL_OPC : BitVec 8 := 0x01
abbrev ILL_FIELD : BitVec 8 := 0x02
abbrev ORPHAN_PREFIX : BitVec 8 := 0x03
abbrev PRIV : BitVec 8 := 0x04
abbrev FE_EMPTY : BitVec 8 := 0x05
abbrev ALIGN : BitVec 8 := 0x06
abbrev SPACE_RANGE : BitVec 8 := 0x07
abbrev T_RESIZED : BitVec 8 := 0x08
abbrev PAGE_NOT_PRESENT : BitVec 8 := 0x10
abbrev PAGE_PERM : BitVec 8 := 0x11
abbrev VA_NONCANON : BitVec 8 := 0x12
abbrev IFETCH_UNPUBLISHED : BitVec 8 := 0x13
abbrev IFETCH_NOX : BitVec 8 := 0x14
abbrev MODE : BitVec 8 := 0x15
abbrev ROT_TAG_MISMATCH : BitVec 8 := 0x18
abbrev FMT_MISMATCH : BitVec 8 := 0x19
abbrev SCALE_INVALID : BitVec 8 := 0x1A
abbrev BEAD_UNSEALED : BitVec 8 := 0x20
abbrev BEAD_LOCKED : BitVec 8 := 0x21
abbrev BEAD_POISON : BitVec 8 := 0x22
abbrev BEAD_WATCHDOG : BitVec 8 := 0x23
abbrev BEAD_ENTRY : BitVec 8 := 0x24
abbrev QUEUE_CHAIN : BitVec 8 := 0x28
abbrev LOOP_DEPTH : BitVec 8 := 0x30
abbrev CHILD_POOL : BitVec 8 := 0x38
abbrev PREEMPT_LIMIT : BitVec 8 := 0x39
abbrev SW_ABORT : BitVec 8 := 0x3F
abbrev MC_POISON : BitVec 8 := 0x40
abbrev MC_DRAM_UE : BitVec 8 := 0x41
abbrev MC_SRAM_UE : BitVec 8 := 0x42
abbrev MC_THERM_LANE : BitVec 8 := 0x43
abbrev MC_THERM_RC : BitVec 8 := 0x44
abbrev MC_THERM_BASE : BitVec 8 := 0x45
abbrev MC_LINK : BitVec 8 := 0x46
abbrev MC_CXL : BitVec 8 := 0x47

/-- The context number the boot launch runs under; 0 to 63 are those of the launch window (17 R491). -/
def bootCtx : Nat := 64

def State.ctx (s : State) (k : Nat) : Ctx := (s.ctxs[k]?).getD {}
def State.setCtx (s : State) (k : Nat) (f : Ctx → Ctx) : State := { s with ctxs := s.ctxs.modify k f }

/-- A machine check is to be logged, by the host's ring or the firmware's as DUTY bit 3 says (16 R485, 17 R504). -/
def State.machineCheck (s : State) (code : BitVec 8) (tower : Nat) (asid : BitVec 16) (addr : Word) : State :=
  { s with
    pageFaults := s.pageFaults ++ [{ id := s.serial, kind := 3, asid, addr, tower, info := code.toNat, state := 1, host := s.mod.duty.getLsbD 3 }]
    serial := s.serial + 1 }

/-- Record a fault of a launch; any one of those recorded before the crews have stopped is described (05 R193). -/
def State.recordFault (s : State) (k : Nat) (f : FaultRec) : State :=
  (if 0x40 ≤ f.code.toNat then s.machineCheck f.code f.tower (s.ctx k).asid f.addr else s).setCtx k
    (fun c => { c with launch := c.launch.map (fun l => { l with faults := l.faults ++ [f] }) })

/-- The fault record of a strand (05 R166). -/
def faultOf (who : Issuer) (pc : Word) (code : BitVec 8) (addr : Word) (user : BitVec 16 := 0) :
    FaultRec :=
  { code, strand := BitVec.ofNat 8 who.idx, mid := who.mid, pc, addr, tower := towerOfSlot who.slot, user
    indices := who.indices }

/-- A fatal fault of a strand: its launch has a fault, and the strand executes nothing more (05 R192). -/
def State.endLaunch (s : State) (code : BitVec 8) (addr : Word) (user : BitVec 16 := 0) : State :=
  (s.recordFault s.crew.ctx (faultOf s.issuer s.self.pc code addr user)).mapSelf
    (fun st => { st with ended := true, wait := none, cleared := [] })

/-! ## Bead channels (14 R412) -/

def State.chan (s : State) (k : Nat) : Chan := sget {} s.chans k
def State.setChan (s : State) (k : Nat) (f : Chan → Chan) : State := { s with chans := sset {} s.chans k (f (s.chan k)) }
/-- The subarray `sub` of bank `n` of channel `k`, counted over the module; channel k is channel k mod 32 of tower k/32. -/
def subId (k n sub : Nat) : Nat := (k / 32 * 512 + n * 32 + k % 32) * 64 + sub
/-- A data row, counted over the module, and the place of its first byte (15 R464). -/
def rowId (k n sub row : Nat) : Nat := subId k n sub * 1024 + row
def rowPlace (k n sub row : Nat) : Nat := rowId k n sub row * 1024
/-- The channel and the bank of a place of stacked DRAM. -/
def chanOf (p : Nat) : Nat := Place.towerOf p * 32 + Place.bankOf p % 32
def bankOf (p : Nat) : Nat := Place.bankOf p / 32
/-- Put the part of a map between two keys in place of that of another. -/
def keyRange {α : Type} (m : Sparse α) (lo hi : Nat) (x : Sparse α) : Sparse α :=
  m.filter (fun e => e.1 < lo) ++ x.filter (fun e => lo ≤ e.1 && e.1 < hi) ++ m.filter (fun e => hi ≤ e.1)
/-- The keys of a bank's work and save rows. -/
def bankRows (k n : Nat) : Nat × Nat := (subId k n 0 * 8, subId k n 64 * 8)
/-- Copy the work rows of a bank into its save rows, and back (14 R436). -/
def State.saveBank (s : State) (k n : Nat) : State :=
  { s with saveRows := keyRange s.saveRows (bankRows k n).1 (bankRows k n).2 s.workRows }
def State.restoreBank (s : State) (k n : Nat) : State :=
  { s with workRows := keyRange s.workRows (bankRows k n).1 (bankRows k n).2 s.saveRows }
/-- A bank leaves power-down; it restores what it saved first (14 R437, R438). -/
def State.wakeBank (s : State) (k n : Nat) : State :=
  let p := ((s.chan k).power[n]?).getD 0
  if p = 0 then s
  else (if p = 2 then s.restoreBank k n else s).setChan k (fun c => { c with power := c.power.set n 0 })
/-- An access to a bank that is powered down wakes it, and what the bank saved is restored (14 R438). -/
def State.wakeAt (s : State) (p : Nat) : State := if Place.isDram p then s.wakeBank (chanOf p) (bankOf p) else s
/-- A G access to a bank in compute mode waits for a refresh-safe boundary of the entry that runs in it (14 R431, R432). -/
def State.bankBusy (s : State) (p : Nat) : Bool :=
  match (s.chan (chanOf p)).entry with
  | some e => (s.chan (chanOf p)).parked = 0 && !e.atSafe && e.banks.contains (bankOf p)
  | none => false

/-! ## Status (06 R209, R236) -/

def Strand.ldepth (st : Strand) : Nat := st.loops.length
/-- FrozenDepth (06 R215). -/
def Strand.frozen (st : Strand) : Nat := if st.inTrap then st.tld else 0

/-- TrapEntry (06 R236), `kind` 0 fault or trap instruction, 1 sys, 2 brk. -/
def State.trapEntry (s : State) (kind : BitVec 2) (code : BitVec 8) (tpc taddr target : Word) : State :=
  let st := s.self
  let packed : Word := (taddr &&& 0xFFFF) <<< 16 ||| (kind.setWidth 64) <<< 8 ||| code.setWidth 64
  if st.inTrap then s.endLaunch MODE packed
  else if kind != 1 && st.tvec == 0 then
    if kind == 0 && code == FE_EMPTY then s.endLaunch FE_EMPTY taddr
    else s.endLaunch SW_ABORT packed
  else
    { s with self := { st with
        tpc := tpc &&& ~~~1, tkind := kind, tcode := code, taddr := taddr
        pPriv := st.priv, tld := st.ldepth, inTrap := true
        priv := if kind == 1 then true else st.priv
        pc := if kind == 1 then target else st.tvec
        wait := none } }

/-- What tret restores (06 R236). -/
def Strand.trapReturn (st : Strand) : Strand :=
  { st with pc := st.tpc, priv := st.pPriv, pPriv := false, tld := 0, inTrap := false }

/-! ## Retirement and the back-edge test (06 R215, 05 R185) -/

/-- The back-edge test on the address `next`: the levels that remain, where the strand goes, and whether it took a
back-edge. `frozen` levels stay; the innermost level is last. -/
def backEdge (frozen : Nat) (next : Word) : Nat → List LoopLevel → List LoopLevel × Word × Bool
  | 0, ls => (ls, next, false)
  | fuel + 1, ls =>
    match ls.getLast? with
    | none => (ls, next, false)
    | some l =>
      if ls.length ≤ frozen || next != l.stop then (ls, next, false)
      else if (!l.down && l.index.toNat + 1 < l.count.toNat) || (l.down && 0 < l.index.toNat) then
        let l' := { l with index := if l.down then l.index - 1 else l.index + 1 }
        (ls.dropLast ++ [l'], l.start, true)
      else backEdge frozen next fuel ls.dropLast

/-- An instruction of `len` bytes retires without a taken transfer (06 R215): it counts (05 R185), and the back-edge
test decides where the strand goes on. -/
def Strand.advance (st : Strand) (len : Nat) : Strand :=
  let (ls, next, back) := backEdge st.frozen (st.pc + word len) 6 st.loops
  { st with loops := ls, pc := next, pcnt := if back then 0 else st.pcnt + 1, wait := none, cur := none }

/-- A transfer of control retires (05 R185). -/
def Strand.goto (st : Strand) (target : Word) : Strand :=
  { st with pc := target, pcnt := st.pcnt + 1, wait := none, cur := none }

/-- The levels that a taken br, brb or jmp to `t` leaves (06 R216). -/
def leaveLoops (frozen : Nat) (t : Word) : Nat → List LoopLevel → List LoopLevel
  | 0, ls => ls
  | fuel + 1, ls =>
    match ls.getLast? with
    | none => ls
    | some l =>
      if ls.length ≤ frozen then ls
      else if l.start.toNat ≤ t.toNat && t.toNat < l.stop.toNat then ls
      else leaveLoops frozen t fuel ls.dropLast

def Strand.branch (st : Strand) (target : Word) : Strand :=
  { st.goto target with loops := leaveLoops st.frozen target 6 st.loops }

def State.advance (s : State) (len : Nat) : State := s.mapSelf (fun st => st.advance len)

/-! ## Page faults and the end of a strand's instruction -/

/-- A page fault of an access in an address space: faults of one ASID on one page share one resolution (15 R471). -/
def State.pageFault (s : State) (asid : BitVec 16) (addr : Word) (tower info : Nat) : State :=
  if s.pageFaults.any (fun f => f.kind == 1 && f.asid == asid && f.addr.toNat / 65536 == addr.toNat / 65536) then s
  else { s with
    pageFaults := s.pageFaults ++ [{ id := s.serial, asid, addr, tower, info }]
    serial := s.serial + 1 }

/-- A page fault of the strand's instruction: it counts as not executed, and is executed again once its page has
arrived (05 R190, 06 R237); in the boot launch it ends the launch (17 R491). -/
def State.raisePage (s : State) (addr : Word) (access : Nat) : State :=
  if s.crew.ctx == bootCtx then s.endLaunch PAGE_NOT_PRESENT addr
  else (s.pageFault s.crew.asid addr s.self.tower (access + 32 * (if s.self.priv then 0 else 1))).mapSelf
    (fun st => { st with pageWait := some addr, pageCode := PAGE_NOT_PRESENT, cleared := [], looked := [], cur := none })

/-- The classes of faults (06 R237): FE_EMPTY enters the handler, every other code ends the launch. -/
def State.raise (s : State) (code : BitVec 8) (addr : Word) : State :=
  if code == FE_EMPTY then s.trapEntry 0 FE_EMPTY s.self.pc addr 0 else s.endLaunch code addr

/-- The state a stop leaves: a faulting instruction has no other effect (06 R237). -/
def State.onStop (s : State) : Stop → State
  | .wait t => t
  | .fault code addr => s.raise code addr
  | .page addr access => s.raisePage addr access
  | .wake p => (s.wakeAt p).mapSelf (fun st => { st with wait := none })
  | .faulted t code addr => t.raise code addr
  | .chainPage addr => (s.raisePage addr 1).mapSelf (fun st => { st with pageCode := QUEUE_CHAIN })
  | .endLaunch code addr user => s.endLaunch code addr user

/-- The end of a strand's instruction. -/
def finish (s : State) (r : Except Stop State) : Host.Outcome State Fault Refusal :=
  match r with
  | .ok t => .next t
  | .error e => .next (s.onStop e)

/-- Fault unless a condition holds. -/
def need (ok : Bool) (code : BitVec 8) (addr : Word) : Except Stop Unit :=
  if ok then .ok () else .error (.fault code addr)

/-- An instruction that faults leaves a destination empty (01 R34), also where the fault is a page that an address space, or
the boot launch, cannot have (15 R456, 17 R491). -/
def State.emptyOnFault {α : Type} (s : State) (d : Dest) (r : Except Stop α) : Except Stop α :=
  let t := s.mapSelf (fun st => st.empty d)
  match r with
  | .error (.fault code addr) => .error (.faulted t code addr)
  | .error (.endLaunch code addr 0) => .error (.faulted t code addr)
  | .error (.page addr access) => if s.crew.ctx == bootCtx then .error (.faulted t PAGE_NOT_PRESENT addr) else .error (.page addr access)
  | x => x

/-- Go no further, at no yield point, unless a condition holds. -/
def State.holdFor (s : State) (ok : Bool) : Except Stop Unit := if ok then .ok () else .error s.hold

/-- Wait, and try again, unless a condition holds. -/
def State.await (s : State) (ok : Bool) : Except Stop Unit := if ok then .ok () else .error s.retry

end Sys2Proof.Machine
end

