-- ==== Sys2Proof/WellFormed.lean ====
section
/-! DEFINITION. WellFormed.lean: which instructions the encoding admits (02 R48, R53, R54, R57 to R70; 09 R292;
11 R346, R349, R350; 12 R371). An instruction that fails a check here raises ILL_FIELD at decode. -/

namespace Sys2Proof

/-- A field that names one of 32 registers (R54). -/
def Reg.isG (r : Reg) : Bool := r.toNat < 32

/-- Selector within `0 … n` and g registers d, a, b in use (R53, R54). -/
def FA.dab (f : FA) (n : Nat) : Bool := f.fn.toNat ≤ n && f.d.isG && f.a.isG && f.b.isG
/-- d and a in use. -/
def FA.da (f : FA) (n : Nat) : Bool := f.fn.toNat ≤ n && f.d.isG && f.a.isG && f.b == 0
/-- a and b in use. -/
def FA.ab (f : FA) (n : Nat) : Bool := f.fn.toNat ≤ n && f.d == 0 && f.a.isG && f.b.isG
/-- Only a in use. -/
def FA.aOnly (f : FA) (n : Nat) : Bool := f.fn.toNat ≤ n && f.d == 0 && f.a.isG && f.b == 0
/-- No register in use. -/
def FA.none (f : FA) (n : Nat) : Bool := f.fn.toNat ≤ n && f.d == 0 && f.a == 0 && f.b == 0
/-- TY 4 or 5 (R59). -/
def FA.isFloat (f : FA) : Bool := f.fn == 4 || f.fn == 5
/-- Neither d nor a names the scale register v63 (11 R346). -/
def FA.not63 (f : FA) : Bool := f.d != 63 && f.a != 63

def FI.regs (f : FI) : Bool := f.a.isG && f.d.isG
/-- off5 of the memory forms (R60). -/
def FI.off (f : FI) : BitVec 5 := f.imm.extractLsb' 5 5
/-- kind of the memory forms (R60): 0 weak, 1 strong, 2 acquire or release. -/
def FI.kind (f : FI) : BitVec 2 := f.imm.extractLsb' 3 2
/-- sg of the memory forms (R60). -/
def FI.sg (f : FI) : Bool := f.imm.getLsbD 2
/-- sz of the memory forms (R60). -/
def FI.sz (f : FI) : BitVec 2 := f.imm.extractLsb' 0 2
def FI.memKind (f : FI) : Bool := f.kind != 3

/-- flags[31:30] zero and a body of at least one halfword (R52). -/
def FL.shape (f : FL) : Bool := f.flags.extractLsb' 2 2 == 0 && f.body != 0

/-- What of the first word of a pair an instruction uses (R57, R58): the EMP bits, the largest RND and SAT, and
whether SLOT, IXB and ORD are used. -/
structure PxUse where
  emp : BitVec 3 := 0
  rnd : Nat := 0
  sat : Nat := 0
  slot : Bool := false
  ixb : Bool := false
  ord : Bool := false
deriving DecidableEq, Repr

/-- 0x5D–0x5F, 0x62, 0x63 (09 R292); a second word of an unlisted TY, 6 or 7, is held to the integer set (log 33). -/
def PxUse.arith (float : Bool) (emp : BitVec 3) : PxUse :=
  if float then { emp, rnd := 6, sat := 2, ixb := true } else { emp, sat := 3 }

/-- 0x7A, 0x7B, 0x7D, 0x7F (09 R292). -/
def PxUse.reduce (float : Bool) (emp : BitVec 3) : PxUse :=
  if float then { emp, rnd := 6, ixb := true, ord := true } else { emp, ord := true }

/-- The use each prefixable instruction makes of the first word; `none` where a pair raises ORPHAN_PREFIX (R58). Where the second word's
fn or TY is unlisted, so that the pair raises ILL_FIELD whatever its first word holds, the use that its arm gives such an fn or TY
decides which word TADDR names (log 33). -/
def pxUse : Instr → Option PxUse
  | .vadd f => some (.arith f.isFloat 3)
  | .vsub f => some (.arith f.isFloat 3)
  | .vmul f => some (.arith f.isFloat 3)
  | .vmulhI _ => some { emp := 3 }
  | .vmulhN _ => some { emp := 3 }
  | .vfma f => some (.arith f.isFloat 7)
  | .vdiv f => some (.arith f.isFloat 3)
  | .vdivN _ => some { emp := 3 }
  | .vmin _ => some { emp := 3 }
  | .vminN _ => some { emp := 3 }
  | .vmax _ => some { emp := 3 }
  | .vmaxN _ => some { emp := 3 }
  | .vand _ => some { emp := 3 }
  | .vor _ => some { emp := 3 }
  | .vxor _ => some { emp := 3 }
  | .vandn _ => some { emp := 3 }
  | .vorn _ => some { emp := 3 }
  | .vxnor _ => some { emp := 3 }
  | .vshl _ => some { emp := 3 }
  | .vshr _ => some { emp := 3 }
  | .vsar _ => some { emp := 3 }
  | .vcmp _ => some { emp := 3 }
  | .vsel _ => some { emp := 3 }
  | .vmov _ => some { emp := 1 }
  | .vabs f => some { emp := 1, sat := if f.isFloat then 0 else 3 }
  | .vneg f => some { emp := 1, sat := if f.isFloat then 0 else 3 }
  | .vexp2 f => some { emp := 1, rnd := if f.fn == 4 then 1 else 6, sat := 2, ixb := f.fn == 5 }
  | .vlog2 f => some { emp := 1, rnd := if f.fn == 4 then 1 else 6, sat := 2, ixb := f.fn == 5 }
  | .vrecip f => some { emp := 1, rnd := if f.fn == 4 then 1 else 6, sat := 2, ixb := f.fn == 5 }
  | .vsqrt f => some { emp := 1, rnd := if f.fn == 4 then 1 else 6, sat := 2, ixb := f.fn == 5 }
  | .vrsqrt f => some { emp := 1, rnd := if f.fn == 4 then 1 else 6, sat := 2, ixb := f.fn == 5 }
  | .vact f => some { emp := 1, rnd := if f.fn == 4 then 1 else 6, sat := 2, ixb := f.fn == 5 }
  | .vperm _ => some { emp := 3 }
  | .vslide _ => some { emp := 3 }
  | .vcompress _ => some { emp := 1 }
  | .vexpand _ => some { emp := 1 }
  | .vredsum f => some (.reduce f.isFloat 1)
  | .vredsumO f => some (.reduce f.isFloat 1)
  | .vredmm _ => some { emp := 1, ord := true }
  | .vscan f => some (.reduce f.isFloat 1)
  | .vsortkv _ => some { emp := 1, ord := true }
  | .vsegred f => some (.reduce f.isFloat 3)
  | .cvtn f => some { emp := if f.fn == 0 then 1 else 3, rnd := 6, sat := 2, slot := f.fn == 1 || f.fn == 2, ixb := true }
  | .cvtnF _ => some { emp := 1, rnd := 6, sat := 2, slot := true, ixb := true }
  | .cvtw f => some (match f.fn.toNat with
    | 0 => { emp := 1 }
    | 3 => { emp := 3, ixb := true }
    | _ => { emp := 3, rnd := 6, sat := 2, slot := true, ixb := true })
  | .cvtwF _ => some { emp := 3, rnd := 6, sat := 2, slot := true, ixb := true }
  | .qscale _ => some { emp := 1, slot := true, ixb := true }
  | .rotv _ => some { emp := 1, rnd := 6, sat := 2, slot := true, ixb := true }
  | .unrotv _ => some { emp := 1, rnd := 6, sat := 2, slot := true, ixb := true }
  | .cvti f => some (match f.fn.toNat with
    | 0 => { emp := 1, sat := 3 }
    | 1 => { emp := 1, rnd := 6, sat := 3, slot := true, ixb := true }
    | 2 => { emp := 3, rnd := 6, ixb := true }
    | 5 => { emp := 3, rnd := 6, slot := true, ixb := true }
    | _ => { emp := 1 })
  | .mma _ => some { emp := 3 }
  | .mmaC _ => some { emp := 3 }
  | .mmas _ => some { emp := 3 }
  | .mmax _ => some { emp := 3 }
  | .macc _ => some {}
  | .mcvt f => some { emp := 2, rnd := 6, sat := 2, slot := f.fn.toNat ≥ 2, ixb := true }
  | _ => none

/-- The E bit of the second word, which must be 0 in a pair (R57). -/
def secondE : Instr → BitVec 1
  | .vadd f => f.e
  | .vsub f => f.e
  | .vmul f => f.e
  | .vmulhI f => f.e
  | .vmulhN f => f.e
  | .vfma f => f.e
  | .vdiv f => f.e
  | .vdivN f => f.e
  | .vmin f => f.e
  | .vminN f => f.e
  | .vmax f => f.e
  | .vmaxN f => f.e
  | .vand f => f.e
  | .vor f => f.e
  | .vxor f => f.e
  | .vandn f => f.e
  | .vorn f => f.e
  | .vxnor f => f.e
  | .vshl f => f.e
  | .vshr f => f.e
  | .vsar f => f.e
  | .vcmp f => f.e
  | .vsel f => f.e
  | .vmov f => f.e
  | .vabs f => f.e
  | .vneg f => f.e
  | .vexp2 f => f.e
  | .vlog2 f => f.e
  | .vrecip f => f.e
  | .vsqrt f => f.e
  | .vrsqrt f => f.e
  | .vact f => f.e
  | .vperm f => f.e
  | .vslide f => f.e
  | .vcompress f => f.e
  | .vexpand f => f.e
  | .vredsum f => f.e
  | .vredsumO f => f.e
  | .vredmm f => f.e
  | .vscan f => f.e
  | .vsortkv f => f.e
  | .vsegred f => f.e
  | .cvtn f => f.e
  | .cvtnF f => f.e
  | .cvtw f => f.e
  | .cvtwF f => f.e
  | .qscale f => f.e
  | .rotv f => f.e
  | .unrotv f => f.e
  | .cvti f => f.e
  | .mma f => f.e
  | .mmaC f => f.e
  | .mmas f => f.e
  | .mmax f => f.e
  | .macc f => f.e
  | .mcvt f => f.e
  | _ => 0

/-- The fields of the first word hold listed values, and those the instruction does not use are zero (R57, R58). -/
def Prefix.ok (p : Prefix) (u : PxUse) : Bool :=
  p.rnd.toNat ≤ u.rnd && p.sat.toNat ≤ u.sat && (p.emp &&& ~~~u.emp) == 0 &&
    (u.slot || p.slot == 0) && p.ixb.isG && (u.ixb || p.ixb == 0) && (u.ord || p.ord == 0)

/-- The fields of the instruction's own word (R48, R53, R54, R59–R70). -/
def wordOk : Instr → Bool
  | .cMv f => f.x == 0
  | .cAdd f => f.x == 0
  | .cSub f => f.x == 0
  | .cAnd f => f.x == 0
  | .cOr f => f.x == 0
  | .cXor f => f.x == 0
  | .cLds _ => true
  | .cSts _ => true
  | .cAddi _ => true
  | .cLi _ => true
  | .cShli f => !f.imm.getLsbD 6
  | .cShri f => !f.imm.getLsbD 6
  | .cBeqz _ => true
  | .cBnez _ => true
  | .cBrb f => f.a != 0
  | .cJmp _ => true
  | .cJr f => f.d == 0 && f.x == 0
  | .cNop f => f.x == 0 && f.a == 0 && f.d == 0
  | .cYield f => f.x == 0 && f.a == 0 && f.d == 0
  | .cLidx f => f.a == 0 && f.x.toNat ≤ 5
  | .add f => f.dab 0
  | .sub f => f.dab 0
  | .addi f => f.regs
  | .andR f => f.dab 0
  | .orR f => f.dab 0
  | .xorR f => f.dab 0
  | .logi f => f.regs && f.imm.extractLsb' 8 2 != 3
  | .shl f => f.dab 0
  | .shr f => f.dab 0
  | .sar f => f.dab 0
  | .shi f => f.regs && f.imm.extractLsb' 6 2 == 0
  | .mul f => f.dab 0
  | .mulh f => f.dab 2
  | .div f => f.dab 1
  | .rem f => f.dab 1
  | .minmax f => f.dab 3
  | .cmp f => f.dab 5
  | .sel f => f.dab 0
  | .lui f => f.d.isG
  | .addpc f => f.d.isG
  | .fops f => f.dab 6 && (f.fn != 4 || f.b == 0)
  | .ffma f => f.dab 1
  | .fcmp f => f.dab 3
  | .fcvt f => f.da 5
  | .br f => f.a.isG
  | .brb f => f.a.isG && f.a != 0 && f.cond.toNat ≤ 1
  | .jmp _ => true
  | .jal _ => true
  | .jr f => f.da 0
  | .loopR f => f.shape && f.count.isG
  | .loopi f => f.shape
  | .lexit f => f.none 5
  | .lidx f => f.fn.toNat ≤ 5 && f.b == 0 && f.a == 0 && f.d.isG
  | .fe f => f.b == 0 && f.d.isG && (f.fn == 2 && f.a.isG || f.fn.toNat ≤ 1 && f.a == 0)
  | .getc f => f.d.isG && f.imm.toNat ≤ 0x11
  | .setc f => f.d.isG && f.imm.toNat ≤ 0x11
  | .trap f => f.d == 0 && 0x80 ≤ f.imm.toNat && f.imm.toNat ≤ 0xFF
  | .tret f => f.none 0
  | .sys f => f.d == 0
  | .brk f => f.d == 0
  | .ldS f => f.memKind && f.a.isG && f.d.isG
  | .stS f => f.memKind && !f.sg && f.a.isG && f.d.isG
  | .ldC f => f.memKind && f.a.isG && f.d.isG
  | .stC f => f.memKind && !f.sg && f.a.isG && f.d.isG
  | .ldT f => f.memKind && f.a.isG && f.d.isG
  | .stT f => f.memKind && !f.sg && f.a.isG && f.d.isG
  | .ldG f => f.memKind && f.a.isG && f.d.isG
  | .stG f => f.memKind && !f.sg && f.a.isG && f.d.isG
  | .ldq f => f.memKind && f.sz == 0 && !f.sg && f.a.isG && f.d.isG
  | .stq f => f.memKind && f.sz == 0 && !f.sg && f.a.isG && f.d.isG
  | .ldfe f => f.memKind && f.sz == 3 && !f.sg && f.a.isG && f.d.isG
  | .stfe f => f.memKind && f.sz == 3 && !f.sg && f.a.isG && f.d.isG
  | .fefill f => f.ab 1
  | .ldfeC f => f.memKind && f.sz == 3 && !f.sg && f.a.isG && f.d.isG
  | .stfeC f => f.memKind && f.sz == 3 && !f.sg && f.a.isG && f.d.isG
  | .fence f => f.fn.toNat ≤ 4 && f.d == 0 && f.a == 0 && f.b.toNat ≤ 2
  | .xch f => f.dab 5
  | .rgclaim f => f.da 0
  | .rgpost f => f.aOnly 0
  | .rgtake f => f.da 0
  | .rgfree f => f.aOnly 0
  | .rginit f => f.ab 0
  | .pref f => f.d == 0 && !f.sg && f.kind == 0 && f.sz.toNat ≤ 1 && f.a.isG
  | .tsplit f => f.aOnly 0
  | .casS f => f.dab 1
  | .amoS f => f.dab 7
  | .leaseq f => f.da 0
  | .wfull f => f.aOnly 0
  | .cpub f => f.ab 4
  | .cpubq f => f.dab 4
  | .ifence f => f.none 0
  | .ipatch f => f.ab 4
  | .spawn f => f.da 0
  | .spawnw f => f.da 0 && f.d != 0
  | .yield f => f.none 0
  | .retire f => f.none 0
  | .cbar f => f.aOnly 0
  | .cbarq f => f.dab 0
  | .wseq f => f.dab 0
  | .abort f => f.d == 0
  | .vlong f => f.aOnly 0
  | .vshort f => f.none 0
  | .setvl f => f.da 0
  | .mset f => f.d.toNat < 8 && f.a.isG && f.b.isG
  | .mpop f => f.fn == 0 && f.b == 0 && f.d.isG && f.a.toNat < 8
  | .vxch f => f.b.isG
  | .vidx f => f.fn.toNat ≤ 3 && f.a == 0 && f.b == 0
  | .vld f => f.b == 0
  | .vst f => f.b == 0
  | .vlds f => f.b.isG
  | .vsts f => f.b.isG
  | .vldx _ => true
  | .vstx _ => true
  | .vadd f => f.fn.toNat ≤ 5
  | .vsub f => f.fn.toNat ≤ 5
  | .vmul f => f.fn.toNat ≤ 5
  | .vmulhI f => f.fn.toNat ≤ 3
  | .vmulhN f => f.fn.toNat ≤ 3
  | .vfma f => f.fn.toNat ≤ 5
  | .vdiv f => f.fn.toNat ≤ 5
  | .vdivN f => f.fn.toNat ≤ 3
  | .vmin f => f.fn.toNat ≤ 5
  | .vminN f => f.fn.toNat ≤ 3
  | .vmax f => f.fn.toNat ≤ 5
  | .vmaxN f => f.fn.toNat ≤ 3
  | .vand f => f.fn == 0
  | .vor f => f.fn == 1
  | .vxor f => f.fn == 2
  | .vandn f => f.fn == 3
  | .vorn f => f.fn == 4
  | .vxnor f => f.fn == 5
  | .vshl f => f.fn.toNat ≤ 3
  | .vshr f => f.fn.toNat ≤ 3
  | .vsar f => f.fn.toNat ≤ 3
  | .vcmp f => f.fn.toNat ≤ 5 && (f.d.extractLsb' 3 3).toNat ≤ 5
  | .vsel _ => true
  | .vmov f => f.a.isG && f.b == 0
  | .vabs f => f.b == 0 && f.fn.toNat ≤ 5
  | .vneg f => f.b == 1 && f.fn.toNat ≤ 5
  | .vexp2 f => f.b == 0 && f.isFloat
  | .vlog2 f => f.b == 0 && f.isFloat
  | .vrecip f => f.b == 0 && f.isFloat
  | .vsqrt f => f.b == 0 && f.isFloat
  | .vrsqrt f => f.b == 1 && f.isFloat
  | .vact f => f.b.toNat ≤ 1 && f.isFloat
  | .vperm _ => true
  | .vslide f => f.b.isG
  | .vcompress f => f.b == 0
  | .vexpand f => f.b == 0
  | .vredsum f => f.b == 0 && f.fn.toNat ≤ 5
  | .vredsumO f => f.b == 0 && f.fn.toNat ≤ 5
  | .vredmm f => f.b.toNat ≤ 3 && f.fn.toNat ≤ 5 && (f.b.toNat ≤ 1 || f.fn.toNat ≤ 3)
  | .vscan f => f.b.toNat ≤ 2 && f.fn.toNat ≤ 5
  | .vsortkv f => f.b.toNat ≤ 1 && f.fn.toNat ≤ 5 && f.d.getLsbD 0 == false && f.a.getLsbD 0 == false
  | .vsegred f => f.fn.toNat ≤ 5
  | .amoG f => f.d.isG && f.b.isG
  | .casG f => f.dab 1
  | .redG f => f.d == 0 && f.b.isG
  | .fredG f => f.ab 2
  | .famoG f => f.dab 2
  | .vredG _ => true
  | .vfredG f => f.fn.toNat ≤ 2 && f.a.isG
  | .rfence f => f.none 4
  | .rgrain f => f.aOnly 0
  | .rdrop f => f.aOnly 0
  | .gflush f => f.ab 1
  | .gquery f => f.da 0
  | .seed f => f.fn == 0 && f.b == 0 && f.a.isG && 1 ≤ f.d.toNat && f.d.toNat < 16
  | .seedq f => f.fn == 0 && f.b == 0 && f.d.isG && f.a.toNat < 16
  | .srseed f => f.aOnly 0
  | .rtag f => f.dab 0
  | .cvtn f => f.fn.toNat ≤ 3 && f.b == 0 && (f.fn == 0 || f.not63)
  | .cvtnF f => f.fn == 0 && f.b == 0 && f.not63
  | .cvtw f => f.fn.toNat ≤ 3 && f.b == 0 && (f.fn == 0 || f.not63)
  | .cvtwF f => f.fn == 0 && f.b == 0 && f.not63
  | .qscale f => 1 ≤ f.fn.toNat && f.fn.toNat ≤ 3 && f.b == 0
  | .rotv f => f.isFloat && f.b == 0
  | .unrotv f => f.isFloat && f.b == 0
  | .cvti f => f.fn != 3 && f.fn != 7 && f.b == 0 && (f.fn == 0 || f.fn == 4 || f.fn == 6 || f.not63)
  | .mzero f => f.none 1
  | .mld f => f.aOnly 1
  | .mst f => f.aOnly 3
  | .mbar f => f.aOnly 0
  | .mwait f => f.aOnly 0
  | .mtr f => f.aOnly 0
  | .mrow f => f.fn.toNat ≤ 1 && f.b == 0 && f.a.isG
  | .mramp f => f.aOnly 0
  | .mtag f => f.dab 0
  | .mscl f => f.aOnly 0
  | .mma f => f.ab 3
  | .mmaC f => f.ab 3
  | .mmas f => f.ab 3
  | .mmax f => f.ab 3
  | .macc f => f.none 1
  | .mcvt f => f.fn.toNat ≤ 5 && f.a == 0 && f.b == 0
  | .crn f => f.da 0
  | .crnF f => f.dab 0
  | .crnT f => f.da 0
  | .crnR f => f.dab 0
  | .crnq f => f.da 0
  | .crnw f => f.ab 0
  | .crnX f => f.aOnly 0
  | .crnC f => f.da 0
  | .ldB f => f.fn == 0 && f.a.isG && f.b.isG
  | .stB f => f.fn == 0 && f.a.isG && f.b.isG
  | .bcall f => f.dab 0
  | .bfence f => f.ab 0
  | .block f => f.ab 0
  | .bunlk f => f.ab 0
  | .bseal f => f.ab 0
  | .bstat f => f.da 0
  | .bcsl f => f.ab 0
  | .bsave f => f.aOnly 0
  | .brest f => f.aOnly 0
  | .bwdog f => f.ab 0
  | .bmode f => f.aOnly 2
  | .bpart f => f.ab 0
  | .bscrub f => f.ab 0
  | .paddingHalf => true
  | _ => false

/-- An encoded instruction with every field as the encoding admits it; the steps of other agents have no encoding. -/
def wellFormed : Instr → Bool
  | .prefixedPair p j =>
    match pxUse j with
    | some u => p.ok u && wordOk j && secondE j == 0
    | none => false
  | j => wordOk j

end Sys2Proof
end

