-- ==== Sys2Proof/Machine/Operands.lean ====
section
/-! DEFINITION. Operands.lean: reading source registers with their empty-source behaviour (01 R34, 02 R55), waiting
for a pending producer of a destination, and the operand forms of the memory and branch formats. -/

namespace Sys2Proof

/-- The E bit of a format A word. -/
def FA.trap (f : FA) : Bool := f.e == 1

/-- The byte offset of a memory form (02 R60): off5 counts units of `unit` bytes. -/
def FI.byteOffset (f : FI) (unit : Nat) : Word := BitVec.ofInt 64 (f.off.toInt * unit)

/-- The kind of a memory form (02 R60); `store` says which of acquire and release code 2 stands for. -/
def FI.kindOf (f : FI) (store : Bool) : Machine.Kind :=
  if f.kind == 0 then .weak else if f.kind == 1 then .strong else if store then .rel else .acq

end Sys2Proof

namespace Sys2Proof.Machine

/-- An empty source: a trap with the register's number, or a wait (02 R55). -/
def State.emptySource (s : State) (r : Reg) (trap : Bool) : Stop :=
  if trap then .fault FE_EMPTY (r.setWidth 64) else s.retry

/-- Read g[r]. -/
def State.srcG (s : State) (r : Reg) (trap : Bool := false) : Except Stop Word :=
  if s.self.gIsFull r.toNat then .ok (s.self.readG r.toNat) else .error (s.emptySource r trap)

/-- Read a vector operand. -/
def State.srcV (s : State) (r : Reg) (trap : Bool := false) : Except Stop (List Byte) :=
  if s.self.vIsFull r.toNat then .ok (s.self.vreg r.toNat) else .error (s.emptySource r trap)

/-- Wait until no producer of a destination of this strand is pending (01 R34). -/
def State.destFree (s : State) (d : Dest) : Except Stop Unit :=
  s.await (!s.pendingOn s.self.crew s.self.idx d)

/-- A result of a sequencer instruction: wait for the destination, write it, retire (06 R206). -/
def State.result (s : State) (d : Reg) (len : Nat) (v : Word) : Except Stop State := do
  s.destFree (.g d.toNat)
  return s.mapSelf (fun st => (st.setG d.toNat v).advance len)

/-- The target of a branch: the branch's address plus twice its offset (02 R52). -/
def target {n : Nat} (pc : Word) (off : BitVec n) : Word := pc + BitVec.ofInt 64 (2 * off.toInt)

/-- A supervisor-only instruction raises PRIV in user code (02 R46, R61). -/
def State.supervisor (s : State) : Except Stop Unit := need s.self.priv PRIV s.self.pc

end Sys2Proof.Machine
end

