-- ==== Sys2Proof/Machine/Flags.lean ====
section
/-! DEFINITION. Flags.lean: the strand's status word (06 R209, R210), the conditions instructions test (02 R59), and
the control registers as getc and setc see them (06 R208 to R212). -/

namespace Sys2Proof.Machine

/-- STATUS (R209). -/
def Strand.status (st : Strand) : Word :=
  word (b2n st.priv + 2 * b2n st.pPriv + 4 * b2n st.inTrap + 8 * b2n st.long + 16 * st.ldepth + 256 * st.tld)

/-- TCAUSE (R210). -/
def Strand.tcause (st : Strand) : Word := word (st.tcode.toNat + 256 * st.tkind.toNat)

/-- PHYSCORE (R211). -/
def physcore (slot : Nat) : Word :=
  word (slot % 8 + 8 * (slot / 8 % 8) + 64 * (slot / 64 % 14) + 1024 * (slot / 896))

/-- The integer conditions of cmp (R59, CC). -/
def condHolds (cc : Nat) (a b : Word) : Bool :=
  match cc with
  | 0 => a == b
  | 1 => a != b
  | 2 => a.slt b
  | 3 => !a.slt b
  | 4 => a.ult b
  | _ => !a.ult b

/-- The br conditions that compare with zero (R59, R225): eqz, nez, ltz, gez, gtz, lez. -/
def zeroCond (cc : Nat) (a : Word) : Bool :=
  match cc with
  | 0 => a == 0
  | 1 => a != 0
  | 2 => a.slt 0
  | 3 => !a.slt 0
  | 4 => (0 : Word).slt a
  | _ => !(0 : Word).slt a

/-- A control register's value by its selector (02 R63). -/
def State.control (s : State) (sel : Nat) : Word :=
  let st := s.self
  let c := s.crew
  match sel with
  | 0x0 => st.status
  | 0x1 => st.tvec
  | 0x2 => st.tpc
  | 0x3 => st.tcause
  | 0x4 => st.taddr
  | 0x5 => st.eidx
  | 0x6 => st.srs
  | 0x7 => st.rot.setWidth 64
  | 0x8 => st.rmode.setWidth 64
  | 0x9 => word c.vlGrant
  | 0xA => word st.vl
  | 0xB => word st.idx
  | 0xC => word c.size
  | 0xD => word s.tide
  | 0xE => Config.tideHz
  | 0xF => c.repin
  | 0x10 => c.asid.setWidth 64
  | _ => physcore st.slot

/-- Write a control register's RW fields; every other write is ignored (R212). -/
def Strand.setControl (st : Strand) (sel : Nat) (v : Word) : Strand :=
  match sel with
  | 0x1 => { st with tvec := v &&& ~~~1 }
  | 0x2 => { st with tpc := v &&& ~~~1 }
  | 0x3 => { st with tcode := v.setWidth 8, tkind := v.extractLsb' 8 2 }
  | 0x4 => { st with taddr := v }
  | 0x5 => { st with eidx := v }
  | 0x6 => { st with srs := v }
  | 0x7 => { st with rot := v.setWidth 4 }
  | 0x8 => { st with rmode := v.setWidth 3 }
  | _ => st

end Sys2Proof.Machine
end

