-- ==== Sys2Proof/Machine/BeadStore.lean ====
section
/-! DEFINITION. BeadStore.lean: micro-words, the checks of a control-store image, and the row sets of an entry (02 R80,
14 R420 to R427). -/

namespace Sys2Proof.Machine

/-! ## Micro-words (R421, R422) -/

structure Micro where
  op : Nat
  rs : Bool
  sealRows : Bool
  a : Nat
  b : Nat
  c : Nat
  csel : Nat
  cond : Nat
  edge : Bool
  tgt : Nat
  rest : Nat
deriving DecidableEq, Repr

def micro (w : Nat) : Micro :=
  { op := bitsOf w 127 124, rs := w.testBit 123, sealRows := w.testBit 122, a := bitsOf w 119 104, b := bitsOf w 103 88
    c := bitsOf w 87 72, csel := bitsOf w 71 70, cond := bitsOf w 69 68, edge := w.testBit 67, tgt := bitsOf w 63 56
    rest := bitsOf w 121 120 + bitsOf w 66 64 + bitsOf w 55 0 }

/-- Micro-word `k` of a control-store image (R80). -/
def microAt (store : List Byte) (k : Nat) : Micro := micro (field store (128 + 16 * k) 16)

def Micro.usesA (m : Micro) : Bool := m.op ≤ 2
def Micro.usesB (m : Micro) : Bool := 1 ≤ m.op && m.op ≤ 4
def Micro.usesC (m : Micro) : Bool := m.op == 2
/-- REP and BRF. -/
def Micro.jumps (m : Micro) : Bool := m.op == 5 || m.op == 6
def Micro.shifts (m : Micro) : Bool := m.op == 3 || m.op == 4

/-- A row operand with its must-be-zero bits zero (R422). -/
def operandOk (v : Nat) : Bool :=
  match v / 2 ^ 14 with
  | 0 => bitsOf v 13 10 == 0
  | 1 => true
  | 2 => bitsOf v 13 3 == 0
  | _ => bitsOf v 13 1 == 0

/-- Item 2 of R425: the layout of R421, the operands of R422, and no constant row written by AAP, CSL or CSR. -/
def Micro.ok (m : Micro) : Bool :=
  m.op ≤ 8 && m.rest == 0 &&
    (if m.usesA then operandOk m.a else m.a == 0) && (if m.usesB then operandOk m.b else m.b == 0) &&
    (if m.usesC then operandOk m.c else m.c == 0) && !((m.op == 1 || m.shifts) && m.b / 2 ^ 14 == 3) &&
    (m.op < 7 || (!m.rs && m.csel == 0)) && (m.op == 8 || !m.sealRows) &&
    (if m.op == 6 then m.cond != 3 else m.cond == 0) && (m.shifts || !m.edge) && (m.jumps || m.tgt == 0)

/-- A refresh-safe word (R425). -/
def Micro.isSafe (m : Micro) : Bool := m.rs || m.op == 7 || m.op == 8

/-- The words that may follow word `k`. -/
def Micro.next (m : Micro) (k : Nat) : List Nat :=
  if 8 ≤ m.op then []
  else if m.op = 5 then [m.tgt, k + 1]
  else if m.op = 6 then (if m.cond = 0 then [m.tgt] else [m.tgt, k + 1])
  else [k + 1]

/-! ## The image's checks (R425) -/

/-- Entry `e` of the entry table: its start word, if it is present (R80). -/
def entryStart (store : List Byte) (e : Nat) : Option Nat :=
  let h := field store (2 * e) 2
  if h.testBit 15 then some (h % 256) else none

/-- The words reachable from those of a set. -/
def reachFrom (store : List Byte) : Nat → List Nat → List Nat
  | 0, l => l
  | n + 1, l =>
    let new := (l.flatMap (fun k => (microAt store k).next k)).filter (fun k => k < 256 && !l.contains k)
    if new.isEmpty then l else reachFrom store n (l ++ new.eraseDups)
/-- The words reachable from an entry's start, in ascending order. -/
def reachable (store : List Byte) (start : Nat) : List Nat :=
  let l := reachFrom store 256 [start]
  (List.range 256).filter l.contains

/-- The words among `l` from which some path runs `n + 1` words without a refresh-safe word. -/
def longRuns (store : List Byte) (l : List Nat) : Nat → List Nat
  | 0 => l.filter (fun k => !(microAt store k).isSafe)
  | n + 1 =>
    let r := longRuns store l n
    l.filter (fun k => !(microAt store k).isSafe && ((microAt store k).next k).any r.contains)

/-- Word `k` fails item 3 of R425 among the words `l` reachable from `start`. Where two words clash, it is the one the
rule speaks of: the later of two overlapping bodies, the REP of the outer body, the BRF that leaves one, the shift. -/
def flowBad (store : List Byte) (start : Nat) (l : List Nat) (k : Nat) : Bool :=
  let m := microAt store k
  let inBody (r x : Nat) : Bool := (microAt store r).tgt ≤ x && x ≤ r
  let reps := l.filter (fun r => (microAt store r).op == 5)
  (m.op == 5 && (k < m.tgt || l.any (fun x => (microAt store x).op == 5 && x != k && inBody k x && (microAt store x).csel == m.csel) ||
      reps.any (fun r => (microAt store r).tgt < m.tgt && m.tgt ≤ r && r < k))) ||
    (m.op == 6 && (m.tgt ≤ k || reps.any (fun r => inBody r k && !inBody r m.tgt))) ||
    (m.next k).any (fun x => 255 < x) || (m.jumps && (microAt store m.tgt).shifts) ||
    (m.shifts && (k == start || l.any (fun x =>
      ((microAt store x).next x).contains k && (2 < (microAt store x).op || (microAt store x).rs))))

/-- The offset in the image of the first halfword or micro-word that fails R425, in image order. A run of 65 words
without a refresh-safe one fails at its first word. -/
def imageFault (store : List Byte) : Option Nat :=
  match (List.range 64).find? (fun e => bitsOf (field store (2 * e) 2) 14 8 != 0) with
  | some e => some (2 * e)
  | none =>
    let starts := ((List.range 64).filterMap (entryStart store)).eraseDups
    let flows := starts.map (fun s => (s, reachable store s))
    let runs := (flows.flatMap (fun x => longRuns store x.2 64))
    ((List.range 256).find? (fun k => !(microAt store k).ok || runs.contains k ||
      flows.any (fun x => x.2.contains k && flowBad store x.1 x.2 k))).map (fun k => 128 + 16 * k)

/-! ## Row sets (R425, R427) -/

/-- The operands a word reads, and those it writes. -/
def Micro.reads (m : Micro) : List Nat :=
  if m.op ≤ 1 then [m.a] else if m.op = 2 then [m.a, m.b, m.c] else []
def Micro.writes (m : Micro) : List Nat :=
  if m.op = 1 || m.shifts then [m.b] else if m.op = 2 then [m.a, m.b, m.c] else []

/-- The absolute rows, and the argument slots, that operands name. -/
def absRows (l : List Nat) : List Nat := ((l.filter (fun v => v / 2 ^ 14 == 0)).map (· % 1024)).eraseDups
def slotsOf (l : List Nat) : List Nat := ((l.filter (fun v => v / 2 ^ 14 == 1)).map (fun v => bitsOf v 13 11)).eraseDups

/-- The operands that an entry's reachable words read, and those they write. -/
def entryReads (store : List Byte) (start : Nat) : List Nat :=
  (reachable store start).flatMap (fun k => (microAt store k).reads)
def entryWrites (store : List Byte) (start : Nat) : List Nat :=
  (reachable store start).flatMap (fun k => (microAt store k).writes)

/-! ## Bead pointers and argument blocks (R416, R417, R426) -/

def ptrFmt (p : Word) : Nat := wbits p 63 60
def ptrTag (p : Word) : Nat := wbits p 59 56
def ptrWidth (p : Word) : Nat := wbits p 55 51
def ptrChan (p : Word) : Nat := wbits p 50 47 * 32 + wbits p 46 42
def ptrBank (p : Word) : Nat := wbits p 41 38
def ptrSub (p : Word) : Nat := wbits p 37 32
def ptrRow (p : Word) : Nat := wbits p 31 22
def ptrCol (p : Word) : Nat := wbits p 21 9

/-- The pointer checks of R417. -/
def ptrFault (p : Word) : Option (BitVec 8) :=
  let w := ptrWidth p
  if 2 < ptrFmt p then some 0x19
  else if (match ptrFmt p with
      | 0 => w < 2 || 16 < w
      | 1 => w < 1 || 16 < w
      | _ => w != 2) || wbits p 8 0 != 0 || 1024 < ptrRow p + w then some 0x02
  else none

/-- The rows of a pointer's extent. -/
def ptrRows (p : Word) : List Nat := (List.range (ptrWidth p)).map (ptrRow p + ·)

/-- An argument block's fields. -/
def blockBanks (bs : List Byte) : List Nat := (List.range 16).filter (fun n => (field bs 6 2).testBit n)
def blockSub (bs : List Byte) : Nat := bitsOf (field bs 0 8) 47 42
def blockChan (bs : List Byte) : Nat := bitsOf (field bs 0 8) 36 33 * 32 + bitsOf (field bs 0 8) 41 37
def blockKey (bs : List Byte) : BitVec 16 := BitVec.ofNat 16 (field bs 0 2)
/-- INIT of a counter; 0 acts as 1 (R424). -/
def blockInit (bs : List Byte) (k : Nat) : Nat := max 1 (field bs (8 + 2 * k) 2)
def blockArg (bs : List Byte) (n : Nat) : Word := leWord (slice bs (0x20 + 8 * n) 8)

/-- The rows of a set of slots and absolute rows (R427). -/
def rowsOf (bs : List Byte) (operands : List Nat) : List Nat :=
  let slots := (slotsOf operands).flatMap (fun n => ptrRows (blockArg bs n))
  let l := absRows operands ++ slots
  (List.range 1024).filter l.contains

end Sys2Proof.Machine
end

