-- ==== Sys2Proof/Machine/Translate.lean ====
section
/-! DEFINITION. Translate.lean: page tables, placement and permissions (15 R456 to R468), the boot mapping (17 R491),
and the extent of the local spaces (04 R124). -/

namespace Sys2Proof.Machine

/-! ## Where a line lives (R462 to R465) -/

/-- The memory behind a G place takes no access now: it is in self-refresh, in a bank that computes, of a tower that has
tripped or not started, or behind a port that is down (10 R339; 14 R432; 17 R492, R502). -/
def State.memoryOff (s : State) (p : Nat) : Bool :=
  if Place.isDram p then
    (s.tower (Place.towerOf p)).rcDown || (s.tower (Place.towerOf p)).layersDown.contains (Place.bankOf p % 32 / 2) || s.bankBusy p
  else if p < 2 * 2 ^ 60 then (s.tower (homeTower p)).rcDown
  else s.mod.ports.all (fun up => !up)

/-- A place is out of reach: its memory is, and its line is not dirty in L2, as a stranded line is, and one that a tripped die
has shed (10 R339, R340); or its outer chiplet has tripped (17 R502; log 15). -/
def State.unreachable (s : State) (p : Nat) : Bool :=
  Place.isG p && (
    (!sget false s.dirty (p / 128) && s.memoryOff p) ||
    (2 ^ 60 ≤ p && p < 2 * 2 ^ 60 && s.mod.outerDown.contains (p / 2 ^ 38 % 8)))
/-- The memory behind a place is in self-refresh and its line is not in L2: an access waits there, restartable (10 R339). -/
def State.tripped (s : State) (p : Nat) : Bool :=
  Place.isDram p && !sget false s.dirty (p / 128) &&
    (s.tower (Place.towerOf p)).layersDown.contains (Place.bankOf p % 32 / 2)
/-- The record of a line in flight (10 R321). -/
def State.flightOf (s : State) (p : Nat) : Option InFlight :=
  if Place.isG p then s.inflight.find? (fun f => f.lines.contains (p / 128)) else none
/-- The place is out of reach, or its line is in flight. -/
def State.stuck (s : State) (p : Nat) : Bool := (s.flightOf p).isSome || s.unreachable p
/-- A strong read of a place may be performed now: its line is in reach, and its bank is awake. -/
def State.readable (s : State) (p : Nat) : Bool :=
  !s.stuck p && (!Place.isDram p || (((s.chan (chanOf p)).power[bankOf p]?).getD 0) = 0)

/-- UB and GB of a tower's prime window (R465). -/
def Tower.ub (t : Tower) : Nat := t.pwbase.toNat * 512
def Tower.gb (t : Tower) : Nat := t.pwbase.toNat

/-- The place of a within-tower address (R463, R464), under the base of the tower's prime window. -/
def dramAt (base t w skew : Nat) : Nat :=
  let u := w / 128
  let (b, g) :=
    if skew = 0 then (u % 512, u / 512)
    else if skew = 1 then ((u ^^^ (u / 2 ^ 9) ^^^ (u / 2 ^ 18) ^^^ (u / 2 ^ 27)) % 512, u / 512)
    else ((u - base * 512) % 509, base + (u - base * 512) / 509)
  Place.dram t b g (w % 128)
def State.dramPlace (s : State) (t w skew : Nat) : Nat := dramAt (s.tower t).pwbase.toNat t w skew

/-- The place of byte `o` of what a physical address names under a policy (R462), under bases of the prime windows. -/
def placeUnder (base : Nat → Nat) (policy skew pa o : Nat) : Nat :=
  match policy with
  | 0 => let k := o / 128; dramAt (base (k % 16)) (k % 16) (pa + 128 * (k / 16) + o % 128) skew
  | 1 => dramAt (base (pa / 2 ^ 35 % 16)) (pa / 2 ^ 35 % 16) (pa % 2 ^ 35 + o) skew
  | 2 => Place.outer ((pa + o) / 2 ^ 38 % 8) ((pa + o) % 2 ^ 38)
  | _ => Place.host (pa + o)
def State.placeOf (s : State) (policy skew pa o : Nat) : Nat :=
  placeUnder (fun t => (s.tower t).pwbase.toNat) policy skew pa o
/-- The place of byte `o` of a leaf's page: a later write of a prime window moves no translation that was made before (R478). -/
def State.leafPlace (s : State) (l : Leaf) (o : Nat) : Nat :=
  placeUnder (fun t => (l.bases[t]?).getD (s.tower t).pwbase.toNat) l.policy l.skew l.base o

/-- A within-tower range under a skew lies as R465 asks of the tower's prime window. -/
def Tower.windowOk (t : Tower) (skew w n : Nat) : Bool :=
  let lo := t.pwbase.toNat * 65536
  let hi := lo + t.pwsize.toNat * 65536
  if skew = 2 then lo ≤ w && w + n ≤ hi && (w + n) / 128 - t.ub ≤ 509 * t.pwsize.toNat
  else t.pwsize == 0 || w + n ≤ lo || hi ≤ w

/-- The alignment and range of R462 and R465 for a page of `size` bytes. -/
def State.rangeOk (s : State) (policy skew pa size : Nat) : Bool :=
  match policy with
  | 0 => pa < 2 ^ 35 && pa % (size / 16) = 0 && s.towers.all (fun t => t.windowOk skew pa (size / 16))
  | 1 => pa < 2 ^ 39 && pa % size = 0 && (s.tower (pa / 2 ^ 35)).windowOk skew (pa % 2 ^ 35) size
  | 2 => pa < 2 ^ 41 && pa % size = 0
  | _ => pa % size = 0

/-- Bytes within one line of what a physical address names, under a key slot. -/
def State.readPhys (s : State) (policy pa o n key : Nat) : List Byte :=
  s.bytesAt (s.keyOf key) (s.placeOf policy 0 pa o) n

/-- A key slot that a leaf may name (R460, R477). -/
def State.keyOk (s : State) (k : Nat) : Bool := k = 0 || (sget none s.keys k).isSome

/-! ## The walk (R457 to R461) -/

/-- The size of the page a leaf at a level maps (R457). -/
def pageSize (level : Nat) : Nat :=
  match level with
  | 0 => 2 ^ 16
  | 1 => 2 ^ 21
  | _ => 2 ^ 30

/-- How a walk ends: at a leaf; at a well-formed non-present entry, with its level, its value and its place; at a
malformed entry; without an address space; or, since entries are read with strong loads at their homes (R468), before an
entry that cannot be read yet, or at a poisoned one. -/
inductive Walk where
  | leaf (l : Leaf) (level : Nat)
  | absent (level entry place key : Nat)
  | malformed
  | noSpace
  | waits (place : Nat)
  | poisoned
deriving DecidableEq, Repr

/-- A malformed non-present entry (R459, R460). The SKEW of a moved page is that of the frame it will get (R473), so that its
copy's POLICY may be any. -/
def State.absentMalformed (s : State) (level e : Nat) : Bool :=
  let kind := bitsOf e 2 1
  let policy := bitsOf e 8 7
  let skew := bitsOf e 11 9
  let adr := bitsOf e 51 12 * 4096
  e.testBit 6 || (e.testBit 3 && e.testBit 4) || 3 ≤ skew || !s.keyOk (bitsOf e 63 52) ||
    (kind != 2 && skew != 0 && 2 ≤ policy) ||
    (if kind = 2 then !s.rangeOk policy (if 2 ≤ policy then 0 else skew) adr (pageSize level) else adr != 0)

/-- A malformed leaf. -/
def State.leafMalformed (s : State) (level e : Nat) : Bool :=
  let policy := bitsOf e 8 7
  let skew := bitsOf e 11 9
  3 ≤ level || (e.testBit 3 && e.testBit 4) || (e.testBit 3 && !e.testBit 2) || 3 ≤ skew ||
    (skew != 0 && 2 ≤ policy) || !s.rangeOk policy skew (bitsOf e 51 12 * 4096) (pageSize level) ||
    !s.keyOk (bitsOf e 63 52)

/-- A malformed table entry: SKEW, UO and U must be zero (R458). -/
def State.tableMalformed (s : State) (level e : Nat) : Bool :=
  let policy := bitsOf e 8 7
  level = 0 || bitsOf e 11 9 != 0 || policy = 0 || bitsOf e 6 5 != 0 ||
    (e.testBit 3 && e.testBit 4) || (e.testBit 3 && !e.testBit 2) ||
    !s.rangeOk policy 0 (bitsOf e 51 12 * 4096) 4096 || !s.keyOk (bitsOf e 63 52)

def leafOf (level e place key : Nat) (bases : List Nat := []) : Leaf :=
  { base := bitsOf e 51 12 * 4096, size := pageSize level, policy := bitsOf e 8 7, skew := bitsOf e 11 9
    key := bitsOf e 63 52, r := e.testBit 2, w := e.testBit 3, x := e.testBit 4, u := e.testBit 5
    entry := place, entryKey := key, bases }
/-- The bases of the prime windows, for a leaf that depends on them. -/
def State.primeBases (s : State) (e : Nat) : List Nat := if bitsOf e 11 9 = 2 then s.towers.map (fun t => t.pwbase.toNat) else []

/-- Walk from a table at `level`, at `pa` under `policy` and `key`. -/
def State.walkFrom (s : State) (va : Word) : Nat → Nat → Nat → Nat → Walk
  | 0, _, _, _ => .malformed
  | n + 1, policy, pa, key =>
    let idx := if n = 0 then wbits va 20 16 else va.toNat / 2 ^ (12 + 9 * n) % 512
    let e := leNat (s.readPhys policy pa (8 * idx) 8 key)
    let place := s.placeOf policy 0 pa (8 * idx)
    if !s.readable place || s.ownedAt place 8 then .waits place
    else if s.poisonedAt place 8 then .poisoned
    else if !e.testBit 0 then (if s.absentMalformed n e then .malformed else .absent n e place key)
    else if e.testBit 1 then (if s.leafMalformed n e then .malformed else .leaf (leafOf n e place key (s.primeBases e)) n)
    else if s.tableMalformed n e then .malformed
    else s.walkFrom va n (bitsOf e 8 7) (bitsOf e 51 12 * 4096) (bitsOf e 63 52)

/-- The table entries that a walk from a table passes through, as the walkers may hold them (R468). -/
def State.tablesFrom (s : State) (t : Nat) (asid : BitVec 16) (va : Word) : Nat → Nat → Nat → Nat → List Walked
  | 0, _, _, _ => []
  | n + 1, policy, pa, key =>
    let idx := if n = 0 then wbits va 20 16 else va.toNat / 2 ^ (12 + 9 * n) % 512
    let e := leNat (s.readPhys policy pa (8 * idx) 8 key)
    let place := s.placeOf policy 0 pa (8 * idx)
    if !s.readable place || s.ownedAt place 8 || s.poisonedAt place 8 || !e.testBit 0 || e.testBit 1 || s.tableMalformed n e then []
    else
      let w : Walked := { tower := t, asid, level := n, region := va.toNat / 2 ^ (12 + 9 * n), policy := bitsOf e 8 7, pa := bitsOf e 51 12 * 4096, key := bitsOf e 63 52 }
      w :: s.tablesFrom t asid va n w.policy w.pa w.key

/-- The data base D of the boot mapping (17 R491). -/
def State.bootData (s : State) : Nat := (s.codeSize + 65535) / 65536 * 65536

/-- The boot mapping (17 R491). -/
def State.bootWalk (s : State) (va : Word) : Walk :=
  if va.toNat < 2 ^ 35 then
    let code : Bool := va.toNat < s.bootData
    .leaf { base := va.toNat / 65536 * 65536, size := 65536, policy := 1, skew := 0, key := 0
            r := true, w := !code, x := code, u := false } 0
  else .absent 0 0 0 0

/-- Address space 0 is mapped as at boot (17 R491). -/
def State.bootMapped (s : State) (asid : BitVec 16) : Bool := asid == 0 && !(s.tower 0).astbase.getLsbD 0

/-- The address-space table's entry of an address space, or how a walk ends at it (R456). -/
def State.spaceEntry (s : State) (t : Nat) (asid : BitVec 16) : Except Walk Nat :=
  let base := (s.tower t).astbase.toNat
  let o := 16 * asid.toNat
  let bs := s.readPhys (bitsOf base 8 7) (bitsOf base 51 12 * 4096) o 16 (bitsOf base 63 52)
  let e := field bs 0 8
  let place := s.placeOf (bitsOf base 8 7) 0 (bitsOf base 51 12 * 4096) o
  if base.testBit 0 && (!s.readable place || s.ownedAt place 16) then .error (.waits place)
  else if base.testBit 0 && s.poisonedAt place 16 then .error .poisoned
  else if !base.testBit 0 || !e.testBit 0 || bitsOf e 6 1 != 0 || bitsOf e 11 9 != 0 || field bs 8 8 != 0 then .error .noSpace
  else .ok e

/-- The walk of an address in an address space (R456 to R461). -/
def State.walk (s : State) (t : Nat) (asid : BitVec 16) (va : Word) : Walk :=
  if s.bootMapped asid then s.bootWalk va
  else match s.spaceEntry t asid with
    | .error w => w
    | .ok e => s.walkFrom va 5 (bitsOf e 8 7) (bitsOf e 51 12 * 4096) (bitsOf e 63 52)

/-- The memory port of a tower whose TLB translates an address: the one beside the slice that the address chooses (R467). -/
def portOf (va : Word) : Nat := Config.sliceFor va % 32

/-- The size of the region that a table of a level maps: the level's walk uses the address bits below it (R457). -/
def regionSize (level : Nat) : Nat := 2 ^ (12 + 9 * level)
/-- The cached table entry at which a walk of a tower starts: the one nearest to the leaf (R468). -/
def State.walkedFor (s : State) (t : Nat) (asid : BitVec 16) (va : Word) : Option Walked :=
  (s.walked.filter (fun w => w.tower == t && w.asid == asid && va.toNat / regionSize w.level == w.region)).foldl (fun b w =>
    match b with
    | some x => if w.level < x.level then some w else b
    | none => some w) none
/-- A cached translation if the TLB of the address's port holds one, or the walkers' cache; else a walk, from a table entry that they
hold, or from the address-space table (R467, R468). -/
def State.lookup (s : State) (t : Nat) (asid : BitVec 16) (va : Word) : Walk :=
  match s.tlb.find? (fun e => e.tower == t && (e.port == portOf va || e.port == 32) && e.asid == asid && va.toNat / e.leaf.size == e.page) with
  | some e => .leaf e.leaf 0
  | none =>
    match s.walkedFor t asid va with
    | some w => s.walkFrom va w.level w.policy w.pa w.key
    | none => s.walk t asid va
/-- The table entries that a walk of an address in an address space passes through now. -/
def State.tablesOf (s : State) (t : Nat) (asid : BitVec 16) (va : Word) : List Walked :=
  match s.walkedFor t asid va with
  | some w => s.tablesFrom t asid va w.level w.policy w.pa w.key
  | none =>
    if s.bootMapped asid then []
    else match s.spaceEntry t asid with
      | .error _ => []
      | .ok e => s.tablesFrom t asid va 5 (bitsOf e 8 7) (bitsOf e 51 12 * 4096) (bitsOf e 63 52)

/-- What an access needs of its page (R461): read, write, fetch, a view of code of either kind (08 R274), or nothing. -/
inductive Access where
  | r
  | w
  | x
  | wx
  | any
deriving DecidableEq, Repr

/-- The access kind of a fault record (16 R487). -/
def Access.code : Access → Nat
  | .w => 1
  | .x => 2
  | _ => 0

/-- A translated access: its place, the leaf's key slot, and whether user code may use the page, load from it and fetch
from it. -/
structure Trans where
  place : Nat
  key : Nat
  user : Bool
  read : Bool := true
  fetch : Bool := true
deriving DecidableEq, Repr

/-- Why an access is not translated. -/
inductive TErr where
  | noncanon
  | absent
  | noSpace
  | perm
  | nox
  | waits (place : Nat)
  | poisoned
deriving DecidableEq, Repr

/-- The register window (17 R488). -/
def inWindow (va : Word) : Bool := 0xFF00000000000000 ≤ va.toNat && va.toNat < 0xFF00000000400000

/-- The subarray of a place of stacked DRAM, counted over the module (R464). -/
def subOf (place : Nat) : Nat := place / 2 ^ 20

/-- Translate and check an access (R461). -/
def State.translate (s : State) (t : Nat) (asid : BitVec 16) (user : Bool) (acc : Access) (va : Word) :
    Except TErr Trans :=
  if !canonical va then .error .noncanon
  else match s.lookup t asid va with
    | .noSpace => .error .noSpace
    | .absent _ _ _ _ => .error .absent
    | .malformed => .error .perm
    | .waits p => .error (.waits p)
    | .poisoned => .error .poisoned
    | .leaf l _ =>
      let granted := match acc with
        | .r => l.r
        | .w => l.w
        | .x => l.x
        | .wx => l.w || l.x
        | .any => true
      let place := s.leafPlace l (va.toNat % l.size)
      if !granted then .error (if acc = .x then .nox else .perm)
      else if user && !l.u then .error .perm
      else if Place.isDram place && (sget none s.subOwner (subOf place)).isSome then .error .perm
      else .ok { place, key := l.key, user := l.u, read := l.r, fetch := l.x }

/-- How a strand's instruction ends whose access is not translated. -/
def untranslated (e : TErr) (va : Word) (acc : Access) : Stop :=
  match e with
  | .noncanon => .fault VA_NONCANON va
  | .absent => .page va acc.code
  | .noSpace => .endLaunch PAGE_NOT_PRESENT va 0
  | .perm => .fault PAGE_PERM va
  | .nox => .fault IFETCH_NOX va
  | .waits p => .wake p
  | .poisoned => .fault MC_POISON va

/-- Translate for the strand whose turn it is, as user code or not; the register window is no memory (17 R488), and what is no load
or store of it, a fetch among them, raises what a load or store of another size does there (log 33). -/
def State.xlateAs (s : State) (user : Bool) (acc : Access) (va : Word) : Except Stop Trans :=
  if inWindow va then .error (.fault (if user then PAGE_PERM else ALIGN) va)
  else match s.translate s.self.tower s.crew.asid user acc va with
    | .ok t => .ok t
    | .error e => .error (untranslated e va acc)
/-- Translate for the strand whose turn it is. -/
def State.xlate (s : State) (acc : Access) (va : Word) : Except Stop Trans := s.xlateAs (!s.self.priv) acc va

/-! ## The local spaces (04 R124, 05 R170, 07 R239 to R241) -/

/-- The space and offset of `n` bytes at a C address of a crew. -/
def Crew.cSpace (c : Crew) (a n : Nat) : Option (Space × Nat) :=
  match c.cores[a / 2 ^ 20]? with
  | some core => if c.isLocal && a + n ≤ c.size * 2 ^ 20 then some (.c core, a % 2 ^ 20) else none
  | none => none

/-- The space and offset of `n` bytes at an S address for a strand of a crew on a core. -/
def Crew.sSpace (c : Crew) (core a n : Nat) : Option (Space × Nat) :=
  if c.isLocal && a + n ≤ 2 ^ 19 then some (.s core, a) else none

/-- Some of `n` bytes of a tower's T space are in resize: an access that reaches the slices now is T_RESIZED (07 R243). -/
def State.inResize (s : State) (t a n : Nat) : Bool :=
  match (s.tower t).resizing with
  | some (lo, hi) => lo < a + n && a < hi
  | none => false
/-- The space and offset of `n` bytes of T space. -/
def State.tSpace (s : State) (t a n : Nat) : Option (Space × Nat) :=
  if a + n ≤ s.tsize t then some (.t t, a) else none

/-- A barrier or local reference (05 R196, 07 R252) checked with an alignment: SPACE and must-be-zero bits, then
alignment, then range. -/
def reference (crew : Crew) (core : Nat) (align : Nat) (n : Nat) (r : Word) :
    Except (BitVec 8) (Space × Nat) :=
  let a := wbits r 22 0
  if wbits r 63 62 ≥ 2 || wbits r 61 23 != 0 then .error SPACE_RANGE
  else if a % align != 0 then .error ALIGN
  else match (if wbits r 63 62 = 0 then crew.sSpace core a n else crew.cSpace a n) with
    | some p => .ok p
    | none => .error SPACE_RANGE

def Space.at (p : Space × Nat) : Nat := p.1.place p.2

/-- A reference of the strand whose turn it is. -/
def State.ref (s : State) (align n : Nat) (r : Word) : Except Stop Nat :=
  match reference s.crew s.self.core align n r with
  | .ok p => .ok (Space.at p)
  | .error c => .error (.fault c r)

end Sys2Proof.Machine
end

