-- ==== Sys2Proof/Machine/Lanes.lean ====
section
/-! DEFINITION. Lanes.lean: data rows and their states (14 R418), bead tensors' cells and elements (03 R90), and the checks
of a lane access (14 R441). -/

namespace Sys2Proof.Machine

/-! ## Rows (R418, R423) -/

/-- The columns of a data row; bead space is stored in plaintext (15 R477). -/
def State.rowBits (s : State) (k n sub row : Nat) : Row :=
  BitVec.ofNat 8192 (leNat ((List.range 1024).map (fun i => Memory.get s.mem (rowPlace k n sub row + i))))
def State.putRow (s : State) (k n sub row : Nat) (v : Row) : State :=
  { s with mem := Memory.setBytes s.mem (rowPlace k n sub row) (leBytes 1024 v.toNat) }
def State.stateOfRow (s : State) (k n sub row : Nat) : RowState := sget .isSealed s.rowState (rowId k n sub row)
def State.setRowState (s : State) (k n sub row : Nat) (x : RowState) : State :=
  { s with rowState := sset .isSealed s.rowState (rowId k n sub row) x }
/-- The key a row is locked under; 0 when it is not. -/
def State.lockOf (s : State) (k n sub row : Nat) : BitVec 16 := sget 0 s.rowLock (rowId k n sub row)
def State.setLock (s : State) (k n sub row : Nat) (key : BitVec 16) : State :=
  { s with rowLock := sset 0 s.rowLock (rowId k n sub row) key }
def State.setRows (s : State) (k n sub : Nat) (rows : List Nat) (x : RowState) : State :=
  rows.foldl (fun t r => t.setRowState k n sub r x) s

/-- A bead fault address (R435). -/
def beadAddr (banks : List Nat) (k sub row col mw : Nat) : Word :=
  word (banks.foldl (fun a n => a + 2 ^ n) 0 * 2 ^ 48 + k / 32 * 2 ^ 44 + k % 32 * 2 ^ 39 + sub * 2 ^ 33 +
    row % 1024 * 2 ^ 23 + col % 8192 * 2 ^ 10 + mw)

/-- The layer of a channel is in self-refresh, or its tower is down (17 R492, R502). -/
def State.chanDown (s : State) (k : Nat) : Bool := (s.tower (k / 32)).rcDown || (s.tower (k / 32)).layersDown.contains (k % 32 / 2)

/-! ## Lane accesses (R431, R441) -/

/-- How a lane access ends that is not performed. -/
inductive LaneStop where
  | wait
  | fault (code : BitVec 8) (addr : Word)
deriving DecidableEq, Repr

/-- The row set of a bcall (R427). -/
def Chan.rowsFor (c : Chan) (x : Cmd) : List Nat :=
  match entryStart c.store (x.args.headD 0).toNat with
  | some start => rowsOf x.bytes (entryReads c.store start ++ entryWrites c.store start)
  | none => []
def Chan.rowSet (c : Chan) (e : Entry) : List Nat := c.rowsFor e.cmd

/-- An access to the rows of a bank waits for the memory, or for the next refresh-safe boundary of the entry that runs there
(R431). -/
def State.bankWaits (s : State) (k n : Nat) : Bool :=
  s.chanDown k || (match (s.chan k).entry with
    | some e => (s.chan k).parked = 0 && e.banks.contains n && !e.atSafe
    | none => false)

/-- An engine command owns one of the rows (01 R36). -/
def State.rowsOwned (s : State) (k n sub : Nat) (rows : List Nat) : Bool :=
  s.claims.any (fun c => c.granted && rows.any (fun r => c.rows.contains (rowId k n sub r)))

/-- A lane access to rows of a bank waits: for the bank, for an entry whose row set, while it runs or is parked, holds one of
them, or for a command that owns one (01 R38). -/
def State.laneWaits (s : State) (k n sub : Nat) (rows : List Nat) : Bool :=
  s.bankWaits k n || s.rowsOwned k n sub rows || (match (s.chan k).entry with
    | some e => sub == blockSub e.cmd.bytes && (blockBanks e.cmd.bytes).contains n && rows.any ((s.chan k).rowSet e).contains
    | none => false)

/-- CheckBead (R441) for the active elements `els`. -/
def State.checkBead (s : State) (asid : BitVec 16) (p : Word) (j : Nat) (els : List Nat) (reads : Bool) :
    Except LaneStop Unit :=
  let k := ptrChan p
  let n := ptrBank p
  let sub := ptrSub p
  let rows := ptrRows p
  let fault (code : BitVec 8) (row e : Nat) : Except LaneStop Unit :=
    .error (.fault code (beadAddr [n] k sub row (ptrCol p + j + e) 0))
  let e0 := els.headD 0
  let first (x : RowState) (code : BitVec 8) (next : Except LaneStop Unit) : Except LaneStop Unit :=
    match rows.find? (fun r => s.stateOfRow k n sub r == x) with
    | some r => fault code r e0
    | none => next
  match ptrFault p with
  | some code => fault code (ptrRow p) e0
  | none =>
    if sget none s.subOwner (subId k n sub) != some asid then fault SPACE_RANGE (ptrRow p) e0
    else match els.find? (fun e => 8192 ≤ ptrCol p + j + e || 8192 ≤ j) with
      | some e => fault SPACE_RANGE (ptrRow p) e
      | none =>
        if 8192 ≤ j then fault SPACE_RANGE (ptrRow p) e0
        else if s.laneWaits k n sub rows then .error .wait
        else match rows.find? (fun r => s.lockOf k n sub r != 0) with
          | some r => fault BEAD_LOCKED r e0
          | none =>
            let poisoned := first .poisoned BEAD_POISON (.ok ())
            if reads then first .unsealed BEAD_UNSEALED (first .expired BEAD_WATCHDOG poisoned) else poisoned

/-- The cell of plane `i` of a tensor at a rod. -/
def cellPlace (p : Word) (i rod : Nat) : Nat := rowPlace (ptrChan p) (ptrBank p) (ptrSub p) (ptrRow p + i) + rod / 8
def State.cell (s : State) (p : Word) (i rod : Nat) : Bool := (Memory.get s.mem (cellPlace p i rod)).getLsbD (rod % 8)

/-- The element of a tensor at a rod (03 R90). -/
def State.beadElem (s : State) (p : Word) (rod : Nat) : Int :=
  let bits := (List.range (ptrWidth p)).foldl (fun a i => a + b2n (s.cell p i rod) * 2 ^ i) 0
  match ptrFmt p with
  | 0 => toSigned (ptrWidth p) bits
  | 1 => bits
  | _ => if !bits.testBit 0 then 0 else if bits.testBit 1 then -1 else 1

/-- Write an element of a tensor: its low bits, or its sign for a ternary one. -/
def State.putBead (s : State) (p : Word) (rod : Nat) (v : Int) : State :=
  let bits := if ptrFmt p = 2 then (if v = 0 then 0 else if 0 < v then 1 else 3) else ofSigned (ptrWidth p) v
  (List.range (ptrWidth p)).foldl (fun t i =>
    let b := Memory.get t.mem (cellPlace p i rod)
    let one : Byte := BitVec.twoPow 8 (rod % 8)
    { t with mem := Memory.set t.mem (cellPlace p i rod) (if bits.testBit i then b ||| one else b &&& ~~~one) }) s

end Sys2Proof.Machine
end

