-- ==== Sys2Proof/Machine/Num.lean ====
section
/-! DEFINITION. Num.lean: number formats, exact values, the named roundings and the correctly rounded functions
(03 R82 to R104). An operation computes an exact value, then rounds it once. -/

namespace Sys2Proof.Machine

/-! ## Exact values -/

/-- The exact rational `n / d · 2^e`, `d` positive. -/
structure Q where
  n : Int
  d : Nat := 1
  e : Int := 0
deriving DecidableEq, Repr

/-- The exact value of a floating-point operand or operation: a nonzero number, a signed zero, an infinity, a NaN. -/
inductive FV where
  | nan
  | inf (neg : Bool)
  | zero (neg : Bool)
  | fin (q : Q)
deriving DecidableEq, Repr

def Q.neg (x : Q) : Q := { x with n := -x.n }
def Q.mul (x y : Q) : Q := ⟨x.n * y.n, x.d * y.d, x.e + y.e⟩
def Q.inv (x : Q) : Q := ⟨if x.n < 0 then -(x.d : Int) else x.d, x.n.natAbs, -x.e⟩
def Q.add (x y : Q) : Q :=
  let e := min x.e y.e
  ⟨x.n * 2 ^ (x.e - e).toNat * y.d + y.n * 2 ^ (y.e - e).toNat * x.d, x.d * y.d, e⟩
def Q.lt (x y : Q) : Bool := (x.add y.neg).n < 0
/-- floor(log2 |x|) of a nonzero value. -/
def Q.log2 (x : Q) : Int :=
  let n := x.n.natAbs
  let a : Int := (Nat.log2 n : Int) - Nat.log2 x.d
  let low := if 0 ≤ a then n < x.d * 2 ^ a.toNat else n * 2 ^ (-a).toNat < x.d
  (if low then a - 1 else a) + x.e
/-- |x| in units of 2^u: the whole units, and the rest as a fraction. -/
def Q.units (x : Q) (u : Int) : Nat × Nat × Nat :=
  let k := x.e - u
  let num := x.n.natAbs * 2 ^ k.toNat
  let den := x.d * 2 ^ (-k).toNat
  (num / den, num % den, den)
/-- x · 2^k. -/
def Q.scale (x : Q) (k : Int) : Q := { x with e := x.e + k }
/-- An integer as an exact value. -/
def FV.ofInt (x : Int) : FV := if x = 0 then .zero false else .fin ⟨x, 1, 0⟩
/-- An exact value from a rational that may be zero. -/
def FV.ofQ (x : Q) (zeroNeg : Bool := false) : FV := if x.n = 0 then .zero zeroNeg else .fin x

/-! ## Formats (R83, R84) -/

/-- A floating-point format: exponent and mantissa widths, bias, the largest finite magnitude's code, the canonical
NaN if it has NaNs, and whether it has infinities. -/
structure Fmt where
  eb : Nat
  mb : Nat
  bias : Int
  maxCode : Nat
  nan : Option Nat
  hasInf : Bool
deriving DecidableEq, Repr

def fp32 : Fmt := ⟨8, 23, 127, 0x7F7FFFFF, some 0x7FC00000, true⟩
def bf16 : Fmt := ⟨8, 7, 127, 0x7F7F, some 0x7FC0, true⟩
def e4m3 : Fmt := ⟨4, 3, 7, 0x7E, some 0x7F, false⟩
def e5m2 : Fmt := ⟨5, 2, 15, 0x7B, some 0x7E, true⟩
def e2m1 : Fmt := ⟨2, 1, 1, 0x7, none, false⟩

/-- Width of a format in bits. -/
def Fmt.width (f : Fmt) : Nat := 1 + f.eb + f.mb
/-- A code's sign bit. -/
def Fmt.neg (f : Fmt) (c : Nat) : Bool := c.testBit (f.eb + f.mb)
/-- A magnitude's code with a sign. -/
def Fmt.signed (f : Fmt) (neg : Bool) (c : Nat) : Nat := if neg then c + 2 ^ (f.eb + f.mb) else c

/-- The value of a code (R83). -/
def Fmt.value (f : Fmt) (c : Nat) : FV :=
  let neg := f.neg c
  let a := c % 2 ^ (f.eb + f.mb)
  let e := a / 2 ^ f.mb
  let m := a % 2 ^ f.mb
  if a = 0 then .zero neg
  else if a ≤ f.maxCode then
    let mag : Nat := if e = 0 then m else 2 ^ f.mb + m
    .fin ⟨if neg then -(mag : Int) else mag, 1, (max e 1 : Nat) - f.bias - f.mb⟩
  else if f.hasInf && a = f.maxCode + 1 then .inf neg
  else .nan

/-- An E8M0 code's value 2^(c − 127), none for the NaN scale (R84). -/
def e8m0 (c : Nat) : Option Int := if c = 0xFF then none else some ((c : Int) - 127)

/-! ## Rounding (R92 to R99) -/

/-- MIX64 (R97). -/
def mix64 (x : Word) : Word :=
  let z := x + 0x9E3779B97F4A7C15
  let z := (z ^^^ (z >>> 30)) * 0xBF58476D1CE4E5B9
  let z := (z ^^^ (z >>> 27)) * 0x94D049BB133111EB
  z ^^^ (z >>> 31)

/-- How an operation rounds: mode 1 to 6 (R92), the element's absolute index, the stochastic seed, and the saturation
code 0 default, 1 none, 2 maximum, 3 wrap (R57, R94). -/
structure Rnd where
  mode : Nat := 1
  idx : Word := 0
  srs : Word := 0
  sat : Nat := 1
deriving DecidableEq, Repr

/-- RNE, saturation none. -/
def rne : Rnd := {}

/-- Whether the kept magnitude `m` goes up by a unit, the dropped fraction being `r / d` (R92, R99). Comparing 64
dropped bits with the whole random word is the comparison of k bits of R99, since trailing zeros do not change it. -/
def Rnd.up (r : Rnd) (neg : Bool) (m rem den : Nat) : Bool :=
  match r.mode with
  | 1 => den < 2 * rem || (2 * rem = den && m % 2 = 1)
  | 2 => false
  | 3 => neg && 0 < rem
  | 4 => !neg && 0 < rem
  | 5 => den ≤ 2 * rem
  | _ => 2 ^ 64 ≤ rem * 2 ^ 64 / den + (mix64 (r.srs + r.idx)).toNat

/-- A result beyond the finite range (R94, R507). -/
def Fmt.overflow (f : Fmt) (r : Rnd) (neg : Bool) : Nat :=
  let toward := r.mode = 2 || (r.mode = 3 && !neg) || (r.mode = 4 && neg)
  if r.sat = 2 || toward then f.signed neg f.maxCode
  else if f.hasInf then f.signed neg (f.maxCode + 1)
  else match f.nan with
    | some c => c
    | none => f.signed neg f.maxCode

/-- Round a nonzero exact value into a format. -/
def Fmt.roundQ (f : Fmt) (r : Rnd) (x : Q) : Nat :=
  let neg : Bool := x.n < 0
  let low := 1 - f.bias - f.mb
  let u := max (x.log2 - f.mb) low
  let (m, rem, den) := x.units u
  let m := if r.up neg m rem den then m + 1 else m
  let c := (u - low).toNat * 2 ^ f.mb + m
  if f.maxCode < c then f.overflow r neg else f.signed neg c

/-- An infinite result (R95, R507). -/
def Fmt.ofInf (f : Fmt) (r : Rnd) (neg : Bool) : Nat :=
  if r.sat = 2 then f.signed neg f.maxCode
  else if f.hasInf then f.signed neg (f.maxCode + 1)
  else match f.nan with
    | some c => c
    | none => f.signed neg f.maxCode

/-- Round an exact value into a format. -/
def Fmt.round (f : Fmt) (r : Rnd) (x : FV) : Nat :=
  match x with
  | .nan => f.nan.getD 0
  | .inf neg => f.ofInf r neg
  | .zero neg => f.signed neg 0
  | .fin q => f.roundQ r q

/-- Round an exact value to an integer. -/
def Rnd.toInt (r : Rnd) (x : Q) : Int :=
  let neg : Bool := x.n < 0
  let (m, rem, den) := x.units 0
  let m := if r.up neg m rem den then m + 1 else m
  if neg then -(m : Int) else m

/-! ## Integers (R96) -/

def intMin (w : Nat) (signed : Bool) : Int := if signed then -(2 ^ (w - 1)) else 0
def intMax (w : Nat) (signed : Bool) : Int := if signed then 2 ^ (w - 1) - 1 else 2 ^ w - 1
def clampInt (w : Nat) (signed : Bool) (x : Int) : Int := max (intMin w signed) (min (intMax w signed) x)
/-- Integer arithmetic into `w` bits: wrap, or clamp under SAT max. -/
def intSat (w : Nat) (signed : Bool) (sat : Nat) (x : Int) : Nat :=
  ofSigned w (if sat = 2 then clampInt w signed x else x)
/-- Conversion from floating point into `w` bits. -/
def FV.toIntSat (x : FV) (r : Rnd) (w : Nat) (signed : Bool) : Nat :=
  match x with
  | .nan => 0
  | .inf neg => ofSigned w (if neg then intMin w signed else intMax w signed)
  | .zero _ => 0
  | .fin q => let i := r.toInt q; ofSigned w (if r.sat = 3 then i else clampInt w signed i)

/-! ## Exact operations on values (R86, R87, R93) -/

def FV.negate : FV → FV
  | .nan => .nan
  | .inf s => .inf (!s)
  | .zero s => .zero (!s)
  | .fin q => .fin q.neg
def FV.isNeg : FV → Bool
  | .nan => false
  | .inf s => s
  | .zero s => s
  | .fin q => q.n < 0
def FV.isNan (x : FV) : Bool := x = .nan

/-- A sum; an exact zero of operands of opposite sign is −0.0 only under RDN (R93). -/
def FV.add (mode : Nat) (x y : FV) : FV :=
  match x, y with
  | .nan, _ => .nan
  | _, .nan => .nan
  | .inf s, .inf t => if s = t then .inf s else .nan
  | .inf s, _ => .inf s
  | _, .inf t => .inf t
  | .zero s, .zero t => if s = t then .zero s else .zero (mode = 3)
  | .zero _, y => y
  | x, .zero _ => x
  | .fin a, .fin b => .ofQ (a.add b) (mode = 3)

def FV.mul (x y : FV) : FV :=
  let neg := x.isNeg != y.isNeg
  match x, y with
  | .nan, _ => .nan
  | _, .nan => .nan
  | .inf _, .zero _ => .nan
  | .zero _, .inf _ => .nan
  | .inf _, _ => .inf neg
  | _, .inf _ => .inf neg
  | .fin a, .fin b => .fin (a.mul b)
  | _, _ => .zero neg

def FV.div (x y : FV) : FV :=
  let neg := x.isNeg != y.isNeg
  match x, y with
  | .nan, _ => .nan
  | _, .nan => .nan
  | .inf _, .inf _ => .nan
  | .zero _, .zero _ => .nan
  | .inf _, _ => .inf neg
  | _, .inf _ => .zero neg
  | .zero _, _ => .zero neg
  | _, .zero _ => .inf neg
  | .fin a, .fin b => .fin (a.mul b.inv)

/-- x < y in the order that puts −0.0 below +0.0 when `zeros` says so; false when either is a NaN. -/
def FV.below (zeros : Bool) (x y : FV) : Bool :=
  match x, y with
  | .nan, _ => false
  | _, .nan => false
  | .inf s, .inf t => s && !t
  | .inf s, _ => s
  | _, .inf t => !t
  | .zero s, .zero t => zeros && s && !t
  | .zero _, .fin b => 0 < b.n
  | .fin a, .zero _ => a.n < 0
  | .fin a, .fin b => a.lt b

/-- Floating-point minimum or maximum (R87). -/
def FV.minmax (max : Bool) (x y : FV) : FV :=
  if x.isNan || y.isNan then .nan
  else if max then (if x.below true y then y else x) else (if y.below true x then y else x)

/-! ## Correctly rounded functions (R100, R101)

A value that is no number of the format's precision is given by its first bits with a last bit set, so that rounding
to nearest sees that more follows. -/

/-- floor(sqrt n) from its top bit down. -/
def isqrtFrom (n : Nat) : Nat → Nat → Nat
  | 0, r => r
  | k + 1, r => isqrtFrom n k (if (r + 2 ^ k) * (r + 2 ^ k) ≤ n then r + 2 ^ k else r)
def isqrt (n : Nat) : Nat := isqrtFrom n (Nat.log2 n / 2 + 1) 0

/-- x as `m · 2^(2k)` with `m` a natural number of at least 128 bits. -/
def Q.evenForm (x : Q) : Nat × Int :=
  let m := x.n.natAbs
  let sh : Nat := 128 + (if (x.e % 2 = 0) then 0 else 1)
  (m * 2 ^ sh, (x.e - sh) / 2)

def FV.sqrt : FV → FV
  | .nan => .nan
  | .zero s => .zero s
  | .inf s => if s then .nan else .inf false
  | .fin q =>
    if q.n < 0 then .nan
    else
      let (m, k) := q.evenForm
      let r := isqrt m
      .fin ⟨2 * r + (if r * r = m then 0 else 1), 1, k - 1⟩

def FV.recip : FV → FV
  | .nan => .nan
  | .zero s => .inf s
  | .inf s => .zero s
  | .fin q => .fin q.inv

def FV.rsqrt : FV → FV
  | .nan => .nan
  | .zero s => .inf s
  | .inf s => if s then .nan else .zero false
  | .fin q =>
    if q.n < 0 then .nan
    else
      let (m, k) := q.evenForm
      let p : Nat := 200
      let r := isqrt (2 ^ (2 * p) / m)
      .fin ⟨2 * r + (if r * r * m = 2 ^ (2 * p) then 0 else 1), 1, -k - p - 1⟩

/-- Bits kept by the series of exp2. -/
def seriesBits : Nat := 192
/-- ln 2 · 2^192, from Σ 1/(k·2^k). -/
def ln2Fixed : Nat := (List.range 192).foldl (fun a k => a + 2 ^ seriesBits / ((k + 1) * 2 ^ (k + 1))) 0
/-- Σ t^k/k! for t = y · 2^−192. -/
def expSeries (y : Nat) : Nat :=
  ((List.range 60).foldl (fun (a : Nat × Nat) k =>
    (a.1 + a.2, a.2 * y / 2 ^ seriesBits / (k + 1))) (0, 2 ^ seriesBits)).1

def FV.exp2 : FV → FV
  | .nan => .nan
  | .zero _ => .fin ⟨1, 1, 0⟩
  | .inf s => if s then .zero false else .inf false
  | .fin q =>
    if 9 ≤ q.log2 then .fin ⟨1, 1, if q.n < 0 then -400 else 400⟩
    else
      let fx : Int := q.n * 2 ^ (q.e + seriesBits).toNat / 2 ^ (-(q.e + seriesBits)).toNat
      let i := fx / 2 ^ seriesBits
      let f := (fx % 2 ^ seriesBits).toNat
      if f = 0 then .fin ⟨1, 1, i⟩
      else .fin ⟨2 * expSeries (f * ln2Fixed / 2 ^ seriesBits) + 1, 1, i - seriesBits - 1⟩

/-- Bits kept while log2 squares. -/
def squareBits : Nat := 320
/-- The first `k` bits of log2 of y in [1, 2), y · 2^−320. -/
def log2Bits : Nat → Nat → Nat → Nat
  | 0, _, acc => acc
  | k + 1, y, acc =>
    let z := y * y / 2 ^ squareBits
    if 2 ^ (squareBits + 1) ≤ z then log2Bits k (z / 2) (2 * acc + 1) else log2Bits k z (2 * acc)

def FV.log2 : FV → FV
  | .nan => .nan
  | .zero _ => .inf true
  | .inf s => if s then .nan else .inf false
  | .fin q =>
    if q.n < 0 then .nan
    else
      let e := q.log2
      let y := q.n.natAbs * 2 ^ (squareBits + q.e - e).toNat / 2 ^ (-(squareBits + q.e - e)).toNat
      if y = 2 ^ squareBits then .ofInt e
      else .fin ⟨2 * (e * 2 ^ 128 + log2Bits 128 y 0) + 1, 1, -129⟩

def roundRne (x : FV) : FV := fp32.value (fp32.round rne x)

/-- Sigmoid and Tanh of R101: fixed compositions of rounded FP32 steps. -/
def FV.sigmoid (x : FV) : FV :=
  let a := roundRne (x.mul (fp32.value 0x3FB8AA3B))
  let t := roundRne a.negate.exp2
  let d := roundRne ((FV.ofInt 1).add 1 t)
  roundRne d.recip

def FV.tanh (x : FV) : FV :=
  match x with
  | .nan => .nan
  | .zero s => .zero s
  | _ =>
    let y := if x.isNeg then x.negate else x
    let a := roundRne (y.mul (fp32.value 0x4038AA3B))
    let t := roundRne a.exp2
    let d := roundRne ((FV.ofInt 1).add 1 t)
    let q := roundRne d.recip
    let r := roundRne ((FV.ofInt 1).add 1 ((FV.ofInt (-2)).mul q))
    let r := if r.isNeg then r.negate else r
    if x.isNeg then r.negate else r

end Sys2Proof.Machine
end

