-- ==== Sys2Proof/Machine/Registers.lean ====
section
/-! DEFINITION. Registers.lean: the register window as it reads and as a plain write leaves it (05 R164; 15 R478; 16
R484, R486; 17 R488, R497, R499, R506). Offsets are those of 17 R488; the first MiB is BAR0 (16 R480). -/

namespace Sys2Proof.Machine

def zx {n : Nat} (x : BitVec n) : Word := x.setWidth 64
def flagBit (b : Bool) : Word := if b then 1 else 0

/-- The identity block (17 R497); `svn` of the running image lies at 0x38. -/
def identityWord (svn : Word) (o : Nat) : Word :=
  match o with
  | 0x00 => zx Config.stepping <<< 24 ||| zx Config.build <<< 16 ||| 1
  | 0x08 => Config.clkHz
  | 0x10 => Config.tideHz
  | 0x18 => zx Config.tlbEnt <<< 32 ||| zx Config.slMiss <<< 16 ||| zx Config.lvLanes <<< 8 ||| zx Config.igw
  | 0x20 => (word Config.bqEnt &&& 0xFFFF) <<< 32 ||| (word Config.cqEnt &&& 0xFFFF) <<< 16 |||
      (word Config.mqEnt &&& 0xFFFF)
  | 0x28 => (Config.outBw &&& 0xFFFFFFFF) <<< 32 ||| (Config.dramBw &&& 0xFFFFFFFF)
  | 0x30 => Config.serial
  | 0x38 => svn
  | _ => 0

/-- A launch context's registers (05 R164, 16 R484). -/
def Ctx.reg (c : Ctx) (o : Nat) : Word :=
  match o with
  | 0x00 => zx c.asid <<< 32 ||| flagBit c.run <<< 1 ||| flagBit c.en
  | 0x08 => c.lrbase
  | 0x10 => zx c.lrlog
  | 0x18 => c.lrtail
  | 0x20 => c.lrhead
  | 0x28 => c.crbase
  | 0x30 => zx c.crlog
  | 0x38 => c.crtail
  | 0x40 => c.crhead
  | 0x48 => c.lqbase
  | 0x50 => zx c.lqlog
  | 0x58 => c.frbase
  | 0x60 => c.frsize
  | 0x68 => c.chbase
  | 0x70 => c.chsize
  | 0x78 => flagBit c.cien
  | _ => 0

/-- The translation registers (15 R478). -/
def Tower.reg (t : Tower) (o : Nat) : Word :=
  match o with
  | 0x00 => t.astbase
  | 0x08 => t.sdva
  | 0x10 => zx t.sdasid <<< 48 ||| zx t.sdsize <<< 46 ||| flagBit t.sdbusy <<< 1
  | 0x18 => t.mgva
  | 0x20 => t.mgdst
  | 0x28 => zx t.mgasid <<< 48 ||| zx t.mgres <<< 2 ||| flagBit t.mgbusy <<< 1
  | 0x30 => t.ffbase
  | 0x38 => zx t.fftail <<< 32 ||| (zx t.ffhead &&& 0xFFFFFF) <<< 8 ||| zx t.fflog
  | 0x40 => t.spbase
  | 0x48 => zx t.sptail <<< 32 ||| (zx t.sphead &&& 0xFFFFFF) <<< 8 ||| zx t.splog
  | 0x50 => zx t.pwsize <<< 32 ||| zx t.pwbase
  | 0x58 => zx t.kslot
  | _ => 0

/-- The module-control registers (17 R499). -/
def Module.reg (m : Module) (o : Nat) : Word :=
  match o with
  | 0x00 => zx m.tup <<< 48 ||| zx m.berr <<< 4 ||| flagBit m.ready
  | 0x08 => m.svcbase
  | 0x10 => zx m.svccount
  | 0x18 => m.logbase
  | 0x20 => zx m.loglog
  | 0x28 => m.logtail
  | 0x30 => m.loghead
  | 0x38 => zx m.pcap
  | 0x40 => zx m.pnow
  | 0x48 => m.meas.extractLsb' 0 64
  | 0x50 => m.meas.extractLsb' 64 64
  | 0x58 => m.meas.extractLsb' 128 64
  | 0x60 => m.meas.extractLsb' 192 64
  | 0x68 => zx m.fusesvn <<< 32
  | 0x70 => m.atdst
  | 0x78 => flagBit m.atbusy <<< 1
  | 0x80 => m.atnonce.extractLsb' 0 64
  | 0x88 => m.atnonce.extractLsb' 64 64
  | 0x90 => m.atnonce.extractLsb' 128 64
  | 0x98 => m.atnonce.extractLsb' 192 64
  | _ => 0

/-- The host-interface registers (16 R486). -/
def Module.hostReg (m : Module) (o : Nat) : Word :=
  match o with
  | 0x00 => zx m.duty
  | 0x08 => m.frbase
  | 0x10 => zx m.frlog
  | 0x18 => m.frtail
  | 0x20 => m.frhead
  | 0x30 => zx m.hdmkey
  | 0x38 => m.csladdr
  | _ => 0

/-- A read of the window; an offset with no register reads zero (17 R488). -/
def State.regRead (s : State) (off : Nat) : Word :=
  if off < 0x40000 then (s.ctx (off / 0x1000)).reg (off % 0x1000)
  else if off < 0x41000 then s.mod.hostReg (off % 0x1000)
  else if 0x100000 ≤ off && off < 0x100040 then identityWord s.fwsvn (off % 0x40)
  else if 0x110000 ≤ off && off < 0x110100 then s.mod.reg (off % 0x100)
  else if 0x200000 ≤ off && off < 0x210000 then (s.tower (off / 0x1000 % 16)).reg (off % 0x1000)
  else if 0x300000 ≤ off && off < 0x310000 then ((s.tower (off / 0x1000 % 16)).perf[off % 0x1000 / 8]?).getD 0
  else 0

/-- A read of the window by a strand: a performance counter has advanced by then, by a count that no result may depend on
and that differs from run to run, a free one (17 R506, log 5). -/
def State.windowRead (s : State) (off : Nat) : Word × State :=
  if 0x300000 ≤ off && off < 0x310000 then
    let (w, t) := s.freeWord
    let n := off / 0x1000 % 16
    let v := s.regRead off + w
    if (s.tower n).perf.length ≤ off % 0x1000 / 8 then (s.regRead off, s)
    else (v, t.setTower n (fun x => { x with perf := x.perf.set (off % 0x1000 / 8) v }))
  else (s.regRead off, s)

/-- Replace 64 bits of a wider register. -/
def put64 {n : Nat} (x : BitVec n) (k : Nat) (v : Word) : BitVec n :=
  x &&& ~~~((BitVec.allOnes 64).setWidth n <<< (64 * k)) ||| v.setWidth n <<< (64 * k)

/-- A plain write of a launch context's register; most are taken only while EN is 0 (05 R164). -/
def Ctx.setReg (c : Ctx) (o : Nat) (v : Word) : Ctx :=
  if c.en then c
  else match o with
    | 0x08 => { c with lrbase := v &&& ~~~0x7F }
    | 0x10 => { c with lrlog := v.setWidth 5 }
    | 0x48 => { c with lqbase := v &&& ~~~0xFF }
    | 0x50 => { c with lqlog := v.setWidth 5 }
    | 0x58 => { c with frbase := v &&& ~~~0xFFFF }
    | 0x60 => { c with frsize := v &&& ~~~0xFFFF }
    | 0x68 => { c with chbase := v &&& ~~~0xFFFF }
    | 0x70 => { c with chsize := v &&& ~~~0xFFFF }
    | 0x78 => { c with cien := v.getLsbD 0 }
    | _ => c

/-- A plain write of a translation register (15 R478): a running shoot-down or migration ignores its own word. -/
def Tower.setReg (t : Tower) (o : Nat) (v : Word) : Tower :=
  match o with
  | 0x00 => { t with astbase := v }
  | 0x08 => { t with sdva := v }
  | 0x18 => { t with mgva := v }
  | 0x20 => { t with mgdst := v }
  | 0x30 => { t with ffbase := v }
  | 0x38 => { t with fftail := v.extractLsb' 32 32, fflog := v.setWidth 5 }
  | 0x40 => { t with spbase := v }
  | 0x48 => { t with sptail := v.extractLsb' 32 32, splog := v.setWidth 5 }
  | 0x50 => { t with pwsize := v.extractLsb' 32 32, pwbase := v.setWidth 19 }
  | 0x58 => { t with kslot := v.setWidth 12 }
  | _ => if 0x60 ≤ o && o < 0x98 then { t with keydata := put64 t.keydata ((o - 0x60) / 8) v } else t

/-- A plain write of a module-control register (17 R499). PCAP and LOGLOG keep, and read back as, a value that acts as a smaller
one (log 34). -/
def Module.setReg (m : Module) (o : Nat) (v : Word) : Module :=
  match o with
  | 0x08 => { m with svcbase := v &&& ~~~0x3F }
  | 0x10 => { m with svccount := v.setWidth 16 }
  | 0x18 => { m with logbase := v &&& ~~~0x1F }
  | 0x20 => { m with loglog := v.setWidth 5 }
  | 0x38 => { m with pcap := v.setWidth 16 }
  | 0x70 => { m with atdst := v }
  | _ => if 0x80 ≤ o && o < 0xA0 then { m with atnonce := put64 m.atnonce ((o - 0x80) / 8) v } else m

/-- A plain write of a host-interface register (16 R486). -/
def Module.setHostReg (m : Module) (o : Nat) (v : Word) : Module :=
  match o with
  | 0x08 => { m with frbase := v &&& ~~~0x1F }
  | 0x10 => { m with frlog := v.setWidth 5 }
  | 0x30 => { m with hdmkey := v.setWidth 12 }
  | 0x38 => { m with csladdr := v }
  | _ => m

/-- A write to a register field that has no behaviour of its own (00 R8); every other write is ignored. -/
def State.regWrite (s : State) (off : Nat) (v : Word) : State :=
  if off < 0x40000 then s.setCtx (off / 0x1000) (fun c => c.setReg (off % 0x1000) v)
  else if off < 0x41000 then { s with mod := s.mod.setHostReg (off % 0x1000) v }
  else if 0x110000 ≤ off && off < 0x110100 then { s with mod := s.mod.setReg (off % 0x100) v }
  else if 0x200000 ≤ off && off < 0x210000 then s.setTower (off / 0x1000 % 16) (fun t => t.setReg (off % 0x1000) v)
  else if 0x300000 ≤ off && off < 0x310000 then
    s.setTower (off / 0x1000 % 16) (fun t => { t with perf := t.perf.set (off % 0x1000 / 8) v })
  else s

end Sys2Proof.Machine
end

