-- ==== Sys2Proof/Machine/Rings.lean ====
section
/-! DEFINITION. Rings.lean: berth rings as memory holds them (07 R257 to R259), and the service of the requests that wait
on them, after every write that may have moved a counter. -/

namespace Sys2Proof.Machine

/-- Answer a waiting request and send its strand the wake-up (R250, 01 R35). -/
def State.answer (s : State) (w : Waiter) (v : Word) : State :=
  { (s.mapStrand w.crew w.idx (fun st => match st.wait with
      | some (.queued id _) => if id == w.id then { st with wait := some (.queued id true) } else st
      | _ => st)) with
    waiters := s.waiters.map (fun x => if x.id == w.id then { x with served := some v } else x) }

/-- A ring's descriptor. -/
structure Ring where
  cfg : Word
  claim : BitVec 32
  post : BitVec 32
  take : BitVec 32
  free : BitVec 32
deriving DecidableEq, Repr

def Ring.space (r : Ring) : Nat := wbits r.cfg 63 62
def Ring.logSize (r : Ring) : Nat := wbits r.cfg 61 56
def Ring.logN (r : Ring) : Nat := wbits r.cfg 55 50
def Ring.base (r : Ring) : Nat := wbits r.cfg 29 0
def Ring.slots (r : Ring) : Nat := 2 ^ r.logN

def State.ring (s : State) (p : Nat) : Ring :=
  let bs := s.bytesAt none p 32
  ⟨word (field bs 0 8), BitVec.ofNat 32 (field bs 8 4), BitVec.ofNat 32 (field bs 12 4),
    BitVec.ofNat 32 (field bs 16 4), BitVec.ofNat 32 (field bs 20 4)⟩
def Ring.bytes (r : Ring) : List Byte :=
  leBytes 8 r.cfg.toNat ++ leBytes 4 r.claim.toNat ++ leBytes 4 r.post.toNat ++ leBytes 4 r.take.toNat ++
    leBytes 4 r.free.toNat
/-- The agent that `e` names writes a descriptor's configuration and counters, which it has read; its last word stays (R259). -/
def State.setRing (s : State) (e : Event) (p : Nat) (r : Ring) : State := s.writeAs { e with reads := true } none p r.bytes

/-- The slot reference of slot `c` (R257). -/
def Ring.slotRef (r : Ring) (c : BitVec 32) : Word :=
  word (r.space * 2 ^ 62 + r.base + c.toNat % r.slots * 2 ^ r.logSize)

/-- Serve the requests that wait on a ring, oldest of each kind first (R259); that of a crane command, `cmd`, only in its own turn,
when its checks have been made (13 R405). -/
def State.serveRingN (s : State) (p : Nat) (cmd : Option Nat) : Nat → State
  | 0 => s
  | n + 1 =>
    let r := s.ring p
    let open_ (w : Waiter) (k : Need) : Bool := w.place == p && w.served.isNone && w.need == k
    let may (w : Waiter) : Bool := w.crew != 0 || cmd == some w.id
    match (s.waiters.find? (fun w => open_ w .claim)).filter (fun w => may w && (r.claim - r.free).toNat < r.slots),
        (s.waiters.find? (fun w => open_ w .take)).filter (fun w => may w && 0 < (r.post - r.take).toNat) with
    | some w, _ => ((s.answer w (r.slotRef r.claim)).setRing w.event p { r with claim := r.claim + 1 }).serveRingN p cmd n
    | none, some w => ((s.answer w (r.slotRef r.take)).setRing w.event p { r with take := r.take + 1 }).serveRingN p cmd n
    | none, none => s
def State.serveRing (s : State) (p : Nat) (cmd : Option Nat := none) : State := s.serveRingN p cmd (s.waiters.length + 1)

/-- Serve the requests of every ring that strands or commands wait on: its counters are memory, and any write may have
moved them (R257, R259). -/
def State.serveRings (s : State) : State :=
  ((s.waiters.filter (fun w => w.served.isNone && (w.need == .claim || w.need == .take))).map (·.place)).eraseDups.foldl
    (fun t p => t.serveRing p) s

end Sys2Proof.Machine
end

