-- ==== Sys2Proof/Machine/Home.lean ====
section
/-! DEFINITION. Home.lean: accesses in flight and where they are performed: the order a strand's accesses keep (04 R131
to R143), homes, leases and HOLD (10 R316 to R326), poison (10 R340), and the events HOME_READ_REQUEST, HOME_WEAK_STORE,
HOME_STRONG_WRITE, HOME_ATOMIC, LEASE_EXPIRY, LINE_FILL_DONE, PAGE_WALK and DATA_RETURN (01 R34). -/

namespace Sys2Proof.Machine

/-! ## Requests -/

def ReqOp.size : ReqOp → Nat
  | .load n _ => n
  | .store bs => bs.length
  | .amo _ n _ => n
  | .cas n _ _ => n
  | .famo _ _ => 4
  | .fence _ _ => 0
  | .laneLoad _ _ _ => 0
  | .laneStore _ _ _ => 0
  | .arrive => 16
def ReqOp.isLoad : ReqOp → Bool
  | .load _ _ => true
  | .laneLoad _ _ _ => true
  | _ => false
def ReqOp.isStore : ReqOp → Bool
  | .store _ => true
  | .laneStore _ _ _ => true
  | _ => false
def ReqOp.isFence : ReqOp → Bool
  | .fence _ _ => true
  | _ => false
/-- A read-modify-write, returning or return-free. -/
def ReqOp.isRmw (o : ReqOp) : Bool := !o.isLoad && !o.isStore && !o.isFence
/-- An access that reads: a load or a read-modify-write. -/
def ReqOp.reads (o : ReqOp) : Bool := o.isLoad || o.isRmw
def ReqOp.writes (o : ReqOp) : Bool := o.isStore || o.isRmw

def Issuer.same (a b : Issuer) : Bool := a.crew == b.crew && a.idx == b.idx
def State.req (s : State) (id : Nat) : Option Req := s.reqs.find? (fun r => r.id == id)
def State.dropReq (s : State) (id : Nat) : State := { s with reqs := s.reqs.filter (fun r => r.id != id) }
def State.setReq (s : State) (id : Nat) (f : Req → Req) : State :=
  { s with reqs := s.reqs.map (fun r => if r.id == id then f r else r) }

/-! ## Units (04 R141, 10 R322, R323) -/

/-- A declared range that holds an address. -/
def Range.has (r : Range) (a : Nat) : Bool :=
  r.base.toNat ≤ a && (a - r.base.toNat) / r.stride < r.count && (a - r.base.toNat) % r.stride < r.width
/-- The addresses of a range's 64-bit words. -/
def Range.words (r : Range) : List Nat :=
  (List.range r.count).flatMap (fun k => (List.range (r.width / 8)).map (fun j => r.base.toNat + k * r.stride + 8 * j))
/-- The number of a range's unit; every other unit is a line. -/
def Range.unit (r : Range) : Nat := 2 ^ 80 + r.asid.toNat * 2 ^ 64 + r.base.toNat
/-- The range holds a 64-bit word of memory, given as a place divided by 8. -/
def Range.holdsWord (r : Range) (w : Nat) : Bool := r.places.any (fun x => x.2 == w)
/-- The range a word belongs to: one declared in its address space, or, through another view, one that holds its place. -/
def State.rangeAt (s : State) (asid : BitVec 16) (va : Word) (place : Nat) : Option Range :=
  s.ranges.find? (fun r => (r.asid == asid && r.has va.toNat) || r.holdsWord (place / 8))
/-- The unit of a place, as an access without an address of a declared range meets it. -/
def State.unitAt (s : State) (place : Nat) : Nat :=
  match s.ranges.find? (fun r => r.holdsWord (place / 8)) with
  | some r => r.unit
  | none => place / 128
/-- The unit of an address: a declared range's, or its line's. -/
def State.unitOf (s : State) (asid : BitVec 16) (va : Word) (place : Nat) : Nat :=
  match s.rangeAt asid va place with
  | some r => r.unit
  | none => place / 128
/-- The unit of an access; the host's addresses are of no address space (16 R480). -/
def Req.unit (s : State) (r : Req) : Nat :=
  if r.space != .g then r.place.getD 0 / 128
  else if r.who.crew = 0 then s.unitAt (r.place.getD 0)
  else s.unitOf r.who.asid r.addr (r.place.getD 0)
/-- The units an access touches: those of every word of a host's write (16 R481). -/
def Req.units (s : State) (r : Req) : List Nat :=
  if r.who.crew = 0 then ((wordsAt (r.place.getD 0) r.op.size).map (fun w => s.unitAt (8 * w))).eraseDups else [r.unit s]

/-! ## The order of one strand's accesses (04 R133, R134, R137, R143) -/

/-- The rows and the rod of a lane access; every other access names none. -/
def ReqOp.lane : ReqOp → Option (Word × Nat)
  | .laneLoad p rod _ => some (p, rod)
  | .laneStore p rod _ => some (p, rod)
  | _ => none

/-- A request with its place: the one it was translated to, or the one its page would give it now. -/
def State.located (s : State) (r : Req) : Req :=
  if r.space != .g || r.place.isSome then r
  else match s.translate (towerOfSlot (s.slotOf r.who)) r.who.asid r.who.user (if r.op.writes then .w else .r) r.addr with
    | .ok t => { r with place := some t.place }
    | .error _ => r

/-- Two accesses touch one cell of bead space (14 R452), or one 64-bit word: at their places, or, where a page gives none of
them a place, at their addresses. -/
def State.sameWord (s : State) (a b : Req) : Bool :=
  let overlap (x m y n : Nat) : Bool := x / 8 ≤ (y + n - 1) / 8 && y / 8 ≤ (x + m - 1) / 8
  match a.op.lane, b.op.lane with
  | some (p, i), some (q, j) =>
    i == j && subId (ptrChan p) (ptrBank p) (ptrSub p) == subId (ptrChan q) (ptrBank q) (ptrSub q) &&
      (ptrRows p).any (ptrRows q).contains
  | _, _ =>
  match (s.located a).place, (s.located b).place with
  | some p, some q => overlap p a.op.size q b.op.size
  | _, _ => a.space == b.space && overlap a.addr.toNat a.op.size b.addr.toNat b.op.size

/-- Two G accesses of a strand go to one unit at one slice; while a page gives one of them no place, to one line of the address
space. -/
def State.sameUnit (s : State) (a b : Req) : Bool :=
  let a := s.located a
  let b := s.located b
  match a.place, b.place with
  | some p, some q => a.unit s == b.unit s && sliceOf p == sliceOf q
  | _, _ => a.addr.toNat / 128 == b.addr.toNat / 128

/-- HOLD is set on a unit: an operation, a claim or a range declaration waits on its leases (R319, R324). -/
def State.isHeld (s : State) (u : Nat) : Bool :=
  s.reqs.any (fun r => r.held && (r.units s).contains u) || s.claims.any (fun c => !c.granted && c.held.contains u) ||
    s.lineHolds.any (fun h => h.unit == u)

/-- A unit, or a part of it, is owned (01 R36, 10 R319). -/
def State.isOwned (s : State) (u : Nat) : Bool := s.claims.any (fun c => c.granted && c.held.contains u)
/-- The home grants a lease on a unit: nothing holds it, and nothing owns it (R319). -/
def State.mayLease (s : State) (u : Nat) : Bool := !s.isHeld u && !s.isOwned u

/-- A holder lies in a scope instance seen from a strand (04 R128). -/
def State.holderIn (s : State) (w : Issuer) (scope : Nat) (h : Holder) : Bool :=
  let slot := s.slotOf w
  let ofCore (c : Nat) : Bool := match scope with
    | 0 => c == coreOfSlot slot
    | 1 => (s.crewById w.crew).cores.contains c
    | 2 => towerOfCore c == towerOfSlot slot
    | _ => true
  match h with
  | .l1 c => ofCore c
  | .vmu c => ofCore c
  | .tile c => ofCore c
  | .icache c => ofCore c
  | .tower t => if scope ≤ 1 then t == towerOfSlot slot else if scope = 2 then t == towerOfSlot slot else true

/-- Every lease of a scope instance that stood on the units of the strand's weak stores before `id` has expired (04
R143). -/
def State.leasesOver (s : State) (w : Issuer) (id scope : Nat) : Bool :=
  s.leaseWaits.all (fun l => !(l.crew == w.crew && l.idx == w.idx && l.req < id) || l.expiry ≤ s.tide ||
    !s.holderIn w scope l.holder)

/-- A fence's own condition: the accesses it orders before itself are performed, and its leases are over (07 R253, R143). -/
def State.fenceDone (s : State) (r : Req) (fn scope : Nat) : Bool :=
  s.reqs.all (fun e => !(e.who.same r.who && e.id < r.id) || e.op.isFence || (fn = 1 && !e.op.reads)) &&
    (fn = 1 || s.leasesOver r.who r.id scope)

/-- Accesses of one vector instruction, or of one ldq or stq, are unordered among themselves (04 R127, R138). -/
def Req.unordered (e r : Req) : Bool := e.group != 0 && e.group == r.group && !e.seqAfter

/-- A request passes a strong operation of its strand that waits under HOLD, for another word (10 R320). -/
def State.passes (s : State) (e r : Req) : Bool :=
  !(e.op.isLoad || (e.op.isStore && e.kind == .weak)) && (e.held || s.isHeld (e.unit s)) &&
    (r.op.isLoad || (r.op.isStore && r.kind == .weak)) && !s.sameWord e r

/-- An earlier access `e` of the same strand that is not performed holds back `r`, which is served at its home or, else,
from a copy: fences, acquires and releases (04 R137, R143); a write of its word, and, for a strong load, a load of it
(R133, R134); at the home every request of its strand to its unit (10 R320). -/
def State.holds (s : State) (home : Bool) (e r : Req) : Bool :=
  match e.op with
  | .fence fn scope => !s.fenceDone e fn scope && (fn != 2 || r.op.writes)
  | _ =>
    !e.unordered r &&
      (e.kind == .acq || r.kind == .rel || (e.space == .win && r.space == .win) ||
        (e.seqAfter && r.seqAfter && e.group == r.group) ||
        (e.space == r.space &&
          (if r.space == .g then
            (s.sameWord e r && (e.op.writes || (r.kind != .weak && r.op.isLoad))) ||
              (home && s.sameUnit e r && !s.passes e r)
          else s.sameWord e r && (e.op.writes || r.op.reads))))

/-- An access may be performed: its crew is placed, no earlier access of its strand holds it back, those in `past` apart,
and a release's leases are over. -/
def State.orderedPast (s : State) (home : Bool) (past : List Nat) (r : Req) : Bool :=
  !(s.crewById r.who.crew).saved &&
    s.reqs.all (fun e => !(e.who.same r.who && e.id < r.id) || past.contains e.id || !s.holds home e r) &&
    (r.kind != .rel || s.leasesOver r.who r.id 3)
def State.ordered (s : State) (r : Req) : Bool := s.orderedPast true [] r

/-- The fences, and the acquires, of its strand that still hold back an access of memory, but not for every agent: it may be performed
past those of a scope below the system's, an acquire's being the module's, since nothing orders it for an agent outside their
instance (R129, R130), if no agent inside can tell. -/
def State.narrowFences (s : State) (r : Req) : List (Req × Nat) :=
  if r.space == .b || r.space == .win then []
  else s.reqs.filterMap (fun e => match e.op with
    | .fence _ scope => if e.who.same r.who && e.id < r.id && scope < 4 && s.holds true e r then some (e, scope) else none
    | _ => if e.who.same r.who && e.id < r.id && e.kind == .acq && !s.holds true { e with kind := .strong } r then some (e, 3) else none)
/-- An access may be performed, past the fences that do not hold it back for every agent. -/
def State.orderedFor (s : State) (home : Bool) (past : List Nat) (r : Req) : Bool :=
  s.orderedPast home (past ++ (s.narrowFences r).map (·.1.id)) r

/-- A fence of these requests holds back nothing any more. -/
def State.fenceOver (s : State) (r : Req) : Bool :=
  match r.op with
  | .fence fn scope => s.fenceDone r fn scope
  | _ => false

/-- A strand `w`, or a command that it has issued, is another agent than the strand `v` and lies in a scope instance seen from that
one (04 R128). -/
def State.inInstance (s : State) (scope : Nat) (v w : Issuer) (cmd : Bool) : Bool :=
  w.crew != 0 && (cmd || !w.same v) && (match scope with
    | 0 => w.same v
    | 1 => w.crew == v.crew
    | 2 => towerOfSlot (s.slotOf w) == towerOfSlot (s.slotOf v)
    | _ => true)
/-- An access of `n` bytes by a strand or a command must wait: it would see that another access has been performed before one that a
fence orders before it, or would be seen out of that order (04 R130, R143). -/
def State.veiled (s : State) (w : Issuer) (cmd : Bool) (p n : Nat) (writes : Bool) : Bool :=
  s.veils.any (fun v => s.inInstance v.scope v.who w cmd && (v.writes || writes) && (wordsAt p n).any v.words.contains &&
    s.reqs.any (fun e => e.id == v.fence && !s.fenceOver e))
/-- What an access that has been performed past fences of its strand veils. -/
def State.veil (s : State) (r : Req) (words : List Nat) : State :=
  { s with veils := s.veils ++ (s.narrowFences r).map (fun e =>
      { fence := e.1.id, who := r.who, scope := e.2, words, writes := r.op.writes }) }

/-- Every access the strand has issued before is performed (05 R199, 10 R335). -/
def State.drained (s : State) (w : Issuer) : Bool := s.reqs.all (fun e => !e.who.same w || e.op.isFence)
/-- Forget fences, what they veil, and leases that hold back nothing any more. -/
def State.tidy (s : State) : State :=
  let reqs := s.reqs.filter (fun r => !s.fenceOver r)
  { s with
    reqs
    veils := s.veils.filter (fun v => reqs.any (fun r => r.id == v.fence))
    leaseWaits := s.leaseWaits.filter (fun l => s.tide < l.expiry) }

/-! ## Leases (10 R317 to R319) -/

/-- LLEN (R318). -/
def Holder.llen : Holder → Nat
  | .l1 _ => 256
  | .vmu _ => 64
  | .tile _ => 256
  | .icache _ => 1024
  | .tower _ => 1024
def Holder.inTower : Holder → Nat
  | .l1 c => towerOfCore c
  | .vmu c => towerOfCore c
  | .tile c => towerOfCore c
  | .icache c => towerOfCore c
  | .tower t => t

/-- The lines a core's cache holds at most (01 R14); for the vector memory unit and the tile fetch unit the spec gives no
number, and the L2's is kept by `State.fitL2`. -/
def Holder.lines : Holder → Option Nat
  | .l1 _ => some 2048
  | .icache _ => some 1024
  | _ => none

/-- The words of a line that belong to a unit and are not poisoned: those a copy leased under the unit serves. -/
def State.unitMask (s : State) (asid : BitVec 16) (va : Word) (line u : Nat) : BitVec 16 :=
  (List.range 16).foldl (fun m i =>
    if s.unitOf asid (word (va.toNat / 128 * 128 + 8 * i)) (128 * line + 8 * i) = u && !s.poisonedAt (128 * line + 8 * i) 8 then
      m ||| BitVec.twoPow 16 i else m) 0

/-- A copy that a home grants to a holder, of the line that holds a place (R317); it serves fetches only if the line was
published then (04 R150). -/
def State.copyFor (s : State) (h : Holder) (asid : BitVec 16) (va : Word) (t : Trans) (expiry : Nat) : Copy :=
  let line := t.place / 128
  let u := s.unitOf asid va t.place
  { holder := h, asid, vline := va.toNat / 128, line, unit := u, user := t.user, read := t.read
    fetch := t.fetch && !sget false s.unpub line, mask := s.unitMask asid va line u, data := s.bytesAt (s.keyOf t.key) (128 * line) 128, expiry, stamp := s.writes, key := t.key }

/-- Copies without the oldest one of a cache that is full. -/
def makeRoom (h : Holder) (l : List Copy) : List Copy :=
  match h.lines with
  | some n => if n ≤ (l.filter (fun c => c.holder == h)).length then l.eraseIdx ((l.findIdx? (fun c => c.holder == h)).getD l.length) else l
  | none => l

/-- Put a copy in place of what its holder had of the line under this address; a full cache drops its oldest copy. -/
def State.putCopy (s : State) (c : Copy) : State :=
  let t := { s with copies := makeRoom c.holder (s.copies.filter (fun x =>
      !(x.holder == c.holder && x.line == c.line && x.asid == c.asid && x.vline == c.vline && x.unit == c.unit))) ++ [c] }
  match c.holder with
  | .tower n => t.fitL2 (c.slice n)
  | _ => t

/-- A translation shows where a declared range's words lie, those of the page that one line of it stands for (10 R323). -/
def State.learn (s : State) (asid : BitVec 16) (va : Word) (place : Nat) : State :=
  if s.ranges.isEmpty then s
  else { s with ranges := s.ranges.map (fun r =>
    let here := (List.range 16).map (fun i => (va.toNat / 128 * 16 + i, place / 128 * 16 + i))
    if r.asid != asid || here.all (fun x => !r.has (8 * x.1) || r.places.contains x) then r
    else { r with places := r.places.filter (fun x => x.1 / 16 != va.toNat / 128) ++ here.filter (fun x => r.has (8 * x.1)) }) }

/-- Grant a lease on a line with its bytes to a holder from the line's home, through a copy of the holder's tower when the
line is homed elsewhere (R317, R318). -/
def State.grant (s : State) (h : Holder) (asid : BitVec 16) (va : Word) (t : Trans) : State :=
  let s := s.learn asid va t.place
  let u := s.unitOf asid va t.place
  let far := homeTower t.place != h.inTower
  let e := s.tide + h.llen
  let s' := if far then
      (s.putCopy (s.copyFor (.tower h.inTower) asid va t (s.tide + 1024))).putCopy (s.copyFor h asid va t (min e (s.tide + 1024)))
    else s.putCopy (s.copyFor h asid va t e)
  { s' with lexp := sset 0 s.lexp u (max (sget 0 s.lexp u) (if far then s.tide + 1024 else e)) }

/-- A tower copy grants a sub-lease, cut short to its own (R317, R318). -/
def State.subLease (s : State) (h : Holder) (c : Copy) : State :=
  if c.holder == h then s else s.putCopy { c with holder := h, expiry := min (s.tide + h.llen) c.expiry }

/-- A copy under an unexpired lease that may serve a read of an address: the address's word is of the copy's unit. -/
def Copy.serves (c : Copy) (s : State) (asid : BitVec 16) (va : Word) : Bool :=
  c.asid == asid && c.vline == va.toNat / 128 && s.tide < c.expiry &&
    c.unit == s.unitOf asid va (128 * c.line + va.toNat % 128) && c.mask.getLsbD (va.toNat % 128 / 8)

/-! ## The ordering rule over the history (04 R130, R134, R137, R139) -/

def Event.isAccess (e : Event) : Bool := e.reads || e.writes
/-- Both are a strand's own, and of the same strand. -/
def Event.sameStrand (a b : Event) : Bool := a.crew == b.crew && a.idx == b.idx && a.crew != 0 && a.cmd.isNone && b.cmd.isNone
/-- A strand's event comes before another of it, or before the issue of a command of it, in program order. -/
def Event.po (a b : Event) : Bool := a.crew == b.crew && a.idx == b.idx && a.crew != 0 && a.cmd.isNone && a.id < b.id
def Event.meets (a b : Event) : Bool := a.words.any (fun x => b.words.any (sameSpot x))

/-- Ordered-before of two accesses of a strand, or of one of its command (R137, R145), by edges of a scope that is wide enough:
a store depends on the loads that `deps` names; a command follows what precedes its issue, a matrix command those before it in its
queue (12 R365), its arrival at a barrier all it has done (01 R32), and a ring command its claim of a slot, as its post all it has done
(13 R405). -/
def orderedBefore (wide : Nat → Bool) (es : List Event) (a b : Event) : Bool :=
  match b.cmd with
  | some (q, m) => (a.po b && wide b.scope) || (a.cmd == b.cmd && (a.acq || b.rel) && a.time < b.time && wide 3) ||
      (match a.cmd, q with
        | some (.matrix c i, n), .matrix d j => c == d && i == j && n < m
        | _, _ => false)
  | none => a.po b && ((wide 3 && (a.acq || b.rel)) || a.patch.any wide || (a.reads && b.writes && b.deps.contains a.id) ||
      (a.group != 0 && a.group == b.group) ||
      es.any (fun f => match f.fence with
        | some (fn, scope) => wide scope && a.po f && f.po b && (fn != 1 || a.reads) && (fn != 2 || b.writes)
        | none => false))

/-- The scope at which a mark passes on what came before it (05 R173, R200; 16 R482); the order of a copy before its follow-on is no
release's (13 R404), and holds for every agent. -/
def Mark.scope : Mark → Nat
  | .phase _ _ => 1
  | .gone _ _ => 1
  | .bell _ => 4
  | .copied _ _ _ => 4
  | _ => 3
/-- A mark that is given is the one that is taken; a retired strand has arrived at every later phase (05 R172). -/
def Mark.answers (g t : Mark) : Bool :=
  g == t || (match g, t with
    | .gone c i, .phase d j => c == d && i ≤ j
    | _, _ => false)
/-- Edges through events that are no accesses (04 R145; 05 R167, R168, R173, R200; 16 R482): to one that gives a mark from what the
strand or the copy did before it, and, where a strand retires, from what its crane and matrix commands did; from there to one that takes the mark; from one
that takes or acquires to what its strand does after it, or, for a crnw, the later commands of its queue (13 R402), or what a follow-on does; from what commands did to one that acquires it; from the accesses of a
launch to its completion record; from what the host did to its doorbell. -/
def passesOn (wide : Nat → Bool) (a b : Event) : Bool :=
  let sync (e : Event) : Bool := !e.takes.isEmpty || !e.after.isEmpty
  let own : Bool := match a.cmd with
    | some (.crane c i, _) => c == b.crew && i == b.idx
    | some (.matrix c i, _) => c == b.crew && i == b.idx
    | _ => false
  (a.time < b.time && !b.gives.isEmpty && ((b.host && a.host && a.isAccess) || own && b.gives.any (fun g => match g with
    | .over _ => true
    | _ => false))) ||
    (!b.gives.isEmpty && a.po b && b.cmd.isNone) || (!b.gives.isEmpty && b.cmd.isSome && a.cmd == b.cmd && a.time < b.time) ||
    (sync a && a.po b) ||
    (sync a && a.time < b.time && (match a.cmd, b.cmd with
      | some (q, n), some (r, m) => q == r && (n == m || (n < m && wide 3))
      | _, _ => false)) ||
    (a.time < b.time && a.gives.any (fun g => wide g.scope && b.takes.any (Mark.answers g))) ||
    (wide 3 && a.time < b.time && (match a.cmd with
      | some (q, n) => a.isAccess && b.after.any (fun x => x.1 == q && n ≤ x.2)
      | none => false)) ||
    (wide 4 && a.isAccess && a.launch != 0 && b.ends == some a.launch && a.time < b.time)

/-- co (R132), fr and rfe (R139): a write of the module is the one after those it was `stamp`ed with. -/
def Event.co (a b : Event) : Bool := a.writes && b.writes && a.meets b && a.stamp < b.stamp
def Event.fr (a b : Event) : Bool := a.reads && b.writes && a.meets b && a.stamp ≤ b.stamp && a != b
def readsFrom (es : List Event) (a b : Event) : Bool :=
  a.writes && a.strong && b.reads && !a.sameStrand b && a.stamp < b.stamp &&
    a.words.any (fun w => b.words.any (sameSpot w) &&
      es.all (fun e => !(e.writes && e.words.any (sameSpot w) && a.stamp < e.stamp && e.stamp < b.stamp)))

/-- One edge of the ordering rule. -/
def edge (wide : Nat → Bool) (es : List Event) (a b : Event) : Bool :=
  (a.isAccess && b.isAccess && (orderedBefore wide es a b || a.co b || a.fr b || readsFrom es a b)) || passesOn wide a b

/-- The events that edges lead to from some. -/
def reachedFrom (step : Event → Event → Bool) (es : List Event) : Nat → List Event → List Event
  | 0, l => l
  | n + 1, l => reachedFrom step es n (l ++ es.filter (fun b => !l.contains b && l.any (fun a => step a b)))

/-- The agents that a path to an access of a strand may pass through, with the scopes whose instances hold them all (R128,
R130): every agent; those of the module; of its tower; of its crew, there or elsewhere; the strand with its commands, there
or elsewhere. -/
def views (l : Event) : List ((Event → Bool) × (Nat → Bool)) :=
  let tower (e : Event) : Bool := e.crew != 0 && e.tower == l.tower
  let crew (e : Event) : Bool := e.crew != 0 && e.crew == l.crew
  let own (e : Event) : Bool := crew e && e.idx == l.idx
  [(fun _ => true, fun n => n = 4), (fun e => !e.host, fun n => 3 ≤ n), (tower, fun n => 2 ≤ n), (crew, fun n => n = 1 || 3 ≤ n),
    (fun e => tower e && crew e, fun n => 1 ≤ n), (own, fun n => n != 2), (fun e => tower e && own e, fun _ => true)]

/-- An event is ordered before an access of a strand. -/
def before (es : List Event) (x l : Event) : Bool :=
  (views l).any (fun v =>
    let fs := es.filter (fun e => v.1 e || (e.crew = 0 && !e.host && !e.isAccess))
    v.1 x && (reachedFrom (edge v.2 fs) fs fs.length [x]).contains l)

/-- An event read, or wrote so that it must be seen, a word that a load reads in an older state. -/
def newer (es : List Event) (x l : Event) : Bool :=
  l.words.any (fun w => x.words.contains w && ((x.writes && (x.strong || x.patch.isSome) && l.stamp ≤ x.stamp) ||
    (x.reads && es.any (fun y => y.writes && y.words.contains w && l.stamp ≤ y.stamp && y.stamp < x.stamp))))

/-- An access of a request at a place, as the history records it: it reads or writes after `stamp` writes. -/
def State.eventOf (s : State) (r : Req) (p stamp : Nat) : Event :=
  { s.eventBy r.who r.id with
    host := r.who.crew = 0, reads := r.op.reads, writes := r.op.writes, strong := r.kind != .weak || r.op.isRmw || !Place.isG p
    acq := r.kind == .acq, rel := r.kind == .rel, words := wordsAt p r.op.size, stamp
    group := if r.seqAfter then r.group else 0, deps := r.deps }

/-- A strong load may read a word from a copy (04 R134): its strand has not read the word in a newer state, and no strong
access of another agent that has, or has written it since, is ordered before the load. A weak one may not when the write of
an ipatch is (08 R278), since that write waits for no lease on data. -/
def State.coherent (s : State) (c : Copy) (r : Req) : Bool :=
  let l : Event := { s.eventOf r (128 * c.line + r.addr.toNat % 128) c.stamp with time := s.history.length }
  let es := s.history ++ [l]
  s.history.all (fun x => (r.kind == .weak && x.patch.isNone) || !newer es x l ||
    (if x.sameStrand l then !(x.reads && x.id < l.id) else !((x.strong || x.patch.isSome) && before es x l)))

/-- Drop the copies of a line in a core's data caches, and in its tower's L2 when the line is homed elsewhere (R325). -/
def State.dropOwnCopies (s : State) (core : Nat) (p : Nat) : State :=
  { s with copies := s.copies.filter (fun c => !(c.line == p / 128 &&
      (c.holder == .l1 core || c.holder == .vmu core ||
        (c.holder == .tower (towerOfCore core) && homeTower p != towerOfCore core)))) }

/-- On issue an atomic drops its line from its core's L1, and from its tower's L2 unless it is homed there (R325). -/
def State.dropAtIssue (s : State) (va : Word) : State :=
  let t := s.self.tower
  { s with copies := s.copies.filter (fun c => !(c.asid == s.crew.asid && c.vline == va.toNat / 128 &&
      (c.holder == .l1 s.self.core || (c.holder == .tower t && homeTower (128 * c.line) != t)))) }

/-! ## Performing an access -/

/-- Put bytes of a result into a pending producer's record (01 R34). -/
def State.deliver (s : State) (ret : Option (Nat × Nat)) (bs : List Byte) : State :=
  match ret with
  | none => s
  | some (id, off) =>
    { s with returns := s.returns.map (fun r =>
        if r.id == id then { r with data := r.data.take off ++ bs.map some ++ r.data.drop (off + bs.length) } else r) }

/-- The atomic operations of 02 R59 (AO) on `n` bytes. -/
def atomicOp (fn n : Nat) (old v : Nat) : Nat :=
  let w := 8 * n
  match fn with
  | 0 => (old + v) % 2 ^ w
  | 1 => old &&& v
  | 2 => old ||| v
  | 3 => old ^^^ v
  | 4 => if toSigned w v < toSigned w old then v else old
  | 5 => if toSigned w old < toSigned w v then v else old
  | 6 => min old v
  | _ => max old v

/-- The slice's FP32 operations (10 R327): add, min, max, to nearest. -/
def floatOp (fn : Nat) (old v : Nat) : Nat :=
  let x := fp32.value old
  let y := fp32.value v
  match fn with
  | 0 => fp32.round rne (x.add 1 y)
  | 1 => fp32.round rne (x.minmax false y)
  | _ => fp32.round rne (x.minmax true y)

/-- The bytes a read-modify-write writes over the old ones. -/
def ReqOp.apply (o : ReqOp) (old : List Byte) : List Byte :=
  match o with
  | .load _ _ => old
  | .store bs => bs
  | .amo fn n v => leBytes n (atomicOp fn n (leNat old) (v.toNat % 2 ^ (8 * n)))
  | .cas n c v => if leNat old = c.toNat % 2 ^ (8 * n) then leBytes n v.toNat else old
  | .famo fn v => leBytes 4 (floatOp fn (leNat old) (v.toNat % 2 ^ 32))
  | _ => old

/-- The result a register receives: a load extended, or the old value of a read-modify-write. -/
def ReqOp.result (o : ReqOp) (vector : Bool) (old : List Byte) : List Byte :=
  match o with
  | .load n signed => if vector then old else leBytes (max 8 n) (extendLoad n signed (leNat old)).toNat
  | _ => leBytes 8 (leNat old)

/-- An access and those of its strand held behind it, which are never performed when it faults (04 R154). -/
def State.heldBehind (s : State) (r : Req) : List Req :=
  s.reqs.foldl (fun l e =>
    let behind (d : Req) : Bool :=
      match e.op, d.op with
      | .fence fn _, _ => fn != 1 || d.op.reads
      | _, .fence fn _ => fn != 2 || e.op.writes
      | _, _ => s.holds true d e
    if r.id < e.id && e.who.same r.who && l.any behind then l ++ [e] else l) [r]

/-- A fatal fault of an access after its instruction: the launch has a fault, the strand executes nothing more, and
the access is not performed (04 R154, 07 R247). -/
def State.reqFault (s : State) (r : Req) (code : BitVec 8) (addr : Word := r.addr) : State :=
  let gone := (s.heldBehind r).map (·.id)
  let t := (s.recordFault r.who.ctx (faultOf r.who r.pc code addr)).mapStrand r.who.crew r.who.idx
    (fun st => { st with ended := true, wait := none })
  { t with reqs := t.reqs.filter (fun e => !gone.contains e.id) }

/-- Words the access reads, or writes in part, are poisoned (10 R340). -/
def State.poisonHits (s : State) (r : Req) (p : Nat) : Bool :=
  s.poisonedAt p r.op.size && !(r.op.isStore && p % 8 == 0 && r.op.size % 8 == 0)

/-- The leases that stand on the unit of a weak store when it is performed (04 R143), those of loop buffers among them
(R144). -/
def State.storeLeases (s : State) (r : Req) : List LeaseWait :=
  let p := r.place.getD 0
  let wait (holder : Holder) (expiry : Nat) : LeaseWait :=
    { req := r.id, ctx := r.who.ctx, crew := r.who.crew, idx := r.who.idx, holder, expiry }
  (s.copies.filter (fun c => c.unit == r.unit s && s.tide < c.expiry)).map (fun c => wait c.holder c.expiry) ++
    s.strands.flatMap (fun st => (st.ahead.filter (fun l => l.line == p / 128 && s.tide < l.expiry && l.mask.getLsbD (p % 128 / 8))).map
      (fun l => wait (.icache st.core) l.expiry))

/-- What a write at the memory leaves there: a store of whole words clears their poison; a weak store of G space leaves
its strand to wait for standing leases (04 R142, R143), and a write drops the strand's own stale copies (04 R133). -/
def State.performWrite (s : State) (r : Req) (p : Nat) (bs : List Byte) : State :=
  let weak := r.kind == .weak && r.op.isStore && Place.isG p
  let t := (s.putAt (s.keyOf r.key) p bs).clearPoison p bs.length
  if Place.isG p then
    { t.dropOwnCopies (coreOfSlot (s.slotOf r.who)) p with
      leaseWaits := s.leaseWaits ++ (if weak then s.storeLeases r else []) }
  else t

/-! ## Completion barriers (01 R29 to R32) -/

/-- Send the wake-up to every strand that waits on a barrier (R30). -/
def State.wakeWaiters (s : State) (p : Nat) : State :=
  let wake (st : Strand) : Strand :=
    match st.wait with
    | some (.barrier q _) => if q == p then { st with wait := some (.barrier q true) } else st
    | _ => st
  { s with self := wake s.self, peers := s.peers.map wake, saved := s.saved.map wake }

/-- An arrival at the barrier at a place (R30), from a faulted command when a fault is given; the barrier's words change as one
event, which its caller records. -/
def State.arrive (s : State) (p : Nat) (f : Option (BitVec 8 × Word)) : State :=
  let w0 := leNat (s.bytesAt none p 4)
  let w1 := leNat (s.bytesAt none (p + 4) 4)
  let phase := (w0 % 2 ^ 31 + 1) % 2 ^ 31
  let arrived := bitsOf w1 23 12
  let expect := bitsOf w1 11 0
  if w0.testBit 31 then s
  else match f with
    | some (code, a) =>
      (s.putAt none p (leBytes 4 (2 ^ 31 + phase) ++ leBytes 4 (code.toNat * 2 ^ 24 + w1 % 2 ^ 24) ++ leBytes 8 a.toNat)).wakeWaiters p
    | none =>
      if expect ≤ arrived + 1 then
        (s.putAt none p (leBytes 4 phase ++ leBytes 4 (bitsOf w1 31 24 * 2 ^ 24 + expect))).wakeWaiters p
      else s.putAt none (p + 4) (leBytes 4 (w1 + 2 ^ 12))

/-- An access has been performed: the history has it (04 R139), and, if fences of its strand are still open, so have those
whom they concern. -/
def State.performed (s : State) (r : Req) (p stamp : Nat) : State :=
  let e := s.eventOf r p stamp
  (s.veil r e.words).record e

/-- Perform an access at the memory that holds it: a bank that is down wakes (14 R438), T words are checked again where
the access arrives (07 R243), a poisoned word is a machine check with its address (10 R340). A strand's arrival at a barrier is
one event there (05 R200). A write may have moved a ring's counter (07 R257). -/
def State.perform (s : State) (r : Req) (p : Nat) : State :=
  let s := s.wakeAt p
  let n := r.op.size
  let gone (f : Nat → Bool) : Bool := match r.space with
    | .t t => f t
    | _ => false
  if gone (fun t => s.inResize t r.addr.toNat n) then s.reqFault r T_RESIZED
  else if gone (fun t => s.tsize t < r.addr.toNat + n) then s.reqFault r SPACE_RANGE
  else if s.poisonHits r p then s.reqFault r MC_POISON (word (r.addr.toNat / 8 * 8))
  else if r.op = .arrive then
    (((s.arrive p none).performed r p s.writes).serveRings.dropReq r.id).tidy
  else
    let old := s.bytesAt (s.keyOf r.key) p n
    let t := if r.op.isLoad then s else s.performWrite r p (r.op.apply old)
    let t := (t.performed r p s.writes).deliver r.ret (r.op.result r.vector old)
    ((if r.op.writes then t.serveRings else t).dropReq r.id).tidy

/-- The elements of a store's vector instruction that write its word: they are performed with it (04 R138). -/
def State.elementsWith (s : State) (r : Req) : List Req :=
  if r.op.isStore && r.vector && !r.seqAfter then
    s.reqs.filter (fun e => e.unordered r && e.op.isStore && e.who.same r.who && s.sameWord e r)
  else [r]
/-- Perform a store, with the elements that must stand next to it, in the order in which the event names them, the others after
those; it waits while one of them is not translated. -/
def State.performStore (s : State) (r : Req) (p : Nat) : State :=
  let es := s.elementsWith r
  let named := s.args.slots.filterMap (fun id => es.find? (fun e => e.id == id))
  if es.any (fun e => e.place.isNone) then s
  else ((named ++ es.filter (fun e => !named.contains e)).eraseDups).foldl (fun t e => t.perform e (if e.id = r.id then p else e.place.getD 0)) s

/-- The holder a strand's load leaves a copy with. -/
def Req.holder (s : State) (r : Req) : Holder :=
  let core := coreOfSlot (s.slotOf r.who)
  if r.vector then .vmu core else .l1 core

/-! ## Home events -/

/-- The in-flight table of a place's slice has room: the requests in it, wherever the pages lie that migrate, are fewer than
SLMISS (R321). -/
def State.missRoom (s : State) (p : Nat) : Bool :=
  s.inflight.foldl (fun n f => n + (f.reqs.filter (fun id =>
    ((s.req id).bind (·.place)).any (fun q => sliceOf q == sliceOf p))).length) 0 < Config.slMiss.toNat

/-- A request is recorded with a line in flight, in arrival order: in the slice's table while that has room and none has
spilled, else in the slice's lighter queue, whose area is as large as it needs to be (R321; log 33). -/
def InFlight.add (f : InFlight) (id : Nat) (room : Bool) : InFlight :=
  if f.reqs.contains id || f.spilled.contains id then f
  else if f.spilled.isEmpty && room then { f with reqs := f.reqs ++ [id] }
  else { f with spilled := f.spilled ++ [id] }

/-- A request that meets a line in flight is recorded there (R321). -/
def State.recordAt (s : State) (r : Req) (p : Nat) : State :=
  { s with inflight := s.inflight.map (fun f => if f.lines.contains (p / 128) then f.add r.id (s.missRoom p) else f) }
/-- A request puts its line in flight, and is recorded there. -/
def State.beginFlight (s : State) (r : Req) (p : Nat) (stuck : Bool) : State :=
  { s with inflight := s.inflight ++ [InFlight.add { lines := [p / 128], stuck } r.id (s.missRoom p)] }

/-- The requests recorded with a line in flight, in arrival order. -/
def InFlight.recorded (f : InFlight) : List Nat := f.reqs ++ f.spilled

/-- What a request finds at its home: nothing keeps it; it is recorded with a line in flight, or begins a record of a
line whose DRAM layer has tripped (R339); or it waits, in the recall (01 R38) or for memory that is out of reach. -/
inductive Arrival where
  | go
  | recorded (s : State)
  | waits

/-- A host cache may hold the line of `n` bytes: it gives the line up before the home performs a write of them (R318, 16
R481). -/
def State.hostHeld (s : State) (p n : Nat) : Bool := n != 0 && sget false s.hostLines (p / 128)
/-- What keeps an access from being performed at its home: an owner of a part of it, for a write of an agent of the module a
host cache, or a fence of another agent (R143). -/
def State.barred (s : State) (r : Req) (p : Nat) : Bool :=
  s.ownedAt p r.op.size || (r.op.writes && r.who.crew != 0 && s.hostHeld p r.op.size) || s.veiled r.who false p r.op.size r.op.writes

/-- A request in order arrives at its place; a line that migrates lets those go that had arrived before (R338). -/
def State.arriveAt (s : State) (r : Req) (p : Nat) : Arrival :=
  match s.flightOf p with
  | some f =>
    if f.moving && r.arrived != 0 && s.orderedFor true [] r then (if s.barred r p || s.unreachable p then .waits else .go)
    else if s.orderedFor true f.recorded r then .recorded (s.recordAt r p)
    else .waits
  | none =>
    if !s.orderedFor true [] r then .waits
    else if s.unreachable p then
      (if s.tripped p then .recorded (s.beginFlight r p true) else .waits)
    else if s.barred r p then .waits
    else .go

/-- A load served from a copy of its core's cache or its tower's L2, under the permissions it was filled with (15 R467),
where the ordering rule allows it (04 R134, R139). -/
def State.copyRead (s : State) (r : Req) (c : Copy) : State :=
  let n := r.addr.toNat % 128
  if r.space == .g && s.orderedFor false [] r && !s.veiled r.who false (128 * c.line + n) r.op.size false && c.serves s r.who.asid r.addr && c.read && (c.user || !r.who.user) &&
      s.coherent c r &&
      (c.holder == r.holder s || c.holder == .tower (towerOfSlot (s.slotOf r.who))) then
    let t := (s.performed r (128 * c.line + n) c.stamp).subLease (r.holder s) c
    ((t.deliver r.ret (r.op.result r.vector (slice c.data n r.op.size))).dropReq r.id).tidy
  else s

/-- The cells of a tensor's element at a rod (14 R452). -/
def cellsOf (p : Word) (rod : Nat) : List Nat := (ptrRows p).map (fun row => cellName (rowId (ptrChan p) (ptrBank p) (ptrSub p) row) rod)
/-- A lane access in order is performed at the reckoner, once nothing holds it off (14 R431), as one event (R452), and wakes its
bank (R438). A load's rows are checked there again, since one may have been poisoned, and those of an access that has been issued again
(R431); an element of a store that has passed the checks is stored (R441). -/
def State.laneTurn (s : State) (r : Req) : State :=
  let go (p : Word) (rod : Nat) (f : State → State) : State :=
    let checked := if r.op.isLoad || r.again then s.checkBead r.who.asid p (rod - ptrCol p) [0] r.op.isLoad
      else if s.laneWaits (ptrChan p) (ptrBank p) (ptrSub p) (ptrRows p) then .error .wait else .ok ()
    if !s.ordered r then s
    else match checked with
      | .error .wait => s
      | .error (.fault code a) => s.reqFault r code a
      | .ok _ => (((f (s.wakeBank (ptrChan p) (ptrBank p))).record { s.eventOf r 0 s.writes with strong := true, words := cellsOf p rod }).dropReq
          r.id).tidy
  match r.op with
  | .laneLoad p rod w => go p rod (fun t => t.deliver r.ret (leBytes w (ofSigned (8 * w) (t.beadElem p rod))))
  | .laneStore p rod v => go p rod (fun t => t.putBead p rod v)
  | _ => s

/-- HOME_READ_REQUEST (R319): a load in order is served from a copy, by its home with a new lease, without one under
HOLD, or after the line has been filled. -/
def State.homeRead (s : State) (r : Req) (serve : Serve) : State :=
  if !r.op.isLoad then s
  else if r.space == .b then s.laneTurn r
  else if r.space == .win then
    if !s.ordered r then s
    else
      let (v, t) := s.windowRead r.addr.toNat
      (t.deliver r.ret (leBytes 8 v.toNat)).dropReq r.id
  else match serve, r.place with
    | .copy k, _ =>
      match s.copies[k]? with
      | some c => s.copyRead r c
      | none => s
    | _, none => s
    | _, some p =>
      match s.arriveAt r p with
      | .waits => s
      | .recorded t => t
      | .go =>
        if serve == .miss && Place.isG p then s.beginFlight r p false
        else
          let s' := s.perform r p
          if Place.isG p && s.mayLease (r.unit s) && !s.poisonHits r p then
            s'.grant (r.holder s) r.who.asid r.addr ⟨p, r.key, r.pageUser, r.pageRead, r.pageFetch⟩
          else s'

/-- HOME_WEAK_STORE (04 R142): performed on arrival. -/
def State.homeWeak (s : State) (r : Req) : State :=
  match r.place with
  | some p =>
    if r.op.isStore && r.kind == .weak && r.space != .win then
      match s.arriveAt r p with
      | .waits => s
      | .recorded t => t
      | .go => s.performStore r p
    else s
  | none => s

/-- A strong operation stands behind another that waits at its unit (R320); a claim that waits holds up no operation that a
migration lets finish. -/
def State.behind (s : State) (r : Req) : Bool :=
  let before (n : Nat) : Bool := n != 0 && (r.arrived = 0 || n < r.arrived)
  s.reqs.any (fun e => e.id != r.id && before e.arrived && (e.units s).any (r.units s).contains) ||
    ((s.flightOf (r.place.getD 0)).isNone && s.claims.any (fun c => !c.granted && before c.arrived && (r.units s).any c.held.contains)) ||
    s.lineHolds.any (fun h => before h.arrived && (r.units s).contains h.unit)

/-- The operation begins to wait at its home. -/
def State.queueAt (s : State) (r : Req) (held : Bool) : State :=
  let t := s.setReq r.id (fun r => { r with arrived := if r.arrived = 0 then s.serial else r.arrived, held := r.held || held })
  if r.arrived = 0 then { t with serial := s.serial + 1 } else t

/-- The units of `n` bytes at a place. -/
def State.unitsAt (s : State) (p n : Nat) : List Nat := ((wordsAt p n).map (fun w => s.unitAt (8 * w))).eraseDups
/-- A lease stands on `n` bytes of a line: on a unit of theirs, or on a copy that holds one of their words, under whichever
unit it was granted. -/
def State.leasedAt (s : State) (p n : Nat) : Bool :=
  (s.unitsAt p n).any (fun u => s.tide < sget 0 s.lexp u) ||
    s.copies.any (fun c => c.line == p / 128 && s.tide < c.expiry && (wordsAt p n).any (fun w => c.mask.getLsbD (w % 16)))

/-- An operation that is neither a request nor a claim waits on the leases of some units, and so sets HOLD (10 R319, R324);
the module's own writes count as crew 0, under a number each. -/
def State.holdOn (s : State) (crew idx : Nat) (units : List Nat) : State :=
  let mine (h : LineHold) : Bool := h.crew == crew && h.idx == idx
  let since := ((s.lineHolds.find? mine).map (·.arrived)).getD s.serial
  { s with
    lineHolds := s.lineHolds.filter (fun h => !mine h) ++ units.map (fun u => ⟨crew, idx, u, since⟩)
    serial := s.serial + 1 }
/-- Its HOLD clears. -/
def State.holdOff (s : State) (crew idx : Nat) : State :=
  { s with lineHolds := s.lineHolds.filter (fun h => !(h.crew == crew && h.idx == idx)) }
/-- A write of the module's own, of `n` bytes at a G place, goes ahead, its HOLD cleared; or it waits, while the place is out of
reach, a part of its line is owned, or a host cache holds it; or for leases, having set HOLD (10 R319). -/
def State.moduleWrite (s : State) (idx p n : Nat) : Except State State :=
  if s.stuck p || s.ownedAt (p / 128 * 128) 128 || s.hostHeld p n then .error s
  else if s.leasedAt p n then .error (s.holdOn 0 idx (s.unitsAt p n))
  else .ok (s.holdOff 0 idx)

/-- A lease stands on what a strong operation writes (10 R319; 16 R481). -/
def State.leased (s : State) (r : Req) (p : Nat) : Bool :=
  Place.isG p && (s.tide < sget 0 s.lexp (r.unit s) || s.leasedAt p r.op.size)

/-- A strong operation at its home (04 R142, 10 R319): it waits behind the operations that wait at its unit, in the order
of their arrival (R320), sets HOLD while a lease stands, and else is performed. -/
def State.homeStrong (s : State) (r : Req) : State :=
  match r.place with
  | none => s
  | some p =>
    if r.space == .win then s
    else if r.space == .b then s.laneTurn r
    else match s.arriveAt r p with
      | .waits => s
      | .recorded t => t
      | .go =>
        if s.behind r then s.queueAt r false
        else if s.leased r p then s.queueAt r true
        else s.performStore r p

def execHomeReadRequest (s : State) : Host.Outcome State Fault Refusal :=
  match s.req s.args.unit with
  | some r => .next (s.homeRead r s.args.serve)
  | none => .next s

def execHomeWeakStore (s : State) : Host.Outcome State Fault Refusal :=
  match s.req s.args.unit with
  | some r => .next (s.homeWeak r)
  | none => .next s

/-- HOME_STRONG_WRITE: a strong or release store. -/
def execHomeStrongWrite (s : State) : Host.Outcome State Fault Refusal :=
  match s.req s.args.unit with
  | some r => .next (if r.op.isStore && r.kind != .weak then s.homeStrong r else s)
  | none => .next s

/-- HOME_ATOMIC: a read-modify-write or reduction (10 R325, R326). -/
def execHomeAtomic (s : State) : Host.Outcome State Fault Refusal :=
  match s.req s.args.unit with
  | some r => .next (if r.op.isRmw then s.homeStrong r else s)
  | none => .next s

/-- LEASE_EXPIRY: the tide has reached LEXP; the operation held there is performed and HOLD clears (R319). -/
def execLeaseExpiry (s : State) : Host.Outcome State Fault Refusal :=
  match s.req s.args.unit with
  | some r => .next (if r.held then s.homeStrong r else s)
  | none => .next s

/-- Serve the requests that were recorded with a line, in arrival order (R321). -/
def State.serveRecorded (s : State) (ids : List Nat) : State :=
  ids.foldl (fun t id => match t.req id with
    | some r => if r.op.isLoad then t.homeRead r .home else if r.op.isStore && r.kind == .weak then t.homeWeak r else t.homeStrong r
    | none => t) s

/-- LINE_FILL_DONE: the line is ready, and the requests recorded there are served in arrival order (R321). -/
def execLineFillDone (s : State) : Host.Outcome State Fault Refusal :=
  match s.inflight.find? (fun f => f.lines == [s.args.unit]) with
  | some f =>
    if f.moving || s.unreachable (128 * s.args.unit) then .next s
    else
      let u := s.wakeAt (128 * s.args.unit)
      .next (State.serveRecorded { u with inflight := s.inflight.filter (fun g => g != f) } f.recorded)
  | none => .next s

/-- A TLB with room for one more entry: the oldest of those it holds beyond its size goes (15 R467). -/
def tlbRoom (t port : Nat) (l : List Tlb) : List Tlb :=
  let mine (e : Tlb) : Bool := e.tower == t && e.port == port
  (l.filter mine).take (Config.tlbEnt.toNat - 1) ++ l.filter (fun e => !mine e)

/-- PAGE_WALK (15 R461, R467): a request is translated; a page that is not present goes to the resolver and the crew
waits, every other fault ends the launch. The flag keeps the translation in the TLB that made it (15 R468). -/
def State.pageWalk (s : State) (r : Req) (keep : Bool) : State :=
  let acc : Access := if r.op.isLoad then .r else .w
  let t := towerOfSlot (s.slotOf r.who)
  let port := portOf r.addr
  let mine (e : Tlb) : Bool := e.tower == t && e.port == port && e.asid == r.who.asid && e.page == r.addr.toNat / e.leaf.size
  let s := if keep then s else { s with tlb := s.tlb.filter (fun e => !mine e) }
  if r.space != .g || r.place.isSome || r.op.isFence || (s.crewById r.who.crew).saved then s
  else match s.translate t r.who.asid r.who.user acc r.addr with
    | .ok x =>
      let s' := (s.learn r.who.asid r.addr x.place).setReq r.id (fun r => { r with
        place := some x.place, key := x.key, pageUser := x.user, pageRead := x.read, pageFetch := x.fetch, fault := false })
      match s.lookup t r.who.asid r.addr with
      | .leaf l _ =>
        let others := s'.tlb.filter (fun e => !mine e)
        let entry : Tlb := { tower := t, port, asid := r.who.asid, page := r.addr.toNat / l.size, leaf := l }
        { s' with tlb := if keep && !s.bootMapped r.who.asid then entry :: tlbRoom t port others else others }
      | _ => s'
    | .error .absent =>
      if r.who.ctx == bootCtx then s.reqFault r PAGE_NOT_PRESENT
      else ((s.pageFault r.who.asid r.addr t (acc.code + 32 * b2n r.who.user)).setReq r.id
          (fun r => { r with fault := true })).mapStrand r.who.crew r.who.idx
          (fun st => { st with pageWait := some r.addr, pageCode := PAGE_NOT_PRESENT })
    | .error .noSpace => s.reqFault r PAGE_NOT_PRESENT
    | .error .noncanon => s.reqFault r VA_NONCANON
    | .error (.waits p) => s.wakeAt p
    | .error .poisoned => s.reqFault r MC_POISON
    | .error _ => s.reqFault r PAGE_PERM

/-- A walk that a tower makes for an address, for a strand, a command, the pilot or a fetch ahead, leaves its leaf in the TLB of the
address's port (`how` 0) or in the walkers' cache (1), or there one of the table entries that it passed through; never a non-present
or malformed entry, nor the boot mapping (15 R468; 17 R491). -/
def State.keepWalk (s : State) (t : Nat) (asid : BitVec 16) (va : Word) (how : Nat) : State :=
  if !canonical va || s.bootMapped asid then s
  else if 2 ≤ how then
    match (s.tablesOf t asid va)[how - 2]? with
    | some w => { s with walked := w :: s.walked.filter (fun x => x != w) }
    | none => s
  else
    match s.lookup t asid va with
    | .leaf l _ =>
      let port := if how = 0 then portOf va else 32
      let entry : Tlb := { tower := t, port, asid, page := va.toNat / l.size, leaf := l }
      let others := s.tlb.filter (fun e => !(e.tower == t && e.port == port && e.asid == asid && e.page == va.toNat / e.leaf.size))
      { s with tlb := entry :: if how = 0 then tlbRoom t port others else others }
    | _ => s
/-- A TLB, or the walkers of a tower, forget an entry. -/
def State.dropWalk (s : State) (leaf : Bool) (n : Nat) : State :=
  if leaf then { s with tlb := s.tlb.eraseIdx n } else { s with walked := s.walked.eraseIdx n }
def execPageWalk (s : State) : Host.Outcome State Fault Refusal :=
  match s.req s.args.unit with
  | some r => .next (s.pageWalk r s.args.flag)
  | none => .next s

/-! ## Results that arrive (01 R34) -/

/-- The bytes of a result that is complete. -/
def Return.bytes (r : Return) : Option (List Byte) := r.data.mapM (fun x => x)

/-! ## Issuing -/

/-- Mark a destination empty and record its producer (01 R34); `data` is what of the result is known. -/
def State.produce (s : State) (d : Dest) (data : List (Option Byte)) (vector : Bool := false) : State × Nat :=
  let id := s.serial
  ({ (s.mapSelf (fun st => st.empty d)) with
      returns := s.returns ++ [{ id, crew := s.self.crew, idx := s.self.idx, dest := d, data, vector }]
      serial := s.serial + 1 }, id)

/-- The strand whose turn it is issues a fence, or an instruction that orders its accesses as one does. -/
def State.fenced (s : State) (fn scope : Nat) : State := s.meets { fence := some (fn, scope) }

/-- Issue an access of the strand whose turn it is. -/
def State.issue (s : State) (op : ReqOp) (kind : Kind) (space : Space) (addr : Word) (place : Option Nat)
    (ret : Option (Nat × Nat) := none) (opc : BitVec 8 := 0) (group : Nat := 0) : State :=
  { s with
    reqs := s.reqs ++ [{ id := s.serial, who := s.issuer, pc := s.self.pc, op, kind, space, addr, place, ret, opc, group }]
    serial := s.serial + 1 }

/-- An access that the strand performs within its instruction. -/
def State.ownReq (s : State) (op : ReqOp) (kind : Kind) (addr : Word) (p : Nat) : Req :=
  { id := s.serial, who := s.issuer, pc := s.self.pc, op, kind, space := Place.space p, addr, place := some p }
/-- It may go ahead: nothing earlier holds it back (04 R137), nor a fence of another agent (R143). -/
def State.mayAccess (s : State) (r : Req) (p : Nat) : Bool :=
  s.orderedFor true [] r && !s.veiled r.who false p r.op.size r.op.writes
/-- An access at a place of a local space goes ahead, past fences that do not hold it back; a word that a command owns is waited for
in the recall, which is a yield point (01 R38, 05 R181). -/
def State.touch (s : State) (op : ReqOp) (kind : Kind) (p : Nat) : Except Stop State :=
  let r := s.ownReq op kind 0 p
  if s.ownedAt p op.size then .error s.retry
  else if s.mayAccess r p then .ok (s.veil r (wordsAt p op.size))
  else .error s.hold

/-- The address of the first poisoned word among bytes at a place, which stand at an address (10 R340). -/
def State.poisonWord (s : State) (p n : Nat) (va : Word) : Word :=
  let k := ((List.range ((p + n - 1) / 8 + 1 - p / 8)).find? (fun i => sget false s.poison (p / 8 + i))).getD 0
  word (va.toNat / 8 * 8 + 8 * k)

/-- Read `n` bytes of G space within an instruction, with strong loads of 64-bit words (04 R127; 05 R159, 10 R322), some of
which the strand may have made already, in no order; the bytes lie within one line. A word that a command owns is waited for in
the recall, which is a yield point (01 R38, 05 R181). -/
def State.strongRead (s : State) (va : Word) (n : Nat) : Except Stop (List Byte) := do
  let t ← s.xlate .r va
  if s.tripped t.place || s.ownedAt t.place n then .error s.retry
  else if !s.readable t.place then .error (.wake t.place)
  else if !s.mayAccess (s.ownReq (.load n false) .strong va t.place) t.place then .error s.hold
  else if s.poisonedAt t.place n then .error (.fault MC_POISON (s.poisonWord t.place n va))
  else .ok ((List.range (n / 8)).flatMap (fun i =>
    ((s.self.looked.find? (fun x => x.1 == va + word (8 * i))).map (·.2)).getD (s.bytesAt (s.keyOf t.key) (t.place + 8 * i) 8)))

/-- An acquire of the strand whose turn it is has read `n` bytes at a place (04 R129). -/
def State.acquired (s : State) (p n : Nat) : State :=
  s.meets { reads := true, strong := true, acq := true, words := wordsAt p n, stamp := s.writes }

/-- The strand has read bytes with `strongRead`: the history has the words it read only now. -/
def State.lookedAt (s : State) (va : Word) (n : Nat) : State :=
  match s.xlate .r va with
  | .ok t =>
    let new := (List.range (n / 8)).filter (fun i => s.self.looked.all (fun x => x.1 != va + word (8 * i)))
    let words := new.map (fun i => t.place / 8 + i)
    (s.veil (s.ownReq (.load n false) .strong va t.place) words).meets { reads := true, strong := true, words, stamp := s.writes }
  | .error _ => s
/-- A word of what the strand's instruction reads with strong loads is read ahead of the others. -/
def State.lookAhead (s : State) (va : Word) : State :=
  match s.strongRead va 8 with
  | .ok bs => if va.toNat % 8 = 0 then (s.lookedAt va 8).mapSelf (fun st => { st with looked := (va, bs) :: st.looked }) else s
  | .error _ => s

end Sys2Proof.Machine
end

