-- ==== Sys2Proof/Machine/Access.lean ====
section
/-! DEFINITION. Access.lean: the access unit's instructions, opcodes 0x28 to 0x43 (07 R239 to R262), and the wake-ups of
full/empty words (01 R35). -/

namespace Sys2Proof.Machine

/-! ## Loads and stores (R244 to R248) -/

/-- The space a memory instruction names. -/
inductive SpaceName where
  | s
  | c
  | t
  | g
deriving DecidableEq, Repr

/-- Where an address of a space lies for the strand whose turn it is, or its space check's fault (R245); a T address that a resize
is about to add is T_RESIZED (R243). A G address
within the register window is the window's, for 64-bit supervisor accesses (17 R488); user code meets PAGE_PERM there, as
R488 says, and not PRIV (log 33). -/
def State.locate (s : State) (sp : SpaceName) (a : Word) (n : Nat) : Except Stop (Space × Word × Option Nat) :=
  let inside (r : Option (Space × Nat)) : Except Stop (Space × Word × Option Nat) :=
    match r with
    | some p => .ok (p.1, a, some (Space.at p))
    | none => .error (.fault SPACE_RANGE a)
  match sp with
  | .s => inside (s.crew.sSpace s.self.core a.toNat n)
  | .c => inside (s.crew.cSpace a.toNat n)
  | .t => if (s.tSpace s.self.tower a.toNat n).isNone && s.inResize s.self.tower a.toNat n then .error (.fault T_RESIZED a)
    else inside (s.tSpace s.self.tower a.toNat n)
  | .g =>
    if !canonical a then .error (.fault VA_NONCANON a)
    else if inWindow a then
      if n != 8 then .error (.fault ALIGN a)
      else if !s.self.priv then .error (.fault PAGE_PERM a)
      else .ok (.win, a - 0xFF00000000000000, some 0)
    else .ok (.g, a, none)

/-- The effective address of a memory form, aligned (R245, R246). -/
def State.effective (s : State) (f : FI) (unit : Nat) : Except Stop Word := do
  let b ← s.srcG f.a
  let a := b + f.byteOffset unit
  need (a.toNat % unit = 0) ALIGN a
  return a

/-- A load of a g register (R246): the destination is empty until the value arrives; g0 discards it. -/
def State.load (s : State) (len : Nat) (f : FI) (sp : SpaceName) (opc : BitVec 8) : Except Stop State := do
  let n := 2 ^ f.sz.toNat
  let a ← s.effective f n
  let (space, adr, place) ← s.locate sp a n
  s.destFree (.g f.d.toNat)
  let op : ReqOp := .load n f.sg
  if f.d == 0 then return (s.issue op (f.kindOf false) space adr place none opc).advance len
  else
    let (t, id) := s.produce (.g f.d.toNat) (List.replicate 8 none)
    return (t.issue op (f.kindOf false) space adr place (some (id, 0)) opc).advance len

/-- A store of a g register (R246): its data is captured at issue. -/
def State.store (s : State) (len : Nat) (f : FI) (sp : SpaceName) (opc : BitVec 8) : Except Stop State := do
  let n := 2 ^ f.sz.toNat
  let a ← s.effective f n
  let (space, adr, place) ← s.locate sp a n
  let v ← s.srcG f.d
  return (s.issue (.store (leBytes n v.toNat)) (f.kindOf true) space adr place none opc).advance len

def execLdS (f : FI) (s : State) := finish s (s.load 4 f .s 0x28)
def execStS (f : FI) (s : State) := finish s (s.store 4 f .s 0x29)
def execLdC (f : FI) (s : State) := finish s (s.load 4 f .c 0x2A)
def execStC (f : FI) (s : State) := finish s (s.store 4 f .c 0x2B)
def execLdT (f : FI) (s : State) := finish s (s.load 4 f .t 0x2C)
def execStT (f : FI) (s : State) := finish s (s.store 4 f .t 0x2D)
def execLdG (f : FI) (s : State) := finish s (s.load 4 f .g 0x2E)
def execStG (f : FI) (s : State) := finish s (s.store 4 f .g 0x2F)

/-- Four 64-bit accesses in S space, unordered among themselves (04 R127). -/
def State.loadQ (s : State) (f : FI) : Except Stop State := do
  let a ← s.effective f 32
  let (space, adr, place) ← s.locate .s a 32
  s.destFree (.q f.d.toNat)
  let (t, id) := s.produce (.q f.d.toNat) (List.replicate 32 none)
  let k := f.kindOf false
  return ((List.range 4).foldl (fun t i =>
    t.issue (.load 8 false) k space (adr + word (8 * i)) (place.map (· + 8 * i)) (some (id, 8 * i)) 0x30 (s.serial + 1)) t).advance 4
def execLdq (f : FI) (s : State) := finish s (s.loadQ f)

def State.storeQ (s : State) (f : FI) : Except Stop State := do
  let a ← s.effective f 32
  let (space, adr, place) ← s.locate .s a 32
  if !s.self.qFull.getLsbD f.d.toNat then .error s.retry
  else
    let bs := (s.self.q[f.d.toNat]?).getD []
    let k := f.kindOf true
    return ((List.range 4).foldl (fun t i =>
      t.issue (.store (slice bs (8 * i) 8)) k space (adr + word (8 * i)) (place.map (· + 8 * i)) none 0x31 (s.serial + 1)) s).advance 4
def execStq (f : FI) (s : State) := finish s (s.storeQ f)

/-! ## Full/empty words (R249 to R252) -/

/-- A word's full/empty bit; every word is full at reset (01 R33). -/
def State.wordFull (s : State) (p : Nat) : Bool := !sget false s.empties (p / 8)
/-- The agent that `e` names sets a word's bit: one event on the pair of value and bit (04 R131). -/
def State.setFull (s : State) (e : Event) (p : Nat) (full : Bool) : State :=
  ({ s with empties := sset false s.empties (p / 8) (!full) } : State).record
    { e with reads := true, writes := true, strong := true, words := [p / 8], stamp := s.writes }
def State.word64 (s : State) (p : Nat) : Word := leWord (s.bytesAt none p 8)

def Need.onFull : Need → Bool
  | .takeFull => true
  | .seeFull => true
  | _ => false

/-- Serve the requests that wait on a word, oldest first, for as long as the word can serve one (R250). -/
def State.serveWord (s : State) (p : Nat) : Nat → State
  | 0 => s
  | n + 1 =>
    let open_ (w : Waiter) : Bool := w.place == p && w.served.isNone
    if s.wordFull p then
      match s.waiters.find? (fun w => open_ w && w.need.onFull) with
      | some w =>
        if w.need == .seeFull then (s.answer w 0).serveWord p n
        else ((s.answer w (s.word64 p)).setFull w.event p false).serveWord p n
      | none => s
    else
      match s.waiters.find? (fun w => open_ w && !w.need.onFull) with
      | some w =>
        match w.need with
        | .putEmpty v => ((((s.answer w 0).putAt none p (leBytes 8 v.toNat)).clearPoison p 8).setFull w.event p true).serveWord p n
        | _ => s
      | none => s
def State.serve (s : State) (p : Nat) : State := (s.serveWord p (2 * s.waiters.length + 2)).serveRings

/-- The answer the strand's own request at a place has received. -/
def State.myWaiter (s : State) : Option Waiter :=
  s.waiters.find? (fun w => w.crew == s.self.crew && w.idx == s.self.idx)

/-- A request of the strand for a word or ring: its place, what it needs, the state in which it may be made, its event, and how its
place is served. -/
structure Ask where
  place : Nat
  need : Need
  state : State
  event : Event
  serve : State → State

/-- Once it may (`ask`), the strand joins the arrival queue of a place, which is then served; it waits for the wake-up unless it has
been answered at once. Answers the value received and the state without the request. -/
def State.queueFor (s : State) (ask : Except Stop Ask) : Except Stop (Word × State) :=
  let take (t : State) (w : Waiter) (v : Word) : Except Stop (Word × State) :=
    .ok (v, { (t.mapSelf (fun st => { st with wait := none })) with waiters := t.waiters.filter (fun x => x.id != w.id) })
  match s.myWaiter with
  | some w =>
    match w.served with
    | some v => take s w v
    | none => .error (.wait s)
  | none => do
    let k ← ask
    let s := k.state
    let w : Waiter := { id := s.serial, crew := s.self.crew, idx := s.self.idx, place := k.place, need := k.need, event := k.event }
    let t := k.serve { (s.mapSelf (fun st => { st with wait := some (.queued s.serial false) })) with
      waiters := s.waiters ++ [w], serial := s.serial + 1 }
    match t.waiters.find? (fun x => x.id == w.id) with
    | some w' =>
      match w'.served with
      | some v => take t w v
      | none => .error (.wait t)
    | none => .error (.wait t)

/-- A poisoned local word is a machine check (17 R503). -/
def State.notPoisoned (s : State) (p n : Nat) (a : Word) : Except Stop Unit := need (!s.poisonedAt p n) MC_POISON a

/-- ldfe, ldfe.c (R249). -/
def State.takeWord (s : State) (f : FI) (sp : SpaceName) : Except Stop State := do
  let (v, t) ← s.queueFor (do
    let a ← s.effective f 8
    let (_, _, place) ← s.locate sp a 8
    let p := place.getD 0
    s.destFree (.g f.d.toNat)
    let u ← s.touch (.cas 8 0 0) (f.kindOf false) p
    s.notPoisoned p 8 a
    return ⟨p, .takeFull, u, { s.ownEvent with acq := f.kindOf false == .acq }, fun t => t.serve p⟩)
  if f.d == 0 then return t.advance 4
  else return ((t.produce (.g f.d.toNat) ((leBytes 8 v.toNat).map some)).1).advance 4
def execLdfe (f : FI) (s : State) := finish s (s.takeWord f .s)
def execLdfeC (f : FI) (s : State) := finish s (s.takeWord f .c)

/-- stfe, stfe.c (R249). -/
def State.putWord (s : State) (f : FI) (sp : SpaceName) : Except Stop State := do
  let (_, t) ← s.queueFor (do
    let a ← s.effective f 8
    let (_, _, place) ← s.locate sp a 8
    let v ← s.srcG f.d
    let p := place.getD 0
    let u ← s.touch (.store (leBytes 8 0)) (f.kindOf true) p
    return ⟨p, .putEmpty v, u, { s.ownEvent with rel := f.kindOf true == .rel }, fun t => t.serve p⟩)
  return t.advance 4
def execStfe (f : FI) (s : State) := finish s (s.putWord f .s)
def execStfeC (f : FI) (s : State) := finish s (s.putWord f .c)

/-- The words that a fefill sets, once it may. -/
def State.fefillWords (s : State) (f : FA) : Except Stop (List Nat) := do
  let a ← s.srcG f.a f.trap
  let n ← s.srcG f.b f.trap
  need (a.toNat % 8 = 0) ALIGN a
  need (s.crew.isLocal && a.toNat < 2 ^ 19 && a.toNat + 8 * n.toNat ≤ 2 ^ 19) SPACE_RANGE a
  return (List.range n.toNat).map (fun i => Place.s s.self.core (a.toNat + 8 * i))
/-- Set the bit of one word, once it may be touched, which serves it. -/
def State.fillWord (s : State) (full : Bool) (p : Nat) : Except Stop State := do
  let t ← s.touch (.cas 8 0 0) .strong p
  return ((t.setFull s.ownEvent p full).pass).serve p
/-- fefill (R251): words one by one in ascending order, after those that have been set already. -/
def State.fefill (s : State) (f : FA) : Except Stop State := do
  let ps ← s.fefillWords f
  let t ← (ps.drop s.self.cleared.length).foldlM (fun t p => t.fillWord (f.fn == 1) p) s
  return (t.mapSelf (fun st => { st with cleared := [] })).advance 4
/-- The next word of a strand's fefill is set, ahead of those behind it. -/
def State.fillNext (s : State) (f : FA) : State :=
  match s.fefillWords f with
  | .ok ps =>
    match ps[s.self.cleared.length]? with
    | some p => match s.fillWord (f.fn == 1) p with
      | .ok t => t.mapSelf (fun st => { st with cleared := p :: st.cleared })
      | .error _ => s
    | none => s
  | .error _ => s
def execFefill (f : FA) (s : State) := finish s (s.fefill f)

/-- wfull (R252). -/
def State.waitFull (s : State) (f : FA) : Except Stop State := do
  let (_, t) ← s.queueFor (do
    let r ← s.srcG f.a f.trap
    let p ← s.ref 8 8 r
    return ⟨p, .seeFull, s, {}, fun t => t.serve p⟩)
  return t.advance 4
def execWfull (f : FA) (s : State) := finish s (s.waitFull f)

/-- FULL_EMPTY_WAKE (01 R35): the wake-up that ends a strand's wait reaches it. -/
def execFullEmptyWake (s : State) : Host.Outcome State Fault Refusal :=
  let wake (st : Strand) : Strand :=
    if st.slot == s.args.unit && !st.stopped then
      match st.wait with
      | some (.queued _ true) => { st with wait := none }
      | _ => st
    else st
  .next { s with self := wake s.self, peers := s.peers.map wake }

/-! ## Fences and local atomics (R253 to R255) -/

def State.fence (s : State) (fn scope : Nat) : State :=
  (((s.fenced fn scope).issue (.fence fn scope) .weak .g 0 none).tidy).advance 4
def execFence (f : FA) (s : State) := finish s (.ok (s.fence (f.b.toNat % 4) f.fn.toNat))

/-- Issue a returning read-modify-write whose old value goes to g[d]; g0 discards it. -/
def State.issueRmw (s : State) (d : Reg) (op : ReqOp) (space : Space) (adr : Word) (place : Option Nat)
    (opc : BitVec 8) : State :=
  if d == 0 then s.issue op .strong space adr place none opc
  else
    let (t, id) := s.produce (.g d.toNat) (List.replicate 8 none)
    t.issue op .strong space adr place (some (id, 0)) opc

/-- cas.s (R254): with g[b] and g[d] both empty, g[b] comes first (log 33). -/
def State.casLocal (s : State) (f : FA) : Except Stop State := do
  let n := if f.fn == 1 then 4 else 8
  let a ← s.srcG f.a f.trap
  need (a.toNat % n = 0) ALIGN a
  let (space, adr, place) ← s.locate .s a n
  let b ← s.srcG f.b f.trap
  let c ← s.srcG f.d f.trap
  return (s.issueRmw f.d (.cas n c b) space adr place 0x40).advance 4
def execCasS (f : FA) (s : State) := finish s (s.casLocal f)

/-- amo.s (R255): an empty g[b] comes before the checks of g[a] (log 33). -/
def State.amoLocal (s : State) (f : FA) : Except Stop State := do
  let a ← s.srcG f.a f.trap
  let b ← s.srcG f.b f.trap
  need (a.toNat % 8 = 0) ALIGN a
  let (space, adr, place) ← s.locate .s a 8
  s.destFree (.g f.d.toNat)
  return (s.issueRmw f.d (.amo f.fn.toNat 8 b) space adr place 0x41).advance 4
def execAmoS (f : FA) (s : State) := finish s (s.amoLocal f)

/-! ## Lane-aligned exchange (R256) -/

/-- Element width in bytes of a type code (02 R59, TY). -/
def tyBytes (ty : Nat) : Nat :=
  match ty with
  | 0 => 1
  | 1 => 2
  | 2 => 4
  | 3 => 8
  | 4 => 4
  | 5 => 2
  | _ => 1

/-- Write the elements of `n` bytes whose mask bit is set, and keep the others. -/
def mergeElems (n : Nat) (mask : List Bool) (old new : List Byte) : List Byte :=
  (List.range old.length).map (fun i =>
    if (mask[i / n]?).getD false then (new[i]?).getD 0 else (old[i]?).getD 0)

/-- One side of an exchange takes the other's vector and retires; type codes from 8 on are those of vxch (09 R298). -/
def Strand.exchanged (st : Strand) (d ty len : Nat) (theirs : List Byte) : Strand :=
  if ty < 8 then
    (st.fill (.q d) (mergeElems (tyBytes ty) (st.m.headD []) ((st.q[d]?).getD []) theirs)).advance len
  else
    (st.fill (.v d) (mergeElems (tyBytes (ty - 8)) ((st.m.headD []).take st.vl) ((st.v[d]?).getD []) theirs)).advance len

/-- The checks of an exchange's peer, which come before its vectors are looked at. -/
def State.peerOk (s : State) (p : Word) : Except Stop Unit := do
  need (wbits p 63 3 = 0 && p.toNat < s.crew.size) ILL_FIELD p
  need (p.toNat = s.self.idx || ((s.strandAt s.self.crew p.toNat).map (fun q => !q.retired)).getD false) MODE p

/-- The rendezvous of an exchange with a peer: both sides go at once, or this one waits. -/
def State.rendezvous (s : State) (p : Word) (d ty : Nat) (a : Nat) : Except Stop State := do
  let st := s.self
  let reg (x : Strand) (n : Nat) : List Byte := if ty < 8 then (x.q[n]?).getD [] else (x.v[n]?).getD []
  if p.toNat = st.idx then return s.mapSelf (fun x => x.exchanged d ty 4 (reg x a))
  else
    let waiting : Except Stop State :=
      .error (.wait (s.mapSelf (fun x => { x with wait := some (.exchange p.toNat d a ty 4) })))
    match s.strandAt st.crew p.toNat with
    | none => .error (.fault MODE p)
    | some q =>
      match q.wait with
      | some (.exchange peer d' a' ty' len) =>
        if peer = st.idx && !q.stopped && (ty < 8) == (ty' < 8) then
          let s' := s.mapStrand st.crew p.toNat (fun x => x.exchanged d' ty' len (reg st a))
          return s'.mapSelf (fun x => x.exchanged d ty 4 (reg q a'))
        else waiting
      | _ => waiting

def State.exchange (s : State) (f : FA) : Except Stop State := do
  let p ← s.srcG f.b f.trap
  s.peerOk p
  s.destFree (.q f.d.toNat)
  if !s.self.qFull.getLsbD f.a.toNat then .error (s.emptySource f.a f.trap)
  else s.rendezvous p f.d.toNat f.fn.toNat f.a.toNat
def execXch (f : FA) (s : State) := finish s (s.exchange f)

/-! ## Berth rings (R257 to R260) -/

/-- The slot area's space and offset for a crew's strand on a core of a tower (R258, check 5). -/
def State.slotArea (s : State) (c : Crew) (core : Nat) (sp a n : Nat) : Option (Space × Nat) :=
  match sp with
  | 0 => c.sSpace core a n
  | 1 => if (c.cSpace a 1).isSome && (c.cSpace (a + n - 1) 1).isSome then c.cSpace a 1 else none
  | _ => s.tSpace (towerOfCore core) a n

/-- Checks 2 to 5 of R258 on a configuration word. -/
def State.ringOk (s : State) (c : Crew) (core : Nat) (cfg : Word) : Except (BitVec 8) Unit :=
  let r : Ring := ⟨cfg, 0, 0, 0, 0⟩
  if r.logSize < 6 || 20 < r.logSize || 12 < r.logN || wbits cfg 49 30 != 0 then .error ILL_FIELD
  else if r.space = 3 then .error SPACE_RANGE
  else if r.base % 2 ^ r.logSize != 0 then .error ALIGN
  else if (s.slotArea c core r.space r.base (2 ^ (r.logSize + r.logN))).isNone then .error SPACE_RANGE
  else .ok ()

def liftCode (v : Word) : Except (BitVec 8) Unit → Except Stop Unit
  | .ok _ => .ok ()
  | .error c => .error (.fault c v)

/-- A counter instruction's descriptor, once the instruction may read and write it in the strand's order (R259), in the state that
this leaves: its place, checked as rginit would check it. -/
def State.ringAt (s : State) (r : Word) (kind : Kind) : Except Stop (Nat × State) := do
  let p ← s.ref 32 32 r
  let t ← s.touch (.cas 32 0 0) kind p
  s.notPoisoned p 32 r
  let cfg := (s.ring p).cfg
  liftCode cfg (s.ringOk s.crew s.self.core cfg)
  return (p, t)

def State.rginit (s : State) (f : FA) : Except Stop State := do
  let r ← s.srcG f.a f.trap
  let cfg ← s.srcG f.b f.trap
  let p ← s.ref 32 32 r
  liftCode cfg (s.ringOk s.crew s.self.core cfg)
  let t ← s.touch (.store (leBytes 32 0)) .strong p
  return (((t.writeAs s.ownEvent none p (Ring.bytes ⟨cfg, 0, 0, 0, 0⟩ ++ leBytes 8 0)).pass.clearPoison p 32).serveRing p).advance 4
def execRginit (f : FA) (s : State) := finish s (s.rginit f)

/-- rgclaim and rgtake: an acquire that waits for a slot. -/
def State.ringSlot (s : State) (f : FA) (n : Need) : Except Stop State := do
  let (v, t) ← s.queueFor (do
    let r ← s.srcG f.a f.trap
    let (p, u) ← s.ringAt r .acq
    s.destFree (.g f.d.toNat)
    return ⟨p, n, u, { s.ownEvent with acq := true }, fun t => t.serveRing p⟩)
  if f.d == 0 then return t.advance 4
  else return ((t.produce (.g f.d.toNat) ((leBytes 8 v.toNat).map some)).1).advance 4
def execRgclaim (f : FA) (s : State) := finish s (s.ringSlot f .claim)
def execRgtake (f : FA) (s : State) := finish s (s.ringSlot f .take)

/-- rgpost and rgfree: a release at module scope that moves a counter. -/
def State.ringMove (s : State) (f : FA) (post : Bool) : Except Stop State := do
  let r ← s.srcG f.a f.trap
  let (p, t) ← s.ringAt r .rel
  let g := s.ring p
  need (if post then g.post != g.claim else g.free != g.take) MODE r
  return (((t.setRing { s.ownEvent with rel := true } p
    (if post then { g with post := g.post + 1 } else { g with free := g.free + 1 })).pass).serveRing p).advance 4
def execRgpost (f : FA) (s : State) := finish s (s.ringMove f true)
def execRgfree (f : FA) (s : State) := finish s (s.ringMove f false)

/-! ## Prefetch, lease query, T split (R261, R262, R242) -/

/-- pref (R261): the line comes into L1 and L2, or into L2 only, where that is possible, and nothing else happens. A line's
own tower holds it at its home, with no copy. -/
def State.prefetch (s : State) (f : FI) : Except Stop State := do
  let b ← s.srcG f.a
  let a := b + f.byteOffset (2 ^ f.sz.toNat)
  let t := s.advance 4
  if inWindow a then return t
  else match s.translate s.self.tower s.crew.asid (!s.self.priv) .r a with
    | .ok x =>
      let line := x.place / 128 * 128
      if a.toNat % 2 ^ f.sz.toNat != 0 || !s.readable line || !s.mayLease (s.unitOf s.crew.asid a x.place) ||
          s.ownedAt line 128 || s.poisonedAt line 128 then return t
      else if f.sz == 0 then return t.grant (.l1 s.self.core) s.crew.asid a x
      else if homeTower x.place = s.self.tower then return t
      else return t.grant (.tower s.self.tower) s.crew.asid a x
    | .error _ => return t
def execPref (f : FI) (s : State) := finish s (s.prefetch f)

def State.leaseq (s : State) (f : FA) : Except Stop State := do
  let a ← s.srcG f.a f.trap
  need (canonical a) VA_NONCANON a
  s.destFree (.g f.d.toNat)
  let v := match s.copies.find? (fun c => c.holder == .l1 s.self.core && c.serves s s.crew.asid a) with
    | some c => word c.expiry
    | none => 0
  let t := if f.d == 0 then s else (s.produce (.g f.d.toNat) ((leBytes 8 v.toNat).map some)).1
  return t.advance 4
def execLeaseq (f : FA) (s : State) := finish s (s.leaseq f)

/-- A crane or matrix command is not done whose checked operands name a byte between two places of T space (R242, R243). -/
def State.usesT (s : State) (lo hi : Nat) : Bool :=
  (s.self :: s.peers ++ s.saved).any (fun st => (st.cq.cmds ++ st.mq.cmds).any (fun c =>
    !c.done && c.inT.any (fun x => x.1 < hi && lo < x.1 + x.2)))

/-- The lines a tower's L2 holds dirty and a growing T space may take over; a stranded line is never evicted (10 R339).
Which lines the SRAM holds is not stated: all of them (log 33). -/
def State.dirtyIn (s : State) (t : Nat) : List Nat :=
  (s.dirty.map (·.1)).filter (fun l => homeTower (128 * l) == t && !sget false s.stranded l)

/-- Wait under HOLD until the leases on some units have expired (10 R319, R324). -/
def State.holdUnits (s : State) (units : List Nat) : Except Stop State :=
  if units.all (fun u => sget 0 s.lexp u ≤ s.tide) then .ok (s.holdOff s.self.crew s.self.idx)
  else .error (s.holdOn s.self.crew s.self.idx units).hold

/-- tsplit up to its Begin (R242): the new size in units, once every earlier access is performed and no other tsplit of the tower
is in progress. -/
def State.tsplitReady (s : State) (f : FA) : Except Stop Nat := do
  s.supervisor
  let n ← s.srcG f.a f.trap
  need (n.toNat ≤ 8) ILL_FIELD n
  s.holdFor (s.drained s.issuer && s.leasesOver s.issuer s.serial 2)
  s.holdFor ((s.tower s.self.tower).resizing.isNone || !s.self.cleared.isEmpty)
  return n.toNat
/-- Begin: the range between the old size and the new one is in resize (R243). -/
def State.tsplitBegin (s : State) (f : FA) : State :=
  match s.tsplitReady f with
  | .ok n =>
    let old := s.tsize s.self.tower
    if n * 0x4000000 = old || !s.self.cleared.isEmpty then s
    else (s.setTower s.self.tower (fun x => { x with resizing := some (min old (n * 0x4000000), max old (n * 0x4000000)) })).mapSelf
      (fun st => { st with cleared := [0] })
  | .error _ => s
/-- tsplit (R242), to its End; where no Begin has been seen apart from it, the interval between them is empty (R243). -/
def State.tsplit (s : State) (f : FA) : Except Stop State := do
  let n ← s.tsplitReady f
  let t := s.self.tower
  let grows := s.tsize t < n * 0x4000000
  let lo := Place.t t (min (s.tsize t) (n * 0x4000000))
  let hi := Place.t t (max (s.tsize t) (n * 0x4000000))
  s.holdFor (s.tsize t ≤ n * 0x4000000 || !s.usesT lo hi)
  let lines := if grows then s.dirtyIn t else []
  let u ← s.holdUnits lines
  let s' := ({ u.fenced 0 2 with
    dirty := lines.foldl (fun m l => sset false m l false) u.dirty
    copies := if grows then u.copies.filter (fun c => c.holder != .tower t) else u.copies } : State).setTower t
      (fun x => { x with tUnits := n, resizing := none })
  return ({ s' with
    mem := s'.mem.filter (fun c => !(lo ≤ c.1 && c.1 < hi))
    poison := s'.poison.filter (fun c => !(lo ≤ 8 * c.1 && 8 * c.1 < hi)) }.mapSelf (fun st => { st with cleared := [] })).advance 4
def execTsplit (f : FA) (s : State) := finish s (s.tsplit f)

end Sys2Proof.Machine
end

