-- ==== Sys2Proof/Decode.lean ====
section
/-! DEFINITION. Decode.lean: parcels to instructions (02 R42 to R71), the encoder from the same tables, and the
host's view of one opcode-table row's word. -/

namespace Sys2Proof

/-! ## Field layouts (R47, R51, R56): each layout read from a word, and laid into one -/

def FA.ofParcel (p : Parcel) : FA :=
  ⟨p.extractLsb' 31 1, p.extractLsb' 28 3, p.extractLsb' 22 6, p.extractLsb' 16 6, p.extractLsb' 10 6⟩
def FI.ofParcel (p : Parcel) : FI := ⟨p.extractLsb' 22 10, p.extractLsb' 16 6, p.extractLsb' 10 6⟩
def FU.ofParcel (p : Parcel) : FU := ⟨p.extractLsb' 16 16, p.extractLsb' 10 6⟩
def FB.ofParcel (p : Parcel) : FB := ⟨p.extractLsb' 19 13, p.extractLsb' 16 3, p.extractLsb' 10 6⟩
def FJ.ofParcel (p : Parcel) : FJ := ⟨p.extractLsb' 10 22⟩
def FL.ofParcel (p : Parcel) : FL := ⟨p.extractLsb' 28 4, p.extractLsb' 16 12, p.extractLsb' 10 6⟩
def CR.ofHalf (h : BitVec 16) : CR := ⟨h.extractLsb' 13 3, h.extractLsb' 9 4, h.extractLsb' 5 4⟩
def CI.ofHalf (h : BitVec 16) : CI := ⟨h.extractLsb' 9 7, h.extractLsb' 5 4⟩
def CB.ofHalf (h : BitVec 16) : CB := ⟨h.extractLsb' 9 7, h.extractLsb' 5 4⟩
def CJ.ofHalf (h : BitVec 16) : CJ := ⟨h.extractLsb' 5 11⟩
def Prefix.ofParcel (p : Parcel) : Prefix :=
  ⟨p.extractLsb' 28 1, p.extractLsb' 22 6, p.extractLsb' 18 4, p.extractLsb' 15 3, p.extractLsb' 13 2, p.extractLsb' 10 3⟩

def FA.parcel (f : FA) (op : BitVec 8) : Parcel := f.e ++ f.fn ++ f.b ++ f.a ++ f.d ++ op ++ 3#2
def FI.parcel (f : FI) (op : BitVec 8) : Parcel := f.imm ++ f.a ++ f.d ++ op ++ 3#2
def FU.parcel (f : FU) (op : BitVec 8) : Parcel := f.imm ++ f.d ++ op ++ 3#2
def FB.parcel (f : FB) (op : BitVec 8) : Parcel := f.off ++ f.cond ++ f.a ++ op ++ 3#2
def FJ.parcel (f : FJ) (op : BitVec 8) : Parcel := f.off ++ op ++ 3#2
def FL.parcel (f : FL) (op : BitVec 8) : Parcel := f.flags ++ f.body ++ f.count ++ op ++ 3#2
def CR.half (f : CR) (cop : BitVec 3) (sel : BitVec 2) : BitVec 16 := f.x ++ f.a ++ f.d ++ cop ++ sel
def CI.half (f : CI) (cop : BitVec 3) (sel : BitVec 2) : BitVec 16 := f.imm ++ f.d ++ cop ++ sel
def CB.half (f : CB) (cop : BitVec 3) (sel : BitVec 2) : BitVec 16 := f.off ++ f.a ++ cop ++ sel
def CJ.half (f : CJ) (cop : BitVec 3) (sel : BitVec 2) : BitVec 16 := f.off ++ cop ++ sel
def Prefix.parcel (p : Prefix) : Parcel := 0#3 ++ p.ord ++ p.ixb ++ p.slot ++ p.emp ++ p.sat ++ p.rnd ++ 0xFF#8 ++ 3#2

/-- A parcel that is not compressed (R42). -/
def isWide (p : Parcel) : Bool := p.extractLsb' 0 2 == 3
/-- A first word of a pair (R56). -/
def isPrefix (p : Parcel) : Bool := isWide p && p.extractLsb' 2 8 == 0xFF

/-! ## The opcode map (R61 to R71) -/

/-- The instruction an opcode's parcel names, fields as they stand; `none` for an unassigned opcode (R71). Where the
opcode lists several names and the selector is not one of theirs, the first name stands, and its field check fails. -/
def decodeFields (p : Parcel) : Option Instr :=
  match (p.extractLsb' 2 8).toNat with
  | 0x00 => some (.add (.ofParcel p))
  | 0x01 => some (.sub (.ofParcel p))
  | 0x02 => some (.addi (.ofParcel p))
  | 0x03 => some (.andR (.ofParcel p))
  | 0x04 => some (.orR (.ofParcel p))
  | 0x05 => some (.xorR (.ofParcel p))
  | 0x06 => some (.logi (.ofParcel p))
  | 0x07 => some (.shl (.ofParcel p))
  | 0x08 => some (.shr (.ofParcel p))
  | 0x09 => some (.sar (.ofParcel p))
  | 0x0A => some (.shi (.ofParcel p))
  | 0x0B => some (.mul (.ofParcel p))
  | 0x0C => some (.mulh (.ofParcel p))
  | 0x0D => some (.div (.ofParcel p))
  | 0x0E => some (.rem (.ofParcel p))
  | 0x0F => some (.minmax (.ofParcel p))
  | 0x10 => some (.cmp (.ofParcel p))
  | 0x11 => some (.sel (.ofParcel p))
  | 0x12 => some (.lui (.ofParcel p))
  | 0x13 => some (.addpc (.ofParcel p))
  | 0x14 => some (.fops (.ofParcel p))
  | 0x15 => some (.ffma (.ofParcel p))
  | 0x16 => some (.fcmp (.ofParcel p))
  | 0x17 => some (.fcvt (.ofParcel p))
  | 0x18 => some (.br (.ofParcel p))
  | 0x19 => some (.brb (.ofParcel p))
  | 0x1A => some (.jmp (.ofParcel p))
  | 0x1B => some (.jal (.ofParcel p))
  | 0x1C => some (.jr (.ofParcel p))
  | 0x1D => some (.loopR (.ofParcel p))
  | 0x1E => some (.loopi (.ofParcel p))
  | 0x1F => some (.lexit (.ofParcel p))
  | 0x20 => some (.lidx (.ofParcel p))
  | 0x21 => some (.fe (.ofParcel p))
  | 0x22 => some (.getc (.ofParcel p))
  | 0x23 => some (.setc (.ofParcel p))
  | 0x24 => some (.trap (.ofParcel p))
  | 0x25 => some (.tret (.ofParcel p))
  | 0x26 => some (.sys (.ofParcel p))
  | 0x27 => some (.brk (.ofParcel p))
  | 0x28 => some (.ldS (.ofParcel p))
  | 0x29 => some (.stS (.ofParcel p))
  | 0x2A => some (.ldC (.ofParcel p))
  | 0x2B => some (.stC (.ofParcel p))
  | 0x2C => some (.ldT (.ofParcel p))
  | 0x2D => some (.stT (.ofParcel p))
  | 0x2E => some (.ldG (.ofParcel p))
  | 0x2F => some (.stG (.ofParcel p))
  | 0x30 => some (.ldq (.ofParcel p))
  | 0x31 => some (.stq (.ofParcel p))
  | 0x32 => some (.ldfe (.ofParcel p))
  | 0x33 => some (.stfe (.ofParcel p))
  | 0x34 => some (.fefill (.ofParcel p))
  | 0x35 => some (.ldfeC (.ofParcel p))
  | 0x36 => some (.stfeC (.ofParcel p))
  | 0x37 => some (.fence (.ofParcel p))
  | 0x38 => some (.xch (.ofParcel p))
  | 0x39 => some (.rgclaim (.ofParcel p))
  | 0x3A => some (.rgpost (.ofParcel p))
  | 0x3B => some (.rgtake (.ofParcel p))
  | 0x3C => some (.rgfree (.ofParcel p))
  | 0x3D => some (.rginit (.ofParcel p))
  | 0x3E => some (.pref (.ofParcel p))
  | 0x3F => some (.tsplit (.ofParcel p))
  | 0x40 => some (.casS (.ofParcel p))
  | 0x41 => some (.amoS (.ofParcel p))
  | 0x42 => some (.leaseq (.ofParcel p))
  | 0x43 => some (.wfull (.ofParcel p))
  | 0x44 => some (.cpub (.ofParcel p))
  | 0x45 => some (.cpubq (.ofParcel p))
  | 0x46 => some (.ifence (.ofParcel p))
  | 0x47 => some (.ipatch (.ofParcel p))
  | 0x48 => some (.spawn (.ofParcel p))
  | 0x49 => some (.spawnw (.ofParcel p))
  | 0x4A => some (.yield (.ofParcel p))
  | 0x4B => some (.retire (.ofParcel p))
  | 0x4C => some (.cbar (.ofParcel p))
  | 0x4D => some (.cbarq (.ofParcel p))
  | 0x4E => some (.wseq (.ofParcel p))
  | 0x4F => some (.abort (.ofParcel p))
  | 0x50 => some (.vlong (.ofParcel p))
  | 0x51 => some (.vshort (.ofParcel p))
  | 0x52 => some (.setvl (.ofParcel p))
  | 0x53 => some (.mset (.ofParcel p))
  | 0x54 => some (.mpop (.ofParcel p))
  | 0x55 => some (.vxch (.ofParcel p))
  | 0x56 => some (.vidx (.ofParcel p))
  | 0x57 => some (.vld (.ofParcel p))
  | 0x58 => some (.vst (.ofParcel p))
  | 0x59 => some (.vlds (.ofParcel p))
  | 0x5A => some (.vsts (.ofParcel p))
  | 0x5B => some (.vldx (.ofParcel p))
  | 0x5C => some (.vstx (.ofParcel p))
  | 0x5D => some (.vadd (.ofParcel p))
  | 0x5E => some (.vsub (.ofParcel p))
  | 0x5F => some (.vmul (.ofParcel p))
  | 0x60 => some (.vmulhI (.ofParcel p))
  | 0x61 => some (.vmulhN (.ofParcel p))
  | 0x62 => some (.vfma (.ofParcel p))
  | 0x63 => some (.vdiv (.ofParcel p))
  | 0x64 => some (.vdivN (.ofParcel p))
  | 0x65 => some (.vmin (.ofParcel p))
  | 0x66 => some (.vminN (.ofParcel p))
  | 0x67 => some (.vmax (.ofParcel p))
  | 0x68 => some (.vmaxN (.ofParcel p))
  | 0x69 => some (match (p.extractLsb' 28 3).toNat with
    | 1 => .vor (.ofParcel p)
    | 2 => .vxor (.ofParcel p)
    | 3 => .vandn (.ofParcel p)
    | 4 => .vorn (.ofParcel p)
    | 5 => .vxnor (.ofParcel p)
    | _ => .vand (.ofParcel p))
  | 0x6A => some (.vshl (.ofParcel p))
  | 0x6B => some (.vshr (.ofParcel p))
  | 0x6C => some (.vsar (.ofParcel p))
  | 0x6D => some (.vcmp (.ofParcel p))
  | 0x6E => some (.vsel (.ofParcel p))
  | 0x6F => some (.vmov (.ofParcel p))
  | 0x70 => some (if p.extractLsb' 22 6 == 1 then .vneg (.ofParcel p) else .vabs (.ofParcel p))
  | 0x71 => some (.vexp2 (.ofParcel p))
  | 0x72 => some (.vlog2 (.ofParcel p))
  | 0x73 => some (.vrecip (.ofParcel p))
  | 0x74 => some (if p.extractLsb' 22 6 == 1 then .vrsqrt (.ofParcel p) else .vsqrt (.ofParcel p))
  | 0x75 => some (.vact (.ofParcel p))
  | 0x76 => some (.vperm (.ofParcel p))
  | 0x77 => some (.vslide (.ofParcel p))
  | 0x78 => some (.vcompress (.ofParcel p))
  | 0x79 => some (.vexpand (.ofParcel p))
  | 0x7A => some (.vredsum (.ofParcel p))
  | 0x7B => some (.vredsumO (.ofParcel p))
  | 0x7C => some (.vredmm (.ofParcel p))
  | 0x7D => some (.vscan (.ofParcel p))
  | 0x7E => some (.vsortkv (.ofParcel p))
  | 0x7F => some (.vsegred (.ofParcel p))
  | 0x80 => some (.amoG (.ofParcel p))
  | 0x81 => some (.casG (.ofParcel p))
  | 0x82 => some (.redG (.ofParcel p))
  | 0x83 => some (.fredG (.ofParcel p))
  | 0x84 => some (.famoG (.ofParcel p))
  | 0x85 => some (.vredG (.ofParcel p))
  | 0x86 => some (.vfredG (.ofParcel p))
  | 0x87 => some (.rfence (.ofParcel p))
  | 0x88 => some (.rgrain (.ofParcel p))
  | 0x89 => some (.rdrop (.ofParcel p))
  | 0x8A => some (.gflush (.ofParcel p))
  | 0x8B => some (.gquery (.ofParcel p))
  | 0x8C => some (.seed (.ofParcel p))
  | 0x8D => some (.seedq (.ofParcel p))
  | 0x8E => some (.srseed (.ofParcel p))
  | 0x8F => some (.rtag (.ofParcel p))
  | 0x90 => some (.cvtn (.ofParcel p))
  | 0x91 => some (.cvtnF (.ofParcel p))
  | 0x92 => some (.cvtw (.ofParcel p))
  | 0x93 => some (.cvtwF (.ofParcel p))
  | 0x94 => some (.qscale (.ofParcel p))
  | 0x95 => some (.rotv (.ofParcel p))
  | 0x96 => some (.unrotv (.ofParcel p))
  | 0x97 => some (.cvti (.ofParcel p))
  | 0x98 => some (.mzero (.ofParcel p))
  | 0x99 => some (.mld (.ofParcel p))
  | 0x9A => some (.mst (.ofParcel p))
  | 0x9B => some (.mbar (.ofParcel p))
  | 0x9C => some (.mwait (.ofParcel p))
  | 0x9D => some (.mtr (.ofParcel p))
  | 0x9E => some (.mrow (.ofParcel p))
  | 0x9F => some (.mramp (.ofParcel p))
  | 0xA0 => some (.mtag (.ofParcel p))
  | 0xA1 => some (.mscl (.ofParcel p))
  | 0xA2 => some (.mma (.ofParcel p))
  | 0xA3 => some (.mmaC (.ofParcel p))
  | 0xA4 => some (.mmas (.ofParcel p))
  | 0xA5 => some (.mmax (.ofParcel p))
  | 0xA6 => some (.macc (.ofParcel p))
  | 0xA7 => some (.mcvt (.ofParcel p))
  | 0xA8 => some (.crn (.ofParcel p))
  | 0xA9 => some (.crnF (.ofParcel p))
  | 0xAA => some (.crnT (.ofParcel p))
  | 0xAB => some (.crnR (.ofParcel p))
  | 0xAC => some (.crnq (.ofParcel p))
  | 0xAD => some (.crnw (.ofParcel p))
  | 0xAE => some (.crnX (.ofParcel p))
  | 0xAF => some (.crnC (.ofParcel p))
  | 0xB0 => some (.ldB (.ofParcel p))
  | 0xB1 => some (.stB (.ofParcel p))
  | 0xB2 => some (.bcall (.ofParcel p))
  | 0xB3 => some (.bfence (.ofParcel p))
  | 0xB4 => some (.block (.ofParcel p))
  | 0xB5 => some (.bunlk (.ofParcel p))
  | 0xB6 => some (.bseal (.ofParcel p))
  | 0xB7 => some (.bstat (.ofParcel p))
  | 0xB8 => some (.bcsl (.ofParcel p))
  | 0xB9 => some (.bsave (.ofParcel p))
  | 0xBA => some (.brest (.ofParcel p))
  | 0xBB => some (.bwdog (.ofParcel p))
  | 0xBC => some (.bmode (.ofParcel p))
  | 0xBD => some (.bpart (.ofParcel p))
  | 0xBE => some (.bscrub (.ofParcel p))
  | _ => none

/-- A compressed half (R48, R49), fields as they stand. -/
def decodeHalfFields (h : BitVec 16) : Option Instr :=
  match (h.extractLsb' 0 2).toNat, (h.extractLsb' 2 3).toNat with
  | 0, 0 => some (.cMv (.ofHalf h))
  | 0, 1 => some (.cAdd (.ofHalf h))
  | 0, 2 => some (.cSub (.ofHalf h))
  | 0, 3 => some (.cAnd (.ofHalf h))
  | 0, 4 => some (.cOr (.ofHalf h))
  | 0, 5 => some (.cXor (.ofHalf h))
  | 0, 6 => some (.cLds (.ofHalf h))
  | 0, 7 => some (.cSts (.ofHalf h))
  | 1, 0 => some (.cAddi (.ofHalf h))
  | 1, 1 => some (.cLi (.ofHalf h))
  | 1, 2 => some (.cShli (.ofHalf h))
  | 1, 3 => some (.cShri (.ofHalf h))
  | 1, 4 => some (.cBeqz (.ofHalf h))
  | 1, 5 => some (.cBnez (.ofHalf h))
  | 1, 6 => some (.cBrb (.ofHalf h))
  | 2, 0 => some (.cJmp (.ofHalf h))
  | 2, 1 => some (.cJr (.ofHalf h))
  | 2, 2 => some (.cNop (.ofHalf h))
  | 2, 3 => some (.cYield (.ofHalf h))
  | 2, 4 => some (.cLidx (.ofHalf h))
  | _, _ => none

/-- What the decoder makes of the parcels at the program counter: an instruction and its length in bytes, or a decode
fault (R46) found in the first or the second word. -/
inductive Decoded where
  | instr (i : Instr) (len : Nat)
  | illOpc (second : Bool)
  | orphan
  | illField (second : Bool)
deriving DecidableEq, Repr

/-- A half of a compressed parcel (R42, R48 to R50). -/
def decodeHalf (h : BitVec 16) : Decoded :=
  if h == 3 then .instr .paddingHalf 2
  else match decodeHalfFields h with
    | none => .illOpc false
    | some i => if wordOk i then .instr i 2 else .illField false

/-- A 32-bit parcel (R42, R71). -/
def decodeWide (p : Parcel) : Decoded :=
  match decodeFields p with
  | none => .illOpc false
  | some i => if wordOk i then .instr i 4 else .illField false

/-- A first word `p` of a pair and the parcel `q` after it (R43, R46, R56 to R58). -/
def decodePair (p q : Parcel) : Decoded :=
  if q == 0 then .illOpc true
  else if !isWide q || q.extractLsb' 2 8 == 0xFF then .orphan
  else match decodeFields q with
    | none => .illOpc true
    | some j =>
      match pxUse j with
      | none => .orphan
      | some u =>
        if p.extractLsb' 29 3 != 0 || !(Prefix.ofParcel p).ok u then .illField false
        else if wordOk j && secondE j == 0 then .instr (.prefixedPair (.ofParcel p) j) 8
        else .illField true

/-- The instruction at a program counter (R42): `high` when the program counter is 2 modulo 4, `p` the parcel that
holds it and `q` the parcel after. A program counter inside a 32-bit parcel is ALIGN, raised by the fetch before. -/
def decode (high : Bool) (p q : Parcel) : Decoded :=
  if p == 0 then .illOpc false
  else if isPrefix p then decodePair p q
  else if isWide p then decodeWide p
  else decodeHalf (if high then p.extractLsb' 16 16 else p.extractLsb' 0 16)

/-! ## The encoder, from the same tables -/

/-- The parcel of an instruction's own 32-bit word; 0, which is no instruction, for every other. -/
def encodeParcel : Instr → Parcel
  | .add f => f.parcel 0x00
  | .sub f => f.parcel 0x01
  | .addi f => f.parcel 0x02
  | .andR f => f.parcel 0x03
  | .orR f => f.parcel 0x04
  | .xorR f => f.parcel 0x05
  | .logi f => f.parcel 0x06
  | .shl f => f.parcel 0x07
  | .shr f => f.parcel 0x08
  | .sar f => f.parcel 0x09
  | .shi f => f.parcel 0x0A
  | .mul f => f.parcel 0x0B
  | .mulh f => f.parcel 0x0C
  | .div f => f.parcel 0x0D
  | .rem f => f.parcel 0x0E
  | .minmax f => f.parcel 0x0F
  | .cmp f => f.parcel 0x10
  | .sel f => f.parcel 0x11
  | .lui f => f.parcel 0x12
  | .addpc f => f.parcel 0x13
  | .fops f => f.parcel 0x14
  | .ffma f => f.parcel 0x15
  | .fcmp f => f.parcel 0x16
  | .fcvt f => f.parcel 0x17
  | .br f => f.parcel 0x18
  | .brb f => f.parcel 0x19
  | .jmp f => f.parcel 0x1A
  | .jal f => f.parcel 0x1B
  | .jr f => f.parcel 0x1C
  | .loopR f => f.parcel 0x1D
  | .loopi f => f.parcel 0x1E
  | .lexit f => f.parcel 0x1F
  | .lidx f => f.parcel 0x20
  | .fe f => f.parcel 0x21
  | .getc f => f.parcel 0x22
  | .setc f => f.parcel 0x23
  | .trap f => f.parcel 0x24
  | .tret f => f.parcel 0x25
  | .sys f => f.parcel 0x26
  | .brk f => f.parcel 0x27
  | .ldS f => f.parcel 0x28
  | .stS f => f.parcel 0x29
  | .ldC f => f.parcel 0x2A
  | .stC f => f.parcel 0x2B
  | .ldT f => f.parcel 0x2C
  | .stT f => f.parcel 0x2D
  | .ldG f => f.parcel 0x2E
  | .stG f => f.parcel 0x2F
  | .ldq f => f.parcel 0x30
  | .stq f => f.parcel 0x31
  | .ldfe f => f.parcel 0x32
  | .stfe f => f.parcel 0x33
  | .fefill f => f.parcel 0x34
  | .ldfeC f => f.parcel 0x35
  | .stfeC f => f.parcel 0x36
  | .fence f => f.parcel 0x37
  | .xch f => f.parcel 0x38
  | .rgclaim f => f.parcel 0x39
  | .rgpost f => f.parcel 0x3A
  | .rgtake f => f.parcel 0x3B
  | .rgfree f => f.parcel 0x3C
  | .rginit f => f.parcel 0x3D
  | .pref f => f.parcel 0x3E
  | .tsplit f => f.parcel 0x3F
  | .casS f => f.parcel 0x40
  | .amoS f => f.parcel 0x41
  | .leaseq f => f.parcel 0x42
  | .wfull f => f.parcel 0x43
  | .cpub f => f.parcel 0x44
  | .cpubq f => f.parcel 0x45
  | .ifence f => f.parcel 0x46
  | .ipatch f => f.parcel 0x47
  | .spawn f => f.parcel 0x48
  | .spawnw f => f.parcel 0x49
  | .yield f => f.parcel 0x4A
  | .retire f => f.parcel 0x4B
  | .cbar f => f.parcel 0x4C
  | .cbarq f => f.parcel 0x4D
  | .wseq f => f.parcel 0x4E
  | .abort f => f.parcel 0x4F
  | .vlong f => f.parcel 0x50
  | .vshort f => f.parcel 0x51
  | .setvl f => f.parcel 0x52
  | .mset f => f.parcel 0x53
  | .mpop f => f.parcel 0x54
  | .vxch f => f.parcel 0x55
  | .vidx f => f.parcel 0x56
  | .vld f => f.parcel 0x57
  | .vst f => f.parcel 0x58
  | .vlds f => f.parcel 0x59
  | .vsts f => f.parcel 0x5A
  | .vldx f => f.parcel 0x5B
  | .vstx f => f.parcel 0x5C
  | .vadd f => f.parcel 0x5D
  | .vsub f => f.parcel 0x5E
  | .vmul f => f.parcel 0x5F
  | .vmulhI f => f.parcel 0x60
  | .vmulhN f => f.parcel 0x61
  | .vfma f => f.parcel 0x62
  | .vdiv f => f.parcel 0x63
  | .vdivN f => f.parcel 0x64
  | .vmin f => f.parcel 0x65
  | .vminN f => f.parcel 0x66
  | .vmax f => f.parcel 0x67
  | .vmaxN f => f.parcel 0x68
  | .vand f => f.parcel 0x69
  | .vor f => f.parcel 0x69
  | .vxor f => f.parcel 0x69
  | .vandn f => f.parcel 0x69
  | .vorn f => f.parcel 0x69
  | .vxnor f => f.parcel 0x69
  | .vshl f => f.parcel 0x6A
  | .vshr f => f.parcel 0x6B
  | .vsar f => f.parcel 0x6C
  | .vcmp f => f.parcel 0x6D
  | .vsel f => f.parcel 0x6E
  | .vmov f => f.parcel 0x6F
  | .vabs f => f.parcel 0x70
  | .vneg f => f.parcel 0x70
  | .vexp2 f => f.parcel 0x71
  | .vlog2 f => f.parcel 0x72
  | .vrecip f => f.parcel 0x73
  | .vsqrt f => f.parcel 0x74
  | .vrsqrt f => f.parcel 0x74
  | .vact f => f.parcel 0x75
  | .vperm f => f.parcel 0x76
  | .vslide f => f.parcel 0x77
  | .vcompress f => f.parcel 0x78
  | .vexpand f => f.parcel 0x79
  | .vredsum f => f.parcel 0x7A
  | .vredsumO f => f.parcel 0x7B
  | .vredmm f => f.parcel 0x7C
  | .vscan f => f.parcel 0x7D
  | .vsortkv f => f.parcel 0x7E
  | .vsegred f => f.parcel 0x7F
  | .amoG f => f.parcel 0x80
  | .casG f => f.parcel 0x81
  | .redG f => f.parcel 0x82
  | .fredG f => f.parcel 0x83
  | .famoG f => f.parcel 0x84
  | .vredG f => f.parcel 0x85
  | .vfredG f => f.parcel 0x86
  | .rfence f => f.parcel 0x87
  | .rgrain f => f.parcel 0x88
  | .rdrop f => f.parcel 0x89
  | .gflush f => f.parcel 0x8A
  | .gquery f => f.parcel 0x8B
  | .seed f => f.parcel 0x8C
  | .seedq f => f.parcel 0x8D
  | .srseed f => f.parcel 0x8E
  | .rtag f => f.parcel 0x8F
  | .cvtn f => f.parcel 0x90
  | .cvtnF f => f.parcel 0x91
  | .cvtw f => f.parcel 0x92
  | .cvtwF f => f.parcel 0x93
  | .qscale f => f.parcel 0x94
  | .rotv f => f.parcel 0x95
  | .unrotv f => f.parcel 0x96
  | .cvti f => f.parcel 0x97
  | .mzero f => f.parcel 0x98
  | .mld f => f.parcel 0x99
  | .mst f => f.parcel 0x9A
  | .mbar f => f.parcel 0x9B
  | .mwait f => f.parcel 0x9C
  | .mtr f => f.parcel 0x9D
  | .mrow f => f.parcel 0x9E
  | .mramp f => f.parcel 0x9F
  | .mtag f => f.parcel 0xA0
  | .mscl f => f.parcel 0xA1
  | .mma f => f.parcel 0xA2
  | .mmaC f => f.parcel 0xA3
  | .mmas f => f.parcel 0xA4
  | .mmax f => f.parcel 0xA5
  | .macc f => f.parcel 0xA6
  | .mcvt f => f.parcel 0xA7
  | .crn f => f.parcel 0xA8
  | .crnF f => f.parcel 0xA9
  | .crnT f => f.parcel 0xAA
  | .crnR f => f.parcel 0xAB
  | .crnq f => f.parcel 0xAC
  | .crnw f => f.parcel 0xAD
  | .crnX f => f.parcel 0xAE
  | .crnC f => f.parcel 0xAF
  | .ldB f => f.parcel 0xB0
  | .stB f => f.parcel 0xB1
  | .bcall f => f.parcel 0xB2
  | .bfence f => f.parcel 0xB3
  | .block f => f.parcel 0xB4
  | .bunlk f => f.parcel 0xB5
  | .bseal f => f.parcel 0xB6
  | .bstat f => f.parcel 0xB7
  | .bcsl f => f.parcel 0xB8
  | .bsave f => f.parcel 0xB9
  | .brest f => f.parcel 0xBA
  | .bwdog f => f.parcel 0xBB
  | .bmode f => f.parcel 0xBC
  | .bpart f => f.parcel 0xBD
  | .bscrub f => f.parcel 0xBE
  | _ => 0

/-- The half of a compressed instruction; 0x0007, which is no instruction, for every other. -/
def encodeHalf : Instr → BitVec 16
  | .paddingHalf => 3
  | .cMv f => f.half 0 0
  | .cAdd f => f.half 1 0
  | .cSub f => f.half 2 0
  | .cAnd f => f.half 3 0
  | .cOr f => f.half 4 0
  | .cXor f => f.half 5 0
  | .cLds f => f.half 6 0
  | .cSts f => f.half 7 0
  | .cAddi f => f.half 0 1
  | .cLi f => f.half 1 1
  | .cShli f => f.half 2 1
  | .cShri f => f.half 3 1
  | .cBeqz f => f.half 4 1
  | .cBnez f => f.half 5 1
  | .cBrb f => f.half 6 1
  | .cJmp f => f.half 0 2
  | .cJr f => f.half 1 2
  | .cNop f => f.half 2 2
  | .cYield f => f.half 3 2
  | .cLidx f => f.half 4 2
  | _ => 7

/-- The length in bytes of an encoded instruction (R44). -/
def Instr.len : Instr → Nat
  | .prefixedPair _ _ => 8
  | i => if encodeHalf i == 7 then 4 else 2

/-- The bytes of a parcel, low byte first (00 R7). -/
def Parcel.bytes (p : Parcel) : List Byte :=
  [p.extractLsb' 0 8, p.extractLsb' 8 8, p.extractLsb' 16 8, p.extractLsb' 24 8]

/-- The parcels of a well-formed instruction: a pair's two, a 32-bit instruction's one; a compressed instruction's
parcel holds it as the high half, above a c.nop. -/
def encode : Instr → List Parcel
  | .prefixedPair px j => [px.parcel, encodeParcel j]
  | i => if encodeHalf i == 7 then [encodeParcel i] else [encodeHalf i ++ 0x000A#16]

/-- The word of one opcode-table row given to the decoder: a 16-bit row is laid as the high half of a parcel whose low
half is c.nop (R42), where every half of the table, the padding half among them, stands as an instruction. -/
def decodeTableWord (nbits w : Nat) : Option Instr :=
  let d :=
    if nbits == 16 then decode true (BitVec.ofNat 16 w ++ 0x000A#16) 0
    else decode false (BitVec.ofNat 32 w) (BitVec.ofNat 32 (w / 2 ^ 32))
  match d with
  | .instr i _ => some i
  | _ => none

end Sys2Proof
end

