-- ==== Sys2Proof/Machine/Queues.lean ====
section
/-! DEFINITION. Queues.lean: command queues (01 R24 to R28, 13 R395), completion barriers (01 R29 to R32), and how a
command's end reaches them. -/

namespace Sys2Proof.Machine

/-! ## Queue identifiers (R27, R28) -/

/-- A channel lies in the bead partition of an address space: a subarray of it is assigned to the space (14 R450). -/
def State.inPartition (s : State) (asid : BitVec 16) (chan : Nat) : Bool :=
  (List.range 16).any (fun k => (List.range 64).any (fun sub =>
    sget none s.subOwner ((chan / 32 * 512 + k * 32 + chan % 32) * 64 + sub) == some asid))

/-- Resolve an identifier read for a strand of a crew (R28); `clear` are the bits of it that must be zero. -/
def State.resolveQueue (s : State) (w : Issuer) (size : Nat) (q : Nat) : Except (BitVec 8) QueueRef :=
  let kind := bitsOf q 31 28
  let tower := bitsOf q 27 24
  let idx := bitsOf q 7 0
  if 2 ^ 32 ≤ q || bitsOf q 23 8 != 0 || kind = 0 || 3 < kind then .error ILL_FIELD
  else if kind = 3 then
    if 32 ≤ idx then .error ILL_FIELD
    else if s.inPartition w.asid (tower * 32 + idx) then .ok (.bead (tower * 32 + idx))
    else .error SPACE_RANGE
  else if tower != 0 || size ≤ idx then .error ILL_FIELD
  else if kind = 1 then .ok (.crane w.crew idx)
  else .ok (.matrix w.crew idx)

/-- The queue; none once its strand is gone, when everything in it has completed (05 R168). -/
def State.queue (s : State) (q : QueueRef) : Option Queue :=
  match q with
  | .crane c i => (s.strandAt c i).map (·.cq)
  | .matrix c i => (s.strandAt c i).map (·.mq)
  | .bead k => some (s.chan k).queue
def State.setQueue (s : State) (q : QueueRef) (f : Queue → Queue) : State :=
  match q with
  | .crane c i => s.mapStrand c i (fun st => { st with cq := f st.cq })
  | .matrix c i => s.mapStrand c i (fun st => { st with mq := f st.mq })
  | .bead k => s.setChan k (fun ch => { ch with queue := f ch.queue })
/-- A queue's completion number has reached a sequence number. -/
def State.reached (s : State) (q : QueueRef) (n : Nat) : Bool :=
  match s.queue q with
  | some x => n ≤ x.completion
  | none => true

/-! ## Completion numbers and latches (R25) -/

/-- The completion number rises over the commands that are done, in sequence order. -/
def Queue.settle : Nat → Queue → Queue
  | 0, q => q
  | n + 1, q =>
    match q.cmds.find? (fun c => c.seq == q.completion + 1) with
    | some c => if c.done then
        Queue.settle n { q with completion := q.completion + 1, cmds := q.cmds.filter (fun x => x.seq != c.seq) }
      else q
    | none => q

/-- A command has completed; a fault is latched if none of a lower sequence number is. -/
def Queue.complete (q : Queue) (seq : Nat) (f : Option (BitVec 8 × Word)) : Queue :=
  let pc := ((q.cmds.find? (fun c => c.seq == seq)).map (·.pc)).getD 0
  let latch := match f, q.latch with
    | none, l => l
    | some (code, a), none => some ⟨code, seq, a, pc⟩
    | some (code, a), some l => if seq < l.seq then some ⟨code, seq, a, pc⟩ else some l
  let q' := { q with latch, cmds := q.cmds.map (fun c => if c.seq == seq then { c with done := true } else c) }
  Queue.settle (q'.cmds.length) q'

/-- The value a wait on a queue reads (05 R202). -/
def Queue.status (q : Queue) : Word :=
  word ((q.latch.map (fun l => l.code.toNat)).getD 0 * 2 ^ 56 + q.completion % 2 ^ 56)

/-! ## Wake-ups of completion barriers (R30) -/

/-- BARRIER_WAKE (R30): the wake-up reaches the strand; one that is stopped takes it on resume (05 R183). -/
def execBarrierWake (s : State) : Host.Outcome State Fault Refusal :=
  let wake (st : Strand) : Strand :=
    if st.slot == s.args.unit && !st.stopped then
      match st.wait with
      | some (.barrier _ true) => { st with wait := none }
      | _ => st
    else st
  .next { s with self := wake s.self, peers := s.peers.map wake }

/-! ## Issue (R24) and chain blocks (13 R395) -/

/-- Commands of a queue that still take an entry: those that have not completed. -/
def Queue.outstanding (q : Queue) : List Cmd := q.cmds.filter (fun c => !c.done)
/-- The commands of a chain block that have not moved back into hardware: the hardware holds the oldest. -/
def ChainBlock.left (b : ChainBlock) (q : Queue) (entries : Nat) : Nat :=
  ((q.outstanding.drop entries).filter (fun c => b.first ≤ c.seq && c.seq < b.first + b.count)).length
/-- The queue a chain block belongs to. -/
def ChainBlock.queue (b : ChainBlock) : QueueRef :=
  if b.kind = 1 then .crane b.crew b.idx else if b.kind = 2 then .matrix b.crew b.idx else .bead b.idx

/-- Hardware entries of a queue of a kind (17 R497). -/
def entriesOf (kind : Nat) : Nat := if kind = 1 then Config.cqEnt else if kind = 2 then Config.mqEnt else Config.bqEnt

/-- OWNER of a chain block: launch context, crew and queue identifier, packed as log 33 says. -/
def ChainBlock.owner (b : ChainBlock) : Nat := b.ctx * 2 ^ 48 + b.crew % 2 ^ 24 * 2 ^ 16 + b.kind * 2 ^ 12 + b.idx
/-- Two blocks are of one queue's chain. -/
def ChainBlock.mate (b e : ChainBlock) : Bool := e.ctx == b.ctx && e.crew == b.crew && e.idx == b.idx && e.kind == b.kind
/-- A chain block's header: NEXT, OWNER, FIRST and COUNT. -/
def State.chainHeader (s : State) (b : ChainBlock) : List Byte :=
  let next : Option ChainBlock := (((s.chains.filter (fun e => b.mate e)).dropWhile (fun e => e.addr != b.addr)).drop 1).head?
  leBytes 8 ((next.map (fun e => e.addr.toNat)).getD 0) ++ leBytes 8 b.owner ++ leBytes 8 b.first ++ leBytes 4 b.inUse
/-- The number under which the pilot holds units for a block's header. -/
def ChainBlock.hold (b : ChainBlock) : Nat := 2 ^ 70 + b.ctx * 2 ^ 64 + b.addr.toNat

/-- Headers that are owed are brought up to date, each as soon as its page is present and writable and nothing holds the write off
(10 R319, 16 R481). -/
def State.payChains (s : State) : State :=
  (s.chains.filter (·.owed)).foldl (fun t b =>
    match t.translate b.tower (t.ctx b.ctx).asid false .w b.addr with
    | .ok x =>
      if !t.readable x.place then t.wakeAt x.place
      else match t.moduleWrite b.hold x.place 28 with
        | .error u => u
        | .ok u => { u.writeAt (u.keyOf x.key) x.place (u.chainHeader b) with
            chains := u.chains.map (fun e => if e = b then { b with owed := false } else e) }
    | .error _ => t) s

/-- Entries of the queues' chains move back into hardware that has become free: COUNT falls, and a block goes back to the
pool with its last entry, after which the block before it, if there is one, links to the block behind (13 R395). -/
def State.tidyChains (s : State) : State :=
  let left (b : ChainBlock) : Nat := match s.queue b.queue with
    | some q => b.left q (entriesOf b.kind)
    | none => 0
  let freed := s.chains.filter (fun b => left b = 0)
  State.payChains { s with
    lineHolds := s.lineHolds.filter (fun h => !(h.crew == 0 && freed.any (fun b => b.hold == h.idx)))
    chains := (s.chains.filter (fun b => left b != 0)).map (fun b =>
      if left b = b.inUse && !freed.any b.mate then b else { b with inUse := left b, owed := true }) }

/-- A line of a chain block: its page must be present and writable; one that is absent is resolved first as a page fault of the
instruction, which then has not been executed (13 R395). The write waits for an owner and for a host cache (01 R38, 16 R481). -/
def State.chainPlace (s : State) (block a : Word) : Except Stop Trans :=
  match s.translate s.self.tower s.crew.asid false .w a with
  | .ok t =>
    if !s.readable t.place then .error (.wake t.place)
    else if s.ownedAt (t.place / 128 * 128) 128 || s.hostHeld t.place 128 then .error s.hold
    else .ok t
  | .error .absent => .error (.chainPage block)
  | .error (.waits p) => .error (.wake p)
  | .error .poisoned => .error (.fault MC_POISON a)
  | .error _ => .error (.fault QUEUE_CHAIN block)

/-- A free chain block of a launch context; where there is none, the fault's address is CHBASE (log 33). -/
def State.freeBlock (s : State) (ctx : Nat) : Except Stop Word :=
  let x := s.ctx ctx
  match ((List.range (x.chsize.toNat / 4096)).map (fun i => x.chbase + word (4096 * i))).find? (fun a =>
      !s.chains.any (fun b => b.ctx == ctx && b.addr == a)) with
  | none => .error (.fault QUEUE_CHAIN x.chbase)
  | some a => .ok a

/-- Place a spilled command in its queue's chain: in the last block, or in a free one, which that block then links to. The lines
are written once no lease stands on them (10 R319). -/
def State.spill (s : State) (kind crew idx : Nat) (c : Cmd) (entry : List Byte) : Except Stop State := do
  let mine (b : ChainBlock) : Bool := b.ctx == c.who.ctx && b.crew == crew && b.idx == idx && b.kind == kind
  let (b, link) ← match (s.chains.filter mine).getLast? with
    | some l =>
      if l.count < 31 then pure ({ l with count := l.count + 1, inUse := l.inUse + 1, owed := false }, none)
      else (s.freeBlock c.who.ctx).map (fun a => ({ l with addr := a, tower := s.self.tower, first := c.seq, count := 1, inUse := 1, owed := false }, some l))
    | none => (s.freeBlock c.who.ctx).map (fun a => (⟨c.who.ctx, crew, idx, kind, a, s.self.tower, c.seq, 1, 1, false⟩, none))
  let chains := s.chains.filter (fun e => !(e.ctx == b.ctx && e.addr == b.addr)) ++ [b]
  let u : State := { s with chains := chains.map (fun e => if some e = link then { e with owed := false } else e) }
  let ws := [(b.addr, b.addr, u.chainHeader b), (b.addr, b.addr + word (128 * b.count), slice entry 0 128)] ++
    (link.map (fun l => (l.addr, l.addr, u.chainHeader l))).toList
  let ps ← ws.mapM (fun w => s.chainPlace w.1 w.2.1)
  let lines := ps.map (fun t => t.place / 128 * 128)
  if lines.any (fun p => s.leasedAt p 128) then .error (s.holdOn s.self.crew s.self.idx (lines.flatMap (fun p => s.unitsAt p 128))).hold
  else return (ps.zip ws).foldl (fun v x => v.writeAt (v.keyOf x.1.key) x.1.place x.2.2.2) (u.holdOff s.self.crew s.self.idx)

/-- Place one command in the strand's crane (`kind` 1) or matrix queue (2): its sequence number, and the state with
the command accepted. A chain entry holds what the command captured: `entry`, its descriptor, or the values of its operands. -/
def State.accept (s : State) (kind : Nat) (opc : Nat) (op : Instr) (args : List Word) (bytes : List Byte)
    (bar : Option Nat := none) (after : Nat := 0) (scope : Nat := 3) (entry : List Byte := []) :
    Except Stop (State × Nat) := do
  let st := s.self
  let q := if kind = 1 then st.cq else st.mq
  let seq := q.issue + 1
  let c : Cmd := { seq, pc := st.pc, who := s.issuer, op, args, bytes, born := s.serial, bar, after, scope }
  let held := if !entry.isEmpty then entry
    else if kind = 1 && !bytes.isEmpty then bytes
    else (args.map (fun a => leBytes 8 a.toNat)).flatten
  let t ← if q.outstanding.length < entriesOf kind then .ok s else s.spill kind st.crew st.idx c (leBytes 2 opc ++ held)
  let q' := { q with issue := seq, cmds := q.cmds ++ [c] }
  return (t.mapSelf (fun st => if kind = 1 then { st with cq := q' } else { st with mq := q' }), seq)

/-- Write a command's sequence number to g[d] (08 R275): g0 discards it. -/
def State.sequenceTo (s : State) (d : Reg) (seq : Nat) : State := s.mapSelf (fun st => st.setG d.toNat (word seq))

/-- The strand's own queue of a kind. -/
def State.ownQueue (s : State) (kind : Nat) : QueueRef :=
  if kind = 1 then .crane s.self.crew s.self.idx else .matrix s.self.crew s.self.idx

/-- A command's arrival at the barrier it names, which releases all it has done (01 R32). -/
def State.arriveFor (s : State) (q : QueueRef) (c : Cmd) (f : Option (BitVec 8 × Word)) : State :=
  match c.bar with
  | some p => ((s.arrive p f).record
      { s.eventFor q c with reads := true, writes := true, strong := true, rel := true, words := wordsAt p 16, stamp := s.writes }).serveRings
  | none => s

/-- A command gives up what it owns, claims or waits for: its destination (01 R36), its place in a ring's arrival queue. -/
def State.disown (s : State) (q : QueueRef) (c : Cmd) : State :=
  { s with
    claims := s.claims.filter (fun x => !(x.q == q && x.seq == c.seq))
    waiters := s.waiters.filter (fun w => c.ticket = 0 || w.id != c.ticket) }

/-- The follow-on of a copy that has ended waits for it no more, comes after it (13 R404), and knows the fault that spoiled it (R403). -/
def State.followEnd (s : State) (q : QueueRef) (c : Cmd) (f : Option (BitVec 8 × Word)) : State :=
  match q with
  | .crane k i =>
    let t := s.setQueue (.matrix k i) (fun x => { x with cmds := x.cmds.map (fun e =>
      if e.after == c.seq then { e with after := 0, spoiled := f } else e) })
    match (((s.queue (.matrix k i)).getD {}).cmds.find? (fun e => e.after == c.seq)) with
    | some e => (t.record { t.eventFor q c with gives := [.copied k i c.seq] }).record
        { t.eventFor (.matrix k i) e with takes := [.copied k i c.seq] }
    | none => t
  | _ => s

/-- A command has completed: it owns nothing any more, its barrier has its arrival, ordinary or faulted, its queue counts
it, and latches its fault (01 R25, R30, R31, R36). -/
def State.complete (s : State) (q : QueueRef) (c : Cmd) (arrival latched : Option (BitVec 8 × Word)) : State :=
  ((((s.disown q c).arriveFor q c arrival).setQueue q (fun x => x.complete c.seq latched)).followEnd q c arrival).tidyChains

/-- A command has ended; a fault ends its launch (01 R31). -/
def State.endCommand (s : State) (q : QueueRef) (c : Cmd) (f : Option (BitVec 8 × Word)) : State :=
  let t := s.complete q c f f
  match f with
  | some (code, a) => t.recordFault c.who.ctx (faultOf c.who c.pc code a)
  | none => t

/-- A command completes without effect (12 R374, 13 R402, R410); its arrival is ordinary, or faulted. -/
def State.lapse (s : State) (q : QueueRef) (c : Cmd) (f : Option (BitVec 8 × Word)) : State := s.complete q c f none

end Sys2Proof.Machine
end

