-- ==== Sys2Proof/Machine/Fetch.lean ====
section
/-! DEFINITION. Fetch.lean: instruction fetch (08 R264 to R272, 04 R148 to R151), the decode faults' places (02 R43 to
R46, 06 R217), and the fetch unit's instructions, opcodes 0x44 to 0x47, with PUBLISH_COMMAND_EXEC. -/

namespace Sys2Proof.Machine

/-! ## Fetching a line (R264, R265) -/

/-- A copy that serves a fetch of a core at two addresses of a line (04 R150, 15 R467): of its instruction cache or of its
tower's L2, under an unexpired lease, filled from a published line under permissions that let the strand fetch. -/
def State.codeCopy (s : State) (core : Nat) (asid : BitVec 16) (user : Bool) (va vb : Word) : Option Copy :=
  let fits (h : Holder) (c : Copy) : Bool :=
    c.holder == h && c.fetch && (c.user || !user) && c.serves s asid va && c.serves s asid vb
  (s.copies.find? (fits (.icache core))).or (s.copies.find? (fits (.tower (towerOfCore core))))

/-- The line a copy gives to a strand that fetches. -/
def Copy.line_ (c : Copy) (expiry : Nat) : FetchLine :=
  { vline := c.vline, line := c.line, user := c.user, data := c.data, expiry, mask := c.mask }

/-- The parcel at an address of a line is not poisoned. -/
def State.parcelSound (s : State) (line : Nat) (va : Word) : Except Stop Unit :=
  need (!s.poisonedAt (128 * line + va.toNat % 128 / 4 * 4) 4) MC_POISON (word (va.toNat / 8 * 8))

/-- The line of two addresses in it as the strand's core gets it, as user code or not: from a copy, or from the home, which
grants a lease unless an operation holds the unit. At the home a line that a command owns waits, and not as at a yield point (10
R319); one that is unpublished faults before one with a poisoned parcel does (log 33). -/
def State.fetchCopy (s : State) (user : Bool) (va vb : Word) : Except Stop (FetchLine × State) := do
  let core := s.self.core
  match s.codeCopy core s.crew.asid user va vb with
  | some c =>
    let t := s.subLease (.icache core) c
    return (c.line_ (min (s.tide + Holder.llen (.icache core)) c.expiry), t)
  | none =>
    let x ← s.xlateAs user .x va
    if s.tripped x.place then .error s.retry
    else if !s.readable x.place then .error (.wake x.place)
    else
      s.holdFor (!s.ownedAt (x.place / 128 * 128) 128)
      need (!sget false s.unpub (x.place / 128)) IFETCH_UNPUBLISHED va
      s.parcelSound (x.place / 128) va
      s.parcelSound (x.place / 128) vb
      let c := s.copyFor (.icache core) s.crew.asid va x (s.tide + Holder.llen (.icache core))
      if s.mayLease c.unit then return (c.line_ c.expiry, s.grant (.icache core) s.crew.asid va x)
      else return (c.line_ 0, s)

/-- A line of the strand's own that serves a fetch: its page lets the strand fetch now, whatever the strand's mode was when it was
fetched (R265, R276), and its instructions are fetched and not yet executed, or it stands in the loop buffer under an unexpired
lease (R264, R270). -/
def FetchLine.serves (l : FetchLine) (s : State) (va : Word) : Bool :=
  l.vline == va.toNat / 128 && (l.user || s.self.priv) && l.mask.getLsbD (va.toNat % 128 / 8) &&
    (l.fresh.getLsbD (va.toNat % 128 / 2) || (s.self.looped.contains s.self.pc && s.tide < l.expiry))

/-- The line of an address as the strand's core fetches it: lines fetched ahead first when the turn says so. -/
def State.fetchLine (s : State) (va : Word) (ahead : Bool) : Except Stop (FetchLine × State) :=
  match (if ahead then s.self.ahead.find? (fun l => l.serves s va) else none) with
  | some l => .ok (l, s)
  | none => s.fetchCopy (!s.self.priv) va va

/-- A core fetches a line ahead of a strand's execution, in whatever mode the strand will reach it, past a trap or a tret; one that
meets a fault condition delivers nothing (R264, R265). -/
def State.fetchAhead (s : State) (va : Word) : State :=
  match s.fetchCopy false va va with
  | .ok (l, t) => t.mapSelf (fun st => { st with ahead := l :: st.ahead })
  | .error _ => s

/-- The parcel of a line at an address. -/
def parcelOf (line : List Byte) (va : Word) : Parcel := BitVec.ofNat 32 (field line (va.toNat % 128 / 4 * 4) 4)

/-- The line holds the first word of a pair and its second word's place. -/
def FetchLine.pairAt (l : FetchLine) (pc : Word) : Bool :=
  !pc.getLsbD 1 && isPrefix (parcelOf l.data pc) && pc.toNat % 128 != 124

/-- The line of the strand's PC; of a pair in one line both words come from one event (R279): where the line found does not serve
the second, the line is fetched for both. -/
def State.fetchFirst (s : State) (ahead : Bool) : Except Stop (FetchLine × State) := do
  let pc := s.self.pc
  let (l, t) ← s.fetchLine pc ahead
  if l.pairAt pc && !l.serves t (pc + 4) then t.fetchCopy (!s.self.priv) pc (pc + 4)
  else return (l, t)

/-- What the strand finds at its PC: the second word of a pair is fetched only for a first word that opens one, and a
target inside a wide parcel raises ALIGN (02 R45). A pair that goes on in the next line fetches that line as an event of its own. -/
def State.fetchInstr (s : State) (ahead : Bool) : Except Stop (Decoded × State) := do
  let pc := s.self.pc
  let (l, s) ← s.fetchFirst ahead
  let p := parcelOf l.data pc
  need (!(pc.getLsbD 1 && isWide p)) ALIGN pc
  if l.pairAt pc then return (decode false p (parcelOf l.data (pc + 4)), s)
  else if isPrefix p then
    let (m, s) ← s.fetchLine (pc + 4) ahead
    return (decode false p (parcelOf m.data (pc + 4)), s)
  else return (decode (pc.getLsbD 1) p 0, s)

/-- The addresses of the halfwords of the instruction at a PC that this line holds; a pair goes on in the next line. -/
def FetchLine.spent (l : FetchLine) (pc : Word) : List Word :=
  let p := parcelOf l.data pc
  if isPrefix p then [pc, pc + 2, pc + 4, pc + 6] else if isWide p then [pc, pc + 2] else [pc]

/-- What the instruction at `old`, once executed, leaves of the lines fetched ahead: its halfwords are fetched and executed;
its core's loop buffer holds it, when there is room, while a loop level in progress does; a line is forgotten once it holds
neither an instruction that has not been executed nor one of such a level (R264, R270). -/
def Strand.pruneAhead (old : Word) (room : Bool) (st : Strand) : Strand :=
  let spent := (st.ahead.filter (fun l => l.vline == old.toNat / 128)).flatMap (fun l => l.spent old)
  let inLoop (a : Word) : Bool := st.loops.any (fun v => v.start.toNat ≤ a.toNat && a.toNat < v.stop.toNat)
  let looped := st.looped.filter inLoop
  { st with
    looped := if room && inLoop old && !spent.isEmpty && !looped.contains old then old :: looped else looped
    ahead := (st.ahead.map (fun l => { l with fresh := spent.foldl (fun m a =>
        if a.toNat / 128 == l.vline then m &&& ~~~BitVec.twoPow 64 (a.toNat % 128 / 2) else m) l.fresh })).filter (fun l =>
      l.fresh != 0 || st.loops.any (fun v => v.start.toNat < 128 * (l.vline + 1) && 128 * l.vline < v.stop.toNat)) }
/-- The loop buffer of a core has room for one more of its 256 instructions (01 R14). -/
def State.loopRoom (s : State) (core : Nat) : Bool :=
  (s.strands.filter (fun st => st.core == core)).foldl (fun n st => n + st.looped.length) 0 < 256

/-! ## The sequencer's checks between decoding and execution (02 R46) -/

/-- Supervisor-only instructions (02 R61), and the supervisor-only register PHYSCORE (06 R211). -/
def privileged : Instr → Bool
  | .tsplit _ => true
  | .bcsl _ => true
  | .bsave _ => true
  | .brest _ => true
  | .bwdog _ => true
  | .bmode _ => true
  | .bpart _ => true
  | .bscrub _ => true
  | .getc f => f.imm == 0x11
  | .setc f => f.imm == 0x11
  | _ => false

/-- An instruction of `len` bytes starts before END of the innermost unfrozen level and ends after it (06 R217). -/
def Strand.straddles (st : Strand) (len : Nat) : Option Word :=
  match st.loops.getLast? with
  | some l =>
    if st.frozen < st.ldepth && st.pc.toNat < l.stop.toNat && l.stop.toNat < st.pc.toNat + len then some l.stop else none
  | none => none

/-- The pre-emption limit of a manifest (05 R185). -/
def Crew.limit (c : Crew) : Nat := (if c.plim = 0 then 65536 else c.plim) * 4096

/-! ## Publishing (R268 to R274) -/

/-- The lines that hold a byte of a range, each with the first address of the range in it. -/
def linesOf (a n : Word) : List Word :=
  if n == 0 then []
  else
    let off := a.toNat % 128
    (List.range ((off + n.toNat - 1) / 128 + 1)).map (fun i => if i = 0 then a else a - word off + word (128 * i))

/-- cpub's checks of its range (R274): its last byte has an address of 64 bits, and a canonical one. -/
def publishRange (a n : Word) : Except Stop Unit := do
  need (n.toNat ≤ 0x1000000) ILL_FIELD n
  need (canonical a) VA_NONCANON a
  need (n == 0 || (a.toNat + n.toNat - 1 < 2 ^ 64 && canonical (a + n - 1))) VA_NONCANON (a + n - 1)

/-- Clear the publish marks of physical lines (R268). -/
def State.clearMarks (s : State) (lines : List Nat) : State :=
  { s with unpub := lines.foldl (fun m l => sset false m l false) s.unpub }
/-- End the leases on physical lines that instruction caches of a scope's cores hold where a strand is placed (R270). What a
strand has fetched of them, and its loop-buffer entries for the levels in progress, may still run until its ifence; other
copies of the scope are overtaken, and serve no fetch after an ifence (04 R151; log 29). -/
def State.endCodeLeases (s : State) (w : Issuer) (scope : Nat) (lines : List Nat) : State :=
  { s with copies := s.copies.filterMap (fun c =>
      if !lines.contains c.line || !s.holderIn w scope c.holder then some c
      else match c.holder with
        | .icache core => if s.strands.any (fun st => st.core == core) then none else some { c with late := true }
        | .tower _ => some { c with late := true }
        | _ => some c) }
/-- Publish physical lines at a scope seen from an issuer. -/
def State.publish (s : State) (w : Issuer) (scope : Nat) (lines : List Nat) : State :=
  (s.clearMarks lines).endCodeLeases w scope lines

/-- A write of the strand to one of these lines is not performed yet; one that is not translated may be. -/
def State.writesPending (s : State) (lines : List Nat) : Bool :=
  s.reqs.any (fun r => r.who.same s.issuer && r.op.writes && r.space == .g &&
    match r.place with
    | some p => lines.contains (p / 128) || lines.contains ((p + r.op.size - 1) / 128)
    | none => true)

/-- The lines that a cpub publishes, once it may. -/
def State.cpubLines (s : State) (f : FA) : Except Stop (List Nat) := do
  let a ← s.srcG f.a f.trap
  let n ← s.srcG f.b f.trap
  publishRange a n
  let ts ← (linesOf a n).mapM (fun va => s.xlate .wx va)
  let lines := ts.map (fun t => t.place / 128)
  s.holdFor (!s.writesPending lines)
  return lines

/-- cpub (R274): the lines that are not published yet are, and the leases of all of them end. -/
def State.cpub (s : State) (f : FA) : Except Stop State := do
  let lines ← s.cpubLines f
  let t := (s.clearMarks (lines.filter (fun l => !s.self.cleared.contains l))).endCodeLeases s.issuer f.fn.toNat lines
  return (t.mapSelf (fun st => { st with cleared := [] })).advance 4
def execCpub (f : FA) (s : State) := finish s (s.cpub f)

/-- The clearing event of one line of a strand's cpub, ahead of the others (R274: they are not ordered). -/
def State.publishEarly (s : State) (f : FA) (line : Nat) : State :=
  match s.cpubLines f with
  | .ok lines =>
    if lines.contains line && !s.self.cleared.contains line then
      (s.clearMarks [line]).mapSelf (fun st => { st with cleared := line :: st.cleared })
    else s
  | .error _ => s

/-- cpubq (R275): the publish command takes its place in the crane queue. -/
def State.cpubq (s : State) (f : FA) : Except Stop State := do
  let a ← s.srcG f.a f.trap
  let n ← s.srcG f.b f.trap
  publishRange a n
  s.destFree (.g f.d.toNat)
  let (t, seq) ← s.accept 1 0x45 (.cpubq f) [a, n] [] none 0 f.fn.toNat
  return (t.sequenceTo f.d seq).advance 4
def execCpubq (f : FA) (s : State) := finish s (s.cpubq f)

/-- Copies that a publish has overtaken serve no fetch of a core after an ifence (04 R151). -/
def State.dropLate (s : State) (core : Nat) : State :=
  { s with copies := s.copies.filterMap (fun c =>
      if c.late && c.holder == .icache core then none
      else if c.late && c.holder == .tower (towerOfCore core) then some { c with fetch := false }
      else some c) }

/-- ifence (R276): a fence that holds back nothing any more has completed. -/
def State.ifence (s : State) : Except Stop State := do
  let w := s.issuer
  s.holdFor (s.reqs.all (fun r => !r.who.same w || !(r.op.reads || (r.op.isFence && !s.fenceOver r) || r.kind == .acq)) &&
    s.returns.all (fun r => !(r.crew == w.crew && r.idx == w.idx) || r.bytes.isNone))
  return (s.dropLate s.self.core).mapSelf (fun st => { st.advance 4 with ahead := [], looped := [] })
def execIfence (_f : FA) (s : State) := finish s s.ifence

/-- ipatch (R277): one event writes and publishes; in the ordering rule the write is a weak one, and is ordered before
what the strand does later (R278). -/
def State.ipatch (s : State) (f : FA) : Except Stop State := do
  let p ← s.srcG f.a f.trap
  let v ← s.srcG f.b f.trap
  need (canonical p) VA_NONCANON p
  need (p.toNat % 4 = 0) ALIGN p
  let t ← s.xlate .w p
  let r : Req := { id := s.serial, who := s.issuer, pc := s.self.pc, op := .store (leBytes 4 v.toNat), kind := .weak, space := .g, addr := p, place := some t.place, key := t.key }
  s.holdFor (!s.writesPending [t.place / 128] && s.ordered r && !s.ownedAt t.place 4 && !s.stuck t.place && !s.hostHeld t.place 4)
  need (!s.poisonedAt t.place 4) MC_POISON (word (p.toNat / 8 * 8))
  let u := (s.wakeAt t.place).performWrite r t.place (leBytes 4 v.toNat)
  let u := (u.record { s.eventOf r t.place s.writes with patch := some f.fn.toNat }).publish s.issuer f.fn.toNat [t.place / 128]
  return { u.advance 4 with serial := s.serial + 1 }
def execIpatch (f : FA) (s : State) := finish s (s.ipatch f)

/-! ## PUBLISH_COMMAND_EXEC (R275) -/

/-- The accesses of a command's strand that it follows are performed, and its issue releases the strand's stores at the
command's scope (01 R39, 04 R143, R145). -/
def State.cmdReady (s : State) (c : Cmd) : Bool :=
  s.reqs.all (fun e => !(e.who.same c.who && e.id < c.born) || e.op.isFence) && s.leasesOver c.who c.born c.scope

/-- How a command's step ends that does not complete it: it stays as it was, or goes on later from another state; it
waits for a page; or the command faults. -/
inductive CmdStop where
  | wait
  | keep (s : State)
  | page (addr : Word) (access : Nat)
  | fault (code : BitVec 8) (addr : Word)

/-- Translate an access of a command (13 R409): in its issuer's address space, at the tower of its issuer; the register window
takes 64-bit loads and stores of supervisor strands only (17 R488). -/
def State.cmdXlate (s : State) (w : Issuer) (acc : Access) (va : Word) : Except CmdStop Trans :=
  if inWindow va then .error (.fault (if w.user then PAGE_PERM else ALIGN) va)
  else match s.translate (towerOfSlot (s.slotOf w)) w.asid w.user acc va with
    | .ok t => .ok t
    | .error .noncanon => .error (.fault VA_NONCANON va)
    | .error .absent => .error (.page va acc.code)
    | .error .noSpace => .error (.fault PAGE_NOT_PRESENT va)
    | .error (.waits p) => .error (.keep (s.wakeAt p))
    | .error .poisoned => .error (.fault MC_POISON va)
    | .error _ => .error (.fault PAGE_PERM va)

/-- Apply a change to one command of a queue. -/
def State.setCmd (s : State) (q : QueueRef) (seq : Nat) (f : Cmd → Cmd) : State :=
  s.setQueue q (fun x => { x with cmds := x.cmds.map (fun e => if e.seq == seq then f e else e) })

/-- A command met a page that is not present: it waits for it, in the boot launch it faults (15 R470, 17 R491). -/
def State.cmdPage (s : State) (q : QueueRef) (c : Cmd) (addr : Word) (access : Nat) : State :=
  (s.pageFault c.who.asid addr (towerOfSlot (s.slotOf c.who)) (access + 32 * b2n c.who.user)).setCmd q c.seq
    (fun e => { e with pageWait := some addr })

/-- The fault address of a page that a command could not get: for the source descriptor of a transpose, the destination's
(12 R373). -/
def Cmd.pageFault (c : Cmd) (a : Word) : Word :=
  match c.op with
  | .mtr _ => if a == c.args.getD 0 0 then a + 32 else a
  | _ => a

/-- The end of a command's step: done, waiting as it was or in another state, waiting for a page, or faulted. -/
def State.finishCommand (s : State) (q : QueueRef) (c : Cmd) (r : Except CmdStop State) : State :=
  match r with
  | .ok t => t.endCommand q c none
  | .error .wait => s
  | .error (.keep t) => t
  | .error (.page a k) =>
    if c.who.ctx == bootCtx then s.endCommand q c (some (PAGE_NOT_PRESENT, c.pageFault a)) else s.cmdPage q c a k
  | .error (.fault code a) => s.endCommand q c (some (code, a))

/-- The queue of a kind of the strand in a slot. -/
def State.slotQueue (s : State) (slot kind : Nat) : Option (QueueRef × Queue) :=
  (s.strandInSlot slot).map (fun st =>
    if kind = 1 then (.crane st.crew st.idx, st.cq) else (.matrix st.crew st.idx, st.mq))

/-- The command at the head of a queue: the first that has not completed. -/
def State.headCmd (s : State) (slot kind : Nat) : Option (QueueRef × Queue × Cmd) :=
  match s.slotQueue slot kind with
  | some (r, q) => (q.cmds.find? (fun c => c.seq == q.completion + 1)).map (fun c => (r, q, c))
  | none => none

/-- A crnw, which begins when it is accepted and holds back the commands behind it (13 R394). -/
def Cmd.isWait (c : Cmd) : Bool :=
  match c.op with
  | .crnw _ => true
  | _ => false
def Cmd.isPublish (c : Cmd) : Bool :=
  match c.op with
  | .cpubq _ => true
  | _ => false

/-- A crane command may begin: those before it in its queue have begun, and the waits among them are over; a cpubq waits
for all of them to complete (08 R275, 13 R394). -/
def Queue.mayBegin (q : Queue) (c : Cmd) : Bool :=
  q.cmds.all (fun e => e.done || c.seq ≤ e.seq || (e.stage != 0 && !e.isWait && !c.isPublish))

/-- The command of a crane queue with a number, if it may run: begun commands run concurrently (13 R394). -/
def State.craneCmd (s : State) (slot seq : Nat) : Option (QueueRef × Queue × Cmd) :=
  match s.slotQueue slot 1 with
  | some (r, q) => ((q.cmds.find? (fun c => c.seq == seq && !c.done)).filter (fun c => c.stage != 0 || c.isWait || q.mayBegin c)).map
      (fun c => (r, q, c))
  | none => none

/-- The turn of a command, if it is of the kind the event names: it waits for the accesses it follows and for its page;
one that has not begun completes without effect once the queue has latched a fault, or when it was cancelled (12 R374, 13
R402, R410). -/
def State.commandTurn (s : State) (at_ : Option (QueueRef × Queue × Cmd)) (want : Cmd → Bool)
    (body : QueueRef → Cmd → State) : State :=
  match at_ with
  | some (ref, q, c) =>
    if !want c || c.pageWait.isSome || !s.cmdReady c then s
    else if c.stage != 0 then body ref c
    else match q.latch with
      | some l => s.lapse ref c (some (l.code, l.addr))
      | none => if c.cancelled then s.lapse ref c none else body ref c
  | none => s

/-- The publish of a cpubq command: the lines that are not published yet, as the body of R274 does it; the event may name
one line, to be published ahead of the others. -/
def State.publishCommand (s : State) (q : QueueRef) (c : Cmd) : Except CmdStop State :=
  match c.op, c.args with
  | .cpubq f, [a, n] => do
    let ts ← (linesOf a n).mapM (fun va => s.cmdXlate c.who .wx va)
    let lines := ts.map (fun t => t.place / 128)
    match s.args.part with
    | none =>
      return (s.clearMarks (lines.filter (fun l => !c.moved.contains l))).endCodeLeases c.who f.fn.toNat lines
    | some 0 => .error (.keep (s.setCmd q c.seq (fun e => { e with stage := 1 })))
    | some (k + 1) =>
      match lines[k]? with
      | some l =>
        if c.moved.contains l then .error (.keep s)
        else .error (.keep ((s.clearMarks [l]).setCmd q c.seq (fun e => { e with stage := 1, moved := l :: e.moved })))
      | none => .error .wait
  | _, _ => .error .wait

def execPublishCommandExec (s : State) : Host.Outcome State Fault Refusal :=
  .next (s.commandTurn (s.craneCmd s.args.unit s.args.sub) Cmd.isPublish
    (fun q c => s.finishCommand q c (s.publishCommand q c)))

end Sys2Proof.Machine
end

