-- ==== Sys2Proof/Machine/Engine.lean ====
section
/-! DEFINITION. Engine.lean: what the engines' commands do to memory (01 R36 to R39, 04 R145 to R147): operands in the
spaces, strong reads, ownership claims, strong writes. A command begins when it claims its destination; it reads and writes element by
element, all at once or with other agents' accesses in between (log 17), and releases what it owns when it completes. -/

namespace Sys2Proof.Machine

/-- `n` bytes at an address of a space (13 R396: 0 G, 1 S, 2 C, 3 T), checked for a command's issuer: T against TSIZE and a resize (07 R243),
G under R461, S and C against the crew's extent. -/
def State.spot (s : State) (w : Issuer) (space : Nat) (acc : Access) (n : Nat) (a : Word) : Except CmdStop Spot :=
  let slot := s.slotOf w
  let local_ (p : Option (Space × Nat)) : Except CmdStop Spot :=
    match p with
    | some x => .ok { va := a, place := Space.at x }
    | none => .error (.fault SPACE_RANGE a)
  match space with
  | 0 => do
    let t ← s.cmdXlate w acc a
    return { va := a, place := t.place, key := t.key, user := t.user, read := t.read, fetch := t.fetch }
  | 1 => local_ ((s.crewById w.crew).sSpace (coreOfSlot slot) a.toNat n)
  | 2 => local_ ((s.crewById w.crew).cSpace a.toNat n)
  | _ => if s.inResize (towerOfSlot slot) a.toNat n then .error (.fault T_RESIZED a) else local_ (s.tSpace (towerOfSlot slot) a.toNat n)

/-- A strong read of a source element (04 R147), which is its value at some time while the command runs: what the command
has read of it before, or what the memory holds now. It waits while the line is out of reach, or for a fence of another agent (R143),
wakes the bank, and meets a machine check at a poisoned word (10 R340). -/
def State.engineRead (s : State) (c : Cmd) (n : Nat) (x : Spot) : Except CmdStop (List Byte) :=
  if !s.readable x.place then .error (.keep (s.wakeAt x.place))
  else if s.veiled c.who true x.place n false then .error .wait
  else if s.poisonedAt x.place n then .error (.fault MC_POISON (s.poisonWord x.place n x.va))
  else .ok (s.bytesAt (s.keyOf x.key) x.place n)
def State.sourceRead (s : State) (c : Cmd) (n : Nat) (x : Spot) : Except CmdStop (List Byte) :=
  match c.seen.find? (fun y => y.1 == x.place && y.2.length == n) with
  | some y => .ok y.2
  | none => s.engineRead c n x

/-- A command has read what it had not read before of its source elements, of `n` bytes each (04 R145, R147): the history has it. -/
def State.sourced (s : State) (q : QueueRef) (c : Cmd) (n : Nat) (xs : List Spot) : State :=
  let new := xs.filter (fun x => c.seen.all (fun y => y.1 != x.place))
  s.record { s.eventFor q c with
    reads := true, strong := true, words := (new.flatMap (fun x => wordsAt x.place n)).eraseDups, stamp := s.writes }
/-- It reads one of them ahead of the others. -/
def State.readAhead (s : State) (q : QueueRef) (c : Cmd) (n : Nat) (x : Spot) : Except CmdStop State := do
  let bs ← s.sourceRead c n x
  if c.seen.any (fun y => y.1 == x.place) then .error (.keep s)
  else .error (.keep ((s.sourced q c n [x]).setCmd q c.seq (fun e => { e with seen := (x.place, bs) :: e.seen })))

/-- The tile fetch unit of the command's core takes the G lines it reads under leases, from homes that grant them (12 R385,
10 R318). -/
def State.pin (s : State) (c : Cmd) (xs : List Spot) : State :=
  let core := coreOfSlot (s.slotOf c.who)
  let lines := xs.foldl (fun (l : List Spot) x => if !Place.isG x.place || l.any (fun y => y.place / 128 == x.place / 128) then l else x :: l) []
  lines.foldr (fun x t =>
    if t.mayLease (t.unitOf c.who.asid x.va x.place) then t.grant (.tile core) c.who.asid x.va ⟨x.place, x.key, x.user, x.read, x.fetch⟩
    else t) s

/-- The tile fetch unit of a core lets go of its lines. -/
def State.unpin (s : State) (core : Nat) : State := { s with copies := s.copies.filter (fun c => c.holder != .tile core) }
/-- While the array of a core consumes a product, a line that is pinned for it is renewed, or fetched again, once its lease has
expired, unless its unit is held (12 R385, 10 R318). -/
def State.repin (s : State) (core : Nat) : State :=
  (s.copies.filter (fun c => c.holder == .tile core && c.expiry ≤ s.tide)).foldl (fun t c =>
    let o := 8 * (((List.range 16).find? (fun i => c.mask.getLsbD i)).getD 0)
    let va := word (128 * c.vline + o)
    if t.readable (128 * c.line) && t.mayLease (t.unitOf c.asid va (128 * c.line + o)) then
      t.grant (.tile core) c.asid va ⟨128 * c.line + o, c.key, c.user, c.read, c.fetch⟩
    else t) s
def State.repinned (s : State) : State :=
  (s.cores.filter (fun x => 0 < x.2.work)).foldl (fun t x => t.repin x.1) s

/-- A command that has begun reads its sources: all it still needs in this step; or the event names one element, each with
its size, which is read ahead of the others (04 R147: in no particular order); or it only begins. -/
def State.sample (s : State) (q : QueueRef) (c : Cmd) (xs : List (Nat × Spot)) : Except CmdStop Unit :=
  match s.args.part with
  | none => .ok ()
  | some 0 => .error (.keep s)
  | some (k + 1) =>
    match xs[k]? with
    | some (n, x) => ((s.pin c [x]).readAhead q c n x).map (fun _ => ())
    | none => .error (.keep s)

/-- Rows of `n` bytes at addresses of T space, as the spans they fill in the tower of a command's issuer. -/
def State.spansT (s : State) (w : Issuer) (n : Nat) (rows : List Nat) : List (Nat × Nat) :=
  rows.map (fun a => (Place.t (towerOfSlot (s.slotOf w)) a, n))
/-- The checks of a command's operands in T space, which fill `spans`, have passed (07 R243). -/
def State.passT (s : State) (q : QueueRef) (c : Cmd) (spans : List (Nat × Nat)) : State :=
  if spans.isEmpty then s else s.setCmd q c.seq (fun e => { e with inT := spans })

/-- A command that meets an absent page once its operands in T space have been checked waits for it with those (R243). -/
def State.passing {α : Type} (s : State) (q : QueueRef) (c : Cmd) (spans : List (Nat × Nat)) (r : Except CmdStop α) :
    Except CmdStop α :=
  match r with
  | .error (.page a k) => .error (.keep ((s.passT q c spans).finishCommand q c (.error (.page a k))))
  | x => x

/-- Elements of `n` bytes as the spans of memory they fill, those that follow each other joined. -/
def spansOf (n : Nat) (xs : List Spot) : List (Nat × Nat) :=
  (xs.foldl (fun (l : List (Nat × Nat)) x => match l with
    | (p, m) :: rest => if x.place = p + m then (p, m + n) :: rest else (x.place, n) :: l
    | [] => [(x.place, n)]) []).reverse
/-- Two lists of spans share a byte. -/
def spansMeet (a b : List (Nat × Nat)) : Bool := a.any (fun x => b.any (fun y => x.1 < y.1 + y.2 && y.1 < x.1 + x.2))

/-- Record a claim; one that waits keeps its place in the order of arrival (01 R37). -/
def State.putClaim (s : State) (x : Claim) : State :=
  match s.claims.find? (fun y => y.q == x.q && y.seq == x.seq) with
  | some y => { s with claims := s.claims.map (fun e => if e.q == x.q && e.seq == x.seq then { x with arrived := y.arrived } else e) }
  | none => { s with claims := s.claims ++ [{ x with arrived := s.serial }], serial := s.serial + 1 }

/-- A lane access that has passed its checks is still to be performed at one of these rows, which are numbered over the module: no
command that would change what was checked goes ahead of it (14 R441). That of a crew that has been saved is checked again. -/
def State.lanePending (s : State) (rows : List Nat) : Bool :=
  s.reqs.any (fun r => match r.op.lane with
    | some (p, _) => !r.again && !(s.crewById r.who.crew).saved &&
        (ptrRows p).any (fun i => rows.contains (rowId (ptrChan p) (ptrBank p) (ptrSub p) i))
    | none => false)

/-- What a claim still waits for: a lease on a unit it takes (04 R146, 10 R319), a host cache that holds a line (16 R481), or a fence
of another agent (04 R143); an owner of a part of its destination or its sources, or a lane access to its rows; a claim, a strong
operation or a range declaration that came before it (01 R37, 10 R320). -/
def State.claimWaits (s : State) (w : Issuer) (x : Claim) (units : List Nat) (src : List (Nat × Nat)) : Bool :=
  let mine (e : Claim) : Bool := e.q == x.q && e.seq == x.seq
  let before (n : Nat) : Bool := match s.claims.find? mine with
    | some y => n < y.arrived
    | none => true
  units.any (fun u => s.tide < sget 0 s.lexp u) || x.cells.any (fun y => Place.isG y.place && s.leasedAt y.place x.n) ||
    x.cells.any (fun y => s.hostHeld y.place x.n || s.veiled w true y.place x.n true) || s.lanePending x.rows ||
    s.claims.any (fun e => !mine e && (if e.granted then spansMeet e.spans (x.spans ++ src) || e.rows.any x.rows.contains
      else before e.arrived && (spansMeet e.spans x.spans || e.rows.any x.rows.contains))) ||
    s.reqs.any (fun r => r.arrived != 0 && before r.arrived && (r.units s).any units.contains) ||
    s.lineHolds.any (fun h => before h.arrived && units.contains h.unit)

/-- The claim by which a command has begun: what it owns, and the sources that were checked then. -/
def State.claimOf (s : State) (q : QueueRef) (c : Cmd) : Option Claim :=
  s.claims.find? (fun e => e.q == q && e.seq == c.seq && e.granted)

/-- A command claims its destination, elements of `n` bytes, or bead rows, and begins (01 R37); it has claimed it already, or
it waits and sets HOLD on the units that are leased. A narrower write to a poisoned word is a machine check (10 R340). -/
def State.claim (s : State) (q : QueueRef) (c : Cmd) (n : Nat) (cells : List Spot) (m : Nat) (src : List Spot)
    (rows : List Nat := []) : Except CmdStop State :=
  if (s.claimOf q c).isSome then .ok s
  else if cells.any (fun x => s.stuck x.place) then .error .wait
  else match cells.find? (fun x => s.poisonedAt x.place n && !(x.place % 8 == 0 && n % 8 == 0)) with
    | some x => .error (.fault MC_POISON (s.poisonWord x.place n x.va))
    | none =>
      let units := ((cells.filter (fun x => Place.isG x.place)).map (fun x => s.unitOf c.who.asid x.va x.place)).eraseDups
      let x : Claim := { q, seq := c.seq, asid := c.who.asid, n, cells, spans := spansOf n cells, src, rows }
      if s.claimWaits c.who x units (spansOf m src) then
        .error (.keep (s.putClaim { x with held := units.filter (fun u => s.tide < sget 0 s.lexp u) }))
      else .ok ((s.putClaim { x with held := units, granted := true }).setCmd q c.seq (fun e => { e with stage := max 1 e.stage }))

/-- The sources and the destination of a command: those it has checked and claimed (13 R401), or, before it begins, what its
checks find. -/
def State.operands (s : State) (q : QueueRef) (c : Cmd) (check : Except CmdStop (List Spot × List Spot)) :
    Except CmdStop (List Spot × List Spot) :=
  match s.claimOf q c with
  | some e => .ok (e.src, e.cells)
  | none => check

/-- A command's strong write of a claimed destination, which may move a ring's counter (07 R259); a bank that is down wakes (14
R438). -/
def State.engineWrite (s : State) (q : QueueRef) (c : Cmd) (x : Spot) (bs : List Byte) : State :=
  (((s.wakeAt x.place).writeAs (s.eventFor q c) (s.keyOf x.key) x.place bs).clearPoison x.place bs.length).serveRings
def State.engineWrites (s : State) (q : QueueRef) (c : Cmd) : List (Spot × List Byte) → State
  | [] => s
  | x :: xs => (s.engineWrite q c x.1 x.2).engineWrites q c xs

/-- A command that owns its destination moves on: it reads its sources and writes all it has not written yet, and is done;
or the event names one element, which is moved ahead of the others, or none (13 R400: they are unordered). The sources of
the elements, of `n` bytes, are `src`, where it has any. -/
def State.moveOn (s : State) (q : QueueRef) (c : Cmd) (elems : List (Spot × Except CmdStop (List Byte))) (n : Nat := 0)
    (src : List Spot := []) : Except CmdStop State :=
  match s.args.part with
  | none => do
    let ws ← (elems.zipIdx.filter (fun x => !c.moved.contains x.2)).mapM (fun x => x.1.2.map (fun bs => (x.1.1, bs)))
    return (s.sourced q c n ((src.zipIdx.filter (fun x => !c.moved.contains x.2)).map (·.1))).engineWrites q c ws
  | some 0 => .error (.keep s)
  | some (k + 1) =>
    match elems[k]? with
    | some (x, r) =>
      if c.moved.contains k then .error (.keep s)
      else do
        let bs ← r
        .error (.keep (((s.sourced q c n (src[k]?).toList).engineWrite q c x bs).setCmd q c.seq (fun e => { e with moved := k :: e.moved })))
    | none => .error (.keep s)

/-- A word of the 32-byte descriptors that a command has still to read is read ahead of the others (04 R127, R147). -/
def State.descAhead (s : State) (q : QueueRef) (c : Cmd) (ds : List Word) : Except CmdStop Unit :=
  match s.args.part with
  | some (k + 1) =>
    if ds.all (fun a => c.descs.any (fun d => d.1 == a)) then .ok ()
    else match (ds.flatMap (fun a => (List.range 4).map (fun i => a + word (8 * i))))[k]? with
      | some a =>
        match s.spot c.who 0 .r 8 a with
        | .ok x => if a.toNat % 8 = 0 then (s.readAhead q c 8 x).map (fun _ => ()) else .error (.keep s)
        | .error _ => .error (.keep s)
      | none => .error (.keep s)
  | _ => .ok ()

/-- A descriptor of a command, of 64-bit words read with strong loads when it begins (12 R366, R373 check 1), once: later steps of
the command use what it read then. -/
def State.readDesc (s : State) (q : QueueRef) (c : Cmd) (align n : Nat) (a : Word) : Except CmdStop (List Byte × State) := do
  if !canonical a then .error (.fault VA_NONCANON a)
  else if a.toNat % align != 0 then .error (.fault ALIGN a)
  else match c.descs.find? (fun d => d.1 == a) with
    | some d => .ok (d.2, s)
    | none => do
      let x ← s.spot c.who 0 .r n a
      let xs := (List.range (n / 8)).map (fun i => { x with va := a + word (8 * i), place := x.place + 8 * i })
      let bs ← xs.mapM (s.sourceRead c 8)
      return (bs.flatten, (s.sourced q c 8 xs).setCmd q c.seq (fun e => { e with descs := (a, bs.flatten) :: e.descs }))

/-- A check of a command. -/
def needCmd (ok : Bool) (code : BitVec 8) (a : Word) : Except CmdStop Unit :=
  if ok then .ok () else .error (.fault code a)

end Sys2Proof.Machine
end

