-- ==== Sys2Proof/Machine/Manifest.lean ====
section
/-! DEFINITION. Manifest.lean: the manifest record and its checks (05 R159 to R161), traversal (R162), completion of
manifests (R158), and the spawn instructions (R177 to R179, R197). -/

namespace Sys2Proof.Machine

/-! ## The record (R159, R160) -/

def recEntry (r : List Byte) : Word := word (field r 0x00 8)
def recArg (r : List Byte) : Word := word (field r 0x08 8)
def recCtrl (r : List Byte) : Nat := field r 0x10 4
def recTowers (r : List Byte) : BitVec 16 := BitVec.ofNat 16 (bitsOf (recCtrl r) 31 16)
def recLocal (r : List Byte) : Bool := (recCtrl r).testBit 14
def recOrder (r : List Byte) : Nat := bitsOf (recCtrl r) 13 11
def recDeps (r : List Byte) : Nat := bitsOf (recCtrl r) 10 8
def recPrio (r : List Byte) : Nat := bitsOf (recCtrl r) 7 6
def recLevels (r : List Byte) : Nat := bitsOf (recCtrl r) 5 3
def recSize (r : List Byte) : Nat := bitsOf (recCtrl r) 2 0 + 1
def recAge (r : List Byte) : Nat := field r 0x14 2
def recPlim (r : List Byte) : Nat := field r 0x16 2
def recYtab (r : List Byte) : Word := word (field r 0x18 8)
def recYcnt (r : List Byte) : Nat := field r 0x20 4
def recCount (r : List Byte) (l : Nat) : Nat := field r (0x28 + 4 * l) 4
def recDepq (r : List Byte) (j : Nat) : Nat := field r (0x40 + 4 * j) 4
def recDeps64 (r : List Byte) (j : Nat) : Nat := field r (0x50 + 8 * j) 8
def recTag (r : List Byte) : Word := word (field r 0x70 8)
def recCode (r : List Byte) : Word := word (field r 0x78 8)
def recCounts (r : List Byte) : List Nat := (List.range (recLevels r)).map (recCount r)

/-- The checks of R161 on a record that an issuer of a crew of `size` names; a launch-window record resolves no crane or
matrix queue. YTAB is checked for VA_NONCANON also when YCNT is 0, though R159 ignores it then, and for ALIGN only when it is used (log
33). -/
def State.checkManifest (s : State) (w : Issuer) (size : Nat) (root : Bool) (r : List Byte) : Option (BitVec 8) :=
  let deps := (List.range (min 4 (recDeps r))).map (fun j => s.resolveQueue w (if root then 0 else size) (recDepq r j))
  let fails (c : BitVec 8) : Bool := deps.any (fun d => match d with
    | .error e => e == c
    | .ok _ => false)
  if (recCtrl r).testBit 15 || field r 0x24 4 != 0 ||
      (List.range 6).any (fun l => recLevels r ≤ l && recCount r l != 0) ||
      (List.range 4).any (fun j => recDeps r ≤ j && (recDepq r j != 0 || recDeps64 r j != 0)) ||
      6 < recLevels r || 4 < recDeps r || 4 ≤ recOrder r || (recOrder r = 3 && recLevels r < 2) ||
      fails ILL_FIELD || (root && recTowers r == 0) then some ILL_FIELD
  else if fails SPACE_RANGE then some SPACE_RANGE
  else if !canonical (recEntry r) || !canonical (recArg r) || !canonical (recYtab r) || !canonical (recCode r) then
    some VA_NONCANON
  else if (recEntry r).getLsbD 0 || (recCode r).toNat % 4 != 0 || (recYcnt r != 0 && (recYtab r).toNat % 32 != 0) then
    some ALIGN
  else none

/-! ## Traversal (R162) -/

/-- Row-major digits of a number: the last count varies fastest. -/
def rowMajor (counts : List Nat) (n : Nat) : List Nat :=
  (counts.foldr (fun c (acc : List Nat × Nat) => (acc.2 % c :: acc.1, acc.2 / c)) ([], n)).1

/-- The pair number `n` of an a × b grid in Morton order, of at most 2^k by 2^k pairs. -/
def mortonAt : Nat → Nat → Nat → Nat → Nat × Nat
  | 0, _, _, _ => (0, 0)
  | k + 1, a, b, n =>
    let h := 2 ^ k
    let a0 := min a h
    let a1 := a - h
    let b0 := min b h
    let b1 := b - h
    if n < a0 * b0 then mortonAt k a0 b0 n
    else if n - a0 * b0 < a0 * b1 then
      let (i, j) := mortonAt k a0 b1 (n - a0 * b0)
      (i, j + h)
    else if n - a0 * b0 - a0 * b1 < a1 * b0 then
      let (i, j) := mortonAt k a1 b0 (n - a0 * b0 - a0 * b1)
      (i + h, j)
    else
      let (i, j) := mortonAt k a1 b1 (n - a0 * b0 - a0 * b1 - a1 * b0)
      (i + h, j + h)

/-- The number of iterations of a nest. -/
def iterations (counts : List Nat) : Nat := counts.foldl (· * ·) 1

/-- The loop indices of iteration `n`. -/
def iterationAt (order : Nat) (counts : List Nat) (n : Nat) : List Nat :=
  let l := counts.length
  match order with
  | 1 => (rowMajor counts.reverse n).reverse
  | 2 =>
    if l ≤ 1 then rowMajor counts n
    else
      let c := counts.getLastD 1
      let r := n / c
      rowMajor counts.dropLast r ++ [if r % 2 = 0 then n % c else c - 1 - n % c]
  | 3 =>
    let a := (counts[l - 2]?).getD 1
    let b := (counts[l - 1]?).getD 1
    let (i, j) := mortonAt 32 a b (n % (a * b))
    rowMajor (counts.take (l - 2)) (n / (a * b)) ++ [i, j]
  | _ => rowMajor counts n

/-! ## Manifests (R158, R177) -/

def State.manifest (s : State) (mid : BitVec 32) : Option Manifest := s.manifests.find? (fun m => m.mid == mid)
def State.setManifest (s : State) (mid : BitVec 32) (f : Manifest → Manifest) : State :=
  { s with manifests := s.manifests.map (fun m => if m.mid == mid then f m else m) }

/-- The dependences of a record, whose queues are resolved when the manifest is accepted (R168, 01 R27): for a strand of a
crew of a size, or for a root, which names bead queues. -/
def State.resolveDeps (s : State) (w : Issuer) (size : Nat) (r : List Byte) : List (QueueRef × Nat) :=
  (List.range (recDeps r)).filterMap (fun j => match s.resolveQueue w size (recDepq r j) with
    | .ok q => some (q, recDeps64 r j)
    | .error _ => none)

/-- A manifest waits in a lighter queue. -/
def State.inLighter (s : State) (m : Manifest) : Bool := (s.ctx m.ctx).lighter.contains m.mid
/-- The pending manifests in a tower's pool. -/
def State.poolCount (s : State) (t : Nat) : Nat :=
  (s.manifests.filter (fun m => m.tower == t && !m.done && !s.inLighter m)).length

/-- A new manifest identifier: any value that no manifest of the module holds, a launch's root from when it has been read
(R171). -/
def State.newMid (s : State) : BitVec 32 × State :=
  let (w, t) := s.freeWord
  let used (m : BitVec 32) : Bool := m == 0 || s.manifests.any (fun x => x.mid == m) ||
    s.ctxs.any (fun c => (c.launch.map (fun l => l.record.isSome && l.root == m)).getD false)
  let c := w.setWidth 32
  (if used c then (((List.range (s.manifests.length + s.ctxs.length + 2)).map (BitVec.ofNat 32)).find? (fun m => !used m)).getD c else c, t)

/-- A completion record but for NUM (R166). -/
def completionRecord (f : FaultRec) (tag : Word) : List Byte :=
  leBytes 1 f.code.toNat ++ leBytes 1 f.strand.toNat ++ leBytes 2 f.user.toNat ++ leBytes 4 f.mid.toNat ++
    leBytes 8 tag.toNat ++ leBytes 8 f.pc.toNat ++ leBytes 8 f.addr.toNat ++
    (List.range 6).flatMap (fun l => leBytes 4 ((f.indices[l]?).getD 0).toNat)

/-- The record of a launch that has completed. -/
def successRecord (m : Manifest) : List Byte := completionRecord { code := 0, mid := m.mid } (recTag m.record)

/-- A waiting spawnw is filled: its strand, as the observer of the completion of a manifest's subtree, orders what it does from now on
after all of that (R173). -/
def State.observe (s : State) (m : Manifest) : State :=
  match m.ret with
  | none => s
  | some r =>
    ((s.record { s.eventBy m.spawner s.serial with takes := [.tree m.born] }).pass).deliver (some (r, 0)) (leBytes 8 m.mid.toNat)

/-- A manifest all of whose iterations have ended is complete; once its children's subtrees are, its own is (R158): a
waiting spawnw is filled, and a root ends its launch. The completion of a subtree follows all that it did (R173). -/
def State.settle : Nat → BitVec 32 → State → State
  | 0, _, s => s
  | n + 1, mid, s =>
    match s.manifest mid with
    | none => s
    | some m =>
      if !(m.ready && m.next == iterations (recCounts m.record) && m.running == 0) then s
      else if m.kids != 0 then s.setManifest mid (fun m => { m with done := true })
      else
        let t := { s with manifests := s.manifests.filter (fun x => x.mid != mid) }
        match m.parent with
        | none => t.setCtx m.ctx (fun c => { c with launch := c.launch.map (fun l =>
            if l.faults.isEmpty then { l with completion := some (successRecord m) } else l) })
        | some p =>
          let above := ((s.manifest p).map (·.born)).getD 0
          let t := t.record { takes := [.over m.born], gives := [.over above, .tree m.born] }
          State.settle n p ((t.observe m).setManifest p (fun x => { x with kids := x.kids - 1 }))
def State.settleFrom (s : State) (mid : BitVec 32) : State := State.settle (s.manifests.length + 1) mid s

/-! ## Accesses of the pilot -/

/-- Cut a string into pieces of 32 bytes with their offsets. -/
def pieces : Nat → Nat → List Byte → List (Nat × List Byte)
  | 0, _, _ => []
  | n + 1, o, bs => if bs.isEmpty then [] else (o, bs.take 32) :: pieces n (o + 32) (bs.drop 32)

/-- Write bytes from a 32-aligned address of an address space upwards, in supervisor mode; none if a page of them is
not present and writable. -/
def State.pilotWrite (s : State) (t : Nat) (asid : BitVec 16) (va : Word) (bs : List Byte) : Option State :=
  (pieces (bs.length / 32 + 1) 0 bs).foldl (fun r x =>
    match r with
    | none => none
    | some s' =>
      match s.translate t asid false .w (va + word x.1) with
      | .ok p => some (((s'.wakeAt p.place).writeAt (s'.keyOf p.key) p.place x.2).clearPoison p.place x.2.length)
      | .error _ => none) (some s)

/-- An access of the pilot finds what it needs on its way: a bank that is down wakes (14 R438). -/
def State.wakeFor (s : State) (t : Nat) (asid : BitVec 16) (va : Word) : State :=
  match s.translate t asid false .any va with
  | .error (.waits p) => s.wakeAt p
  | .ok x => s.wakeAt x.place
  | .error _ => s

/-- The parts of a string of bytes that lie in different lines: their addresses and sizes. -/
def lineParts (va n : Nat) : List (Nat × Nat) :=
  (List.range ((va % 128 + n + 127) / 128)).map (fun i =>
    let a := max va ((va / 128 + i) * 128)
    (a, min (va + n) ((va / 128 + i + 1) * 128) - a))

/-- What a read of the pilot within one line still waits for: an entry of a page table or the line, out of reach; or an owner. -/
def State.pilotReadWaits (s : State) (t : Nat) (asid : BitVec 16) (va : Word) : Option State :=
  match s.translate t asid false .any va with
  | .error (.waits p) => some (s.wakeAt p)
  | .ok y => if !s.readable y.place then some (s.wakeAt y.place) else if s.ownedAt (y.place / 128 * 128) 128 then some s else none
  | .error _ => none

/-- What a write of the pilot still waits for: what a read would; a host cache that holds a line (16 R481); or leases, for which
it sets HOLD, as an operation of a strand or of the module (10 R319). -/
def State.pilotWaits (s : State) (t : Nat) (asid : BitVec 16) (va : Word) (n : Nat) (crew idx : Nat) : Option State :=
  let parts := lineParts va.toNat n
  match parts.findSome? (fun x => s.pilotReadWaits t asid (word x.1)) with
  | some u => some u
  | none =>
    let places := parts.filterMap (fun x => match s.translate t asid false .any (word x.1) with
      | .ok y => some (y.place, x.2)
      | .error _ => none)
    if places.any (fun x => s.hostHeld x.1 x.2) then some s
    else if places.any (fun x => s.leasedAt x.1 x.2) then some (s.holdOn crew idx (places.flatMap (fun x => s.unitsAt x.1 x.2)).eraseDups)
    else none

/-- Read bytes that lie in one line. -/
def State.pilotRead (s : State) (t : Nat) (asid : BitVec 16) (va : Word) (n : Nat) : Option (List Byte) :=
  match s.translate t asid false .r va with
  | .ok p => some (s.bytesAt (s.keyOf p.key) p.place n)
  | .error _ => none

/-- The lighter queue's size (R164). -/
def Ctx.lighterSize (c : Ctx) : Nat := 2 ^ min c.lqlog.toNat 24

/-- Free bytes (log 2): the pilot's own state in a lighter entry, whose layout the spec leaves open (R178). -/
def State.freeBytes : Nat → State → List Byte × State
  | 0, s => ([], s)
  | n + 1, s =>
    let (w, t) := s.freeWord
    let (bs, u) := State.freeBytes n t
    (leBytes 8 w.toNat ++ bs, u)

/-- The launch of a context ends by a fault of an entry of its lighter queue (log 33). -/
def State.lighterFault (s : State) (k : Nat) (code : BitVec 8) (t : Nat) (a : Word) : State :=
  s.recordFault k { code, mid := (((s.ctx k).launch.map (·.root)).getD 0), tower := t, addr := a }
/-- What a pilot access to an address that gives no translation comes to: it waits for a page that is not present, as `hold` notes, and
for an entry out of reach; anything else is a fault, which `fail` takes. -/
def TErr.pilot (e : TErr) (s : State) (t : Nat) (asid : BitVec 16) (a : Word) (acc : Nat) (hold : Word → State → State)
    (fail : BitVec 8 → Word → State → State) : State :=
  match e with
  | .absent => hold a (s.pageFault asid a t acc)
  | .waits p => s.wakeAt p
  | .noncanon => fail VA_NONCANON a s
  | .noSpace => fail PAGE_NOT_PRESENT a s
  | .poisoned => fail MC_POISON a s
  | _ => fail PAGE_PERM a s
/-- Bytes within one line that the pilot reads, or what the read comes to. -/
def State.pilotFetch (s : State) (t : Nat) (asid : BitVec 16) (a : Word) (n : Nat) (hold : Word → State → State)
    (fail : BitVec 8 → Word → State → State) : Except State (List Byte) :=
  match s.translate t asid false .r a with
  | .error e => .error (e.pilot s t asid a 0 hold fail)
  | .ok x =>
    match s.pilotReadWaits t asid a with
    | some u => .error u
    | none => if s.poisonedAt x.place n then .error (fail MC_POISON (s.poisonWord x.place n a) s) else .ok (s.bytesAt (s.keyOf x.key) x.place n)

/-- A page of a lighter queue that is not present is waited for. -/
def State.lighterHold (k : Nat) (a : Word) (s : State) : State := s.setCtx k (fun c => { c with lqWait := some a })
/-- The 256 bytes of an entry of a lighter queue, or what their read comes to. -/
def State.lighterRead (s : State) (k t : Nat) (a : Word) : Except State (List Byte) := do
  let half (a : Word) : Except State (List Byte) :=
    s.pilotFetch t (s.ctx k).asid a 128 (State.lighterHold k) (fun code x u => u.lighterFault k code t x)
  let l ← half a
  let h ← half (a + 128)
  return l ++ h
/-- An entry of a lighter queue can be written now, or what its write comes to. -/
def State.lighterWait (s : State) (k t : Nat) (a : Word) (crew idx : Nat) : Except State Unit := do
  for x in [a, a + 128] do
    match s.translate t (s.ctx k).asid false .w x with
    | .error e => .error (e.pilot s t (s.ctx k).asid x 1 (State.lighterHold k) (fun code y u => u.lighterFault k code t y))
    | .ok _ => .ok ()
  match s.pilotWaits t (s.ctx k).asid a 256 crew idx with
  | some u => .error u
  | none => .ok ()
/-- Write the entry of a manifest at a position of its context's lighter queue, once it can be (R178). -/
def State.writeLighter (s : State) (m : Manifest) (pos : Nat) : State :=
  let c := s.ctx m.ctx
  let (deps, s) := s.freeBytes 2
  let (own, s) := s.freeBytes 16
  let bs := m.record.take 0x40 ++ deps ++ m.record.drop 0x50 ++ own
  (s.pilotWrite m.tower c.asid (c.lqbase + word (256 * (pos % c.lighterSize))) bs).getD s

/-! ## spawn, spawnw (R197) -/

/-- The record kept of a strand that waits for its lighter queue to grow (16 R485). -/
def State.growthOf (s : State) : Nat := 8 * s.self.crew + s.self.idx

/-- A child's tower pool takes it at once (R177). -/
def State.poolOpen (s : State) (k t : Nat) : Bool := s.poolCount t < 960 && (s.ctx k).lighter.isEmpty

/-- There is room for a child in its pool or in the lighter queue; a full queue raises CHILD_POOL, or with its duty
host-assisted it is to grow and the strand waits (R179, 16 R485). -/
def State.childRoom (s : State) (k t : Nat) (p : Word) : Except Stop Unit :=
  let c := s.ctx k
  if s.poolOpen k t || c.lighter.length < c.lighterSize then .ok ()
  else if s.mod.duty.getLsbD 1 then
    match s.pageFaults.find? (fun f => f.kind == 2 && f.waiter == s.growthOf) with
    | some f => if f.failed then .error (.fault CHILD_POOL p) else .error s.retry
    | none =>
      let f : PageFault := { id := s.serial, kind := 2, asid := c.asid, addr := c.lqbase, tower := t, waiter := s.growthOf, ctx := k, state := 1 }
      .error (State.retry { s with pageFaults := s.pageFaults ++ [f], serial := s.serial + 1 })
  else .error (.fault CHILD_POOL p)

/-- Give a child its place (R177). -/
def State.admitChild (s : State) (m : Manifest) : State :=
  let t := s.setManifest (m.parent.getD 0) (fun x => { x with kids := x.kids + 1 })
  let u := { t with manifests := t.manifests ++ [m] }
  if s.poolOpen m.ctx m.tower then u
  else
    let pos := (s.ctx m.ctx).lqTail
    (u.setCtx m.ctx (fun c => { c with lighter := c.lighter ++ [m.mid], lqTail := c.lqTail + 1 })).writeLighter m pos

/-- The pilot can write the child's lighter entry, if it needs one; a page of it that is not there is a page fault of the spawn, which
then has not been executed, and any other fault is the spawn's (log 33). -/
def State.lighterReady (s : State) (k t : Nat) : Except Stop Unit := do
  let c := s.ctx k
  let a := c.lqbase + word (256 * (c.lqTail % c.lighterSize))
  if s.poolOpen k t then return ()
  for x in [a, a + 128] do
    match s.translate t c.asid false .w x with
    | .error e => .error (untranslated e x .w)
    | .ok _ => .ok ()
  match s.pilotWaits t c.asid a 256 s.self.crew s.self.idx with
    | some u => .error u.hold
    | none => .ok ()

/-- A strand has found room: the record that asked for some is dropped, or, when the host has it, is nobody's (16 R485). -/
def State.roomFound (s : State) : State :=
  { s with pageFaults := (s.pageFaults.filter (fun f => !(f.kind == 2 && f.waiter == s.growthOf && f.failed))).map (fun f =>
      if f.kind == 2 && f.waiter == s.growthOf then { f with waiter := 0 } else f) }

/-- SpawnCommon (R197): the child's identifier, its record, and the state in which it has its place. -/
def State.spawnCommon (s : State) (f : FA) (waits : Bool) : Except Stop State := do
  need (s.crew.ctx != bootCtx) MODE s.self.pc
  need (!waits || f.d != 0) ILL_FIELD s.self.pc
  let p ← s.srcG f.a f.trap
  need (canonical p) VA_NONCANON p
  need (p.toNat % 128 = 0) ALIGN p
  s.destFree (.g f.d.toNat)
  let r ← s.strongRead p 128
  let s := s.lookedAt p 128
  match s.checkManifest s.issuer s.crew.size false r with
  | some c => .error (.fault c p)
  | none =>
    let here := s.self.tower
    s.childRoom s.crew.ctx here p
    s.lighterReady s.crew.ctx here
    let (mid, t) := (s.roomFound.holdOff s.self.crew s.self.idx).newMid
    let m : Manifest := { mid, ctx := s.crew.ctx, record := r, tower := here, towers := if recTowers r == 0 then BitVec.twoPow 16 here else recTowers r, parent := some s.crew.mid, deps := s.resolveDeps s.issuer s.crew.size r, spawner := s.issuer, born := s.serial, prio := recPrio r }
    let t := t.meets { gives := [.start s.serial] }
    if waits then
      let (u, id) := t.produce (.g f.d.toNat) (List.replicate 8 none)
      return (u.admitChild { m with ret := some id }).advance 4
    else
      return (t.admitChild m).mapSelf (fun st => (st.setG f.d.toNat (mid.setWidth 64)).advance 4)
def execSpawn (f : FA) (s : State) := finish s (s.spawnCommon f false)
def execSpawnw (f : FA) (s : State) := finish s (s.spawnCommon f true)

end Sys2Proof.Machine
end

