-- ==== Sys2Proof/Machine/Frame.lean ====
section
/-! DEFINITION. Frame.lean: a crew's frame (05 R186 to R188), as the pilot writes it and as it restores it (R191). -/

namespace Sys2Proof.Machine

/-! ## Writing a frame -/

/-- A latched fault as a frame holds it. -/
def Queue.latched (q : Queue) : Nat := (q.latch.map (fun l => l.code.toNat * 2 ^ 56 + l.seq % 2 ^ 56)).getD 0

/-- A pending-store record (R188). -/
def State.pendingRecord (s : State) (r : Req) : List Byte :=
  let log (n : Nat) : Nat := if n = 8 then 3 else if n = 4 then 2 else if n = 2 then 1 else 0
  let kind : Nat := match r.kind with
    | .weak => 0
    | .strong => 1
    | _ => 2
  let dest : Nat := match r.ret with
    | some (id, _) => ((s.returns.find? (fun x => x.id == id)).map (fun x => match x.dest with
        | .g n => n
        | .q n => n
        | .v n => n
        | .none => 0)).getD 0
    | none => 0
  let (data, fn, sg, data2) : Nat × Nat × Nat × Nat := match r.op with
    | .load _ sg => (0, 0, b2n sg, 0)
    | .store bs => (leNat bs, 0, 0, 0)
    | .amo fn _ v => (v.toNat, fn, 0, 0)
    | .cas n c v => (v.toNat, if n = 4 then 1 else 0, 0, c.toNat)
    | .famo fn v => (v.toNat, fn, 0, 0)
    | _ => (0, 0, 0, 0)
  leBytes 8 r.addr.toNat ++ leBytes 8 data ++
    leBytes 8 (r.opc.toNat + 2 ^ 8 * log r.op.size + 2 ^ 10 * kind + 2 ^ 12 * fn + 2 ^ 15 * dest + 2 ^ 21 * sg) ++ leBytes 8 data2

/-- The accesses of a strand that are kept in its frame (04 R153). -/
def State.pendingOf (s : State) (crew idx : Nat) : List Req :=
  s.reqs.filter (fun r => r.who.crew == crew && r.who.idx == idx && !r.op.isFence)

/-- Bits of a mask as bytes. -/
def maskBytes (n : Nat) (m : List Bool) : List Byte :=
  (List.range n).map (fun j => BitVec.ofNat 8 ((List.range 8).foldl (fun a i =>
    a + b2n ((m[8 * j + i]?).getD false) * 2 ^ i) 0))

/-- An accumulator as bytes, row by row. -/
def accBytes (a : Sparse (BitVec 32)) : List Byte := (List.range 16384).flatMap (fun i => leBytes 4 (sget 0 a i).toNat)

/-- What a strand's frame keeps: bit `i` of the `n` bytes at `o` of the masks under which it is written (R187). -/
def Strand.keeps (st : Strand) (o n i : Nat) : Bool := match st.masks with
  | some e => (field e o n).testBit i
  | none => true
/-- Bytes that a saved mask register takes, and a long-vector register (09 R288). -/
def Strand.msize (st : Strand) (maxvl : Nat) : Nat := if st.long then maxvl / 8 else 8
def Strand.vsize (st : Strand) (maxvl : Nat) : Nat := if st.long then 8 * maxvl else 0

/-- A strand's frame (R187, R188), under its masks. -/
def State.strandFrame (s : State) (st : Strand) (maxvl : Nat) (midStop : Bool) : List Byte :=
  let live := st.keeps
  let bits (o n : Nat) : List Byte := match st.masks with
    | some e => slice e o n
    | none => List.replicate n 0xFF
  let w (x : Word) : List Byte := leBytes 8 x.toNat
  let pend := s.pendingOf st.crew st.idx
  let vsize := st.vsize maxvl
  let msize := st.msize maxvl
  let flags := b2n st.retired + 2 * b2n st.masks.isSome + 4 * b2n midStop
  let ctl := w st.status ++ w st.tvec ++ w st.tpc ++ w st.tcause ++ w st.taddr ++ w st.eidx ++ w st.srs ++
    leBytes 8 st.rot.toNat ++ leBytes 8 st.rmode.toNat ++ leBytes 8 st.vl
  let loops := (List.range 6).flatMap (fun i => match st.loops[i]? with
    | some l => w l.start ++ w l.stop ++ w l.count ++ w l.index
    | none => List.replicate 32 0)
  let fixed := ctl ++ leBytes 8 st.pcnt ++ leBytes 8 st.mq.issue ++ leBytes 8 st.mq.latched ++ leBytes 8 st.cq.issue ++
    leBytes 8 st.cq.latched ++ bits 4 4 ++ bits 8 4 ++ bits 0xC 4 ++ leBytes 4 st.gFull.toNat ++ leBytes 4 st.qFull.toNat ++
    leBytes 4 0 ++ bits 0x10 8 ++ leBytes 8 st.vFull.toNat ++ leBytes 4 msize ++ leBytes 4 vsize ++ leBytes 8 0 ++ loops
  let pick (k o n : Nat) (f : Nat → List Byte) (base : Nat := 0) : List Byte :=
    (List.range k).flatMap (fun i => if live o n (base + i) then f i else [])
  let regs := pend.flatMap s.pendingRecord ++ pick 32 4 4 (fun i => w (st.readG i)) ++
    pick 32 8 4 (fun i => slice ((st.q[i]?).getD []) 0 32) ++ pick 16 0xC 4 (fun i => w ((st.sd[i]?).getD 0)) 16 ++
    pick 8 0xC 4 (fun i => maskBytes msize ((st.m[i]?).getD [])) ++
    (if live 0xC 4 8 then accBytes st.acc0 else []) ++ (if live 0xC 4 9 then accBytes st.acc1 else []) ++
    pick st.v.length 0x10 8 (fun i => slice ((st.v[i]?).getD []) 0 vsize)
  let len := (16 + fixed.length + regs.length + 63) / 64 * 64
  slice (leBytes 4 len ++ leBytes 1 flags ++ leBytes 1 pend.length ++ leBytes 2 0 ++ w st.pc ++ fixed ++ regs) 0 len

/-- A crew's frame (R186). CBARR has the bits of the strands that have executed their arrival; a retired one counts as arrived (R172)
without its bit (log 33). -/
def State.crewFrame (s : State) (c : Crew) (midStop : Bool) (strands : List Strand) : List Byte :=
  let body := strands.flatMap (fun st => s.strandFrame st c.vlGrant midStop)
  let arrived := c.arrived.foldl (fun a k => a + 2 ^ k) 0
  slice (leBytes 4 c.mid.toNat ++ leBytes 1 c.size ++ leBytes 1 (b2n midStop + 2 * b2n c.isLocal) ++ leBytes 2 0 ++
    leBytes 8 c.repin.toNat ++ (List.range 6).flatMap (fun l => leBytes 4 ((c.indices[l]?).getD 0).toNat) ++
    leBytes 4 c.barPhase.toNat ++ leBytes 1 arrived ++ leBytes 3 0 ++ leBytes 8 c.vlGrant ++ leBytes 8 (64 + body.length)) 0 64 ++ body

/-! ## Restoring a frame (R191)

The pilot takes back the values that stand in the frame, whoever wrote them. It keeps its own account of what the frame's form follows
from: MID, CFLAGS, SIZE, VLGRANT, the lengths, the masks, NPEND, STATUS.LONG, and OP of a pending record (log 33). -/

/-- The frames of strands, one after the other, each of the length that its first bytes give. -/
def Crew.strandFrames (c : Crew) : List Strand → List Byte → List (Strand × List Byte)
  | [], _ => []
  | st :: rest, bs =>
    let n := field bs 0 4
    (st, bs.take n) :: Crew.strandFrames c rest (bs.drop n)

/-- Registers of `w` bytes that follow one another: those that are live, and the bytes after them. -/
def takeRegs (w : Nat) (live : Nat → Bool) : List Nat → List Byte → List (Option (List Byte)) × List Byte
  | [], bs => ([], bs)
  | i :: is, bs =>
    if live i then
      let r := takeRegs w live is (bs.drop w)
      (some (slice bs 0 w) :: r.1, r.2)
    else
      let r := takeRegs w live is bs
      (none :: r.1, r.2)

/-- The word that a live register of a list has, or what it had. -/
def regWord (l : List (Option (List Byte))) (i : Nat) (old : Word) : Word := ((l[i]?).join.map (fun b => word (leNat b))).getD old

/-- An accumulator's elements from its bytes, the first of them element `i`. -/
def accFrom : Nat → Nat → List Byte → Sparse (BitVec 32)
  | 0, _, _ => []
  | n + 1, i, bs =>
    let x := leNat (bs.take 4)
    let rest := accFrom n (i + 1) (bs.drop 4)
    if x = 0 then rest else (i, BitVec.ofNat 32 x) :: rest

/-- The bits of a mask register from its bytes. -/
def maskOf (n : Nat) (bs : List Byte) : List Bool := (List.range n).map (fun i => (((bs[i / 8]?).getD 0).getLsbD (i % 8)))

/-- A queue that has completed, with the numbers that a frame holds of it. -/
def Queue.restore (q : Queue) (issue latched : Nat) : Queue :=
  let l : Latch := { code := BitVec.ofNat 8 (latched / 2 ^ 56), seq := latched % 2 ^ 56, addr := (q.latch.map (·.addr)).getD 0, pc := (q.latch.map (·.pc)).getD 0 }
  { q with issue, completion := issue, latch := if latched = 0 then none else some l, cmds := if q.issue == issue then q.cmds else [] }

/-- The loop levels of a frame. -/
def Strand.restoreLoops (st : Strand) (fr : List Byte) : List LoopLevel :=
  (List.range (min 6 (field fr 0x10 8 / 16 % 16))).map (fun l =>
    let w (o : Nat) : Word := word (field fr (0xC0 + 32 * l + o) 8)
    { start := w 0, stop := w 8, count := w 16, index := w 24, down := ((st.loops[l]?).map (·.down)).getD false })

/-- The fixed part of a strand's frame, given back to it (R187). -/
def Strand.restoreFixed (st : Strand) (maxvl : Nat) (fr : List Byte) : Strand :=
  let w (o : Nat) : Word := word (field fr o 8)
  let status := w 0x10
  let dead (o n : Nat) : Nat := match st.masks with
    | some e => 256 ^ n - 1 - field e o n
    | none => 0
  { st with
    retired := (field fr 4 1).testBit 0
    pc := w 8
    cur := if w 8 == st.pc then st.cur else none
    priv := status.getLsbD 0
    pPriv := status.getLsbD 1
    inTrap := status.getLsbD 2
    tld := status.toNat / 256 % 16
    tvec := w 0x18
    tpc := w 0x20
    tcode := (w 0x28).setWidth 8
    tkind := (w 0x28 >>> 8).setWidth 2
    taddr := w 0x30
    eidx := w 0x38
    srs := w 0x40
    rot := (w 0x48).setWidth 4
    rmode := (w 0x50).setWidth 3
    vl := min (field fr 0x58 8) maxvl
    pcnt := field fr 0x60 8
    mq := st.mq.restore (field fr 0x68 8) (field fr 0x70 8)
    cq := st.cq.restore (field fr 0x78 8) (field fr 0x80 8)
    gFull := BitVec.ofNat 32 (field fr 0x94 4 ||| dead 4 4)
    qFull := BitVec.ofNat 32 (field fr 0x98 4 ||| dead 8 4)
    vFull := BitVec.ofNat 64 (field fr 0xA8 8 ||| dead 0x10 8)
    loops := st.restoreLoops fr }

/-- The registers of a strand's frame, after its pending records, given back to it; those that it does not keep hold zero (R188). -/
def Strand.restoreRegs (st : Strand) (maxvl : Nat) (bs : List Byte) : Strand :=
  let g := takeRegs 8 (st.keeps 4 4) (List.range 32) bs
  let q := takeRegs 32 (st.keeps 8 4) (List.range 32) g.2
  let sd := takeRegs 8 (fun i => st.keeps 0xC 4 (16 + i)) (List.range 16) q.2
  let m := takeRegs (st.msize maxvl) (st.keeps 0xC 4) (List.range 8) sd.2
  let acc := takeRegs 65536 (fun i => st.keeps 0xC 4 (8 + i)) (List.range 2) m.2
  let v := takeRegs (st.vsize maxvl) (st.keeps 0x10 8) (List.range st.v.length) acc.2
  let a (i : Nat) (old : Sparse (BitVec 32)) : Sparse (BitVec 32) := ((acc.1[i]?).join.map (accFrom 16384 0)).getD old
  { st with
    g := Vector.ofFn (fun (i : Fin 32) => regWord g.1 i.val st.g[i])
    q := st.q.zipIdx.map (fun x => ((q.1[x.2]?).join).getD x.1)
    sd := Vector.ofFn (fun (i : Fin 16) => regWord sd.1 i.val st.sd[i])
    m := st.m.zipIdx.map (fun x => ((m.1[x.2]?).join.map (maskOf x.1.length)).getD x.1)
    acc0 := a 0 st.acc0
    acc1 := a 1 st.acc1
    v := st.v.zipIdx.map (fun x => ((v.1[x.2]?).join.map (fun b => slice b 0 x.1.length)).getD x.1) }

/-- A strand with what its frame holds, behind `npend` pending records. -/
def Strand.restore (st : Strand) (maxvl npend : Nat) (fr : List Byte) : Strand :=
  (st.restoreFixed maxvl fr).restoreRegs maxvl (fr.drop (0x180 + 32 * npend))

/-- A crew with what its header holds (R186). -/
def Crew.restore (c : Crew) (fr : List Byte) : Crew :=
  { c with
    repin := word (field fr 8 8)
    indices := c.indices.zipIdx.map (fun x => BitVec.ofNat 32 (field fr (0x10 + 4 * x.2) 4))
    barPhase := BitVec.ofNat 32 (field fr 0x28 4)
    arrived := (List.range c.size).filter (fun k => (field fr 0x2C 1).testBit k) }

/-- The access of a pending record with the address and the operands that the record holds (R188). -/
def Req.ofRecord (r : Req) (bs : List Byte) : Req :=
  let data := field bs 8 8
  let op : ReqOp := match r.op with
    | .store x => .store (if x.length ≤ 8 then leBytes x.length data else x)
    | .amo fn n _ => .amo fn n (word data)
    | .cas n _ _ => .cas n (word (field bs 24 8)) (word data)
    | .famo fn _ => .famo fn (word data)
    | x => x
  { r with op, addr := match r.space with
    | .g => word (field bs 0 8)
    | .t _ => word (field bs 0 8)
    | _ => r.addr }

/-- The access at its place among the pending ones of its strand, as its record in the strand's frame has it. -/
def Req.fromFrame (r : Req) (frames : List (Strand × List Byte)) (pending : List Req) : Req :=
  match frames.find? (fun x => x.1.idx == r.who.idx), pending.findIdx? (fun e => e.id == r.id) with
  | some x, some j => if r.op.lane.isSome then r else r.ofRecord (slice x.2 (0x180 + 32 * j) 32)
  | _, _ => r

end Sys2Proof.Machine
end

