-- ==== Sys2Proof/Machine/Pilot.lean ====
section
/-! DEFINITION. Pilot.lean: crews and iterations (05 R168 to R176), barriers, waits and the other pilot instructions
(R196 to R203), yield points and pre-emption (R181 to R185), frames, suspension and resumption (R186 to R191), launches
(R164 to R167). -/

namespace Sys2Proof.Machine

/-! ## Placing an iteration (R169 to R171) -/

/-- A tower whose lane die runs (17 R492, R502). -/
def State.towerUp (s : State) (t : Nat) : Bool :=
  s.mod.tup.getLsbD t && !(s.tower t).laneDown && !(s.tower t).rcDown

/-- Slots that can take a crew of a size: that many free ones on distinct cores of one cluster of a tower that is up and
allowed (R169); LOCAL asks for cores that no other LOCAL crew holds (R170). -/
def State.slotsFree (s : State) (slots : List Nat) (size : Nat) (towers : BitVec 16) (isLocal : Bool) (id : Nat) : Bool :=
  let cores := slots.map coreOfSlot
  let head := slots.headD 0
  slots.length == size && cores.eraseDups.length == size &&
    slots.all (fun x => x < 14336 && clusterOfSlot x == clusterOfSlot head && (s.strandInSlot x).isNone) &&
    s.towerUp (towerOfSlot head) && towers.getLsbD (towerOfSlot head) &&
    (!isLocal || s.crews.all (fun c => !c.isLocal || c.id == id || c.cores.all (fun k => !cores.contains k)))

def State.core (s : State) (k : Nat) : Core := sget {} s.cores k
def State.setCore (s : State) (k : Nat) (f : Core → Core) : State := { s with cores := sset {} s.cores k (f (s.core k)) }

/-- A range of places is zeroed, its words full and without poison. -/
def State.wipe (s : State) (lo n : Nat) : State :=
  { s with
    mem := s.mem.filter (fun c => !(lo ≤ c.1 && c.1 < lo + n))
    empties := s.empties.filter (fun c => !(lo ≤ 8 * c.1 && 8 * c.1 < lo + n))
    poison := s.poison.filter (fun c => !(lo ≤ 8 * c.1 && 8 * c.1 < lo + n)) }

/-- The tag under which a core records a strand as its matrix unit's holder (12 R364). -/
def Strand.tagOf (st : Strand) : Nat := st.crew * 256 + st.idx + 1
/-- The strand that holds a core's matrix unit: it has neither retired nor left its slot. -/
def State.unitHolder (s : State) (k : Nat) : Option Strand :=
  s.strands.find? (fun st => st.core == k && st.tagOf == (s.core k).holder && !st.retired)

/-- A core's local spaces pass to a crew of an address space (R170). -/
def State.ownCore (s : State) (asid : BitVec 16) (k : Nat) : State :=
  if (s.core k).owner == some asid then s
  else ((s.wipe (Place.s k 0) (2 ^ 19)).wipe (Place.c k 0) (2 ^ 20)).setCore k (fun c => { c with owner := some asid })

/-- The state a strand starts an iteration with (R171). -/
def freshStrand (slot crew idx : Nat) (entry arg : Word) (mid : BitVec 32) (indices : List (BitVec 32)) : Strand :=
  let g : List Word := (0 : Word) :: (List.range 6).map (fun l => ((indices[l]?).getD 0).setWidth 64) ++
    [arg, word idx, mid.setWidth 64]
  { slot, crew, idx, pc := entry, g := Vector.ofFn (fun (i : Fin 32) => (g[i.val]?).getD 0) }

/-- Put strands on their slots. -/
def State.addStrands (s : State) (l : List Strand) : State := { s with peers := s.peers ++ l }

/-- A ready manifest may place an iteration on these slots: it has one left, its launch goes on, and no saved crew of
its own is ready to resume (R191). -/
def State.placeable (s : State) (m : Manifest) (slots : List Nat) : Bool :=
  m.ready && !s.inLighter m && m.next < iterations (recCounts m.record) &&
    (((s.ctx m.ctx).launch.map (fun l => l.faults.isEmpty)).getD false) &&
    s.slotsFree slots (recSize m.record) m.towers (recLocal m.record) 0 &&
    s.crews.all (fun c => !(c.mid == m.mid && c.saved && (s.strandsOf c.id).all (fun st => st.pageWait.isNone)))

/-- Long-vector capacity of a cluster in use, in bytes (09 R288, R289): that of its placed crews. -/
def State.capacityUsed (s : State) (cluster : Nat) : Nat :=
  s.crews.foldl (fun a c => if !c.saved && clusterOfCore (c.cores.headD 0) == cluster then a + 512 * c.size * c.vlGrant else a) 0

/-- The crew's strands whose frames hold a live accumulator (12 R364). -/
def State.accLive (s : State) (c : Crew) : List Strand :=
  (s.saved.filter (fun st => st.crew == c.id)).filter (fun st => st.keeps 0xC 4 8 || st.keeps 0xC 4 9)

/-- A saved crew may resume on these slots (R191): its pages are there, its launch goes on, the slots are free and, when it
is LOCAL, those it left, the cluster has its long-vector capacity, and a strand with a live accumulator finds its core's
matrix unit without a holder (12 R364). -/
def State.resumable (s : State) (c : Crew) (takes : List Strand) (slots : List Nat) : Bool :=
  let cores := slots.map coreOfSlot
  c.id != 0 && c.saved && (((s.ctx c.ctx).launch.map (fun l => l.faults.isEmpty)).getD false) &&
    takes.all (fun st => (s.unitHolder ((cores[st.idx]?).getD 0)).isNone) &&
    (s.saved.filter (fun st => st.crew == c.id)).all (fun st => st.pageWait.isNone) &&
    s.capacityUsed (clusterOfCore (cores.headD 0)) + 512 * c.size * c.vlGrant ≤ 4194304 &&
    s.slotsFree slots c.size c.towers c.isLocal c.id && (!c.isLocal || cores == c.cores)

/-- Effective priority (R175): it falls by one at each AGE * 1,024 ticks without a placement, to no less than 0. -/
def State.effective_ (s : State) (m : Manifest) : Nat :=
  let step := recAge m.record * 1024
  if step = 0 || !m.ready then m.prio else m.prio - (s.tide - m.ageFrom) / step

/-- A manifest asks for these slots: for an iteration, or for a saved crew of its own (R174, R191). -/
def State.competes (s : State) (m : Manifest) (slots : List Nat) : Bool :=
  s.placeable m slots || s.crews.any (fun c => c.mid == m.mid && s.resumable c [] slots)

/-- The offer of free slots goes to the best effective priority, and among equals in rotation (R174). -/
def State.offered (s : State) (m : Manifest) (slots : List Nat) : Bool :=
  s.manifests.all (fun x => x.mid == m.mid || !s.competes x slots || s.effective_ m < s.effective_ x ||
    (s.effective_ m == s.effective_ x && m.placedAt ≤ x.placedAt))

/-- The strands of a core have seen nothing yet of one that comes to a slot of it (06 R213). -/
def State.freshSlots (s : State) (slots : List Nat) : State :=
  let fresh (st : Strand) : Strand := { st with
    since := slots.foldl (fun b k => if coreOfSlot k == st.core then b &&& ~~~BitVec.twoPow 8 (k % 8) else b) st.since }
  { s with self := fresh s.self, peers := s.peers.map fresh }

/-- The next iteration of a manifest starts: what its strands do follows what came before the spawn, or the doorbell, and acquires the
commands it depends on (R168, R173; 16 R482). -/
def State.placeIteration (s : State) (m : Manifest) (slots : List Nat) : State :=
  let r := m.record
  let indices := (iterationAt (recOrder r) (recCounts r) m.next).map (BitVec.ofNat 32)
  let id := s.serial + 1
  let asid := (s.ctx m.ctx).asid
  let cores := slots.map coreOfSlot
  let c : Crew := { id, mid := m.mid, ctx := m.ctx, asid, size := recSize r, isLocal := recLocal r, towers := m.towers, plim := recPlim r, code := recCode r, ytab := recYtab r, ycnt := recYcnt r, indices, cores }
  let t := s.setManifest m.mid (fun m => { m with next := m.next + 1, running := m.running + 1, prio := recPrio r, ageFrom := s.tide, placedAt := s.serial + 1 })
  let t := { t with serial := id, crews := t.crews ++ [c] }
  let t := if c.isLocal then cores.foldl (fun t k => t.ownCore asid k) t else t
  let t := (t.freshSlots slots).addStrands ((slots.zipIdx).map (fun x => freshStrand x.1 id x.2 (recEntry r) (recArg r) m.mid indices))
  (slots.zipIdx).foldl (fun t x => (t.record
    { t.eventBy { ctx := m.ctx, crew := id, idx := x.2, slot := x.1 } t.serial with takes := [.start m.born], after := m.deps }).pass) t

/-- ITERATION_PLACE (R163, R169). -/
def execIterationPlace (s : State) : Host.Outcome State Fault Refusal :=
  match s.manifest (BitVec.ofNat 32 s.args.unit) with
  | some m => .next (if s.placeable m s.args.slots && s.offered m s.args.slots then s.placeIteration m s.args.slots else s)
  | none => .next s

/-- MANIFEST_READY (R168): every dependence is satisfied, and the accesses of the spawning strand before the spawn are
performed (R173). -/
def State.depsDone (s : State) (m : Manifest) : Bool :=
  let gone := match s.strandAt m.spawner.crew m.spawner.idx with
    | some st => st.retired
    | none => true
  m.deps.all (fun d => match d.1 with
    | .bead k => s.reached (.bead k) d.2
    | q => gone || s.reached q d.2)

def execManifestReady (s : State) : Host.Outcome State Fault Refusal :=
  match s.manifest (BitVec.ofNat 32 s.args.unit) with
  | some m =>
    let after := s.reqs.all (fun e => !(e.who.same m.spawner && e.id < m.born) || e.op.isFence) &&
      s.leasesOver m.spawner m.born 3
    .next (if !m.ready && !s.inLighter m && s.depsDone m && after then
        (s.setManifest m.mid (fun m => { m with ready := true, prio := recPrio m.record, ageFrom := s.tide })).settleFrom m.mid
      else s)
  | none => .next s

/-- AGING_TICK (R175): the priority that a tick has lowered is recorded; it counts from the tick on. -/
def execAgingTick (s : State) : Host.Outcome State Fault Refusal :=
  match s.manifest (BitVec.ofNat 32 s.args.unit) with
  | some m =>
    let step := recAge m.record * 1024
    .next (if m.ready && step != 0 && m.ageFrom + step ≤ s.tide then
        s.setManifest m.mid (fun m => { m with prio := m.prio - 1, ageFrom := m.ageFrom + step })
      else s)
  | none => .next s

/-- LIGHTER_FETCH_BACK (R178): strictly in order, into the tower that spawned it; the record is what the entry's 256 bytes hold now,
but for its dependences, which stand there as the pilot has resolved them, and the pilot's own state. -/
def execLighterFetchBack (s : State) : Host.Outcome State Fault Refusal :=
  let k := s.args.unit
  let c := s.ctx k
  match c.lighter with
  | mid :: rest =>
    match s.manifest mid with
    | some m =>
      if 1024 ≤ s.poolCount m.tower || c.lqWait.isSome || !((c.launch.map (fun l => l.faults.isEmpty)).getD false) then .next s
      else match s.lighterRead k m.tower (c.lqbase + word (256 * ((c.lqTail - c.lighter.length) % c.lighterSize))) with
        | .error t => .next t
        | .ok bs =>
          let r := slice bs 0 0x40 ++ slice m.record 0x40 0x10 ++ slice bs 0x50 0x30
          .next ((s.setManifest mid (fun x => { x with record := r, deps := (m.deps.zipIdx.take (recDeps r)).map (fun d => (d.1.1, recDeps64 r d.2)) })).setCtx k
            (fun c => { c with lighter := rest }))
    | none => .next s
  | [] => .next s

/-! ## Placing the boot launch (17 R491) -/

/-- One crew of one supervisor strand, LOCAL, on tower 0, at an entry with the data base in g7. -/
def State.placeBoot (s : State) (entry data : Word) : State :=
  let id := s.serial + 1
  let c : Crew := { id, ctx := bootCtx, isLocal := true, towers := 1, cores := [0] }
  let st := { freshStrand 0 id 0 entry data 0 [] with priv := true }
  let t := { s with serial := id, crews := s.crews ++ [c] }
  let t := (t.ownCore 0 0).setCtx bootCtx (fun x => { x with launch := some {} })
  if t.self.crew = 0 then { t with self := st } else t.addStrands [st]

/-! ## The end of an iteration (R172) -/

/-- The number under which the pilot holds units for the write of a crew's frame. -/
def frameHold (id : Nat) : Nat := 2 ^ 32 + id

/-- Remove a crew and everything that is its own; the leases its weak stores found still stand (04 R143). -/
def State.removeCrew (s : State) (id : Nat) : State :=
  { s with
    self := if s.self.crew == id then {} else s.self
    peers := s.peers.filter (fun st => st.crew != id)
    saved := s.saved.filter (fun st => st.crew != id)
    crews := s.crews.filter (fun c => c.id != id)
    returns := s.returns.filter (fun r => r.crew != id)
    waiters := s.waiters.filter (fun w => w.crew != id)
    lineHolds := (s.holdOff 0 (frameHold id)).lineHolds.filter (fun h => h.crew != id &&
      !(h.crew == 0 && s.chains.any (fun b => b.crew == id && b.hold == h.idx)))
    chains := s.chains.filter (fun b => b.crew != id) }

/-- Every strand of the crew has retired: the iteration ends, or the boot launch does (17 R491). -/
def State.endIteration (s : State) (id : Nat) : State :=
  let c := s.crewById id
  if c.ctx == bootCtx then (s.removeCrew id).setCtx bootCtx (fun x => { x with launch := none })
  else ((s.removeCrew id).setManifest c.mid (fun m => { m with running := m.running - 1 })).settleFrom c.mid

/-! ## The crew barrier (R172, R200) -/

/-- The phase rises once every strand of the crew has arrived or retired (R172). -/
def State.barrierCheck (s : State) (id : Nat) : State :=
  let c := s.crewById id
  if !c.arrived.isEmpty && (s.strandsOf id).all (fun st => st.retired || c.arrived.contains st.idx) then
    s.setCrew id (fun c => { c with barPhase := c.barPhase + 1, arrived := [] })
  else s

/-- cbar at the crew barrier, a release and an acquire for the crew: what its strands did before their arrivals is ordered before what
they do after the phase has risen (R172, R200). -/
def State.crewBarrier (s : State) : Except Stop State := do
  let id := s.self.crew
  let pass (t : State) (ph : BitVec 32) : State :=
    (t.meets { takes := [.phase id ph.toNat] }).mapSelf (fun st => { st.advance 4 with barPhase := none })
  match s.self.barPhase with
  | some ph =>
    s.await (ph != s.crew.barPhase)
    return pass s ph
  | none =>
    s.await (s.drained s.issuer && s.leasesOver s.issuer s.serial 1)
    let t := ((s.meets { gives := [.phase id s.crew.barPhase.toNat] }).setCrew id (fun c => { c with arrived := c.arrived ++ [s.self.idx] })).barrierCheck id
    if t.crew.barPhase != s.crew.barPhase then return pass t s.crew.barPhase
    else .error (State.retry (t.mapSelf (fun st => { st with barPhase := some s.crew.barPhase })))

/-- cbar (R200): at a completion barrier the arrival is a release, performed once what it orders is; the strand goes on. -/
def State.cbar (s : State) (f : FA) : Except Stop State := do
  if f.a == 0 then s.crewBarrier
  else
    let r ← s.srcG f.a f.trap
    let p ← s.ref 16 16 r
    s.notPoisoned p 16 r
    return (s.issue .arrive .rel (Place.space p) r (some p) none 0x4C).advance 4
def execCbar (f : FA) (s : State) := finish s (s.cbar f)

/-- cbarq (R201). -/
def State.cbarq (s : State) (f : FA) : Except Stop State := do
  need (f.a != 0) ILL_FIELD 0
  let r ← s.srcG f.a f.trap
  let b ← s.srcG f.b f.trap
  let p ← s.ref 16 16 r
  s.notPoisoned p 8 r
  let t ← s.touch (.load 4 false) .strong p
  let w := field (s.bytesAt none p 4) 0 4
  if w != b.toNat % 2 ^ 32 then (t.acquired p 4).result f.d 4 (word w)
  else .error (.wait (s.mapSelf (fun st => { st with wait := some (.barrier p false) })))
def execCbarq (f : FA) (s : State) := finish s (s.cbarq f)

/-- wseq (R202): it acquires what the commands up to the number have done (04 R145). -/
def State.wseq (s : State) (f : FA) : Except Stop State := do
  let a ← s.srcG f.a f.trap
  let b ← s.srcG f.b f.trap
  match s.resolveQueue s.issuer s.crew.size a.toNat with
  | .error c => .error (.fault c a)
  | .ok q =>
    let own := q == s.ownQueue 1 || q == s.ownQueue 2
    let x := (s.queue q).getD {}
    need (!(own && x.issue < b.toNat)) ILL_FIELD a
    s.await (s.reached q b.toNat)
    (s.meets { after := [(q, x.completion)] }).result f.d 4 x.status
def execWseq (f : FA) (s : State) := finish s (s.wseq f)

/-! ## yield, retire, abort (R198, R199, R203) -/

/-- yield (R198): the count is reset before it, and it retires at once unless a stop is pending, which then meets it here
(R183). -/
def State.yieldPoint (s : State) (len : Nat) : State :=
  s.mapSelf (fun st => if st.stopReq then { st with pcnt := 0 } else { st with pcnt := 0 }.advance len)
def execYield (_f : FA) (s : State) := finish s (.ok (s.yieldPoint 4))

/-- Nothing in the queue is outstanding. -/
def Queue.idle (q : Queue) : Bool := q.completion == q.issue

/-- retire (R199): the strand's accesses, and those of its commands, are ordered before the completion of its iteration (R173); it
counts as arrived at its crew's barrier from now on (R172). -/
def State.retire (s : State) : Except Stop State := do
  s.await (s.drained s.issuer && s.leasesOver s.issuer s.serial 3)
  s.await (s.self.mq.idle && s.self.cq.idle)
  let id := s.self.crew
  let ends := ((s.manifest s.crew.mid).map (fun m => [Mark.over m.born])).getD []
  let t := ((s.meets { gives := .gone id s.crew.barPhase.toNat :: ends }).mapSelf (fun st =>
    { st with retired := true, wait := none, pcnt := st.pcnt + 1 })).barrierCheck id
  if (t.strandsOf id).all (fun st => st.retired) then return t.endIteration id else return t
def execRetire (_f : FA) (s : State) := finish s s.retire

def State.abort (s : State) (user : BitVec 16) : Except Stop State := do
  s.holdFor (s.drained s.issuer)
  .error (.endLaunch SW_ABORT 0 user)
def execAbort (f : FU) (s : State) := finish s (s.abort f.imm)

/-! ## The yield table (R181, R182, 02 R78) -/

/-- Binary search of a yield table for an offset between entries `lo` and `hi`. -/
def State.searchYield (s : State) (t : Nat) (c : Crew) (off : Nat) : Nat → Nat → Nat → Option (List Byte)
  | 0, _, _ => none
  | n + 1, lo, hi =>
    if hi ≤ lo then none
    else
      let mid := (lo + hi) / 2
      match s.pilotRead t c.asid (c.ytab + word (32 * mid)) 32 with
      | none => none
      | some e =>
        let o := field e 0 4
        if o = off then some e
        else if o < off then s.searchYield t c off n (mid + 1) hi
        else s.searchYield t c off n lo mid

/-- The yield-table entry at a strand's PC. -/
def State.yieldEntry (s : State) (st : Strand) : Option (List Byte) :=
  let c := s.crewById st.crew
  if c.ycnt = 0 then none else s.searchYield st.tower c (st.pc - c.code).toNat 33 0 c.ycnt

/-- Only live state is kept: every other register holds zero and is full (R182); the loop levels are always in the frame
(R187). -/
def Strand.masked (st : Strand) (e : List Byte) : Strand :=
  let live (o n i : Nat) : Bool := (field e o n).testBit i
  { st with
    g := Vector.ofFn (fun (i : Fin 32) => if live 4 4 i.val then st.g[i] else 0)
    gFull := st.gFull ||| ~~~BitVec.ofNat 32 (field e 4 4)
    q := (List.range 32).map (fun i => if live 8 4 i then (st.q[i]?).getD [] else List.replicate 32 0)
    qFull := st.qFull ||| ~~~BitVec.ofNat 32 (field e 8 4)
    v := st.v.zipIdx.map (fun x => if live 0x10 8 x.2 then x.1 else List.replicate x.1.length 0)
    vFull := st.vFull ||| ~~~BitVec.ofNat 64 (field e 0x10 8)
    m := st.m.zipIdx.map (fun x => if live 0xC 4 x.2 then x.1 else List.replicate x.1.length false)
    acc0 := if live 0xC 4 8 then st.acc0 else []
    acc1 := if live 0xC 4 9 then st.acc1 else []
    sd := Vector.ofFn (fun (i : Fin 16) => if live 0xC 4 (16 + i.val) then st.sd[i] else 0) }

/-! ## Stopping (R183, R184) -/

/-- A class-0 signal reaches every strand of a placed crew. -/
def State.askStop (s : State) (id : Nat) : State :=
  let c := s.crewById id
  if c.id = 0 || c.saved || c.suspended || c.ctx == bootCtx then s
  else (s.setCrew c.id (fun c => { c with stopReq := true })).mapCrew c.id (fun st => { st with stopReq := true })

/-- PREEMPT_REQUEST. -/
def execPreemptRequest (s : State) : Host.Outcome State Fault Refusal := .next (s.askStop s.args.unit)

/-- A strand gives up its wait, to repeat it later, and what it has done of its instruction; a request already answered, and an
arrival at the crew's barrier, stand, and the instruction then goes on where it was. -/
def State.withdraw (s : State) (crew idx : Nat) : State :=
  let s := s.setCrew crew (fun c => { c with vlAsked := none })
  let served := s.waiters.any (fun w => w.crew == crew && w.idx == idx && w.served.isSome)
  { (s.mapStrand crew idx (fun st => { st with
      wait := st.wait.map (fun _ => Wait.retry), arrival := none, cleared := [], looked := []
      cur := st.cur.filter (fun _ => served || st.barPhase.isSome) })) with
    lineHolds := (s.holdOff crew idx).lineHolds
    waiters := s.waiters.filter (fun w => !(w.crew == crew && w.idx == idx && w.served.isNone)) }

/-- The strand is about to execute yield, when its fetch would deliver it. -/
def State.atYield (s : State) (st : Strand) : Bool :=
  match s.focus st.slot with
  | some t =>
    match t.fetchInstr false with
    | .ok (.instr (.yield _) _, _) => true
    | .ok (.instr (.cYield _) _, _) => true
    | _ => false
  | none => false

/-- A strand has just taken a back-edge (R181). -/
def Strand.atBackEdge (st : Strand) : Bool := st.pcnt == 0 && (st.loops.getLast?.map (fun l => l.start == st.pc)).getD false

/-- A strand is at a yield point (R181); one that has published a part of its cpub's lines is within an instruction. -/
def State.atYieldPoint (s : State) (st : Strand) : Bool :=
  st.wait.isSome || (st.cleared.isEmpty && (st.atBackEdge || (s.yieldEntry st).isSome || s.atYield st))

/-- STRAND_STOP (R183): a signalled strand stops at a yield point; at a yield, and at a yield-table address, its count is
reset first (R185, R198), and the table's entry for its PC has its masks applied (R182). -/
def execStrandStop (s : State) : Host.Outcome State Fault Refusal :=
  match s.strandInSlot s.args.unit with
  | some st =>
    if st.stopReq && !st.stopped && !st.retired && !st.ended && st.pageWait.isNone && s.atYieldPoint st then
      let hit := (s.yieldEntry st).isSome
      let fresh := st.wait.isNone && (hit || s.atYield st)
      .next ((s.withdraw st.crew st.idx).mapStrand st.crew st.idx (fun st =>
        { st with stopped := true, ytHit := hit, pcnt := if fresh then 0 else st.pcnt }))
    else .next s
  | none => .next s

/-! ## Frames (R186 to R189) -/

/-- The lowest room for a frame in a context's frame area (R189). -/
def State.frameRoom (s : State) (k len : Nat) : Option Nat :=
  let x := s.ctx k
  let lo := x.frbase.toNat
  let used := s.crews.filter (fun c => c.ctx == k && c.saved)
  (lo :: used.map (fun c => c.frame + c.frameLen)).find? (fun a =>
    a + len ≤ lo + x.frsize.toNat && used.all (fun c => a + len ≤ c.frame || c.frame + c.frameLen ≤ a))

/-- The strands of a crew as its frame is to hold them, in ascending index, each with the masks that apply to it, and the frame. -/
def State.frameOf (s : State) (c : Crew) (midStop : Bool) : List Strand × List Byte :=
  let mine := s.strandsOf c.id
  let mine := (List.range c.size).filterMap (fun i => mine.find? (fun st => st.idx == i))
  let parts := mine.map (fun st => { st with masks := if st.ytHit && !midStop then s.yieldEntry st else none })
  (parts, s.crewFrame c midStop parts)

/-- The tower that the pilot writes a crew's frame from. -/
def State.frameTower (s : State) (c : Crew) : Nat := towerOfSlot (((s.strandAt c.id 0).map (·.slot)).getD 0)

/-- What the write of a crew's frame still waits for. -/
def State.frameWaits (s : State) (c : Crew) (midStop : Bool) : Option State :=
  let (_, bs) := s.frameOf c midStop
  (s.frameRoom c.ctx bs.length).bind (fun a => s.pilotWaits (s.frameTower c) c.asid (word a) bs.length 0 (frameHold c.id))

/-- Write a crew's frame and free its slots; none if there is no room (R183, R189, R190). A frame whose pages are not
present and writable finds no room: the spec does not provide for it (log 33). -/
def State.saveCrew (s : State) (id : Nat) (midStop : Bool) : Option State :=
  let c := s.crewById id
  let (parts, bs) := s.frameOf c midStop
  match s.frameRoom c.ctx bs.length with
  | none => none
  | some a =>
    match s.pilotWrite (s.frameTower c) c.asid (word a) bs with
    | none => none
    | some t =>
      let kept := parts.map (fun st => match st.masks with
        | some e => st.masked e
        | none => st)
      let t := c.cores.foldl (fun t k => if (t.core k).holder / 256 == id then t.setCore k (fun x => { x with holder := 0 }) else t) t
      some { (t.setCrew id (fun c => { c with saved := true, frame := a, frameLen := bs.length, suspended := midStop })) with
        self := if t.self.crew == id then {} else t.self
        peers := t.peers.filter (fun st => st.crew != id)
        reqs := t.reqs.map (fun r => if r.who.crew == id then { r with held := false, arrived := 0 } else r)
        lineHolds := (t.holdOff 0 (frameHold id)).lineHolds
        saved := t.saved ++ kept.map (fun st => { st with ahead := [], looped := [] }) }

/-- The tower that the pilot writes a saved crew's frame from. -/
def State.savedTower (s : State) (id : Nat) : Nat := towerOfSlot (((s.saved.find? (fun st => st.crew == id)).map (·.slot)).getD 0)
/-- A saved crew's frame as its strands now are. -/
def State.savedFrame (s : State) (c : Crew) : List Byte := s.crewFrame c c.suspended (s.saved.filter (fun st => st.crew == c.id))
/-- A page of a crew's frame that is not present is waited for, and the crew does not resume before it arrives (R191). -/
def State.awaitFrame (id : Nat) (a : Word) (s : State) : State := s.mapStrand id 0 (fun st => { st with pageWait := some a })
/-- A fault of a frame's page or word ends the launch (log 33). -/
def State.frameFault (c : Crew) (t : Nat) (code : BitVec 8) (a : Word) (s : State) : State :=
  s.recordFault c.ctx { code, mid := c.mid, tower := t, addr := a, indices := c.indices }
/-- A saved crew's frame may be written again, after a fill of one of its registers (R197), or what the write comes to. -/
def State.frameReady (s : State) (id : Nat) : Except State Unit := do
  let c := s.crewById id
  let t := s.savedTower id
  if !c.saved then return ()
  else if (s.saved.find? (fun st => st.crew == id)).any (fun st => st.pageWait.isSome) ||
      !(((s.ctx c.ctx).launch.map (fun l => l.faults.isEmpty)).getD false) then .error s
  else
    for x in lineParts c.frame c.frameLen do
      match s.translate t c.asid false .w (word x.1) with
      | .error e => .error (e.pilot s t c.asid (word x.1) 1 (State.awaitFrame id) (State.frameFault c t))
      | .ok _ => .ok ()
    match s.pilotWaits t c.asid (word c.frame) c.frameLen 0 (frameHold id) with
    | some u => .error u
    | none => .ok ()
/-- Write the words of a saved crew's frame that a fill has changed, from what it was (R197). -/
def State.refreshFrame (s : State) (id : Nat) (old : List Byte) : State :=
  let c := s.crewById id
  if c.saved then
    let new := s.savedFrame c
    ((List.range (new.length / 8)).foldl (fun t i =>
      let w := slice new (8 * i) 8
      if w == slice old (8 * i) 8 then t else (t.pilotWrite (s.savedTower id) c.asid (word (c.frame + 8 * i)) w).getD t) s).holdOff 0 (frameHold id)
  else s

/-- The crew's crane and matrix queues have completed. -/
def State.queuesIdle (s : State) (id : Nat) : Bool := (s.strandsOf id).all (fun st => st.mq.idle && st.cq.idle)

/-- A command of a crane queue that may need a stopped strand to go on: a wait command, or a ring command whose turn
it is and that waits on a counter (13 R409). -/
def State.craneStuck (s : State) (q : Queue) : Bool :=
  q.cmds.any (fun c => !c.done && match c.op with
    | .crnw _ => true
    | .crnR _ =>
      let r := s.ring (c.args.getD 1 0).toNat
      c.stage = 0 && c.slot.isNone && q.mayBegin c &&
        (if (field c.bytes 0x28 4).testBit 20 then r.post == r.take else r.slots ≤ (r.claim - r.free).toNat)
    | _ => false)

/-- An access waits in the recall (01 R38), for a layer in self-refresh (10 R339), or at the reckoner (14 R431): it is issued again
on resume. -/
def State.restarts (s : State) (r : Req) : Bool :=
  match r.op.lane with
  | some (p, _) => s.laneWaits (ptrChan p) (ptrBank p) (ptrSub p) (ptrRows p)
  | none => !r.vector && match r.place with
    | some p => s.ownedAt p r.op.size || s.tripped p
    | none => false

/-- An access of a strand waits behind an earlier access or fence of it. -/
def State.heldByOther (s : State) (r : Req) : Bool :=
  s.reqs.any (fun e => e.who.same r.who && e.id < r.id && s.holds true e r)

/-- Nothing of a crew is under way that its frame cannot keep: results have been written (09 R313), loads have filled their
destinations or faulted (07 R248), fences are over (07 R253), and its accesses are performed, but for those that `kept` names
and the stores and read-modify-writes that wait behind them (04 R153). -/
def State.crewSettled (s : State) (id : Nat) (kept : Req → Bool) : Bool :=
  s.returns.all (fun r => r.crew != id || r.bytes.isNone) &&
    s.reqs.all (fun r => r.who.crew != id ||
      (if r.op.isFence then s.fenceOver r || s.reqs.any (fun e => e.who.same r.who && e.id < r.id && !e.op.isFence)
      else kept r || (!r.vector && !r.op.isLoad && s.heldByOther r)))

/-- FRAME_WRITE (R183): a stop that meets such a command is abandoned (13 R409); a crew without room for its frame is not stopped and runs on (R189). -/
def execFrameWrite (s : State) : Host.Outcome State Fault Refusal :=
  let c := s.crewById s.args.unit
  let mine := s.strandsOf c.id
  let fine := ((s.ctx c.ctx).launch.map (fun l => l.faults.isEmpty)).getD false
  let resume := ((s.holdOff 0 (frameHold c.id)).setCrew c.id (fun c => { c with stopReq := false })).mapCrew c.id
    (fun st => { st with stopReq := false, stopped := false, ytHit := false })
  if c.id = 0 || c.saved || !c.stopReq || c.suspended || !fine then .next s
  else if mine.all (fun st => st.stopped || st.retired) && mine.any (fun st => s.craneStuck st.cq) then .next resume
  else if mine.all (fun st => (st.stopped || st.retired) && st.pageWait.isNone) && s.queuesIdle c.id &&
      s.crewSettled c.id s.restarts then
    match s.frameWaits c false, s.saveCrew c.id false with
    | some t, _ => .next t
    | none, some t => .next t
    | none, none => .next resume
  else .next s

/-- CREW_SUSPEND (R190): the strands stop, one that is amid an instruction when it is complete (08 R274), the queues complete, the state is saved with MID; kept are the accesses that
faulted, and what waits behind them (04 R153). -/
def execCrewSuspend (s : State) : Host.Outcome State Fault Refusal :=
  let c := s.crewById s.args.unit
  let mine := s.strandsOf c.id
  if c.id = 0 || c.saved || !mine.any (fun st => st.pageWait.isSome) || c.ctx == bootCtx then .next s
  else if mine.any (fun st => s.craneStuck st.cq) then
    .next ((s.holdOff 0 (frameHold c.id)).setCrew c.id (fun c => { c with suspended := false }))
  else
    let t := (mine.filter (fun st => !st.amid)).foldl (fun t st => t.withdraw st.crew st.idx) (s.setCrew c.id (fun c => { c with suspended := true }))
    if mine.all (fun st => !st.amid) && t.queuesIdle c.id && t.crewSettled c.id (fun r => r.fault || t.restarts r) then
      .next ((t.frameWaits c true).getD ((t.saveCrew c.id true).getD t))
    else .next t

/-- A page has arrived for the strands, accesses, commands and pilot accesses that wait for it (15 R470, R471). -/
def State.pageArrived (s : State) (asid : BitVec 16) (addr : Word) : State :=
  let hit (a : BitVec 16) (x : Word) : Bool := a == asid && x.toNat / 65536 == addr.toNat / 65536
  let clearCmd (c : Cmd) : Cmd := if (c.pageWait.map (hit c.who.asid)).getD false then { c with pageWait := none } else c
  let clear (st : Strand) : Strand :=
    let q (x : Queue) : Queue := { x with cmds := x.cmds.map clearCmd }
    let st := { st with mq := q st.mq, cq := q st.cq }
    if (st.pageWait.map (hit (s.crewById st.crew).asid)).getD false then { st with pageWait := none } else st
  let t : State := { s with
    self := clear s.self
    peers := s.peers.map clear
    saved := s.saved.map clear
    reqs := s.reqs.map (fun r => if r.fault && hit r.who.asid r.addr then { r with fault := false } else r)
    chans := s.chans.map (fun x => (x.1, { x.2 with queue := { x.2.queue with cmds := x.2.queue.cmds.map clearCmd } }))
    ctxs := s.ctxs.map (fun c => { c with pageWait := c.pageWait.filter (fun a => !hit c.asid a), lqWait := c.lqWait.filter (fun a => !hit c.asid a) }) }
  let back (c : Crew) : Bool := c.suspended && !c.saved && (t.strandsOf c.id).all (fun st => st.pageWait.isNone)
  { t with
    crews := t.crews.map (fun c => if back c then { c with suspended := false } else c)
    lineHolds := t.lineHolds.filter (fun h => !(h.crew == 0 && t.crews.any (fun c => back c && h.idx == frameHold c.id))) }

/-- An access issued again, from another tower: a G access is translated again, and a T access goes to the T space of the
tower where it is performed (07 R241). -/
def Req.reissued (r : Req) (tower : Nat) : Req :=
  match r.space with
  | .g => { r with place := none, held := false, arrived := 0, again := true }
  | .t _ => { r with space := .t tower, place := some (Place.t tower r.addr.toNat), again := true }
  | _ => { r with again := true }

/-- The bytes of a saved crew's frame as memory holds them, read from a tower (R191), or what the read comes to. -/
def State.frameRead (s : State) (c : Crew) (t : Nat) : Except State (List Byte) := do
  let parts ← (lineParts c.frame c.frameLen).mapM (fun x =>
    s.pilotFetch t c.asid (word x.1) x.2 (State.awaitFrame c.id) (State.frameFault c t))
  return parts.flatten

/-- A crew takes its frame back on slots (R191): its strands with what their frames hold, its accesses to be issued again with what
their records hold; the copies that those cores hold are dropped first (08 R272), and those of the tower's L2, which may be older than
the crew's own writes (04 R153, R133). A strand that comes to a core has seen nothing of it yet (06 R213). A resumption is no placement for
rotation and aging (log 33). -/
def State.resumeCrew (s : State) (c : Crew) (takes : List Strand) (slots : List Nat) (fr : List Byte) : State :=
  let cores := slots.map coreOfSlot
  let tower := towerOfSlot (slots.headD 0)
  let frames := c.strandFrames (s.saved.filter (fun st => st.crew == c.id)) (fr.drop 64)
  let mine := frames.map (fun x => x.1.restore c.vlGrant (s.pendingOf c.id x.1.idx).length x.2)
  let c' := c.restore fr
  let stale (st : Strand) : Strand :=
    if cores.contains st.core then { st with ahead := st.ahead.map (fun l => { l with expiry := 0 }), looped := [] } else st
  let t := takes.foldl (fun t st => t.setCore ((cores[st.idx]?).getD 0) (fun x => { x with holder := st.tagOf })) s
  let t := (t.setCrew c.id (fun _ => { c' with saved := false, suspended := false, stopReq := false, cores, repin := c'.repin + 1, frame := 0, frameLen := 0 })).freshSlots slots
  { t with
    saved := t.saved.filter (fun st => st.crew != c.id)
    self := stale t.self
    peers := t.peers.map stale ++ mine.map (fun st => { st with slot := (slots[st.idx]?).getD st.slot, stopReq := false, stopped := false, ytHit := false, masks := none, wait := none, since := 0, barPhase := st.barPhase.filter (fun ph => ph != c'.barPhase || c'.arrived.contains st.idx) })
    reqs := t.reqs.map (fun r => if r.who.crew == c.id then (r.fromFrame frames (s.pendingOf c.id r.who.idx)).reissued tower else r)
    copies := t.copies.filter (fun x => match x.holder with
      | .icache k => !cores.contains k
      | .l1 k => !cores.contains k
      | .vmu k => !cores.contains k
      | .tower k => k != tower
      | _ => true) }

/-- CREW_RESUME (R191): on free slots for which no better manifest competes, or on exactly those it left when it is LOCAL;
a strand with a live accumulator takes its core's matrix unit (12 R364). -/
def execCrewResume (s : State) : Host.Outcome State Fault Refusal :=
  let c := s.crewById s.args.unit
  let slots := s.args.slots
  let takes := s.accLive c
  let first := (s.manifest c.mid).all (fun m => s.offered m slots)
  if !s.resumable c takes slots || !first then .next s
  else
    match s.frameRead c (towerOfSlot (slots.headD 0)) with
    | .error t => .next t
    | .ok fr => .next (s.resumeCrew c takes slots fr)

/-! ## Results that arrive (01 R34) -/

/-- DATA_RETURN: a complete result is written into its destination, which becomes full, wherever its strand is (R197). -/
def execDataReturn (s : State) : Host.Outcome State Fault Refusal :=
  match s.returns.find? (fun r => r.id == s.args.unit) with
  | some r =>
    match r.bytes with
    | some bs =>
      match s.frameReady r.crew with
      | .error t => .next t
      | .ok () => .next (State.refreshFrame { (s.mapStrand r.crew r.idx (fun st => st.fill r.dest bs)) with
          returns := s.returns.filter (fun x => x.id != r.id) } r.crew (s.savedFrame (s.crewById r.crew)))
    | none => .next s
  | none => .next s

/-! ## Launches (R165 to R167) -/

/-- The tower the pilot's own accesses of a context start from: the lowest that is up (R158: no rule depends on it). -/
def State.pilotTower (s : State) : Nat := ((List.range 16).find? (fun t => s.mod.tup.getLsbD t)).getD 0

/-- A launch is refused: its completion record is due (R161, R165). -/
def State.refuse (s : State) (k : Nat) (code : BitVec 8) (mid : BitVec 32) (tag addr : Word) : State :=
  s.setCtx k (fun c => { c with launch := c.launch.map (fun l =>
    { l with completion := some (completionRecord { code, mid, addr } tag) }) })

/-- LAUNCH_FETCH (R165): RUN is set, the record is read and checked. A poisoned record, or a poisoned entry on its walk,
refuses the launch with MC_POISON and is logged, which R165 does not say (log 33). The read waits for a command that owns a part of
the record (01 R38); the launch is ordered after what the host did before its doorbell (16 R482). -/
def execLaunchFetch (s : State) : Host.Outcome State Fault Refusal :=
  let k := s.args.unit
  let c := s.ctx k
  let start := c.en && !c.run && c.lrhead.toNat < c.lrtail.toNat && k < bootCtx && s.mod.ready
  let again := c.run && c.pageWait.isNone && (c.launch.map (fun l => l.record.isNone && l.completion.isNone)).getD false
  if !start && !again then .next s
  else
    let s := if start then s.setCtx k (fun c => { c with run := true, launch := some {} }) else s
    let a := c.lrbase + word (128 * (c.lrhead.toNat % 2 ^ min c.lrlog.toNat 16))
    match s.translate s.pilotTower c.asid false .r a with
    | .error .noncanon => .next (s.refuse k VA_NONCANON 0 0 a)
    | .error .absent =>
      .next ((s.pageFault c.asid a s.pilotTower 0).setCtx k (fun c => { c with pageWait := some a }))
    | .error .noSpace => .next (s.refuse k PAGE_NOT_PRESENT 0 0 a)
    | .error (.waits p) => .next (s.wakeAt p)
    | .error .poisoned => .next ((s.machineCheck MC_POISON s.pilotTower c.asid a).refuse k MC_POISON 0 0 a)
    | .error _ => .next (s.refuse k PAGE_PERM 0 0 a)
    | .ok t =>
      if !s.readable t.place then .next (s.wakeAt t.place)
      else if s.ownedAt t.place 128 then .next s
      else if s.poisonedAt t.place 128 then
        let x := s.poisonWord t.place 128 a
        .next ((s.machineCheck MC_POISON s.pilotTower c.asid x).refuse k MC_POISON 0 0 x)
      else
        let r := s.bytesAt (s.keyOf t.key) t.place 128
        let (mid, s) := s.newMid
        let s := s.record { reads := true, strong := true, words := wordsAt t.place 128, stamp := s.writes }
        match s.checkManifest { ctx := k, asid := c.asid } 0 true r with
        | some code => .next (s.refuse k code mid (recTag r) a)
        | none => .next ((s.record { takes := [.bell k], gives := [.start s.serial] }).pass.setCtx k (fun c => { c with launch := some { root := mid, record := some r, tag := recTag r, deps := s.resolveDeps { ctx := k, asid := c.asid } 0 r, born := s.serial } }))

/-- The lowest-numbered tower of a set. -/
def lowestTower (t : BitVec 16) : Nat := ((List.range 16).find? (fun i => t.getLsbD i)).getD 0

/-- MANIFEST_ADMIT (R165). -/
def execManifestAdmit (s : State) : Host.Outcome State Fault Refusal :=
  let k := s.args.unit
  match (s.ctx k).launch with
  | some l =>
    match l.record with
    | some r =>
      let t := lowestTower (recTowers r)
      if l.admitted || l.completion.isSome || 960 ≤ s.poolCount t then .next s
      else
        let m : Manifest := { mid := l.root, ctx := k, record := r, tower := t, towers := recTowers r, deps := l.deps, prio := recPrio r, born := l.born }
        .next (({ s with manifests := s.manifests ++ [m] } : State).setCtx k (fun c => { c with launch := some { l with admitted := true } }))
    | none => .next s
  | none => .next s

/-- An answer to the host, and a completion interrupt (16 R484): vector `n` as one byte under tag 0xFF. -/
def State.interrupt (s : State) (n : Nat) : State := { s with answers := s.answers ++ [[0xFF, BitVec.ofNat 8 n]] }

/-- COMPLETION_RECORD_WRITE (R167): a release at system scope of all the launch has done, written once what the launch wrote is performed and the
leases that its weak stores found are over (04 R143), the ring has room, its page is there, and no lease stands on it (10
R319). A poisoned entry on its walk holds the record as the causes R167 lists do (log 33). -/
def execCompletionRecordWrite (s : State) : Host.Outcome State Fault Refusal :=
  let k := s.args.unit
  let c := s.ctx k
  match c.launch.bind (fun l => l.completion) with
  | none => .next s
  | some bs =>
    if c.pageWait.isSome || (c.held && !c.retry) || 2 ^ min c.crlog.toNat 16 ≤ c.crtail.toNat - c.crhead.toNat ||
        s.reqs.any (fun r => r.who.ctx == k && r.who.crew != 0 && !s.fenceOver r) ||
        s.leaseWaits.any (fun l => l.ctx == k && s.tide < l.expiry) then .next s
    else
      let a := c.crbase + word (64 * (c.crtail.toNat % 2 ^ min c.crlog.toNat 16))
      let holdIt := (s.holdOff 0 k).setCtx k (fun c => { c with held := true, retry := false })
      match s.translate s.pilotTower c.asid false .w a with
      | .error .absent =>
        .next ((s.pageFault c.asid a s.pilotTower 1).setCtx k (fun c => { c with pageWait := some a, retry := true }))
      | .error (.waits p) => .next (s.wakeAt p)
      | .error _ => .next holdIt
      | .ok t =>
        match s.moduleWrite k t.place 64 with
        | .error u => .next u
        | .ok u =>
          let s' := ((u.wakeAt t.place).writeAs { ends := c.launch.map (·.born) } (s.keyOf t.key) t.place (bs ++ leBytes 8 c.lrhead.toNat)).clearPoison t.place 64
          let s' := s'.setCtx k (fun c => { c with crtail := c.crtail + 1, lrhead := c.lrhead + 1, run := false, launch := none, held := false, retry := false })
          .next (if c.cien then s'.interrupt k else s')

end Sys2Proof.Machine
end

