-- ==== Sys2Proof/Machine/Sequencer.lean ====
section
/-! DEFINITION. Sequencer.lean: the strand sequencer's instructions, opcodes 0x00 to 0x27 (06 R218 to R236), over
bodies that take the instruction's length, so that the compressed forms (02 R48) share them. -/

namespace Sys2Proof.Machine

/-! ## Integer arithmetic and logic (R219, R220) -/

/-- Two sources, one result; of two empty ones g[a] is met first (log 33). -/
def State.binary (s : State) (len : Nat) (f : FA) (op : Word → Word → Word) : Except Stop State := do
  let a ← s.srcG f.a f.trap
  let b ← s.srcG f.b f.trap
  s.result f.d len (op a b)

/-- One source and an immediate. -/
def State.immediate (s : State) (len : Nat) (a d : Reg) (op : Word → Word) : Except Stop State := do
  let x ← s.srcG a
  s.result d len (op x)

/-- Shifts and the rotation of shi (R219). -/
def shiftBy (kind : Nat) (a : Word) (n : Nat) : Word :=
  match kind with
  | 0 => a <<< n
  | 1 => a >>> n
  | 2 => a.sshiftRight n
  | _ => a.rotateRight n

/-- Bits 127:64 of the exact product (R219). -/
def mulHigh (aSigned bSigned : Bool) (a b : Word) : Word :=
  let x : Int := if aSigned then a.toInt else a.toNat
  let y : Int := if bSigned then b.toInt else b.toNat
  BitVec.ofInt 64 (x * y / 2 ^ 64)

/-- Quotient toward zero and remainder with the corner cases of R220. -/
def divide (unsigned : Bool) (a b : Word) : Word :=
  if b == 0 then BitVec.allOnes 64 else if unsigned then a / b else a.sdiv b
def remainder (unsigned : Bool) (a b : Word) : Word :=
  if b == 0 then a else if unsigned then a % b else a.srem b

/-- minmax (R219): fn 0 signed minimum, 1 signed maximum, 2 and 3 unsigned. -/
def minMax (fn : Nat) (a b : Word) : Word :=
  match fn with
  | 0 => if b.slt a then b else a
  | 1 => if a.slt b then b else a
  | 2 => if b.ult a then b else a
  | _ => if a.ult b then b else a

def execAdd (f : FA) (s : State) := finish s (s.binary 4 f (· + ·))
def execSub (f : FA) (s : State) := finish s (s.binary 4 f (· - ·))
def execAddi (f : FI) (s : State) := finish s (s.immediate 4 f.a f.d (· + f.imm.signExtend 64))
def execAnd (f : FA) (s : State) := finish s (s.binary 4 f (· &&& ·))
def execOr (f : FA) (s : State) := finish s (s.binary 4 f (· ||| ·))
def execXor (f : FA) (s : State) := finish s (s.binary 4 f (· ^^^ ·))

/-- logi (R219): the eight-bit immediate is zero-extended. -/
def logic (kind : Nat) (x i : Word) : Word :=
  match kind with
  | 0 => x &&& i
  | 1 => x ||| i
  | _ => x ^^^ i

def execLogi (f : FI) (s : State) :=
  finish s (s.immediate 4 f.a f.d (fun x => logic (f.imm.extractLsb' 8 2).toNat x ((f.imm.extractLsb' 0 8).setWidth 64)))
def execShl (f : FA) (s : State) := finish s (s.binary 4 f (fun a b => shiftBy 0 a (b.toNat % 64)))
def execShr (f : FA) (s : State) := finish s (s.binary 4 f (fun a b => shiftBy 1 a (b.toNat % 64)))
def execSar (f : FA) (s : State) := finish s (s.binary 4 f (fun a b => shiftBy 2 a (b.toNat % 64)))
def execShi (f : FI) (s : State) :=
  finish s (s.immediate 4 f.a f.d (fun x => shiftBy (f.imm.extractLsb' 8 2).toNat x (f.imm.extractLsb' 0 6).toNat))
def execMul (f : FA) (s : State) := finish s (s.binary 4 f (· * ·))
def execMulh (f : FA) (s : State) := finish s (s.binary 4 f (mulHigh (f.fn != 1) (f.fn == 0)))
def execDiv (f : FA) (s : State) := finish s (s.binary 4 f (divide (f.fn == 1)))
def execRem (f : FA) (s : State) := finish s (s.binary 4 f (remainder (f.fn == 1)))
def execMinmax (f : FA) (s : State) := finish s (s.binary 4 f (minMax f.fn.toNat))
def execCmp (f : FA) (s : State) :=
  finish s (s.binary 4 f (fun a b => word (b2n (condHolds f.fn.toNat a b))))

/-- sel reads g[d] as a source too (R219), after g[a] and g[b] (log 33). -/
def State.select (s : State) (f : FA) : Except Stop State := do
  let a ← s.srcG f.a f.trap
  let b ← s.srcG f.b f.trap
  let d ← s.srcG f.d f.trap
  s.result f.d 4 (if d != 0 then a else b)
def execSel (f : FA) (s : State) := finish s (s.select f)

def execLui (f : FU) (s : State) :=
  finish s (s.result f.d 4 ((f.imm ++ 0#16).signExtend 64))
def execAddpc (f : FU) (s : State) :=
  finish s (s.result f.d 4 (s.self.pc + BitVec.ofInt 64 (f.imm.toInt * 4)))

/-! ## Scalar FP32 (R221 to R224) -/

/-- A scalar instruction rounds under RMODE with idx = EIDX, saturation none (R221). -/
def Strand.rnd (st : Strand) : Rnd := { mode := st.rmode.toNat, idx := st.eidx, srs := st.srs, sat := 1 }

/-- The low 32 bits of a register as an FP32 value. -/
def f32 (w : Word) : FV := fp32.value (w.toNat % 2 ^ 32)

/-- fops (R222): the square root always rounds to nearest. -/
def fopsResult (fn : Nat) (r : Rnd) (a b : FV) : Nat :=
  match fn with
  | 0 => fp32.round r (a.add r.mode b)
  | 1 => fp32.round r (a.add r.mode b.negate)
  | 2 => fp32.round r (a.mul b)
  | 3 => fp32.round r (a.div b)
  | 4 => fp32.round rne a.sqrt
  | 5 => fp32.round rne (a.minmax false b)
  | _ => fp32.round rne (a.minmax true b)

/-- fops.sqrt has no source b, so g0 stands for it. -/
def execFops (f : FA) (s : State) :=
  finish s (s.binary 4 f (fun a b => word (fopsResult f.fn.toNat s.self.rnd (f32 a) (f32 b))))

/-- ffma (R222): the exact product, negated or not, plus g[d], rounded once. -/
def State.scalarFma (s : State) (f : FA) : Except Stop State := do
  let a ← s.srcG f.a f.trap
  let b ← s.srcG f.b f.trap
  let d ← s.srcG f.d f.trap
  let p := (f32 a).mul (f32 b)
  let r := s.self.rnd
  s.result f.d 4 (word (fp32.round r ((if f.fn == 1 then p.negate else p).add r.mode (f32 d))))
def execFfma (f : FA) (s : State) := finish s (s.scalarFma f)

/-- fcmp (R223); floating conditions of vcmp share it. -/
def fcmpHolds (fn : Nat) (a b : FV) : Bool :=
  let ordered := !a.isNan && !b.isNan
  match fn with
  | 0 => ordered && !a.below false b && !b.below false a
  | 1 => a.below false b
  | 2 => ordered && !b.below false a
  | _ => !ordered

def execFcmp (f : FA) (s : State) :=
  finish s (s.binary 4 f (fun a b => word (b2n (fcmpHolds f.fn.toNat (f32 a) (f32 b)))))

/-- fcvt (R224). -/
def fcvtResult (fn : Nat) (r : Rnd) (a : Word) : Nat :=
  match fn with
  | 0 => (f32 a).toIntSat r 64 true
  | 1 => fp32.round r (FV.ofInt a.toInt)
  | 2 => fp32.round r (FV.ofInt a.toNat)
  | 3 => (f32 a).toIntSat r 64 false
  | 4 => bf16.round r (f32 a)
  | _ => fp32.round rne (bf16.value (a.toNat % 2 ^ 16))

def State.fcvt (s : State) (f : FA) : Except Stop State := do
  let a ← s.srcG f.a f.trap
  s.result f.d 4 (word (fcvtResult f.fn.toNat s.self.rnd a))
def execFcvt (f : FA) (s : State) := finish s (s.fcvt f)

/-! ## Transfers of control (R225 to R227) -/

/-- A branch that is taken or not. -/
def State.branchIf (s : State) (len : Nat) (taken : Bool) (t : Word) : State :=
  if taken then s.mapSelf (·.branch t) else s.advance len

def State.br (s : State) (len : Nat) (a : Reg) (cond : Nat) (t : Word) : Except Stop State :=
  if cond = 6 then .ok (s.branchIf len (s.self.gIsFull a.toNat) t)
  else if cond = 7 then .ok (s.branchIf len (!s.self.gIsFull a.toNat) t)
  else do
    let x ← s.srcG a
    return s.branchIf len (zeroCond cond x) t
def execBr (f : FB) (s : State) := finish s (s.br 4 f.a f.cond.toNat (target s.self.pc f.off))

/-- brb (R226): decrement, then branch. -/
def State.brb (s : State) (len : Nat) (a : Reg) (gtz : Bool) (t : Word) : Except Stop State := do
  let x ← s.srcG a
  let y := x - 1
  let s' := s.mapSelf (·.setG a.toNat y)
  return s'.branchIf len (if gtz then (0 : Word).slt y else y != 0) t
def execBrb (f : FB) (s : State) := finish s (s.brb 4 f.a (f.cond == 1) (target s.self.pc f.off))

def execJmp (f : FJ) (s : State) := finish s (.ok (s.mapSelf (·.branch (target s.self.pc f.off))))

def State.jal (s : State) (t : Word) : Except Stop State := do
  s.destFree (.g 31)
  return s.mapSelf (fun st => (st.setG 31 (st.pc + 4)).goto t)
def execJal (f : FJ) (s : State) := finish s (s.jal (target s.self.pc f.off))

/-- jr (R227): the target is read before the link is written. -/
def State.jr (s : State) (len : Nat) (d a : Reg) (trap : Bool) : Except Stop State := do
  let t ← s.srcG a trap
  need (!t.getLsbD 0) ALIGN t
  s.destFree (.g d.toNat)
  return s.mapSelf (fun st => (st.setG d.toNat (st.pc + word len)).goto t)
def execJr (f : FA) (s : State) := finish s (s.jr 4 f.d f.a f.trap)

/-! ## Loop instructions (R228 to R230) -/

/-- Push a loop level of `c` passes over `n` halfwords, or skip a zero-trip loop. -/
def State.pushLoop (s : State) (c : Word) (f : FL) : Except Stop State := do
  let st := s.self
  let e := st.pc + 4 + word (2 * f.body.toNat)
  if c == 0 then
    if f.flags.getLsbD 1 then return s.mapSelf (·.branch e)
    else .error (.fault LOOP_DEPTH 0)
  else
    need (st.ldepth != 6) LOOP_DEPTH 6
    let inside := match st.loops.getLast? with
      | some l => st.ldepth ≤ st.frozen || e.toNat ≤ l.stop.toNat
      | none => true
    need inside LOOP_DEPTH e
    let down := f.flags.getLsbD 0
    let l : LoopLevel := ⟨st.pc + 4, e, c, if down then c - 1 else 0, down⟩
    return s.mapSelf (fun st => { st.goto (st.pc + 4) with loops := st.loops ++ [l] })

def State.loop (s : State) (f : FL) : Except Stop State := do
  let c ← s.srcG f.count
  s.pushLoop c f
def execLoop (f : FL) (s : State) := finish s (s.loop f)

/-- loopi: a count of 0 means 64; the zero-trip flag is not its own. -/
def State.loopi (s : State) (f : FL) : Except Stop State := do
  need (!f.flags.getLsbD 1) ILL_FIELD s.self.pc
  s.pushLoop (if f.count == 0 then 64 else f.count.setWidth 64) f
def execLoopi (f : FL) (s : State) := finish s (s.loopi f)

def State.lexit (s : State) (n : Nat) : Except Stop State := do
  let st := s.self
  need (n ≤ st.ldepth - st.frozen) LOOP_DEPTH (word n)
  match st.loops[st.ldepth - n]? with
  | some l => return s.mapSelf (fun st => { st.goto l.stop with loops := st.loops.take (st.ldepth - n) })
  | none => .error (.fault LOOP_DEPTH (word n))
def execLexit (f : FA) (s : State) := finish s (s.lexit (f.fn.toNat + 1))

def State.lidx (s : State) (len : Nat) (d : Reg) (level : Nat) : Except Stop State :=
  match s.self.loops[level]? with
  | some l => s.result d len l.index
  | none => .error (.fault LOOP_DEPTH (word level))
def execLidx (f : FA) (s : State) := finish s (s.lidx 4 f.d f.fn.toNat)

/-! ## Full/empty control and control registers (R231, R232) -/

def State.fe (s : State) (f : FA) : Except Stop State :=
  if f.fn == 2 then s.result f.d 4 (word (b2n (s.self.gIsFull f.a.toNat)))
  else do
    s.destFree (.g f.d.toNat)
    return s.mapSelf (fun st =>
      (if f.fn == 0 then st.emptyG f.d.toNat
        else { st with gFull := st.gFull ||| BitVec.twoPow 32 f.d.toNat }).advance 4)
def execFe (f : FA) (s : State) := finish s (s.fe f)

/-- PHYSCORE is supervisor-only (R211). -/
def State.controlAllowed (s : State) (sel : Nat) : Except Stop Unit :=
  need (sel != 0x11 || s.self.priv) PRIV s.self.pc

def State.getc (s : State) (f : FU) : Except Stop State := do
  s.controlAllowed f.imm.toNat
  s.result f.d 4 (s.control f.imm.toNat)
def execGetc (f : FU) (s : State) := finish s (s.getc f)

def State.setc (s : State) (f : FU) : Except Stop State := do
  s.controlAllowed f.imm.toNat
  let v ← s.srcG f.d
  need (f.imm != 8 || (v.setWidth 3 != 0#3 && v.setWidth 3 != 7#3)) ILL_FIELD v
  return s.mapSelf (fun st => (st.setControl f.imm.toNat v).advance 4)
def execSetc (f : FU) (s : State) := finish s (s.setc f)

/-! ## Traps and services (R233 to R236) -/

/-- A trap instruction, sys or brk that enters its handler has retired (05 R185). -/
def State.enter (s : State) (kind : BitVec 2) (code : BitVec 8) (taddr handler : Word) : State :=
  (s.trapEntry kind code (s.self.pc + 4) taddr handler).mapSelf (fun st => { st with pcnt := st.pcnt + 1 })

def execTrap (f : FU) (s : State) := finish s (.ok (s.enter 0 (f.imm.setWidth 8) 0 0))
def execBrk (f : FU) (s : State) := finish s (.ok (s.enter 2 0 (f.imm.setWidth 64) 0))

def State.sys (s : State) (service : BitVec 16) : Except Stop State := do
  need (service.ult s.mod.svccount) ILL_FIELD (service.setWidth 64)
  return s.enter 1 0 (service.setWidth 64) (s.mod.svcbase + 64 * service.setWidth 64)
def execSys (f : FU) (s : State) := finish s (s.sys f.imm)

def State.tret (s : State) : Except Stop State := do
  let st := s.self
  need st.inTrap MODE st.pc
  need (st.ldepth == st.tld) LOOP_DEPTH (word st.ldepth)
  return s.mapSelf (fun st => { st.trapReturn with pcnt := st.pcnt + 1, wait := none })
def execTret (_f : FA) (s : State) := finish s s.tret

/-! ## Decode faults and the pre-emption limit (02 R43, R71; 05 R185) -/

/-- ILL_OPC; the operand's flag says that it lies in the second word of a pair (02 R46). A zero parcel that is entered at its high half is
reported at that half, the PC, and not at the parcel's address (02 R43; log 33). -/
def execIllOpc (s : State) : Host.Outcome State Fault Refusal :=
  .next (s.raise ILL_OPC (s.self.pc + if s.args.flag then 4 else 0))

/-- PREEMPT_LIMIT names no address (05 R166). -/
def execPreemptLimit (s : State) : Host.Outcome State Fault Refusal := .next (s.raise PREEMPT_LIMIT 0)

end Sys2Proof.Machine
end

