-- ==== Sys2Proof/Machine/Vector.lean ====
section
/-! DEFINITION. Vector.lean: the vector engine's instructions, opcodes 0x50 to 0x7F (09 R283 to R314), over bodies that
take the instruction's length and its prefix fields (02 R56, R57). -/

namespace Sys2Proof.Machine

/-! ## Elements (R284, R285) -/

/-- The first `n` elements of `w` bytes of a register. -/
def elems (w : Nat) : Nat → List Byte → List Nat
  | 0, _ => []
  | n + 1, bs => leNat (bs.take w) :: elems w n (bs.drop w)

/-- N for elements of `w` bytes (R284). -/
def Strand.count (st : Strand) (w : Nat) : Nat := if st.long then st.vl else 32 / w
/-- Element `e` is active (R285). -/
def Strand.active (st : Strand) (e : Nat) : Bool := ((st.m.headD [])[e]?).getD false

/-- Element `e` of a list of elements. -/
def el (l : List Nat) (e : Nat) : Nat := (l[e]?).getD 0

/-- A register with its first `n` elements replaced where a new value is given. -/
def putElems (w n : Nat) (old : List Byte) (f : Nat → Option Nat) : List Byte :=
  ((List.range n).zip (elems w n old)).flatMap (fun x => leBytes w ((f x.1).getD x.2)) ++ old.drop (w * n)

/-- Rounding for an instruction: RND or RMODE, IXB or EIDX, SRS, SAT (02 R57, 03 R92, R98). -/
def State.vround (s : State) (px : Prefix) : Except Stop Rnd := do
  let base ← if px.ixb == 0 then .ok s.self.eidx else s.srcG px.ixb
  return { mode := if px.rnd == 0 then s.self.rmode.toNat else px.rnd.toNat, idx := base, srs := s.self.srs
           sat := if px.sat == 0 then 1 else px.sat.toNat }

/-- The rounding of element `e`. -/
def Rnd.at (r : Rnd) (e : Nat) : Rnd := { r with idx := r.idx + word e }

/-- Which sources trap when empty: the E bit, or EMP's bits for a, b and d (02 R55, R57). -/
def trapA (px : Prefix) (f : FA) : Bool := f.trap || px.emp.getLsbD 0
def trapB (px : Prefix) (f : FA) : Bool := f.trap || px.emp.getLsbD 1
def trapD (px : Prefix) (f : FA) : Bool := f.trap || px.emp.getLsbD 2

/-- A vector result: the destination empties at issue and fills when it is written (R286). -/
def State.vresult (s : State) (len : Nat) (d : Reg) (bs : List Byte) : Except Stop State := do
  let dest := s.self.vdest d.toNat
  s.destFree dest
  return ((s.produce dest (bs.map some) true).1).advance len

/-- A g result of a vector instruction. -/
def State.vresultG (s : State) (len : Nat) (d : Reg) (v : Word) : Except Stop State := do
  s.destFree (.g d.toNat)
  if d == 0 then return s.advance len
  else return ((s.produce (.g d.toNat) ((leBytes 8 v.toNat).map some) true).1).advance len

/-- The value of an element of a type: floating TY 4 and 5 (02 R59). -/
def fmtOf (ty : Nat) : Fmt := if ty = 4 then fp32 else bf16
def isFloat (ty : Nat) : Bool := ty = 4 || ty = 5

/-- Write the active elements of d from the elements of a and b; of two empty registers a is met first, and the register of
IXB last (log 33). -/
def State.velem2 (s : State) (len : Nat) (px : Prefix) (f : FA) (w : Nat) (op : Rnd → Nat → Nat → Nat) :
    Except Stop State := do
  let a ← s.srcV f.a (trapA px f)
  let b ← s.srcV f.b (trapB px f)
  let r ← s.vround px
  let st := s.self
  let n := st.count w
  let x := elems w n a
  let y := elems w n b
  s.vresult len f.d (putElems w n (st.vreg f.d.toNat) (fun e =>
    if st.active e then some (op (r.at e) (el x e) (el y e)) else none))

/-- Write the active elements of d from the elements of a. -/
def State.velem1 (s : State) (len : Nat) (px : Prefix) (f : FA) (w : Nat) (op : Rnd → Nat → Nat) : Except Stop State := do
  let a ← s.srcV f.a (trapA px f)
  let r ← s.vround px
  let st := s.self
  let n := st.count w
  let x := elems w n a
  s.vresult len f.d (putElems w n (st.vreg f.d.toNat) (fun e =>
    if st.active e then some (op (r.at e) (el x e)) else none))

/-! ## Element-wise arithmetic (R299, R300) -/

/-- An arithmetic element: exact in its type, then rounded, wrapped or clamped. -/
def arith (ty : Nat) (r : Rnd) (fop : FV → FV → FV) (iop : Int → Int → Int) (x y : Nat) : Nat :=
  let w := 8 * tyBytes ty
  if isFloat ty then (fmtOf ty).round r (fop ((fmtOf ty).value x) ((fmtOf ty).value y))
  else intSat w true r.sat (iop (toSigned w x) (toSigned w y))

def State.vadd (s : State) (len : Nat) (px : Prefix) (f : FA) : Except Stop State :=
  s.velem2 len px f (tyBytes f.fn.toNat) (fun r => arith f.fn.toNat r (FV.add r.mode) (· + ·))
def State.vsub (s : State) (len : Nat) (px : Prefix) (f : FA) : Except Stop State :=
  s.velem2 len px f (tyBytes f.fn.toNat) (fun r => arith f.fn.toNat r (fun x y => FV.add r.mode x y.negate) (· - ·))
def State.vmul (s : State) (len : Nat) (px : Prefix) (f : FA) : Except Stop State :=
  s.velem2 len px f (tyBytes f.fn.toNat) (fun r => arith f.fn.toNat r FV.mul (· * ·))

/-- Bits 2w − 1 : w of a product. -/
def productHigh (w : Nat) (signed : Bool) (x y : Nat) : Nat :=
  if signed then ofSigned w (toSigned w x * toSigned w y / 2 ^ w) else x * y / 2 ^ w

def State.vmulh (s : State) (len : Nat) (px : Prefix) (f : FA) (signed : Bool) : Except Stop State :=
  let w := tyBytes f.fn.toNat
  s.velem2 len px f w (fun _ => productHigh (8 * w) signed)

/-- vfma reads d as a source, after a and b (log 33). -/
def State.vfma (s : State) (len : Nat) (px : Prefix) (f : FA) : Except Stop State := do
  let ty := f.fn.toNat
  let w := tyBytes ty
  let a ← s.srcV f.a (trapA px f)
  let b ← s.srcV f.b (trapB px f)
  let d ← s.srcV f.d (trapD px f)
  let r ← s.vround px
  let st := s.self
  let n := st.count w
  let x := elems w n a
  let y := elems w n b
  let z := elems w n d
  let one (e : Nat) : Nat :=
    if isFloat ty then
      let v (c : Nat) : FV := (fmtOf ty).value c
      (fmtOf ty).round (r.at e) (((v (el x e)).mul (v (el y e))).add r.mode (v (el z e)))
    else intSat (8 * w) true r.sat
      (toSigned (8 * w) (el x e) * toSigned (8 * w) (el y e) + toSigned (8 * w) (el z e))
  s.vresult len f.d (putElems w n d (fun e => if st.active e then some (one e) else none))

/-- Signed division of elements (R300). -/
def divSigned (w sat x y : Nat) : Nat :=
  if y = 0 then 2 ^ w - 1 else intSat w true sat ((toSigned w x).tdiv (toSigned w y))
def divUnsigned (w x y : Nat) : Nat := if y = 0 then 2 ^ w - 1 else x / y

def State.vdiv (s : State) (len : Nat) (px : Prefix) (f : FA) : Except Stop State :=
  let ty := f.fn.toNat
  s.velem2 len px f (tyBytes ty) (fun r x y =>
    if isFloat ty then arith ty r FV.div (fun a _ => a) x y else divSigned (8 * tyBytes ty) r.sat x y)
def State.vdivN (s : State) (len : Nat) (px : Prefix) (f : FA) : Except Stop State :=
  let w := tyBytes f.fn.toNat
  s.velem2 len px f w (fun _ => divUnsigned (8 * w))

/-- Minimum or maximum of two elements, unsigned or of the type (03 R87). -/
def minMaxElem (ty : Nat) (unsigned max : Bool) (x y : Nat) : Nat :=
  let w := 8 * tyBytes ty
  if isFloat ty then (fmtOf ty).round rne (FV.minmax max ((fmtOf ty).value x) ((fmtOf ty).value y))
  else
    let less (a b : Nat) : Bool := if unsigned then a < b else toSigned w a < toSigned w b
    if less x y == max then y else x

def State.vminmax (s : State) (len : Nat) (px : Prefix) (f : FA) (unsigned max : Bool) : Except Stop State :=
  s.velem2 len px f (tyBytes f.fn.toNat) (fun _ => minMaxElem f.fn.toNat unsigned max)

/-- The logic instructions of 0x69 work on 64-bit elements. -/
def State.vlogic (s : State) (len : Nat) (px : Prefix) (f : FA) (op : Word → Word → Word) : Except Stop State :=
  s.velem2 len px f 8 (fun _ x y => (op (word x) (word y)).toNat)

/-- Shifts by y mod w: 0 left, 1 logical right, 2 arithmetic right. -/
def shiftElem (kind w x y : Nat) : Nat :=
  let n := y % w
  match kind with
  | 0 => x * 2 ^ n % 2 ^ w
  | 1 => x / 2 ^ n
  | _ => ofSigned w (toSigned w x / 2 ^ n)
def State.vshift (s : State) (len : Nat) (px : Prefix) (f : FA) (kind : Nat) : Except Stop State :=
  let w := tyBytes f.fn.toNat
  s.velem2 len px f w (fun _ => shiftElem kind (8 * w))

/-- vabs and vneg; floating forms change the sign bit exactly, a NaN gives the canonical NaN. -/
def signElem (ty : Nat) (neg : Bool) (r : Rnd) (x : Nat) : Nat :=
  let w := 8 * tyBytes ty
  if isFloat ty then
    if ((fmtOf ty).value x).isNan then (fmtOf ty).nan.getD 0
    else if neg then (x + 2 ^ (w - 1)) % 2 ^ w else x % 2 ^ (w - 1)
  else
    let v := toSigned w x
    intSat w true r.sat (if neg then -v else if v < 0 then -v else v)
def State.vsign (s : State) (len : Nat) (px : Prefix) (f : FA) (neg : Bool) : Except Stop State :=
  s.velem1 len px f (tyBytes f.fn.toNat) (signElem f.fn.toNat neg)

/-! ## Masks, indices, moves (R297, R301) -/

/-- Write mask `k` for elements below `n`. -/
def Strand.setMask (st : Strand) (k n : Nat) (f : Nat → Bool) : Strand :=
  let old := (st.m[k]?).getD []
  { st with m := setAt st.m k ((List.range old.length).zip old |>.map (fun x => if x.1 < n then f x.1 else x.2)) }

/-- The conditions of vcmp (R301). -/
def vcond (ty cc x y : Nat) : Bool :=
  let w := 8 * tyBytes ty
  if isFloat ty then
    let a := (fmtOf ty).value x
    let b := (fmtOf ty).value y
    let un := a.isNan || b.isNan
    let eq := !un && !a.below false b && !b.below false a
    match cc with
    | 0 => eq
    | 1 => un || !eq
    | 2 => a.below false b
    | 3 => !un && !b.below false a
    | 4 => un
    | _ => !un
  else match cc with
    | 0 => x == y
    | 1 => x != y
    | 2 => toSigned w x < toSigned w y
    | 3 => !(toSigned w x < toSigned w y)
    | 4 => x < y
    | _ => !(x < y)

def State.vcmp (s : State) (len : Nat) (px : Prefix) (f : FA) : Except Stop State := do
  let ty := f.fn.toNat
  let w := tyBytes ty
  let a ← s.srcV f.a (trapA px f)
  let b ← s.srcV f.b (trapB px f)
  let st := s.self
  let n := st.count w
  let x := elems w n a
  let y := elems w n b
  return s.mapSelf (fun t => (t.setMask (f.d.toNat % 8) n (fun e =>
    st.active e && vcond ty (f.d.toNat / 8) (el x e) (el y e))).advance len)

def State.mset (s : State) (f : FA) : Except Stop State := do
  let a ← s.srcG f.a f.trap
  let b ← s.srcG f.b f.trap
  let n := s.self.count (tyBytes f.fn.toNat)
  return s.mapSelf (fun t => (t.setMask f.d.toNat n (fun e => a.toNat ≤ e && e < b.toNat)).advance 4)

def State.mpop (s : State) (f : FA) : Except Stop State :=
  let m := ((s.self.m[f.a.toNat]?).getD []).take (if s.self.long then s.self.vl else 32)
  s.vresultG 4 f.d (word (m.countP (fun b => b)))

def State.vidx (s : State) (f : FA) : Except Stop State :=
  let w := tyBytes f.fn.toNat
  s.vresult 4 f.d (putElems w (s.self.count w) (s.self.vreg f.d.toNat) (fun e => if s.self.active e then some e else none))

def State.vsel (s : State) (len : Nat) (px : Prefix) (f : FA) : Except Stop State := do
  let w := tyBytes f.fn.toNat
  let a ← s.srcV f.a (trapA px f)
  let b ← s.srcV f.b (trapB px f)
  let st := s.self
  let n := st.count w
  let x := elems w n a
  let y := elems w n b
  s.vresult len f.d (putElems w n (st.vreg f.d.toNat) (fun e => some (if st.active e then el x e else el y e)))

def State.vmov (s : State) (len : Nat) (px : Prefix) (f : FA) : Except Stop State := do
  let w := tyBytes f.fn.toNat
  let v ← s.srcG f.a (trapA px f)
  s.vresult len f.d (putElems w (s.self.count w) (s.self.vreg f.d.toNat) (fun e =>
    if s.self.active e then some v.toNat else none))

/-! ## Functions (R302) -/

/-- A correctly rounded function of an element: FP32 to nearest, then once to BF16 under the instruction's mode. -/
def funcElem (ty : Nat) (fn : FV → FV) (r : Rnd) (x : Nat) : Nat :=
  if ty = 4 then fp32.round { r with mode := 1 } (fn (fp32.value x))
  else bf16.round r (fp32.value (fp32.round rne (fn (bf16.value x))))
def State.vfunc (s : State) (len : Nat) (px : Prefix) (f : FA) (fn : FV → FV) : Except Stop State :=
  s.velem1 len px f (tyBytes f.fn.toNat) (funcElem f.fn.toNat fn)

/-! ## Permutes (R303) -/

def State.vperm (s : State) (len : Nat) (px : Prefix) (f : FA) : Except Stop State := do
  let w := tyBytes f.fn.toNat
  let a ← s.srcV f.a (trapA px f)
  let b ← s.srcV f.b (trapB px f)
  let st := s.self
  let n := st.count w
  let x := elems w n a
  let y := elems w n b
  s.vresult len f.d (putElems w n (st.vreg f.d.toNat) (fun e => if st.active e then some (el x (el y e)) else none))

def State.vslide (s : State) (len : Nat) (px : Prefix) (f : FA) : Except Stop State := do
  let w := tyBytes f.fn.toNat
  let a ← s.srcV f.a (trapA px f)
  let b ← s.srcG f.b (trapB px f)
  let st := s.self
  let n := st.count w
  let x := elems w n a
  let at_ (e : Nat) : Nat :=
    let k := (e : Int) + b.toInt
    if 0 ≤ k && k < n then el x k.toNat else 0
  s.vresult len f.d (putElems w n (st.vreg f.d.toNat) (fun e => if st.active e then some (at_ e) else none))

/-- The active elements' numbers, ascending. -/
def Strand.actives (st : Strand) (n : Nat) : List Nat := (List.range n).filter st.active

def State.vcompress (s : State) (len : Nat) (px : Prefix) (f : FA) : Except Stop State := do
  let w := tyBytes f.fn.toNat
  let a ← s.srcV f.a (trapA px f)
  let st := s.self
  let n := st.count w
  let x := elems w n a
  let kept := (st.actives n).map (el x)
  s.vresult len f.d (putElems w n (st.vreg f.d.toNat) (fun e => kept[e]?))

def State.vexpand (s : State) (len : Nat) (px : Prefix) (f : FA) : Except Stop State := do
  let w := tyBytes f.fn.toNat
  let a ← s.srcV f.a (trapA px f)
  let st := s.self
  let n := st.count w
  let x := elems w n a
  s.vresult len f.d (putElems w n (st.vreg f.d.toNat) (fun e =>
    if st.active e then some (el x ((List.range e).filter st.active).length) else none))

/-! ## Reductions, scans, sort, segments (R304 to R307, 03 R102 to R104) -/

/-- A rounded FP32 addition of codes. -/
def add32 (r : Rnd) (x y : Nat) : Nat := fp32.round { r with sat := 1 } ((fp32.value x).add r.mode (fp32.value y))
/-- An element of a floating type as an FP32 code. -/
def widen32 (ty x : Nat) : Nat := if ty = 4 then x else x * 65536
/-- −0.0. -/
def minusZero : Nat := 2 ^ 31

/-- RedSum's tree (03 R102): stages of 32 down to 1 additions, numbered from `t` on. -/
def laneTree (r : Rnd) : Nat → Nat → List Nat → List Nat
  | 0, _, l => l
  | k + 1, t, l =>
    let n := 2 ^ k
    laneTree r k (t + n) ((List.range n).map (fun i => add32 (r.at (t + i)) (el l i) (el l (i + n))))

/-- RedSum (03 R102) over FP32 codes, inactive elements given as −0.0. -/
def redSum (r : Rnd) (x : List Nat) : Nat :=
  let lanes := x.zipIdx.foldl (fun l v => setAt l (v.2 % 64) (add32 (r.at v.2) (el l (v.2 % 64)) v.1))
    (List.replicate 64 minusZero)
  (laneTree r 6 x.length lanes).headD 0

/-- RedSumOrdered (03 R103). -/
def redSumOrdered (r : Rnd) (x : List Nat) : Nat :=
  x.zipIdx.foldl (fun a v => add32 (r.at v.2) a v.1) minusZero

/-- The floating result of a sum in its element type, rounded at index `e` for BF16. -/
def narrow16 (ty : Nat) (r : Rnd) (e : Nat) (x : Nat) : Nat :=
  if ty = 4 then x else bf16.round { r.at e with sat := 1 } (fp32.value x)

def State.vredsum (s : State) (len : Nat) (px : Prefix) (f : FA) (ordered : Bool) : Except Stop State := do
  let ty := f.fn.toNat
  let w := tyBytes ty
  let a ← s.srcV f.a (trapA px f)
  let r ← s.vround px
  let st := s.self
  let n := st.count w
  let x := elems w n a
  let res :=
    if isFloat ty then
      let y := (List.range n).map (fun e => if st.active e then widen32 ty (el x e) else minusZero)
      if ordered || px.ord == 1 then narrow16 ty r n (redSumOrdered r y) else narrow16 ty r (n + 63) (redSum r y)
    else ((st.actives n).foldl (fun t e => t + el x e) 0) % 2 ^ (8 * w)
  s.vresult len f.d (putElems w 1 (st.vreg f.d.toNat) (fun _ => some res))

/-- The identities of min and max (03 R104). -/
def minMaxIdentity (ty : Nat) (unsigned max : Bool) : Nat :=
  let w := 8 * tyBytes ty
  if isFloat ty then (fmtOf ty).round rne (.inf max)
  else if unsigned then (if max then 0 else 2 ^ w - 1)
  else ofSigned w (if max then intMin w true else intMax w true)

def State.vredmm (s : State) (len : Nat) (px : Prefix) (f : FA) : Except Stop State := do
  let ty := f.fn.toNat
  let w := tyBytes ty
  let a ← s.srcV f.a (trapA px f)
  let st := s.self
  let n := st.count w
  let x := elems w n a
  let max : Bool := f.b.toNat % 2 = 1
  let unsigned : Bool := 2 ≤ f.b.toNat
  let res := (st.actives n).foldl (fun t e => minMaxElem ty unsigned max t (el x e)) (minMaxIdentity ty unsigned max)
  s.vresult len f.d (putElems w 1 (st.vreg f.d.toNat) (fun _ => some res))

/-- The scan's state after each element, and what the element writes. -/
def scanFrom (ty sel n : Nat) (r : Rnd) (act : Nat → Bool) : Nat → Nat → List Nat → List (Option Nat)
  | _, _, [] => []
  | e, t, x :: xs =>
    if act e then
      let t' :=
        if sel = 0 then
          if isFloat ty then add32 (r.at e) t (widen32 ty x) else (t + x) % 2 ^ (8 * tyBytes ty)
        else minMaxElem ty false (sel = 2) t x
      some (if sel = 0 && isFloat ty then narrow16 ty r (n + e) t' else t') :: scanFrom ty sel n r act (e + 1) t' xs
    else none :: scanFrom ty sel n r act (e + 1) t xs

def State.vscan (s : State) (len : Nat) (px : Prefix) (f : FA) : Except Stop State := do
  let ty := f.fn.toNat
  let w := tyBytes ty
  let sel := f.b.toNat
  let a ← s.srcV f.a (trapA px f)
  let r ← s.vround px
  let st := s.self
  let n := st.count w
  let first := if sel = 0 then (if isFloat ty then minusZero else 0) else minMaxIdentity ty false (sel = 2)
  let out := scanFrom ty sel n r st.active 0 first (elems w n a)
  s.vresult len f.d (putElems w n (st.vreg f.d.toNat) (fun e => (out[e]?).getD none))

/-- The order of keys (R306), as an integer. -/
def sortRank (ty x : Nat) : Int :=
  let w := 8 * tyBytes ty
  if isFloat ty then
    if ((fmtOf ty).value x).isNan then 2 ^ w
    else if x < 2 ^ (w - 1) then x else -((x - 2 ^ (w - 1) : Nat) : Int) - 1
  else toSigned w x

def insertPair (le : Nat × Nat → Nat × Nat → Bool) (x : Nat × Nat) : List (Nat × Nat) → List (Nat × Nat)
  | [] => [x]
  | y :: l => if le x y then x :: y :: l else y :: insertPair le x l

/-- A stable sort. -/
def sortPairs (le : Nat × Nat → Nat × Nat → Bool) (l : List (Nat × Nat)) : List (Nat × Nat) := l.foldr (insertPair le) []

/-- Sort the active pairs of keys a and values a + 1 (09 R306); of the two, both empty, a is met first (log 33). -/
def State.vsortkv (s : State) (len : Nat) (px : Prefix) (f : FA) : Except Stop State := do
  let ty := f.fn.toNat
  let w := tyBytes ty
  let a ← s.srcV f.a (trapA px f)
  let v ← s.srcV (f.a + 1) (trapA px f)
  let st := s.self
  let n := st.count w
  let keys := elems w n a
  let vals := elems w n v
  let pairs := (st.actives n).map (fun e => (el keys e, el vals e))
  let sorted := sortPairs (fun x y =>
    if f.b == 1 then sortRank ty y.1 ≤ sortRank ty x.1 else sortRank ty x.1 ≤ sortRank ty y.1) pairs
  s.destFree (st.vdest (f.d + 1).toNat)
  s.destFree (st.vdest f.d.toNat)
  let put (r : Reg) (g : Nat × Nat → Nat) : List (Option Byte) :=
    (putElems w n (st.vreg r.toNat) (fun e => (sorted[e]?).map g)).map some
  let (t, _) := s.produce (st.vdest f.d.toNat) (put f.d Prod.fst) true
  let (t, _) := t.produce (st.vdest (f.d + 1).toNat) (put (f.d + 1) Prod.snd) true
  return t.advance len

/-- The running sum of each segment (R307): at its last element the sum, elsewhere nothing. -/
def segSums (ty n : Nat) (r : Rnd) (act : Nat → Bool) : Nat → Nat → List (Nat × Nat) → List (Option Nat)
  | _, _, [] => []
  | e, t, (x, b) :: rest =>
    let first := if isFloat ty then minusZero else 0
    let t := if b != 0 then first else t
    let t' := if !act e then t
      else if isFloat ty then add32 (r.at e) t (widen32 ty x) else (t + x) % 2 ^ (8 * tyBytes ty)
    let last := match rest with
      | [] => true
      | y :: _ => y.2 != 0
    (if last then some (if isFloat ty then narrow16 ty r (n + e) t' else t') else none) :: segSums ty n r act (e + 1) t' rest

def State.vsegred (s : State) (len : Nat) (px : Prefix) (f : FA) : Except Stop State := do
  let ty := f.fn.toNat
  let w := tyBytes ty
  let a ← s.srcV f.a (trapA px f)
  let b ← s.srcV f.b (trapB px f)
  let r ← s.vround px
  let st := s.self
  let n := st.count w
  let out := segSums ty n r st.active 0 (if isFloat ty then minusZero else 0) ((elems w n a).zip (elems w n b))
  s.vresult len f.d (putElems w n (st.vreg f.d.toNat) (fun e => (out[e]?).getD none))

/-! ## Memory forms (R308 to R310) -/

/-- The base register of a memory form, and its ordered-element flag (R291). -/
def baseReg (f : FA) : Reg := (f.a.setWidth 5).setWidth 6
def orderedForm (f : FA) : Bool := f.a.getLsbD 5

/-- The translation under which a copy of the vector memory unit, or of its tower's L2, was filled serves an element's load while
the copy stands: no check is repeated (15 R467). -/
def State.elemCopy (s : State) (acc : Access) (a : Word) : Option Trans :=
  if acc != .r then none
  else (s.copies.find? (fun c => (c.holder == .vmu s.self.core || c.holder == .tower s.self.tower) && c.serves s s.crew.asid a &&
    c.read && (c.user || s.self.priv))).map (fun c => ⟨128 * c.line + a.toNat % 128, c.key, c.user, c.read, c.fetch⟩)

/-- Check and translate the elements of a memory form in order (R309). -/
def State.checkElems (s : State) (acc : Access) (w : Nat) : List (Nat × Word) → Except Stop (List (Nat × Word × Trans))
  | [] => .ok []
  | (e, a) :: rest => do
    need (a.toNat % w = 0) ALIGN a
    let t ← match s.elemCopy acc a with
      | some t => .ok t
      | none => s.xlate acc a
    let more ← s.checkElems acc w rest
    return (e, a, t) :: more

/-- A tower's resolver writes the oldest report of use that it has to write into the UO bit of the page's leaf, with an atomic at
the leaf's home (R312, 15 R473). -/
def State.useReport (s : State) (t : Nat) : State :=
  match (s.tower t).uses with
  | [] => s
  | (asid, page, reused) :: rest =>
    let done (u : State) : State := u.setTower t (fun x => { x with uses := rest })
    match s.walk t asid (word (65536 * page)) with
    | .waits p => s.wakeAt p
    | .leaf l _ =>
      match s.moduleWrite (110 + t) l.entry 8 with
      | .error u => u
      | .ok u =>
        let e := leNat (s.bytesAt (s.keyOf l.entryKey) l.entry 8)
        if e.testBit 6 == !reused then done u
        else done (u.writeAt (s.keyOf l.entryKey) l.entry (leBytes 8 (if reused then e - 64 else e + 64)))
    | _ => done s

/-- The vector memory unit reports a page as streamed or reused to the tower that made it resident: the page moves in the tower's
victim queue, and the leaf's UO bit is to follow (R312, 15 R473). -/
def State.reportUse (s : State) (asid : BitVec 16) (reused : Bool) (page : Nat) : State :=
  (List.range 16).foldl (fun s t =>
    match (s.tower t).victims.find? (fun v => v.1 == asid && v.2.1 == page) with
    | none => s
    | some v =>
      let others (l : List (BitVec 16 × Nat × Bool)) := l.filter (fun x => !(x.1 == asid && x.2.1 == page))
      let rest := others (s.tower t).victims
      if v.2.2 && !reused then s
      else s.setTower t (fun x => { x with
        victims := if reused then rest ++ [(asid, page, true)] else (asid, page, false) :: rest
        uses := others x.uses ++ [(asid, page, reused)] })) s

/-- Issue the element accesses of one instruction; vld and vst stream their pages. -/
def State.issueElems (s : State) (opc : BitVec 8) (ordered : Bool) (op : Nat → ReqOp) (ret : Option Nat) (w : Nat)
    (kind : Kind) (l : List (Nat × Word × Trans)) : State :=
  let group := s.serial
  let pages := (l.map (fun x => x.2.1.toNat / 65536)).eraseDups
  let t := pages.foldl (fun t p => t.reportUse s.crew.asid (opc != 0x57 && opc != 0x58) p) s
  l.foldl (fun s x =>
    let r : Req := { id := s.serial, who := s.issuer, pc := s.self.pc, op := op x.1, kind, space := .g, addr := x.2.1, place := some x.2.2.place, key := x.2.2.key, pageUser := x.2.2.user, pageRead := x.2.2.read, pageFetch := x.2.2.fetch, ret := ret.map (fun id => (id, w * x.1)), vector := true, seqAfter := ordered, opc, group }
    { s with reqs := s.reqs ++ [r], serial := s.serial + 1 }) ({ t with serial := s.serial + 1 } : State)

/-- A vector load: the elements it does not load are known at once; one whose checks fail leaves its destination empty
(R309). -/
def State.vload (s : State) (opc : BitVec 8) (f : FA) (addr : Nat → Word) : Except Stop State := do
  let w := tyBytes f.fn.toNat
  let st := s.self
  let act := st.actives (st.count w)
  let dest := st.vdest f.d.toNat
  s.destFree dest
  let l ← s.emptyOnFault dest (s.checkElems .r w (act.map (fun e => (e, addr e))))
  let old := st.vreg f.d.toNat
  let data := old.zipIdx.map (fun b => if act.contains (b.2 / w) then none else some b.1)
  let (t, id) := s.produce dest data true
  return (t.issueElems opc (orderedForm f) (fun _ => .load w false) (some id) w .weak l).advance 4

/-- A vector store. -/
def State.vstore (s : State) (opc : BitVec 8) (f : FA) (addr : Nat → Word) : Except Stop State := do
  let w := tyBytes f.fn.toNat
  let st := s.self
  let d ← s.srcV f.d f.trap
  let l ← s.checkElems .w w ((st.actives (st.count w)).map (fun e => (e, addr e)))
  return (s.issueElems opc (orderedForm f) (fun e => .store (slice d (w * e) w)) none w .weak l).advance 4

/-- Element addresses: unit stride, strided, indexed. -/
def State.unitAddr (s : State) (f : FA) : Except Stop (Nat → Word) := do
  let b ← s.srcG (baseReg f) f.trap
  return fun e => b + word (e * tyBytes f.fn.toNat)
def State.strideAddr (s : State) (f : FA) : Except Stop (Nat → Word) := do
  let b ← s.srcG (baseReg f) f.trap
  let d ← s.srcG f.b f.trap
  return fun e => b + word e * d
def State.indexAddr (s : State) (f : FA) (w : Nat) : Except Stop (Nat → Word) := do
  let b ← s.srcG (baseReg f) f.trap
  let v ← s.srcV f.b f.trap
  let i := elems w (s.self.count w) v
  return fun e => b + word (el i e * w)

/-! ## Mode and length (R288, R289, R294 to R296): collectives of a crew -/

/-- The strands of the crew that have not retired. -/
def State.liveOf (s : State) (id : Nat) : List Strand := (s.strandsOf id).filter (fun st => !st.retired)
/-- Every one of them has arrived in a collective of a kind. -/
def State.allArrived (s : State) (id kind : Nat) : Bool :=
  (s.liveOf id).all (fun st => match st.arrival with
    | some (k, _, _) => k == kind
    | none => false)
/-- The largest operand of the arriving strands. -/
def State.arrivalMax (s : State) (id : Nat) : Nat :=
  (s.liveOf id).foldl (fun m st => max m ((st.arrival.map (fun x => x.2.1.toNat)).getD 0)) 0
/-- Arrive, and go on once all have. -/
def State.collect (s : State) (kind : Nat) (r : Word) (d : Nat) : Except Stop State :=
  let t := s.mapSelf (fun st => { st with arrival := some (kind, r, d) })
  if t.allArrived s.self.crew kind then .ok t else .error t.retry
/-- A change of every strand that arrived; each retires its instruction. -/
def State.release (s : State) (id : Nat) (f : Strand → Strand) : State :=
  s.mapCrew id (fun st => if st.retired then st else { (f st).advance 4 with arrival := none })

def shortMasks : List (List Bool) := List.replicate 32 true :: List.replicate 7 (List.replicate 32 false)

/-- MAXVL for a request (R288, R294). -/
def maxvlFor (size r : Nat) : Nat := min (64 * ((r + 63) / 64)) (64 * (128 / size))

/-- vlong (R294): once every strand has arrived, the crew asks its cluster for capacity and waits for the grant. -/
def State.vlong (s : State) (f : FA) : Except Stop State := do
  need (!s.self.long) MODE s.self.pc
  let r ← s.srcG f.a f.trap
  need (r != 0) ILL_FIELD r
  let t ← s.collect 0 r 0
  let id := s.self.crew
  if t.crew.vlAsked.isSome then .error t.retry
  else
    let ask := maxvlFor t.crew.size (t.arrivalMax id)
    .error (State.retry { (t.setCrew id (fun c => { c with vlAsked := some ask, vlAskedAt := t.serial })) with serial := t.serial + 1 })

/-- VECTOR_CAPACITY_GRANT (R289): in the order of the requests, once enough is free; the crew enters long mode. -/
def execVectorCapacityGrant (s : State) : Host.Outcome State Fault Refusal :=
  let c := s.crewById s.args.unit
  let cluster := clusterOfCore (c.cores.headD 0)
  match c.vlAsked with
  | none => .next s
  | some n =>
    let first := s.crews.all (fun x => x.id == c.id || x.vlAsked.isNone || clusterOfCore (x.cores.headD 0) != cluster ||
      c.vlAskedAt < x.vlAskedAt)
    let room := s.capacityUsed cluster + 512 * c.size * n ≤ 4194304
    if c.saved || !first || !room || !s.allArrived c.id 0 then .next s
    else .next ((s.setCrew c.id (fun c => { c with vlGrant := n, vlAsked := none })).release c.id (fun st =>
      { st with
        long := true, vl := n, v := List.replicate 64 (List.replicate (8 * n) 0), vFull := BitVec.allOnes 64
        m := List.replicate n true :: List.replicate 7 (List.replicate n false) }))

/-- A vector instruction of the crew has not completed: its result is still to come, or an access of it is (R295). -/
def State.vectorBusy (s : State) (id : Nat) : Bool :=
  s.returns.any (fun r => r.crew == id && (r.vector || (match r.dest with
    | .v _ => true
    | _ => false))) || s.reqs.any (fun r => r.who.crew == id && r.vector)

def State.vshort (s : State) : Except Stop State :=
  if !s.self.long then .ok (s.advance 4)
  else do
    let t ← s.collect 1 0 0
    let id := s.self.crew
    if t.vectorBusy id then .error t.retry
    else return (t.setCrew id (fun c => { c with vlGrant := 0 })).release id (fun st =>
      { st with long := false, vl := 0, v := [], vFull := BitVec.allOnes 64, m := shortMasks })

/-- setvl (R296); no rule gives its MODE an address: it is the PC (log 33). -/
def State.setvl (s : State) (f : FA) : Except Stop State := do
  need s.self.long MODE s.self.pc
  let r ← s.srcG f.a f.trap
  s.destFree (.g f.d.toNat)
  let t ← s.collect 2 r f.d.toNat
  let id := s.self.crew
  let n := min (t.arrivalMax id) t.crew.vlGrant
  return t.release id (fun st =>
    { st.setG ((st.arrival.map (fun x => x.2.2)).getD 0) (word n) with vl := n })

/-- vxch (R298); no rule gives its MODE an address: it is the PC (log 33). -/
def State.vxch (s : State) (f : FA) : Except Stop State := do
  need s.self.long MODE s.self.pc
  let p ← s.srcG f.b f.trap
  s.peerOk p
  s.destFree (.v f.d.toNat)
  let _ ← s.srcV f.a f.trap
  s.rendezvous p f.d.toNat (f.fn.toNat + 8) f.a.toNat

/-! ## The instructions -/

def execVlong (f : FA) (s : State) := finish s (s.vlong f)
def execVshort (_f : FA) (s : State) := finish s s.vshort
def execSetvl (f : FA) (s : State) := finish s (s.setvl f)
def execMset (f : FA) (s : State) := finish s (s.mset f)
def execMpop (f : FA) (s : State) := finish s (s.mpop f)
def execVxch (f : FA) (s : State) := finish s (s.vxch f)
def execVidx (f : FA) (s : State) := finish s (s.vidx f)
def execVld (f : FA) (s : State) := finish s (do s.vload 0x57 f (← s.unitAddr f))
def execVst (f : FA) (s : State) := finish s (do s.vstore 0x58 f (← s.unitAddr f))
def execVlds (f : FA) (s : State) := finish s (do s.vload 0x59 f (← s.strideAddr f))
def execVsts (f : FA) (s : State) := finish s (do s.vstore 0x5A f (← s.strideAddr f))
def execVldx (f : FA) (s : State) := finish s (do s.vload 0x5B f (← s.indexAddr f (tyBytes f.fn.toNat)))
def execVstx (f : FA) (s : State) := finish s (do s.vstore 0x5C f (← s.indexAddr f (tyBytes f.fn.toNat)))
def execVadd (f : FA) (s : State) := finish s (s.vadd 4 {} f)
def execVsub (f : FA) (s : State) := finish s (s.vsub 4 {} f)
def execVmul (f : FA) (s : State) := finish s (s.vmul 4 {} f)
def execVmulhI (f : FA) (s : State) := finish s (s.vmulh 4 {} f true)
def execVmulhN (f : FA) (s : State) := finish s (s.vmulh 4 {} f false)
def execVfma (f : FA) (s : State) := finish s (s.vfma 4 {} f)
def execVdiv (f : FA) (s : State) := finish s (s.vdiv 4 {} f)
def execVdivN (f : FA) (s : State) := finish s (s.vdivN 4 {} f)
def execVmin (f : FA) (s : State) := finish s (s.vminmax 4 {} f false false)
def execVminN (f : FA) (s : State) := finish s (s.vminmax 4 {} f true false)
def execVmax (f : FA) (s : State) := finish s (s.vminmax 4 {} f false true)
def execVmaxN (f : FA) (s : State) := finish s (s.vminmax 4 {} f true true)
def execVand (f : FA) (s : State) := finish s (s.vlogic 4 {} f (· &&& ·))
def execVor (f : FA) (s : State) := finish s (s.vlogic 4 {} f (· ||| ·))
def execVxor (f : FA) (s : State) := finish s (s.vlogic 4 {} f (· ^^^ ·))
def execVandn (f : FA) (s : State) := finish s (s.vlogic 4 {} f (fun x y => x &&& ~~~y))
def execVorn (f : FA) (s : State) := finish s (s.vlogic 4 {} f (fun x y => x ||| ~~~y))
def execVxnor (f : FA) (s : State) := finish s (s.vlogic 4 {} f (fun x y => ~~~(x ^^^ y)))
def execVshl (f : FA) (s : State) := finish s (s.vshift 4 {} f 0)
def execVshr (f : FA) (s : State) := finish s (s.vshift 4 {} f 1)
def execVsar (f : FA) (s : State) := finish s (s.vshift 4 {} f 2)
def execVcmp (f : FA) (s : State) := finish s (s.vcmp 4 {} f)
def execVsel (f : FA) (s : State) := finish s (s.vsel 4 {} f)
def execVmov (f : FA) (s : State) := finish s (s.vmov 4 {} f)
def execVabs (f : FA) (s : State) := finish s (s.vsign 4 {} f false)
def execVneg (f : FA) (s : State) := finish s (s.vsign 4 {} f true)
def execVexp2 (f : FA) (s : State) := finish s (s.vfunc 4 {} f FV.exp2)
def execVlog2 (f : FA) (s : State) := finish s (s.vfunc 4 {} f FV.log2)
def execVrecip (f : FA) (s : State) := finish s (s.vfunc 4 {} f FV.recip)
def execVsqrt (f : FA) (s : State) := finish s (s.vfunc 4 {} f FV.sqrt)
def execVrsqrt (f : FA) (s : State) := finish s (s.vfunc 4 {} f FV.rsqrt)
def execVact (f : FA) (s : State) := finish s (s.vfunc 4 {} f (if f.b == 1 then FV.sigmoid else FV.tanh))
def execVperm (f : FA) (s : State) := finish s (s.vperm 4 {} f)
def execVslide (f : FA) (s : State) := finish s (s.vslide 4 {} f)
def execVcompress (f : FA) (s : State) := finish s (s.vcompress 4 {} f)
def execVexpand (f : FA) (s : State) := finish s (s.vexpand 4 {} f)
def execVredsum (f : FA) (s : State) := finish s (s.vredsum 4 {} f false)
def execVredsumO (f : FA) (s : State) := finish s (s.vredsum 4 {} f true)
def execVredmm (f : FA) (s : State) := finish s (s.vredmm 4 {} f)
def execVscan (f : FA) (s : State) := finish s (s.vscan 4 {} f)
def execVsortkv (f : FA) (s : State) := finish s (s.vsortkv 4 {} f)
def execVsegred (f : FA) (s : State) := finish s (s.vsegred 4 {} f)

end Sys2Proof.Machine
end

