-- ==== Sys2Proof/Machine/Rotator.lean ====
section
/-! DEFINITION. Rotator.lean: the signed block Hadamard rotation (03 R110 to R123) and the rotator's instructions,
opcodes 0x8C to 0x97 (11 R342 to R361). -/

namespace Sys2Proof.Machine

/-! ## Packed elements (R345) -/

/-- The first `n` elements of `bits` bits. -/
def codes (bits n : Nat) (bs : List Byte) : List Nat :=
  if 8 ≤ bits then elems (bits / 8) n bs
  else (bs.flatMap (fun b => (List.range (8 / bits)).map (fun i => b.toNat / 2 ^ (bits * i) % 2 ^ bits))).take n

/-- A register with its first `n` elements of `bits` bits replaced where a new value is given. -/
def putCodes (bits n : Nat) (old : List Byte) (f : Nat → Option Nat) : List Byte :=
  if 8 ≤ bits then putElems (bits / 8) n old f
  else
    let per := 8 / bits
    old.zipIdx.map (fun b => BitVec.ofNat 8 ((List.range per).foldl (fun t i =>
      let e := per * b.2 + i
      let was := b.1.toNat / 2 ^ (bits * i) % 2 ^ bits
      t + (if e < n then (f e).getD was else was) * 2 ^ (bits * i)) 0))

/-! ## The rotation (03 R111, R112, R116) -/

/-- The sign of an axis position under a seed is −1 (R111). -/
def flips (seed pos : Word) : Bool := (mix64 (seed + pos)).msb
def Q.zero : Q := ⟨0, 1, 0⟩
def FV.exact : FV → Q
  | .fin q => q
  | _ => .zero
def qAt (l : List Q) (i : Nat) : Q := (l[i]?).getD .zero
/-- One butterfly stage. -/
def butterfly (l : List Q) (h : Nat) : List Q :=
  (List.range 32).map (fun j =>
    if j / h % 2 = 0 then (qAt l j).add (qAt l (j + h)) else (qAt l (j - h)).add (qAt l j).neg)
/-- The five stages. -/
def hadamard (l : List Q) : List Q := [1, 2, 4, 8, 16].foldl butterfly l
/-- The signs of a block's positions. -/
def signs (seed pos0 : Word) (l : List Q) : List Q :=
  l.zipIdx.map (fun x => if flips seed (pos0 + word x.2) then x.1.neg else x.1)

/-- The weight exponent e − 24 of a block (R112). -/
def blockExp (l : List Q) : Option Int := ((l.filter (fun q => q.n != 0)).map (fun q => q.log2 - 24)).max?
/-- |x| cut to whole units of 2^u, with its sign. -/
def Q.cut (x : Q) (u : Int) : Int := let m := (x.units u).1; if x.n < 0 then -(m : Int) else m

/-- RotateBlock (R112): the outputs y · w. -/
def rotateBlock (seed pos0 : Word) (l : List Q) : List Q :=
  match blockExp l with
  | none => l
  | some u => (hadamard (signs seed pos0 (l.map (fun q => ⟨q.cut u, 1, 0⟩)))).map (fun q => q.scale u)
/-- The rotation of exact integers (R113). -/
def rotateInts (seed pos0 : Word) (l : List Int) : List Int :=
  (hadamard (signs seed pos0 (l.map (fun x => ⟨x, 1, 0⟩)))).map (·.n)
/-- UnrotateBlock up to its rounding (R116): the values x before Round. -/
def unrotateBlock (seed pos0 : Word) (z : List Q) : List Q :=
  (signs seed pos0 (hadamard z)).map (fun q => q.scale (-5))

/-! ## Blocks narrowed and widened (03 R113 to R122) -/

/-- What a block is converted under: rounding, tag, its seed, its origin. -/
structure BlockCtx where
  r : Rnd
  tag : Nat
  seed : Word
  pos0 : Word

/-- The rounding of position `k`. -/
def BlockCtx.rnd (c : BlockCtx) (k : Nat) : Rnd := { c.r with idx := c.pos0 + word k }
/-- The values of a block after the rotation its tag asks for. An output that cancels to exact zero is +0.0 in every rounding
mode: the spec says so of the inverse alone (03 R116; log 34). -/
def BlockCtx.values (c : BlockCtx) (x : List FV) : List FV :=
  if c.tag = 0 then x else (rotateBlock c.seed c.pos0 (x.map FV.exact)).map (fun q => .ofQ q)
def FV.isFinite : FV → Bool
  | .nan => false
  | .inf _ => false
  | _ => true
def FV.isZero : FV → Bool
  | .zero _ => true
  | _ => false
/-- x · 2^k. -/
def FV.scale (x : FV) (k : Int) : FV :=
  match x with
  | .fin q => .fin (q.scale k)
  | v => v
/-- The largest of floor(log2 |v|). -/
def topExp (l : List FV) : Option Int := ((l.filter (fun v => !v.isZero)).map (fun v => v.exact.log2)).max?
def allCodes (c : Nat) : List Nat := List.replicate 32 c

/-- Narrowing to E2M1: the codes and the E8M0 code (R113, R120, R121). -/
def narrowE2m1 (c : BlockCtx) (x : List FV) : List Nat × Nat :=
  if !x.all FV.isFinite then (allCodes 0, 0xFF)
  else
    let v := c.values x
    match topExp v with
    | none => (allCodes 0, 0)
    | some t =>
      let k := max (-127) (min 127 (t - 2))
      (v.zipIdx.map (fun y => e2m1.round (c.rnd y.2) (y.1.scale (-k))), (127 + k).toNat)

/-- Narrowing to an FP8 format under the scale σ (R113, R114, R120, R121). -/
def narrowFp8 (fmt : Fmt) (c : BlockCtx) (sigma : FV) (x : List FV) : List Nat :=
  if c.tag != 0 && !x.all FV.isFinite then allCodes (fmt.nan.getD 0)
  else if x.all FV.isZero then allCodes 0
  else (c.values x).zipIdx.map (fun y => fmt.round (c.rnd y.2) (y.1.div sigma))

/-- The E8M0-style power of two that brings the block's largest magnitude to at most `top` (R356). -/
def scaleFor (c : BlockCtx) (top : Nat) (x : List FV) : Nat :=
  if !x.all FV.isFinite then fp32.round rne (.ofInt 1)
  else
    let ks := ((c.values x).filter (fun v => !v.isZero)).map (fun v =>
      let q := v.exact.mul ⟨1, top, 0⟩
      let l := q.log2
      if (q.units l).2.1 = 0 then l else l + 1)
    match ks.max? with
    | none => fp32.round rne (.ofInt 1)
    | some k => fp32.round rne (.fin ⟨1, 1, k⟩)

/-- Widening under an exact scale into a format (R116, R117, R122). -/
def widenBlock (fmt : Fmt) (c : BlockCtx) (scale : FV) (q : List FV) : List Nat :=
  if scale.isNan || (c.tag != 0 && !q.all FV.isFinite) then allCodes (fmt.nan.getD 0)
  else if c.tag = 0 then q.zipIdx.map (fun y => fmt.round (c.rnd y.2) (y.1.mul scale))
  else (unrotateBlock c.seed c.pos0 (q.map (fun v => v.exact.mul scale.exact))).zipIdx.map
    (fun y => fmt.round (c.rnd y.2) (.ofQ y.1))

/-- An E8M0 code's value, a NaN for 0xFF (03 R84). -/
def e8m0Value (c : Nat) : FV :=
  match e8m0 c with
  | some k => .fin ⟨1, 1, k⟩
  | none => .nan

def bitLength (n : Nat) : Nat := if n = 0 then 0 else Nat.log2 n + 1
/-- The shift of an integer narrowing into `b` magnitude bits (R113). -/
def shiftFor (b : Nat) (y : List Int) : Nat := bitLength ((y.map Int.natAbs).foldl max 0) - b
/-- Clamp into −m … m. -/
def clampTo (m : Int) (x : Int) : Int := max (-m) (min m x)
/-- Round x · 2^k to an integer. -/
def BlockCtx.toInt (c : BlockCtx) (i : Nat) (x : Q) : Int := if x.n = 0 then 0 else (c.rnd i).toInt x

/-- cvti.i8.i16 on a block (R361). -/
def narrowI8 (c : BlockCtx) (x : List Int) : List Nat × Nat :=
  if c.tag = 0 then (x.map (intSat 8 true c.r.sat), 0x7F)
  else if x.all (· == 0) then (allCodes 0, 0)
  else
    let y := rotateInts c.seed c.pos0 x
    let k := shiftFor 7 y
    (y.zipIdx.map (fun v => ofSigned 8 (clampTo 127 (c.toInt v.2 ⟨v.1, 1, -(k : Int)⟩))), 127 + k)

/-- cvti.t2.i8 on a block whose source code is `c8` (R361). -/
def narrowT2 (c : BlockCtx) (c8 : Nat) (x : List Int) : List Nat × Nat :=
  if c8 = 0xFF || x.all (· == 0) then (allCodes 0, c8)
  else
    let k := shiftFor 1 x
    (x.zipIdx.map (fun v => ofSigned 2 (clampTo 1 (c.toInt v.2 ⟨v.1, 1, -(k : Int)⟩))), min (c8 + k) 0xFE)

/-- cvti.i16.i8 on a block whose code is `cj` (R361). -/
def widenI16 (c : BlockCtx) (cj : Nat) (x : List Int) : List Nat :=
  match e8m0 cj with
  | none => allCodes 0
  | some k =>
    let z := x.map (fun v => (⟨v, 1, k⟩ : Q))
    let u := if c.tag = 0 then z else unrotateBlock c.seed c.pos0 z
    u.zipIdx.map (fun y => ofSigned 16 (clampInt 16 true (c.toInt y.2 y.1)))

/-! ## Blocks of a vector (R343, R347) -/

/-- The tag of a conversion: SLOT, or ROT when SLOT is 0. -/
def Strand.tag (st : Strand) (px : Prefix) : Nat := if px.slot != 0 then px.slot.toNat else st.rot.toNat
/-- The seed of a slot; slot 0 reads zero (R342). -/
def Strand.seed (st : Strand) (t : Nat) : Word := if t = 0 then 0 else (st.sd[t]?).getD 0

/-- A processed block: its relative number and, for each position, the covered active element that stands there. -/
structure Block where
  j : Nat
  es : List (Option Nat)

/-- The processed blocks of `n` elements whose first has the axis position `off` in its block. -/
def blocksOf (off n : Nat) (act : Nat → Bool) : List Block :=
  (((List.range ((off + n + 31) / 32)).map (fun j => ({ j := j, es := (List.range 32).map (fun k =>
      let i := 32 * j + k
      if off ≤ i && i < off + n && act (i - off) then some (i - off) else none) } : Block)))).filter
    (fun b => b.es.any Option.isSome)

/-- The source codes of a block, zero where no covered active element stands. -/
def Block.source (b : Block) (x : List Nat) : List Nat := b.es.map (fun e => (e.map (el x)).getD 0)

/-- A code written for element `e`, from the blocks' results. -/
def codeFor (off : Nat) (outs : List (Nat × List Nat)) (e : Nat) : Option Nat :=
  let i := off + e
  (outs.find? (fun o => o.1 == i / 32)).map (fun o => el o.2 (i % 32))

/-- The scale register (R346). -/
def scaleReg : Reg := 63
/-- FP8 scale `j` of v63, a word; an E8M0 code, a byte. -/
def sigmaAt (v63 : List Byte) (j : Nat) : Nat := field v63 (4 * j) 4
def codeAt (v63 : List Byte) (j : Nat) : Nat := field v63 j 1
/-- A valid FP8 scale is positive and finite (03 R107). -/
def sigmaOk (c : Nat) : Bool := 0 < c && c < 0x7F800000

/-- SAT 0 selects max (R350). -/
def State.rround (s : State) (px : Prefix) : Except Stop Rnd := do
  let r ← s.vround px
  return { r with sat := if px.sat == 0 then 2 else px.sat.toNat }

/-- How a block-based form uses v63: whether it reads it, whether its FP8 scales are checked, and the bytes of a slot
it writes (R346, R350). -/
structure ScaleUse where
  reads : Bool := false
  checked : Bool := false
  writes : Nat := 0

/-- A block-based form: source and destination element widths, its use of v63, and what it makes of a block, given v63's
bytes, the block's number and its source codes: the new codes and the slot it writes. No rule gives its MODE in short mode an
address: it is the PC (log 33). -/
def State.convert (s : State) (len : Nat) (px : Prefix) (f : FA) (sw dw : Nat) (u : ScaleUse)
    (g : BlockCtx → List Byte → Nat → List Nat → List Nat × Nat) : Except Stop State := do
  need s.self.long MODE s.self.pc
  let a ← s.srcV f.a (trapA px f)
  let v63 ← if u.reads then s.srcV scaleReg (trapB px f) else .ok (s.self.vreg 63)
  let r ← s.rround px
  let st := s.self
  let n := st.vl
  let off := r.idx.toNat % 32
  let x := codes sw n a
  let bs := blocksOf off n st.active
  match bs.find? (fun b => u.checked && !sigmaOk (sigmaAt v63 b.j)) with
  | some b => .error (.fault SCALE_INVALID (word b.j))
  | none => .ok ()
  s.destFree (.v f.d.toNat)
  if u.writes = 0 then .ok () else s.destFree (.v 63)
  let t := st.tag px
  let outs := bs.map (fun b => (b.j, g ⟨r, t, st.seed t, r.idx - word off + word (32 * b.j)⟩ v63 b.j (b.source x)))
  let codesOut := outs.map (fun o => (o.1, o.2.1))
  let d := putCodes dw n (st.vreg f.d.toNat) (fun e => if st.active e then codeFor off codesOut e else none)
  let s1 := (s.produce (.v f.d.toNat) (d.map some)).1
  let w63 := outs.foldl (fun v o => splice v (u.writes * o.1) (leBytes u.writes o.2.2)) v63
  let s2 := if u.writes = 0 then s1 else (s1.produce (.v 63) (w63.map some)).1
  return s2.advance len

/-- An element-by-element form; N is the count of the wider type (R348). -/
def State.convertEach (s : State) (len : Nat) (px : Prefix) (f : FA) (sw dw n : Nat) (op : Rnd → Nat → Nat) :
    Except Stop State := do
  let a ← s.srcV f.a (trapA px f)
  let r ← s.rround px
  let st := s.self
  let x := codes sw n a
  s.vresult len f.d (putCodes dw n (st.vreg f.d.toNat) (fun e => if st.active e then some (op (r.at e) (el x e)) else none))

/-! ## Seeds and tags (R352) -/

def State.seedSet (s : State) (f : FA) : Except Stop State := do
  let a ← s.srcG f.a f.trap
  return s.mapSelf (fun st => { st with sd := st.sd.setIfInBounds f.d.toNat a }.advance 4)
def execSeed (f : FA) (s : State) := finish s (s.seedSet f)

def execSeedq (f : FA) (s : State) := finish s (s.result f.d 4 (s.self.seed f.a.toNat))

def State.srseed (s : State) (f : FA) : Except Stop State := do
  let a ← s.srcG f.a f.trap
  return s.mapSelf (fun st => { st with srs := mix64 a, eidx := 0 }.advance 4)
def execSrseed (f : FA) (s : State) := finish s (s.srseed f)

def State.rtag (s : State) (f : FA) : Except Stop State := do
  let a ← s.srcG f.a f.trap
  let b ← s.srcG f.b f.trap
  need (b.toNat ≤ 15) ILL_FIELD b
  s.result f.d 4 (a &&& ~~~((0xF : Word) <<< 56) ||| b <<< 56)
def execRtag (f : FA) (s : State) := finish s (s.rtag f)

/-! ## Narrowing and widening (R354 to R359) -/

/-- The FP8 format of fn 1 or 2. -/
def fp8Of (fn : BitVec 3) : Fmt := if fn == 1 then e4m3 else e5m2

def State.cvtn (s : State) (len : Nat) (px : Prefix) (f : FA) : Except Stop State :=
  if f.fn == 0 then s.convertEach len px f 32 16 (s.self.count 4) (fun r x => bf16.round r (fp32.value x))
  else if f.fn == 3 then
    s.convert len px f 8 4 { reads := true, checked := true, writes := 1 } (fun c v63 j x =>
      let sigma := fp32.value (sigmaAt v63 j)
      narrowE2m1 { c with tag := 0 } (x.map (fun q => (e4m3.value q).mul sigma)))
  else
    s.convert len px f 16 8 { reads := true, checked := true } (fun c v63 j x =>
      (narrowFp8 (fp8Of f.fn) c (fp32.value (sigmaAt v63 j)) (x.map bf16.value), 0))
def execCvtn (f : FA) (s : State) := finish s (s.cvtn 4 {} f)

def State.cvtnF (s : State) (len : Nat) (px : Prefix) (f : FA) : Except Stop State :=
  s.convert len px f 32 4 { writes := 1 } (fun c _ _ x => narrowE2m1 c (x.map fp32.value))
def execCvtnF (f : FA) (s : State) := finish s (s.cvtnF 4 {} f)

def State.cvtw (s : State) (len : Nat) (px : Prefix) (f : FA) : Except Stop State :=
  if f.fn == 0 then s.convertEach len px f 16 32 (s.self.count 4) (fun _ x => fp32.round rne (bf16.value x))
  else if f.fn == 3 then
    s.convert len px f 4 8 { reads := true, writes := 4 } (fun _ v63 j x =>
      match e8m0 (codeAt v63 j) with
      | none => (allCodes 0x7F, fp32.round rne (.ofInt 1))
      | some k => (x.map (fun q => e4m3.round rne (e2m1.value q)), fp32.round rne (.fin ⟨1, 1, k⟩)))
  else
    s.convert len px f 8 16 { reads := true, checked := true } (fun c v63 j x =>
      (widenBlock bf16 c (fp32.value (sigmaAt v63 j)) (x.map (fp8Of f.fn).value), 0))
def execCvtw (f : FA) (s : State) := finish s (s.cvtw 4 {} f)

def State.cvtwF (s : State) (len : Nat) (px : Prefix) (f : FA) : Except Stop State :=
  s.convert len px f 4 32 { reads := true } (fun c v63 j x =>
    (widenBlock fp32 c (e8m0Value (codeAt v63 j)) (x.map e2m1.value), 0))
def execCvtwF (f : FA) (s : State) := finish s (s.cvtwF 4 {} f)

/-- qscale writes one scale per processed block into vd (R356). -/
def State.qscale (s : State) (len : Nat) (px : Prefix) (f : FA) : Except Stop State := do
  need s.self.long MODE s.self.pc
  let a ← s.srcV f.a (trapA px f)
  let r ← s.vround px
  let st := s.self
  let n := st.vl
  let off := r.idx.toNat % 32
  let mx := f.fn == 3
  let x := codes (if mx then 32 else 16) n a
  let t := st.tag px
  let w := if mx then 1 else 4
  s.vresult len f.d ((blocksOf off n st.active).foldl (fun v b =>
    let c : BlockCtx := ⟨r, t, st.seed t, r.idx - word off + word (32 * b.j)⟩
    let scale :=
      if mx then (narrowE2m1 c ((b.source x).map fp32.value)).2
      else scaleFor c (if f.fn == 1 then 448 else 57344) ((b.source x).map bf16.value)
    splice v (w * b.j) (leBytes w scale)) (st.vreg f.d.toNat))
def execQscale (f : FA) (s : State) := finish s (s.qscale 4 {} f)

/-! ## Rotating without narrowing (R360) -/

/-- rotv and unrotv on one block; an exact zero is +0.0, as in `BlockCtx.values` (log 34). -/
def rotateSame (fmt : Fmt) (inverse : Bool) (c : BlockCtx) (x : List Nat) : List Nat :=
  let v := x.map fmt.value
  if c.tag = 0 then x
  else if !v.all FV.isFinite then allCodes (fmt.nan.getD 0)
  else
    let y := (if inverse then unrotateBlock else rotateBlock) c.seed c.pos0 (v.map FV.exact)
    y.zipIdx.map (fun q => fmt.round (c.rnd q.2) (.ofQ q.1))

def State.rotv (s : State) (len : Nat) (px : Prefix) (f : FA) (inverse : Bool) : Except Stop State :=
  let w := 8 * tyBytes f.fn.toNat
  s.convert len px f w w {} (fun c _ _ x => (rotateSame (fmtOf f.fn.toNat) inverse c x, 0))
def execRotv (f : FA) (s : State) := finish s (s.rotv 4 {} f false)
def execUnrotv (f : FA) (s : State) := finish s (s.rotv 4 {} f true)

/-! ## Integer conversions (R361) -/

/-- The i8 value of a ternary code, 0b10 reading as 0 (03 R89). -/
def t2Value (c : Nat) : Nat := if c = 1 then 1 else if c = 3 then 0xFF else 0

def State.cvti (s : State) (len : Nat) (px : Prefix) (f : FA) : Except Stop State :=
  match f.fn.toNat with
  | 0 => s.convertEach len px f 32 16 (s.self.count 4) (fun r x => intSat 16 true r.sat (toSigned 32 x))
  | 1 => s.convert len px f 16 8 { writes := 1 } (fun c _ _ x => narrowI8 c (x.map (toSigned 16)))
  | 2 => s.convert len px f 8 2 { reads := true, writes := 1 } (fun c v63 j x =>
      narrowT2 c (codeAt v63 j) (x.map (toSigned 8)))
  | 4 => s.convertEach len px f 16 32 (s.self.count 4) (fun _ x => ofSigned 32 (toSigned 16 x))
  | 5 => s.convert len px f 8 16 { reads := true } (fun c v63 j x => (widenI16 c (codeAt v63 j) (x.map (toSigned 8)), 0))
  | _ => do
    need s.self.long MODE s.self.pc
    s.convertEach len px f 2 8 s.self.vl (fun _ x => t2Value x)
def execCvti (f : FA) (s : State) := finish s (s.cvti 4 {} f)

end Sys2Proof.Machine
end

