-- ==== Sys2Proof/Machine/Matrix.lean ====
section
/-! DEFINITION. Matrix.lean: the matrix engine's instructions, opcodes 0x98 to 0xA7, its commands' execution and the
slew limiter (12 R363 to R392, 03 R105 to R109). -/

namespace Sys2Proof.Machine

/-! ## Accumulators (R363) -/

def Strand.acc (st : Strand) (n : Nat) : Sparse (BitVec 32) := if n = 0 then st.acc0 else st.acc1
/-- Element (i, j) of a strand's accumulator. -/
def State.accAt (s : State) (w : Issuer) (n i j : Nat) : Nat :=
  (sget 0 (((s.strandAt w.crew w.idx).map (fun st => st.acc n)).getD []) (128 * i + j)).toNat
/-- Replace an accumulator, element by element. -/
def State.setAcc (s : State) (w : Issuer) (n : Nat) (f : Nat → Nat → Nat) : State :=
  let a : Sparse (BitVec 32) := (List.range 16384).filterMap (fun e =>
    let v := BitVec.ofNat 32 (f (e / 128) (e % 128))
    if v = 0 then none else some (e, v))
  s.mapStrand w.crew w.idx (fun st => if n = 0 then { st with acc0 := a } else { st with acc1 := a })
/-- fn[0] names the accumulator (R370). -/
def accOf (f : FA) : Nat := f.fn.toNat % 2

/-! ## Tile descriptors (R366 to R368) -/

structure Tile where
  addr : Word
  base : Word
  fmt : Nat
  tag : Nat
  width : Nat
  space : Nat
  clean : Bool
  pitch : Nat
  rows : Nat
  cols : Nat

def tileOf (addr : Word) (bs : List Byte) : Tile :=
  let w := field bs 8 8
  { addr, base := leWord (slice bs 0 8), fmt := bitsOf w 63 60, tag := bitsOf w 59 56, width := bitsOf w 55 51
    space := bitsOf w 50 49, clean := bitsOf w 48 0 == 0 && field bs 0x18 8 == 0, pitch := field bs 0x10 4
    rows := field bs 0x14 2, cols := field bs 0x16 2 }

/-- An element's width in bits. -/
def Tile.bits (t : Tile) : Nat :=
  match t.fmt with
  | 0 => t.width + 1
  | 1 => t.width + 1
  | 2 => 2
  | 4 => 32
  | 5 => 16
  | 8 => 4
  | _ => 8
def Tile.rowBytes (t : Tile) : Nat := (t.cols * t.bits + 7) / 8
/-- R367. -/
def Tile.valid (t : Tile) (dest : Bool) : Bool :=
  t.clean && t.space ≤ 1 && t.rows != 0 && t.cols != 0 &&
    (if t.fmt ≤ 1 then t.width == 7 || t.width == 31 else t.width == 0) &&
    t.base.toNat % 16 == 0 && t.pitch % 16 == 0 && !(dest && 1 < t.rows && t.pitch < t.rowBytes)
/-- The bytes an element is read or written with. -/
def Tile.unit (t : Tile) : Nat := max 1 (t.bits / 8)
/-- The address of the byte or bytes that hold element `k` of row `r`. -/
def Tile.at (t : Tile) (r k : Nat) : Word := t.base + word (r * t.pitch + k * t.bits / 8)

/-- Check 6 of R373: every element of a tile, in row and then element order. -/
def State.tileSpots (s : State) (w : Issuer) (acc : Access) (t : Tile) : Except CmdStop (List Spot) :=
  ((List.range t.rows).flatMap (fun r => (List.range t.cols).map (fun k => t.at r k))).mapM
    (fun a => s.spot w (if t.space = 0 then 0 else 3) acc t.unit a)

/-- The spans of a tile in T space. -/
def State.tileT (s : State) (w : Issuer) (t : Tile) : List (Nat × Nat) :=
  if t.space = 1 then s.spansT w t.rowBytes ((List.range t.rows).map (fun r => (t.at r 0).toNat)) else []

/-- A tile's element codes, row by row. -/
def State.tileCodes (s : State) (c : Cmd) (t : Tile) (xs : List Spot) : Except CmdStop (List Nat) := do
  let bs ← xs.mapM (s.sourceRead c t.unit)
  return bs.zipIdx.map (fun b =>
    let x := leNat b.1
    if t.bits = 4 then (if b.2 % t.cols % 2 = 0 then x % 16 else x / 16) else x)

/-- The format of a tile's floating elements. -/
def tileFmt (code : Nat) : Fmt :=
  match code with
  | 4 => fp32
  | 5 => bf16
  | 6 => e4m3
  | 7 => e5m2
  | _ => e2m1

/-! ## Promotion (03 R105 to R108) -/

def groupSize (fmt : Nat) : Nat := if fmt = 5 || fmt = 8 then 32 else 128

/-- PromoteGroup (03 R106): an FP32 code. -/
def promoteGroup (a b : List FV) (scale : FV) (fold : Bool) : Nat :=
  let ps := (a.zip b).map (fun x => x.1.mul x.2)
  let pos := ps.any (· == .inf false)
  let neg := ps.any (· == .inf true)
  if ps.any FV.isNan || scale.isNan || (pos && neg) then fp32.round rne .nan
  else if pos || neg then fp32.round rne (.inf neg)
  else match topExp ps with
    | none => 0
    | some e =>
      let sum := ps.foldl (fun t p => t + p.exact.cut (e - 48)) 0
      if sum = 0 then 0
      else fp32.round rne (.fin (((⟨sum, 1, e - 48⟩ : Q).mul scale.exact).scale (if fold then -5 else 0)))

/-- A product's operands, as read. -/
structure Product where
  m : Nat
  n : Nat
  k : Nat
  fmtA : Nat
  fmtB : Nat
  a : List Nat
  b : List Nat
  fold : Bool
  ov : Bool
  /-- Scale of group q for row m and column n (R376). -/
  scale : Nat → Nat → Nat → FV

/-- The codes of group `q` of row `r`. -/
def Product.group (p : Product) (x : List Nat) (r q : Nat) : List Nat :=
  let gs := groupSize p.fmtA
  (x.drop (r * p.k + q * gs)).take (min gs (p.k - q * gs))
def Product.groups (p : Product) : Nat := (p.k + groupSize p.fmtA - 1) / groupSize p.fmtA

/-- One group added to an accumulator element's code (R375). -/
def Product.step (p : Product) (m n : Nat) (acc q : Nat) : Nat :=
  let fresh := p.ov && q = 0
  let a := p.group p.a m q
  let b := p.group p.b n q
  if p.fmtA = 0 then
    let sum := (a.zip b).foldl (fun t x => t + toSigned 8 x.1 * toSigned 8 x.2) 0
    ofSigned 32 ((if fresh then 0 else toSigned 32 acc) + sum)
  else
    let g := promoteGroup (a.map (tileFmt p.fmtA).value) (b.map (tileFmt p.fmtB).value) (p.scale q m n) p.fold
    fp32.round rne ((if fresh then .zero false else fp32.value acc).add 1 (fp32.value g))

def Product.element (p : Product) (m n acc : Nat) : Nat := (List.range p.groups).foldl (p.step m n) acc

/-! ## The scales of a product (R376) -/

/-- The byte offsets of the scales of A and B for group q, row m and column n. -/
def scaleOffA (fp8 : Bool) (m q r : Nat) : Nat := if fp8 then 4 * (q * m + r) else q * m + r
def scaleOffB (fp8 : Bool) (g m n q c : Nat) : Nat :=
  if fp8 then 4 * (g * m + q * ((n + 127) / 128) + c / 128) else g * m + q * n + c

/-- Check 5: range, then validity, in ascending offset. -/
def scaleFault (fp8 : Bool) (v63 : List Byte) (offs : List Nat) : Option (BitVec 8 × Nat) :=
  offs.findSome? (fun o =>
    if v63.length < o + (if fp8 then 4 else 1) then some (ILL_FIELD, o)
    else if fp8 && !sigmaOk (field v63 o 4) then some (SCALE_INVALID, o)
    else none)

/-! ## The unit and its holder (R364) -/

def State.cmdCore (s : State) (c : Cmd) : Nat := coreOfSlot (s.slotOf c.who)

/-- The command's strand is, or becomes, the unit's holder; another holder's crew is asked to stop. -/
def State.takeUnit (s : State) (c : Cmd) : Except State State :=
  let k := s.cmdCore c
  let tag := c.who.crew * 256 + c.who.idx + 1
  match s.unitHolder k with
  | some st => if st.tagOf == tag then .ok s else .error (s.askStop st.crew)
  | none => .ok (s.setCore k (fun x => { x with holder := tag }))

/-- Mark how far a command has come. -/
def State.stageCmd (s : State) (q : QueueRef) (c : Cmd) (n : Nat) : State :=
  s.setQueue q (fun x => { x with cmds := x.cmds.map (fun e => if e.seq == c.seq then { e with stage := max n e.stage } else e) })

/-- The turn of a matrix command at the head of a queue. -/
def State.matrixTurn (s : State) (want : Instr → Bool) (body : State → QueueRef → Cmd → Except CmdStop State) : State :=
  s.commandTurn (s.headCmd s.args.unit 2) (fun c => want c.op) (fun q c =>
    match s.takeUnit c with
    | .error t => t
    | .ok t =>
      let u := t.stageCmd q c 1
      u.finishCommand q c (body u q c))

/-! ## Products (R375 to R378) -/

/-- The check of a product's descriptors: check 2 (R367, R368, R377), check 3 (R368), check 4 (R378). For check 2 the spec
does not choose the descriptor: each one's form comes first, A's before B's, then A's size, B's size, and a K that is no
multiple of 32 is A's (log 33). -/
def productChecks (a b : Tile) (coop scaled : Bool) : Except CmdStop Unit := do
  needCmd (a.valid false) ILL_FIELD a.addr
  needCmd (b.valid false) ILL_FIELD b.addr
  needCmd (a.rows ≤ if coop then 256 else 128) ILL_FIELD a.addr
  needCmd (b.cols = a.cols && b.rows ≤ if coop then 512 else 128) ILL_FIELD b.addr
  needCmd (a.cols % 32 = 0 || !(a.fmt = 8 || b.fmt = 8 || a.tag != 0 || b.tag != 0)) ILL_FIELD a.addr
  let fits (t : Tile) : Bool :=
    if scaled then t.fmt = 6 || t.fmt = 7 || t.fmt = 8
    else (t.fmt = 0 && t.width = 7) || t.fmt = 5 || t.fmt = 6 || t.fmt = 7
  needCmd (fits a) FMT_MISMATCH a.addr
  needCmd (fits b) FMT_MISMATCH b.addr
  needCmd (a.fmt = b.fmt || (a.fmt = 6 && b.fmt = 7) || (a.fmt = 7 && b.fmt = 6)) FMT_MISMATCH b.addr
  needCmd (a.tag = b.tag) ROT_TAG_MISMATCH b.addr

/-- Array steps (R369). -/
def arraySteps (fmt k : Nat) : Nat := if fmt = 5 then 2 * k else if fmt = 8 then k / 2 else k

/-- What a product command does once it has been checked: the state with its checks made, and that with its accumulator
written, and its array steps. -/
def State.product (s : State) (q : QueueRef) (c : Cmd) (f : FA) (coop scaled : Bool) : Except CmdStop (State × State × Nat) := do
  let w := c.who
  s.descAhead q c [c.args.getD 0 0, c.args.getD 1 0]
  let (da, s) ← s.readDesc q c 32 32 (c.args.getD 0 0)
  let (db, s) ← s.readDesc q c 32 32 (c.args.getD 1 0)
  let a := tileOf (c.args.getD 0 0) da
  let b := tileOf (c.args.getD 1 0) db
  productChecks a b coop scaled
  let rb := if coop then 128 * (w.idx / 4) else 0
  let cb := if coop then 128 * (w.idx % 4) else 0
  let ms := (List.range (min 128 (a.rows - rb))).map (· + rb)
  let ns := (List.range (min 128 (b.rows - cb))).map (· + cb)
  let fp8 := a.fmt != 8
  let g := (a.cols + groupSize a.fmt - 1) / groupSize a.fmt
  let used := ms != [] && ns != []
  let offs := if !scaled || !used then [] else
    (List.range g).flatMap (fun q => ms.map (scaleOffA fp8 a.rows q)) ++
      ((List.range g).flatMap (fun q => ns.map (scaleOffB fp8 g a.rows b.rows q))).eraseDups
  match scaleFault fp8 c.bytes offs with
  | some (code, o) => .error (.fault code (word o))
  | none => .ok ()
  let sa ← s.tileSpots w .r a
  let sb ← s.passing q c (s.tileT w a) (s.tileSpots w .r b)
  let s := s.passT q c (s.tileT w a ++ s.tileT w b)
  s.sample q c (sa.map (fun x => (a.unit, x)) ++ sb.map (fun x => (b.unit, x)))
  let ca ← s.tileCodes c a sa
  let cb' ← s.tileCodes c b sb
  let value (o : Nat) : FV := if fp8 then fp32.value (field c.bytes o 4) else e8m0Value (field c.bytes o 1)
  let p : Product := {
    m := a.rows, n := b.rows, k := a.cols, fmtA := a.fmt, fmtB := b.fmt, a := ca, b := cb'
    fold := a.tag = b.tag && a.tag != 0 && a.fmt != 0
    ov := !f.fn.getLsbD 1
    scale := fun q r n => if scaled then
        (value (scaleOffA fp8 a.rows q r)).mul (value (scaleOffB fp8 g a.rows b.rows q n)) else .ofInt 1 }
  let t := (((((s.unpin (s.cmdCore c)).pin c (sa ++ sb)).sourced q c a.unit sa).sourced q c b.unit sb)).setAcc w (accOf f) (fun i j =>
    let old := s.accAt w (accOf f) i j
    if rb + i < a.rows && cb + j < b.rows then p.element (rb + i) (cb + j) old else old)
  return (s, t, arraySteps a.fmt a.cols)

/-- The form of a product command: its fields, cooperative, scaled. -/
def productForm : Instr → Option (FA × Bool × Bool)
  | .mma f => some (f, false, false)
  | .mmaC f => some (f, true, false)
  | .mmas f => some (f, false, true)
  | .mmax f => some (f, true, true)
  | _ => none

/-- A product that may step, checked in `s` and done in `t`: it starts when its unit is granted, and its unit is ready
until then (R387). -/
def State.startProduct (s : State) (q : QueueRef) (c : Cmd) (t : State) (steps : Nat) : State :=
  let k := s.cmdCore c
  if (s.core k).granted then
    (t.setCore k (fun x => { x with work := steps, waiting := false })).stageCmd q c 2
  else s.setCore k (fun x => { x with ready := true })

/-- MATRIX_PRODUCT_EXEC (R369, R375): the command checks, takes its array steps once its unit is granted, and completes
after the last of them. A follow-on waits for its copy, and completes without effect when that has faulted (13 R403). -/
def State.productTurn (s : State) (q : QueueRef) (c : Cmd) : State :=
  if c.stage = 2 then (if (s.core (s.cmdCore c)).work = 0 then s.finishCommand q c (.ok s) else s)
  else if c.after != 0 then s
  else match c.spoiled with
    | some f => s.complete q c (some f) (some f)
    | none =>
      match s.takeUnit c, productForm c.op with
      | .error t, _ => t
      | .ok t, some (f, coop, scaled) =>
        let u := t.stageCmd q c 1
        match u.product q c f coop scaled with
        | .ok (u, v, steps) => u.startProduct q c v steps
        | .error e => u.finishCommand q c (.error e)
      | .ok t, none => t

def execMatrixProductExec (s : State) : Host.Outcome State Fault Refusal :=
  .next (s.commandTurn (s.headCmd s.args.unit 2) (fun c => (productForm c.op).isSome) (fun q c => s.productTurn q c))

/-! ## Accumulator commands (R379) -/

def execMzeroExec (s : State) : Host.Outcome State Fault Refusal :=
  .next (s.matrixTurn (fun i => match i with
    | .mzero _ => true
    | _ => false) (fun s _ c => match c.op with
    | .mzero f => .ok (s.setAcc c.who (accOf f) (fun _ _ => 0))
    | _ => .error .wait))

/-- The descriptor of mld or mst. -/
def State.accTile (s : State) (q : QueueRef) (c : Cmd) (dest : Bool) (fits : Tile → Bool) : Except CmdStop (Tile × State) := do
  let a := c.args.getD 0 0
  s.descAhead q c [a]
  let (d, s) ← s.readDesc q c 32 32 a
  let t := tileOf a d
  needCmd (t.valid dest && t.rows ≤ 128 && t.cols ≤ 128) ILL_FIELD a
  needCmd (fits t) FMT_MISMATCH a
  needCmd (t.tag = 0) ROT_TAG_MISMATCH a
  return (t, s)

def State.mldCommand (s : State) (q : QueueRef) (c : Cmd) (f : FA) : Except CmdStop State := do
  let (t, s) ← s.accTile q c false (fun t => t.fmt = 4 || t.fmt = 5 || (t.fmt = 0 && t.width = 31))
  let xs ← s.tileSpots c.who .r t
  let s := s.passT q c (s.tileT c.who t)
  s.sample q c (xs.map (fun x => (t.unit, x)))
  let codes ← s.tileCodes c t xs
  return ((s.pin c xs).sourced q c t.unit xs).setAcc c.who (accOf f) (fun i j =>
    if i < t.rows && j < t.cols then
      let x := el codes (i * t.cols + j)
      if t.fmt = 5 then fp32.round rne (bf16.value x) else x
    else s.accAt c.who (accOf f) i j)

def execMldExec (s : State) : Host.Outcome State Fault Refusal :=
  .next (s.matrixTurn (fun i => match i with
    | .mld _ => true
    | _ => false) (fun s q c => match c.op with
    | .mld f => s.mldCommand q c f
    | _ => .error .wait))

def State.mstCommand (s : State) (q : QueueRef) (c : Cmd) (f : FA) : Except CmdStop State := do
  let narrow := f.fn.toNat / 2 = 1
  let (t, s) ← s.accTile q c true (fun t => if narrow then t.fmt = 5 else t.fmt = 4 || (t.fmt = 0 && t.width = 31))
  let (_, xs) ← s.operands q c ((s.tileSpots c.who .w t).map (fun xs => ([], xs)))
  let s ← (s.passT q c (s.tileT c.who t)).claim q c t.unit xs 1 []
  s.moveOn q c (xs.zipIdx.map (fun x =>
    let v := s.accAt c.who (accOf f) (x.2 / t.cols) (x.2 % t.cols)
    (x.1, .ok (leBytes t.unit (if narrow then bf16.round rne (fp32.value v) else v)))))

def execMstExec (s : State) : Host.Outcome State Fault Refusal :=
  .next (s.matrixTurn (fun i => match i with
    | .mst _ => true
    | _ => false) (fun s q c => match c.op with
    | .mst f => s.mstCommand q c f
    | _ => .error .wait))

/-- MBAR_ARRIVE (R382): at the head of its queue every earlier command has completed. -/
def execMbarArrive (s : State) : Host.Outcome State Fault Refusal :=
  .next (s.matrixTurn (fun i => match i with
    | .mbar _ => true
    | _ => false) (fun s _ _ => .ok s))

/-! ## Transpose (R381) -/

/-- The byte ranges of two tiles share a byte. -/
def tilesOverlap (a b : Tile) : Bool :=
  a.space = b.space && (List.range a.rows).any (fun i => (List.range b.rows).any (fun j =>
    let x := a.base.toNat + i * a.pitch
    let y := b.base.toNat + j * b.pitch
    x < y + b.rowBytes && y < x + a.rowBytes))

/-- The destination's descriptor address stands for every failure of checks 1 to 4 (R373), the pair's for R381's own. All is read
before anything is written: a transpose that meets a poisoned source changes no memory (R374). -/
def State.mtrCommand (s : State) (q : QueueRef) (c : Cmd) : Except CmdStop State := do
  let a := c.args.getD 0 0
  let d := a + 32
  let atDest (r : Except CmdStop (List Byte × State)) : Except CmdStop (List Byte × State) :=
    match r with
    | .error (.fault code _) => .error (.fault code d)
    | x => x
  s.descAhead q c [a, d]
  let (da, s) ← atDest (s.readDesc q c 64 32 a)
  let (db, s) ← atDest (s.readDesc q c 32 32 d)
  let src := tileOf a da
  let dst := tileOf d db
  needCmd (src.valid false && dst.valid true) ILL_FIELD d
  needCmd (src.rows ≤ 512 && src.cols ≤ 512 && dst.rows = src.cols && dst.cols = src.rows && !tilesOverlap src dst)
    ILL_FIELD a
  let fits (t : Tile) : Bool := t.fmt = 0 || t.fmt = 1 || t.fmt = 4 || t.fmt = 5 || t.fmt = 6 || t.fmt = 7
  needCmd (fits src && fits dst && src.fmt = dst.fmt && src.width = dst.width) FMT_MISMATCH d
  needCmd (src.tag = 0 && dst.tag = 0) ROT_TAG_MISMATCH d
  let (xs, ys) ← s.operands q c (do
    let xs ← s.tileSpots c.who .r src
    let ys ← s.passing q c (s.tileT c.who src) (s.tileSpots c.who .w dst)
    return (xs, ys))
  let s ← (s.passT q c (s.tileT c.who src ++ s.tileT c.who dst)).claim q c dst.unit ys src.unit xs
  let from_ := xs.toArray
  let turned := (List.range ys.length).filterMap (fun i => from_[i % dst.cols * src.cols + i / dst.cols]?)
  s.sample q c (turned.map (fun x => (src.unit, x)))
  let bs ← turned.mapM (s.sourceRead c src.unit)
  return ((s.pin c xs).sourced q c src.unit turned).engineWrites q c (ys.zip bs)

def execMtrExec (s : State) : Host.Outcome State Fault Refusal :=
  .next (s.matrixTurn (fun i => match i with
    | .mtr _ => true
    | _ => false) (fun s q c => s.mtrCommand q c))

/-! ## Commands that write v registers, and element-wise ones (R379, R380) -/

/-- Results of a command that completes: their registers are written and full (R379, 01 R34). -/
def State.fillNow (s : State) (id : Nat) (bs : List Byte) : State :=
  let t := s.deliver (some (id, 0)) bs
  match t.returns.find? (fun r => r.id == id) with
  | some r =>
    match r.bytes with
    | some v => { (t.mapStrand r.crew r.idx (fun st => st.fill r.dest v)) with returns := t.returns.filter (fun x => x.id != id) }
    | none => t
  | none => t

/-- MROW_EXEC: the command's second operand numbers its pending result. -/
def execMrowExec (s : State) : Host.Outcome State Fault Refusal :=
  .next (s.matrixTurn (fun i => match i with
    | .mrow _ => true
    | _ => false) (fun s _ c => match c.op with
    | .mrow f =>
      let r := (c.args.getD 0 0).toNat
      .ok (s.fillNow (c.args.getD 1 0).toNat
        ((List.range 128).flatMap (fun j => leBytes 4 (s.accAt c.who (accOf f) r j))))
    | _ => .error .wait))

def execMaccExec (s : State) : Host.Outcome State Fault Refusal :=
  .next (s.matrixTurn (fun i => match i with
    | .macc _ => true
    | _ => false) (fun s _ c => match c.op with
    | .macc f =>
      let n := accOf f
      .ok (s.setAcc c.who n (fun i j => add32 rne (s.accAt c.who n i j) (s.accAt c.who (1 - n) i j)))
    | _ => .error .wait))

def execMsclExec (s : State) : Host.Outcome State Fault Refusal :=
  .next (s.matrixTurn (fun i => match i with
    | .mscl _ => true
    | _ => false) (fun s _ c =>
      let a := (c.args.getD 0 0).toNat
      let n := a / 2 ^ 32 % 2
      .ok (s.setAcc c.who n (fun i j =>
        fp32.round rne ((fp32.value (s.accAt c.who n i j)).mul (fp32.value (a % 2 ^ 32)))))))

/-- The narrowed codes of an accumulator (R380), its elements numbered along rows. -/
def mcvtCodes (fmt : Nat) (r : Rnd) (tag : Nat) (seed : Word) (v63 : List Byte) (x : List Nat) : List Nat :=
  if fmt = 0 then x.zipIdx.map (fun v => bf16.round (r.at v.2) (fp32.value v.1))
  else
    let off := r.idx.toNat % 32
    let outs := (blocksOf off 16384 (fun _ => true)).map (fun b =>
      (b.j, narrowFp8 (if fmt = 1 then e4m3 else e5m2) ⟨r, tag, seed, r.idx - word off + word (32 * b.j)⟩
        (fp32.value (sigmaAt v63 b.j)) ((b.source x).map fp32.value)))
    (List.range 16384).map (fun e => (codeFor off outs e).getD 0)

/-- An mcvt command's operands: index base, seed of stochastic rounding, mode, saturation, tag, sign seed, bytes of a
register, and the numbers of its pending results. -/
def State.mcvtCommand (s : State) (c : Cmd) (f : FA) : Except CmdStop State := do
  let arg (i : Nat) : Word := c.args.getD i 0
  let fmt := f.fn.toNat / 2
  let r : Rnd := { mode := (arg 2).toNat, idx := arg 0, srs := arg 1, sat := (arg 3).toNat }
  let blocks := ((arg 0).toNat % 32 + 16384 + 31) / 32
  match (List.range blocks).find? (fun j => fmt != 0 && !sigmaOk (sigmaAt c.bytes j)) with
  | some j => .error (.fault SCALE_INVALID (word (4 * j)))
  | none => .ok ()
  let x := (List.range 16384).map (fun e => s.accAt c.who (accOf f) (e / 128) (e % 128))
  let bytes := (mcvtCodes fmt r (arg 4).toNat (arg 5) c.bytes x).flatMap (leBytes (if fmt = 0 then 2 else 1))
  let size := (arg 6).toNat
  return (c.args.drop 7).zipIdx.foldl (fun t v => t.fillNow v.1.toNat ((bytes.drop (size * v.2)).take size)) s

def execMcvtExec (s : State) : Host.Outcome State Fault Refusal :=
  .next (s.matrixTurn (fun i => match i with
    | .mcvt _ => true
    | _ => false) (fun s _ c => match c.op with
    | .mcvt f => s.mcvtCommand c f
    | _ => .error .wait))

/-! ## The slew limiter (R387 to R391) -/

/-- The cycle from which a cluster may change again (R388). -/
def State.mayChange (s : State) (cluster : Nat) : Bool := sget 0 s.grantCycle cluster ≤ s.cycle
def coresOf (cluster : Nat) : List Nat := (List.range 8).map (fun i => 8 * cluster + i)
/-- The rank of a unit among those of its cluster: its holder's index; a unit without a holder comes last (log 9). -/
def State.unitRank (s : State) (k : Nat) : Nat := ((s.unitHolder k).map (·.idx)).getD 8
/-- The first in rank, then in number, of some cores. -/
def State.firstUnit (s : State) (ks : List Nat) : Option Nat :=
  ks.foldl (fun b k => match b with
    | none => some k
    | some j => if s.unitRank k < s.unitRank j then some k else some j) none
def State.readyUnits (s : State) (cluster : Nat) : List Nat := (coresOf cluster).filter (fun k => (s.core k).ready)
def State.waitingUnits (s : State) (cluster : Nat) : List Nat := (coresOf cluster).filter (fun k => (s.core k).waiting)
def State.changed (s : State) (cluster : Nat) : State :=
  { s with grantCycle := sset 0 s.grantCycle cluster (s.cycle + 4) }

/-- MATRIX_GRANT (R388). -/
def execMatrixGrant (s : State) : Host.Outcome State Fault Refusal :=
  let cl := s.args.unit
  match s.firstUnit (s.readyUnits cl) with
  | some k => .next (if s.mayChange cl then
      (s.setCore k (fun x => { x with granted := true, ready := false, waiting := false, filler := 0 })).changed cl else s)
  | none => .next s

/-- A granted unit asks for release after its hold of filler steps (R389). -/
def Core.asks (c : Core) : Bool := c.granted && !c.waiting && c.work == 0 && c.hold ≤ c.filler

/-- MATRIX_RELEASE_REQUEST (R389). -/
def execMatrixReleaseRequest (s : State) : Host.Outcome State Fault Refusal :=
  .next (if (s.core s.args.unit).asks then s.setCore s.args.unit (fun x => { x with waiting := true }) else s)

/-- MATRIX_RELEASE (R388, R389): a ready unit is granted first. -/
def execMatrixRelease (s : State) : Host.Outcome State Fault Refusal :=
  let cl := s.args.unit
  match s.firstUnit (s.waitingUnits cl) with
  | some k => .next (if s.mayChange cl && (s.readyUnits cl).isEmpty then
      (s.setCore k (fun x => { x with granted := false, waiting := false, filler := 0 })).changed cl else s)
  | none => .next s

/-- What a core cycle does to a unit (R387): a granted one performs a real step or a filler step. -/
def Core.cycle (c : Core) : Core :=
  if !c.granted then c
  else if 0 < c.work then { c with work := c.work - 1, filler := 0, hold := 64, waiting := false }
  else { c with filler := c.filler + 1 }

/-- A change or a request of this cycle is still to come: no build makes it later (R388, R391). -/
def State.changeDue (s : State) : Bool :=
  s.cores.any (fun x => (sget {} s.cores x.1).asks || ((x.2.ready || x.2.waiting) && s.mayChange (x.1 / 8)))

/-- A core cycle passes (00 R2). -/
def State.coreCycle (s : State) : State :=
  if s.changeDue then s
  else { s with cycle := s.cycle + 1, cores := s.cores.map (fun x => (x.1, x.2.cycle)) }

/-- A cache drops a copy (log 29); a line stays pinned while the array still consumes it (R385). -/
def State.dropCopy (s : State) (k : Nat) : State :=
  let pinned : Bool := match s.copies[k]? with
    | some c => match c.holder with
      | .tile core => 0 < (s.core core).work
      | _ => false
    | none => false
  if pinned then s else { s with copies := s.copies.eraseIdx k }

/-! ## Issue (R371, R372) -/

/-- A command without further checks: one g operand. -/
def State.matrixIssue (s : State) (len opc : Nat) (op : Instr) (args : List Word) (bytes : List Byte := [])
    (entry : List Byte := []) : Except Stop State := do
  let (t, _) ← s.accept 2 opc op args bytes none 0 3 entry
  return t.advance len

def execMzero (f : FA) (s : State) := finish s (s.matrixIssue 4 0x98 (.mzero f) [])
def State.matrixOne (s : State) (opc : Nat) (op : Instr) (f : FA) : Except Stop State := do
  let a ← s.srcG f.a f.trap
  s.matrixIssue 4 opc op [a]
def execMld (f : FA) (s : State) := finish s (s.matrixOne 0x99 (.mld f) f)
def execMst (f : FA) (s : State) := finish s (s.matrixOne 0x9A (.mst f) f)
def execMtr (f : FA) (s : State) := finish s (s.matrixOne 0x9D (.mtr f) f)

def State.mbar (s : State) (f : FA) : Except Stop State := do
  let a ← s.srcG f.a f.trap
  let p ← s.ref 16 16 a
  let (t, _) ← s.accept 2 0x9B (.mbar f) [a] [] (some p)
  return t.advance 4
def execMbar (f : FA) (s : State) := finish s (s.mbar f)

/-- mwait (R383): the strand acquires what the commands up to the number have done. -/
def State.mwait (s : State) (f : FA) : Except Stop State := do
  let a ← s.srcG f.a f.trap
  need (a.toNat ≤ s.self.mq.issue) ILL_FIELD a
  s.await (a.toNat ≤ s.self.mq.completion)
  return (s.meets { after := [(s.ownQueue 2, a.toNat)] }).advance 4
def execMwait (f : FA) (s : State) := finish s (s.mwait f)

/-- mrow (R379): the destination is empty once the command has its place in the queue. -/
def State.mrow (s : State) (f : FA) : Except Stop State := do
  need (s.self.long && 128 ≤ s.crew.vlGrant) MODE s.self.pc
  let a ← s.srcG f.a f.trap
  need (a.toNat ≤ 127) ILL_FIELD a
  s.destFree (.v f.d.toNat)
  let old := s.self.vreg f.d.toNat
  let (t, id) := s.produce (.v f.d.toNat) (List.replicate 512 none ++ (old.drop 512).map some)
  t.matrixIssue 4 0x9E (.mrow f) [a, word id] [] (leBytes 8 a.toNat)
def execMrow (f : FA) (s : State) := finish s (s.mrow f)

/-- mramp (R390). -/
def State.mramp (s : State) (f : FA) : Except Stop State := do
  let a ← s.srcG f.a f.trap
  need (a.toNat ≤ 65535) ILL_FIELD a
  let ramp (c : Core) : Core :=
    if c.granted then { c with hold := a.toNat, waiting := c.waiting || (a == 0 && c.work == 0) }
    else if a == 0 then c
    else { c with ready := true, hold := a.toNat }
  return (s.setCore s.self.core ramp).advance 4
def execMramp (f : FA) (s : State) := finish s (s.mramp f)

/-- mtag (R384); its FMT_MISMATCH names g[b], which the spec does not say (log 33). -/
def State.mtag (s : State) (f : FA) : Except Stop State := do
  let a ← s.srcG f.a f.trap
  let b ← s.srcG f.b f.trap
  need (b.toNat ≤ 0xFF) ILL_FIELD b
  let code := b.toNat / 16
  need (code = 0 || code = 1 || (4 ≤ code && code ≤ 8)) FMT_MISMATCH b
  s.result f.d 4 (a &&& ~~~((0xFF : Word) <<< 56) ||| b <<< 56)
def execMtag (f : FA) (s : State) := finish s (s.mtag f)

def State.mscl (s : State) (f : FA) : Except Stop State := do
  let a ← s.srcG f.a f.trap
  need (a.toNat < 2 ^ 33) ILL_FIELD a
  need (sigmaOk (a.toNat % 2 ^ 32)) SCALE_INVALID a
  s.matrixIssue 4 0xA1 (.mscl f) [a]
def execMscl (f : FA) (s : State) := finish s (s.mscl f)

/-- MODE of a product (R372, R404): a scaled form in short mode, a cooperative form outside a crew of eight. -/
def State.productMode (s : State) (coop scaled : Bool) : Except Stop Unit :=
  need ((!scaled || s.self.long) && (!coop || s.crew.size = 8)) MODE s.self.pc
/-- The scale register as a scaled form captures it. -/
def State.captureScales (s : State) (scaled trap : Bool) : Except Stop (List Byte) :=
  if scaled then s.srcV scaleReg trap else .ok []

def State.productIssue (s : State) (len : Nat) (px : Prefix) (opc : Nat) (op : Instr) (f : FA) (coop scaled : Bool) :
    Except Stop State := do
  s.productMode coop scaled
  let a ← s.srcG f.a (trapA px f)
  let b ← s.srcG f.b (trapB px f)
  let v ← s.captureScales scaled (trapB px f)
  s.matrixIssue len opc op [a, b] v
def State.mma (s : State) (len : Nat) (px : Prefix) (f : FA) := s.productIssue len px 0xA2 (.mma f) f false false
def State.mmaC (s : State) (len : Nat) (px : Prefix) (f : FA) := s.productIssue len px 0xA3 (.mmaC f) f true false
def State.mmas (s : State) (len : Nat) (px : Prefix) (f : FA) := s.productIssue len px 0xA4 (.mmas f) f false true
def State.mmax (s : State) (len : Nat) (px : Prefix) (f : FA) := s.productIssue len px 0xA5 (.mmax f) f true true
def execMma (f : FA) (s : State) := finish s (s.mma 4 {} f)
def execMmaC (f : FA) (s : State) := finish s (s.mmaC 4 {} f)
def execMmas (f : FA) (s : State) := finish s (s.mmas 4 {} f)
def execMmax (f : FA) (s : State) := finish s (s.mmax 4 {} f)

def State.macc (s : State) (len : Nat) (f : FA) : Except Stop State := s.matrixIssue len 0xA6 (.macc f) []
def execMacc (f : FA) (s : State) := finish s (s.macc 4 f)

/-- Mark some v registers empty, their last one's bytes past `n` known: the state and the results' numbers. -/
def State.produceGroup (s : State) (size : Nat) : List Nat → Nat → State × List Nat
  | [], _ => (s, [])
  | r :: rs, n =>
    let k := min size n
    let (t, id) := s.produce (.v r) (List.replicate k none ++ ((s.self.vreg r).drop k).map some)
    let (u, ids) := t.produceGroup size rs (n - k)
    (u, id :: ids)

/-- mcvt's checks at issue (R380). -/
def State.mcvt (s : State) (len : Nat) (px : Prefix) (f : FA) : Except Stop State := do
  need s.self.long MODE s.self.pc
  let r ← s.rround px
  let v ← s.captureScales true (trapB px f)
  let st := s.self
  let narrow := f.fn.toNat / 2 != 0
  let size := 8 * s.crew.vlGrant
  let bytes := if narrow then 16384 else 32768
  let n := (bytes + size - 1) / size
  let d := f.d.toNat
  need (d + n - 1 ≤ 62) ILL_FIELD (word d)
  need (!narrow || 2052 ≤ size) ILL_FIELD 2052
  let regs := (List.range n).map (· + d)
  s.await (regs.all (fun i => !s.pendingOn st.crew st.idx (.v i)))
  let t := st.tag px
  let (u, ids) := s.produceGroup size regs bytes
  u.matrixIssue len 0xA7 (.mcvt f)
    ([r.idx, r.srs, word r.mode, word r.sat, word t, st.seed t, word size] ++ ids.map word) v
    ([r.idx, r.srs, word r.mode, word r.sat, word t, st.seed t].flatMap (fun x => leBytes 8 x.toNat))
def execMcvt (f : FA) (s : State) := finish s (s.mcvt 4 {} f)

end Sys2Proof.Machine
end

