-- ==== Sys2Proof/Machine/Crane.lean ====
section
/-! DEFINITION. Crane.lean: the crane's instructions, opcodes 0xA8 to 0xAF, and its copies, fills, ring and wait
commands (13 R394 to R410). -/

namespace Sys2Proof.Machine

/-! ## Copy descriptors (R396, R397) -/

structure CopyDesc where
  src : Word
  dst : Word
  spitch : Nat
  dpitch : Nat
  width : Nat
  rows : Nat
  bar : Word
  ctrl : Nat
  tail : Nat

def copyDesc (bs : List Byte) : CopyDesc :=
  { src := leWord (slice bs 0 8), dst := leWord (slice bs 8 8), spitch := field bs 0x10 4, dpitch := field bs 0x14 4
    width := field bs 0x18 4, rows := field bs 0x1C 4, bar := leWord (slice bs 0x20 8), ctrl := field bs 0x28 4
    tail := field bs 0x2C 20 }

def CopyDesc.ssp (d : CopyDesc) : Nat := bitsOf d.ctrl 3 0
def CopyDesc.dsp (d : CopyDesc) : Nat := bitsOf d.ctrl 7 4
def CopyDesc.baren (d : CopyDesc) : Bool := d.ctrl.testBit 8
def CopyDesc.scope (d : CopyDesc) : Nat := bitsOf d.ctrl 11 9
def CopyDesc.etag (d : CopyDesc) : Nat := bitsOf d.ctrl 15 12
def CopyDesc.loge (d : CopyDesc) : Nat := bitsOf d.ctrl 17 16
def CopyDesc.dir (d : CopyDesc) : Bool := d.ctrl.testBit 20
/-- The element size. -/
def CopyDesc.esize (d : CopyDesc) : Nat := 2 ^ d.loge
/-- The bytes of an operand from the first of row 0 to the last of its last row. -/
def CopyDesc.extent (d : CopyDesc) (pitch : Nat) : Nat := (d.rows - 1) * pitch + d.width

/-- The commands a descriptor describes (R397). -/
inductive CopyForm where
  | copy
  | fill
  | turn
  | ring
deriving DecidableEq, Repr

/-- What R397 asks of every descriptor, alignment apart. -/
def CopyDesc.common (d : CopyDesc) : Bool :=
  d.tail == 0 && bitsOf d.ctrl 31 21 == 0 && bitsOf d.ctrl 19 18 == 0 && (d.baren || d.bar == 0) &&
    1 ≤ d.width && d.width ≤ 16777216 && 1 ≤ d.rows && d.rows ≤ 65536 && d.scope ≤ 4 && d.ssp ≤ 4 && d.dsp ≤ 4 &&
    d.width % d.esize == 0 && d.spitch % d.esize == 0 && d.dpitch % d.esize == 0 && !(d.dpitch < d.width && 1 < d.rows)

/-- Source and destination in one space share no byte of their extents. -/
def CopyDesc.apart (d : CopyDesc) : Bool :=
  d.ssp != d.dsp || d.src.toNat + d.extent d.spitch ≤ d.dst.toNat || d.dst.toNat + d.extent d.dpitch ≤ d.src.toNat

/-- R397's table. The slot of a ring command is known when the command takes it (R405). -/
def CopyDesc.formOk (d : CopyDesc) (k : CopyForm) : Bool :=
  match k with
  | .copy => d.ssp ≤ 3 && d.dsp ≤ 3 && d.etag == 0 && !d.dir && d.apart
  | .fill => d.ssp == 0 && d.dsp ≤ 3 && d.etag == 0 && !d.dir && d.spitch == 0
  | .turn => (d.ssp == 4) != (d.dsp == 4) && d.loge ≤ 1 && d.rows == 1 && d.spitch == 0 && d.dpitch == 0 && !d.dir
  | .ring => d.etag == 0 && (if d.dir then d.ssp == 0 && d.src == 0 && d.dsp ≤ 3 else d.ssp ≤ 3 && d.dsp == 0 && d.dst == 0)

/-- The field checks of R397 and R406 at issue. -/
def CopyDesc.check (d : CopyDesc) (k : CopyForm) (at_ : Word) : Except Stop Unit := do
  need (d.common && d.formOk k) ILL_FIELD at_
  need (d.src.toNat % d.esize = 0) ALIGN d.src
  need (d.dst.toNat % d.esize = 0) ALIGN d.dst
  if k = .turn then
    let p := if d.ssp = 4 then d.src else d.dst
    need (wbits p 63 60 ≤ 2 && wbits p 55 51 ≤ 8 * d.esize) FMT_MISMATCH p
    need (wbits p 59 56 = d.etag) ROT_TAG_MISMATCH p
  else .ok ()

/-! ## Issue (R399) -/

/-- Check 7: the extents of S and C operands; one that runs out of range reports the operand's start (log 33). -/
def State.extentsOk (s : State) (d : CopyDesc) (k : CopyForm) : Except Stop Unit := do
  let inside (sp : Nat) (a : Word) (n : Nat) : Bool :=
    match sp with
    | 1 => (s.crew.sSpace s.self.core a.toNat n).isSome
    | 2 => (s.crew.cSpace a.toNat n).isSome
    | _ => true
  need (k = .fill || inside d.ssp d.src (d.extent d.spitch)) SPACE_RANGE d.src
  need (inside d.dsp d.dst (d.extent d.dpitch)) SPACE_RANGE d.dst

/-- The descriptor or record at an address, read with strong loads. -/
def State.issueRead (s : State) (a : Word) (n : Nat) : Except Stop (List Byte × State) := do
  need (canonical a) VA_NONCANON a
  need (a.toNat % n = 0) ALIGN a
  let bs ← s.strongRead a n
  return (bs, s.lookedAt a n)

/-- The place a descriptor's barrier reference names, if it names one. -/
def State.barrierOf (s : State) (on : Bool) (r : Word) : Except Stop (Option Nat) :=
  if on then do
    let p ← s.ref 16 16 r
    return some p
  else .ok none

/-- crn, crn.t and crn.c. -/
def State.craneIssue (s : State) (opc : Nat) (op : Instr) (f : FA) (k : CopyForm) : Except Stop State := do
  let a ← s.srcG f.a f.trap
  let (bs, s) ← s.issueRead a 64
  let d := copyDesc bs
  d.check k a
  let bar ← s.barrierOf d.baren d.bar
  s.extentsOk d k
  s.destFree (.g f.d.toNat)
  let (t, seq) ← s.accept 1 opc op [] bs bar 0 d.scope
  return (t.sequenceTo f.d seq).advance 4
def execCrn (f : FA) (s : State) := finish s (s.craneIssue 0xA8 (.crn f) f .copy)
def execCrnT (f : FA) (s : State) := finish s (s.craneIssue 0xAA (.crnT f) f .turn)
def execCrnC (f : FA) (s : State) := finish s (s.craneIssue 0xAF (.crnC f) f .fill)

/-- crn.r (R405): the ring's reference and place go with the command. -/
def State.crnR (s : State) (f : FA) : Except Stop State := do
  let a ← s.srcG f.a f.trap
  let b ← s.srcG f.b f.trap
  let (bs, s) ← s.issueRead a 64
  let p ← s.ref 32 32 b
  let d := copyDesc bs
  d.check .ring a
  let bar ← s.barrierOf d.baren d.bar
  s.extentsOk d .ring
  s.destFree (.g f.d.toNat)
  let (t, seq) ← s.accept 1 0xAB (.crnR f) [b, word p] bs bar 0 d.scope
  return (t.sequenceTo f.d seq).advance 4
def execCrnR (f : FA) (s : State) := finish s (s.crnR f)

/-- The instruction a follow-on record holds, if the record keeps its map (R403). -/
def followOn (r : List Byte) : Option (Instr × FA × Bool × Bool) :=
  let w := field r 0 4
  match decode false (BitVec.ofNat 32 w) 0 with
  | .instr i _ =>
    match productForm i with
    | some (f, coop, scaled) =>
      if f.e == 0 && f.a == 0 && f.b == 0 && f.d == 0 && bitsOf (field r 4 4) 31 1 == 0 &&
          ((field r 4 4).testBit 0 || field r 0x18 8 == 0) then some (i, f, coop, scaled) else none
    | none => none
  | _ => none

/-- crn.f (R403, R404). -/
def State.crnF (s : State) (f : FA) : Except Stop State := do
  let a ← s.srcG f.a f.trap
  let b ← s.srcG f.b f.trap
  let (bs, s) ← s.issueRead a 64
  let (r, s) ← s.issueRead b 32
  let d := copyDesc bs
  d.check .copy a
  match followOn r with
  | none => .error (.fault ILL_FIELD b)
  | some (i, _, coop, scaled) => do
    s.productMode coop scaled
    let v ← s.captureScales scaled f.trap
    let bar ← s.barrierOf d.baren d.bar
    let fbar ← s.barrierOf ((field r 4 4).testBit 0) (leWord (slice r 0x18 8))
    s.extentsOk d .copy
    s.destFree (.g f.d.toNat)
    let (t, seq) ← s.accept 1 0xA9 (.crnF f) [] bs bar 0 d.scope
    let (u, _) ← t.accept 2 (bitsOf (field r 0 4) 9 2) i [leWord (slice r 8 8), leWord (slice r 0x10 8)] v fbar seq 3 r
    return (u.sequenceTo f.d seq).advance 4
def execCrnF (f : FA) (s : State) := finish s (s.crnF f)

/-! ## The other instructions (R402) -/

def State.crnq (s : State) (f : FA) : Except Stop State := do
  let a ← s.srcG f.a f.trap
  need (a.toNat ≤ 3) ILL_FIELD a
  let q := s.self.cq
  s.result f.d 4 (match a.toNat with
    | 0 => word q.issue
    | 1 => word q.completion
    | 2 => word q.latched
    | _ => word (Config.cqEnt - q.outstanding.length))
def execCrnq (f : FA) (s : State) := finish s (s.crnq f)

/-- A queue as two words of a command's operands. -/
def queueWords : QueueRef → List Word
  | .crane c i => [1, word c, word i]
  | .matrix c i => [2, word c, word i]
  | .bead k => [3, word k, 0]
def queueOf (ws : List Word) : QueueRef :=
  let a := (ws.getD 1 0).toNat
  let b := (ws.getD 2 0).toNat
  match (ws.getD 0 0).toNat with
  | 1 => .crane a b
  | 2 => .matrix a b
  | _ => .bead a

def State.crnw (s : State) (f : FA) : Except Stop State := do
  let a ← s.srcG f.a f.trap
  let b ← s.srcG f.b f.trap
  match s.resolveQueue s.issuer s.crew.size b.toNat with
  | .error code => .error (.fault code b)
  | .ok q => do
    need (q != s.ownQueue 1 && !(q == s.ownQueue 2 && s.self.mq.issue < a.toNat)) ILL_FIELD b
    let (t, _) ← s.accept 1 0xAD (.crnw f) (a :: queueWords q) [] none 0 3 (leBytes 8 a.toNat ++ leBytes 8 b.toNat)
    return t.advance 4
def execCrnw (f : FA) (s : State) := finish s (s.crnw f)

/-- crn.x: the commands behind g[a] that have not begun complete without effect, and their follow-ons will; a wait command
begins when it is accepted (R394, R402). -/
def State.crnX (s : State) (f : FA) : Except Stop State := do
  let a ← s.srcG f.a f.trap
  let q := s.self.cq
  let gone := q.cmds.filter (fun c => !c.done && c.stage = 0 && a.toNat < c.seq && !c.isWait)
  let end_ := q.latch.map (fun l => (l.code, l.addr))
  let t := if end_.isSome then s else s.setQueue (s.ownQueue 2) (fun x => { x with cmds := x.cmds.map (fun c =>
    if c.after != 0 && gone.any (fun g => g.seq == c.after) then { c with cancelled := true } else c) })
  return (gone.foldl (fun t c => t.lapse (s.ownQueue 1) c end_) t).advance 4
def execCrnX (f : FA) (s : State) := finish s (s.crnX f)

/-! ## Execution (R400, R401, R405) -/

/-- The addresses of an operand's elements, row by row. -/
def CopyDesc.addrs (d : CopyDesc) (base : Word) (pitch : Nat) : List Word :=
  (List.range d.rows).flatMap (fun r => (List.range (d.width / d.esize)).map (fun k => base + word (r * pitch + k * d.esize)))

/-- The checks of R401, T operands first, and the places of source and destination elements. -/
def State.copySpots (s : State) (w : Issuer) (d : CopyDesc) (fill : Bool) : Except CmdStop (List Spot × List Spot) := do
  let from_ : Except CmdStop (List Spot) :=
    if fill then .ok [] else (d.addrs d.src d.spitch).mapM (s.spot w d.ssp .r d.esize)
  let to_ : Except CmdStop (List Spot) := (d.addrs d.dst d.dpitch).mapM (s.spot w d.dsp .w d.esize)
  let _ ← if d.ssp = 3 then from_ else .ok []
  let _ ← if d.dsp = 3 then to_ else .ok []
  let xs ← from_
  let ys ← to_
  return (xs, ys)

/-- The spans of an operand in T space. -/
def State.copyT (s : State) (w : Issuer) (d : CopyDesc) : List (Nat × Nat) :=
  let rows (sp : Nat) (base : Word) (pitch : Nat) : List (Nat × Nat) :=
    if sp = 3 then s.spansT w d.width ((List.range d.rows).map (fun r => (base + word (r * pitch)).toNat)) else []
  rows d.ssp d.src d.spitch ++ rows d.dsp d.dst d.dpitch

/-- A copy or fill: checks and claim, by which it begins, then the moves of its elements. -/
def State.moveData (s : State) (q : QueueRef) (c : Cmd) (d : CopyDesc) (fill : Bool) : Except CmdStop State := do
  let inT := s.copyT c.who d
  let (xs, ys) ← s.operands q c (s.passing q c inT (s.copySpots c.who d fill))
  let s ← (s.passT q c inT).claim q c d.esize ys d.esize xs
  s.moveOn q c (if fill then ys.map (fun y => (y, .ok (leBytes d.esize d.src.toNat)))
    else (ys.zip xs).map (fun y => (y.1, s.sourceRead c d.esize y.2))) d.esize xs

/-- The turn of a crane command of one kind. -/
def State.craneTurn (s : State) (want : Instr → Bool) (body : QueueRef → Cmd → Except CmdStop State) : State :=
  s.commandTurn (s.craneCmd s.args.unit s.args.sub) (fun c => want c.op) (fun q c => s.finishCommand q c (body q c))

def execCopyExec (s : State) : Host.Outcome State Fault Refusal :=
  .next (s.craneTurn (fun i => match i with
    | .crn _ => true
    | .crnF _ => true
    | _ => false) (fun q c => s.moveData q c (copyDesc c.bytes) false))

def execFillExec (s : State) : Host.Outcome State Fault Refusal :=
  .next (s.craneTurn (fun i => match i with
    | .crnC _ => true
    | _ => false) (fun q c => s.moveData q c (copyDesc c.bytes) true))

/-- The space code of a ring's slots (R396 from R257). -/
def slotSpace (sp : Nat) : Nat := sp + 1

/-- The slot of a ring command (R405): the command joins the ring's arrival queue under a number of its own, and has the
slot once the ring serves it, as an acquire (07 R259). -/
def State.takeSlot (s : State) (q : QueueRef) (c : Cmd) (p : Nat) (need : Need) : State × Option Word :=
  match c.slot with
  | some v => (s, some v)
  | none =>
    let id := if c.ticket = 0 then s.serial else c.ticket
    let t := if c.ticket != 0 then s
      else { (s.setCmd q c.seq (fun e => { e with ticket := id })) with
        waiters := s.waiters ++ [{ id, crew := 0, idx := 0, place := p, need, event := { s.eventFor q c with acq := true } }]
        serial := s.serial + 1 }
    let u := t.serveRing p (some id)
    match (u.waiters.find? (fun w => w.id == id)).bind (·.served) with
    | some v =>
      ({ (u.setCmd q c.seq (fun e => { e with slot := some v, ticket := 0 })) with
        waiters := u.waiters.filter (fun w => w.id != id) }, some v)
    | none => (u, none)

/-- The ring's other counter moves, as a release: it posts a filled slot, or frees an emptied one (R405, 07 R259). -/
def State.passSlot (s : State) (q : QueueRef) (c : Cmd) (p : Nat) (drain : Bool) (ref : Word) : Except CmdStop State := do
  let r := s.ring p
  needCmd (if drain then r.free != r.take else r.post != r.claim) MODE ref
  return (s.setRing { s.eventFor q c with rel := true } p (if drain then { r with free := r.free + 1 } else { r with post := r.post + 1 })).serveRing p

/-- The checks of the ring and of the size, which run until the command takes its slot (R405). -/
def State.ringChecks (s : State) (c : Cmd) (d : CopyDesc) (ref : Word) (p : Nat) : Except CmdStop Unit := do
  let r := s.ring p
  if c.slot.isSome then .ok ()
  else
    needCmd (!s.poisonedAt p 32) MC_POISON ref
    match s.ringOk (s.crewById c.who.crew) (coreOfSlot (s.slotOf c.who)) r.cfg with
    | .error code => .error (.fault code ref)
    | .ok _ => .ok ()
    needCmd (d.extent (if d.dir then d.spitch else d.dpitch) ≤ 2 ^ r.logSize) ILL_FIELD ref

/-- A ring command (R405): the ring's checks, its slot, the copy, and the post or free; what it has moved stays when that is a
fault. -/
def State.ringCopy (s : State) (q : QueueRef) (c : Cmd) : Except CmdStop State := do
  let d := copyDesc c.bytes
  let ref := c.args.getD 0 0
  let p := (c.args.getD 1 0).toNat
  s.ringChecks c d ref p
  match s.takeSlot q c p (if d.dir then .take else .claim) with
  | (s, none) => .error (.keep s)
  | (s, some v) => do
    let at_ := word (wbits v 29 0)
    let sp := slotSpace (wbits v 63 62)
    let d' : CopyDesc := if d.dir then { d with src := at_, ctrl := d.ctrl + sp } else { d with dst := at_, ctrl := d.ctrl + 16 * sp }
    needCmd d'.apart ILL_FIELD ref
    match s.moveData q c d' false with
    | .error e => .error (.keep (s.finishCommand q c (.error e)))
    | .ok t =>
      match t.passSlot q c p d.dir ref with
      | .ok u => .ok u
      | .error e => .error (.keep (t.finishCommand q c (.error e)))

def execRingCopyExec (s : State) : Host.Outcome State Fault Refusal :=
  .next (s.craneTurn (fun i => match i with
    | .crnR _ => true
    | _ => false) s.ringCopy)

/-- CRANE_WAIT_DONE (R402): the later commands of the crane queue acquire what the commands waited for have done. -/
def execCraneWaitDone (s : State) : Host.Outcome State Fault Refusal :=
  .next (s.craneTurn (fun i => match i with
    | .crnw _ => true
    | _ => false) (fun q c =>
      let r := queueOf (c.args.drop 1)
      let n := (c.args.getD 0 0).toNat
      if s.reached r n then .ok (s.record { s.eventFor q c with after := [(r, n)] }) else .error .wait))

end Sys2Proof.Machine
end

