-- ==== Sys2Proof/Machine/Bead.lean ====
section
/-! DEFINITION. Bead.lean: the bead engine (14): rows, lane accesses, corner turns (13 R406), entries and micro-words,
parking and power, queue commands, opcodes 0xB0 to 0xBE. -/

namespace Sys2Proof.Machine

/-! ## Lane accesses (R441, R452) -/

/-- The container of ld.b and st.b in bytes. -/
def container (p : Word) : Nat := if ptrWidth p ≤ 8 || ptrFmt p = 2 then 1 else 2

def State.laneCheck (s : State) (p j : Word) (els : List Nat) (reads : Bool) : Except Stop State :=
  match s.checkBead s.crew.asid p j.toNat els reads with
  | .ok _ => .ok (s.wakeBank (ptrChan p) (ptrBank p))
  | .error .wait => .error s.retry
  | .error (.fault code a) => .error (.fault code a)

/-- Issue the element accesses of one lane instruction: each is strong, covers the cells of one rod, and is performed at
the reckoner later, in no order among them (R452, 04 R138). -/
def State.issueLanes (s : State) (opc : BitVec 8) (p : Word) (op : Nat → ReqOp) (ret : Nat → Option (Nat × Nat))
    (els : List Nat) : State :=
  els.foldl (fun t e => { t with
    reqs := t.reqs ++ [{ id := t.serial, who := s.issuer, pc := s.self.pc, op := op e, kind := .strong, space := .b, addr := p, place := some 0, ret := ret e, opc, group := s.serial, vector := true }]
    serial := t.serial + 1 }) { s with serial := s.serial + 1 }

/-- ld.b: the destination is empty until every element has arrived, and stays empty when a check fails. -/
def State.ldB (s : State) (f : FA) : Except Stop State := do
  let p ← s.srcG f.a f.trap
  let j ← s.srcG f.b f.trap
  let w := container p
  let n := s.self.count w
  let els := (List.range n).filter s.self.active
  let dest := s.self.vdest f.d.toNat
  s.destFree dest
  let t ← s.emptyOnFault dest (s.laneCheck p j els true)
  let old := s.self.vreg f.d.toNat
  let (u, id) := t.produce dest (old.zipIdx.map (fun b => if els.contains (b.2 / w) then none else some b.1))
  return (u.issueLanes 0xB0 p (fun e => .laneLoad p (ptrCol p + j.toNat + e) w) (fun e => some (id, w * e)) els).advance 4
def execLdB (f : FA) (s : State) := finish s (s.ldB f)

def State.stB (s : State) (f : FA) : Except Stop State := do
  let p ← s.srcG f.a f.trap
  let j ← s.srcG f.b f.trap
  let x ← s.srcV f.d f.trap
  let w := container p
  let n := s.self.count w
  let els := (List.range n).filter s.self.active
  let xs := elems w n x
  let t ← s.laneCheck p j els false
  return (t.issueLanes 0xB1 p (fun e => .laneStore p (ptrCol p + j.toNat + e) (toSigned (8 * w) (el xs e))) (fun _ => none)
    els).advance 4
def execStB (f : FA) (s : State) := finish s (s.stB f)

/-! ## Corner turns (13 R406) -/

/-- The checks of a corner turn's bead operand, which come last (13 R401): a command that waits there has had its T operand
checked, if it has one; and those of an element access, when it reaches its row (14 R431). -/
def State.turnCheck (s : State) (q : QueueRef) (c : Cmd) (inT : List (Nat × Nat)) (p : Word) (els : List Nat) (reads : Bool) :
    Except CmdStop Unit :=
  match s.checkBead c.who.asid p 0 els reads with
  | .ok _ => .ok ()
  | .error .wait => .error (.keep (s.passT q c inT))
  | .error (.fault code a) => .error (.fault code a)

/-- The turn of a crn.t command: the checks of its T or G side, then those of bead space (13 R401), and the claim of what it
writes, by which it begins: in bead space the rows, which are locked for it at the reckoner (R406, 01 R36). Each element is one event
of its cells (14 R452). -/
def State.cornerTurn (s : State) (q : QueueRef) (c : Cmd) : Except CmdStop State := do
  let d := copyDesc c.bytes
  let n := d.width / d.esize
  let u := 8 * d.esize
  if d.dsp = 4 then
    let (xs, _) ← s.operands q c (do
      let xs ← (d.addrs d.src d.spitch).mapM (s.spot c.who d.ssp .r d.esize)
      s.turnCheck q c (s.copyT c.who d) d.dst (List.range n) false
      return (xs, []))
    let s ← (s.passT q c (s.copyT c.who d)).claim q c d.esize [] d.esize xs
      ((ptrRows d.dst).map (rowId (ptrChan d.dst) (ptrBank d.dst) (ptrSub d.dst)))
    s.sample q c (xs.map (fun x => (d.esize, x)))
    let bs ← xs.mapM (s.sourceRead c d.esize)
    if s.bankWaits (ptrChan d.dst) (ptrBank d.dst) then .error (.keep s)
    let t := (s.sourced q c d.esize xs).wakeBank (ptrChan d.dst) (ptrBank d.dst)
    return bs.zipIdx.foldl (fun t x => (t.putBead d.dst (ptrCol d.dst + x.2) (toSigned u (leNat x.1))).record
      { t.eventFor q c with writes := true, strong := true, words := cellsOf d.dst (ptrCol d.dst + x.2), stamp := t.writes }) t
  else
    let (_, ys) ← s.operands q c (do
      let ys ← (d.addrs d.dst d.dpitch).mapM (s.spot c.who d.dsp .w d.esize)
      s.turnCheck q c (s.copyT c.who d) d.src (List.range n) true
      return ([], ys))
    let s ← (s.passT q c (s.copyT c.who d)).claim q c d.esize ys d.esize []
    if s.laneWaits (ptrChan d.src) (ptrBank d.src) (ptrSub d.src) (ptrRows d.src) then .error (.keep s)
    let now := (match s.args.part with
      | none => List.range n
      | some 0 => []
      | some (k + 1) => [k]).filter (fun i => !c.moved.contains i)
    let t := (s.wakeBank (ptrChan d.src) (ptrBank d.src)).record
      { s.eventFor q c with reads := true, strong := true, words := now.flatMap (fun i => cellsOf d.src (ptrCol d.src + i)), stamp := s.writes }
    t.moveOn q c (ys.zipIdx.map (fun y => (y.1, do
      t.turnCheck q c (s.copyT c.who d) d.src [y.2] true
      return leBytes d.esize (ofSigned u (t.beadElem d.src (ptrCol d.src + y.2))))))

def execCornerTurnExec (s : State) : Host.Outcome State Fault Refusal :=
  .next (s.craneTurn (fun i => match i with
    | .crnT _ => true
    | _ => false) s.cornerTurn)

/-! ## The bead queue (R420, R434) -/

/-- A command of a bead queue ends and owns nothing any more; its fault is latched, and ends its launch while that still runs (R434). -/
def State.beadEnd (s : State) (k : Nat) (c : Cmd) (f : Option (BitVec 8 × Word)) : State :=
  let t := ((s.disown (.bead k) c).setQueue (.bead k) (fun x => x.complete c.seq f)).tidyChains
  match f, (s.ctx c.who.ctx).launch with
  | some (code, a), some l =>
    if l.born ≤ c.born && l.completion.isNone then t.recordFault c.who.ctx (faultOf c.who c.pc code a) else t
  | _, _ => t

/-- The operands of a run of rows (R444). -/
def runCount (b : Word) : Nat := wbits b 10 0
def runKey (b : Word) : BitVec 16 := BitVec.ofNat 16 (wbits b 31 16)
def runRows (a b : Word) : List Nat := (List.range (runCount b)).map (ptrRow a + ·)

/-- The rows that a queue command names, counted over the module. -/
def State.beadRows (s : State) (k : Nat) (c : Cmd) : List Nat :=
  let a := c.args.headD 0
  let here (r : Nat) : Nat := rowId k (ptrBank a) (ptrSub a) r
  let run := (runRows a (c.args.getD 1 0)).map here
  match c.op with
  | .bcall _ => (blockBanks c.bytes).flatMap (fun n => ((s.chan k).rowsFor c).map (rowId k n (blockSub c.bytes)))
  | .block _ => run
  | .bunlk _ => run
  | .bseal _ => run
  | .bscrub _ => run
  | .bpart _ => (List.range 1024).map here
  | _ => []

/-- A queue command claims the rows it names (01 R36, R37), or keeps its place among the claims of them, in the order of arrival. -/
def State.rowClaim (s : State) (k : Nat) (c : Cmd) : Except State State :=
  let x : Claim := { q := .bead k, seq := c.seq, asid := c.who.asid, n := 0, cells := [], spans := [], rows := s.beadRows k c }
  if x.rows.isEmpty then .ok s
  else if s.claimWaits c.who x [] [] then .error (s.putClaim x)
  else .ok (s.putClaim { x with granted := true })

/-- The head of a channel's queue, when it may begin: the channel stands, no entry is under way, and the stores its issue released
are performed (R420, R452). -/
def State.beadHead (s : State) (k : Nat) : Option Cmd :=
  let ch := s.chan k
  match ch.queue.cmds.find? (fun c => c.seq == ch.queue.completion + 1) with
  | some c =>
    if s.mod.tup.getLsbD (k / 32) && !s.chanDown k && ch.entry.isNone && s.cmdReady c && c.pageWait.isNone then some c
    else none
  | none => none

/-- The turn of a queue command, performed at once when its rows are free. -/
def State.beadTurn (s : State) (want : Instr → Bool) (body : Nat → Cmd → Except (BitVec 8 × Word) State) : State :=
  let k := s.args.unit
  match s.beadHead k with
  | some c =>
    if want c.op then
      match s.rowClaim k c, body k c with
      | .error t, _ => t
      | .ok _, .ok t => t.beadEnd k c none
      | .ok _, .error f => s.beadEnd k c (some f)
    else s
  | none => s

/-! ## Entries (R428) -/

def isBcall : Instr → Bool
  | .bcall _ => true
  | _ => false

/-- BEAD_ENTRY_RUN: the checks, the claim, for which it waits, the locks, and the start. -/
def State.startEntry (s : State) (k : Nat) (c : Cmd) : Except (BitVec 8 × Word) State :=
  let ch := s.chan k
  let bs := c.bytes
  let banks := blockBanks bs
  let sub := blockSub bs
  let here (l : List Nat) : Word := beadAddr l k sub 0 0 0
  match entryStart ch.store (c.args.headD 0).toNat with
  | none => .error (BEAD_ENTRY, here banks)
  | some start =>
    let operands := entryReads ch.store start ++ entryWrites ch.store start
    let rows := rowsOf bs operands
    let badLock (n r : Nat) : Bool := s.lockOf k n sub r != 0 && s.lockOf k n sub r != blockKey bs
    let idle := banks.filter (fun n => (ch.mode[n]?).getD 0 != 1)
    let locked := banks.filter (fun n => rows.any (badLock n))
    if !idle.isEmpty then .error (BEAD_ENTRY, here idle)
    else if (slotsOf operands).any (fun i => blockArg bs i == 0) then .error (BEAD_ENTRY, here banks)
    else match s.rowClaim k c, locked with
      | .error t, _ => .ok t
      | .ok _, n :: _ => .error (BEAD_LOCKED, beadAddr locked k sub ((rows.find? (badLock n)).getD 0) 0 0)
      | .ok s, [] =>
        let ini := (List.range 4).map (blockInit bs)
        let e : Entry := { cmd := c, upc := start, last := 0, ctr := ini, ini, banks, since := s.tide, wd := ch.wd.toNat }
        .ok (s.setChan k (fun ch => { ch with entry := some e, parked := 0 }))

def execBeadEntryRun (s : State) : Host.Outcome State Fault Refusal :=
  let k := s.args.unit
  match s.beadHead k with
  | some c =>
    if isBcall c.op then
      match s.startEntry k c with
      | .ok t => .next t
      | .error f => .next (s.beadEnd k c (some f))
    else .next s
  | none => .next s

/-- The entry of a channel has ended; a bsave that waited for its parking goes on (R436). -/
def State.endEntry (s : State) (k : Nat) (c : Cmd) (f : Option (BitVec 8 × Word)) : State :=
  (s.setChan k (fun ch => { ch with
    entry := none
    parked := 0
    parkers := []
    parkersDone := ch.parkersDone ++ ch.parkers })).beadEnd k c f

/-! ## Parking (R436) -/

/-- Park the running entry of a channel: 1 for a bsave, 2 for a trip. -/
def State.parkEntry (s : State) (k why : Nat) (e : Entry) : State :=
  ((blockBanks e.cmd.bytes).foldl (fun t n => t.saveBank k n) s).setChan k (fun ch => { ch with
    entry := some { e with count := e.count + (s.tide - e.since), since := s.tide }
    parked := why
    parkers := []
    parkersDone := ch.parkersDone ++ ch.parkers })

/-- Restore the parked entry; it goes on at its next word. -/
def State.unparkEntry (s : State) (k : Nat) (e : Entry) : State :=
  ((blockBanks e.cmd.bytes).foldl (fun t n => t.restoreBank k n) s).setChan k (fun ch => { ch with
    entry := some { e with since := s.tide }
    parked := 0 })

/-! ## Micro-words (R423) -/

/-- The row an operand names. -/
inductive RowRef where
  | data (row : Nat)
  | work (n : Nat)
  | const (ones : Bool)
deriving DecidableEq, Repr

/-- The pass index of a counter (R422). -/
def Entry.pass (e : Entry) (k : Nat) : Nat := (e.ini.getD k 1) - (e.ctr.getD k 1)

/-- The row of an operand; none outside its slot's extent (R422). -/
def Entry.rowRef (e : Entry) (m : Micro) (v : Nat) : Option RowRef :=
  match v / 2 ^ 14 with
  | 0 => some (.data (v % 1024))
  | 1 =>
    let p := blockArg e.cmd.bytes (bitsOf v 13 11)
    let o := bitsOf v 9 0 + (if v.testBit 10 then e.pass m.csel else 0)
    if o < ptrWidth p then some (.data (ptrRow p + o)) else none
  | 2 => some (.work (v % 8))
  | _ => some (.const (v.testBit 0))

/-- How a word fails in a bank (R423, R429). -/
inductive WordStop where
  | watchdog (row : Nat)
  | poison (row : Nat)
deriving DecidableEq, Repr

def workKey (k n sub w : Nat) : Nat := subId k n sub * 8 + w

def State.readRef (s : State) (k n sub : Nat) : RowRef → Except WordStop Row
  | .data r =>
    match s.stateOfRow k n sub r with
    | .poisoned => .error (.poison r)
    | .expired => .error (.watchdog r)
    | _ => .ok (s.rowBits k n sub r)
  | .work w =>
    match sget none s.workRows (workKey k n sub w) with
    | some v => .ok (if 6 ≤ w then ~~~v else v)
    | none => .error (.watchdog 0)
  | .const ones => .ok (if ones then BitVec.allOnes 8192 else 0)

/-- A write makes a data row unsealed, and a work row valid; a constant row is not written. -/
def State.writeRef (s : State) (k n sub : Nat) (v : Row) : RowRef → State
  | .data r => (s.putRow k n sub r v).setRowState k n sub r .unsealed
  | .work w => { s with workRows := sset none s.workRows (workKey k n sub w) (some v) }
  | .const _ => s

/-- What ACT, AAP, TRA, CSL and CSR do in one bank: the state and the latch it leaves. -/
def State.wordIn (s : State) (k n sub : Nat) (m : Micro) (a b c : RowRef) (latch : Row) :
    Except WordStop (State × Row) := do
  match m.op with
  | 0 =>
    let v ← s.readRef k n sub a
    return (s, v)
  | 1 =>
    let v ← s.readRef k n sub a
    return (s.writeRef k n sub v b, v)
  | 2 =>
    let x ← s.readRef k n sub a
    let y ← s.readRef k n sub b
    let z ← s.readRef k n sub c
    let v := (x &&& y) ||| (y &&& z) ||| (x &&& z)
    return (((s.writeRef k n sub v a).writeRef k n sub v b).writeRef k n sub v c, v)
  | 3 => return (s.writeRef k n sub ((latch <<< 1) ||| (if m.edge then 1 else 0)) b, latch)
  | _ => return (s.writeRef k n sub ((latch >>> 1) ||| (if m.edge then BitVec.twoPow 8192 8191 else 0)) b, latch)

/-- The write set's rows (R427). -/
def Chan.writeSet (c : Chan) (e : Entry) : List Nat :=
  match entryStart c.store (e.cmd.args.headD 0).toNat with
  | some start => rowsOf e.cmd.bytes (entryWrites c.store start)
  | none => []

def dataRows (l : List RowRef) : List Nat :=
  l.filterMap (fun r => match r with
    | .data x => some x
    | _ => none)

/-- What an entry has read, and what it has written, of the rows of a bank: each write is one event (R452). -/
def State.rowEvents (s : State) (k n sub : Nat) (c : Cmd) (read written : List Nat) (stamp : Nat) : State :=
  let e := s.eventFor (.bead k) c
  let t := if read.isEmpty then s
    else s.record { e with reads := true, strong := true, words := read.map (fun r => rowName (rowId k n sub r)), stamp }
  written.foldl (fun t r => t.record { e with writes := true, strong := true, words := [rowName (rowId k n sub r)], stamp := t.writes }) t

/-- One bank's part in a word: it goes on with its latch, or fails. A bank that reads a poisoned row stops with its
write set poisoned (R429). -/
def State.bankWord (k sub : Nat) (m : Micro) (a b c : RowRef) (read written wset : List Nat)
    (x : State × Entry × List (Nat × Nat)) (n : Nat) : State × Entry × List (Nat × Nat) :=
  let (s, e, stops) := x
  match s.wordIn k n sub m a b c (((e.latch.find? (fun l => l.1 == n)).map (·.2)).getD 0) with
  | .ok (t, v) =>
    (t.rowEvents k n sub e.cmd read written s.writes, { e with
      latch := e.latch.filter (fun l => l.1 != n) ++ [(n, v)]
      wrote := e.wrote ++ (written.map (fun r => (n, r))).filter (fun w => !e.wrote.contains w) }, stops)
  | .error (.watchdog r) => (s, e, stops ++ [(n, r)])
  | .error (.poison r) =>
    ((s.setRowState k n sub r .poisoned).setRows k n sub wset .poisoned, { e with
      banks := e.banks.filter (fun i => i != n)
      failed := e.failed ++ [n]
      failRow := if e.failed.isEmpty then r else e.failRow
      failWord := if e.failed.isEmpty then e.upc else e.failWord }, stops)

/-- The watchdog of an entry expires (R433). -/
def Entry.due (e : Entry) (tide : Nat) : Bool := e.wd != 0 && e.wd ≤ e.count + (tide - e.since)

/-- The entry goes on at a word: the one before was a boundary if it was refresh-safe (R430). -/
def Entry.goto (e : Entry) (m : Micro) (next : Nat) : Entry :=
  { e with upc := next, last := e.upc, atSafe := m.isSafe, atRep := m.op == 5 }

/-- The poison end of an entry (R429). -/
def Entry.poisonFault (e : Entry) (k : Nat) : Option (BitVec 8 × Word) :=
  if e.failed.isEmpty then none
  else some (BEAD_POISON, beadAddr e.failed k (blockSub e.cmd.bytes) e.failRow 0 e.failWord)

/-- The turn of a word of one operation of the running entry, while its tower and its channel stand (17 R492); none runs once the
watchdog has expired. -/
def State.microTurn (s : State) (op : Nat) (body : Nat → Entry → Micro → State) : State :=
  let k := s.args.unit
  let ch := s.chan k
  match ch.entry with
  | some e =>
    let m := microAt ch.store e.upc
    if s.mod.tup.getLsbD (k / 32) && !s.chanDown k && ch.parked = 0 && !e.due s.tide && m.op == op then body k e m else s
  | none => s

/-- A row word in every running bank. -/
def State.rowWord (s : State) (k : Nat) (e : Entry) (m : Micro) : State :=
  let sub := blockSub e.cmd.bytes
  match e.rowRef m m.a, e.rowRef m m.b, e.rowRef m m.c with
  | some a, some b, some c =>
    let written := dataRows (if m.op = 1 || m.shifts then [b] else if m.op = 2 then [a, b, c] else [])
    let read := dataRows (if m.op ≤ 1 then [a] else if m.op = 2 then [a, b, c] else [])
    let (t, e', stops) := e.banks.foldl (State.bankWord k sub m a b c read written ((s.chan k).writeSet e)) (s, e, [])
    match stops with
    | (_, r) :: _ =>
      t.endEntry k e.cmd (some (BEAD_WATCHDOG, beadAddr (stops.map (·.1)) k sub r 0 e.upc))
    | [] =>
      if e'.banks.isEmpty then t.endEntry k e.cmd (e'.poisonFault k)
      else t.setChan k (fun ch => { ch with entry := some (e'.goto m (e.upc + 1)) })
  | _, _, _ => s.endEntry k e.cmd (some (BEAD_ENTRY, beadAddr e.banks k sub 0 0 e.upc))

def execActWord (s : State) : Host.Outcome State Fault Refusal := .next (s.microTurn 0 s.rowWord)
def execAapWord (s : State) : Host.Outcome State Fault Refusal := .next (s.microTurn 1 s.rowWord)
def execTraWord (s : State) : Host.Outcome State Fault Refusal := .next (s.microTurn 2 s.rowWord)
def execCslWord (s : State) : Host.Outcome State Fault Refusal := .next (s.microTurn 3 s.rowWord)
def execCsrWord (s : State) : Host.Outcome State Fault Refusal := .next (s.microTurn 4 s.rowWord)

/-- REP: it ends a pass of its body; a parking that was asked for happens here (R436). -/
def State.repeatWord (s : State) (k : Nat) (e : Entry) (m : Micro) : State :=
  let c := e.ctr.getD m.csel 1
  let e' := if 1 < c then { (e.goto m m.tgt) with ctr := e.ctr.set m.csel (c - 1) }
    else { (e.goto m (e.upc + 1)) with ctr := e.ctr.set m.csel (e.ini.getD m.csel 1) }
  if (s.chan k).parkers.isEmpty then s.setChan k (fun ch => { ch with entry := some e' }) else s.parkEntry k 1 e'
def execRepWord (s : State) : Host.Outcome State Fault Refusal := .next (s.microTurn 5 s.repeatWord)

/-- BRF. -/
def State.branchWord (s : State) (k : Nat) (e : Entry) (m : Micro) : State :=
  let i := e.pass m.csel
  let taken := m.cond = 0 || (m.cond = 1 && i = 0) || (m.cond = 2 && 0 < i)
  s.setChan k (fun ch => { ch with entry := some (e.goto m (if taken then m.tgt else e.upc + 1)) })
def execBrfWord (s : State) : Host.Outcome State Fault Refusal := .next (s.microTurn 6 s.branchWord)

/-- WAIT: every running bank has completed every earlier word. -/
def execWaitWord (s : State) : Host.Outcome State Fault Refusal :=
  .next (s.microTurn 7 (fun k e m => s.setChan k (fun ch => { ch with entry := some (e.goto m (e.upc + 1)) })))

/-- END: the rows written are sealed if the word says so, in every bank that finished (R428, R429). -/
def State.finishWord (s : State) (k : Nat) (e : Entry) (m : Micro) : State :=
  let t := if m.sealRows then
      (e.wrote.filter (fun w => e.banks.contains w.1)).foldl
        (fun t w => t.setRowState k w.1 (blockSub e.cmd.bytes) w.2 .isSealed) s
    else s
  t.endEntry k e.cmd (e.poisonFault k)
def execEndWord (s : State) : Host.Outcome State Fault Refusal := .next (s.microTurn 8 s.finishWord)

/-! ## Refresh, the watchdog, power (R430, R433, R437) -/

/-- BEAD_REFRESH changes no cell, no row state and no counter. -/
def execBeadRefresh (s : State) : Host.Outcome State Fault Refusal := .next s

/-- A class-0 notice to system software that a watchdog of a channel has expired: the host sees it under tag 0xFD. -/
def State.watchdogNotice (s : State) (k : Nat) : State :=
  { s with answers := s.answers ++ [[0xFD, BitVec.ofNat 8 (k / 32), BitVec.ofNat 8 (k % 32)]] }

/-- BEAD_WATCHDOG_EXPIRE (R433): every row the entry wrote becomes expired, a poisoned one too. -/
def execBeadWatchdogExpire (s : State) : Host.Outcome State Fault Refusal :=
  let k := s.args.unit
  let ch := s.chan k
  match ch.entry with
  | some e =>
    if ch.parked != 0 || !e.due s.tide then .next s
    else
      let sub := blockSub e.cmd.bytes
      let t := e.wrote.foldl (fun t w => t.setRowState k w.1 sub w.2 .expired) s
      let out := (List.range 16).filter (fun n => (ch.mode[n]?).getD 0 == 1)
      let t := out.foldl (fun (t : State) n => { t with workRows := keyRange t.workRows (bankRows k n).1 (bankRows k n).2 [] }) t
      let t := t.setChan k (fun ch => { ch with mode := ch.mode.map (fun x => if x = 1 then 0 else x) })
      .next ((t.endEntry k e.cmd (some (BEAD_WATCHDOG, beadAddr e.banks k sub 0 0 e.last))).watchdogNotice k)
  | none => .next s

/-- A bank holds valid work rows. -/
def State.bankLive (s : State) (k n : Nat) : Bool :=
  s.workRows.any (fun x => (bankRows k n).1 ≤ x.1 && x.1 < (bankRows k n).2)

/-- A bank goes down: work rows that hold valid state are saved first. -/
def State.bankDown (s : State) (k n : Nat) : State :=
  if ((s.chan k).power[n]?).getD 0 != 0 then s
  else if s.bankLive k n then (s.saveBank k n).setChan k (fun c => { c with power := c.power.set n 2 })
  else s.setChan k (fun c => { c with power := c.power.set n 1 })

/-- BANK_POWER_DOWN: only in power-down-allowed mode (R449). -/
def execBankPowerDown (s : State) : Host.Outcome State Fault Refusal :=
  let k := s.args.unit
  let n := s.args.sub
  .next (if ((s.chan k).mode[n]?).getD 0 = 2 then s.bankDown k n else s)

/-- A layer goes into self-refresh: running entries are parked first, so each must stand at a micro-loop boundary; the
work rows are saved (R437). None while an entry has not reached one. -/
def State.tripChan (s : State) (k : Nat) : Option State :=
  let down (t : State) : State := (List.range 16).foldl (fun t n => t.bankDown k n) t
  match (s.chan k).entry with
  | some e =>
    if (s.chan k).parked != 0 then some (down s)
    else if e.atRep then some (down (s.parkEntry k 2 e))
    else none
  | none => some (down s)

/-- The layer returns: every bank restores what it saved, and an entry that the trip parked goes on. -/
def State.returnChan (s : State) (k : Nat) : State :=
  let t := (List.range 16).foldl (fun t n => t.wakeBank k n) s
  match (s.chan k).entry with
  | some e => if (s.chan k).parked = 2 then t.unparkEntry k e else t
  | none => t

/-! ## Issue of queue commands (R440) -/

/-- Place a command in a bead queue, the last issue check (R24). -/
def State.acceptBead (s : State) (k opc : Nat) (op : Instr) (args : List Word) (bytes : List Byte) :
    Except Stop (State × Nat) := do
  let q := (s.chan k).queue
  let seq := q.issue + 1
  let c : Cmd := { seq, pc := s.self.pc, who := s.issuer, op, args, bytes, born := s.serial }
  let entry := leBytes 2 opc ++ (args.map (fun a => leBytes 8 a.toNat)).flatten ++ bytes
  let t ← if q.outstanding.length < entriesOf 3 then .ok s else s.spill 3 0 k c entry
  return (t.setChan k (fun ch => { ch with queue := { ch.queue with issue := seq, cmds := ch.queue.cmds ++ [c] } }), seq)

/-- A bead queue identifier in a register (R28, R440): its channel; supervisor forms skip the partition check. -/
def State.beadQueue (s : State) (q : Word) (id : Nat) (partition : Bool) : Except Stop Nat := do
  need (id < 2 ^ 32 && bitsOf id 31 28 == 3 && bitsOf id 23 8 == 0 && bitsOf id 7 0 < 32) ILL_FIELD q
  let k := bitsOf id 27 24 * 32 + bitsOf id 7 0
  need (!partition || s.inPartition s.crew.asid k) SPACE_RANGE q
  return k

/-- The argument-block checks of slot `n` (R426, R442). -/
def slotFault (bs : List Byte) (n : Nat) : Option (BitVec 8) :=
  let p := blockArg bs n
  if p == 0 then none
  else match ptrFault p with
    | some c => some c
    | none => if ptrChan p != blockChan bs || ptrSub p != blockSub bs || ptrCol p != 0 then some ILL_FIELD else none

/-- bcall (R442). -/
def State.bcall (s : State) (f : FA) : Except Stop State := do
  let a ← s.srcG f.a f.trap
  let b ← s.srcG f.b f.trap
  need (b.toNat ≤ 63) ILL_FIELD b
  let (bs, s) ← s.issueRead a 128
  need (!(blockBanks bs).isEmpty && bitsOf (field bs 0 8) 32 16 == 0 && field bs 0x10 16 == 0 && field bs 0x60 32 == 0)
    ILL_FIELD a
  match (List.range 8).filterMap (slotFault bs) with
  | code :: _ => .error (.fault code a)
  | [] => .ok ()
  need ((blockBanks bs).all (fun n => sget none s.subOwner (subId (blockChan bs) n (blockSub bs)) == some s.crew.asid))
    SPACE_RANGE a
  let x := blockArg bs 0
  let y := blockArg bs 1
  need (x == 0 || y == 0 || ptrFmt x == ptrFmt y) FMT_MISMATCH a
  need (x == 0 || y == 0 || ptrTag x == ptrTag y) ROT_TAG_MISMATCH a
  s.destFree (.g f.d.toNat)
  let (t, seq) ← s.acceptBead (blockChan bs) 0xB2 (.bcall f) [b] bs
  return (t.sequenceTo f.d seq).advance 4
def execBcall (f : FA) (s : State) := finish s (s.bcall f)

/-- bfence (R443): it acquires what the commands up to the number have done. -/
def State.bfence (s : State) (f : FA) : Except Stop State := do
  let a ← s.srcG f.a f.trap
  let b ← s.srcG f.b f.trap
  let k ← s.beadQueue a a.toNat true
  s.await (s.reached (.bead k) b.toNat)
  return (s.meets { after := [(.bead k, b.toNat)] }).advance 4
def execBfence (f : FA) (s : State) := finish s (s.bfence f)

def State.runIssue (s : State) (opc : Nat) (op : Instr) (f : FA) (keyed partition : Bool) : Except Stop State := do
  let a ← s.srcG f.a f.trap
  let b ← s.srcG f.b f.trap
  need (runCount b != 0 && ptrRow a + runCount b ≤ 1024 && wbits b 63 32 == 0 && wbits b 15 11 == 0 &&
    (!keyed || runKey b != 0)) ILL_FIELD b
  need (!partition || sget none s.subOwner (subId (ptrChan a) (ptrBank a) (ptrSub a)) == some s.crew.asid) SPACE_RANGE a
  let (t, _) ← s.acceptBead (ptrChan a) opc op [a, b] []
  return t.advance 4
def execBlock (f : FA) (s : State) := finish s (s.runIssue 0xB4 (.block f) f true true)
def execBunlk (f : FA) (s : State) := finish s (s.runIssue 0xB5 (.bunlk f) f true true)
def execBseal (f : FA) (s : State) := finish s (s.runIssue 0xB6 (.bseal f) f false true)
def execBscrub (f : FA) (s : State) := finish s (s.runIssue 0xBE (.bscrub f) f false false)

/-- bstat (R445). -/
def State.bstat (s : State) (f : FA) : Except Stop State := do
  let a ← s.srcG f.a f.trap
  need (wbits a 63 36 == 0) ILL_FIELD a
  let k ← s.beadQueue a (wbits a 31 0) true
  let sel := wbits a 35 32
  need (sel ≤ 6) ILL_FIELD a
  need (sel != 6 || s.self.priv) PRIV s.self.pc
  let ch := s.chan k
  let q := ch.queue
  let modes (x : Nat) : Nat := (List.range 16).foldl (fun v n => if (ch.mode[n]?).getD 0 = x then v + 2 ^ n else v) 0
  s.destFree (.g f.d.toNat)
  let t := if sel = 6 then s.setChan k (fun c => { c with queue := { c.queue with latch := none } }) else s
  t.result f.d 4 (match sel with
    | 0 => word q.issue
    | 1 => word q.completion
    | 3 => word (modes 1 + 2 ^ 16 * modes 2 + 2 ^ 32 * b2n (ch.entry.isSome && ch.parked == 0) + 2 ^ 33 * b2n (ch.parked != 0))
    | 4 => word ch.wd.toNat
    | 5 => (q.latch.map (·.addr)).getD 0
    | _ => word q.latched)
def execBstat (f : FA) (s : State) := finish s (s.bstat f)

/-! ## Supervisor instructions (R446 to R451) -/

/-- bcsl; MODE when the host loads control stores (16 R485). -/
def State.bcsl (s : State) (f : FA) : Except Stop State := do
  let a ← s.srcG f.a f.trap
  let b ← s.srcG f.b f.trap
  need (!s.mod.duty.getLsbD 2) MODE s.self.pc
  need (canonical a) VA_NONCANON a
  need (a.toNat % 64 = 0) ALIGN a
  let k ← s.beadQueue b b.toNat false
  let bs ← (List.range 66).mapM (fun i => s.strongRead (a + word (64 * i)) 64)
  match imageFault bs.flatten with
  | some o => .error (.fault BEAD_ENTRY (a + word o))
  | none => do
    let s := (List.range 66).foldl (fun t i => t.lookedAt (a + word (64 * i)) 64) s
    let (t, _) ← s.acceptBead k 0xB8 (.bcsl f) [a] bs.flatten
    return t.advance 4
def execBcsl (f : FA) (s : State) := finish s (s.bcsl f)

/-- bsave (R447). -/
def State.bsave (s : State) (f : FA) : Except Stop State := do
  let a ← s.srcG f.a f.trap
  let k ← s.beadQueue a a.toNat false
  let ch := s.chan k
  let me := (s.self.crew, s.self.idx)
  let valid (n : Nat) : Sparse (Option Row) :=
    s.workRows.filter (fun x => (bankRows k n).1 ≤ x.1 && x.1 < (bankRows k n).2)
  if ch.parkersDone.contains me then
    return (s.setChan k (fun c => { c with parkersDone := c.parkersDone.filter (· != me) })).advance 4
  else match ch.entry with
    | some e =>
      if ch.parked != 0 then return s.advance 4
      else if e.atRep then return (s.parkEntry k 1 e).advance 4
      else
        let t := if ch.parkers.contains me then s else s.setChan k (fun c => { c with parkers := c.parkers ++ [me] })
        .error t.retry
    | none =>
      let rows := (List.range 16).flatMap valid
      return ({ s with saveRows := rows.foldl (fun m x => sset none m x.1 x.2) s.saveRows } : State).advance 4
def execBsave (f : FA) (s : State) := finish s (s.bsave f)

/-- brest (R447), for which a bank that is down wakes; a save row never written reads as zeros (log 10). -/
def State.brest (s : State) (f : FA) : Except Stop State := do
  let a ← s.srcG f.a f.trap
  let k ← s.beadQueue a a.toNat false
  let ch := s.chan k
  let back (t : State) (n : Nat) : State :=
    let r := bankRows k n
    let rows := (List.range 512).map (fun i => (r.1 + i, some ((sget none s.saveRows (r.1 + i)).getD 0)))
    { t with workRows := keyRange t.workRows r.1 r.2 rows }
  s.await (!s.chanDown k)
  let s := (List.range 16).foldl (fun t n => t.wakeBank k n) s
  match ch.entry with
  | some e => if ch.parked != 0 then return (s.unparkEntry k e).advance 4 else return ((List.range 16).foldl back s).advance 4
  | none => return ((List.range 16).foldl back s).advance 4
def execBrest (f : FA) (s : State) := finish s (s.brest f)

/-- bwdog (R448). -/
def State.bwdog (s : State) (f : FA) : Except Stop State := do
  let a ← s.srcG f.a f.trap
  let b ← s.srcG f.b f.trap
  let k ← s.beadQueue a a.toNat false
  need (b.toNat < 2 ^ 32) ILL_FIELD b
  return (s.setChan k (fun c => { c with wd := b.setWidth 32 })).advance 4
def execBwdog (f : FA) (s : State) := finish s (s.bwdog f)

/-- bmode (R449). -/
def State.bmode (s : State) (f : FA) : Except Stop State := do
  let a ← s.srcG f.a f.trap
  let (t, _) ← s.acceptBead (ptrChan a) 0xBC (.bmode f) [a] []
  return t.advance 4
def execBmode (f : FA) (s : State) := finish s (s.bmode f)

/-- bpart (R450). -/
def State.bpart (s : State) (f : FA) : Except Stop State := do
  let a ← s.srcG f.a f.trap
  let b ← s.srcG f.b f.trap
  need (wbits b 63 17 == 0) ILL_FIELD b
  let (t, _) ← s.acceptBead (ptrChan a) 0xBD (.bpart f) [a, b] []
  return t.advance 4
def execBpart (f : FA) (s : State) := finish s (s.bpart f)

/-! ## Execution of queue commands -/

def execBlockExec (s : State) : Host.Outcome State Fault Refusal :=
  .next (s.beadTurn (fun i => match i with
    | .block _ => true
    | _ => false) (fun k c =>
      let a := c.args.getD 0 0
      let b := c.args.getD 1 0
      let n := ptrBank a
      let sub := ptrSub a
      match (runRows a b).find? (fun r => s.lockOf k n sub r != 0 && s.lockOf k n sub r != runKey b) with
      | some r => .error (BEAD_LOCKED, beadAddr [n] k sub r 0 0)
      | none => .ok ((runRows a b).foldl (fun t r => t.setLock k n sub r (runKey b)) s)))

def execBunlkExec (s : State) : Host.Outcome State Fault Refusal :=
  .next (s.beadTurn (fun i => match i with
    | .bunlk _ => true
    | _ => false) (fun k c =>
      let a := c.args.getD 0 0
      let b := c.args.getD 1 0
      let mine := (runRows a b).filter (fun r => s.lockOf k (ptrBank a) (ptrSub a) r == runKey b)
      .ok (mine.foldl (fun t r => t.setLock k (ptrBank a) (ptrSub a) r 0) s)))

def execBsealExec (s : State) : Host.Outcome State Fault Refusal :=
  .next (s.beadTurn (fun i => match i with
    | .bseal _ => true
    | _ => false) (fun k c =>
      let a := c.args.getD 0 0
      let b := c.args.getD 1 0
      let n := ptrBank a
      let sub := ptrSub a
      match (runRows a b).find? (fun r => s.lockOf k n sub r != 0 && s.lockOf k n sub r != runKey b) with
      | some r => .error (BEAD_LOCKED, beadAddr [n] k sub r 0 0)
      | none =>
        let rows := (runRows a b).filter (fun r => s.stateOfRow k n sub r == .unsealed || s.stateOfRow k n sub r == .expired)
        .ok ((s.wakeBank k n).setRows k n sub rows .isSealed)))

def execBcslExec (s : State) : Host.Outcome State Fault Refusal :=
  .next (s.beadTurn (fun i => match i with
    | .bcsl _ => true
    | _ => false) (fun k c => .ok (s.setChan k (fun ch => { ch with store := c.bytes }))))

/-- BMODE_EXEC: a channel holds at most four banks in compute mode (R432). -/
def execBmodeExec (s : State) : Host.Outcome State Fault Refusal :=
  .next (s.beadTurn (fun i => match i with
    | .bmode _ => true
    | _ => false) (fun k c =>
      let fn : Nat := match c.op with
        | .bmode f => f.fn.toNat
        | _ => 0
      let n := ptrBank (c.args.headD 0)
      let others := (List.range 16).filter (fun i => i != n && ((s.chan k).mode[i]?).getD 0 = 1)
      if fn = 1 && 4 ≤ others.length then .error (MODE, beadAddr [n] k 0 0 0 0)
      else .ok ((if fn = 2 then s else s.wakeBank k n).setChan k (fun ch => { ch with mode := ch.mode.set n fn }))))

/-- Make a subarray zero, sealed and unlocked, with invalid work rows. -/
def State.clearSub (s : State) (k n sub : Nat) : State :=
  let id := subId k n sub
  let part {α : Type} (m : Sparse α) (n : Nat) : Sparse α := keyRange m (id * n) (id * n + n) []
  { s with
    mem := part s.mem (2 ^ 20)
    lineKey := part s.lineKey (2 ^ 13)
    dirty := part s.dirty (2 ^ 13)
    poison := part s.poison (2 ^ 17)
    rowState := part s.rowState (1024)
    rowLock := part s.rowLock (1024)
    workRows := part s.workRows (8) }

/-- BPART_EXEC. -/
def execBpartExec (s : State) : Host.Outcome State Fault Refusal :=
  .next (s.beadTurn (fun i => match i with
    | .bpart _ => true
    | _ => false) (fun k c =>
      let a := c.args.getD 0 0
      let b := c.args.getD 1 0
      let n := ptrBank a
      let sub := ptrSub a
      let asid : BitVec 16 := b.setWidth 16
      let owner := sget none s.subOwner (subId k n sub)
      if owner.isSome && owner != some asid then .error (MODE, beadAddr [n] k sub 0 0 0)
      else
        let t := ((s.wakeBank k n).clearSub k n sub).record
          { s.eventFor (.bead k) c with writes := true, strong := true, words := [subName (subId k n sub)], stamp := s.writes }
        .ok { t with subOwner := sset none t.subOwner (subId k n sub) (if b.getLsbD 16 then some asid else none) }))

/-- BSCRUB_EXEC (R451): the sealed rows are read; the flag says that the row `sub` of them holds an uncorrectable
error. -/
def execBscrubExec (s : State) : Host.Outcome State Fault Refusal :=
  .next (s.beadTurn (fun i => match i with
    | .bscrub _ => true
    | _ => false) (fun k c =>
      let a := c.args.getD 0 0
      let n := ptrBank a
      let sub := ptrSub a
      let r := s.args.sub
      let t := s.wakeBank k n
      if s.args.flag && (runRows a (c.args.getD 1 0)).contains r && s.stateOfRow k n sub r == .isSealed then
        .ok ((t.setRowState k n sub r .poisoned).machineCheck MC_DRAM_UE (k / 32) c.who.asid (beadAddr [n] k sub r 0 0))
      else .ok t))

end Sys2Proof.Machine
end

