-- ==== Sys2Proof/Machine/Resolver.lean ====
section
/-! DEFINITION. Resolver.lean: writes to the register window that have a behaviour of their own; key loads, shoot-downs,
the page-fault resolver, residency and migration (15 R469 to R478). -/

namespace Sys2Proof.Machine

/-! ## Register events (17 R488) -/

/-- The earliest store of a strand to an offset of the register window that is in order. -/
def State.windowStore (s : State) (off : Nat) : Option (Req × Word) :=
  match s.reqs.find? (fun r => r.space == .win && r.addr.toNat == off && r.op.isStore && s.ordered r) with
  | some r =>
    match r.op with
    | .store data => some (r, leWord data)
    | _ => none
  | none => none

/-- A write of one register is performed: a strand's, which then counts as done; else, for a register of BAR0, the
host's, of the event's value, through a port that is up (16 R479, R480). -/
def State.regEvent (s : State) (off : Nat) (f : State → Word → State) : Host.Outcome State Fault Refusal :=
  match s.windowStore off with
  | some (r, v) => .next (f (s.dropReq r.id).tidy v)
  | none => if off < 0x41000 && s.mod.ports.any (fun up => up) then .next (f s (s.args.value.setWidth 64)) else .next s

def towerReg (t o : Nat) : Nat := 0x200000 + 0x1000 * t + o

/-- A key is loaded into a slot: lines stored under the old key stay so, and those of the slot's leaves that stand in L2, in plaintext, are
encrypted under the new one when they are written back (R476, R477; log 14). -/
def State.loadKey (s : State) (slot : Nat) (key : BitVec 512) : State :=
  let old := sget none s.keys slot
  { s with
    keys := sset none s.keys slot (some key)
    lineKey := if old.isNone then s.lineKey else (s.lineKey.filter (fun e => e.2 == old && sget false s.dirty e.1)).foldl (fun m e => sset none m e.1 (some key)) s.lineKey }

/-- KEY_LOAD (R477): slot 0 cannot be loaded. -/
def execKeyLoad (s : State) : Host.Outcome State Fault Refusal :=
  let t := s.args.unit % 16
  s.regEvent (towerReg t 0x98) (fun s v =>
    let key := put64 (s.tower t).keydata 7 v
    let slot := (s.tower t).kslot.toNat
    let u := s.setTower t (fun x => { x with keydata := key })
    if slot = 0 then u else u.loadKey slot key)

/-! ## Shoot-downs (R469) -/

/-- An address lies in the range a shoot-down names: a page of 64 KiB, 2 MiB or 1 GiB, or the whole address space. -/
def inShoot (size : Nat) (base va : Word) : Bool :=
  match size with
  | 0 => va.toNat / 2 ^ 16 == base.toNat / 2 ^ 16
  | 1 => va.toNat / 2 ^ 21 == base.toNat / 2 ^ 21
  | 2 => va.toNat / 2 ^ 30 == base.toNat / 2 ^ 30
  | _ => true

/-- Drop every cached translation and every copy of a range, in TLBs, walkers' caches, caches, fetch queues and loop buffers: what lies
in the range, and what covers it, by its size and number. -/
def State.shootRange (s : State) (asid : BitVec 16) (hit : Word → Bool) (covers : Nat → Nat → Bool) : State :=
  let clear (st : Strand) : Strand :=
    if (s.crewById st.crew).asid == asid then { st with ahead := st.ahead.filter (fun l => !hit (word (128 * l.vline))) }
    else st
  { s with
    tlb := s.tlb.filter (fun e => !(e.asid == asid && (hit (word (e.page * e.leaf.size)) || covers e.leaf.size e.page)))
    walked := s.walked.filter (fun w => !(w.asid == asid && (hit (word (w.region * regionSize w.level)) || covers (regionSize w.level) w.region)))
    copies := s.copies.filter (fun c => !(c.asid == asid && hit (word (128 * c.vline))))
    self := clear s.self
    peers := s.peers.map clear
    saved := s.saved.map clear }

/-- A shoot-down of a page or an address space; a cached leaf larger than the range covers it as well. -/
def State.shoot (s : State) (asid : BitVec 16) (size : Nat) (base : Word) : State :=
  s.shootRange asid (inShoot size base) (fun n p => size < 3 && base.toNat / n == p)

/-- The pages of the larger leaves that a shoot-down drops from TLBs: first address and size. -/
def State.dropped (s : State) (asid : BitVec 16) (size : Nat) (base : Word) : List (Nat × Nat) :=
  (s.tlb.filter (fun e => e.asid == asid && size < 3 && base.toNat / e.leaf.size == e.page)).map (fun e =>
    (e.page * e.leaf.size, e.leaf.size))

/-- After a shoot-down of its address space a context tries its held completion record again (05 R167). -/
def State.retryHeld (s : State) (asid : BitVec 16) : State :=
  { s with ctxs := s.ctxs.map (fun c => if c.held && c.asid == asid then { c with retry := true } else c) }

/-- SHOOT_DOWN: a write of the word at 0x10; while a shoot-down runs it is ignored. What it names is kept until it is
done. -/
def execShootDown (s : State) : Host.Outcome State Fault Refusal :=
  let t := s.args.unit % 16
  s.regEvent (towerReg t 0x10) (fun s v =>
    if (s.tower t).sdbusy then s
    else
      let asid : BitVec 16 := v.extractLsb' 48 16
      let size : BitVec 2 := v.extractLsb' 46 2
      let base := (s.tower t).sdva
      let u := s.setTower t (fun x => { x with sdasid := asid, sdsize := size })
      if v.getLsbD 0 then
        (u.shoot asid size.toNat base).setTower t (fun x =>
          { x with sdbusy := true, sdmark := s.serial, sdrun := (base, asid, size), sdgone := s.dropped asid size.toNat base })
      else u)

/-- An access translated before the shoot-down of a tower, under an entry that it dropped, has not been performed: one of a
strand of a placed crew, or a begun command's, at its destination or its sources. -/
def State.shootOpen (s : State) (x : Tower) : Bool :=
  let hit (a : Word) : Bool := inShoot x.sdrun.2.2.toNat x.sdrun.1 a || x.sdgone.any (fun g => g.1 ≤ a.toNat && a.toNat < g.1 + g.2)
  s.reqs.any (fun r => r.id < x.sdmark && r.who.asid == x.sdrun.2.1 && r.space == .g && r.place.isSome && hit r.addr &&
      !(s.crewById r.who.crew).saved) ||
    s.claims.any (fun c => c.granted && c.asid == x.sdrun.2.1 && (c.cells ++ c.src).any (fun y => Place.isG y.place && hit y.va))

/-- The words of declared ranges that lie in a part of an address space lie where its pages now put them (10 R323); one of a page that
is not there lies nowhere. -/
def State.relocate (s : State) (t : Nat) (asid : BitVec 16) (hit : Word → Bool) : State :=
  { s with ranges := s.ranges.map (fun r =>
      if r.asid != asid then r
      else { r with places := r.places.filter (fun x => !hit (word (8 * x.1))) ++ (r.words.filter (fun a => hit (word a))).filterMap (fun a =>
        match s.translate t asid false .any (word a) with
        | .ok x => some (a / 8, x.place / 8)
        | .error (.waits _) => r.places.find? (fun x => x.1 == a / 8)
        | .error _ => none) }) }

/-- Ranges end when their address space is destroyed (10 R324): when, its translations dropped, its table entry names none
(log 33). -/
def State.endRanges (s : State) (t : Nat) (asid : BitVec 16) : State :=
  match s.walk t asid 0 with
  | .noSpace => { s with ranges := s.ranges.filter (fun r => r.asid != asid) }
  | _ => s

/-- SHOOT_DOWN_DONE: every access translated before has been performed; copies they brought in meanwhile are dropped. -/
def execShootDownDone (s : State) : Host.Outcome State Fault Refusal :=
  let t := s.args.unit % 16
  let x := s.tower t
  if !x.sdbusy || s.shootOpen x then .next s
  else .next (((((s.shoot x.sdrun.2.1 x.sdrun.2.2.toNat x.sdrun.1).endRanges t x.sdrun.2.1).relocate t x.sdrun.2.1
    (inShoot x.sdrun.2.2.toNat x.sdrun.1)).setTower t (fun x => { x with sdbusy := false })).retryHeld x.sdrun.2.1)

/-! ## Moving a page (R338, R475) -/

/-- The places of a page's lines under a leaf. -/
def State.pageLines (s : State) (policy skew pa size : Nat) : List Nat :=
  (List.range (size / 128)).map (fun i => s.placeOf policy skew pa (128 * i))
def State.leafLines (s : State) (l : Leaf) : List Nat := (List.range (l.size / 128)).map (fun i => s.leafPlace l (128 * i))

/-- Copy a line under its key, with its publish mark and its poison; banks that are down wake (14 R438). The words stay the same ones:
the copy is no write of theirs (04 R155). -/
def State.copyLine (s : State) (key : Option (BitVec 512)) (x : Nat × Nat) : State :=
  let t := ((s.wakeAt x.1).wakeAt x.2).putAt key x.2 (s.bytesAt key x.1 128)
  { t with
    unpub := sset false t.unpub (x.2 / 128) (sget false s.unpub (x.1 / 128))
    poison := (List.range 16).foldl (fun m i => sset false m (x.2 / 8 + i) (sget false s.poison (x.1 / 8 + i))) t.poison }

/-- Nothing but leases and earlier operations keeps the lines from being moved: none is out of reach, stranded, owned, or a
begun command's source (R473, R475). -/
def State.atRest (s : State) (lines : List Nat) : Bool :=
  lines.all (fun l => !s.unreachable (128 * l) && !sget false s.stranded l && !s.ownedAt (128 * l) 128) &&
    s.claims.all (fun c => !c.granted || c.src.all (fun y => !lines.contains (y.place / 128)))

/-- The old homes have given up lines in flight (R338 steps 2 and 3): the operations that had arrived before are performed,
and no lease on the page is unexpired. -/
def State.gaveUp (s : State) (lines : List Nat) : Bool :=
  s.atRest lines &&
    s.reqs.all (fun r => r.arrived = 0 || (s.crewById r.who.crew).saved || !lines.contains (r.place.getD 0 / 128)) &&
    lines.all (fun l => sget 0 s.lexp l ≤ s.tide) &&
    s.ranges.all (fun r => sget 0 s.lexp r.unit ≤ s.tide || r.places.all (fun w => !lines.contains (w.2 / 16))) &&
    s.copies.all (fun c => c.expiry ≤ s.tide || !lines.contains c.line)

/-- The number under which the move of a page, by its first line, holds units. -/
def moveHold (lines : List Nat) : Nat := 2 ^ 90 + lines.headD 0
/-- A move sets HOLD on the units of declared ranges that have words on its page: no further lease on them is granted through other
pages (10 R319, R338). -/
def State.holdMoving (s : State) (lines : List Nat) : State :=
  let units := (s.ranges.filter (fun r => r.places.any (fun w => lines.contains (w.2 / 16)))).map Range.unit
  if units.isEmpty then s else s.holdOn 0 (moveHold lines) units

/-- Drain a page: its lines are marked in flight once none of them is, and then given up. -/
def State.drain (s : State) (places : List Nat) : State × Bool :=
  let lines := places.map (· / 128)
  if s.inflight.any (fun f => f.moving && f.lines == lines) then ((s.holdMoving lines), s.gaveUp lines)
  else if lines.all (fun l => (s.flightOf (128 * l)).isNone) && s.atRest lines then
    let t : State := { s with inflight := s.inflight ++ [{ lines, moving := true }] }
    (t.holdMoving lines, t.gaveUp lines)
  else (s, false)

/-- The lines of a page are in flight no more: the requests recorded there are served in arrival order, where they go now
(R338 step 4). -/
def State.land (s : State) (places : List Nat) : State :=
  let lines := places.map (· / 128)
  match s.inflight.find? (fun f => f.moving && f.lines == lines) with
  | some f => State.serveRecorded { (s.holdOff 0 (moveHold lines)) with inflight := s.inflight.filter (fun g => g != f) } f.recorded
  | none => s

/-- The name of a word in the history once lines have moved: it goes with its line; what stood before where a line has come to is told
apart from it by a name of its own, above all others. -/
def movedName (pairs : List (Nat × Nat)) (apart : Nat) (w : Nat) : Nat :=
  match pairs.find? (fun x => x.1 / 128 == w / 16) with
  | some x => x.2 / 8 + w % 16
  | none => if pairs.any (fun x => x.2 / 128 == w / 16) then 2 ^ 120 + apart * 2 ^ 80 + w else w

/-- Move a page's lines to new places, with the requests, the range units and the history's words that name the old ones: what came
before the move and what comes after it meet in the same words (04 R155). -/
def State.moveLines (s : State) (key : Option (BitVec 512)) (pairs : List (Nat × Nat)) : State :=
  let to_ (p : Nat) : Nat := ((pairs.find? (fun x => x.1 / 128 == p / 128)).map (fun x => x.2 + p % 128)).getD p
  let t := pairs.foldl (fun t x => t.copyLine key x) s
  { t with
    reqs := t.reqs.map (fun r => { r with place := r.place.map to_ })
    history := t.history.map (fun e => { e with words := e.words.map (movedName pairs s.history.length) })
    veils := t.veils.map (fun v => { v with words := v.words.map (movedName pairs s.history.length) })
    ranges := t.ranges.map (fun r => { r with places := r.places.map (fun w => (w.1, to_ (8 * w.2) / 8)) }) }

/-- The value of the entry that a leaf was found in; it is replaced by an atomic at its home, once its line is free (R471). -/
def State.entryNow (s : State) (l : Leaf) : Nat := leNat (s.bytesAt (s.keyOf l.entryKey) l.entry 8)

/-- Move the page of a leaf to new lines and write its new entry, of which the old one is shot down (R475). -/
def State.movePage (s : State) (asid : BitVec 16) (l : Leaf) (page : Nat) (old new : List Nat) (entry : Nat) : State :=
  let t := s.moveLines (s.keyOf l.key) (old.zip new)
  let u := (t.wakeAt l.entry).writeAt (t.keyOf l.entryKey) l.entry (leBytes 8 entry)
  ((u.shootRange asid (fun a => a.toNat / l.size == page) (fun n p => page * l.size / n == p)).land old).retryHeld asid

/-- Replace ADDR, POLICY and SKEW of a leaf. -/
def leafAt (e pa policy skew : Nat) : Nat :=
  e / 2 ^ 52 * 2 ^ 52 + pa + skew * 2 ^ 9 + policy * 2 ^ 7 + e % 2 ^ 7

/-- Migrate a page for a tower (R475): 0 done, 1 MALFORMED, 2 CHANGED, 3 not present; none while it waits. Where no leaf gives a
size, the destination is checked as that of a 64 KiB page (log 33). -/
def State.migrate (s : State) (n : Nat) (asid : BitVec 16) (va : Word) (found : Option (Leaf × Nat)) (dst : Nat) : State × Option Nat :=
  let policy := bitsOf dst 8 7
  let skew := bitsOf dst 11 9
  let pa := bitsOf dst 51 12 * 4096
  let bad (size : Nat) : Bool := 3 ≤ skew || (skew != 0 && 2 ≤ policy) || !s.rangeOk policy skew pa size
  match found with
  | none => (s, some (if bad 65536 then 1 else 3))
  | some (l, e) =>
    let old := s.leafLines l
    let new := s.pageLines policy skew pa l.size
    if bad l.size then (s.land old, some 1)
    else
      let (t, ready) := s.drain old
      if !ready || new.any (fun p => s.hostHeld p 128) then (t, none)
      else match t.moduleWrite (70 + n) l.entry 8 with
        | .error t => (t, none)
        | .ok t =>
          if t.entryNow l != e then (t.land old, some 2)
          else (t.movePage asid l (va.toNat / l.size) old new (leafAt e pa policy skew), some 0)

/-- A migration begins at a write of the word at 0x28, and finds the page's leaf; a poisoned entry is a machine check, and
no leaf (log 33). -/
def State.beginMigration (s : State) (t : Nat) (v : Word) : State :=
  let x := s.tower t
  let asid : BitVec 16 := v.extractLsb' 48 16
  let u := s.setTower t (fun x => { x with mgasid := asid, mgres := v.extractLsb' 2 2 })
  let go (u : State) (found : Option (Leaf × Nat)) : State :=
    u.setTower t (fun x => { x with mgbusy := true, mgrun := (x.mgva, asid, x.mgdst), mgleaf := found })
  if !v.getLsbD 0 then u
  else if s.bootMapped asid || !canonical x.mgva then go u none
  else match s.walk t asid x.mgva with
    | .leaf l _ => go u (some (l, s.entryNow l))
    | .poisoned => go (u.machineCheck MC_POISON t asid x.mgva) none
    | _ => go u none

/-- MIGRATION: a write of the word at 0x28, ignored while a migration runs; then the page moves. -/
def execMigration (s : State) : Host.Outcome State Fault Refusal :=
  let t := s.args.unit % 16
  let x := s.tower t
  match s.windowStore (towerReg t 0x28) with
  | some (r, v) =>
    let u := (s.dropReq r.id).tidy
    if x.mgbusy then .next u
    else match s.walk t (v.extractLsb' 48 16) x.mgva with
      | .waits p => .next (s.wakeAt p)
      | _ => .next (u.beginMigration t v)
  | none =>
    if !x.mgbusy then .next s
    else
      let (u, res) := s.migrate t x.mgrun.2.1 x.mgrun.1 x.mgleaf x.mgrun.2.2.toNat
      match res with
      | some k => .next (u.setTower t (fun x => { x with mgbusy := false, mgres := BitVec.ofNat 2 k, mgleaf := none }))
      | none => .next u

/-! ## A page that will not come (R471, R472) -/

/-- The commands of a queue that wait for a page that is unresolvable end faulted (12 R373, 13 R401). -/
def State.failQueue (s : State) (hit : BitVec 16 → Word → Bool) (q : QueueRef) : State :=
  (((s.queue q).map (·.cmds)).getD []).foldl (fun t c =>
    match c.pageWait with
    | some a => if hit c.who.asid a then t.endCommand q c (some (PAGE_NOT_PRESENT, c.pageFault a)) else t
    | none => t) s

/-- The accesses that wait for an unresolvable page fail: a launch ends with PAGE_NOT_PRESENT, or with QUEUE_CHAIN when
the page was a chain block's (05 R190, 13 R395); a launch record cannot be read (05 R165); a completion record is held
(05 R167). -/
def State.pageFailed (s : State) (asid : BitVec 16) (addr : Word) : State :=
  let hit (a : BitVec 16) (x : Word) : Bool := a == asid && x.toNat / 65536 == addr.toNat / 65536
  let bad := s.reqs.filter (fun r => r.fault && hit r.who.asid r.addr)
  let t := bad.foldl (fun t r => t.reqFault r PAGE_NOT_PRESENT) s
  let all := t.self :: t.peers ++ t.saved
  let waiting := all.filter (fun st => ((st.pageWait.map (hit (t.crewById st.crew).asid)).getD false) && !st.ended)
  let t := waiting.foldl (fun t st => (t.recordFault (t.crewById st.crew).ctx
      (faultOf (t.issuerOf st) st.pc st.pageCode (st.pageWait.getD 0))).mapStrand st.crew st.idx
        (fun st => { st with ended := true, wait := none, pageWait := none })) t
  let t := all.foldl (fun t st => (t.failQueue hit (.crane st.crew st.idx)).failQueue hit (.matrix st.crew st.idx)) t
  let ks := (List.range 65).filter (fun k => ((t.ctx k).pageWait.map (hit (t.ctx k).asid)).getD false)
  let qs := (List.range 65).filter (fun k => ((t.ctx k).lqWait.map (hit (t.ctx k).asid)).getD false)
  let t := qs.foldl (fun t k => (t.lighterFault k PAGE_NOT_PRESENT 0 (((t.ctx k).lqWait).getD 0)).setCtx k (fun c => { c with lqWait := none })) t
  ks.foldl (fun t k =>
    let a := ((t.ctx k).pageWait).getD 0
    let u := t.setCtx k (fun c => { c with pageWait := none, retry := false })
    if ((t.ctx k).launch.map (fun l => l.completion.isSome)).getD false then u.setCtx k (fun c => { c with held := true })
    else u.refuse k PAGE_NOT_PRESENT 0 0 a) t

/-- A page fault is over. -/
def State.endPageFault (s : State) (f : PageFault) (resolved : Bool) : State :=
  let t := { (s.holdOff 0 (2 ^ 33 + f.id)).holdOff 0 (2 ^ 60 + f.id) with pageFaults := s.pageFaults.filter (fun g => g.id != f.id) }
  if resolved then t.pageArrived f.asid f.addr else t.pageFailed f.asid f.addr

/-! ## The resolver (R470, R471, R473) -/

/-- The 8-byte entry `n` of a ring at a leaf-form address, of 2^log entries. -/
def State.frameEntry (s : State) (base : Word) (log n : Nat) : Nat :=
  let b := base.toNat
  leNat (s.readPhys (bitsOf b 8 7) (bitsOf b 51 12 * 4096) (8 * (n % 2 ^ min log 20)) 8 (bitsOf b 63 52))

/-- A fault ends or goes to the host: the copy it was to be filled from is given up no more. -/
def State.leaveSource (s : State) (f : PageFault) : State := if f.source.isEmpty then s else s.land f.source

/-- A fault goes to the host: its record will say the level of the entry and the kind of the access (16 R487). -/
def State.toHost (s : State) (f : PageFault) (level : Nat) : State :=
  let s := ((s.leaveSource f).holdOff 0 (2 ^ 33 + f.id)).holdOff 0 (2 ^ 60 + f.id)
  { s with pageFaults := s.pageFaults.map (fun g =>
      if g.id == f.id then
        { g with state := 1, host := true, info := f.info % 4 + 4 * level + 32 * (f.info / 32 % 2), source := [] }
      else g) }

/-- What the resolver wrote: the new leaf, the page in the tower's victim queue, and the accesses let go. -/
def State.resolved (s : State) (f : PageFault) (place key e pa : Nat) : State :=
  let leaf := bitsOf e 63 52 * 2 ^ 52 + pa + bitsOf e 11 9 * 2 ^ 9 + 2 ^ 7 + bitsOf e 5 3 * 8 + 7
  let t := (s.wakeAt place).writeAt (s.keyOf key) place (leBytes 8 leaf)
  ((t.setTower f.tower (fun x => { x with victims := x.victims ++ [(f.asid, f.addr.toNat / 65536, false)] })).relocate f.tower f.asid
    (inShoot 0 f.addr)).endPageFault f true

/-- The copy of a moved page cannot be read in hardware: it lies in a tower that is missing, or in outer memory that is attached to one, or
its CXL port is down (R470). -/
def State.copyGone (s : State) (policy : Nat) (places : List Nat) : Bool :=
  places.any (fun p => p < 2 * 2 ^ 60 && !s.mod.tup.getLsbD (homeTower p)) ||
    (policy = 3 && s.mod.ports.all (fun up => !up))

/-- The slot of a spill ring to which a frame that came from there goes back: its place, its key and the ring's tower (R470). -/
def State.spillSlot (s : State) (frame : Nat) : Option (Nat × Nat × Nat) :=
  (s.spills.find? (fun x => x.1 == frame)).map (fun y =>
    let x := s.tower y.2
    let b := x.spbase.toNat
    (s.placeOf (bitsOf b 8 7) 0 (bitsOf b 51 12 * 4096) (8 * (x.sptail.toNat % 2 ^ min x.splog.toNat 20)), bitsOf b 63 52, y.2))
/-- The write of that slot goes ahead, under a number of its own, or it waits (10 R319, 16 R481). -/
def State.spillReady (s : State) (id frame : Nat) : Except State State :=
  match s.spillSlot frame with
  | some x => s.moduleWrite (2 ^ 60 + id) x.1 8
  | none => .ok s
/-- A frame that came from a spill ring goes back to that ring (R470). -/
def State.returnFrame (s : State) (frame : Nat) : State :=
  match s.spillSlot frame with
  | none => s
  | some (slot, key, n) =>
    ({ ((s.wakeAt slot).writeAt (s.keyOf key) slot (leBytes 8 frame)) with
        spills := s.spills.filter (fun x => x.1 != frame) } : State).setTower n (fun x => { x with sptail := x.sptail + 1 })
/-- The frame that the copy of a moved page stands in, as the rings name it. -/
def frameOfEntry (e : Nat) : Nat := bitsOf e 51 12 * 4096 + bitsOf e 8 7 * 2 ^ 7

/-- Fill a frame for an entry and write its leaf: with zeros for KIND 1, with the copy for KIND 2, whose frame goes back to
the ring it came from. -/
def State.fillFrame (s : State) (f : PageFault) (place key e pa : Nat) (source : List Nat) : State :=
  let k := s.keyOf (bitsOf e 63 52)
  let lines := s.pageLines 1 (bitsOf e 11 9) pa 65536
  if bitsOf e 2 1 = 1 then
    (lines.foldl (fun (t : State) p => ((t.wakeAt p).writeAt k p (List.replicate 128 0)).clearPoison p 128) s).resolved f place key e pa
  else
    let t := (s.moveLines k (source.zip lines)).land source
    (t.returnFrame (frameOfEntry e)).resolved f place key e pa

/-- The page a tower evicts. -/
inductive Victim where
  | page (asid : BitVec 16) (page : Nat) (l : Leaf)
  | none
  | waits (place : Nat)
deriving DecidableEq, Repr

/-- The first page of a victim queue that is still resident in a frame, holds no stranded line, and is owned in no part
(R473). -/
def State.victim (s : State) (t : Nat) : List (BitVec 16 × Nat × Bool) → Victim
  | [] => .none
  | v :: vs =>
    match s.walk t v.1 (word (65536 * v.2.1)) with
    | .leaf l _ =>
      if l.size = 65536 && l.policy = 1 && (s.leafLines l).all (fun p =>
          !sget false s.stranded (p / 128) && !s.ownedAt p 128) then .page v.1 v.2.1 l
      else s.victim t vs
    | .waits p => .waits p
    | _ => s.victim t vs

/-- A frame for a page: the next of the free-frame ring, or that of an evicted page; or the resolver waits. -/
inductive Frame where
  | ok (s : State) (pa : Nat)
  | host
  | waits (s : State)
deriving Repr

/-- Go on with the eviction of a page of a tower to the next spill frame (R473, R475): the page is given up, and its leaf
becomes non-present; an entry that has changed ends the eviction. A malformed spill frame takes no page: the fault goes to the
host (log 33). -/
def State.evict (s : State) (t : Nat) (asid : BitVec 16) (page : Nat) (l : Leaf) (e spill : Nat) : Frame :=
  let old := s.leafLines l
  let policy := bitsOf spill 8 7
  let pa := bitsOf spill 51 12 * 4096
  let forget (u : State) : State := u.setTower t (fun x => { x with
    evicting := none
    victims := x.victims.filter (fun v => !(v.1 == asid && v.2.1 == page)) })
  let (u, ready) := s.drain old
  let stay (u : State) : Frame := .waits (u.setTower t (fun x => { x with evicting := some (asid, page, l, e) }))
  if !s.rangeOk policy 0 pa l.size then .host
  else if !ready || (s.pageLines policy 0 pa l.size).any (fun p => s.hostHeld p 128) then stay u
  else match u.moduleWrite (90 + t) l.entry 8 with
  | .error u => stay u
  | .ok u =>
  if u.entryNow l != e then .waits (forget (u.land old))
  else
    let away := bitsOf e 63 52 * 2 ^ 52 + pa + bitsOf e 11 9 * 2 ^ 9 + policy * 2 ^ 7 + bitsOf e 5 3 * 8 + 4
    let m := forget (u.movePage asid l page old (u.pageLines policy 0 pa l.size) away)
    .ok ({ (m.setTower t (fun x => { x with sphead := x.sphead + 1 })) with
      spills := m.spills ++ [(pa + policy * 2 ^ 7, t)] }) l.base

/-- The resolver reads entry `n` of a ring with a strong load at its home. -/
def State.ringReady (s : State) (base : Word) (log n : Nat) : Except Nat Nat :=
  let b := base.toNat
  let p := s.placeOf (bitsOf b 8 7) 0 (bitsOf b 51 12 * 4096) (8 * (n % 2 ^ min log 20))
  if s.readable p then .ok (s.frameEntry base log n) else .error p

def State.takeFrame (s : State) (t : Nat) : Frame :=
  let x := s.tower t
  if x.fftail != x.ffhead then
    match s.ringReady x.ffbase x.fflog.toNat x.ffhead.toNat with
    | .ok e => .ok (s.setTower t (fun x => { x with ffhead := x.ffhead + 1 })) (bitsOf e 51 12 * 4096)
    | .error p => .waits (s.wakeAt p)
  else if x.sptail == x.sphead then .host
  else match s.ringReady x.spbase x.splog.toNat x.sphead.toNat with
    | .error p => .waits (s.wakeAt p)
    | .ok spill =>
      match x.evicting with
      | some (asid, page, l, e) => s.evict t asid page l e spill
      | none =>
        match s.victim t x.victims with
        | .none => .host
        | .waits p => .waits (s.wakeAt p)
        | .page asid page l => s.evict t asid page l (s.entryNow l) spill

/-- An eviction that no fault of its tower needs any more is given up. -/
def State.dropEviction (s : State) (t : Nat) : State :=
  match (s.tower t).evicting with
  | some (_, _, l, _) =>
    if s.pageFaults.any (fun f => f.kind == 1 && f.state == 0 && f.tower == t) then s
    else ((s.land (s.leafLines l)).holdOff 0 (90 + t)).setTower t (fun x => { x with evicting := none })
  | none => s

/-- Fill a page from a frame, once the copy of a moved page is given up. -/
def State.fillPage (s : State) (f : PageFault) (level e place key : Nat) : State :=
  let kind := bitsOf e 2 1
  let source := if kind = 2 then s.pageLines (bitsOf e 8 7) 0 (bitsOf e 51 12 * 4096) 65536 else []
  let s := if f.source = source then s else s.leaveSource f
  if kind = 2 && s.copyGone (bitsOf e 8 7) source then s.toHost { f with source := [] } level
  else
    let (t, ready) := if kind = 2 then s.drain source else (s, true)
    let g := { f with source := if t.inflight.any (fun x => x.moving && x.lines == source.map (· / 128)) then source else [] }
    let t := { t with pageFaults := t.pageFaults.map (fun x => if x.id == f.id then g else x) }
    if !ready then t
    else match (t.moduleWrite (2 ^ 33 + f.id) place 8).bind (fun t => if kind = 2 then t.spillReady f.id (frameOfEntry e) else .ok t) with
      | .error t => t
      | .ok t =>
        match t.takeFrame f.tower with
        | .host => t.toHost g level
        | .waits u => u
        | .ok u pa =>
          if !u.rangeOk 1 (bitsOf e 11 9) pa 65536 then t.toHost g level
          else if (u.pageLines 1 (bitsOf e 11 9) pa 65536).any (fun p => u.hostHeld p 128) then t
          else u.fillFrame g place key e pa source

/-- HW_FAULT_RESOLVE (R470, R471): the entry is read again; one that has changed lets the accesses walk again. -/
def State.resolve (s : State) (f : PageFault) : State :=
  match s.walk f.tower f.asid f.addr with
  | .absent level e place key =>
    let kind := bitsOf e 2 1
    if s.mod.duty.getLsbD 0 then s.toHost f level
    else if kind = 0 then (s.leaveSource f).endPageFault f false
    else if kind = 3 || level != 0 then s.toHost f level
    else s.fillPage f level e place key
  | .waits p => s.wakeAt p
  | _ => (s.leaveSource f).endPageFault f true

def execHwFaultResolve (s : State) : Host.Outcome State Fault Refusal :=
  match s.pageFaults.find? (fun f => f.id == s.args.unit && f.kind == 1 && f.state == 0) with
  | some f => .next ((s.resolve f).dropEviction f.tower)
  | none => .next s

end Sys2Proof.Machine
end

