-- ==== Sys2Proof/Machine/HostSide.lean ====
section
/-! DEFINITION. HostSide.lean: what the host and its peers do to the module: registers, the HDM window, fault records,
snoops, ports, duties (05 R164, R167; 16); and the tide. -/

namespace Sys2Proof.Machine

/-! ## Register writes -/

def ctxReg (k o : Nat) : Nat := 0x1000 * k + o

/-- Offsets whose writes are events of their own. -/
def ownWrite (off : Nat) : Bool :=
  if off < 0x40000 then [0x00, 0x18, 0x28, 0x30, 0x40].contains (off % 0x1000)
  else if off < 0x41000 then [0x00, 0x20, 0x28, 0x40].contains (off % 0x1000)
  else if off < 0x200000 then [0x110000, 0x110030, 0x110068, 0x110078].contains off
  else off < 0x210000 && [0x10, 0x28, 0x98].contains (off % 0x1000)

/-- REGISTER_WRITE (00 R8). -/
def execRegisterWrite (s : State) : Host.Outcome State Fault Refusal :=
  if ownWrite s.args.unit then .next s else s.regEvent s.args.unit (fun s v => s.regWrite s.args.unit v)

/-- CONTEXT_ENABLE (05 R164, R165): ASID is taken while EN is 0. -/
def execContextEnable (s : State) : Host.Outcome State Fault Refusal :=
  let k := s.args.unit % 64
  s.regEvent (ctxReg k 0) (fun s v => s.setCtx k (fun c =>
    { c with asid := if c.en then c.asid else v.extractLsb' 32 16, en := v.getLsbD 0 }))

/-- The host's earlier writes come before a write of its that the module acquires with (R482): it waits for them. -/
def State.hostAcquires (s : State) (off : Nat) : Bool := (s.windowStore off).isSome || s.reqs.all (fun r => r.who.crew != 0)

/-- LAUNCH_DOORBELL (05 R164): the host's orders the launches it rings for after what the host did before it (16 R482). -/
def execLaunchDoorbell (s : State) : Host.Outcome State Fault Refusal :=
  let k := s.args.unit % 64
  let rung (t : State) : State := if (s.windowStore (ctxReg k 0x18)).isSome then t else t.record { host := true, gives := [.bell k] }
  if !s.hostAcquires (ctxReg k 0x18) then .next s
  else s.regEvent (ctxReg k 0x18) (fun s v => rung (s.setCtx k (fun c => { c with lrtail := v })))

/-- CRHEAD_WRITE (05 R164, R167). -/
def execCrheadWrite (s : State) : Host.Outcome State Fault Refusal :=
  let k := s.args.unit % 64
  s.regEvent (ctxReg k 0x40) (fun s v => s.setCtx k (fun c => { c with crhead := v }))

/-- COMPLETION_RING_RETARGET (05 R164, R167): taken while EN is 0, or a record is held, which is then tried again. -/
def execCompletionRingRetarget (s : State) : Host.Outcome State Fault Refusal :=
  let k := s.args.unit % 64
  s.regEvent (ctxReg k (if s.args.flag then 0x30 else 0x28)) (fun s v => s.setCtx k (fun c =>
    if c.en && !c.held then c
    else
      let d := if s.args.flag then { c with crlog := v.setWidth 5 } else { c with crbase := v &&& ~~~0x3F }
      { d with retry := d.retry || d.held }))

/-- DUTY_WRITE (R485). -/
def execDutyWrite (s : State) : Host.Outcome State Fault Refusal :=
  s.regEvent 0x40000 (fun s v =>
    if s.ctxs.any (·.en) then s else { s with mod := { s.mod with duty := v.setWidth 4 } })

/-- FRHEAD_WRITE (R486, R487). -/
def execFrheadWrite (s : State) : Host.Outcome State Fault Refusal :=
  s.regEvent 0x40020 (fun s v => { s with mod := { s.mod with frhead := v } })

/-- LOGHEAD_WRITE (17 R499). -/
def execLogheadWrite (s : State) : Host.Outcome State Fault Refusal :=
  s.regEvent 0x110030 (fun s v => { s with mod := { s.mod with loghead := v } })

/-- FUSESVN_WRITE (17 R499): a value below the current one is ignored. -/
def execFusesvnWrite (s : State) : Host.Outcome State Fault Refusal :=
  s.regEvent 0x110068 (fun s v =>
    let x : BitVec 32 := v.extractLsb' 32 32
    if x.toNat < s.mod.fusesvn.toNat then s else { s with mod := { s.mod with fusesvn := x } })

/-- READY_WRITE (17 R499): a write of 0 is ignored. -/
def execReadyWrite (s : State) : Host.Outcome State Fault Refusal :=
  s.regEvent 0x110000 (fun s v => if v.getLsbD 0 then { s with mod := { s.mod with ready := true } } else s)

/-! ## Fault records (R485, R487) -/

/-- A record's bytes. -/
def faultRecord (f : PageFault) (seq : Nat) : List Byte :=
  leBytes 8 (seq % 2 ^ 32 * 2 ^ 32 + f.tower * 2 ^ 24 + f.asid.toNat * 2 ^ 8 + f.kind) ++ leBytes 8 f.addr.toNat ++
    leBytes 8 f.info ++ leBytes 8 0

/-- Write a record of the module, under its number `idx`, at an address of the firmware's address space (log 11), once nothing
keeps it; or the state in which it waits. -/
def State.logWrite (s : State) (idx : Nat) (va : Word) (bs : List Byte) : Except State State :=
  match s.translate 0 0 false .w va with
  | .ok t =>
    match s.moduleWrite idx t.place bs.length with
    | .error u => .error (u.wakeAt t.place)
    | .ok u => .ok (((u.wakeAt t.place).writeAt (s.keyOf t.key) t.place bs).clearPoison t.place bs.length)
  | .error _ => .error (s.wakeFor 0 0 va)

/-- FAULT_RECORD_POST: to the host's fault ring, or for a machine check that duty 3 leaves to the firmware to the log
ring (17 R499); it waits while the ring is full. -/
def execFaultRecordPost (s : State) : Host.Outcome State Fault Refusal :=
  match s.pageFaults.find? (fun f => f.id == s.args.unit && f.state == 1) with
  | none => .next s
  | some f =>
    let m := s.mod
    let rest := s.pageFaults.filter (fun g => g.id != f.id)
    if f.kind = 3 && !f.host then
      let n := 2 ^ min m.loglog.toNat 16
      if n ≤ m.logtail.toNat - m.loghead.toNat then .next s
      else match s.logWrite 65 (m.logbase + word (32 * (m.logtail.toNat % n))) (faultRecord f m.logtail.toNat) with
        | .ok t => .next { t with pageFaults := rest, mod := { t.mod with logtail := m.logtail + 1 } }
        | .error t => .next t
    else
      let n := 2 ^ min m.frlog.toNat 16
      let p := Place.host (m.frbase.toNat + 32 * (m.frtail.toNat % n))
      if n ≤ m.frtail.toNat - m.frhead.toNat then .next s
      else match s.moduleWrite 66 p 32 with
      | .error t => .next t
      | .ok t =>
        let t := t.writeAt none p (faultRecord f m.frtail.toNat)
        let kept := if f.kind = 3 then rest
          else s.pageFaults.map (fun g => if g.id == f.id then { g with state := 2, seq := m.frtail.toNat % 2 ^ 32 } else g)
        .next (State.interrupt { t with pageFaults := kept, mod := { t.mod with frtail := m.frtail + 1 } } 64)

/-- Move the lighter queue that a resolved record is about to its new place and size, entry by entry in order, once every entry can be
read and written (R485); an entry that cannot be ends the launch, as one that is fetched back does (05 R178; log 33). -/
def State.growLighter (s : State) (f : PageFault) : State :=
  let k := f.ctx
  let c := s.ctx k
  let first := c.lqTail - c.lighter.length
  let d : Ctx := { c with lqbase := f.addr &&& ~~~0xFF, lqlog := BitVec.ofNat 5 f.info }
  let from_ (i : Nat) : Word := c.lqbase + word (256 * ((first + i) % c.lighterSize))
  let to_ (i : Nat) : Word := d.lqbase + word (256 * ((first + i) % d.lighterSize))
  let all : List (Nat × Nat) := c.lighter.zipIdx.map (fun x => (((s.manifest x.1).map (·.tower)).getD 0, x.2))
  let look : Except State (List (List Byte)) := all.mapM (fun x => do
    let bs ← s.lighterRead k x.1 (from_ x.2)
    s.lighterWait k x.1 (to_ x.2) 0 (128 + k)
    return bs)
  if c.lqWait.isSome || !((c.launch.map (fun l => l.faults.isEmpty)).getD false) then s
  else match look with
    | .error t => t
    | .ok l =>
      let t := (all.zip l).foldl (fun t x => (t.pilotWrite x.1.1 c.asid (to_ x.1.2) x.2).getD t) s
      { ((t.holdOff 0 (128 + k)).setCtx k (fun c => { c with lqbase := d.lqbase, lqlog := d.lqlog })) with
        pageFaults := t.pageFaults.filter (fun g => g.id != f.id) }
/-- Move every lighter queue whose record has been resolved. -/
def State.growLighters (s : State) : State :=
  (s.pageFaults.filter (fun f => f.kind == 2 && f.state == 4)).foldl State.growLighter s

/-- The new base and size of a lighter queue that the host wrote into its record. -/
def State.growthRecord (s : State) (f : PageFault) : Word × BitVec 5 :=
  let p := Place.host (s.mod.frbase.toNat + 32 * (f.seq % 2 ^ min s.mod.frlog.toNat 16))
  (leWord (s.bytesAt none (p + 16) 8), BitVec.ofNat 5 (leNat (s.bytesAt none (p + 24) 1)))

/-- The outstanding record that an answer names. -/
def State.answered (s : State) (v : Word) : Option PageFault :=
  s.pageFaults.find? (fun f => f.state == 2 && f.seq == wbits v 63 32)

/-- FAULT_ANSWER (R487): an answer to no outstanding record is ignored, and so is one with a must-be-zero bit; the first answer to a
record decides, whatever its queue's move still waits for. A record that no strand waits for any more only ends (R485). -/
def execFaultAnswer (s : State) : Host.Outcome State Fault Refusal :=
  if !s.hostAcquires 0x40028 then .next s
  else s.regEvent 0x40028 (fun s v =>
    match s.answered v with
    | none => s
    | some f =>
      let ok := !v.getLsbD 0
      let put (l : List PageFault) : State := { s with pageFaults := s.pageFaults.flatMap (fun g => if g.id == f.id then l else [g]) }
      if wbits v 31 1 != 0 then s
      else if f.kind = 1 then s.endPageFault f ok
      else if ok then (put [{ f with state := 4, addr := (s.growthRecord f).1, info := (s.growthRecord f).2.toNat }]).growLighters
      else put (if f.waiter = 0 then [] else [{ f with state := 3, failed := true }]))

/-- CSL_LOAD_COMMAND (R485, R486): with duty 2 host-assisted, a bcsl command of the image at CSLADDR, a host physical
address (log 12); an image that R425 refuses, or an identifier that names no channel, places none. -/
def execCslLoadCommand (s : State) : Host.Outcome State Fault Refusal :=
  s.regEvent 0x40040 (fun s v =>
    let id := wbits v 31 0
    let k := bitsOf id 27 24 * 32 + bitsOf id 7 0
    let image := s.bytesAt none (Place.host s.mod.csladdr.toNat) 4224
    if !s.mod.duty.getLsbD 2 || bitsOf id 31 28 != 3 || bitsOf id 23 8 != 0 || 32 ≤ bitsOf id 7 0 ||
        (imageFault image).isSome then s
    else s.setChan k (fun ch =>
      let c : Cmd := { seq := ch.queue.issue + 1, pc := 0, who := { ctx := 65 }, op := .bcsl ⟨0, 0, 0, 0, 0⟩, bytes := image, born := s.serial }
      { ch with queue := { ch.queue with issue := ch.queue.issue + 1, cmds := ch.queue.cmds ++ [c] } }))

/-! ## The HDM window (R480, R481) -/

/-- The place of an offset of the HDM window, when the host reaches one there. -/
def State.hdmPlace (s : State) (h : Nat) : Option Nat :=
  let dram (x skew : Nat) : Option Nat :=
    let t := x / 2 ^ 35
    let w := x % 2 ^ 35
    let p := s.dramPlace t w skew
    let lo := (s.tower t).pwbase.toNat * 65536
    let inside := lo ≤ w && w < lo + (s.tower t).pwsize.toNat * 65536 &&
      w / 128 - (s.tower t).ub < 509 * (s.tower t).pwsize.toNat
    if 16 ≤ t || (skew = 2 && !inside) || !s.mod.tup.getLsbD t || (sget none s.subOwner (subOf p)).isSome then none
    else some p
  if h < 2 ^ 39 then dram h 0
  else if h < 2 ^ 40 then dram (h - 2 ^ 39) 1
  else if h < 2 ^ 41 then dram (h - 2 ^ 40) 2
  else if h < 2 ^ 42 then some (Place.outer (h / 2 ^ 38 % 8) (h % 2 ^ 38))
  else none

/-- A byte the host does not reach that reads as ones: in an assigned bead subarray, or outside a tower's prime window
(R480); every other one reads as an open value (17 R492, log 24). -/
def State.hdmOnes (s : State) (h : Nat) : Bool :=
  s.mod.ready && h < 2 ^ 40 + 2 ^ 39 && s.mod.tup.getLsbD (h / 2 ^ 35 % 16) && (s.hdmPlace h).isNone

/-- HOST_MEM_READ: the answer, under tag 0xFC, says whether it is marked with CXL poison, as it is when the host does not
reach a byte of it; it waits like a strong load (16 R481, 10 R319). The host's caches may then hold the lines. None comes while
every port is down (R479). -/
def execHostMemRead (s : State) : Host.Outcome State Fault Refusal :=
  let place (i : Nat) : Option Nat := if s.mod.ready then s.hdmPlace (s.args.unit + i) else none
  let key := s.keyOf s.mod.hdmkey.toNat
  let byte (i : Nat) : Byte :=
    match place i with
    | some x => s.byteAt key x
    | none => if s.hdmOnes (s.args.unit + i) then 0xFF else (Config.freeWord (s.free + i)).setWidth 8
  let bad (i : Nat) : Bool :=
    match place i with
    | some x => s.poisonedAt x 1
    | none => true
  let all := List.range s.args.sub
  let waits (p : Nat) : Bool := !s.readable p || s.ownedAt p 1
  let places := all.filterMap place
  if s.mod.ports.all (fun up => !up) then .next s
  else match places.find? waits with
  | some p => .next (s.wakeAt p)
  | none => .next { (s.record { host := true, reads := true, strong := true, words := (places.map (· / 8)).eraseDups, stamp := s.writes }) with
    hostLines := places.foldl (fun m p => sset false m (p / 128) true) s.hostLines
    answers := s.answers ++ [0xFC :: (if all.any bad then 1 else 0) :: all.map byte]
    free := s.free + s.args.sub }

/-- HOST_MEM_WRITE: a strong write of bytes within one line; it waits at the home like one of a strand (10 R319). A
write the host cannot make is dropped; none comes while every port is down (R479). -/
def execHostMemWrite (s : State) : Host.Outcome State Fault Refusal :=
  match (if s.mod.ready then s.hdmPlace s.args.unit else none) with
  | none => .next s
  | some p =>
    let r : Req := { id := s.serial, who := { ctx := 65 }, pc := 0, op := .store s.args.bytes, kind := .strong, space := .g, addr := word s.args.unit, place := some p, key := s.mod.hdmkey.toNat }
    if s.args.bytes.isEmpty || 128 < p % 128 + s.args.bytes.length || s.mod.ports.all (fun up => !up) then .next s
    else .next (State.homeStrong { s with reqs := s.reqs ++ [r], serial := s.serial + 1 } r)

/-- HOST_SNOOP (R481): a write that waits on leases, and so sets HOLD; it is answered, under tag 0xFB, once no lease on the
host line stands. The module then holds no copy of it, and the host may change the line (log 13). -/
def execHostSnoop (s : State) : Host.Outcome State Fault Refusal :=
  let line := s.args.unit
  let p := 128 * line
  if p / 2 ^ 60 != 2 || 128 < s.args.sub % 128 + s.args.bytes.length || s.stuck p || s.ownedAt p 128 then .next s
  else if s.leasedAt p 128 then .next (s.holdOn 0 line (s.unitsAt p 128))
  else
    let t := { s.holdOff 0 line with
      copies := s.copies.filter (fun c => c.line != line)
      answers := s.answers ++ [[0xFB]] }
    let u := if s.args.bytes.isEmpty then t else t.writeAs { host := true } none (p + s.args.sub % 128) s.args.bytes
    .next { u with dirty := sset false u.dirty line false }

/-- A host cache gives a line up (10 R318, R481). -/
def State.hostDrop (s : State) (line : Nat) : State := { s with hostLines := sset false s.hostLines line false }

/-- CXL_PORT_TRAIN (R479). -/
def execCxlPortTrain (s : State) : Host.Outcome State Fault Refusal :=
  .next { s with mod := { s.mod with ports := s.mod.ports.set s.args.unit s.args.flag } }

/-- TIDE_TICK (04 R140), with which the tile fetch units renew the lines that they keep pinned (12 R385); what the pilot has still to write of chain blocks and of lighter queues is tried again (13 R395; 16 R485). -/
def execTideTick (s : State) : Host.Outcome State Fault Refusal :=
  .next (if s.tideOn then ({ s with tide := s.tide + 1 } : State).repinned.payChains.growLighters else s)

end Sys2Proof.Machine
end

