-- ==== Sys2Proof/Machine/Verify.lean ====
section
/-! DEFINITION. Verify.lean: SHA-256 (FIPS 180-4) and the verification of HSS signatures (RFC 8554), which the
measurement of the firmware image uses (17 R494); both are taken from those standards (log 14). -/

namespace Sys2Proof.Machine

/-! ## SHA-256 -/

def rotr32 (x : BitVec 32) (n : Nat) : BitVec 32 := x.rotateRight n

/-- Most significant byte first. -/
def beBytes (n x : Nat) : List Byte := (leBytes n x).reverse
def beNat (bs : List Byte) : Nat := leNat bs.reverse

/-- The largest number of `b` more bits above `r` whose k-th power does not exceed `n`. -/
def rootFrom (k n : Nat) : Nat → Nat → Nat
  | 0, r => r
  | b + 1, r => rootFrom k n b (if (r + 2 ^ b) ^ k ≤ n then r + 2 ^ b else r)

/-- The first 32 bits of the fractional part of the k-th root of a number below 1,024. -/
def rootFraction (k p : Nat) : Nat := rootFrom k (p * 2 ^ (32 * k)) 38 0 % 2 ^ 32

/-- The 64 primes below 312. -/
def smallPrimes : List Nat := (List.range 312).filter (fun p => 2 ≤ p && (List.range 18).all (fun d => d < 2 || d = p || p % d != 0))

/-- The round constants and the initial value of the standard: fractions of the cube roots of the first 64 primes, and of
the square roots of the first 8. -/
def shaK : List Nat := smallPrimes.map (rootFraction 3)
def shaStart : List (BitVec 32) := (smallPrimes.take 8).map (fun p => BitVec.ofNat 32 (rootFraction 2 p))

def at32 (l : List (BitVec 32)) (i : Nat) : BitVec 32 := (l[i]?).getD 0

/-- The message schedule of a chunk of 64 bytes. -/
def shaSchedule (chunk : List Byte) : List (BitVec 32) :=
  let w := (List.range 16).map (fun i => BitVec.ofNat 32 (beNat (slice chunk (4 * i) 4)))
  (List.range 48).foldl (fun w i =>
    let x := at32 w (i + 1)
    let y := at32 w (i + 14)
    w ++ [at32 w i + (rotr32 x 7 ^^^ rotr32 x 18 ^^^ (x >>> 3)) + at32 w (i + 9) + (rotr32 y 17 ^^^ rotr32 y 19 ^^^ (y >>> 10))]) w

def shaRound (v : List (BitVec 32)) (x : Nat × BitVec 32) : List (BitVec 32) :=
  let a := at32 v 0
  let b := at32 v 1
  let c := at32 v 2
  let e := at32 v 4
  let s1 := rotr32 e 6 ^^^ rotr32 e 11 ^^^ rotr32 e 25
  let t1 := at32 v 7 + s1 + ((e &&& at32 v 5) ^^^ (~~~e &&& at32 v 6)) + BitVec.ofNat 32 x.1 + x.2
  let t2 := (rotr32 a 2 ^^^ rotr32 a 13 ^^^ rotr32 a 22) + ((a &&& b) ^^^ (a &&& c) ^^^ (b &&& c))
  [t1 + t2, a, b, c, at32 v 3 + t1, e, at32 v 5, at32 v 6]

def shaChunks : Nat → List (BitVec 32) → List Byte → List (BitVec 32)
  | 0, h, _ => h
  | n + 1, h, bs =>
    let v := (shaK.zip (shaSchedule (bs.take 64))).foldl shaRound h
    shaChunks n (List.zipWith (· + ·) h v) (bs.drop 64)

/-- The SHA-256 digest, 32 bytes. -/
def sha256 (bs : List Byte) : List Byte :=
  let zeros := (64 + 55 - bs.length % 64) % 64
  let padded := bs ++ 0x80 :: List.replicate zeros 0 ++ beBytes 8 (8 * bs.length)
  (shaChunks (padded.length / 64) shaStart padded).flatMap (fun w => beBytes 4 w.toNat)

/-! ## LM-OTS, LMS, HSS -/

/-- Tree heights by type: LMS_SHA256_M32_H10, _H15, _H20; Winternitz widths: LMOTS_SHA256_N32_W4, _W8. -/
def lmsHeight (t : Nat) : Option Nat :=
  match t with
  | 6 => some 10
  | 7 => some 15
  | 8 => some 20
  | _ => none
def otsWidth (t : Nat) : Option Nat :=
  match t with
  | 3 => some 4
  | 4 => some 8
  | _ => none

/-- Chains of a one-time signature, and the shift of its checksum. -/
def otsChains (w : Nat) : Nat := if w = 4 then 67 else 34
def otsShift (w : Nat) : Nat := if w = 4 then 4 else 0

def coef (bs : List Byte) (i w : Nat) : Nat := beNat bs / 2 ^ (8 * bs.length - w * (i + 1)) % 2 ^ w

def otsChecksum (q : List Byte) (w : Nat) : List Byte :=
  beBytes 2 (((List.range (256 / w)).foldl (fun a i => a + (2 ^ w - 1 - coef q i w)) 0) * 2 ^ otsShift w)

/-- One chain from step `a` to its end. -/
def otsChain (head : List Byte) (i a w : Nat) (y : List Byte) : List Byte :=
  (List.range (2 ^ w - 1 - a)).foldl (fun t j => sha256 (head ++ beBytes 2 i ++ beBytes 1 (a + j) ++ t)) y

/-- The one-time public key a signature stands for. -/
def otsCandidate (id : List Byte) (q w : Nat) (c : List Byte) (y : Nat → List Byte) (msg : List Byte) : List Byte :=
  let head := id ++ beBytes 4 q
  let digest := sha256 (head ++ beBytes 2 0x8181 ++ c ++ msg)
  let v := digest ++ otsChecksum digest w
  let z := (List.range (otsChains w)).flatMap (fun i => otsChain head i (coef v i w) w (y i))
  sha256 (head ++ beBytes 2 0x8080 ++ z)

/-- The root a path leads to. -/
def lmsRoot (id : List Byte) (path : Nat → List Byte) : Nat → Nat → Nat → List Byte → List Byte
  | 0, _, _, t => t
  | n + 1, i, node, t =>
    let pair := if node % 2 = 1 then path i ++ t else t ++ path i
    lmsRoot id path n (i + 1) (node / 2) (sha256 (id ++ beBytes 4 (node / 2) ++ beBytes 2 0x8383 ++ pair))

/-- Bytes of a public key, and of a signature under it. -/
def lmsKeyBytes : Nat := 56
def lmsSigBytes (h w : Nat) : Nat := 4 + (4 + 32 + 32 * otsChains w) + 4 + 32 * h

/-- Verify an LMS signature at the front of `sig`; what follows it is the answer. -/
def lmsVerify (pub msg sig : List Byte) : Option (List Byte) :=
  match lmsHeight (beNat (slice pub 0 4)), otsWidth (beNat (slice pub 4 4)) with
  | some h, some w =>
    let id := slice pub 8 16
    let q := beNat (slice sig 0 4)
    let p := otsChains w
    let tail := 4 + 36 + 32 * p
    let key := otsCandidate id q w (slice sig 8 32) (fun i => slice sig (40 + 32 * i) 32) msg
    let leaf := sha256 (id ++ beBytes 4 (2 ^ h + q) ++ beBytes 2 0x8282 ++ key)
    let root := lmsRoot id (fun i => slice sig (tail + 4 + 32 * i) 32) h 0 (2 ^ h + q) leaf
    if pub.length = lmsKeyBytes && lmsSigBytes h w ≤ sig.length && q < 2 ^ h && slice sig 4 4 == slice pub 4 4 &&
        slice sig tail 4 == slice pub 0 4 && root == slice pub 24 32 then some (sig.drop (lmsSigBytes h w))
    else none
  | _, _ => none

/-- Verify an HSS signature of one or two levels. -/
def hssVerify (pub msg sig : List Byte) : Bool :=
  let levels := beNat (slice pub 0 4)
  let top := pub.drop 4
  let rest := sig.drop 4
  if beNat (slice sig 0 4) + 1 != levels then false
  else if levels = 1 then lmsVerify top msg rest == some []
  else if levels = 2 then
    match lmsHeight (beNat (slice top 0 4)), otsWidth (beNat (slice top 4 4)) with
    | some h, some w =>
      let key := slice rest (lmsSigBytes h w) lmsKeyBytes
      match lmsVerify top key (rest.take (lmsSigBytes h w)) with
      | some _ => lmsVerify key msg (rest.drop (lmsSigBytes h w + lmsKeyBytes)) == some []
      | none => false
    | _, _ => false
  else false

end Sys2Proof.Machine
end

