-- ==== Sys2Proof/Machine/Boot.lean ====
section
/-! DEFINITION. Boot.lean: reset, the boot sequencer, the firmware image, the boot launch, attestation (17 R489 to
R497). -/

namespace Sys2Proof.Machine

/-! ## Stacked DRAM of tower 0 (R490, R491) -/

/-- Bytes from a within-tower address of tower 0 upwards, in plaintext. -/
def State.towerBytes (s : State) (w n : Nat) : List Byte :=
  (List.range n).map (fun i => s.byteAt none (s.dramPlace 0 (w + i) 0))

/-- Write bytes from a 128-aligned within-tower address of tower 0 upwards, line by line. -/
def State.putTower : Nat → State → Nat → List Byte → State
  | 0, s, _, _ => s
  | n + 1, s, w, bs =>
    if bs.isEmpty then s
    else State.putTower n (s.writeAt none (s.dramPlace 0 w 0) (bs.take 128)) (w + 128) (bs.drop 128)

/-! ## The image (R493, R494) -/

def stagingSize : Nat := 2 ^ 26

/-- The fields of an image header. -/
structure Header where
  magic : Nat
  svn : Nat
  codeOff : Nat
  codeSize : Nat
  dataOff : Nat
  dataSize : Nat
  entry : Nat
  sigOff : Nat
  sigSize : Nat
  rest : List Byte

def headerOf (bs : List Byte) : Header :=
  { magic := field bs 0x00 8, svn := field bs 0x08 8, codeOff := field bs 0x10 8, codeSize := field bs 0x18 8
    dataOff := field bs 0x20 8, dataSize := field bs 0x28 8, entry := field bs 0x30 8, sigOff := field bs 0x38 8
    sigSize := field bs 0x40 8, rest := slice bs 0x48 0xB8 }

/-- The header passes (R493). -/
def Header.passes (h : Header) : Bool :=
  h.magic == 0x000000015746_4E4C && h.rest.all (· == 0) && h.codeOff % 65536 == 0 && 1 ≤ h.codeSize && h.codeSize ≤ 2 ^ 24 &&
    h.dataOff % 65536 == 0 && h.dataSize ≤ 2 ^ 25 && h.entry % 2 == 0 && h.entry < h.codeSize && h.sigOff % 4 == 0 &&
    256 ≤ h.codeOff && h.codeOff + h.codeSize ≤ h.dataOff && h.dataOff + h.dataSize ≤ h.sigOff &&
    h.sigOff + h.sigSize ≤ stagingSize

def State.header (s : State) : Header := headerOf (s.towerBytes 0 256)

/-- Step 2 of R490: the measurement, the signature and the rollback counter. -/
def State.verifyImage (s : State) : State :=
  let h := s.header
  let digest := sha256 (s.towerBytes 0 h.sigOff)
  let t : State := { s with mod := { s.mod with meas := BitVec.ofNat 256 (leNat digest) } }
  let stop (code : BitVec 4) : State := { t with mod := { t.mod with berr := code }, phase := .failed }
  if !hssVerify Config.trustedKey digest (s.towerBytes h.sigOff h.sigSize) then stop 2
  else if h.svn < s.mod.fusesvn.toNat then stop 3
  else { t with mod := { t.mod with berr := 0 }, fwsvn := word h.svn, phase := .towers 0 }

/-! ## Reset and start (R489, R490) -/

/-- MODULE_RESET: every state is lost (R501); fuses and the boot flash stay. -/
def execModuleReset (s : State) : Host.Outcome State Fault Refusal :=
  .next { State.reset with
    mod := { State.reset.mod with fusesvn := s.mod.fusesvn }
    flash := s.flash
    answers := s.answers
    agenda := s.agenda
    turns := s.turns
    free := s.free
    serial := s.serial }

/-- Every register takes its Reset value (R489): fuses stay, and so does what is no register. -/
def State.resetRegisters (s : State) : State :=
  { s with
    mod := { ({} : Module) with fusesvn := s.mod.fusesvn, ports := s.mod.ports, lowered := s.mod.lowered, outerDown := s.mod.outerDown }
    ctxs := State.reset.ctxs
    towers := s.towers.map (fun t => { ({} : Tower) with laneDown := t.laneDown, rcDown := t.rcDown, warm := t.warm, layersDown := t.layersDown })
    tide := 0
    tideOn := false }

/-- A layer of tower 0's stacked DRAM is in self-refresh: what the boot sequencer reads and writes there waits (R502). -/
def State.stagingWaits (s : State) : Bool := !(s.tower 0).layersDown.isEmpty

/-- RESET_RELEASE: registers have their Reset values; the image is read from the flash into the staging area, then measured and
verified; with no image whose header passes the sequencer waits for delivery. -/
def execResetRelease (s : State) : Host.Outcome State Fault Refusal :=
  if s.phase != .held || s.stagingWaits then .next s
  else
    let s := s.resetRegisters
    let t := State.putTower (stagingSize / 128) s 0 (s.flash.take stagingSize)
    if t.header.passes then .next t.verifyImage
    else .next { t with mod := { t.mod with berr := 1 }, phase := .staged }

/-- An answer to a DOE object, one dword under tag 0xFA (R496). -/
def State.doeAnswer (s : State) (x : Nat) : State := { s with answers := s.answers ++ [0xFA :: leBytes 4 x] }

/-- DOE objects come through the configuration space of port 0 (R495, R496): none comes while that port is down. -/
def State.doeUp (s : State) : Bool := s.mod.ports.headD false

/-- DOE_IMAGE_CHUNK: accepted only while BERR is 1. -/
def execDoeImageChunk (s : State) : Host.Outcome State Fault Refusal :=
  let o := s.args.unit
  let bs := s.args.bytes
  if !s.doeUp || s.stagingWaits then .next s
  else if s.mod.berr != 1 || o % 4 != 0 || bs.length % 4 != 0 || bs.length < 4 || 4096 < bs.length || stagingSize < o + bs.length then
    .next (s.doeAnswer 1)
  else
    let t := bs.zipIdx.foldl (fun (t : State) x => t.writeAt none (t.dramPlace 0 (o + x.2) 0) [x.1]) s
    .next (t.doeAnswer 0)

/-- DOE_IMAGE_DONE. -/
def execDoeImageDone (s : State) : Host.Outcome State Fault Refusal :=
  if !s.doeUp || s.stagingWaits then .next s
  else if s.mod.berr != 1 || !s.header.passes then .next (s.doeAnswer 1)
  else .next (s.verifyImage.doeAnswer 0)

/-- TOWER_START: towers start in ascending order; without tower 0 the sequencer stops. The memory of a tower that fails is out
of reach, and a tower whose die has tripped since reset does not join TUP (R492, R502). -/
def execTowerStart (s : State) : Host.Outcome State Fault Refusal :=
  match s.phase with
  | .towers n =>
    if 16 ≤ n then .next s
    else if s.args.flag && !(s.tower n).rcDown then
      .next { s with mod := { s.mod with tup := s.mod.tup ||| BitVec.twoPow 16 n }, phase := .towers (n + 1) }
    else .next { s.setTower n (fun x => { x with rcDown := true }) with mod := { s.mod with berr := 4 }, phase := if n = 0 then .failed else .towers (n + 1) }
  | _ => .next s

/-- BOOT_LAUNCH_START (R491). -/
def execBootLaunchStart (s : State) : Host.Outcome State Fault Refusal :=
  if s.phase != .towers 16 || s.stagingWaits then .next s
  else
    let h := s.header
    let d := (h.codeSize + 65535) / 65536 * 65536
    let code := s.towerBytes h.codeOff h.codeSize
    let data := s.towerBytes h.dataOff h.dataSize
    let t := State.putTower (2 ^ 18) (State.putTower (2 ^ 17) s 0 code) d data
    let lines := (List.range ((h.codeSize + 127) / 128)).map (fun i => t.dramPlace 0 (128 * i) 0 / 128)
    let u : State := { t with
      unpub := lines.foldl (fun m l => sset false m l false) t.unpub
      tideOn := true
      tide := 0
      codeSize := h.codeSize
      phase := .running }
    .next (u.placeBoot (word h.entry) (word d))

/-! ## Attestation (R495) -/

/-- Bytes 0x00 to 0x3F of the identity block. -/
def State.identity (s : State) : List Byte := (List.range 8).flatMap (fun i => leBytes 8 (identityWord s.fwsvn (8 * i)).toNat)

/-- The report over a nonce; the signature is the device key's (log 2). -/
def State.report (s : State) (nonce : BitVec 256) : List Byte :=
  let body := leBytes 8 0x0000000154414E4C ++ leBytes 8 Config.serial.toNat ++ leBytes 8 s.fwsvn.toNat ++
    leBytes 8 (identityWord s.fwsvn 0).toNat ++ leBytes 32 nonce.toNat ++ leBytes 32 s.mod.meas.toNat ++ sha256 s.identity
  body ++ slice (Config.sign s.mod.meas body) 0 96 ++ List.replicate 32 0

/-- DOE_ATTEST_REQUEST and DOE_CERT_CHAIN: the answers stand under tags 0xF9 and 0xF8. -/
def execDoeAttestRequest (s : State) : Host.Outcome State Fault Refusal :=
  .next <| if !s.doeUp then s else { s with answers := s.answers ++ [0xF9 :: s.report s.args.value] }
def execDoeCertChain (s : State) : Host.Outcome State Fault Refusal :=
  .next <| if !s.doeUp then s else { s with answers := s.answers ++ [0xF8 :: Config.certChain s.mod.meas] }

/-- ATTEST_START: a write of ATGO; one while a report is built starts none. -/
def execAttestStart (s : State) : Host.Outcome State Fault Refusal :=
  s.regEvent 0x110078 (fun s v =>
    if v.getLsbD 0 && !s.mod.atbusy then
      { s with mod := { s.mod with atbusy := true, atreq := s.mod.atnonce, attgt := s.mod.atdst } }
    else s)

/-- ATTEST_REPORT_DONE: the report is written to ATDST, as two lines, once no lease stands on them. -/
def execAttestReportDone (s : State) : Host.Outcome State Fault Refusal :=
  let bs := s.report s.mod.atreq
  let a : Word := s.mod.attgt &&& ~~~0xFF
  let done : Except State State := do
    let _ ← s.logWrite 68 (a + 128) (bs.drop 128)
    let t ← s.logWrite 67 a (bs.take 128)
    t.logWrite 68 (a + 128) (bs.drop 128)
  match s.mod.atbusy, done with
  | true, .ok t => .next { t with mod := { t.mod with atbusy := false } }
  | true, .error t => .next t
  | false, _ => .next s

end Sys2Proof.Machine
end

