-- ==== Sys2Proof/Machine/Compressed.lean ====
section
/-! DEFINITION. Compressed.lean: the compressed halves, each the effect of the one 32-bit instruction it expands to,
over two bytes (02 R48), and the padding half (02 R50). -/

namespace Sys2Proof.Machine

/-- A compressed register field as a register number. -/
def reg4 (r : BitVec 4) : Reg := r.setWidth 6

/-- The format A word a two-register half expands to. -/
def expandR (d a b : BitVec 4) : FA := { d := reg4 d, a := reg4 a, b := reg4 b }

/-- The weak 64-bit S access a half expands to. -/
def expandS (f : CR) : FI :=
  { d := reg4 f.d, a := reg4 f.a, imm := (f.x.setWidth 5 : BitVec 5) ++ (0b00011 : BitVec 5) }

def execCMv (f : CR) (s : State) := finish s (s.binary 2 (expandR f.d f.a 0) (· + ·))
def execCAdd (f : CR) (s : State) := finish s (s.binary 2 (expandR f.d f.d f.a) (· + ·))
def execCSub (f : CR) (s : State) := finish s (s.binary 2 (expandR f.d f.d f.a) (· - ·))
def execCAnd (f : CR) (s : State) := finish s (s.binary 2 (expandR f.d f.d f.a) (· &&& ·))
def execCOr (f : CR) (s : State) := finish s (s.binary 2 (expandR f.d f.d f.a) (· ||| ·))
def execCXor (f : CR) (s : State) := finish s (s.binary 2 (expandR f.d f.d f.a) (· ^^^ ·))
def execCLds (f : CR) (s : State) := finish s (s.load 2 (expandS f) .s 0x28)
def execCSts (f : CR) (s : State) := finish s (s.store 2 (expandS f) .s 0x29)
def execCAddi (f : CI) (s : State) := finish s (s.immediate 2 (reg4 f.d) (reg4 f.d) (· + f.imm.signExtend 64))
def execCLi (f : CI) (s : State) := finish s (s.immediate 2 0 (reg4 f.d) (· + f.imm.signExtend 64))
def execCShli (f : CI) (s : State) :=
  finish s (s.immediate 2 (reg4 f.d) (reg4 f.d) (fun x => shiftBy 0 x (f.imm.toNat % 64)))
def execCShri (f : CI) (s : State) :=
  finish s (s.immediate 2 (reg4 f.d) (reg4 f.d) (fun x => shiftBy 1 x (f.imm.toNat % 64)))
def execCBeqz (f : CB) (s : State) := finish s (s.br 2 (reg4 f.a) 0 (target s.self.pc f.off))
def execCBnez (f : CB) (s : State) := finish s (s.br 2 (reg4 f.a) 1 (target s.self.pc f.off))
/-- c.brb is brb.nez; its field 0 is ILL_FIELD (06 R226), as decoding says. -/
def execCBrb (f : CB) (s : State) := finish s (s.brb 2 (reg4 f.a) false (target s.self.pc f.off))
def execCJmp (f : CJ) (s : State) := finish s (.ok (s.mapSelf (·.branch (target s.self.pc f.off))))
def execCJr (f : CR) (s : State) := finish s (s.jr 2 0 (reg4 f.a) false)
def execCNop (_f : CR) (s : State) := finish s (.ok (s.advance 2))
def execCYield (_f : CR) (s : State) := finish s (.ok (s.yieldPoint 2))
def execCLidx (f : CR) (s : State) := finish s (s.lidx 2 (reg4 f.d) f.x.toNat)
def execPaddingHalf (s : State) := finish s (.ok (s.advance 2))

end Sys2Proof.Machine
end

