-- ==== Sys2Proof/Machine/Ending.lean ====
section
/-! DEFINITION. Ending.lean: the end of a launch by a fault (05 R192, R193, 12 R374, 13 R410, 17 R491). -/

namespace Sys2Proof.Machine

/-- The fault of a launch that its completion record describes. -/
def Launch.chosen (l : Launch) (which : Nat) : FaultRec := (l.faults[which]?).getD (l.faults.headD { code := SW_ABORT })

/-- A command that has not begun: a matrix command begins with its checks (12 R374), a crane command when it has claimed
its destination (13 R394). -/
def Cmd.unbegun (c : Cmd) : Bool := !c.done && c.stage = 0

/-- Every command of a queue that has not begun completes without effect; its arrival is faulted with the queue's latched
fault, else with the launch's; that of a follow-on whose copy is spoiled, with what spoiled the copy (13 R410). -/
def State.lapseQueue (s : State) (q : QueueRef) (f : FaultRec) : State :=
  match s.queue q with
  | none => s
  | some x =>
    let why : BitVec 8 × Word := (x.latch.map (fun l => (l.code, l.addr))).getD (f.code, f.addr)
    (x.cmds.filter Cmd.unbegun).foldl (fun t c => t.lapse q c (some (c.spoiled.getD why))) s

/-- The crews of a launch context. -/
def State.crewsOf (s : State) (k : Nat) : List Crew := s.crews.filter (fun c => c.ctx == k)

/-- Step 1 of R192: every strand stops, commands not begun lapse, and the fault is chosen. -/
def State.beginEnd (s : State) (k : Nat) (l : Launch) (f : FaultRec) : State :=
  let ids := (s.crewsOf k).map (·.id)
  let stop (st : Strand) : Strand := if ids.contains st.crew then { st with ended := true, wait := none } else st
  let all := (s.self :: s.peers ++ s.saved).filter (fun st => ids.contains st.crew)
  let t : State := { s with self := stop s.self, peers := s.peers.map stop, saved := s.saved.map stop }
  let t := all.foldl (fun t st => (t.lapseQueue (.crane st.crew st.idx) f).lapseQueue (.matrix st.crew st.idx) f) t
  t.setCtx k (fun c => { c with launch := some { l with faults := [f], ending := true } })

/-- Nothing of the launch is under way: its queues have completed, no strand is amid an instruction (08 R274), and every access that may be performed has been; the
rest wait behind a store that faulted, and are discarded (04 R154). -/
def State.endReady (s : State) (k : Nat) : Bool :=
  (s.crewsOf k).all (fun c => s.queuesIdle c.id) &&
    (s.crewsOf k).all (fun c => (s.strandsOf c.id).all (fun st => !st.amid)) &&
    s.reqs.all (fun r => r.who.ctx != k || r.who.crew = 0 || r.op.isFence || r.fault || !s.orderedFor true [] r)

/-- Steps 3 and 4 of R192: manifests, frames and slots go, and the completion record is due. The boot launch writes none;
BERR becomes 5 (17 R491). -/
def State.finishEnd (s : State) (k : Nat) (l : Launch) (f : FaultRec) : State :=
  let ids := (s.crewsOf k).map (·.id)
  let t := ids.foldl (fun t id => t.removeCrew id) s
  let t : State := { t with
    lineHolds := (t.holdOff 0 (128 + k)).lineHolds
    manifests := t.manifests.filter (fun m => m.ctx != k)
    reqs := t.reqs.filter (fun r => r.who.ctx != k || r.who.crew = 0)
    pageFaults := t.pageFaults.filter (fun g => !(g.kind == 2 && g.ctx == k)) }
  if k = bootCtx then
    State.setCtx { t with mod := { t.mod with berr := 5 } } k (fun c => { c with launch := none })
  else t.setCtx k (fun c => { c with
    lighter := []
    lqWait := none
    launch := some { l with completion := some (completionRecord f l.tag) } })

/-- LAUNCH_END: the launch begins to end, and ends once nothing of it is under way. -/
def execLaunchEnd (s : State) : Host.Outcome State Fault Refusal :=
  let k := s.args.unit
  match (s.ctx k).launch with
  | none => .next s
  | some l =>
    if l.faults.isEmpty || l.completion.isSome then .next s
    else
      let f := l.chosen (if l.ending then 0 else s.args.sub)
      let t := if l.ending then s else s.beginEnd k l f
      .next (if t.endReady k then t.finishEnd k { l with faults := [f], ending := true } f else t)

end Sys2Proof.Machine
end

