-- ==== Sys2Proof/Machine/Paired.lean ====
section
/-! DEFINITION. Paired.lean: the prefixed pair (02 R56 to R58): the second word's instruction with the first word's
rounding, saturation, empty behaviour, slot, index base and order, and a length of 8 bytes. -/

namespace Sys2Proof.Machine

/-- The second word's meaning under the fields of the first (R57). A word that is not prefixable is an orphan
(R58); no such pair is well formed. -/
def State.paired (s : State) (px : Prefix) (inner : Instr) : Except Stop State :=
  match inner with
  | .vadd f => s.vadd 8 px f
  | .vsub f => s.vsub 8 px f
  | .vmul f => s.vmul 8 px f
  | .vmulhI f => s.vmulh 8 px f true
  | .vmulhN f => s.vmulh 8 px f false
  | .vfma f => s.vfma 8 px f
  | .vdiv f => s.vdiv 8 px f
  | .vdivN f => s.vdivN 8 px f
  | .vmin f => s.vminmax 8 px f false false
  | .vminN f => s.vminmax 8 px f true false
  | .vmax f => s.vminmax 8 px f false true
  | .vmaxN f => s.vminmax 8 px f true true
  | .vand f => s.vlogic 8 px f (· &&& ·)
  | .vor f => s.vlogic 8 px f (· ||| ·)
  | .vxor f => s.vlogic 8 px f (· ^^^ ·)
  | .vandn f => s.vlogic 8 px f (fun x y => x &&& ~~~y)
  | .vorn f => s.vlogic 8 px f (fun x y => x ||| ~~~y)
  | .vxnor f => s.vlogic 8 px f (fun x y => ~~~(x ^^^ y))
  | .vshl f => s.vshift 8 px f 0
  | .vshr f => s.vshift 8 px f 1
  | .vsar f => s.vshift 8 px f 2
  | .vcmp f => s.vcmp 8 px f
  | .vsel f => s.vsel 8 px f
  | .vmov f => s.vmov 8 px f
  | .vabs f => s.vsign 8 px f false
  | .vneg f => s.vsign 8 px f true
  | .vexp2 f => s.vfunc 8 px f FV.exp2
  | .vlog2 f => s.vfunc 8 px f FV.log2
  | .vrecip f => s.vfunc 8 px f FV.recip
  | .vsqrt f => s.vfunc 8 px f FV.sqrt
  | .vrsqrt f => s.vfunc 8 px f FV.rsqrt
  | .vact f => s.vfunc 8 px f (if f.b == 1 then FV.sigmoid else FV.tanh)
  | .vperm f => s.vperm 8 px f
  | .vslide f => s.vslide 8 px f
  | .vcompress f => s.vcompress 8 px f
  | .vexpand f => s.vexpand 8 px f
  | .vredsum f => s.vredsum 8 px f false
  | .vredsumO f => s.vredsum 8 px f true
  | .vredmm f => s.vredmm 8 px f
  | .vscan f => s.vscan 8 px f
  | .vsortkv f => s.vsortkv 8 px f
  | .vsegred f => s.vsegred 8 px f
  | .cvtn f => s.cvtn 8 px f
  | .cvtnF f => s.cvtnF 8 px f
  | .cvtw f => s.cvtw 8 px f
  | .cvtwF f => s.cvtwF 8 px f
  | .qscale f => s.qscale 8 px f
  | .rotv f => s.rotv 8 px f false
  | .unrotv f => s.rotv 8 px f true
  | .cvti f => s.cvti 8 px f
  | .mma f => s.mma 8 px f
  | .mmaC f => s.mmaC 8 px f
  | .mmas f => s.mmas 8 px f
  | .mmax f => s.mmax 8 px f
  | .macc f => s.macc 8 f
  | .mcvt f => s.mcvt 8 px f
  | _ => .error (.fault ORPHAN_PREFIX (s.self.pc + 4))

/-- PREFIXED_PAIR (R56): one instruction of two words. -/
def execPrefixedPair (px : Prefix) (inner : Instr) (s : State) : Host.Outcome State Fault Refusal :=
  finish s (s.paired px inner)

end Sys2Proof.Machine
end

