-- ==== Sys2Proof/Machine/Slices.lean ====
section
/-! DEFINITION. Slices.lean: the home slices' instructions, opcodes 0x80 to 0x8B (10 R322 to R337). -/

namespace Sys2Proof.Machine

/-! ## Scalar atomics and reductions (R330 to R332) -/

/-- Checks 1 and 2 of R330 on an address for `n` bytes; the register window takes no atomics (17 R488). -/
def State.atomicAddr (s : State) (a : Word) (n : Nat) : Except Stop Unit := do
  need (a.toNat % n = 0) ALIGN a
  need (canonical a) VA_NONCANON a
  need (!inWindow a) (if s.self.priv then ALIGN else PAGE_PERM) a

/-- The width in bytes that a[5] selects (R329). -/
def widthOf (f : FA) : Nat := if f.a.getLsbD 5 then 4 else 8

def State.amoHome (s : State) (f : FA) : Except Stop State := do
  let n := widthOf f
  let a ← s.srcG (baseReg f) f.trap
  let b ← s.srcG f.b f.trap
  s.atomicAddr a n
  s.destFree (.g f.d.toNat)
  return ((s.dropAtIssue a).issueRmw f.d (.amo f.fn.toNat n b) .g a none 0x80).advance 4
def execAmoG (f : FA) (s : State) := finish s (s.amoHome f)

def State.casHome (s : State) (f : FA) : Except Stop State := do
  let n := if f.fn == 1 then 4 else 8
  let a ← s.srcG f.a f.trap
  let b ← s.srcG f.b f.trap
  let c ← s.srcG f.d f.trap
  s.atomicAddr a n
  s.destFree (.g f.d.toNat)
  return ((s.dropAtIssue a).issueRmw f.d (.cas n c b) .g a none 0x81).advance 4
def execCasG (f : FA) (s : State) := finish s (s.casHome f)

def State.redHome (s : State) (f : FA) : Except Stop State := do
  let n := widthOf f
  let a ← s.srcG (baseReg f) f.trap
  let b ← s.srcG f.b f.trap
  s.atomicAddr a n
  return ((s.dropAtIssue a).issue (.amo f.fn.toNat n b) .strong .g a none none 0x82).advance 4
def execRedG (f : FA) (s : State) := finish s (s.redHome f)

def State.fredHome (s : State) (f : FA) : Except Stop State := do
  let a ← s.srcG f.a f.trap
  let b ← s.srcG f.b f.trap
  s.atomicAddr a 4
  return ((s.dropAtIssue a).issue (.famo f.fn.toNat b) .strong .g a none none 0x83).advance 4
def execFredG (f : FA) (s : State) := finish s (s.fredHome f)

def State.famoHome (s : State) (f : FA) : Except Stop State := do
  let a ← s.srcG f.a f.trap
  let b ← s.srcG f.b f.trap
  s.atomicAddr a 4
  s.destFree (.g f.d.toNat)
  return ((s.dropAtIssue a).issueRmw f.d (.famo f.fn.toNat b) .g a none 0x84).advance 4
def execFamoG (f : FA) (s : State) := finish s (s.famoHome f)

/-! ## Vector scatter reductions (R333, R334) -/

def State.scatter (s : State) (opc : BitVec 8) (f : FA) (w : Nat) (op : Nat → ReqOp) : Except Stop State := do
  let b ← s.srcG (baseReg f) f.trap
  let v ← s.srcV f.b f.trap
  let d ← s.srcV f.d f.trap
  let st := s.self
  let n := st.count w
  let i := elems w n v
  let x := elems w n d
  let l ← s.checkElems .w w ((st.actives n).map (fun e => (e, b + word (el i e * w))))
  let t := l.foldl (fun t e => t.dropAtIssue e.2.1) s
  return (t.issueElems opc false (fun e => op (el x e)) none w .strong l).advance 4

def execVredG (f : FA) (s : State) :=
  finish s (s.scatter 0x85 f (widthOf f) (fun x => .amo f.fn.toNat (widthOf f) (word x)))
def execVfredG (f : FA) (s : State) :=
  finish s (s.scatter 0x86 f 4 (fun x => .famo f.fn.toNat (word x)))

/-! ## rfence (R335) -/

def State.rfence (s : State) (scope : Nat) : Except Stop State := do
  s.holdFor (s.drained s.issuer && s.leasesOver s.issuer s.serial scope)
  return (s.fenced 0 scope).advance 4
def execRfence (f : FA) (s : State) := finish s (s.rfence f.fn.toNat)

/-! ## Range units (R322 to R324) -/

/-- A descriptor that R322 allows, as a range of an address space. -/
def rangeOf (asid : BitVec 16) (d : List Byte) : Option Range :=
  let base := field d 0 8
  let stride := field d 8 8
  let count := field d 0x10 4
  let logw := field d 0x14 1
  let width := 2 ^ logw
  if field d 0x15 3 != 0 || field d 0x18 8 != 0 || logw < 3 || 7 < logw || !canonical (word base) || base % width != 0 ||
      stride % width != 0 || stride < width || 2 ^ 32 ≤ stride || count < 1 || 2 ^ 24 < count ||
      2 ^ 64 ≤ base + (count - 1) * stride + width - 1 || !canonical (word (base + (count - 1) * stride + width - 1)) then none
  else some { asid, base := word base, stride, count, width }

/-- The 64-bit words of memory behind addresses, both divided by 8, those of absent pages apart; an entry that is out of
reach is waited for. -/
def State.wordPlaces (s : State) : List Nat → Except Stop (List (Nat × Nat))
  | [] => .ok []
  | a :: as =>
    match s.translate s.self.tower s.crew.asid false .any (word a) with
    | .ok t => do
      let l ← s.wordPlaces as
      return (a / 8, t.place / 8) :: l
    | .error (.waits p) => .error (.wake p)
    | .error _ => s.wordPlaces as

def State.rgrain (s : State) (f : FA) : Except Stop State := do
  let p ← s.srcG f.a f.trap
  need (canonical p) VA_NONCANON p
  need (p.toNat % 32 = 0) ALIGN p
  let d ← s.strongRead p 32
  let s := s.lookedAt p 32
  match rangeOf s.crew.asid d with
  | none => .error (.fault ILL_FIELD p)
  | some r =>
    let mine := s.ranges.filter (fun x => x.asid == r.asid)
    if 256 ≤ mine.length || r.words.any (fun a => mine.any (fun x => x.has a)) then
      return (s.holdOff s.self.crew s.self.idx).advance 4
    else
      let places ← s.wordPlaces r.words
      let t ← s.holdUnits ((places.map (·.2 / 16)).eraseDups)
      return ({ t with ranges := t.ranges ++ [{ r with places }] } : State).advance 4
def execRgrain (f : FA) (s : State) := finish s (s.rgrain f)

def State.rdrop (s : State) (f : FA) : Except Stop State := do
  let p ← s.srcG f.a f.trap
  need (canonical p) VA_NONCANON p
  match s.ranges.find? (fun r => r.asid == s.crew.asid && r.base == p) with
  | none => return (s.holdOff s.self.crew s.self.idx).advance 4
  | some r =>
    let t ← s.holdUnits [r.unit]
    return ({ t with ranges := t.ranges.filter (fun x => x.asid != r.asid || x.base != r.base) } : State).advance 4
def execRdrop (f : FA) (s : State) := finish s (s.rdrop f)

/-! ## Maintenance and query (R336, R337) -/

/-- Write dirty lines back: each is in flight until that is done (R321). -/
def State.writeLines (s : State) (lines : List Nat) : State :=
  { s with
    dirty := lines.foldl (fun m l => sset false m l false) s.dirty
    inflight := s.inflight ++ lines.map (fun l => ({ lines := [l] } : InFlight)) }

/-- A home slice writes back a dirty line that it need not keep: one that is not stranded (R339), nor owned, nor in flight
already, and whose memory takes it. -/
def State.writeBack (s : State) (l : Nat) : State :=
  if sget false s.dirty l && !sget false s.stranded l && !s.stuck (128 * l) && !s.memoryOff (128 * l) &&
      !s.ownedAt (128 * l) 128 then s.writeLines [l]
  else s

/-- Drop the copies of lines that the caches of a tower hold, its cores' loop buffers among them (R336, 04 R144); what a strand
has fetched and not executed stays (08 R270). -/
def State.dropLines (s : State) (tower : Nat) (lines : List Nat) : State :=
  let drop (st : Strand) : Strand :=
    if st.tower == tower then { st with ahead := st.ahead.map (fun l => if lines.contains l.line then { l with expiry := 0 } else l) }
    else st
  { s with
    self := drop s.self
    peers := s.peers.map drop
    copies := s.copies.filter (fun c => !(lines.contains c.line && c.holder.inTower == tower)) }

/-- gflush (R336): the dirty lines are written back (R321); it waits for owned ones. -/
def State.gflush (s : State) (f : FA) : Except Stop State := do
  let a ← s.srcG f.a f.trap
  let n ← s.srcG f.b f.trap
  publishRange a n
  let words ← s.wordPlaces ((linesOf a n).filterMap (fun va => if inWindow va then none else some va.toNat))
  let lines := ((words.map (·.2 / 16)).eraseDups).filter (fun l =>
    !sget false s.stranded l && !(s.tower (homeTower (128 * l))).rcDown)
  s.holdFor (lines.all (fun l => !s.ownedAt (128 * l) 128 && (!sget false s.dirty l || (s.flightOf (128 * l)).isNone)))
  let back := lines.filter (fun l => sget false s.dirty l)
  let t := s.writeLines back
  return (if f.fn == 1 then t.dropLines s.self.tower lines else t).advance 4
def execGflush (f : FA) (s : State) := finish s (s.gflush f)

/-- The home slice of a place (15 R462, R464); for a host line the spec names none. -/
def State.homeSlice (s : State) (p : Nat) : Nat × State :=
  if Place.isDram p then (2 * (Place.bankOf p % 32) + Place.bankOf p / 32 % 2, s)
  else if p < 2 * 2 ^ 60 then (p / 128 % 64, s)
  else
    let (w, t) := s.freeWord
    (w.toNat % 64, t)

/-- gquery (R337); an address in the register window, which no walk reaches, reads as zero: VALID is 0 (log 33). -/
def State.gquery (s : State) (f : FA) : Except Stop State := do
  let a ← s.srcG f.a f.trap
  need (canonical a) VA_NONCANON a
  s.destFree (.g f.d.toNat)
  let asid := s.crew.asid
  let found := s.lookup s.self.tower asid a
  match found with
  | .waits p => .error (.wake p)
  | _ => .ok ()
  let (v, t) : Word × State :=
    match found with
    | .leaf l _ =>
      if inWindow a then (0, s)
      else
        let p := s.leafPlace l (a.toNat % l.size)
        let (slice, t) := s.homeSlice p
        let line := p / 128
        (word (sget 0 s.lexp (s.unitOf asid a p) % 2 ^ 32 * 2 ^ 32 + l.policy * 2 ^ 18 + slice * 2 ^ 12 + homeTower p * 2 ^ 8 +
          16 * b2n (s.isOwned (s.unitOf asid a p)) + 8 * b2n (sget false s.stranded line) + 4 * b2n (sget false s.unpub line) + 2 * b2n (s.rangeAt asid a p).isSome + 1), t)
    | _ => (0, s)
  let u := if f.d == 0 then t else (t.produce (.g f.d.toNat) ((leBytes 8 v.toNat).map some)).1
  return u.advance 4
def execGquery (f : FA) (s : State) := finish s (s.gquery f)

end Sys2Proof.Machine
end

