-- ==== Sys2Proof/Machine/Trips.lean ====
section
/-! DEFINITION. Trips.lean: power, thermal trips, uncorrectable errors (10 R339, R340; 17 R500 to R505). -/

namespace Sys2Proof.Machine

/-! ## Power and warnings (R500, R502) -/

/-- POWER_CAP_EXCEED: the input power of the last millisecond, in watts; the clock is lowered while it exceeds PCAP, which acts
as 1,300 above that (R499), and returns once it is below. -/
def execPowerCapExceed (s : State) : Host.Outcome State Fault Refusal :=
  let p : BitVec 16 := BitVec.ofNat 16 (s.args.value.toNat / 10)
  let cap := min 1300 s.mod.pcap.toNat
  .next { s with mod := { s.mod with pnow := p, lowered := cap < p.toNat || (s.mod.lowered && p.toNat == cap) } }

/-- THERMAL_WARNING: no result changes. -/
def execThermalWarning (s : State) : Host.Outcome State Fault Refusal :=
  .next (s.setTower s.args.unit (fun t => { t with warm := s.args.flag }))

/-! ## Machine checks (R503, R504) -/

/-- A machine check that names the access or the registers of the strand in a slot ends its launch; without a strand it
is only logged. -/
def State.checkStrand (s : State) (strand : Option Strand) (code : BitVec 8) (tower : Nat) (addr : Word) : State :=
  match strand with
  | some st =>
    (s.recordFault (s.crewById st.crew).ctx (faultOf (s.issuerOf st) st.pc code addr)).mapStrand st.crew st.idx
      (fun st => { st with ended := true, wait := none })
  | none => s.machineCheck code tower 0 addr

/-- DRAM_UE: a G word is poisoned; a sealed row of bead space is, while an unsealed one shows nothing (14 R419). -/
def execDramUe (s : State) : Host.Outcome State Fault Refusal :=
  let p := s.args.unit
  let strand := if s.args.flag then s.strandInSlot s.args.sub else none
  let t := Place.towerOf p
  if !Place.isDram p then .next s
  else if (sget none s.subOwner (subOf p)).isSome then
    .next (if sget .isSealed s.rowState (p / 1024) == .isSealed then
        State.machineCheck { s with rowState := sset .isSealed s.rowState (p / 1024) .poisoned } MC_DRAM_UE t 0 (placeAddr p)
      else s)
  else .next (State.checkStrand { s with poison := sset false s.poison (p / 8) true } strand MC_DRAM_UE t (placeAddr p))

/-- The tower that holds a place. -/
def towerOfPlace (p : Nat) : Nat :=
  match Place.space p with
  | .s core => towerOfCore core
  | .c core => towerOfCore core
  | .t tower => tower
  | _ => homeTower p

/-- SRAM_UE: a memory word, the registers of a strand, or a control store, whose owner is the running entry's launch. -/
def execSramUe (s : State) : Host.Outcome State Fault Refusal :=
  let x := s.args.sub
  match s.args.unit with
  | 0 =>
    let strand := if s.args.flag then s.strandInSlot s.args.value.toNat else none
    .next (State.checkStrand { s with poison := sset false s.poison (x / 8) true } strand MC_SRAM_UE (towerOfPlace x) (placeAddr x))
  | 1 => .next (s.checkStrand (s.strandInSlot x) MC_SRAM_UE (towerOfSlot x) 0)
  | _ =>
    match (s.chan x).entry with
    | some e =>
      match (s.ctx e.cmd.who.ctx).launch with
      | some l =>
        .next (if l.born ≤ e.cmd.born && l.completion.isNone then
            s.recordFault e.cmd.who.ctx (faultOf e.cmd.who e.cmd.pc MC_SRAM_UE 0)
          else s.machineCheck MC_SRAM_UE (x / 32) 0 0)
      | none => .next (s.machineCheck MC_SRAM_UE (x / 32) 0 0)
    | none => .next (s.machineCheck MC_SRAM_UE (x / 32) 0 0)

/-- CACHE_PARITY_ERROR: the copy is dropped, in a cache, or, as the flag says, in the loop buffer of the strand in a
slot. -/
def execCacheParityError (s : State) : Host.Outcome State Fault Refusal :=
  if s.args.flag then
    match s.strandInSlot s.args.sub with
    | some st => .next (s.mapStrand st.crew st.idx (fun st => { st with
        looped := st.looped.filter (fun a => a.toNat / 128 != s.args.unit)
        ahead := st.ahead.map (fun l => if l.vline = s.args.unit then { l with expiry := 0 } else l) }))
    | none => .next s
  else .next { s with copies := s.copies.eraseIdx s.args.unit }

/-- LINK_FAIL. -/
def execLinkFail (s : State) : Host.Outcome State Fault Refusal :=
  let strand := if s.args.flag then s.strandInSlot s.args.sub else none
  .next (s.checkStrand strand (if s.args.unit = 1 then MC_CXL else MC_LINK) (towerOfSlot s.args.sub % 16) 0)

/-- PATROL_SCRUB: a G row is read; a machine check it finds ends no launch (R504). -/
def execPatrolScrub (s : State) : Host.Outcome State Fault Refusal :=
  let p := s.args.unit
  if !s.args.flag || !Place.isDram p || (sget none s.subOwner (subOf p)).isSome then .next s
  else .next (State.machineCheck { s with poison := sset false s.poison (p / 8) true } MC_DRAM_UE (Place.towerOf p) 0 (placeAddr p))

/-! ## Trips (R502) -/

/-- Every launch with a crew in a tower ends with a machine check, which is logged once. -/
def State.endCrewsIn (s : State) (t : Nat) (code : BitVec 8) (addr : Word) : State :=
  let here := s.crews.filter (fun c => !c.saved && c.cores.any (fun k => towerOfCore k == t))
  let mark (u : State) (c : Crew) : State :=
    let f : FaultRec := { code, mid := c.mid, tower := t, addr, indices := c.indices }
    (u.setCtx c.ctx (fun x => { x with launch := x.launch.map (fun l => { l with faults := l.faults ++ [f] }) })).mapCrew c.id
      (fun st => { st with ended := true, wait := none })
  here.foldl mark (s.machineCheck code t 0 addr)

/-- LANE_DIE_TRIP and LANE_DIE_RESTART. -/
def execLaneDieTrip (s : State) : Host.Outcome State Fault Refusal :=
  let t := s.args.unit % 16
  .next ((s.endCrewsIn t MC_THERM_LANE 0).setTower t (fun x => { x with laneDown := true }))
def execLaneDieRestart (s : State) : Host.Outcome State Fault Refusal :=
  .next (s.setTower (s.args.unit % 16) (fun x => { x with laneDown := false }))

/-- A register-and-cache die or a base die trips: stranded lines are shed with every word poisoned, which accesses to them still
meet, machine checks name their range line by line (10 R340, log 15), launches end, and the tower leaves TUP. -/
def State.towerTrip (s : State) (t : Nat) (code : BitVec 8) : State :=
  let shed := (s.stranded.map (·.1)).filter (fun l => homeTower (128 * l) == t)
  let words := shed.flatMap (fun l => (List.range 16).map (fun i => 16 * l + i))
  let u : State := { s with
    poison := words.foldl (fun m w => sset false m w true) s.poison
    stranded := shed.foldl (fun m l => sset false m l false) s.stranded
    dirty := s.dirty.filter (fun e => shed.contains e.1 || homeTower (128 * e.1) != t)
    mod := { s.mod with tup := s.mod.tup &&& ~~~(BitVec.twoPow 16 t) } }
  let named := (shed.drop 1).foldl (fun (v : State) l => v.machineCheck code t 0 (placeAddr (128 * l)))
    (u.endCrewsIn t code ((shed.head?.map (fun l => placeAddr (128 * l))).getD 0))
  named.setTower t (fun x => { x with rcDown := true })

def execRcDieTrip (s : State) : Host.Outcome State Fault Refusal := .next (s.towerTrip (s.args.unit % 16) MC_THERM_RC)
def execBaseDieTrip (s : State) : Host.Outcome State Fault Refusal := .next (s.towerTrip (s.args.unit % 16) MC_THERM_BASE)

/-- The channels of a DRAM layer (01 R14), and the lines homed on it. -/
def layerChans (t layer : Nat) : List Nat := [t * 32 + 2 * (layer - 1), t * 32 + 2 * (layer - 1) + 1]
def onLayer (t layer line : Nat) : Bool :=
  Place.isDram (128 * line) && (layerChans t layer).contains (chanOf (128 * line))

/-- DRAM_LAYER_TRIP (10 R339, 14 R437): bead state is saved, running entries parked first; dirty lines become
stranded. -/
def execDramLayerTrip (s : State) : Host.Outcome State Fault Refusal :=
  let t := s.args.unit
  let layer := s.args.sub
  if 16 ≤ t || layer = 0 || 16 < layer || (s.tower t).layersDown.contains (layer - 1) then .next s
  else
    match (layerChans t layer).foldlM (fun (u : State) k => u.tripChan k) s with
    | some u =>
      let lines := (s.dirty.map (·.1)).filter (onLayer t layer)
      let v : State := { u with stranded := lines.foldl (fun m l => sset false m l true) u.stranded }
      .next (v.setTower t (fun x => { x with layersDown := (layer - 1) :: x.layersDown }))
    | none => .next s

/-- DRAM_LAYER_RETURN: stranded lines are written back, bead state is restored, and the requests that wait at the slices are
served in arrival order (10 R339). -/
def execDramLayerReturn (s : State) : Host.Outcome State Fault Refusal :=
  let t := s.args.unit
  let layer := s.args.sub
  if !(s.tower t).layersDown.contains (layer - 1) || layer = 0 then .next s
  else
    let lines := (s.stranded.map (·.1)).filter (onLayer t layer)
    let u : State := { s with
      stranded := lines.foldl (fun m l => sset false m l false) s.stranded
      dirty := lines.foldl (fun m l => sset false m l false) s.dirty }
    let v := u.setTower t (fun x => { x with layersDown := x.layersDown.filter (· != layer - 1) })
    let w := (layerChans t layer).foldl (fun v k => v.returnChan k) v
    let (stuck, others) := w.inflight.partition (fun f => f.stuck && f.lines.any (onLayer t layer))
    .next (State.serveRecorded { w with inflight := others } (stuck.flatMap (·.recorded)))

/-- OUTER_MEMORY_TRIP and OUTER_MEMORY_RETURN. -/
def execOuterMemoryTrip (s : State) : Host.Outcome State Fault Refusal :=
  let c := s.args.unit % 8
  .next (if s.mod.outerDown.contains c then s else { s with mod := { s.mod with outerDown := c :: s.mod.outerDown } })
def execOuterMemoryReturn (s : State) : Host.Outcome State Fault Refusal :=
  .next { s with mod := { s.mod with outerDown := s.mod.outerDown.filter (· != s.args.unit % 8) } }

/-- The tower an I/O chiplet attaches to (01 R16). -/
def portTower (p : Nat) : Nat :=
  match p with
  | 0 => 4
  | 1 => 8
  | 2 => 7
  | _ => 11

/-- IO_CHIPLET_TRIP. -/
def execIoChipletTrip (s : State) : Host.Outcome State Fault Refusal :=
  let p := s.args.unit
  .next (State.machineCheck { s with mod := { s.mod with ports := s.mod.ports.set p false } } MC_CXL (portTower p) 0 0)

end Sys2Proof.Machine
end

