-- ==== Sys2Proof/Machine/Dispatch.lean ====
section
/-! DEFINITION. Dispatch.lean: one arm per constructor of Instr. -/

namespace Sys2Proof.Machine

def exec (i : Instr) (s : State) : Host.Outcome State Fault Refusal :=
  match i with
  | .prefixedPair px inner => Sys2Proof.Machine.execPrefixedPair px inner s
  | .cMv f => Sys2Proof.Machine.execCMv f s
  | .cAdd f => Sys2Proof.Machine.execCAdd f s
  | .cSub f => Sys2Proof.Machine.execCSub f s
  | .cAnd f => Sys2Proof.Machine.execCAnd f s
  | .cOr f => Sys2Proof.Machine.execCOr f s
  | .cXor f => Sys2Proof.Machine.execCXor f s
  | .cLds f => Sys2Proof.Machine.execCLds f s
  | .cSts f => Sys2Proof.Machine.execCSts f s
  | .cAddi f => Sys2Proof.Machine.execCAddi f s
  | .cLi f => Sys2Proof.Machine.execCLi f s
  | .cShli f => Sys2Proof.Machine.execCShli f s
  | .cShri f => Sys2Proof.Machine.execCShri f s
  | .cBeqz f => Sys2Proof.Machine.execCBeqz f s
  | .cBnez f => Sys2Proof.Machine.execCBnez f s
  | .cBrb f => Sys2Proof.Machine.execCBrb f s
  | .cJmp f => Sys2Proof.Machine.execCJmp f s
  | .cJr f => Sys2Proof.Machine.execCJr f s
  | .cNop f => Sys2Proof.Machine.execCNop f s
  | .cYield f => Sys2Proof.Machine.execCYield f s
  | .cLidx f => Sys2Proof.Machine.execCLidx f s
  | .add f => Sys2Proof.Machine.execAdd f s
  | .sub f => Sys2Proof.Machine.execSub f s
  | .addi f => Sys2Proof.Machine.execAddi f s
  | .andR f => Sys2Proof.Machine.execAnd f s
  | .orR f => Sys2Proof.Machine.execOr f s
  | .xorR f => Sys2Proof.Machine.execXor f s
  | .logi f => Sys2Proof.Machine.execLogi f s
  | .shl f => Sys2Proof.Machine.execShl f s
  | .shr f => Sys2Proof.Machine.execShr f s
  | .sar f => Sys2Proof.Machine.execSar f s
  | .shi f => Sys2Proof.Machine.execShi f s
  | .mul f => Sys2Proof.Machine.execMul f s
  | .mulh f => Sys2Proof.Machine.execMulh f s
  | .div f => Sys2Proof.Machine.execDiv f s
  | .rem f => Sys2Proof.Machine.execRem f s
  | .minmax f => Sys2Proof.Machine.execMinmax f s
  | .cmp f => Sys2Proof.Machine.execCmp f s
  | .sel f => Sys2Proof.Machine.execSel f s
  | .lui f => Sys2Proof.Machine.execLui f s
  | .addpc f => Sys2Proof.Machine.execAddpc f s
  | .fops f => Sys2Proof.Machine.execFops f s
  | .ffma f => Sys2Proof.Machine.execFfma f s
  | .fcmp f => Sys2Proof.Machine.execFcmp f s
  | .fcvt f => Sys2Proof.Machine.execFcvt f s
  | .br f => Sys2Proof.Machine.execBr f s
  | .brb f => Sys2Proof.Machine.execBrb f s
  | .jmp f => Sys2Proof.Machine.execJmp f s
  | .jal f => Sys2Proof.Machine.execJal f s
  | .jr f => Sys2Proof.Machine.execJr f s
  | .loopR f => Sys2Proof.Machine.execLoop f s
  | .loopi f => Sys2Proof.Machine.execLoopi f s
  | .lexit f => Sys2Proof.Machine.execLexit f s
  | .lidx f => Sys2Proof.Machine.execLidx f s
  | .fe f => Sys2Proof.Machine.execFe f s
  | .getc f => Sys2Proof.Machine.execGetc f s
  | .setc f => Sys2Proof.Machine.execSetc f s
  | .trap f => Sys2Proof.Machine.execTrap f s
  | .tret f => Sys2Proof.Machine.execTret f s
  | .sys f => Sys2Proof.Machine.execSys f s
  | .brk f => Sys2Proof.Machine.execBrk f s
  | .ldS f => Sys2Proof.Machine.execLdS f s
  | .stS f => Sys2Proof.Machine.execStS f s
  | .ldC f => Sys2Proof.Machine.execLdC f s
  | .stC f => Sys2Proof.Machine.execStC f s
  | .ldT f => Sys2Proof.Machine.execLdT f s
  | .stT f => Sys2Proof.Machine.execStT f s
  | .ldG f => Sys2Proof.Machine.execLdG f s
  | .stG f => Sys2Proof.Machine.execStG f s
  | .ldq f => Sys2Proof.Machine.execLdq f s
  | .stq f => Sys2Proof.Machine.execStq f s
  | .ldfe f => Sys2Proof.Machine.execLdfe f s
  | .stfe f => Sys2Proof.Machine.execStfe f s
  | .fefill f => Sys2Proof.Machine.execFefill f s
  | .ldfeC f => Sys2Proof.Machine.execLdfeC f s
  | .stfeC f => Sys2Proof.Machine.execStfeC f s
  | .fence f => Sys2Proof.Machine.execFence f s
  | .xch f => Sys2Proof.Machine.execXch f s
  | .rgclaim f => Sys2Proof.Machine.execRgclaim f s
  | .rgpost f => Sys2Proof.Machine.execRgpost f s
  | .rgtake f => Sys2Proof.Machine.execRgtake f s
  | .rgfree f => Sys2Proof.Machine.execRgfree f s
  | .rginit f => Sys2Proof.Machine.execRginit f s
  | .pref f => Sys2Proof.Machine.execPref f s
  | .tsplit f => Sys2Proof.Machine.execTsplit f s
  | .casS f => Sys2Proof.Machine.execCasS f s
  | .amoS f => Sys2Proof.Machine.execAmoS f s
  | .leaseq f => Sys2Proof.Machine.execLeaseq f s
  | .wfull f => Sys2Proof.Machine.execWfull f s
  | .cpub f => Sys2Proof.Machine.execCpub f s
  | .cpubq f => Sys2Proof.Machine.execCpubq f s
  | .ifence f => Sys2Proof.Machine.execIfence f s
  | .ipatch f => Sys2Proof.Machine.execIpatch f s
  | .spawn f => Sys2Proof.Machine.execSpawn f s
  | .spawnw f => Sys2Proof.Machine.execSpawnw f s
  | .yield f => Sys2Proof.Machine.execYield f s
  | .retire f => Sys2Proof.Machine.execRetire f s
  | .cbar f => Sys2Proof.Machine.execCbar f s
  | .cbarq f => Sys2Proof.Machine.execCbarq f s
  | .wseq f => Sys2Proof.Machine.execWseq f s
  | .abort f => Sys2Proof.Machine.execAbort f s
  | .vlong f => Sys2Proof.Machine.execVlong f s
  | .vshort f => Sys2Proof.Machine.execVshort f s
  | .setvl f => Sys2Proof.Machine.execSetvl f s
  | .mset f => Sys2Proof.Machine.execMset f s
  | .mpop f => Sys2Proof.Machine.execMpop f s
  | .vxch f => Sys2Proof.Machine.execVxch f s
  | .vidx f => Sys2Proof.Machine.execVidx f s
  | .vld f => Sys2Proof.Machine.execVld f s
  | .vst f => Sys2Proof.Machine.execVst f s
  | .vlds f => Sys2Proof.Machine.execVlds f s
  | .vsts f => Sys2Proof.Machine.execVsts f s
  | .vldx f => Sys2Proof.Machine.execVldx f s
  | .vstx f => Sys2Proof.Machine.execVstx f s
  | .vadd f => Sys2Proof.Machine.execVadd f s
  | .vsub f => Sys2Proof.Machine.execVsub f s
  | .vmul f => Sys2Proof.Machine.execVmul f s
  | .vmulhI f => Sys2Proof.Machine.execVmulhI f s
  | .vmulhN f => Sys2Proof.Machine.execVmulhN f s
  | .vfma f => Sys2Proof.Machine.execVfma f s
  | .vdiv f => Sys2Proof.Machine.execVdiv f s
  | .vdivN f => Sys2Proof.Machine.execVdivN f s
  | .vmin f => Sys2Proof.Machine.execVmin f s
  | .vminN f => Sys2Proof.Machine.execVminN f s
  | .vmax f => Sys2Proof.Machine.execVmax f s
  | .vmaxN f => Sys2Proof.Machine.execVmaxN f s
  | .vand f => Sys2Proof.Machine.execVand f s
  | .vor f => Sys2Proof.Machine.execVor f s
  | .vxor f => Sys2Proof.Machine.execVxor f s
  | .vandn f => Sys2Proof.Machine.execVandn f s
  | .vorn f => Sys2Proof.Machine.execVorn f s
  | .vxnor f => Sys2Proof.Machine.execVxnor f s
  | .vshl f => Sys2Proof.Machine.execVshl f s
  | .vshr f => Sys2Proof.Machine.execVshr f s
  | .vsar f => Sys2Proof.Machine.execVsar f s
  | .vcmp f => Sys2Proof.Machine.execVcmp f s
  | .vsel f => Sys2Proof.Machine.execVsel f s
  | .vmov f => Sys2Proof.Machine.execVmov f s
  | .vabs f => Sys2Proof.Machine.execVabs f s
  | .vneg f => Sys2Proof.Machine.execVneg f s
  | .vexp2 f => Sys2Proof.Machine.execVexp2 f s
  | .vlog2 f => Sys2Proof.Machine.execVlog2 f s
  | .vrecip f => Sys2Proof.Machine.execVrecip f s
  | .vsqrt f => Sys2Proof.Machine.execVsqrt f s
  | .vrsqrt f => Sys2Proof.Machine.execVrsqrt f s
  | .vact f => Sys2Proof.Machine.execVact f s
  | .vperm f => Sys2Proof.Machine.execVperm f s
  | .vslide f => Sys2Proof.Machine.execVslide f s
  | .vcompress f => Sys2Proof.Machine.execVcompress f s
  | .vexpand f => Sys2Proof.Machine.execVexpand f s
  | .vredsum f => Sys2Proof.Machine.execVredsum f s
  | .vredsumO f => Sys2Proof.Machine.execVredsumO f s
  | .vredmm f => Sys2Proof.Machine.execVredmm f s
  | .vscan f => Sys2Proof.Machine.execVscan f s
  | .vsortkv f => Sys2Proof.Machine.execVsortkv f s
  | .vsegred f => Sys2Proof.Machine.execVsegred f s
  | .amoG f => Sys2Proof.Machine.execAmoG f s
  | .casG f => Sys2Proof.Machine.execCasG f s
  | .redG f => Sys2Proof.Machine.execRedG f s
  | .fredG f => Sys2Proof.Machine.execFredG f s
  | .famoG f => Sys2Proof.Machine.execFamoG f s
  | .vredG f => Sys2Proof.Machine.execVredG f s
  | .vfredG f => Sys2Proof.Machine.execVfredG f s
  | .rfence f => Sys2Proof.Machine.execRfence f s
  | .rgrain f => Sys2Proof.Machine.execRgrain f s
  | .rdrop f => Sys2Proof.Machine.execRdrop f s
  | .gflush f => Sys2Proof.Machine.execGflush f s
  | .gquery f => Sys2Proof.Machine.execGquery f s
  | .seed f => Sys2Proof.Machine.execSeed f s
  | .seedq f => Sys2Proof.Machine.execSeedq f s
  | .srseed f => Sys2Proof.Machine.execSrseed f s
  | .rtag f => Sys2Proof.Machine.execRtag f s
  | .cvtn f => Sys2Proof.Machine.execCvtn f s
  | .cvtnF f => Sys2Proof.Machine.execCvtnF f s
  | .cvtw f => Sys2Proof.Machine.execCvtw f s
  | .cvtwF f => Sys2Proof.Machine.execCvtwF f s
  | .qscale f => Sys2Proof.Machine.execQscale f s
  | .rotv f => Sys2Proof.Machine.execRotv f s
  | .unrotv f => Sys2Proof.Machine.execUnrotv f s
  | .cvti f => Sys2Proof.Machine.execCvti f s
  | .mzero f => Sys2Proof.Machine.execMzero f s
  | .mld f => Sys2Proof.Machine.execMld f s
  | .mst f => Sys2Proof.Machine.execMst f s
  | .mbar f => Sys2Proof.Machine.execMbar f s
  | .mwait f => Sys2Proof.Machine.execMwait f s
  | .mtr f => Sys2Proof.Machine.execMtr f s
  | .mrow f => Sys2Proof.Machine.execMrow f s
  | .mramp f => Sys2Proof.Machine.execMramp f s
  | .mtag f => Sys2Proof.Machine.execMtag f s
  | .mscl f => Sys2Proof.Machine.execMscl f s
  | .mma f => Sys2Proof.Machine.execMma f s
  | .mmaC f => Sys2Proof.Machine.execMmaC f s
  | .mmas f => Sys2Proof.Machine.execMmas f s
  | .mmax f => Sys2Proof.Machine.execMmax f s
  | .macc f => Sys2Proof.Machine.execMacc f s
  | .mcvt f => Sys2Proof.Machine.execMcvt f s
  | .crn f => Sys2Proof.Machine.execCrn f s
  | .crnF f => Sys2Proof.Machine.execCrnF f s
  | .crnT f => Sys2Proof.Machine.execCrnT f s
  | .crnR f => Sys2Proof.Machine.execCrnR f s
  | .crnq f => Sys2Proof.Machine.execCrnq f s
  | .crnw f => Sys2Proof.Machine.execCrnw f s
  | .crnX f => Sys2Proof.Machine.execCrnX f s
  | .crnC f => Sys2Proof.Machine.execCrnC f s
  | .ldB f => Sys2Proof.Machine.execLdB f s
  | .stB f => Sys2Proof.Machine.execStB f s
  | .bcall f => Sys2Proof.Machine.execBcall f s
  | .bfence f => Sys2Proof.Machine.execBfence f s
  | .block f => Sys2Proof.Machine.execBlock f s
  | .bunlk f => Sys2Proof.Machine.execBunlk f s
  | .bseal f => Sys2Proof.Machine.execBseal f s
  | .bstat f => Sys2Proof.Machine.execBstat f s
  | .bcsl f => Sys2Proof.Machine.execBcsl f s
  | .bsave f => Sys2Proof.Machine.execBsave f s
  | .brest f => Sys2Proof.Machine.execBrest f s
  | .bwdog f => Sys2Proof.Machine.execBwdog f s
  | .bmode f => Sys2Proof.Machine.execBmode f s
  | .bpart f => Sys2Proof.Machine.execBpart f s
  | .bscrub f => Sys2Proof.Machine.execBscrub f s
  | .moduleReset => Sys2Proof.Machine.execModuleReset s
  | .resetRelease => Sys2Proof.Machine.execResetRelease s
  | .towerStart => Sys2Proof.Machine.execTowerStart s
  | .bootLaunchStart => Sys2Proof.Machine.execBootLaunchStart s
  | .doeAttestRequest => Sys2Proof.Machine.execDoeAttestRequest s
  | .doeCertChain => Sys2Proof.Machine.execDoeCertChain s
  | .doeImageChunk => Sys2Proof.Machine.execDoeImageChunk s
  | .doeImageDone => Sys2Proof.Machine.execDoeImageDone s
  | .readyWrite => Sys2Proof.Machine.execReadyWrite s
  | .attestStart => Sys2Proof.Machine.execAttestStart s
  | .attestReportDone => Sys2Proof.Machine.execAttestReportDone s
  | .fusesvnWrite => Sys2Proof.Machine.execFusesvnWrite s
  | .keyLoad => Sys2Proof.Machine.execKeyLoad s
  | .shootDown => Sys2Proof.Machine.execShootDown s
  | .shootDownDone => Sys2Proof.Machine.execShootDownDone s
  | .migration => Sys2Proof.Machine.execMigration s
  | .dutyWrite => Sys2Proof.Machine.execDutyWrite s
  | .contextEnable => Sys2Proof.Machine.execContextEnable s
  | .launchDoorbell => Sys2Proof.Machine.execLaunchDoorbell s
  | .crheadWrite => Sys2Proof.Machine.execCrheadWrite s
  | .completionRingRetarget => Sys2Proof.Machine.execCompletionRingRetarget s
  | .frheadWrite => Sys2Proof.Machine.execFrheadWrite s
  | .faultAnswer => Sys2Proof.Machine.execFaultAnswer s
  | .cslLoadCommand => Sys2Proof.Machine.execCslLoadCommand s
  | .registerWrite => Sys2Proof.Machine.execRegisterWrite s
  | .launchFetch => Sys2Proof.Machine.execLaunchFetch s
  | .manifestAdmit => Sys2Proof.Machine.execManifestAdmit s
  | .manifestReady => Sys2Proof.Machine.execManifestReady s
  | .iterationPlace => Sys2Proof.Machine.execIterationPlace s
  | .lighterFetchBack => Sys2Proof.Machine.execLighterFetchBack s
  | .completionRecordWrite => Sys2Proof.Machine.execCompletionRecordWrite s
  | .agingTick => Sys2Proof.Machine.execAgingTick s
  | .preemptRequest => Sys2Proof.Machine.execPreemptRequest s
  | .strandStop => Sys2Proof.Machine.execStrandStop s
  | .frameWrite => Sys2Proof.Machine.execFrameWrite s
  | .crewSuspend => Sys2Proof.Machine.execCrewSuspend s
  | .crewResume => Sys2Proof.Machine.execCrewResume s
  | .launchEnd => Sys2Proof.Machine.execLaunchEnd s
  | .preemptLimit => Sys2Proof.Machine.execPreemptLimit s
  | .fullEmptyWake => Sys2Proof.Machine.execFullEmptyWake s
  | .barrierWake => Sys2Proof.Machine.execBarrierWake s
  | .vectorCapacityGrant => Sys2Proof.Machine.execVectorCapacityGrant s
  | .tideTick => Sys2Proof.Machine.execTideTick s
  | .leaseExpiry => Sys2Proof.Machine.execLeaseExpiry s
  | .homeReadRequest => Sys2Proof.Machine.execHomeReadRequest s
  | .homeWeakStore => Sys2Proof.Machine.execHomeWeakStore s
  | .homeStrongWrite => Sys2Proof.Machine.execHomeStrongWrite s
  | .homeAtomic => Sys2Proof.Machine.execHomeAtomic s
  | .lineFillDone => Sys2Proof.Machine.execLineFillDone s
  | .pageWalk => Sys2Proof.Machine.execPageWalk s
  | .hwFaultResolve => Sys2Proof.Machine.execHwFaultResolve s
  | .faultRecordPost => Sys2Proof.Machine.execFaultRecordPost s
  | .hostMemRead => Sys2Proof.Machine.execHostMemRead s
  | .hostMemWrite => Sys2Proof.Machine.execHostMemWrite s
  | .hostSnoop => Sys2Proof.Machine.execHostSnoop s
  | .cxlPortTrain => Sys2Proof.Machine.execCxlPortTrain s
  | .powerCapExceed => Sys2Proof.Machine.execPowerCapExceed s
  | .thermalWarning => Sys2Proof.Machine.execThermalWarning s
  | .laneDieTrip => Sys2Proof.Machine.execLaneDieTrip s
  | .laneDieRestart => Sys2Proof.Machine.execLaneDieRestart s
  | .rcDieTrip => Sys2Proof.Machine.execRcDieTrip s
  | .baseDieTrip => Sys2Proof.Machine.execBaseDieTrip s
  | .dramLayerTrip => Sys2Proof.Machine.execDramLayerTrip s
  | .dramLayerReturn => Sys2Proof.Machine.execDramLayerReturn s
  | .outerMemoryTrip => Sys2Proof.Machine.execOuterMemoryTrip s
  | .ioChipletTrip => Sys2Proof.Machine.execIoChipletTrip s
  | .dramUe => Sys2Proof.Machine.execDramUe s
  | .sramUe => Sys2Proof.Machine.execSramUe s
  | .cacheParityError => Sys2Proof.Machine.execCacheParityError s
  | .linkFail => Sys2Proof.Machine.execLinkFail s
  | .patrolScrub => Sys2Proof.Machine.execPatrolScrub s
  | .matrixGrant => Sys2Proof.Machine.execMatrixGrant s
  | .matrixReleaseRequest => Sys2Proof.Machine.execMatrixReleaseRequest s
  | .matrixRelease => Sys2Proof.Machine.execMatrixRelease s
  | .matrixProductExec => Sys2Proof.Machine.execMatrixProductExec s
  | .mzeroExec => Sys2Proof.Machine.execMzeroExec s
  | .mldExec => Sys2Proof.Machine.execMldExec s
  | .mstExec => Sys2Proof.Machine.execMstExec s
  | .mbarArrive => Sys2Proof.Machine.execMbarArrive s
  | .mtrExec => Sys2Proof.Machine.execMtrExec s
  | .mrowExec => Sys2Proof.Machine.execMrowExec s
  | .msclExec => Sys2Proof.Machine.execMsclExec s
  | .maccExec => Sys2Proof.Machine.execMaccExec s
  | .mcvtExec => Sys2Proof.Machine.execMcvtExec s
  | .copyExec => Sys2Proof.Machine.execCopyExec s
  | .fillExec => Sys2Proof.Machine.execFillExec s
  | .cornerTurnExec => Sys2Proof.Machine.execCornerTurnExec s
  | .ringCopyExec => Sys2Proof.Machine.execRingCopyExec s
  | .craneWaitDone => Sys2Proof.Machine.execCraneWaitDone s
  | .publishCommandExec => Sys2Proof.Machine.execPublishCommandExec s
  | .beadEntryRun => Sys2Proof.Machine.execBeadEntryRun s
  | .actWord => Sys2Proof.Machine.execActWord s
  | .aapWord => Sys2Proof.Machine.execAapWord s
  | .traWord => Sys2Proof.Machine.execTraWord s
  | .cslWord => Sys2Proof.Machine.execCslWord s
  | .csrWord => Sys2Proof.Machine.execCsrWord s
  | .repWord => Sys2Proof.Machine.execRepWord s
  | .brfWord => Sys2Proof.Machine.execBrfWord s
  | .waitWord => Sys2Proof.Machine.execWaitWord s
  | .endWord => Sys2Proof.Machine.execEndWord s
  | .beadRefresh => Sys2Proof.Machine.execBeadRefresh s
  | .beadWatchdogExpire => Sys2Proof.Machine.execBeadWatchdogExpire s
  | .bankPowerDown => Sys2Proof.Machine.execBankPowerDown s
  | .blockExec => Sys2Proof.Machine.execBlockExec s
  | .bunlkExec => Sys2Proof.Machine.execBunlkExec s
  | .bsealExec => Sys2Proof.Machine.execBsealExec s
  | .bcslExec => Sys2Proof.Machine.execBcslExec s
  | .bmodeExec => Sys2Proof.Machine.execBmodeExec s
  | .bpartExec => Sys2Proof.Machine.execBpartExec s
  | .bscrubExec => Sys2Proof.Machine.execBscrubExec s
  | .paddingHalf => Sys2Proof.Machine.execPaddingHalf s
  | .illOpc => Sys2Proof.Machine.execIllOpc s
  | .dataReturn => Sys2Proof.Machine.execDataReturn s
  | .logheadWrite => Sys2Proof.Machine.execLogheadWrite s
  | .outerMemoryReturn => Sys2Proof.Machine.execOuterMemoryReturn s

end Sys2Proof.Machine
end

