-- ==== Sys2Proof/Machine/Depend.lean ====
section
/-! DEFINITION. Depend.lean: on which loads of its strand a store depends, through its address, its data or a branch before it (04
R137): how each instruction passes values between registers, and where its accesses take their addresses and data and put their
results. A value depends on a load also through the address of a later load (log 29). -/

namespace Sys2Proof.Machine

/-! ## Names of a strand's registers, as spans of numbers -/

/-- g registers, control registers and seeds have one number each, a mask register one for each element, a vector register one for
each byte. -/
def gSpan (r : Reg) : Nat × Nat := (r.toNat, 1)
def controlSpan (sel : Nat) : Nat × Nat := (64 + sel, 1)
def seedSpan (n k : Nat) : Nat × Nat := (128 + n, k)
def loopSpan (level : Nat) : Nat × Nat := (256 + level, 1)
def maskSpan (m e n : Nat) : Nat × Nat := (2 ^ 16 * (m + 1) + e, n)
def qSpan (r : Reg) (o n : Nat) : Nat × Nat := (2 ^ 30 + 2 ^ 20 * r.toNat + o, n)
def vSpan (r : Reg) (o n : Nat) : Nat × Nat := (2 ^ 31 + 2 ^ 20 * r.toNat + o, n)
def Strand.vecSpan (st : Strand) (r : Reg) (o n : Nat) : Nat × Nat := if st.long then vSpan r o n else qSpan r o n
def Strand.wholeSpan (st : Strand) (r : Reg) : Nat × Nat := st.vecSpan r 0 (2 ^ 20)
def allMasks : Nat × Nat := (2 ^ 16, 2 ^ 19)
def allLong : Nat × Nat := (2 ^ 31, 2 ^ 26)

/-- Two spans share a number. -/
def spanMeets (a b : Nat × Nat) : Bool := a.1 < b.1 + b.2 && b.1 < a.1 + a.2

/-- The loads that the values in some spans depend on. -/
def Strand.depsOf (st : Strand) (l : List (Nat × Nat)) : List Nat :=
  ((st.taint.filter (fun x => l.any (spanMeets x.1))).flatMap (·.2)).eraseDups
/-- A span has a new value, which depends on some loads; g0 has none. -/
def Strand.setDeps (st : Strand) (d : Nat × Nat) (ids : List Nat) : Strand :=
  let rest := st.taint.flatMap (fun x =>
    if !spanMeets x.1 d then [x]
    else (if x.1.1 < d.1 then [((x.1.1, d.1 - x.1.1), x.2)] else []) ++
      (if d.1 + d.2 < x.1.1 + x.1.2 then [((d.1 + d.2, x.1.1 + x.1.2 - (d.1 + d.2)), x.2)] else []))
  { st with taint := if ids.isEmpty || d.1 = 0 then rest else rest ++ [(d, ids)] }

/-! ## How values flow through an instruction -/

/-- The spans an instruction writes, each with those that its new value depends on; of its accesses, in the order of their issue, what
their addresses and their data depend on, and where what they read goes; and what decides whether, or whereto, it branches. -/
structure Flow where
  moves : List ((Nat × Nat) × List (Nat × Nat)) := []
  addr : Nat → List (Nat × Nat) := fun _ => []
  data : Nat → List (Nat × Nat) := fun _ => []
  dest : Nat → Option (Nat × Nat) := fun _ => none
  branch : List (Nat × Nat) := []

/-- A g register computed from others. -/
def scalarFlow (d : Reg) (l : List (Nat × Nat)) : Flow := { moves := [(gSpan d, l)] }
/-- One access at an address in a register. -/
def accessFlow (a : Reg) (data : List (Nat × Nat)) (dest : Option (Nat × Nat)) : Flow :=
  { addr := fun _ => [gSpan a], data := fun _ => data, dest := fun _ => dest }

/-- The vector length decides in long mode which elements there are. -/
def Strand.lengthSpan (st : Strand) : List (Nat × Nat) := if st.long then [controlSpan 10] else []
/-- What a rounded result depends on besides its operands (02 R57, 03 R92, R98). -/
def Strand.roundSpans (st : Strand) (px : Prefix) : List (Nat × Nat) :=
  (if px.rnd == 0 then [controlSpan 8] else []) ++
    (if (if px.rnd == 0 then st.rmode else px.rnd) == 6 then [controlSpan 6, if px.ixb == 0 then controlSpan 5 else gSpan px.ixb] else [])
def Strand.floatSpans (st : Strand) (px : Prefix) (f : FA) : List (Nat × Nat) := if isFloat f.fn.toNat then st.roundSpans px else []

/-- Elements of `w` bytes, each from the spans that `act` gives for an active one, and from the old one else. -/
def Strand.elemFlow (st : Strand) (w : Nat) (d : Reg) (act : Nat → List (Nat × Nat)) : Flow :=
  { moves := (List.range (st.count w)).map (fun e =>
      (st.vecSpan d (w * e) w, (if st.active e then act e else [st.vecSpan d (w * e) w]) ++ maskSpan 0 e 1 :: st.lengthSpan)) }
/-- Elements from the elements of other registers, and from more. -/
def Strand.eachFlow (st : Strand) (f : FA) (l : List Reg) (more : List (Nat × Nat)) : Flow :=
  let w := tyBytes f.fn.toNat
  st.elemFlow w f.d (fun e => l.map (fun r => st.vecSpan r (w * e) w) ++ more)
/-- Registers written from the whole of others. -/
def Strand.mixFlow (st : Strand) (ds l : List Reg) (more : List (Nat × Nat)) : Flow :=
  { moves := ds.map (fun d => (st.wholeSpan d, (ds ++ l).map st.wholeSpan ++ maskSpan 0 0 (2 ^ 16) :: st.lengthSpan ++ more)) }
/-- A reduction into element 0. -/
def Strand.reduceFlow (st : Strand) (f : FA) (more : List (Nat × Nat)) : Flow :=
  { moves := [(st.vecSpan f.d 0 (tyBytes f.fn.toNat), st.wholeSpan f.a :: maskSpan 0 0 (2 ^ 16) :: st.lengthSpan ++ more)] }
/-- A block-based form (11 R344 to R350). -/
def Strand.blockFlow (st : Strand) (px : Prefix) (f : FA) (ds l : List Reg) : Flow :=
  st.mixFlow (f.d :: ds) (f.a :: l) (controlSpan 7 :: seedSpan 0 16 :: st.roundSpans px)

/-- The element accesses of a vector memory form: their addresses depend on `addr` and, through their numbers, on `index`. -/
def Strand.memFlow (st : Strand) (w : Nat) (addr : List (Nat × Nat)) (index : Nat → List (Nat × Nat)) (data dest : Option Reg) : Flow :=
  let e (k : Nat) : Nat := ((st.actives (st.count w))[k]?).getD 0
  let part (r : Reg) (k : Nat) : Nat × Nat := st.vecSpan r (w * e k) w
  { addr := fun k => addr ++ index (e k) ++ maskSpan 0 (e k) 1 :: st.lengthSpan
    data := fun k => (data.map (fun r => part r k)).toList
    dest := fun k => dest.map (fun r => part r k) }
/-- vldx, vstx and the scatters index with a vector. -/
def Strand.indexFlow (st : Strand) (w : Nat) (f : FA) (data dest : Option Reg) : Flow :=
  st.memFlow w [gSpan (baseReg f)] (fun e => [st.vecSpan f.b (w * e) w]) data dest

/-- The flow of an instruction of a strand, under the fields of a first word of a pair. -/
def Strand.flow (st : Strand) (px : Prefix) : Instr → Flow
  | .prefixedPair p j => st.flow p j
  | .cMv f => scalarFlow (reg4 f.d) [gSpan (reg4 f.a)]
  | .cAdd f => scalarFlow (reg4 f.d) [gSpan (reg4 f.d), gSpan (reg4 f.a)]
  | .cSub f => scalarFlow (reg4 f.d) [gSpan (reg4 f.d), gSpan (reg4 f.a)]
  | .cAnd f => scalarFlow (reg4 f.d) [gSpan (reg4 f.d), gSpan (reg4 f.a)]
  | .cOr f => scalarFlow (reg4 f.d) [gSpan (reg4 f.d), gSpan (reg4 f.a)]
  | .cXor f => scalarFlow (reg4 f.d) [gSpan (reg4 f.d), gSpan (reg4 f.a)]
  | .cLds f => accessFlow (reg4 f.a) [] (some (gSpan (reg4 f.d)))
  | .cSts f => accessFlow (reg4 f.a) [gSpan (reg4 f.d)] none
  | .cAddi f => scalarFlow (reg4 f.d) [gSpan (reg4 f.d)]
  | .cLi f => scalarFlow (reg4 f.d) []
  | .cShli f => scalarFlow (reg4 f.d) [gSpan (reg4 f.d)]
  | .cShri f => scalarFlow (reg4 f.d) [gSpan (reg4 f.d)]
  | .cBeqz f => { branch := [gSpan (reg4 f.a)] }
  | .cBnez f => { branch := [gSpan (reg4 f.a)] }
  | .cBrb f => { branch := [gSpan (reg4 f.a)] }
  | .cJr f => { branch := [gSpan (reg4 f.a)] }
  | .cLidx f => scalarFlow (reg4 f.d) [loopSpan f.x.toNat]
  | .add f => scalarFlow f.d [gSpan f.a, gSpan f.b]
  | .sub f => scalarFlow f.d [gSpan f.a, gSpan f.b]
  | .addi f => scalarFlow f.d [gSpan f.a]
  | .andR f => scalarFlow f.d [gSpan f.a, gSpan f.b]
  | .orR f => scalarFlow f.d [gSpan f.a, gSpan f.b]
  | .xorR f => scalarFlow f.d [gSpan f.a, gSpan f.b]
  | .logi f => scalarFlow f.d [gSpan f.a]
  | .shl f => scalarFlow f.d [gSpan f.a, gSpan f.b]
  | .shr f => scalarFlow f.d [gSpan f.a, gSpan f.b]
  | .sar f => scalarFlow f.d [gSpan f.a, gSpan f.b]
  | .shi f => scalarFlow f.d [gSpan f.a]
  | .mul f => scalarFlow f.d [gSpan f.a, gSpan f.b]
  | .mulh f => scalarFlow f.d [gSpan f.a, gSpan f.b]
  | .div f => scalarFlow f.d [gSpan f.a, gSpan f.b]
  | .rem f => scalarFlow f.d [gSpan f.a, gSpan f.b]
  | .minmax f => scalarFlow f.d [gSpan f.a, gSpan f.b]
  | .cmp f => scalarFlow f.d [gSpan f.a, gSpan f.b]
  | .sel f => scalarFlow f.d [gSpan f.a, gSpan f.b, gSpan f.d]
  | .lui f => scalarFlow f.d []
  | .addpc f => scalarFlow f.d []
  | .fops f => scalarFlow f.d (gSpan f.a :: gSpan f.b :: st.roundSpans {})
  | .ffma f => scalarFlow f.d (gSpan f.a :: gSpan f.b :: gSpan f.d :: st.roundSpans {})
  | .fcmp f => scalarFlow f.d [gSpan f.a, gSpan f.b]
  | .fcvt f => scalarFlow f.d (gSpan f.a :: st.roundSpans {})
  | .br f => { branch := if f.cond == 6 || f.cond == 7 then [] else [gSpan f.a] }
  | .brb f => { branch := [gSpan f.a] }
  | .jal _ => scalarFlow 31 []
  | .jr f => { moves := [(gSpan f.d, [])], branch := [gSpan f.a] }
  | .loopR f => { moves := [(loopSpan st.ldepth, if f.flags.getLsbD 0 then [gSpan f.count] else [])] }
  | .loopi _ => { moves := [(loopSpan st.ldepth, [])] }
  | .lidx f => scalarFlow f.d [loopSpan f.fn.toNat]
  | .fe f => if f.fn == 2 then scalarFlow f.d [] else {}
  | .getc f => scalarFlow f.d [controlSpan f.imm.toNat]
  | .setc f => { moves := [(controlSpan f.imm.toNat, [gSpan f.d])] }
  | .ldS f => accessFlow f.a [] (some (gSpan f.d))
  | .stS f => accessFlow f.a [gSpan f.d] none
  | .ldC f => accessFlow f.a [] (some (gSpan f.d))
  | .stC f => accessFlow f.a [gSpan f.d] none
  | .ldT f => accessFlow f.a [] (some (gSpan f.d))
  | .stT f => accessFlow f.a [gSpan f.d] none
  | .ldG f => accessFlow f.a [] (some (gSpan f.d))
  | .stG f => accessFlow f.a [gSpan f.d] none
  | .ldq f => { accessFlow f.a [] none with dest := fun k => some (qSpan f.d (8 * k) 8) }
  | .stq f => { accessFlow f.a [] none with data := fun k => [qSpan f.d (8 * k) 8] }
  | .ldfe f => accessFlow f.a [] (some (gSpan f.d))
  | .stfe f => accessFlow f.a [gSpan f.d] none
  | .ldfeC f => accessFlow f.a [] (some (gSpan f.d))
  | .stfeC f => accessFlow f.a [gSpan f.d] none
  | .fefill f => accessFlow f.a [gSpan f.b] none
  | .xch f => { moves := (List.range (32 / tyBytes f.fn.toNat)).map (fun e =>
      let p := qSpan f.d (tyBytes f.fn.toNat * e) (tyBytes f.fn.toNat)
      (p, maskSpan 0 e 1 :: (if st.active e then [] else [p]))) }
  | .rgclaim f => accessFlow f.a [] (some (gSpan f.d))
  | .rgtake f => accessFlow f.a [] (some (gSpan f.d))
  | .rgpost f => accessFlow f.a [] none
  | .rgfree f => accessFlow f.a [] none
  | .rginit f => accessFlow f.a [gSpan f.b] none
  | .casS f => accessFlow f.a [gSpan f.b, gSpan f.d] (some (gSpan f.d))
  | .amoS f => accessFlow f.a [gSpan f.b] (some (gSpan f.d))
  | .leaseq f => scalarFlow f.d []
  | .cpubq f => scalarFlow f.d []
  | .ipatch f => accessFlow f.a [gSpan f.b] none
  | .spawn f => scalarFlow f.d []
  | .spawnw f => scalarFlow f.d []
  | .cbar f => accessFlow f.a [] none
  | .cbarq f => accessFlow f.a [] (some (gSpan f.d))
  | .wseq f => scalarFlow f.d []
  | .vlong f => { moves := [(allLong, []), (allMasks, []), (controlSpan 10, [gSpan f.a])] }
  | .vshort _ => if st.long then { moves := [(allLong, []), (allMasks, []), (controlSpan 10, [])] } else {}
  | .setvl f => { moves := [(controlSpan 10, [gSpan f.a]), (gSpan f.d, [gSpan f.a])] }
  | .mset f => { moves := [(maskSpan f.d.toNat 0 (2 ^ 16), [gSpan f.a, gSpan f.b])] }
  | .mpop f => scalarFlow f.d (maskSpan f.a.toNat 0 (2 ^ 16) :: st.lengthSpan)
  | .vxch f => { moves := (List.range st.vl).map (fun e =>
      let p := vSpan f.d (tyBytes f.fn.toNat * e) (tyBytes f.fn.toNat)
      (p, maskSpan 0 e 1 :: (if st.active e then [] else [p]))) }
  | .vidx f => st.eachFlow f [] []
  | .vld f => st.memFlow (tyBytes f.fn.toNat) [gSpan (baseReg f)] (fun _ => []) none (some f.d)
  | .vst f => st.memFlow (tyBytes f.fn.toNat) [gSpan (baseReg f)] (fun _ => []) (some f.d) none
  | .vlds f => st.memFlow (tyBytes f.fn.toNat) [gSpan (baseReg f), gSpan f.b] (fun _ => []) none (some f.d)
  | .vsts f => st.memFlow (tyBytes f.fn.toNat) [gSpan (baseReg f), gSpan f.b] (fun _ => []) (some f.d) none
  | .vldx f => st.indexFlow (tyBytes f.fn.toNat) f none (some f.d)
  | .vstx f => st.indexFlow (tyBytes f.fn.toNat) f (some f.d) none
  | .vadd f => st.eachFlow f [f.a, f.b] (st.floatSpans px f)
  | .vsub f => st.eachFlow f [f.a, f.b] (st.floatSpans px f)
  | .vmul f => st.eachFlow f [f.a, f.b] (st.floatSpans px f)
  | .vmulhI f => st.eachFlow f [f.a, f.b] []
  | .vmulhN f => st.eachFlow f [f.a, f.b] []
  | .vfma f => st.eachFlow f [f.a, f.b, f.d] (st.floatSpans px f)
  | .vdiv f => st.eachFlow f [f.a, f.b] (st.floatSpans px f)
  | .vdivN f => st.eachFlow f [f.a, f.b] []
  | .vmin f => st.eachFlow f [f.a, f.b] []
  | .vminN f => st.eachFlow f [f.a, f.b] []
  | .vmax f => st.eachFlow f [f.a, f.b] []
  | .vmaxN f => st.eachFlow f [f.a, f.b] []
  | .vand f => st.eachFlow f [f.a, f.b] []
  | .vor f => st.eachFlow f [f.a, f.b] []
  | .vxor f => st.eachFlow f [f.a, f.b] []
  | .vandn f => st.eachFlow f [f.a, f.b] []
  | .vorn f => st.eachFlow f [f.a, f.b] []
  | .vxnor f => st.eachFlow f [f.a, f.b] []
  | .vshl f => st.eachFlow f [f.a, f.b] []
  | .vshr f => st.eachFlow f [f.a, f.b] []
  | .vsar f => st.eachFlow f [f.a, f.b] []
  | .vcmp f =>
    let w := tyBytes f.fn.toNat
    { moves := (List.range (st.count w)).map (fun e => (maskSpan (f.d.toNat % 8) e 1,
        (if st.active e then [st.vecSpan f.a (w * e) w, st.vecSpan f.b (w * e) w] else []) ++ maskSpan 0 e 1 :: st.lengthSpan)) }
  | .vsel f =>
    let w := tyBytes f.fn.toNat
    { moves := (List.range (st.count w)).map (fun e => (st.vecSpan f.d (w * e) w,
        st.vecSpan (if st.active e then f.a else f.b) (w * e) w :: maskSpan 0 e 1 :: st.lengthSpan)) }
  | .vmov f => st.eachFlow f [] [gSpan f.a]
  | .vabs f => st.eachFlow f [f.a] []
  | .vneg f => st.eachFlow f [f.a] []
  | .vexp2 f => st.eachFlow f [f.a] (st.floatSpans px f)
  | .vlog2 f => st.eachFlow f [f.a] (st.floatSpans px f)
  | .vrecip f => st.eachFlow f [f.a] (st.floatSpans px f)
  | .vsqrt f => st.eachFlow f [f.a] (st.floatSpans px f)
  | .vrsqrt f => st.eachFlow f [f.a] (st.floatSpans px f)
  | .vact f => st.eachFlow f [f.a] (st.floatSpans px f)
  | .vperm f => st.eachFlow f [f.b] [st.wholeSpan f.a]
  | .vslide f => st.eachFlow f [] [st.wholeSpan f.a, gSpan f.b]
  | .vcompress f => st.mixFlow [f.d] [f.a] []
  | .vexpand f => st.mixFlow [f.d] [f.a] []
  | .vredsum f => st.reduceFlow f (st.floatSpans px f)
  | .vredsumO f => st.reduceFlow f (st.floatSpans px f)
  | .vredmm f => st.reduceFlow f []
  | .vscan f => st.mixFlow [f.d] [f.a] (st.floatSpans px f)
  | .vsortkv f => st.mixFlow [f.d, f.d + 1] [f.a, f.a + 1] []
  | .vsegred f => st.mixFlow [f.d] [f.a, f.b] (st.floatSpans px f)
  | .amoG f => accessFlow (baseReg f) [gSpan f.b] (some (gSpan f.d))
  | .casG f => accessFlow f.a [gSpan f.b, gSpan f.d] (some (gSpan f.d))
  | .redG f => accessFlow (baseReg f) [gSpan f.b] none
  | .fredG f => accessFlow f.a [gSpan f.b] none
  | .famoG f => accessFlow f.a [gSpan f.b] (some (gSpan f.d))
  | .vredG f => st.indexFlow (widthOf f) f (some f.d) none
  | .vfredG f => st.indexFlow 4 f (some f.d) none
  | .gquery f => scalarFlow f.d []
  | .seed f => { moves := [(seedSpan f.d.toNat 1, [gSpan f.a])] }
  | .seedq f => scalarFlow f.d [seedSpan f.a.toNat 1]
  | .srseed f => { moves := [(controlSpan 6, [gSpan f.a]), (controlSpan 5, [])] }
  | .rtag f => scalarFlow f.d [gSpan f.a, gSpan f.b]
  | .cvtn f => if f.fn == 0 then st.mixFlow [f.d] [f.a] (st.roundSpans px) else st.blockFlow px f (if f.fn == 3 then [scaleReg] else []) [scaleReg]
  | .cvtnF f => st.blockFlow px f [scaleReg] []
  | .cvtw f => if f.fn == 0 then st.mixFlow [f.d] [f.a] [] else st.blockFlow px f (if f.fn == 3 then [scaleReg] else []) [scaleReg]
  | .cvtwF f => st.blockFlow px f [] [scaleReg]
  | .qscale f => st.blockFlow px f [] []
  | .rotv f => st.blockFlow px f [] []
  | .unrotv f => st.blockFlow px f [] []
  | .cvti f =>
    match f.fn.toNat with
    | 1 => st.blockFlow px f [scaleReg] []
    | 2 => st.blockFlow px f [scaleReg] [scaleReg]
    | 5 => st.blockFlow px f [] [scaleReg]
    | _ => st.mixFlow [f.d] [f.a] (st.roundSpans px)
  | .mrow f => { moves := [(vSpan f.d 0 512, [])] }
  | .mtag f => scalarFlow f.d [gSpan f.a, gSpan f.b]
  | .crn f => scalarFlow f.d []
  | .crnF f => scalarFlow f.d []
  | .crnT f => scalarFlow f.d []
  | .crnR f => scalarFlow f.d []
  | .crnq f => scalarFlow f.d []
  | .crnC f => scalarFlow f.d []
  | .ldB f => st.memFlow (container (st.readG f.a.toNat)) [gSpan f.a, gSpan f.b] (fun _ => []) none (some f.d)
  | .stB f => st.memFlow (container (st.readG f.a.toNat)) [gSpan f.a, gSpan f.b] (fun _ => []) (some f.d) none
  | .bcall f => scalarFlow f.d []
  | .bfence f => scalarFlow f.d []
  | _ => {}

/-! ## After a turn -/

/-- A strand, as it stood before its turn, has issued accesses numbered from `n` on: they depend on what their addresses and their data
do, and on what its branches did; and what they read will stand in its registers. -/
def State.accessDeps (s : State) (fl : Flow) (old : Strand) (n : Nat) : State :=
  let mine (e : Event) : Bool := e.crew == old.crew && e.idx == old.idx && e.cmd.isNone && n ≤ e.id && e.isAccess
  let issued (r : Req) : Bool := r.who.crew == old.crew && r.who.idx == old.idx && n ≤ r.id && !r.op.isFence
  let waits (w : Waiter) : Bool := w.crew == old.crew && w.idx == old.idx && n ≤ w.id && w.need != .seeFull
  let ids := (s.reqs.filter issued).map (·.id) ++ (s.history.filter mine).map (·.id) ++ (s.waiters.filter waits).map (·.event.id)
  let deps (id : Nat) : List Nat :=
    let k := ids.findIdx (· == id)
    (old.depsOf (fl.addr k ++ fl.data k) ++ old.ctl).eraseDups
  if ids.isEmpty || s.self.crew != old.crew || s.self.idx != old.idx then s
  else
    let t : State := { s with
      reqs := s.reqs.map (fun r => if issued r && r.op.writes then { r with deps := deps r.id } else r)
      history := s.history.map (fun e => if mine e && e.writes then { e with deps := deps e.id } else e)
      waiters := s.waiters.map (fun w => if waits w then { w with event := { w.event with deps := deps w.event.id } } else w) }
    t.mapSelf (fun st => ids.zipIdx.foldl (fun st x => match fl.dest x.2 with
      | some d => st.setDeps d (x.1 :: old.depsOf (fl.addr x.2))
      | none => st) st)

/-- An instruction has moved values between registers, and may have branched on some. -/
def Strand.carry (fl : Flow) (old st : Strand) : Strand :=
  let t := fl.moves.foldl (fun st m => st.setDeps m.1 (old.depsOf m.2)) st
  { t with ctl := (st.ctl ++ old.depsOf fl.branch).eraseDups }

end Sys2Proof.Machine
end

