-- ==== Sys2Proof/Machine/Turn.lean ====
section
/-! DEFINITION. Turn.lean: what one turn of the agenda runs (log 1): a strand's next instruction, with the checks of 02
R46 in their order; a step of another agent; a core cycle of the matrix units' limiter (12 R388). -/

namespace Sys2Proof

/-- The steps of agents that are no strand's instruction. -/
def Instr.isEvent : Instr → Bool
  | .moduleReset => true
  | .resetRelease => true
  | .towerStart => true
  | .bootLaunchStart => true
  | .doeAttestRequest => true
  | .doeCertChain => true
  | .doeImageChunk => true
  | .doeImageDone => true
  | .readyWrite => true
  | .attestStart => true
  | .attestReportDone => true
  | .fusesvnWrite => true
  | .keyLoad => true
  | .shootDown => true
  | .shootDownDone => true
  | .migration => true
  | .dutyWrite => true
  | .contextEnable => true
  | .launchDoorbell => true
  | .crheadWrite => true
  | .completionRingRetarget => true
  | .frheadWrite => true
  | .faultAnswer => true
  | .cslLoadCommand => true
  | .registerWrite => true
  | .launchFetch => true
  | .manifestAdmit => true
  | .manifestReady => true
  | .iterationPlace => true
  | .lighterFetchBack => true
  | .completionRecordWrite => true
  | .agingTick => true
  | .preemptRequest => true
  | .strandStop => true
  | .frameWrite => true
  | .crewSuspend => true
  | .crewResume => true
  | .launchEnd => true
  | .fullEmptyWake => true
  | .barrierWake => true
  | .vectorCapacityGrant => true
  | .tideTick => true
  | .leaseExpiry => true
  | .homeReadRequest => true
  | .homeWeakStore => true
  | .homeStrongWrite => true
  | .homeAtomic => true
  | .lineFillDone => true
  | .pageWalk => true
  | .hwFaultResolve => true
  | .faultRecordPost => true
  | .hostMemRead => true
  | .hostMemWrite => true
  | .hostSnoop => true
  | .cxlPortTrain => true
  | .powerCapExceed => true
  | .thermalWarning => true
  | .laneDieTrip => true
  | .laneDieRestart => true
  | .rcDieTrip => true
  | .baseDieTrip => true
  | .dramLayerTrip => true
  | .dramLayerReturn => true
  | .outerMemoryTrip => true
  | .ioChipletTrip => true
  | .dramUe => true
  | .sramUe => true
  | .cacheParityError => true
  | .linkFail => true
  | .patrolScrub => true
  | .matrixGrant => true
  | .matrixReleaseRequest => true
  | .matrixRelease => true
  | .matrixProductExec => true
  | .mzeroExec => true
  | .mldExec => true
  | .mstExec => true
  | .mbarArrive => true
  | .mtrExec => true
  | .mrowExec => true
  | .msclExec => true
  | .maccExec => true
  | .mcvtExec => true
  | .copyExec => true
  | .fillExec => true
  | .cornerTurnExec => true
  | .ringCopyExec => true
  | .craneWaitDone => true
  | .publishCommandExec => true
  | .beadEntryRun => true
  | .actWord => true
  | .aapWord => true
  | .traWord => true
  | .cslWord => true
  | .csrWord => true
  | .repWord => true
  | .brfWord => true
  | .waitWord => true
  | .endWord => true
  | .beadRefresh => true
  | .beadWatchdogExpire => true
  | .bankPowerDown => true
  | .blockExec => true
  | .bunlkExec => true
  | .bsealExec => true
  | .bcslExec => true
  | .bmodeExec => true
  | .bpartExec => true
  | .bscrubExec => true
  | .dataReturn => true
  | .logheadWrite => true
  | .outerMemoryReturn => true
  | _ => false

/-- The fields that name a register of the vector file in use (02 R54), with fields that stay below 32 anyway. -/
def Instr.vectorFields : Instr → List Reg
  | .vadd f => [f.d, f.a, f.b]
  | .vsub f => [f.d, f.a, f.b]
  | .vmul f => [f.d, f.a, f.b]
  | .vmulhI f => [f.d, f.a, f.b]
  | .vmulhN f => [f.d, f.a, f.b]
  | .vfma f => [f.d, f.a, f.b]
  | .vdiv f => [f.d, f.a, f.b]
  | .vdivN f => [f.d, f.a, f.b]
  | .vmin f => [f.d, f.a, f.b]
  | .vminN f => [f.d, f.a, f.b]
  | .vmax f => [f.d, f.a, f.b]
  | .vmaxN f => [f.d, f.a, f.b]
  | .vand f => [f.d, f.a, f.b]
  | .vor f => [f.d, f.a, f.b]
  | .vxor f => [f.d, f.a, f.b]
  | .vandn f => [f.d, f.a, f.b]
  | .vorn f => [f.d, f.a, f.b]
  | .vxnor f => [f.d, f.a, f.b]
  | .vshl f => [f.d, f.a, f.b]
  | .vshr f => [f.d, f.a, f.b]
  | .vsar f => [f.d, f.a, f.b]
  | .vsel f => [f.d, f.a, f.b]
  | .vmov f => [f.d, f.a, f.b]
  | .vabs f => [f.d, f.a, f.b]
  | .vneg f => [f.d, f.a, f.b]
  | .vexp2 f => [f.d, f.a, f.b]
  | .vlog2 f => [f.d, f.a, f.b]
  | .vrecip f => [f.d, f.a, f.b]
  | .vsqrt f => [f.d, f.a, f.b]
  | .vrsqrt f => [f.d, f.a, f.b]
  | .vact f => [f.d, f.a, f.b]
  | .vperm f => [f.d, f.a, f.b]
  | .vslide f => [f.d, f.a, f.b]
  | .vcompress f => [f.d, f.a, f.b]
  | .vexpand f => [f.d, f.a, f.b]
  | .vredsum f => [f.d, f.a, f.b]
  | .vredsumO f => [f.d, f.a, f.b]
  | .vredmm f => [f.d, f.a, f.b]
  | .vscan f => [f.d, f.a, f.b]
  | .vsortkv f => [f.d, f.a, f.b]
  | .vsegred f => [f.d, f.a, f.b]
  | .vidx f => [f.d]
  | .vld f => [f.d]
  | .vst f => [f.d]
  | .vlds f => [f.d]
  | .vsts f => [f.d]
  | .vldx f => [f.d, f.b]
  | .vstx f => [f.d, f.b]
  | .vredG f => [f.d, f.b]
  | .vfredG f => [f.d, f.b]
  | .vcmp f => [f.a, f.b]
  | .vxch f => [f.d, f.a]
  | .cvtn f => [f.d, f.a]
  | .cvtnF f => [f.d, f.a]
  | .cvtw f => [f.d, f.a]
  | .cvtwF f => [f.d, f.a]
  | .qscale f => [f.d, f.a]
  | .rotv f => [f.d, f.a]
  | .unrotv f => [f.d, f.a]
  | .cvti f => [f.d, f.a]
  | .ldB f => [f.d]
  | .stB f => [f.d]
  | .prefixedPair _ j => j.vectorFields
  | _ => []

end Sys2Proof

namespace Sys2Proof.Machine

/-- A strand may issue: it has not retired or stopped, waits for no page and no wake-up, and neither has it ended nor is its crew
being suspended, unless it is amid an instruction (05 R181 to R192). -/
def State.canIssue (s : State) (st : Strand) : Bool :=
  !st.retired && !st.stopped && st.pageWait.isNone && (st.amid || (!st.ended && !(s.crewById st.crew).suspended)) &&
    (match st.wait with
      | some (.queued _ _) => false
      | some (.barrier _ _) => false
      | _ => true)

/-- A core's choice is fair (06 R213): a strand goes on with its issue group, or begins one unless it has issued one since
another strand of the core that has stayed able to issue last did. -/
def State.fair (s : State) (st : Strand) : Bool :=
  let c := sget {} s.cores st.core
  (c.issuing == st.slot + 1 && c.groupLen < max 1 Config.igw.toNat) ||
    s.strands.all (fun y => y.slot == st.slot || y.core != st.core || !s.canIssue y || y.wait.isSome ||
      !y.since.getLsbD (st.slot % 8))

/-- A strand may take the turn. -/
def State.mayIssue (s : State) (st : Strand) : Bool := s.canIssue st && s.fair st

/-- The strand in a slot has issued an instruction of its group, or the first of a new one (06 R213). -/
def State.noteIssue (s : State) (slot : Nat) : State :=
  let c := sget {} s.cores (coreOfSlot slot)
  if c.issuing == slot + 1 && c.groupLen < max 1 Config.igw.toNat then
    { s with cores := sset {} s.cores (coreOfSlot slot) { c with groupLen := c.groupLen + 1 } }
  else
    let note (y : Strand) : Strand :=
      if y.core != coreOfSlot slot then y
      else if y.slot == slot || !s.canIssue y || y.wait.isSome then { y with since := 0 }
      else { y with since := y.since ||| BitVec.twoPow 8 (slot % 8) }
    { s with
      cores := sset {} s.cores (coreOfSlot slot) { c with issuing := slot + 1, groupLen := 1 }
      self := note s.self
      peers := s.peers.map note }

/-- What a strand's turn comes to: no strand stands there, the turn is over, or an instruction of `len` bytes runs. -/
inductive Ready where
  | empty
  | over (s : State)
  | run (i : Instr) (len : Nat) (s : State)

/-- yield and c.yield reset the pre-emption count before they execute (05 R185). -/
def isYield : Instr → Bool
  | .yield _ => true
  | .cYield _ => true
  | _ => false

/-- The checks after decoding (02 R46): registers 32 to 63 in short mode (02 R54; before the MODE of a block-based form, log
33), PRIV, LOOP_DEPTH, then PREEMPT_LIMIT, which no boot launch has (17 R491). A signalled strand goes no further than its
next yield point (05 R183). -/
def State.admitInstr (s : State) (i : Instr) (len : Nat) : Ready :=
  if !s.self.long && i.vectorFields.any (fun r => 32 ≤ r.toNat) then
    .over (s.raise ILL_FIELD (s.self.pc + if len = 8 then 4 else 0))
  else if privileged i && !s.self.priv then .over (s.raise PRIV s.self.pc)
  else match s.self.straddles len with
    | some e => .over (s.raise LOOP_DEPTH e)
    | none =>
      let marked := (s.yieldEntry s.self).isSome
      let s := if marked then s.mapSelf (fun st => { st with pcnt := 0 }) else s
      if s.self.stopReq && s.self.wait.isNone && s.self.cleared.isEmpty && (marked || s.self.atBackEdge) then .over s
      else if !isYield i && s.crew.ctx != bootCtx && s.crew.limit < s.self.pcnt + 1 then .run .preemptLimit len s
      else .run i len s

/-- The instruction at the strand's PC: one that has had a part of its effect goes on, whatever stands there now; any other one is
fetched (08 R266). -/
def State.nextInstr (s : State) (ahead : Bool) : Ready :=
  match s.self.cur with
  | some (i, len) => .run i len s
  | none =>
    match s.fetchInstr ahead with
    | .error e => .over (s.onStop e)
    | .ok (.illOpc second, t) => .run .illOpc 4 { t with args := { flag := second } }
    | .ok (.orphan, t) => .over (t.raise ORPHAN_PREFIX (t.self.pc + 4))
    | .ok (.illField second, t) => .over (t.raise ILL_FIELD (t.self.pc + if second then 4 else 0))
    | .ok (.instr i len, t) => t.admitInstr i len

/-- A turn of the strand in a slot. -/
def State.strandTurn (s : State) (slot : Nat) (ahead : Bool) : Ready :=
  match s.focus slot with
  | none => .empty
  | some s => if !s.mayIssue s.self then .over s else s.nextInstr ahead

/-- A strand's instruction has completed: the strand has moved on. -/
def Strand.moved (old st : Strand) : Bool := st.slot != old.slot || st.pc != old.pc || st.pcnt != old.pcnt || st.loops != old.loops

/-- A strand's instruction has been issued and now waits for its peers to issue theirs (07 R256, 09 R294 to R296). -/
def Strand.joined (old st : Strand) : Bool :=
  let meets (x : Strand) : Bool := x.arrival.isSome || (match x.wait with
    | some (.exchange _ _ _ _ _) => true
    | _ => false)
  !meets old && meets st

/-- The strand's instruction has had a part of its effect: it has asked at a word or ring, arrived at its crew's barrier or in a
collective, offered an exchange, or done some of its lines, words or reads. -/
def State.begun (s : State) : Bool :=
  let st := s.self
  st.barPhase.isSome || st.arrival.isSome || !st.cleared.isEmpty || !st.looked.isEmpty || s.myWaiter.isSome ||
    (match st.wait with
      | some (.exchange _ _ _ _ _) => true
      | _ => false)
/-- An instruction that has begun stays the strand's until it completes (08 R266). -/
def State.keep (s : State) (i : Instr) (len : Nat) : State :=
  s.mapSelf (fun st => { st with cur := if s.begun then some (i, len) else none })

/-- After the turn of a strand, as it stood before, when the next number was `n`, with an instruction of `len` bytes: what depends on
what is noted (04 R137); when the instruction has completed, lines fetched ahead that are no longer of use are forgotten, and its core
has issued, as it has when the instruction waits for those of peers; else the strand has had its issue turn all the same. -/
def State.afterInstr (s : State) (i : Instr) (len : Nat) (old : Strand) (n : Nat) : State :=
  let fl := old.flow {} i
  let stays := s.self.crew == old.crew && s.self.idx == old.idx
  let s := s.accessDeps fl old n
  let passed := old.moved s.self || old.joined s.self
  let s := if passed && stays && (old.inTrap || !s.self.inTrap) then s.mapSelf (Strand.carry fl old) else s
  if old.moved s.self then
    (s.mapSelf (fun st => { st.pruneAhead old.pc (s.loopRoom old.core) with cleared := [], looked := [] })).noteIssue old.slot
  else if old.joined s.self then (s.keep i len).noteIssue old.slot
  else (s.keep i len).mapSelf (fun st => { st with since := 0 })

/-- The next turn: the agenda's, or an open one (log 1). -/
def State.nextTurn (s : State) : Turn × State :=
  match s.agenda with
  | t :: rest => (t, { s with agenda := rest })
  | [] => (freeTurn s.turns, { s with turns := s.turns + 1 })

/-- A turn that fetches ahead for a strand (08 R264). -/
def State.aheadTurn (s : State) (slot : Nat) (a : Word) : State :=
  match s.focus slot with
  | some t => t.fetchAhead a
  | none => s

/-- What an instruction reads of memory within itself with strong loads of 64-bit words, unordered (04 R127): the addresses, as
its registers give them, with their alignment and the bytes at each. -/
def State.strongReads (s : State) (i : Instr) : List (Word × Nat × Nat) :=
  let at_ (r : Reg) (align n : Nat) : List (Word × Nat × Nat) :=
    if s.self.gIsFull r.toNat then [(s.self.readG r.toNat, align, n)] else []
  match i with
  | .rgrain f => at_ f.a 32 32
  | .crn f => at_ f.a 64 64
  | .crnT f => at_ f.a 64 64
  | .crnC f => at_ f.a 64 64
  | .crnR f => at_ f.a 64 64
  | .crnF f => at_ f.a 64 64 ++ at_ f.b 32 32
  | .spawn f => at_ f.a 128 128
  | .spawnw f => at_ f.a 128 128
  | .bcall f => at_ f.a 128 128
  | .bcsl f => at_ f.a 64 4224
  | _ => []

/-- A turn that does a part of the instruction a strand is about to complete ahead of the rest, once that is past the checks
that come before its execution: the line of a cpub's range (08 R274), the next word of a fefill (07 R251), the beginning of a
tsplit (R243), or one of the words that it reads with strong loads. -/
def State.partTurn (s : State) (slot line : Nat) : State :=
  match s.focus slot with
  | none => s
  | some t =>
    if !t.mayIssue t.self then s
    else match t.nextInstr true with
      | .run i len v =>
        let u := match i with
          | .cpub f => v.publishEarly f line
          | .fefill f => v.fillNext f
          | .tsplit f => v.tsplitBegin f
          | j =>
            if (v.strongReads j).any (fun x => x.1.toNat % x.2.1 = 0 && x.1.toNat ≤ line && line < x.1.toNat + x.2.2) then
              v.lookAhead (word line)
            else v
        if u.begun then (u.accessDeps (v.self.flow {} i) v.self v.serial).keep i len else s
      | _ => s

/-- The instruction of one table row, loaded where the next step fetches (the boot mapping's first bytes): what a boot
launch would place, with the row's bytes at its entry. -/
def State.loadRow (s : State) (nbits w : Nat) : State :=
  let half := nbits == 16
  let bytes := if half then leBytes 4 (0x000A + w % 65536 * 65536) ++ leBytes 4 0 else leBytes 8 (w % 2 ^ nbits)
  let others : List Strand := s.peers.filter (fun st => st.slot != 0)
  let t : State := { s with
    self := {}
    peers := others.map (fun st => { st with since := 0 })
    codeSize := 65536
    mem := Memory.setBytes s.mem 0 bytes
    unpub := sset false s.unpub 0 false
    poison := sset false s.poison 0 false
    lineKey := sset none s.lineKey 0 none
    inflight := []
    tlb := []
    walked := []
    copies := []
    claims := []
    agenda := [.strand 0 false] }
  (t.setTower 0 (fun x => { x with astbase := 0, layersDown := [] })).placeBoot (if half then 2 else 0) 65536

end Sys2Proof.Machine
end

