-- ==== Sys2Proof/Machine/Step.lean ====
section
/-! DEFINITION. Step.lean: one step of the machine: the turn of one agent (log 1). -/

namespace Sys2Proof.Machine

/-- One step: a strand's instruction, with what follows its turn (`afterInstr`), or one event of another agent. -/
def step (s : State) : Host.Outcome State Fault Refusal :=
  match s.nextTurn with
  | (.cycle, t) => .next t.coreCycle
  | (.fetchAhead slot a, t) => .next (t.aheadTurn slot a)
  | (.evict k, t) => .next (t.dropCopy k)
  | (.writeBack l, t) => .next (t.writeBack l)
  | (.publish slot line, t) => .next (t.partTurn slot line)
  | (.useReport n, t) => .next (t.useReport n)
  | (.hostDrop l, t) => .next (t.hostDrop l)
  | (.keepWalk n asid va how, t) => .next (t.keepWalk n asid va how)
  | (.dropWalk leaf n, t) => .next (t.dropWalk leaf n)
  | (.event i args, t) => if i.isEvent then exec i { t with args } else .next t
  | (.strand slot ahead, t) =>
    match t.strandTurn slot ahead with
    | .empty => .fault (.noStrand slot)
    | .over u => .next u
    | .run i len u =>
      match exec i u with
      | .next v => .next (v.afterInstr i len u.self u.serial)
      | o => o

/-- A table row's instruction stored where the next step fetches it. -/
def State.withFetchWord (s : State) (nbits w : Nat) : State := s.loadRow nbits w

end Sys2Proof.Machine
end

