-- ==== Sys2Proof/Safety.lean ====
section
/-! DEFINITION. Safety.lean: the terms statements are written in: operands that can be read, destinations no producer
is pending on, what an instruction leaves as it was, and the invariant every step keeps. -/

namespace Sys2Proof.Machine

/-- The canonical form of memory: places strictly rising, no entry equal to what an unlisted place reads as (log 4); and
that of the keys its lines stand under (15 R476). -/
abbrev State.Inv (s : State) : Prop := Memory.wf s.mem = true ∧ swf none s.lineKey = true

/-- g[r] is full and holds a value (01 R33). -/
abbrev State.source (s : State) (r : Reg) (v : Word) : Prop :=
  s.self.gIsFull r.toNat = true ∧ s.self.readG r.toNat = v

/-- A register of the vector file in use is full and holds a value (02 R54). -/
abbrev State.sourceV (s : State) (r : Reg) (v : List Byte) : Prop :=
  s.self.vIsFull r.toNat = true ∧ s.self.vreg r.toNat = v

/-- An access that the strand makes within its instruction to bytes at a place may go ahead: no command owns them (01 R38),
and no earlier access of the strand holds it back (04 R137). -/
abbrev State.touches (s : State) (op : ReqOp) (kind : Kind) (p : Nat) : Prop :=
  s.ownedAt p op.size = false ∧ s.mayAccess (s.ownReq op kind 0 p) p = true

/-- No producer of the strand is pending on a destination (01 R34). -/
abbrev State.settled (s : State) (d : Dest) : Prop := s.pendingOn s.self.crew s.self.idx d = false

/-- The strand's g[d] receives a value, and its instruction of `len` bytes retires. -/
def State.gains (s : State) (d : Reg) (len : Nat) (v : Word) : State :=
  s.mapSelf (fun st => (st.setG d.toNat v).advance len)

/-- A vector register of the strand receives bytes, and its instruction of `len` bytes retires. -/
def State.gainsV (s : State) (d : Reg) (len : Nat) (bs : List Byte) : State :=
  s.mapSelf (fun st => (st.fill (st.vdest d.toNat) bs).advance len)

/-- What a load of g[d] leaves (07 R246): its access issued, its destination empty until the value arrives, and its
instruction of `len` bytes retired; g0 has no producer. -/
def State.loads (s : State) (len : Nat) (f : FI) (opc : BitVec 8) (space : Space) (adr : Word) (place : Option Nat) :
    State :=
  let op : ReqOp := .load (2 ^ f.sz.toNat) f.sg
  if f.d = 0 then (s.issue op (f.kindOf false) space adr place none opc).advance len
  else ((s.produce (.g f.d.toNat) (List.replicate 8 none)).1.issue op (f.kindOf false) space adr place
    (some (s.serial, 0)) opc).advance len

/-- What a store of a value leaves (07 R246). -/
def State.stores (s : State) (len : Nat) (f : FI) (opc : BitVec 8) (space : Space) (adr : Word) (place : Option Nat)
    (v : Word) : State :=
  (s.issue (.store (leBytes (2 ^ f.sz.toNat) v.toNat)) (f.kindOf true) space adr place none opc).advance len

/-- g[d] awaits one value that is known already, and the instruction of `len` bytes retires; g0 has no producer. -/
def State.returnsTo (s : State) (d : Reg) (v : Word) : State :=
  if d = 0 then s.advance 4 else (s.produce (.g d.toNat) ((leBytes 8 v.toNat).map some)).1.advance 4

/-- A vector register awaits bytes that are known already, and the instruction of `len` bytes retires (09 R286). -/
def State.yields (s : State) (d : Reg) (len : Nat) (bs : List Byte) : State :=
  (s.produce (s.self.vdest d.toNat) (bs.map some) true).1.advance len

/-- What a block-based form of the rotator leaves (11 R343 to R350): the covered active elements of v[d] receive their
codes, and v63 its slots when the form writes scales; `g` makes of a block its codes and its slot. -/
def State.converts (s : State) (len : Nat) (px : Prefix) (d : Reg) (r : Rnd) (a v63 : List Byte) (sw dw writes : Nat)
    (g : BlockCtx → Nat → List Nat → List Nat × Nat) : State :=
  let st := s.self
  let off := r.idx.toNat % 32
  let t := st.tag px
  let outs := (blocksOf off st.vl st.active).map (fun b =>
    (b.j, g ⟨r, t, st.seed t, r.idx - word off + word (32 * b.j)⟩ b.j (b.source (codes sw st.vl a))))
  let bs := putCodes dw st.vl (st.vreg d.toNat) (fun e =>
    if st.active e then codeFor off (outs.map (fun o => (o.1, o.2.1))) e else none)
  let u := (s.produce (.v d.toNat) (bs.map some)).1
  let scales := outs.foldl (fun v o => splice v (writes * o.1) (leBytes writes o.2.2)) v63
  (if writes = 0 then u else (u.produce (.v 63) (scales.map some)).1).advance len

/-- A command joins the strand's matrix queue (01 R24), and the instruction of `len` bytes retires. -/
def State.queues (s : State) (len : Nat) (op : Instr) (args : List Word) (bytes : List Byte := [])
    (bar : Option Nat := none) : State :=
  let q := s.self.mq
  let c : Cmd := { seq := q.issue + 1, pc := s.self.pc, who := s.issuer, op, args, bytes, born := s.serial, bar }
  (s.mapSelf (fun st => { st with mq := { q with issue := q.issue + 1, cmds := q.cmds ++ [c] } })).advance len

/-- Every byte of memory reads as before, under every key; no word's full/empty bit, poison or publication changes. -/
def State.sameMemory (s t : State) : Prop :=
  (∀ key p, t.byteAt key p = s.byteAt key p) ∧ t.empties = s.empties ∧ t.poison = s.poison ∧ t.unpub = s.unpub

/-- Registers of a strand other than g, the loop stack, the program counter and those a trap entry writes. -/
def Strand.sameEngines (a b : Strand) : Prop :=
  b.q = a.q ∧ b.qFull = a.qFull ∧ b.v = a.v ∧ b.vFull = a.vFull ∧ b.m = a.m ∧ b.acc0 = a.acc0 ∧ b.acc1 = a.acc1 ∧
    b.sd = a.sd ∧ b.long = a.long ∧ b.vl = a.vl ∧ b.mq = a.mq ∧ b.cq = a.cq

/-- Control registers that only setc writes (06 R212). -/
def Strand.sameControl (a b : Strand) : Prop :=
  b.tvec = a.tvec ∧ b.eidx = a.eidx ∧ b.srs = a.srs ∧ b.rot = a.rot ∧ b.rmode = a.rmode

/-- The registers a trap entry writes (06 R236). -/
def Strand.sameTrap (a b : Strand) : Prop :=
  b.tpc = a.tpc ∧ b.taddr = a.taddr ∧ b.tkind = a.tkind ∧ b.tcode = a.tcode ∧ b.inTrap = a.inTrap ∧
    b.priv = a.priv ∧ b.pPriv = a.pPriv ∧ b.tld = a.tld

end Sys2Proof.Machine
end

