-- ==== Sys2Proof/Certificates/Slice0/Obligations.lean ====
section
/-! DEFINITION. Obligations.lean: the statements for the provers. A statement says that the machine answers a next state
as an equation over the states and operands its hypotheses describe; a source is full (State.source), a destination
has no pending producer (State.settled). -/

open Sys2Proof Sys2Proof.Machine

/-! ## The sequencer (06) -/

/-- R219 and its decode checks: what the integer instructions write to g[d], modulo 2^64, whenever their sources are full
and no producer is pending on g[d]; they take no fault. R205: g0 as destination discards the write (setG). -/
def Obligations.IntegerResults : Prop :=
  ∀ (s : State) (f : FA) (i : FI) (u : FU) (a b d x : Word),
    (s.source f.a a → s.source f.b b → s.settled (.g f.d.toNat) →
      exec (.add f) s = .next (s.gains f.d 4 (a + b)) ∧
      exec (.sub f) s = .next (s.gains f.d 4 (a - b)) ∧
      exec (.andR f) s = .next (s.gains f.d 4 (a &&& b)) ∧
      exec (.orR f) s = .next (s.gains f.d 4 (a ||| b)) ∧
      exec (.xorR f) s = .next (s.gains f.d 4 (a ^^^ b)) ∧
      exec (.shl f) s = .next (s.gains f.d 4 (a <<< (b.extractLsb' 0 6).toNat)) ∧
      exec (.shr f) s = .next (s.gains f.d 4 (a >>> (b.extractLsb' 0 6).toNat)) ∧
      exec (.sar f) s = .next (s.gains f.d 4 (a.sshiftRight (b.extractLsb' 0 6).toNat)) ∧
      exec (.mul f) s = .next (s.gains f.d 4 (a * b)) ∧
      (f.fn = 0 → exec (.mulh f) s = .next (s.gains f.d 4 (((a.signExtend 128 * b.signExtend 128) >>> 64).setWidth 64))) ∧
      (f.fn = 1 → exec (.mulh f) s = .next (s.gains f.d 4 (((a.setWidth 128 * b.setWidth 128) >>> 64).setWidth 64))) ∧
      (f.fn = 2 → exec (.mulh f) s = .next (s.gains f.d 4 (((a.signExtend 128 * b.setWidth 128) >>> 64).setWidth 64))) ∧
      (f.fn = 0 → exec (.minmax f) s = .next (s.gains f.d 4 (if a.toInt ≤ b.toInt then a else b))) ∧
      (f.fn = 1 → exec (.minmax f) s = .next (s.gains f.d 4 (if a.toInt ≤ b.toInt then b else a))) ∧
      (f.fn = 2 → exec (.minmax f) s = .next (s.gains f.d 4 (if a.toNat ≤ b.toNat then a else b))) ∧
      (f.fn = 3 → exec (.minmax f) s = .next (s.gains f.d 4 (if a.toNat ≤ b.toNat then b else a))) ∧
      (f.fn = 0 → exec (.cmp f) s = .next (s.gains f.d 4 (if a = b then 1 else 0))) ∧
      (f.fn = 1 → exec (.cmp f) s = .next (s.gains f.d 4 (if a = b then 0 else 1))) ∧
      (f.fn = 2 → exec (.cmp f) s = .next (s.gains f.d 4 (if a.toInt < b.toInt then 1 else 0))) ∧
      (f.fn = 3 → exec (.cmp f) s = .next (s.gains f.d 4 (if b.toInt ≤ a.toInt then 1 else 0))) ∧
      (f.fn = 4 → exec (.cmp f) s = .next (s.gains f.d 4 (if a.toNat < b.toNat then 1 else 0))) ∧
      (f.fn = 5 → exec (.cmp f) s = .next (s.gains f.d 4 (if b.toNat ≤ a.toNat then 1 else 0))) ∧
      (s.source f.d d → exec (.sel f) s = .next (s.gains f.d 4 (if d = 0 then b else a)))) ∧
    (s.source i.a x → s.settled (.g i.d.toNat) →
      exec (.addi i) s = .next (s.gains i.d 4 (x + i.imm.signExtend 64)) ∧
      (i.imm.extractLsb' 8 2 = 0 →
        exec (.logi i) s = .next (s.gains i.d 4 (x &&& (i.imm.extractLsb' 0 8).setWidth 64))) ∧
      (i.imm.extractLsb' 8 2 = 1 →
        exec (.logi i) s = .next (s.gains i.d 4 (x ||| (i.imm.extractLsb' 0 8).setWidth 64))) ∧
      (i.imm.extractLsb' 8 2 = 2 →
        exec (.logi i) s = .next (s.gains i.d 4 (x ^^^ (i.imm.extractLsb' 0 8).setWidth 64))) ∧
      (i.imm.extractLsb' 8 2 = 0 → exec (.shi i) s = .next (s.gains i.d 4 (x <<< (i.imm.extractLsb' 0 6).toNat))) ∧
      (i.imm.extractLsb' 8 2 = 1 → exec (.shi i) s = .next (s.gains i.d 4 (x >>> (i.imm.extractLsb' 0 6).toNat))) ∧
      (i.imm.extractLsb' 8 2 = 2 →
        exec (.shi i) s = .next (s.gains i.d 4 (x.sshiftRight (i.imm.extractLsb' 0 6).toNat))) ∧
      (i.imm.extractLsb' 8 2 = 3 →
        exec (.shi i) s = .next (s.gains i.d 4 (x.rotateRight (i.imm.extractLsb' 0 6).toNat)))) ∧
    (s.settled (.g u.d.toNat) →
      exec (.lui u) s = .next (s.gains u.d 4 ((u.imm ++ 0#16 : BitVec 32).signExtend 64)) ∧
      exec (.addpc u) s = .next (s.gains u.d 4 (s.self.pc + u.imm.signExtend 64 * 4))) ∧
    (i.imm.extractLsb' 8 2 = 3 → wellFormed (.logi i) = false) ∧
    (i.imm.extractLsb' 6 2 ≠ 0 → wellFormed (.shi i) = false) ∧
    (3 ≤ f.fn.toNat → wellFormed (.mulh f) = false) ∧
    (4 ≤ f.fn.toNat → wellFormed (.minmax f) = false)

/-- R220: quotients truncated toward zero, remainders that take the sign of g[a], and the corner cases; none faults. -/
def Obligations.DivisionResults : Prop :=
  ∀ (s : State) (f : FA) (a b : Word), s.source f.a a → s.source f.b b → s.settled (.g f.d.toNat) →
    (b ≠ 0 → f.fn = 0 →
      exec (.div f) s = .next (s.gains f.d 4 (BitVec.ofInt 64 (a.toInt.tdiv b.toInt))) ∧
      exec (.rem f) s = .next (s.gains f.d 4 (BitVec.ofInt 64 (a.toInt - b.toInt * a.toInt.tdiv b.toInt)))) ∧
    (b ≠ 0 → f.fn = 1 →
      exec (.div f) s = .next (s.gains f.d 4 (BitVec.ofNat 64 (a.toNat / b.toNat))) ∧
      exec (.rem f) s = .next (s.gains f.d 4 (BitVec.ofNat 64 (a.toNat - b.toNat * (a.toNat / b.toNat))))) ∧
    (b = 0 → f.fn.toNat ≤ 1 →
      exec (.div f) s = .next (s.gains f.d 4 0xFFFFFFFFFFFFFFFF) ∧ exec (.rem f) s = .next (s.gains f.d 4 a)) ∧
    (a = 0x8000000000000000 → b = 0xFFFFFFFFFFFFFFFF → f.fn = 0 →
      exec (.div f) s = .next (s.gains f.d 4 0x8000000000000000) ∧ exec (.rem f) s = .next (s.gains f.d 4 0)) ∧
    (a = 0x8000000000000000 → b = 0xFFFFFFFFFFFFFFFF → f.fn = 1 →
      exec (.div f) s = .next (s.gains f.d 4 0) ∧ exec (.rem f) s = .next (s.gains f.d 4 0x8000000000000000)) ∧
    (2 ≤ f.fn.toNat → wellFormed (.div f) = false ∧ wellFormed (.rem f) = false)

/-- R222 to R224 over the number formats of 03: what the scalar FP32 instructions write, rounded under RMODE with idx =
EIDX, but for the square root; results stand in bits 31:0 or 15:0 with zeros above (R221). -/
def Obligations.ScalarFloatResults : Prop :=
  ∀ (s : State) (f : FA) (a b d : Word),
    let r : Rnd := { mode := s.self.rmode.toNat, idx := s.self.eidx, srs := s.self.srs, sat := 1 }
    let x := fp32.value (a.toNat % 2 ^ 32)
    let y := fp32.value (b.toNat % 2 ^ 32)
    let z := fp32.value (d.toNat % 2 ^ 32)
    s.source f.a a → s.source f.b b → s.settled (.g f.d.toNat) →
    (f.fn = 0 → exec (.fops f) s = .next (s.gains f.d 4 (word (fp32.round r (x.add r.mode y))))) ∧
    (f.fn = 1 → exec (.fops f) s = .next (s.gains f.d 4 (word (fp32.round r (x.add r.mode y.negate))))) ∧
    (f.fn = 2 → exec (.fops f) s = .next (s.gains f.d 4 (word (fp32.round r (x.mul y))))) ∧
    (f.fn = 3 → exec (.fops f) s = .next (s.gains f.d 4 (word (fp32.round r (x.div y))))) ∧
    (f.fn = 4 → exec (.fops f) s = .next (s.gains f.d 4 (word (fp32.round rne x.sqrt)))) ∧
    (f.fn = 5 → exec (.fops f) s = .next (s.gains f.d 4 (word (fp32.round rne (x.minmax false y))))) ∧
    (f.fn = 6 → exec (.fops f) s = .next (s.gains f.d 4 (word (fp32.round rne (x.minmax true y))))) ∧
    (s.source f.d d → f.fn = 0 →
      exec (.ffma f) s = .next (s.gains f.d 4 (word (fp32.round r ((x.mul y).add r.mode z))))) ∧
    (s.source f.d d → f.fn = 1 →
      exec (.ffma f) s = .next (s.gains f.d 4 (word (fp32.round r ((x.mul y).negate.add r.mode z))))) ∧
    (f.fn = 0 → exec (.fcmp f) s =
      .next (s.gains f.d 4 (if !x.isNan && !y.isNan && !x.below false y && !y.below false x then 1 else 0))) ∧
    (f.fn = 1 → exec (.fcmp f) s = .next (s.gains f.d 4 (if x.below false y then 1 else 0))) ∧
    (f.fn = 2 → exec (.fcmp f) s =
      .next (s.gains f.d 4 (if !x.isNan && !y.isNan && !y.below false x then 1 else 0))) ∧
    (f.fn = 3 → exec (.fcmp f) s = .next (s.gains f.d 4 (if x.isNan || y.isNan then 1 else 0))) ∧
    (f.fn = 0 → exec (.fcvt f) s = .next (s.gains f.d 4 (word (x.toIntSat r 64 true)))) ∧
    (f.fn = 1 → exec (.fcvt f) s = .next (s.gains f.d 4 (word (fp32.round r (FV.ofInt a.toInt))))) ∧
    (f.fn = 2 → exec (.fcvt f) s = .next (s.gains f.d 4 (word (fp32.round r (FV.ofInt a.toNat))))) ∧
    (f.fn = 3 → exec (.fcvt f) s = .next (s.gains f.d 4 (word (x.toIntSat r 64 false)))) ∧
    (f.fn = 4 → exec (.fcvt f) s = .next (s.gains f.d 4 (word (bf16.round r x)))) ∧
    (f.fn = 5 → exec (.fcvt f) s = .next (s.gains f.d 4 (word (fp32.round rne (bf16.value (a.toNat % 2 ^ 16)))))) ∧
    (f.fn = 7 → wellFormed (.fops f) = false) ∧ (f.fn = 4 → f.b ≠ 0 → wellFormed (.fops f) = false) ∧
    (2 ≤ f.fn.toNat → wellFormed (.ffma f) = false) ∧ (4 ≤ f.fn.toNat → wellFormed (.fcmp f) = false) ∧
    (6 ≤ f.fn.toNat ∨ f.b ≠ 0 → wellFormed (.fcvt f) = false)

/-- R225 to R227, R216: taken branches leave the levels their target lies outside (Strand.branch) and the others take the
back-edge test (Strand.advance); jal and jr leave the loop stack alone; an odd jr target raises ALIGN. -/
def Obligations.TransfersOfControl : Prop :=
  ∀ (s : State) (f : FB) (j : FJ) (r : FA) (a : Word),
    let t : Word := s.self.pc + (f.off.signExtend 64) * 2
    let jt : Word := s.self.pc + (j.off.signExtend 64) * 2
    let go (c : Bool) : Host.Outcome State Fault Refusal :=
      .next (s.mapSelf (fun st => if c then st.branch t else st.advance 4))
    let brb (c : Bool) : Host.Outcome State Fault Refusal :=
      .next (s.mapSelf (fun st => let x := st.setG f.a.toNat (a - 1); if c then x.branch t else x.advance 4))
    (s.source f.a a →
      (f.cond = 0 → exec (.br f) s = go (a = 0)) ∧ (f.cond = 1 → exec (.br f) s = go (a ≠ 0)) ∧
      (f.cond = 2 → exec (.br f) s = go (a.toInt < 0)) ∧ (f.cond = 3 → exec (.br f) s = go (0 ≤ a.toInt)) ∧
      (f.cond = 4 → exec (.br f) s = go (0 < a.toInt)) ∧ (f.cond = 5 → exec (.br f) s = go (a.toInt ≤ 0)) ∧
      (f.cond = 0 → exec (.brb f) s = brb (a - 1 ≠ 0)) ∧
      (f.cond = 1 → exec (.brb f) s = brb (0 < (a - 1).toInt))) ∧
    (s.self.gIsFull f.a.toNat = false →
      (f.cond.toNat < 6 → exec (.br f) s = .next (s.mapSelf (fun st => { st with wait := some .retry }))) ∧
      exec (.brb f) s = .next (s.mapSelf (fun st => { st with wait := some .retry }))) ∧
    (f.a = 0 ∨ 2 ≤ f.cond.toNat → wellFormed (.brb f) = false) ∧
    (f.cond = 6 → exec (.br f) s = go (s.self.gIsFull f.a.toNat)) ∧
    (f.cond = 7 → exec (.br f) s = go (!s.self.gIsFull f.a.toNat)) ∧
    exec (.jmp j) s = .next (s.mapSelf (fun st => st.branch jt)) ∧
    (s.settled (.g 31) → exec (.jal j) s = .next (s.mapSelf (fun st => (st.setG 31 (st.pc + 4)).goto jt))) ∧
    (s.source r.a a → a.getLsbD 0 = false → s.settled (.g r.d.toNat) →
      exec (.jr r) s = .next (s.mapSelf (fun st => (st.setG r.d.toNat (st.pc + 4)).goto a))) ∧
    (s.source r.a a → a.getLsbD 0 = true → exec (.jr r) s = .next (s.raise ALIGN a)) ∧
    s.self.gIsFull 0 = true

/-- R228 to R230: pushing a level, its checks in their order, leaving levels, and reading an index. R215: the back-edge
test on the innermost level, and how it goes on with the level outside it. -/
def Obligations.LoopInstructions : Prop :=
  (∀ (s : State) (f : FL) (x : FA) (c : Word),
     let e : Word := s.self.pc + 4 + word (2 * f.body.toNat)
     let first : Word := if f.flags.getLsbD 0 then c - 1 else 0
     let pushed : State := s.mapSelf (fun st =>
       { st.goto (st.pc + 4) with
         loops := st.loops ++ [{ start := st.pc + 4, stop := e, count := c, index := first, down := f.flags.getLsbD 0 }] })
     let push (i : Instr) : Prop :=
       (c = 0 → f.flags.getLsbD 1 = true → exec i s = .next (s.mapSelf (fun st => st.branch e))) ∧
       (c = 0 → f.flags.getLsbD 1 = false → exec i s = .next (s.raise LOOP_DEPTH 0)) ∧
       (c ≠ 0 → s.self.loops.length = 6 → exec i s = .next (s.raise LOOP_DEPTH 6)) ∧
       (c ≠ 0 → s.self.loops.length < 6 →
         (∀ l, s.self.loops.getLast? = some l → s.self.frozen < s.self.loops.length → e.toNat ≤ l.stop.toNat) →
         exec i s = .next pushed) ∧
       (∀ l, c ≠ 0 → s.self.loops.length < 6 → s.self.loops.getLast? = some l →
         s.self.frozen < s.self.loops.length → l.stop.toNat < e.toNat → exec i s = .next (s.raise LOOP_DEPTH e))
     (s.source f.count c → push (.loopR f)) ∧
     (s.self.gIsFull f.count.toNat = false →
       exec (.loopR f) s = .next (s.mapSelf (fun st => { st with wait := some .retry }))) ∧
     (32 ≤ f.count.toNat → wellFormed (.loopR f) = false) ∧
     (f.flags.getLsbD 1 = false → c = (if f.count = 0 then 64 else f.count.setWidth 64) → push (.loopi f)) ∧
     (f.flags.getLsbD 1 = true → exec (.loopi f) s = .next (s.raise ILL_FIELD s.self.pc)) ∧
     (∀ l, x.fn.toNat + 1 ≤ s.self.loops.length - s.self.frozen →
       s.self.loops[s.self.loops.length - (x.fn.toNat + 1)]? = some l →
       exec (.lexit x) s = .next (s.mapSelf (fun st =>
         { st.goto l.stop with loops := st.loops.take (st.loops.length - (x.fn.toNat + 1)) }))) ∧
     (s.self.loops.length - s.self.frozen < x.fn.toNat + 1 →
       exec (.lexit x) s = .next (s.raise LOOP_DEPTH (word (x.fn.toNat + 1)))) ∧
     (∀ l, s.self.loops[x.fn.toNat]? = some l → s.settled (.g x.d.toNat) →
       exec (.lidx x) s = .next (s.gains x.d 4 l.index)) ∧
     (s.self.loops.length ≤ x.fn.toNat → exec (.lidx x) s = .next (s.raise LOOP_DEPTH (word x.fn.toNat))) ∧
     (6 ≤ x.fn.toNat → wellFormed (.lexit x) = false ∧ wellFormed (.lidx x) = false)) ∧
  (∀ (st : Strand) (len : Nat) (ls : List LoopLevel) (l : LoopLevel),
     let next := st.pc + word len
     let more : Bool := if l.down then 0 < l.index.toNat else l.index.toNat + 1 < l.count.toNat
     let index := if l.down then l.index - 1 else l.index + 1
     st.loops.length ≤ 6 →
     (st.loops = [] ∨ st.loops.length ≤ st.frozen → (st.advance len).pc = next ∧ (st.advance len).loops = st.loops ∧
       (st.advance len).pcnt = st.pcnt + 1) ∧
     (st.loops = ls ++ [l] → next ≠ l.stop → (st.advance len).pc = next ∧ (st.advance len).loops = st.loops ∧
       (st.advance len).pcnt = st.pcnt + 1) ∧
     (st.loops = ls ++ [l] → st.frozen < st.loops.length → next = l.stop → more = true →
       (st.advance len).pc = l.start ∧ (st.advance len).loops = ls ++ [{ l with index }] ∧ (st.advance len).pcnt = 0) ∧
     (st.loops = ls ++ [l] → st.frozen < st.loops.length → next = l.stop → more = false →
       (st.advance len).pc = (Strand.advance { st with loops := ls } len).pc ∧
       (st.advance len).loops = (Strand.advance { st with loops := ls } len).loops ∧
       (st.advance len).pcnt = (Strand.advance { st with loops := ls } len).pcnt))

/-- R231, R208 to R212, R232: full/empty control, and reading and writing the control registers; the register each
selector of 02 R63 names, with its fields. -/
def Obligations.FullEmptyAndControl : Prop :=
  ∀ (s : State) (f : FA) (u : FU) (v : Word),
    (f.fn = 0 → s.settled (.g f.d.toNat) →
      exec (.fe f) s = .next (s.mapSelf (fun st => (st.emptyG f.d.toNat).advance 4))) ∧
    (f.fn = 1 → s.settled (.g f.d.toNat) →
      ∃ t, exec (.fe f) s = .next t ∧ t.self.g = s.self.g ∧ t.self.gIsFull f.d.toNat = true ∧
        t.self.pc = (s.self.advance 4).pc) ∧
    (f.fn = 2 → s.settled (.g f.d.toNat) →
      exec (.fe f) s = .next (s.gains f.d 4 (if s.self.gIsFull f.a.toNat then 1 else 0))) ∧
    (u.imm ≠ 0x11 ∨ s.self.priv = true → s.settled (.g u.d.toNat) →
      exec (.getc u) s = .next (s.gains u.d 4 (s.control u.imm.toNat))) ∧
    (s.control 0x0 = word (b2n s.self.priv + 2 * b2n s.self.pPriv + 4 * b2n s.self.inTrap + 8 * b2n s.self.long +
        16 * s.self.loops.length + 256 * s.self.tld) ∧
      s.control 0x1 = s.self.tvec ∧ s.control 0x2 = s.self.tpc ∧
      s.control 0x3 = word (s.self.tcode.toNat + 256 * s.self.tkind.toNat) ∧ s.control 0x4 = s.self.taddr ∧
      s.control 0x5 = s.self.eidx ∧ s.control 0x6 = s.self.srs ∧ s.control 0x7 = s.self.rot.setWidth 64 ∧
      s.control 0x8 = s.self.rmode.setWidth 64 ∧ s.control 0x9 = word s.crew.vlGrant ∧ s.control 0xA = word s.self.vl ∧
      s.control 0xB = word s.self.idx ∧ s.control 0xC = word s.crew.size ∧ s.control 0xD = word s.tide ∧
      s.control 0xE = Config.tideHz ∧ s.control 0xF = s.crew.repin ∧ s.control 0x10 = s.crew.asid.setWidth 64 ∧
      s.control 0x11 = word (s.self.slot % 8 + 8 * (s.self.slot / 8 % 8) + 64 * (s.self.slot / 64 % 14) +
        1024 * (s.self.slot / 896))) ∧
    (0x12 ≤ u.imm.toNat → wellFormed (.getc u) = false ∧ wellFormed (.setc u) = false) ∧
    (u.imm = 0x11 → s.self.priv = false →
      exec (.getc u) s = .next (s.raise PRIV s.self.pc) ∧ exec (.setc u) s = .next (s.raise PRIV s.self.pc)) ∧
    (s.source u.d v → u.imm = 8 → (v.toNat % 8 = 0 ∨ v.toNat % 8 = 7) →
      exec (.setc u) s = .next (s.raise ILL_FIELD v)) ∧
    (s.source u.d v → (u.imm ≠ 0x11 ∨ s.self.priv = true) → (u.imm = 8 → v.toNat % 8 ≠ 0 ∧ v.toNat % 8 ≠ 7) →
      exec (.setc u) s = .next (s.mapSelf (fun st => (st.setControl u.imm.toNat v).advance 4))) ∧
    (∀ st : Strand,
      (st.setControl 1 v).tvec = v &&& ~~~1 ∧ (st.setControl 2 v).tpc = v &&& ~~~1 ∧
      (st.setControl 3 v).tcode = v.setWidth 8 ∧ (st.setControl 3 v).tkind = v.extractLsb' 8 2 ∧
      (st.setControl 4 v).taddr = v ∧ (st.setControl 5 v).eidx = v ∧ (st.setControl 6 v).srs = v ∧
      (st.setControl 7 v).rot = v.setWidth 4 ∧ (st.setControl 8 v).rmode = v.setWidth 3 ∧
      (∀ k, k = 0 ∨ 9 ≤ k → st.setControl k v = st))

/-- R233 to R236: trap, brk and sys enter their handlers, and tret returns: the registers each writes, and the rest of the
strand as it was. R236, R237: an entry that finds a handler running, or no handler, ends the launch with the code and
the packed operand; of the other codes, an absent page makes the crew wait, except in the boot launch (17 R491), and
the rest end the launch with the code itself; only FE_EMPTY enters the handler. -/
def Obligations.TrapEntryAndReturn : Prop :=
  (∀ (s : State) (u : FU) (r : FA),
     let st := s.self
     let entered (kind : BitVec 2) (code : BitVec 8) (taddr pc : Word) (priv : Bool) : State :=
       { s with self := { st with
           tpc := (st.pc + 4) &&& ~~~1, tkind := kind, tcode := code, taddr := taddr, pPriv := st.priv
           tld := st.loops.length, inTrap := true, priv := priv, pc := pc, pcnt := st.pcnt + 1, wait := none } }
     (st.inTrap = false → st.tvec ≠ 0 →
       exec (.trap u) s = .next (entered 0 (u.imm.setWidth 8) 0 st.tvec st.priv) ∧
       exec (.brk u) s = .next (entered 2 0 (u.imm.setWidth 64) st.tvec st.priv)) ∧
     (st.inTrap = false → u.imm.toNat < s.mod.svccount.toNat →
       exec (.sys u) s =
         .next (entered 1 0 (u.imm.setWidth 64) (s.mod.svcbase + 64 * u.imm.setWidth 64) true)) ∧
     (s.mod.svccount.toNat ≤ u.imm.toNat → exec (.sys u) s = .next (s.raise ILL_FIELD (u.imm.setWidth 64))) ∧
     (st.inTrap = true → st.loops.length = st.tld →
       exec (.tret r) s = .next { s with self := { st with
         pc := st.tpc, priv := st.pPriv, pPriv := false, tld := 0, inTrap := false, pcnt := st.pcnt + 1, wait := none } }) ∧
     (st.inTrap = false → exec (.tret r) s = .next (s.raise MODE st.pc)) ∧
     (st.inTrap = true → st.loops.length ≠ st.tld →
       exec (.tret r) s = .next (s.raise LOOP_DEPTH (word st.loops.length)))) ∧
  (∀ (s : State) (u : FU) (code : BitVec 8) (addr : Word),
     (code ≠ FE_EMPTY → code ≠ PAGE_NOT_PRESENT → s.raise code addr = s.endLaunch code addr) ∧
     (∀ access, s.crew.ctx ≠ bootCtx →
       (s.raisePage addr access).self = { s.self with pageWait := some addr, pageCode := PAGE_NOT_PRESENT, cleared := [] } ∧
       (s.raisePage addr access).ctxs = s.ctxs ∧ (s.raisePage addr access).mem = s.mem) ∧
     (∀ access, s.crew.ctx = bootCtx → s.raisePage addr access = s.endLaunch PAGE_NOT_PRESENT addr) ∧
     (s.self.inTrap = false → s.self.tvec ≠ 0 →
       s.raise FE_EMPTY addr = { s with self := { s.self with
         tpc := s.self.pc &&& ~~~1, tkind := 0, tcode := FE_EMPTY, taddr := addr, pPriv := s.self.priv
         tld := s.self.loops.length, inTrap := true, pc := s.self.tvec, wait := none } }) ∧
     (s.self.inTrap = false → s.self.tvec = 0 → s.raise FE_EMPTY addr = s.endLaunch FE_EMPTY addr) ∧
     (s.self.inTrap = true → s.raise FE_EMPTY addr =
       s.endLaunch MODE ((addr &&& 0xFFFF) <<< 16 ||| FE_EMPTY.setWidth 64)) ∧
     (s.self.inTrap = false → s.self.tvec = 0 → ∃ t, exec (.trap u) s = .next t ∧ t.self.ended = true ∧
       t.ctxs = (s.endLaunch SW_ABORT ((u.imm.setWidth 8 : BitVec 8).setWidth 64)).ctxs) ∧
     (s.self.inTrap = false → s.self.tvec = 0 → ∃ t, exec (.brk u) s = .next t ∧ t.self.ended = true ∧
       t.ctxs = (s.endLaunch SW_ABORT ((u.imm.setWidth 64) <<< 16 ||| 0x200)).ctxs) ∧
     (s.self.inTrap = true →
       let ends (i : Instr) (taddr kindCode : Word) : Prop := ∃ t, exec i s = .next t ∧ t.self.ended = true ∧
         t.ctxs = (s.endLaunch MODE ((taddr &&& 0xFFFF) <<< 16 ||| kindCode)).ctxs
       ends (.trap u) 0 ((u.imm.setWidth 8 : BitVec 8).setWidth 64) ∧ ends (.brk u) (u.imm.setWidth 64) 0x200 ∧
       (u.imm.toNat < s.mod.svccount.toNat → ends (.sys u) (u.imm.setWidth 64) 0x100)) ∧
     (s.endLaunch code addr).self = { s.self with ended := true, wait := none })

/-! ## The access unit (07) -/

/-- R245, R246 for S, C, T and G space: a load or store whose operands can be read and whose address passes its checks
issues its access and retires; compressed forms (R48) do the same over two bytes. R246 for q registers and 04 R127:
four 64-bit accesses of S space. -/
def Obligations.LoadsAndStores : Prop :=
  (∀ (s : State) (f : FI) (c : CR) (b v : Word),
     let n := 2 ^ f.sz.toNat
     let a : Word := b + f.off.signExtend 64 * BitVec.ofNat 64 n
     let x := a.toNat
     let ready := s.source f.a b ∧ x % n = 0
     let ld (i : Instr) (opc : BitVec 8) (sp : Space) (adr : Word) (p : Option Nat) : Prop :=
       s.settled (.g f.d.toNat) → exec i s = .next (s.loads 4 f opc sp adr p)
     let st (i : Instr) (opc : BitVec 8) (sp : Space) (adr : Word) (p : Option Nat) : Prop :=
       s.source f.d v → exec i s = .next (s.stores 4 f opc sp adr p v)
     (ready → s.crew.isLocal = true → x + n ≤ 2 ^ 19 →
       ld (.ldS f) 0x28 (.s s.self.core) a (some (Place.s s.self.core x)) ∧
       st (.stS f) 0x29 (.s s.self.core) a (some (Place.s s.self.core x))) ∧
     (∀ core, ready → s.crew.isLocal = true → x + n ≤ s.crew.size * 2 ^ 20 → s.crew.cores[x / 2 ^ 20]? = some core →
       ld (.ldC f) 0x2A (.c core) a (some (Place.c core (x % 2 ^ 20))) ∧
       st (.stC f) 0x2B (.c core) a (some (Place.c core (x % 2 ^ 20)))) ∧
     (ready → x + n ≤ (s.tower s.self.tower).tUnits * 2 ^ 26 →
       ld (.ldT f) 0x2C (.t s.self.tower) a (some (Place.t s.self.tower x)) ∧
       st (.stT f) 0x2D (.t s.self.tower) a (some (Place.t s.self.tower x))) ∧
     (ready → canonical a = true → inWindow a = false →
       ld (.ldG f) 0x2E .g a none ∧ st (.stG f) 0x2F .g a none) ∧
     (ready → inWindow a = true → n = 8 → s.self.priv = true →
       ld (.ldG f) 0x2E .win (a - 0xFF00000000000000) (some 0) ∧
       st (.stG f) 0x2F .win (a - 0xFF00000000000000) (some 0)) ∧
     (let y : Word := b + (c.x.setWidth 5 : BitVec 5).signExtend 64 * 8
      let g : FI := { d := c.d.setWidth 6, a := c.a.setWidth 6, imm := (c.x.setWidth 5 : BitVec 5) ++ (3 : BitVec 5) }
      s.source (c.a.setWidth 6) b → y.toNat % 8 = 0 → s.crew.isLocal = true → y.toNat + 8 ≤ 2 ^ 19 →
       (s.settled (.g c.d.toNat) →
         exec (.cLds c) s = .next (s.loads 2 g 0x28 (.s s.self.core) y (some (Place.s s.self.core y.toNat)))) ∧
       (s.source (c.d.setWidth 6) v →
         exec (.cSts c) s = .next (s.stores 2 g 0x29 (.s s.self.core) y (some (Place.s s.self.core y.toNat)) v)))) ∧
  (∀ (s : State) (f : FI) (b : Word),
     let a : Word := b + f.off.signExtend 64 * 32
     let p := Place.s s.self.core a.toNat
     s.source f.a b → a.toNat % 32 = 0 →
     (s.crew.isLocal = true → a.toNat + 32 ≤ 2 ^ 19 → s.settled (.q f.d.toNat) →
       ∃ t, exec (.ldq f) s = .next t ∧ t.self = (s.self.empty (.q f.d.toNat)).advance 4 ∧
         t.returns = s.returns ++ [{ id := s.serial, crew := s.self.crew, idx := s.self.idx, dest := .q f.d.toNat, data := List.replicate 32 none }] ∧
         t.reqs.map (fun r => (r.op, r.addr, r.place, r.ret)) = s.reqs.map (fun r => (r.op, r.addr, r.place, r.ret)) ++
           (List.range 4).map (fun i =>
             (.load 8 false, a + word (8 * i), some (p + 8 * i), some (s.serial, 8 * i))) ∧
         s.sameMemory t) ∧
     (s.crew.isLocal = true → a.toNat + 32 ≤ 2 ^ 19 → s.self.qFull.getLsbD f.d.toNat = true →
       ∃ t, exec (.stq f) s = .next t ∧ t.self = s.self.advance 4 ∧
         t.reqs.map (fun r => (r.op, r.addr, r.place, r.kind)) = s.reqs.map (fun r => (r.op, r.addr, r.place, r.kind)) ++
           (List.range 4).map (fun i => (.store (slice ((s.self.q[f.d.toNat]?).getD []) (8 * i) 8), a + word (8 * i),
             some (p + 8 * i), f.kindOf true)) ∧
         s.sameMemory t) ∧
     (s.crew.isLocal = true → a.toNat + 32 ≤ 2 ^ 19 → s.self.qFull.getLsbD f.d.toNat = false →
       exec (.stq f) s = .next (s.onStop s.retry)))

/-- R245: the checks of a memory instruction in their order: alignment, then the space, for loads and stores of g and of q
registers; each fault's address is the effective address. R243: between Begin and End of a growing resize an access of
the bytes it adds is T_RESIZED. What the register window raises is the model's choice where 17 R488 leaves it open
(log 33, State.locate): ALIGN for a size other than 8 bytes, before PAGE_PERM, and PAGE_PERM, not PRIV, for user code.
What issuing an access and marking a destination empty do (R246, 01 R34): the access joins the strand's accesses last,
the destination is empty and awaits its bytes, and no byte of memory changes. -/
def Obligations.MemoryAccessChecks : Prop :=
  (∀ (s : State) (f : FI) (b : Word),
     let n := 2 ^ f.sz.toNat
     let a : Word := b + f.off.signExtend 64 * BitVec.ofNat 64 n
     let y : Word := b + f.off.signExtend 64 * 32
     let both (i j : Instr) (code : BitVec 8) (x : Word) : Prop :=
       exec i s = .next (s.raise code x) ∧ exec j s = .next (s.raise code x)
     s.source f.a b →
     (a.toNat % n ≠ 0 → exec (.ldS f) s = .next (s.raise ALIGN a) ∧ exec (.ldC f) s = .next (s.raise ALIGN a) ∧
       exec (.ldT f) s = .next (s.raise ALIGN a) ∧ exec (.ldG f) s = .next (s.raise ALIGN a) ∧
       exec (.stS f) s = .next (s.raise ALIGN a) ∧ exec (.stC f) s = .next (s.raise ALIGN a) ∧
       exec (.stT f) s = .next (s.raise ALIGN a) ∧ exec (.stG f) s = .next (s.raise ALIGN a)) ∧
     (a.toNat % n = 0 → s.crew.isLocal = false ∨ 2 ^ 19 < a.toNat + n → both (.ldS f) (.stS f) SPACE_RANGE a) ∧
     (a.toNat % n = 0 → s.crew.isLocal = false ∨ s.crew.size * 2 ^ 20 < a.toNat + n → both (.ldC f) (.stC f) SPACE_RANGE a) ∧
     (a.toNat % n = 0 → (s.tower s.self.tower).tUnits * 2 ^ 26 < a.toNat + n →
       both (.ldT f) (.stT f) (if s.inResize s.self.tower a.toNat n then T_RESIZED else SPACE_RANGE) a) ∧
     (a.toNat % n = 0 → canonical a = false → both (.ldG f) (.stG f) VA_NONCANON a) ∧
     (a.toNat % n = 0 → inWindow a = true → n ≠ 8 → both (.ldG f) (.stG f) ALIGN a) ∧
     (a.toNat % n = 0 → inWindow a = true → n = 8 → s.self.priv = false → both (.ldG f) (.stG f) PAGE_PERM a) ∧
     (y.toNat % 32 ≠ 0 → both (.ldq f) (.stq f) ALIGN y) ∧
     (y.toNat % 32 = 0 → s.crew.isLocal = false ∨ 2 ^ 19 < y.toNat + 32 → both (.ldq f) (.stq f) SPACE_RANGE y)) ∧
  (∀ (s : State) (op : ReqOp) (k : Kind) (sp : Space) (a : Word) (p : Option Nat) (ret : Option (Nat × Nat))
     (opc : BitVec 8) (n : Nat) (data : List (Option Byte)),
     (s.issue op k sp a p ret opc).reqs = s.reqs ++
       [{ id := s.serial, who := s.issuer, pc := s.self.pc, op, kind := k, space := sp, addr := a, place := p, ret, opc }] ∧
     s.sameMemory (s.issue op k sp a p ret opc) ∧ (s.issue op k sp a p ret opc).self = s.self ∧
     (0 < n → n < 32 → (s.produce (.g n) data).1.self.gIsFull n = false) ∧
     (∀ m, m ≠ n → (s.produce (.g n) data).1.self.gIsFull m = s.self.gIsFull m) ∧
     (s.produce (.g n) data).1.self.g = s.self.g ∧
     (s.produce (.g n) data).1.returns = s.returns ++
       [{ id := s.serial, crew := s.self.crew, idx := s.self.idx, dest := .g n, data }] ∧
     s.sameMemory (s.produce (.g n) data).1)

/-- R249, R251, R252 with nothing waiting on any word: ldfe takes the word and empties it, stfe fills it and marks it
full, wfull needs it full, fefill sets the bits of its words. R249, R250, 05 R181: a request whose word cannot serve
it, of ldfe for an empty word, of stfe for a full one, of wfull for an empty one, joins the arrival queue and the
strand waits for its wake-up, changing nothing else; FULL_EMPTY_WAKE ends the wait of a strand whose request was
served. -/
def Obligations.FullEmptyWords : Prop :=
  (∀ (s : State) (f : FI) (w : FA) (b v r n : Word) (p : Nat),
     let a : Word := b + f.off.signExtend 64 * 8
     let take (i : Instr) : Prop :=
       s.settled (.g f.d.toNat) → s.touches (.cas 8 0 0) (f.kindOf false) p →
       s.poisonedAt p 8 = false → s.wordFull p = true →
       ∃ t, exec i s = .next t ∧ t.self = ((if f.d = 0 then s.self else s.self.emptyG f.d.toNat).advance 4) ∧
         t.empties = sset false s.empties (p / 8) true ∧ t.mem = s.mem ∧ t.waiters = [] ∧
         t.returns = s.returns ++ (if f.d = 0 then [] else
           [{ id := s.serial + 1, crew := s.self.crew, idx := s.self.idx, dest := .g f.d.toNat, data := (leBytes 8 (s.word64 p).toNat).map some }])
     let put (i : Instr) : Prop :=
       s.source f.d v → s.touches (.store (leBytes 8 0)) (f.kindOf true) p → s.wordFull p = false → s.Inv →
       ∃ t, exec i s = .next t ∧ t.self = s.self.advance 4 ∧
         t.empties = sset false s.empties (p / 8) false ∧ t.waiters = [] ∧
         (∀ q, t.byteAt none q = if p ≤ q ∧ q < p + 8 then ((leBytes 8 v.toNat)[q - p]?).getD 0 else s.byteAt none q)
     s.waiters = [] →
     (s.source f.a b → a.toNat % 8 = 0 → s.crew.isLocal = true → a.toNat + 8 ≤ 2 ^ 19 →
       p = Place.s s.self.core a.toNat → take (.ldfe f) ∧ put (.stfe f)) ∧
     (∀ core, s.source f.a b → a.toNat % 8 = 0 → s.crew.isLocal = true → a.toNat + 8 ≤ s.crew.size * 2 ^ 20 →
       s.crew.cores[a.toNat / 2 ^ 20]? = some core → p = Place.c core (a.toNat % 2 ^ 20) →
       take (.ldfeC f) ∧ put (.stfeC f)) ∧
     (s.source w.a r → s.ref 8 8 r = .ok p → s.wordFull p = true →
       ∃ t, exec (.wfull w) s = .next t ∧ t.self = s.self.advance 4 ∧ t.empties = s.empties ∧ t.mem = s.mem ∧
         t.waiters = []) ∧
     ((∀ e ∈ s.reqs, e.id < s.serial) → s.source w.a r → s.source w.b n → r.toNat % 8 = 0 → s.crew.isLocal = true → r.toNat < 2 ^ 19 →
       r.toNat + 8 * n.toNat ≤ 2 ^ 19 → s.self.cleared = [] →
       (∀ i < n.toNat, s.touches (.cas 8 0 0) .strong (Place.s s.self.core (r.toNat + 8 * i))) →
       ∃ t, exec (.fefill w) s = .next t ∧ t.self = s.self.advance 4 ∧ t.mem = s.mem ∧ t.waiters = [] ∧
         t.empties = (List.range n.toNat).foldl
           (fun m i => sset false m ((Place.s s.self.core r.toNat + 8 * i) / 8) (!(w.fn == 1))) s.empties)) ∧
  (∀ (s : State) (f : FI) (p : Nat) (w : FA) (b v r : Word),
     let a : Word := b + f.off.signExtend 64 * 8
     let waits (i : Instr) (need : Need) (e : Event) : Prop :=
       ∃ t, exec i s = .next t ∧ t.self = { s.self with wait := some (.queued s.serial false) } ∧
         t.waiters = [{ id := s.serial, crew := s.self.crew, idx := s.self.idx, place := p, need, event := e }] ∧
         t.mem = s.mem ∧ t.empties = s.empties ∧ t.returns = s.returns ∧ t.reqs = s.reqs
     let take (i : Instr) : Prop :=
       s.settled (.g f.d.toNat) → s.touches (.cas 8 0 0) (f.kindOf false) p → s.poisonedAt p 8 = false → s.wordFull p = false →
         waits i .takeFull { s.ownEvent with acq := f.kindOf false == .acq }
     let put (i : Instr) : Prop :=
       s.source f.d v → s.touches (.store (leBytes 8 0)) (f.kindOf true) p → s.wordFull p = true →
         waits i (.putEmpty v) { s.ownEvent with rel := f.kindOf true == .rel }
     (s.waiters = [] → s.source f.a b → a.toNat % 8 = 0 → s.crew.isLocal = true → a.toNat + 8 ≤ 2 ^ 19 →
       p = Place.s s.self.core a.toNat → take (.ldfe f) ∧ put (.stfe f)) ∧
     (∀ core, s.waiters = [] → s.source f.a b → a.toNat % 8 = 0 → s.crew.isLocal = true → a.toNat + 8 ≤ s.crew.size * 2 ^ 20 →
       s.crew.cores[a.toNat / 2 ^ 20]? = some core → p = Place.c core (a.toNat % 2 ^ 20) → take (.ldfeC f) ∧ put (.stfeC f)) ∧
     (s.waiters = [] → s.source w.a r → s.ref 8 8 r = .ok p → s.wordFull p = false → waits (.wfull w) .seeFull {}) ∧
     (∃ t, exec .fullEmptyWake s = .next t ∧
       (∀ id, s.self.slot = s.args.unit → s.self.stopped = false → s.self.wait = some (.queued id true) →
         t.self = { s.self with wait := none }) ∧
       (s.self.slot ≠ s.args.unit → t.self = s.self) ∧ t.mem = s.mem ∧ t.peers.length = s.peers.length ∧
       (∀ q ∈ s.peers, q.slot = s.args.unit → q.stopped = false → (∃ id, q.wait = some (.queued id true)) →
         { q with wait := none } ∈ t.peers)))

/-- R253 to R255: fences and local atomics issue one access each; a fence whose condition holds is over at once, and
stands in the history of the ordering rule (04 R137). -/
def Obligations.FencesAndLocalAtomics : Prop :=
  ∀ (s : State) (f : FA) (a b c : Word),
    exec (.fence f) s =
      .next ((((s.fenced (f.b.toNat % 4) f.fn.toNat).issue (.fence (f.b.toNat % 4) f.fn.toNat) .weak .g 0 none).tidy).advance 4) ∧
    (∀ n, n = (if f.fn = 1 then 4 else 8) → s.source f.a a → s.source f.b b → s.source f.d c → a.toNat % n = 0 →
      s.crew.isLocal = true → a.toNat + n ≤ 2 ^ 19 →
      exec (.casS f) s = .next ((s.issueRmw f.d (.cas n c b) (.s s.self.core) a
        (some (Place.s s.self.core a.toNat)) 0x40).advance 4)) ∧
    (s.source f.a a → s.source f.b b → s.settled (.g f.d.toNat) → a.toNat % 8 = 0 → s.crew.isLocal = true →
      a.toNat + 8 ≤ 2 ^ 19 →
      exec (.amoS f) s = .next ((s.issueRmw f.d (.amo f.fn.toNat 8 b) (.s s.self.core) a
        (some (Place.s s.self.core a.toNat)) 0x41).advance 4)) ∧
    (∀ op sp ad pl opc, let t := s.issueRmw f.d op sp ad pl opc
      s.sameMemory t ∧ t.reqs = s.reqs ++
        [{ id := if f.d = 0 then s.serial else s.serial + 1
           who := s.issuer, pc := s.self.pc, op, kind := .strong, space := sp, addr := ad, place := pl
           ret := if f.d = 0 then none else some (s.serial, 0), opc }])

/-- R261, R262, R242: a prefetch changes no register, no byte and no fault, whatever its address; a lease query answers
the expiry of this core's copy or 0; tsplit sets the tower's T units and clears what it gains or loses. Which lines
the SRAM that becomes T space held is not stated: that a growing T space drops every copy of the tower's L2, and waits
for the leases on every line it held dirty, is the model's choice (log 33). R256: an exchange with itself, with a peer
that waits for this strand, and one that must wait; both sides merge under their own masks. -/
def Obligations.PrefetchLeaseAndSplit : Prop :=
  (∀ (s : State) (i : FI) (f : FA) (a : Word),
     (s.source i.a a → ∃ t, exec (.pref i) s = .next t ∧ t.self = s.self.advance 4 ∧ s.sameMemory t ∧
       t.reqs = s.reqs ∧ t.returns = s.returns ∧ t.ctxs = s.ctxs ∧ t.pageFaults = s.pageFaults) ∧
     (s.source f.a a → canonical a = true → s.settled (.g f.d.toNat) →
       exec (.leaseq f) s = .next (s.returnsTo f.d
         (match s.copies.find? (fun c => c.holder == .l1 s.self.core && c.serves s s.crew.asid a) with
           | some c => word c.expiry
           | none => 0))) ∧
     (s.source f.a a → canonical a = false → exec (.leaseq f) s = .next (s.raise VA_NONCANON a)) ∧
     (s.self.priv = true → s.source f.a a → a.toNat ≤ 8 → s.drained s.issuer = true →
       s.leasesOver s.issuer s.serial 2 = true → s.self.tower < s.towers.length →
       ((s.tower s.self.tower).resizing = none ∨ s.self.cleared ≠ []) →
       (a.toNat < (s.tower s.self.tower).tUnits →
         s.usesT (Place.t s.self.tower (a.toNat * 2 ^ 26)) (Place.t s.self.tower ((s.tower s.self.tower).tUnits * 2 ^ 26)) = false) →
       ((s.tower s.self.tower).tUnits < a.toNat → ∀ l ∈ s.dirtyIn s.self.tower, sget 0 s.lexp l ≤ s.tide) →
       ∃ t, exec (.tsplit f) s = .next t ∧
         ((s.tower s.self.tower).tUnits < a.toNat → ∀ c ∈ t.copies, c.holder ≠ .tower s.self.tower) ∧ (t.tower s.self.tower).tUnits = a.toNat ∧
         (t.tower s.self.tower).resizing = none ∧ t.self = { s.self with cleared := [] }.advance 4 ∧
         (s.Inv → ∀ q, Memory.get t.mem q = if Place.t s.self.tower (min ((s.tower s.self.tower).tUnits * 2 ^ 26) (a.toNat * 2 ^ 26)) ≤ q ∧
           q < Place.t s.self.tower (max ((s.tower s.self.tower).tUnits * 2 ^ 26) (a.toNat * 2 ^ 26)) then 0
           else Memory.get s.mem q)) ∧
     (s.self.priv = false → exec (.tsplit f) s = .next (s.raise PRIV s.self.pc)) ∧
     (s.self.priv = true → s.source f.a a → 8 < a.toNat → exec (.tsplit f) s = .next (s.raise ILL_FIELD a))) ∧
  (∀ (s : State) (f : FA) (p : Word) (q : Strand) (pre post : List Strand),
     let qa := (s.self.q[f.a.toNat]?).getD []
     s.source f.b p → s.settled (.q f.d.toNat) → s.self.qFull.getLsbD f.a.toNat = true → p.toNat < s.crew.size →
     s.crew.size ≤ 8 → f.fn.toNat ≤ 5 →
     (p.toNat = s.self.idx →
       exec (.xch f) s = .next (s.mapSelf (fun st => st.exchanged f.d.toNat f.fn.toNat 4 qa))) ∧
     (s.peers = pre ++ q :: post → p.toNat ≠ s.self.idx → q.crew = s.self.crew → q.idx = p.toNat →
       (∀ x ∈ pre, ¬ (x.crew = s.self.crew ∧ x.idx = p.toNat)) → q.retired = false → q.stopped = false →
       (∀ d a ty len, ty < 8 → q.wait = some (.exchange s.self.idx d a ty len) →
         ∃ t, exec (.xch f) s = .next t ∧
           t.self = s.self.exchanged f.d.toNat f.fn.toNat 4 ((q.q[a]?).getD []) ∧
           q.exchanged d ty len qa ∈ t.peers ∧ t.mem = s.mem) ∧
       (q.wait = none → exec (.xch f) s = .next (s.mapSelf (fun st =>
         { st with wait := some (.exchange p.toNat f.d.toNat f.a.toNat f.fn.toNat 4) })))) ∧
     (∀ st : Strand, ∀ theirs, f.d.toNat < st.q.length → f.fn.toNat ≤ 5 →
       ((st.exchanged f.d.toNat f.fn.toNat 4 theirs).q[f.d.toNat]?).getD [] =
         mergeElems (tyBytes f.fn.toNat) (st.m.headD []) ((st.q[f.d.toNat]?).getD []) theirs))

/-- R257 to R260 with nothing waiting on any ring: the descriptor's counters, and the slot references handed out; rgclaim
of a full ring and rgtake of an empty one wait in the ring's arrival queue. -/
def Obligations.BerthRings : Prop :=
  ∀ (s u : State) (f : FA) (r cfg : Word) (p : Nat),
    let g := s.ring p
    let moves (i : Instr) (g' : Ring) : Prop :=
      ∃ t, exec i s = .next t ∧ t.mem = Memory.setBytes s.mem p g'.bytes ∧ t.self = s.self.advance 4 ∧ t.waiters = [] ∧
        t.reqs = s.reqs ∧ t.returns = s.returns ∧ t.empties = s.empties
    let waits (i : Instr) (need : Need) : Prop :=
      ∃ t, exec i s = .next t ∧ t.self = { s.self with wait := some (.queued s.serial false) } ∧ t.mem = s.mem ∧
        t.waiters = [{ id := s.serial, crew := s.self.crew, idx := s.self.idx, place := p, need, event := { s.ownEvent with acq := true } }] ∧
        t.returns = s.returns ∧ t.reqs = s.reqs
    s.waiters = [] → s.source f.a r →
    (s.source f.b cfg → s.ref 32 32 r = .ok p → s.ringOk s.crew s.self.core cfg = .ok () → s.touches (.store (leBytes 32 0)) .strong p →
      ∃ t, exec (.rginit f) s = .next t ∧ t.self = s.self.advance 4 ∧
        t.mem = Memory.setBytes s.mem p (leBytes 8 cfg.toNat ++ List.replicate 24 0) ∧
        t.poison = (s.clearPoison p 32).poison ∧ t.empties = s.empties ∧ t.waiters = [] ∧ t.reqs = s.reqs ∧ t.returns = s.returns) ∧
    (s.ringAt r .rel = .ok (p, u) →
      (g.post ≠ g.claim → moves (.rgpost f) { g with post := g.post + 1 }) ∧
      (g.post = g.claim → exec (.rgpost f) s = .next (s.raise MODE r)) ∧
      (g.free ≠ g.take → moves (.rgfree f) { g with free := g.free + 1 }) ∧
      (g.free = g.take → exec (.rgfree f) s = .next (s.raise MODE r))) ∧
    (s.ringAt r .acq = .ok (p, u) →
      (s.settled (.g f.d.toNat) → 2 ^ g.logN ≤ (g.claim - g.free).toNat → waits (.rgclaim f) .claim) ∧
      (s.settled (.g f.d.toNat) → g.post = g.take → waits (.rgtake f) .take) ∧
      (s.self.crew ≠ 0 → s.settled (.g f.d.toNat) → (g.claim - g.free).toNat < 2 ^ g.logN →
        ∃ t, exec (.rgclaim f) s = .next t ∧ t.mem = Memory.setBytes s.mem p { g with claim := g.claim + 1 }.bytes ∧
          t.self = ((if f.d = 0 then s.self else s.self.emptyG f.d.toNat).advance 4) ∧ t.waiters = [] ∧
          t.returns = s.returns ++ (if f.d = 0 then [] else
            [{ id := s.serial + 1, crew := s.self.crew, idx := s.self.idx, dest := .g f.d.toNat, data := (leBytes 8 (g.slotRef g.claim).toNat).map some }])) ∧
      (s.self.crew ≠ 0 → s.settled (.g f.d.toNat) → 0 < (g.post - g.take).toNat →
        ∃ t, exec (.rgtake f) s = .next t ∧ t.mem = Memory.setBytes s.mem p { g with take := g.take + 1 }.bytes ∧
          t.self = ((if f.d = 0 then s.self else s.self.emptyG f.d.toNat).advance 4) ∧ t.waiters = [] ∧
          t.returns = s.returns ++ (if f.d = 0 then [] else
            [{ id := s.serial + 1, crew := s.self.crew, idx := s.self.idx, dest := .g f.d.toNat, data := (leBytes 8 (g.slotRef g.take).toNat).map some }])))

/-! ## Fetch and publishing (08), the pilot's instructions (05) -/

/-- R268, R274 to R277: publishing clears the unpublished marks of its lines; the queued form takes a place in the crane
queue and answers its sequence number; ifence forgets lines fetched ahead; ipatch writes four bytes and publishes
them. A publish ends the leases of instruction caches where a strand is placed (R270); copies of other cores serve no
fetch after an ifence there (log 29). -/
def Obligations.FetchUnit : Prop :=
  ∀ (s : State) (f : FA) (a n v : Word) (ts : List Trans) (t : Trans),
    let r : Req :=
      { id := s.serial, who := s.issuer, pc := s.self.pc, op := .store (leBytes 4 v.toNat), kind := .weak, space := .g, addr := a
        place := some t.place, key := t.key }
    let inside : Prop := canonical a = true ∧ (n = 0 ∨ (a.toNat + n.toNat - 1 < 2 ^ 64 ∧ canonical (a + n - 1) = true))
    (s.source f.a a → s.source f.b n → n.toNat ≤ 0x1000000 → inside → s.self.cleared = [] →
      (linesOf a n).mapM (fun va => s.xlate .wx va) = .ok ts →
      s.writesPending (ts.map (fun t => t.place / 128)) = false →
      exec (.cpub f) s = .next ((s.publish s.issuer f.fn.toNat (ts.map (fun t => t.place / 128))).advance 4)) ∧
    (s.source f.a a → s.source f.b n → n.toNat ≤ 0x1000000 → inside → s.settled (.g f.d.toNat) → s.self.cq.outstanding.length < 16 →
      ∃ t, exec (.cpubq f) s = .next t ∧ t.self.cq.issue = s.self.cq.issue + 1 ∧
        t.self.cq.cmds = s.self.cq.cmds ++
          [{ seq := s.self.cq.issue + 1, pc := s.self.pc, who := s.issuer, op := .cpubq f, args := [a, n], born := s.serial
             scope := f.fn.toNat }] ∧
        t.self.g = (s.self.setG f.d.toNat (word (s.self.cq.issue + 1))).g ∧ t.self.pc = (s.self.advance 4).pc ∧
        s.sameMemory t) ∧
    (s.source f.a a → s.source f.b n → 0x1000000 < n.toNat → exec (.cpub f) s = .next (s.raise ILL_FIELD n) ∧
      exec (.cpubq f) s = .next (s.raise ILL_FIELD n)) ∧
    (s.reqs.all (fun r => !r.who.same s.issuer) = true →
      s.returns.all (fun r => !(r.crew == s.self.crew && r.idx == s.self.idx)) = true →
      exec (.ifence f) s = .next ((s.dropLate s.self.core).mapSelf (fun st => { st.advance 4 with ahead := [], looped := [] }))) ∧
    (s.source f.a a → s.source f.b v → canonical a = true → a.toNat % 4 = 0 → s.xlate .w a = .ok t →
      s.writesPending [t.place / 128] = false → s.stuck t.place = false → s.poisonedAt t.place 4 = false →
      s.ordered r = true → s.ownedAt t.place 4 = false → s.hostHeld t.place 4 = false →
      let u := (s.wakeAt t.place).performWrite r t.place (leBytes 4 v.toNat)
      let e : Event := { s.eventOf r t.place s.writes with patch := some f.fn.toNat }
      exec (.ipatch f) s = .next { (((u.record e).publish s.issuer f.fn.toNat [t.place / 128]).advance 4) with
        serial := s.serial + 1 }) ∧
    (∀ k lines, (s.publish s.issuer k lines).unpub = lines.foldl (fun m l => sset false m l false) s.unpub ∧
      (s.publish s.issuer k lines).mem = s.mem ∧
      (∀ c ∈ s.copies, c.line ∉ lines → c ∈ (s.publish s.issuer k lines).copies) ∧
      (∀ c core, c ∈ (s.publish s.issuer k lines).copies → c.holder = .icache core → c.line ∈ lines →
        s.holderIn s.issuer k (.icache core) = false ∨ (c.late = true ∧ ∀ st ∈ s.strands, st.core ≠ core)))

/-- R197, R177, R179: spawn reads and checks the record, gives the child a place in its tower's pool and answers its
identifier; spawnw leaves its destination empty until the subtree completes; a failing record raises its code. R171:
an identifier given to a child or a root is not zero, and no manifest of the module holds it, nor the root of a launch
whose record has been read. -/
def Obligations.SpawnInstructions : Prop :=
  (∀ (s : State) (f : FA) (p : Word) (r : List Byte),
     let u := s.lookedAt p 128
     let child : Manifest :=
       { mid := u.newMid.1, ctx := s.crew.ctx, record := r, tower := s.self.tower, parent := some s.crew.mid
         towers := if recTowers r == 0 then BitVec.twoPow 16 s.self.tower else recTowers r
         deps := u.resolveDeps s.issuer s.crew.size r, spawner := s.issuer, born := u.serial, prio := recPrio r }
     let counted := (s.setManifest s.crew.mid (fun x => { x with kids := x.kids + 1 })).manifests
     s.crew.ctx ≠ bootCtx → s.source f.a p → canonical p = true → p.toNat % 128 = 0 → s.settled (.g f.d.toNat) →
     s.strongRead p 128 = .ok r →
     u.serial = s.serial + 1 ∧ s.sameMemory u ∧ u.returns = s.returns ∧
     (u.checkManifest s.issuer s.crew.size false r = none → u.poolOpen s.crew.ctx s.self.tower = true →
       (∃ t, exec (.spawn f) s = .next t ∧ t.manifests = counted ++ [child] ∧
         t.self = (s.self.setG f.d.toNat (u.newMid.1.setWidth 64)).advance 4 ∧ s.sameMemory t) ∧
       (f.d ≠ 0 → ∃ t, exec (.spawnw f) s = .next t ∧
         t.manifests = counted ++ [{ child with ret := some (u.serial + 1) }] ∧
         t.self = (s.self.emptyG f.d.toNat).advance 4 ∧
         t.returns = s.returns ++ [{ id := u.serial + 1, crew := s.self.crew, idx := s.self.idx, dest := .g f.d.toNat, data := List.replicate 8 none }] ∧ s.sameMemory t)) ∧
     (∀ c, u.checkManifest s.issuer s.crew.size false r = some c →
       exec (.spawn f) s = .next (s.raise c p) ∧ (f.d ≠ 0 → exec (.spawnw f) s = .next (s.raise c p))) ∧
     (u.checkManifest s.issuer s.crew.size false r = none → u.poolOpen s.crew.ctx s.self.tower = false →
       (s.ctx s.crew.ctx).lighterSize ≤ (s.ctx s.crew.ctx).lighter.length → s.mod.duty.getLsbD 1 = false →
       exec (.spawn f) s = .next (s.raise CHILD_POOL p) ∧
         (f.d ≠ 0 → exec (.spawnw f) s = .next (s.raise CHILD_POOL p)))) ∧
  (∀ s : State, s.manifests.length + s.ctxs.length + 2 < 2 ^ 32 → s.newMid.1 ≠ 0 ∧
     (∀ m ∈ s.manifests, m.mid ≠ s.newMid.1) ∧
     ∀ c ∈ s.ctxs, ∀ l, c.launch = some l → l.record.isSome = true → l.root ≠ s.newMid.1)

/-- R198, R199, R203, R185: yield resets the pre-emption count, and a strand that is to stop meets it at the yield; retire
waits for nothing that is over, and the last strand of a crew to retire ends its iteration; abort ends the launch with
SW_ABORT and its operand as USER. -/
def Obligations.YieldRetireAbort : Prop :=
  ∀ (s : State) (f : FA) (c : CR) (u : FU),
    (s.self.stopReq = false →
      exec (.yield f) s = .next (s.mapSelf (fun st => Strand.advance { st with pcnt := 0 } 4)) ∧
      exec (.cYield c) s = .next (s.mapSelf (fun st => Strand.advance { st with pcnt := 0 } 2))) ∧
    (s.self.stopReq = true →
      exec (.yield f) s = .next (s.mapSelf (fun st => { st with pcnt := 0 })) ∧
      exec (.cYield c) s = .next (s.mapSelf (fun st => { st with pcnt := 0 }))) ∧
    (s.drained s.issuer = true → s.leasesOver s.issuer s.serial 3 = true → s.self.mq.idle = true →
      s.self.cq.idle = true →
      (∃ x ∈ s.peers ++ s.saved, x.crew = s.self.crew ∧ x.retired = false) →
      ∃ t, exec (.retire f) s = .next t ∧
        t.self = { s.self with retired := true, wait := none, pcnt := s.self.pcnt + 1 } ∧ s.sameMemory t ∧
        t.manifests = s.manifests) ∧
    (s.drained s.issuer = true → s.leasesOver s.issuer s.serial 3 = true → s.self.mq.idle = true →
      s.self.cq.idle = true →
      (∀ x ∈ s.peers ++ s.saved, x.crew = s.self.crew → x.retired = true) →
      ∃ t, exec (.retire f) s = .next t ∧ t.self = {} ∧ (∀ x ∈ t.peers ++ t.saved, x.crew ≠ s.self.crew) ∧
        (∀ x ∈ t.crews, x.id ≠ s.self.crew) ∧ s.sameMemory t) ∧
    (s.drained s.issuer = false ∨ s.leasesOver s.issuer s.serial 3 = false →
      exec (.retire f) s = .next (s.onStop s.retry)) ∧
    (s.drained s.issuer = true → exec (.abort u) s = .next (s.endLaunch SW_ABORT 0 u.imm))

/-- R200 to R202: the crew barrier passes its last arriver and lifts the phase; at a completion barrier the strand issues
its arrival, a release, and goes on, and the arrival is one event there; cbarq answers a phase that differs and else
waits; wseq answers a queue's status once the number is reached. 01 R29, R30: an arrival counts, or completes the
phase and sends the wake-ups, or records the fault of a faulted command; an arrival at a barrier with its fault flag
set changes nothing. BARRIER_WAKE ends the wait. -/
def Obligations.BarriersAndWaits : Prop :=
  (∀ (s : State) (f : FA) (c : Crew) (r b : Word) (p : Nat) (q : QueueRef),
     (f.a = 0 → s.crews.find? (fun x => x.id == s.self.crew) = some c → s.self.barPhase = none →
       s.drained s.issuer = true → s.leasesOver s.issuer s.serial 1 = true →
       (∀ x ∈ s.peers ++ s.saved, x.crew = s.self.crew → x.retired = true ∨ x.idx ∈ c.arrived) →
       ∃ t, exec (.cbar f) s = .next t ∧ t.self = { s.self.advance 4 with barPhase := none } ∧
         t.crew.barPhase = c.barPhase + 1 ∧ t.crew.arrived = []) ∧
     (f.a = 0 → s.crews.find? (fun x => x.id == s.self.crew) = some c → s.self.barPhase = none →
       s.drained s.issuer = true → s.leasesOver s.issuer s.serial 1 = true →
       (∃ x ∈ s.peers, x.crew = s.self.crew ∧ x.retired = false ∧ x.idx ∉ c.arrived ∧ x.idx ≠ s.self.idx) →
       ∃ t, exec (.cbar f) s = .next t ∧ t.self = { s.self with barPhase := some c.barPhase, wait := some .retry } ∧
         t.crew.barPhase = c.barPhase ∧ t.crew.arrived = c.arrived ++ [s.self.idx]) ∧
     (f.a ≠ 0 → s.source f.a r → s.ref 16 16 r = .ok p → s.poisonedAt p 16 = false →
       exec (.cbar f) s = .next ((s.issue .arrive .rel (Place.space p) r (some p) none 0x4C).advance 4)) ∧
     (∀ x : Req, x.op = .arrive → x.space = Place.space p → Place.isG p = false → s.poisonedAt p 16 = false →
       (∀ t, Place.space p = .t t → x.addr.toNat + 16 ≤ s.tsize t ∧ s.inResize t x.addr.toNat 16 = false) →
       s.perform x p = (((s.arrive p none).performed x p s.writes).serveRings.dropReq x.id).tidy) ∧
     (f.a ≠ 0 → s.source f.a r → s.source f.b b → s.ref 16 16 r = .ok p → s.poisonedAt p 8 = false →
       s.touches (.load 4 false) .strong p → s.settled (.g f.d.toNat) →
       (field (s.bytesAt none p 4) 0 4 ≠ b.toNat % 2 ^ 32 →
         exec (.cbarq f) s = .next (((s.veil (s.ownReq (.load 4 false) .strong 0 p) (wordsAt p 4)).acquired p 4).gains f.d 4 (word (field (s.bytesAt none p 4) 0 4)))) ∧
       (field (s.bytesAt none p 4) 0 4 = b.toNat % 2 ^ 32 →
         exec (.cbarq f) s = .next (s.mapSelf (fun st => { st with wait := some (.barrier p false) })))) ∧
     (s.source f.a r → s.source f.b b → s.resolveQueue s.issuer s.crew.size r.toNat = .ok q →
       (q = s.ownQueue 1 ∨ q = s.ownQueue 2 → b.toNat ≤ ((s.queue q).getD {}).issue) →
       s.reached q b.toNat = true → s.settled (.g f.d.toNat) →
       exec (.wseq f) s =
         .next ((s.meets { after := [(q, ((s.queue q).getD {}).completion)] }).gains f.d 4 ((s.queue q).getD {}).status)) ∧
     (∀ e, s.source f.a r → s.source f.b b → s.resolveQueue s.issuer s.crew.size r.toNat = .error e →
       exec (.wseq f) s = .next (s.raise e r))) ∧
  (∀ (s : State) (p : Nat) (code : BitVec 8) (a : Word),
     let w0 := leNat (s.bytesAt none p 4)
     let w1 := leNat (s.bytesAt none (p + 4) 4)
     let n (o k : Nat) (t : State) : Nat := leNat (t.bytesAt none (p + o) k)
     s.Inv → Place.isG p = false →
     (w0.testBit 31 = true → s.arrive p none = s ∧ s.arrive p (some (code, a)) = s) ∧
     (w0.testBit 31 = false → bitsOf w1 23 12 + 1 < bitsOf w1 11 0 →
       n 0 4 (s.arrive p none) = w0 ∧ n 4 4 (s.arrive p none) = w1 + 2 ^ 12) ∧
     (w0.testBit 31 = false → bitsOf w1 11 0 ≤ bitsOf w1 23 12 + 1 →
       n 0 4 (s.arrive p none) = (w0 + 1) % 2 ^ 31 ∧ n 4 4 (s.arrive p none) = w1 / 2 ^ 24 * 2 ^ 24 + w1 % 2 ^ 12) ∧
     (w0.testBit 31 = false →
       n 0 4 (s.arrive p (some (code, a))) = 2 ^ 31 + (w0 + 1) % 2 ^ 31 ∧
       n 4 4 (s.arrive p (some (code, a))) = code.toNat * 2 ^ 24 + w1 % 2 ^ 24 ∧
       n 8 8 (s.arrive p (some (code, a))) = a.toNat) ∧
     (∃ t, exec .barrierWake s = .next t ∧ t.mem = s.mem ∧
       (∀ q, s.self.slot = s.args.unit → s.self.stopped = false → s.self.wait = some (.barrier q true) →
         t.self = { s.self with wait := none }) ∧
       (s.self.slot ≠ s.args.unit → t.self = s.self) ∧
       (∀ x ∈ s.peers, x.slot = s.args.unit → x.stopped = false → (∃ q, x.wait = some (.barrier q true)) →
         { x with wait := none } ∈ t.peers)))

/-! ## The home slices' instructions (10) -/

/-- R330 to R334: atomics and reductions drop their line from their core's L1 and issue one strong read-modify-write of a
G address (vector forms one for each element they name); an address that is misaligned or not canonical raises its
fault. R319, R324, R331, R332: what a read-modify-write writes over the old value: the atomic operations on four or
eight bytes, compare and swap, and the FP32 operations. -/
def Obligations.HomeAtomics : Prop :=
  (∀ (s : State) (f : FA) (a b c : Word) (v d : List Byte) (lt : List (Nat × Word × Trans)),
     let base : Reg := f.a &&& 31
     let n := if f.a.getLsbD 5 then 4 else 8
     let m := if f.fn = 1 then 4 else 8
     let good (a : Word) (n : Nat) : Prop := a.toNat % n = 0 ∧ canonical a = true ∧ inWindow a = false
     (s.source base a → s.source f.b b → good a n → s.settled (.g f.d.toNat) →
       exec (.amoG f) s = .next (((s.dropAtIssue a).issueRmw f.d (.amo f.fn.toNat n b) .g a none 0x80).advance 4)) ∧
     (s.source base a → s.source f.b b → good a n →
       exec (.redG f) s = .next (((s.dropAtIssue a).issue (.amo f.fn.toNat n b) .strong .g a none none 0x82).advance 4)) ∧
     (s.source f.a a → s.source f.b b → s.source f.d c → good a m → s.settled (.g f.d.toNat) →
       exec (.casG f) s = .next (((s.dropAtIssue a).issueRmw f.d (.cas m c b) .g a none 0x81).advance 4)) ∧
     (s.source f.a a → s.source f.b b → good a 4 →
       exec (.fredG f) s =
         .next (((s.dropAtIssue a).issue (.famo f.fn.toNat b) .strong .g a none none 0x83).advance 4)) ∧
     (s.source f.a a → s.source f.b b → good a 4 → s.settled (.g f.d.toNat) →
       exec (.famoG f) s =
         .next (((s.dropAtIssue a).issueRmw f.d (.famo f.fn.toNat b) .g a none 0x84).advance 4)) ∧
     (let traps (k : Nat) (i : Instr) : Prop := (a.toNat % k ≠ 0 → exec i s = .next (s.raise ALIGN a)) ∧
       (a.toNat % k = 0 → canonical a = false → exec i s = .next (s.raise VA_NONCANON a))
      (s.source base a → s.source f.b b → traps n (.amoG f) ∧ traps n (.redG f)) ∧
      (s.source f.a a → s.source f.b b → traps 4 (.fredG f) ∧ traps 4 (.famoG f) ∧
       (s.source f.d c → traps m (.casG f)))) ∧
     (let l := (s.self.actives (s.self.count n)).map (fun e => (e, a + word (el (elems n (s.self.count n) v) e * n)))
      s.source base a → s.sourceV f.b v → s.sourceV f.d d → s.checkElems .w n l = .ok lt →
       exec (.vredG f) s = .next (((lt.foldl (fun t e => t.dropAtIssue e.2.1) s).issueElems 0x85 false
         (fun e => .amo f.fn.toNat n (word (el (elems n (s.self.count n) d) e))) none n .strong lt).advance 4)) ∧
     (let l := (s.self.actives (s.self.count 4)).map (fun e => (e, a + word (el (elems 4 (s.self.count 4) v) e * 4)))
      s.source base a → s.sourceV f.b v → s.sourceV f.d d → s.checkElems .w 4 l = .ok lt →
       exec (.vfredG f) s = .next (((lt.foldl (fun t e => t.dropAtIssue e.2.1) s).issueElems 0x86 false
         (fun e => .famo f.fn.toNat (word (el (elems 4 (s.self.count 4) d) e))) none 4 .strong lt).advance 4))) ∧
  (∀ (a b : Word) (c v : Word) (x y : BitVec 32) (old : List Byte),
     (∀ fn n, n = 8 → (ReqOp.amo fn n b).apply (leBytes 8 a.toNat) = leBytes 8 (match fn with
       | 0 => a + b
       | 1 => a &&& b
       | 2 => a ||| b
       | 3 => a ^^^ b
       | 4 => if b.toInt < a.toInt then b else a
       | 5 => if a.toInt < b.toInt then b else a
       | 6 => if a.toNat ≤ b.toNat then a else b
       | _ => if a.toNat ≤ b.toNat then b else a).toNat) ∧
     (∀ fn, (ReqOp.amo fn 4 (y.setWidth 64)).apply (leBytes 4 x.toNat) = leBytes 4 (match fn with
       | 0 => x + y
       | 1 => x &&& y
       | 2 => x ||| y
       | 3 => x ^^^ y
       | 4 => if y.toInt < x.toInt then y else x
       | 5 => if x.toInt < y.toInt then y else x
       | 6 => if x.toNat ≤ y.toNat then x else y
       | _ => if x.toNat ≤ y.toNat then y else x).toNat) ∧
     (a = c → (ReqOp.cas 8 c v).apply (leBytes 8 a.toNat) = leBytes 8 v.toNat) ∧
     (a ≠ c → (ReqOp.cas 8 c v).apply (leBytes 8 a.toNat) = leBytes 8 a.toNat) ∧
     ((ReqOp.famo 0 (y.setWidth 64)).apply (leBytes 4 x.toNat) =
       leBytes 4 (fp32.round rne ((fp32.value x.toNat).add 1 (fp32.value y.toNat)))) ∧
     ((ReqOp.famo 1 (y.setWidth 64)).apply (leBytes 4 x.toNat) =
       leBytes 4 (fp32.round rne ((fp32.value x.toNat).minmax false (fp32.value y.toNat)))) ∧
     ((ReqOp.famo 2 (y.setWidth 64)).apply (leBytes 4 x.toNat) =
       leBytes 4 (fp32.round rne ((fp32.value x.toNat).minmax true (fp32.value y.toNat)))) ∧
     (∀ n sg, (ReqOp.load n sg).apply old = old) ∧ (ReqOp.store old).apply (leBytes 8 a.toNat) = old)

/-- R322 to R324, R335 to R337: rfence passes once the strand's accesses and leases are over; rgrain declares a range and
rdrop drops it; gflush writes lines back; gquery answers the leaf's policy, slice, tower and the line's state. -/
def Obligations.RangeUnitsAndMaintenance : Prop :=
  ∀ (s : State) (f : FA) (a n : Word) (d : List Byte) (r : Range) (ps : List (Nat × Nat)),
    let u := s.lookedAt a 32
    let quiet (t : State) : State := (t.holdOff s.self.crew s.self.idx).advance 4
    (s.drained s.issuer = true → s.leasesOver s.issuer s.serial f.fn.toNat = true →
      exec (.rfence f) s = .next ((s.fenced 0 f.fn.toNat).advance 4)) ∧
    (s.source f.a a → canonical a = true → a.toNat % 32 = 0 → s.strongRead a 32 = .ok d →
      (rangeOf s.crew.asid d = none → exec (.rgrain f) s = .next (s.raise ILL_FIELD a)) ∧
      (rangeOf s.crew.asid d = some r →
        let mine := s.ranges.filter (fun x => x.asid == r.asid)
        (256 ≤ mine.length → exec (.rgrain f) s = .next (quiet u)) ∧
        (r.words.any (fun w => mine.any (fun x => x.has w)) = true → exec (.rgrain f) s = .next (quiet u)) ∧
        (mine.length < 256 → r.words.any (fun w => mine.any (fun x => x.has w)) = false →
          u.wordPlaces r.words = .ok ps → (∀ p ∈ ps, sget 0 s.lexp (p.2 / 16) ≤ s.tide) →
          ∃ t, exec (.rgrain f) s = .next t ∧ t.ranges = s.ranges ++ [{ r with places := ps }] ∧
            t.self = s.self.advance 4 ∧ s.sameMemory t))) ∧
    (s.source f.a a → canonical a = true →
      (s.ranges.find? (fun r => r.asid == s.crew.asid && r.base == a) = none →
        exec (.rdrop f) s = .next (quiet s)) ∧
      (s.ranges.find? (fun r => r.asid == s.crew.asid && r.base == a) = some r →
        sget 0 s.lexp r.unit ≤ s.tide →
        ∃ t, exec (.rdrop f) s = .next t ∧ t.ranges = s.ranges.filter (fun x => x.asid != s.crew.asid || x.base != a) ∧ t.self = s.self.advance 4 ∧
          s.sameMemory t)) ∧
    (s.source f.a a → s.source f.b n → n.toNat ≤ 0x1000000 → canonical a = true →
      (n = 0 ∨ (a.toNat + n.toNat - 1 < 2 ^ 64 ∧ canonical (a + n - 1) = true)) →
      s.wordPlaces ((linesOf a n).filterMap (fun va => if inWindow va then none else some va.toNat)) = .ok ps →
      let lines := ((ps.map (·.2 / 16)).eraseDups).filter (fun l =>
        !sget false s.stranded l && !(s.tower (homeTower (128 * l))).rcDown)
      let back := lines.filter (fun l => sget false s.dirty l)
      (∀ l ∈ lines, s.ownedAt (128 * l) 128 = false ∧ (sget false s.dirty l = true → s.flightOf (128 * l) = none)) →
      (f.fn = 0 → exec (.gflush f) s =
        .next (State.advance { s with
          dirty := back.foldl (fun m l => sset false m l false) s.dirty
          inflight := s.inflight ++ back.map (fun l => ({ lines := [l] } : InFlight)) } 4)) ∧
      (f.fn = 1 → exec (.gflush f) s = .next (((s.writeLines back).dropLines s.self.tower lines).advance 4) ∧
        ((s.writeLines back).dropLines s.self.tower lines).copies =
          s.copies.filter (fun c => !(lines.contains c.line && c.holder.inTower == s.self.tower)) ∧
        ∀ l ∈ ((s.writeLines back).dropLines s.self.tower lines).self.ahead, l.line ∈ lines → l.expiry = 0)) ∧
    (s.source f.a a → canonical a = true → s.settled (.g f.d.toNat) → inWindow a = false →
      (∀ l k, s.lookup s.self.tower s.crew.asid a = .leaf l k → l.policy ≤ 1 →
        Place.isDram (s.leafPlace l (a.toNat % l.size)) = true →
        let p := s.leafPlace l (a.toNat % l.size)
        exec (.gquery f) s = .next (s.returnsTo f.d
          (word (sget 0 s.lexp (s.unitOf s.crew.asid a p) % 2 ^ 32 * 2 ^ 32 + l.policy * 2 ^ 18 +
            (2 * (Place.bankOf p % 32) + Place.bankOf p / 32 % 2) * 2 ^ 12 + Place.towerOf p * 2 ^ 8 +
            16 * b2n (s.isOwned (s.unitOf s.crew.asid a p)) + 8 * b2n (sget false s.stranded (p / 128)) + 4 * b2n (sget false s.unpub (p / 128)) +
            2 * b2n (s.rangeAt s.crew.asid a p).isSome + 1)))) ∧
      (s.lookup s.self.tower s.crew.asid a = .noSpace → exec (.gquery f) s = .next (s.returnsTo f.d 0)))

/-! ## The vector engine (09) -/

/-- R299, R300, R57: element-wise arithmetic, unprefixed over 4 bytes and under the fields of a pair's first word over 8:
the active elements of d receive the operation of the elements of a and b, the others keep their values, and d awaits
the bytes. -/
def Obligations.VectorArithmetic : Prop :=
  ∀ (s : State) (px : Prefix) (f : FA) (a b c : List Byte) (r : Prefix → Rnd),
    let ty := f.fn.toNat
    let w := tyBytes ty
    let bits := 8 * w
    let n (w : Nat) := s.self.count w
    let fl : Bool := ty = 4 || ty = 5
    let v (z : Nat) : FV := (fmtOf ty).value z
    let gives (len : Nat) (bs : List Byte) : Host.Outcome State Fault Refusal :=
      .next ((s.produce (s.self.vdest f.d.toNat) (bs.map some) true).1.advance len)
    let each (w : Nat) (op : Nat → Nat → Nat → Nat) : List Byte :=
      putElems w (n w) (s.self.vreg f.d.toNat) (fun e =>
        if s.self.active e then some (op e (el (elems w (n w) a) e) (el (elems w (n w) b) e)) else none)
    let does (i : Instr) (op : Rnd → Nat → Nat → Nat) : Prop :=
      exec i s = gives 4 (each w (fun e => op ((r {}).at e))) ∧
      exec (.prefixedPair px i) s = gives 8 (each w (fun e => op ((r px).at e)))
    let logic (i : Instr) (op : Word → Word → Word) : Prop :=
      exec i s = gives 4 (each 8 (fun _ x y => (op (word x) (word y)).toNat)) ∧
      exec (.prefixedPair px i) s = gives 8 (each 8 (fun _ x y => (op (word x) (word y)).toNat))
    let int (sg : Bool) (r : Rnd) (z : Int) : Nat := intSat bits sg r.sat z
    let si (x : Nat) : Int := toSigned bits x
    s.sourceV f.a a → s.sourceV f.b b → s.settled (s.self.vdest f.d.toNat) → s.vround {} = .ok (r {}) →
    s.vround px = .ok (r px) →
    does (.vadd f) (fun r x y => if fl then (fmtOf ty).round r ((v x).add r.mode (v y)) else int true r (si x + si y)) ∧
    does (.vsub f) (fun r x y =>
      if fl then (fmtOf ty).round r ((v x).add r.mode (v y).negate) else int true r (si x - si y)) ∧
    does (.vmul f) (fun r x y => if fl then (fmtOf ty).round r ((v x).mul (v y)) else int true r (si x * si y)) ∧
    does (.vmulhI f) (fun _ x y => ofSigned bits (si x * si y / 2 ^ bits)) ∧
    does (.vmulhN f) (fun _ x y => x * y / 2 ^ bits) ∧
    does (.vdiv f) (fun r x y => if fl then (fmtOf ty).round r ((v x).div (v y))
      else if y = 0 then 2 ^ bits - 1 else int true r ((si x).tdiv (si y))) ∧
    does (.vdivN f) (fun _ x y => if y = 0 then 2 ^ bits - 1 else x / y) ∧
    does (.vmin f) (fun _ x y => if fl then (fmtOf ty).round rne ((v x).minmax false (v y)) else if si x < si y then x else y) ∧
    does (.vmax f) (fun _ x y => if fl then (fmtOf ty).round rne ((v x).minmax true (v y)) else if si x < si y then y else x) ∧
    (fl = false → does (.vminN f) (fun _ x y => if x < y then x else y) ∧
      does (.vmaxN f) (fun _ x y => if x < y then y else x)) ∧
    does (.vshl f) (fun _ x y => x * 2 ^ (y % bits) % 2 ^ bits) ∧
    does (.vshr f) (fun _ x y => x / 2 ^ (y % bits)) ∧
    does (.vsar f) (fun _ x y => ofSigned bits (si x / 2 ^ (y % bits))) ∧
    logic (.vand f) (· &&& ·) ∧ logic (.vor f) (· ||| ·) ∧ logic (.vxor f) (· ^^^ ·) ∧
    logic (.vandn f) (fun x y => x &&& ~~~y) ∧ logic (.vorn f) (fun x y => x ||| ~~~y) ∧
    logic (.vxnor f) (fun x y => ~~~(x ^^^ y)) ∧
    (let all : List Byte := putElems w (n w) (s.self.vreg f.d.toNat) (fun e =>
        some (if s.self.active e then el (elems w (n w) a) e else el (elems w (n w) b) e))
     exec (.vsel f) s = gives 4 all ∧ exec (.prefixedPair px (.vsel f)) s = gives 8 all) ∧
    (s.sourceV f.d c →
      let fma (r : Rnd) : List Byte := putElems w (n w) c (fun e =>
        let x := el (elems w (n w) a) e
        let y := el (elems w (n w) b) e
        let z := el (elems w (n w) c) e
        if s.self.active e then
          some (if fl then (fmtOf ty).round (r.at e) (((v x).mul (v y)).add r.mode (v z))
            else int true r (si x * si y + si z))
        else none)
      exec (.vfma f) s = gives 4 (fma (r {})) ∧ exec (.prefixedPair px (.vfma f)) s = gives 8 (fma (r px)))

/-- R300, R302: signs and correctly rounded functions of elements: FP32 to nearest, BF16 through FP32. -/
def Obligations.VectorFunctions : Prop :=
  ∀ (s : State) (px : Prefix) (f : FA) (a : List Byte) (r : Prefix → Rnd),
    let ty := f.fn.toNat
    let w := tyBytes ty
    let n := s.self.count w
    let x := elems w n a
    let gives (len : Nat) (bs : List Byte) : Host.Outcome State Fault Refusal :=
      .next ((s.produce (s.self.vdest f.d.toNat) (bs.map some) true).1.advance len)
    let each (op : Nat → Nat → Nat) : List Byte := putElems w n (s.self.vreg f.d.toNat) (fun e =>
      if s.self.active e then some (op e (el x e)) else none)
    let does (i : Instr) (op : Rnd → Nat → Nat) : Prop :=
      exec i s = gives 4 (each (fun e => op ((r {}).at e))) ∧
      exec (.prefixedPair px i) s = gives 8 (each (fun e => op ((r px).at e)))
    let fn (g : FV → FV) (r : Rnd) (z : Nat) : Nat :=
      if ty = 4 then fp32.round { r with mode := 1 } (g (fp32.value z))
      else bf16.round r (fp32.value (fp32.round rne (g (bf16.value z))))
    s.sourceV f.a a → s.settled (s.self.vdest f.d.toNat) → s.vround {} = .ok (r {}) → s.vround px = .ok (r px) →
    does (.vabs f) (signElem ty false) ∧ does (.vneg f) (signElem ty true) ∧
    does (.vexp2 f) (fn FV.exp2) ∧ does (.vlog2 f) (fn FV.log2) ∧ does (.vrecip f) (fn FV.recip) ∧
    does (.vsqrt f) (fn FV.sqrt) ∧ does (.vrsqrt f) (fn FV.rsqrt) ∧
    (f.b = 1 → does (.vact f) (fn FV.sigmoid)) ∧ (f.b = 0 → does (.vact f) (fn FV.tanh)) ∧
    (∀ r z, ty ≤ 3 → signElem ty true r z = intSat (8 * w) true r.sat (-toSigned (8 * w) z) ∧
      signElem ty false r z = intSat (8 * w) true r.sat ((toSigned (8 * w) z).natAbs : Int)) ∧
    (∀ r z, (ty = 4 ∨ ty = 5) → ((fmtOf ty).value z).isNan = false → z < 2 ^ (8 * w) →
      signElem ty false r z = z % 2 ^ (8 * w - 1) ∧
      signElem ty true r z = (if z < 2 ^ (8 * w - 1) then z + 2 ^ (8 * w - 1) else z - 2 ^ (8 * w - 1)))

/-- R297, R301, R303: comparisons into masks, mset and mpop, lane numbers, broadcast, and the permutes. -/
def Obligations.VectorMasksAndPermutes : Prop :=
  ∀ (s : State) (px : Prefix) (f : FA) (a b : List Byte) (x y : Word),
    let ty := f.fn.toNat
    let w := tyBytes ty
    let n := s.self.count w
    let ea := elems w n a
    let eb := elems w n b
    let gives (len : Nat) (bs : List Byte) : Host.Outcome State Fault Refusal :=
      .next ((s.produce (s.self.vdest f.d.toNat) (bs.map some) true).1.advance len)
    let each (op : Nat → Option Nat) : List Byte := putElems w n (s.self.vreg f.d.toNat) op
    let both (i : Instr) (op : Nat → Option Nat) : Prop :=
      exec i s = gives 4 (each op) ∧ exec (.prefixedPair px i) s = gives 8 (each op)
    let act (e : Nat) : Bool := s.self.active e
    let dest := s.settled (s.self.vdest f.d.toNat)
    (s.sourceV f.a a → s.sourceV f.b b →
      exec (.vcmp f) s = .next (s.mapSelf (fun t => (t.setMask (f.d.toNat % 8) n (fun e =>
        act e && vcond ty (f.d.toNat / 8) (el ea e) (el eb e))).advance 4)) ∧
      exec (.prefixedPair px (.vcmp f)) s = .next (s.mapSelf (fun t => (t.setMask (f.d.toNat % 8) n (fun e =>
        act e && vcond ty (f.d.toNat / 8) (el ea e) (el eb e))).advance 8))) ∧
    (s.source f.a x → s.source f.b y →
      exec (.mset f) s = .next (s.mapSelf (fun t =>
        (t.setMask f.d.toNat n (fun e => x.toNat ≤ e && e < y.toNat)).advance 4))) ∧
    (s.settled (.g f.d.toNat) →
      let count := (((s.self.m[f.a.toNat]?).getD []).take (if s.self.long then s.self.vl else 32)).countP (fun b => b)
      exec (.mpop f) s = .next (if f.d = 0 then s.advance 4
        else (s.produce (.g f.d.toNat) ((leBytes 8 count).map some) true).1.advance 4)) ∧
    (dest → exec (.vidx f) s = gives 4 (each (fun e => if act e then some e else none))) ∧
    (s.source f.a x → dest → both (.vmov f) (fun e => if act e then some x.toNat else none)) ∧
    (s.sourceV f.a a → s.sourceV f.b b → dest →
      both (.vperm f) (fun e => if act e then some (el ea (el eb e)) else none)) ∧
    (s.sourceV f.a a → s.source f.b y → dest →
      both (.vslide f) (fun e => if act e then
        some (let k := (e : Int) + y.toInt; if 0 ≤ k && k < n then el ea k.toNat else 0) else none)) ∧
    (s.sourceV f.a a → dest →
      both (.vcompress f) (fun e => (((List.range n).filter act).map (el ea))[e]?) ∧
      both (.vexpand f) (fun e => if act e then some (el ea ((List.range e).filter act).length) else none))

/-- R304 to R307, 03 R102 to R104: sums by the lane tree or in order, extrema, scans, the stable sort of pairs, and
segment sums, over the active elements. -/
def Obligations.VectorReductions : Prop :=
  ∀ (s : State) (px : Prefix) (f : FA) (a b c : List Byte) (r : Prefix → Rnd),
    let ty := f.fn.toNat
    let w := tyBytes ty
    let n := s.self.count w
    let x := elems w n a
    let fl : Bool := ty = 4 || ty = 5
    let act := s.self.active
    let gives (len : Nat) (bs : List Byte) : Host.Outcome State Fault Refusal :=
      .next ((s.produce (s.self.vdest f.d.toNat) (bs.map some) true).1.advance len)
    let first (z : Nat) : List Byte := putElems w 1 (s.self.vreg f.d.toNat) (fun _ => some z)
    let terms : List Nat := (List.range n).map (fun e => if act e then widen32 ty (el x e) else minusZero)
    let isum : Nat := (((List.range n).filter act).foldl (fun t e => t + el x e) 0) % 2 ^ (8 * w)
    let sum (ordered : Bool) (r : Rnd) : List Byte := first (if fl then
      (if ordered then narrow16 ty r n (redSumOrdered r terms) else narrow16 ty r (n + 63) (redSum r terms)) else isum)
    let mm (unsigned max : Bool) : List Byte := first (((List.range n).filter act).foldl
      (fun t e => minMaxElem ty unsigned max t (el x e)) (minMaxIdentity ty unsigned max))
    let scan (r : Rnd) : List Byte :=
      let out := scanFrom ty f.b.toNat n r act 0
        (if f.b = 0 then (if fl then minusZero else 0) else minMaxIdentity ty false (f.b = 2)) x
      putElems w n (s.self.vreg f.d.toNat) (fun e => (out[e]?).getD none)
    s.sourceV f.a a → s.vround {} = .ok (r {}) → s.vround px = .ok (r px) → s.settled (s.self.vdest f.d.toNat) →
    (exec (.vredsum f) s = gives 4 (sum false (r {})) ∧
      exec (.prefixedPair px (.vredsum f)) s = gives 8 (sum (px.ord = 1) (r px))) ∧
    (exec (.vredsumO f) s = gives 4 (sum true (r {})) ∧
      exec (.prefixedPair px (.vredsumO f)) s = gives 8 (sum true (r px))) ∧
    (f.b.toNat ≤ 3 → exec (.vredmm f) s = gives 4 (mm (f.b = 2 || f.b = 3) (f.b = 1 || f.b = 3)) ∧
      exec (.prefixedPair px (.vredmm f)) s = gives 8 (mm (f.b = 2 || f.b = 3) (f.b = 1 || f.b = 3))) ∧
    (exec (.vscan f) s = gives 4 (scan (r {})) ∧ exec (.prefixedPair px (.vscan f)) s = gives 8 (scan (r px))) ∧
    (s.sourceV f.b b →
      let seg (r : Rnd) : List Byte :=
        let out := segSums ty n r act 0 (if fl then minusZero else 0) (x.zip (elems w n b))
        putElems w n (s.self.vreg f.d.toNat) (fun e => (out[e]?).getD none)
      exec (.vsegred f) s = gives 4 (seg (r {})) ∧ exec (.prefixedPair px (.vsegred f)) s = gives 8 (seg (r px))) ∧
    (s.sourceV (f.a + 1) c → s.settled (s.self.vdest (f.d + 1).toNat) →
      let pairs := ((List.range n).filter act).map (fun e => (el x e, el (elems w n c) e))
      let sorted := sortPairs (fun p q => if f.b = 1 then sortRank ty q.1 ≤ sortRank ty p.1
        else sortRank ty p.1 ≤ sortRank ty q.1) pairs
      let out (d : Reg) (g : Nat × Nat → Nat) : List (Option Byte) :=
        (putElems w n (s.self.vreg d.toNat) (fun e => (sorted[e]?).map g)).map some
      let t := ((s.produce (s.self.vdest f.d.toNat) (out f.d Prod.fst) true).1.produce
        (s.self.vdest (f.d + 1).toNat) (out (f.d + 1) Prod.snd) true).1
      exec (.vsortkv f) s = .next (t.advance 4) ∧ exec (.prefixedPair px (.vsortkv f)) s = .next (t.advance 8))

/-- R306: the sort keeps every pair, in rising order of its keys' rank, and is stable. -/
def Obligations.SortIsStableAndOrdered : Prop :=
  ∀ (ty : Nat) (l : List (Nat × Nat)),
    let le (x y : Nat × Nat) : Bool := sortRank ty x.1 ≤ sortRank ty y.1
    (sortPairs le l).Perm l ∧ (sortPairs le l).Pairwise (fun x y => le x y = true) ∧
    ∀ k, (sortPairs le l).filter (fun x => sortRank ty x.1 = k) = l.filter (fun x => sortRank ty x.1 = k)

/-- R308 to R311: the vector loads and stores check their elements in order, then issue one access for each active
element; a load's inactive elements keep their bytes, and a load whose check fails leaves its destination empty. -/
def Obligations.VectorMemory : Prop :=
  ∀ (s : State) (f : FA) (b y : Word) (v d : List Byte) (lt : List (Nat × Word × Trans)),
    let w := tyBytes f.fn.toNat
    let n := s.self.count w
    let act := (List.range n).filter s.self.active
    let base : Reg := f.a &&& 31
    let old := s.self.vreg f.d.toNat
    let unit (e : Nat) : Word := b + word (e * w)
    let stride (e : Nat) : Word := b + word e * y
    let index (e : Nat) : Word := b + word (el (elems w n v) e * w)
    let load (i : Instr) (opc : BitVec 8) (addr : Nat → Word) : Prop :=
      s.checkElems .r w (act.map (fun e => (e, addr e))) = .ok lt → s.settled (s.self.vdest f.d.toNat) →
      exec i s = .next ((State.issueElems (s.produce (s.self.vdest f.d.toNat)
          (old.zipIdx.map (fun b => if act.contains (b.2 / w) then none else some b.1)) true).1 opc (f.a.getLsbD 5)
        (fun _ => .load w false) (some s.serial) w .weak lt).advance 4)
    let fails (i : Instr) (addr : Nat → Word) : Prop := ∀ c x, s.settled (s.self.vdest f.d.toNat) →
      (s.checkElems .r w (act.map (fun e => (e, addr e))) = .error (.fault c x) ∨
        s.checkElems .r w (act.map (fun e => (e, addr e))) = .error (.endLaunch c x 0)) →
      exec i s = .next ((s.mapSelf (fun st => st.empty (st.vdest f.d.toNat))).raise c x)
    let store (i : Instr) (opc : BitVec 8) (addr : Nat → Word) : Prop :=
      s.checkElems .w w (act.map (fun e => (e, addr e))) = .ok lt → s.sourceV f.d d →
      exec i s = .next ((s.issueElems opc (f.a.getLsbD 5) (fun e => .store (slice d (w * e) w)) none w .weak lt).advance 4)
    s.source base b →
    load (.vld f) 0x57 unit ∧ fails (.vld f) unit ∧ store (.vst f) 0x58 unit ∧
    (s.source f.b y → load (.vlds f) 0x59 stride ∧ fails (.vlds f) stride ∧ store (.vsts f) 0x5A stride) ∧
    (s.sourceV f.b v → load (.vldx f) 0x5B index ∧ fails (.vldx f) index ∧ store (.vstx f) 0x5C index)

/-- R288, R289, R294 to R296, R298: a strand of a crew arrives at vlong, vshort or setvl and waits; the last to arrive
asks for capacity, or acts for all of them, with the largest operand; the grant brings every strand of the crew into
long mode; vxch is an exchange of long vectors, with itself, with a peer that waits for this strand, or to wait for
one. A vlong of length 0 raises ILL_FIELD with that length. That setvl and vxch in short mode raise MODE at the PC is
the model's choice, for no rule gives that MODE an address (log 33, DESIGN CHOICE). -/
def Obligations.VectorModeAndLength : Prop :=
  ∀ (s : State) (f : FA) (r p : Word) (c : Crew) (m : Nat) (q : Strand) (pre post : List Strand),
    let mate (x : Strand) : Prop := x ∈ s.peers ++ s.saved ∧ x.crew = s.self.crew ∧ x.retired = false
    let full (k : Nat) : Prop := ∀ x, mate x → ∃ v d, x.arrival = some (k, v, d)
    let most (k : Nat) : Prop := r.toNat ≤ m ∧ (∀ x v d, mate x → x.arrival = some (k, v, d) → v.toNat ≤ m) ∧
      (m = r.toNat ∨ ∃ x v d, mate x ∧ x.arrival = some (k, v, d) ∧ v.toNat = m)
    let waits (k : Nat) (v : Word) (d : Nat) : Host.Outcome State Fault Refusal :=
      .next (s.mapSelf (fun st => { st with arrival := some (k, v, d), wait := some .retry }))
    let granted (x : Strand) : Strand :=
      { Strand.advance { x with
          long := true, vl := m, v := List.replicate 64 (List.replicate (8 * m) 0), vFull := BitVec.allOnes 64
          m := List.replicate m true :: List.replicate 7 (List.replicate m false) } 4 with arrival := none }
    let short (x : Strand) : Strand :=
      { Strand.advance { x with
          long := false, vl := 0, v := [], vFull := BitVec.allOnes 64
          m := List.replicate 32 true :: List.replicate 7 (List.replicate 32 false) } 4 with arrival := none }
    let n := min m c.vlGrant
    let sized (d : Nat) (x : Strand) : Strand := { Strand.advance { x.setG d (word n) with vl := n } 4 with arrival := none }
    (s.crews.find? (fun x => x.id == s.self.crew) = some c → s.self.retired = false →
      (s.self.long = false → s.source f.a r → r ≠ 0 → ¬ full 0 → exec (.vlong f) s = waits 0 r 0) ∧
      (s.self.long = false → s.source f.a r → r ≠ 0 → full 0 → most 0 → c.vlAsked = none →
        ∃ t, exec (.vlong f) s = .next t ∧ t.crew.vlAsked = some (min (64 * ((m + 63) / 64)) (64 * (128 / c.size))) ∧
          t.crew.vlGrant = c.vlGrant ∧ t.self = { s.self with arrival := some (0, r, 0), wait := some .retry } ∧
          t.peers = s.peers) ∧
      (s.self.long = true → ¬ full 1 → exec (.vshort f) s = waits 1 0 0) ∧
      (s.self.long = true → full 1 → s.vectorBusy s.self.crew = false →
        ∃ t, exec (.vshort f) s = .next t ∧ t.crew.vlGrant = 0 ∧ t.self = short s.self ∧
          (∀ x ∈ s.peers, x.crew = s.self.crew → x.retired = false → short x ∈ t.peers) ∧
          (∀ x ∈ s.peers, x.crew ≠ s.self.crew → x ∈ t.peers)) ∧
      (s.self.long = true → s.source f.a r → s.settled (.g f.d.toNat) → ¬ full 2 →
        exec (.setvl f) s = waits 2 r f.d.toNat) ∧
      (s.self.long = true → s.source f.a r → s.settled (.g f.d.toNat) → full 2 → most 2 →
        ∃ t, exec (.setvl f) s = .next t ∧ t.self = sized f.d.toNat s.self ∧ t.crews = s.crews ∧
          (∀ x v d, x ∈ s.peers → x.crew = s.self.crew → x.retired = false → x.arrival = some (2, v, d) →
            sized d x ∈ t.peers) ∧
          (∀ x ∈ s.peers, x.crew ≠ s.self.crew → x ∈ t.peers))) ∧
    (let cluster (x : Crew) : Nat := clusterOfCore (x.cores.headD 0)
     let room := s.capacityUsed (cluster c) + 512 * c.size * m ≤ 4194304
     s.crews.find? (fun x => x.id == s.args.unit) = some c → c.vlAsked = some m → c.saved = false →
     (¬ room → exec .vectorCapacityGrant s = .next s) ∧
     (room → (∀ x ∈ s.crews, x.id = c.id ∨ x.vlAsked = none ∨ cluster x ≠ cluster c ∨ c.vlAskedAt < x.vlAskedAt) →
       (∀ x ∈ s.self :: s.peers ++ s.saved, x.crew = c.id → x.retired = false → ∃ v d, x.arrival = some (0, v, d)) →
       ∃ t, exec .vectorCapacityGrant s = .next t ∧ (t.crewById c.id).vlGrant = m ∧ (t.crewById c.id).vlAsked = none ∧
         (s.self.crew = c.id → s.self.retired = false → t.self = granted s.self) ∧
         (∀ x ∈ s.peers, x.crew = c.id → x.retired = false → granted x ∈ t.peers))) ∧
    (s.self.long = true → exec (.vlong f) s = .next (s.raise MODE s.self.pc)) ∧
    (s.self.long = false → s.source f.a 0 → exec (.vlong f) s = .next (s.raise ILL_FIELD 0)) ∧
    (s.self.long = false → exec (.vshort f) s = .next (s.advance 4)) ∧
    (s.self.long = false → exec (.setvl f) s = .next (s.raise MODE s.self.pc) ∧
      exec (.vxch f) s = .next (s.raise MODE s.self.pc)) ∧
    (let va := (s.self.v[f.a.toNat]?).getD []
     s.self.long = true → s.source f.b p → s.settled (.v f.d.toNat) → s.self.vFull.getLsbD f.a.toNat = true →
     p.toNat < s.crew.size → s.crew.size ≤ 8 →
     (p.toNat = s.self.idx → exec (.vxch f) s = .next (s.mapSelf (fun st =>
       st.exchanged f.d.toNat (f.fn.toNat + 8) 4 va))) ∧
     (s.peers = pre ++ q :: post → p.toNat ≠ s.self.idx → q.crew = s.self.crew → q.idx = p.toNat →
       (∀ x ∈ pre, ¬ (x.crew = s.self.crew ∧ x.idx = p.toNat)) → q.retired = false → q.stopped = false →
       (∀ d a ty len, 8 ≤ ty → q.wait = some (.exchange s.self.idx d a ty len) →
         ∃ t, exec (.vxch f) s = .next t ∧
           t.self = s.self.exchanged f.d.toNat (f.fn.toNat + 8) 4 ((q.v[a]?).getD []) ∧
           q.exchanged d ty len va ∈ t.peers ∧ t.mem = s.mem) ∧
       (q.wait = none → exec (.vxch f) s = .next (s.mapSelf (fun st =>
         { st with wait := some (.exchange p.toNat f.d.toNat f.a.toNat (f.fn.toNat + 8) 4) })))))

/-- R343 to R361: the conversions of the rotator in long mode, unprefixed and under a pair's first word; the element-by-
element forms in either mode; FP8 scales that are not positive and finite raise SCALE_INVALID. No rule gives the
address of the MODE that a block-based form raises in short mode; that it is the PC is the model's choice (log 33).
R342, R352, R384: seeds, the seed of stochastic rounding, and the tags of tile descriptors. R384 gives FMT_MISMATCH no
address; that mtag names g[b] is the model's choice (log 33). -/
def Obligations.RotatorConversions : Prop :=
  (∀ (s : State) (px : Prefix) (f : FA) (a v63 : List Byte) (r q : Prefix → Rnd),
     let n := s.self.vl
     let good (r : Rnd) : Prop := ∀ b ∈ blocksOf (r.idx.toNat % 32) n s.self.active, sigmaOk (sigmaAt v63 b.j) = true
     let conv (i : Instr) (sw dw writes : Nat) (g : BlockCtx → Nat → List Nat → List Nat × Nat) : Prop :=
       exec i s = .next (s.converts 4 {} f.d (r {}) a v63 sw dw writes g) ∧
       exec (.prefixedPair px i) s = .next (s.converts 8 px f.d (r px) a v63 sw dw writes g)
     let each (i : Instr) (sw dw n : Nat) (op : Rnd → Nat → Nat) : Prop :=
       let out (r : Rnd) : List Byte := putCodes dw n (s.self.vreg f.d.toNat) (fun e =>
         if s.self.active e then some (op (r.at e) (el (codes sw n a) e)) else none)
       exec i s = .next (s.yields f.d 4 (out (r {}))) ∧
       exec (.prefixedPair px i) s = .next (s.yields f.d 8 (out (r px)))
     let fp8 := if f.fn = 1 then e4m3 else e5m2
     s.sourceV f.a a → s.rround {} = .ok (r {}) → s.rround px = .ok (r px) → s.settled (s.self.vdest f.d.toNat) →
     (f.fn = 0 → each (.cvtn f) 32 16 (s.self.count 4) (fun r x => bf16.round r (fp32.value x)) ∧
       each (.cvtw f) 16 32 (s.self.count 4) (fun _ x => fp32.round rne (bf16.value x)) ∧
       each (.cvti f) 32 16 (s.self.count 4) (fun r x => intSat 16 true r.sat (toSigned 32 x))) ∧
     (f.fn = 4 → each (.cvti f) 16 32 (s.self.count 4) (fun _ x => ofSigned 32 (toSigned 16 x))) ∧
     (s.self.long = true → f.fn = 6 → each (.cvti f) 2 8 n (fun _ x => if x = 1 then 1 else if x = 3 then 0xFF else 0)) ∧
     (s.self.long = true → s.sourceV 63 v63 → s.settled (.v 63) →
       (good (r {}) → good (r px) →
         (f.fn = 1 ∨ f.fn = 2 →
           conv (.cvtn f) 16 8 0 (fun c j x => (narrowFp8 fp8 c (fp32.value (sigmaAt v63 j)) (x.map bf16.value), 0)) ∧
           conv (.cvtw f) 8 16 0 (fun c j x => (widenBlock bf16 c (fp32.value (sigmaAt v63 j)) (x.map fp8.value), 0))) ∧
         (f.fn = 3 → conv (.cvtn f) 8 4 1 (fun c j x =>
           narrowE2m1 { c with tag := 0 } (x.map (fun q => (e4m3.value q).mul (fp32.value (sigmaAt v63 j))))))) ∧
       (f.fn = 3 → conv (.cvtw f) 4 8 4 (fun _ j x => match e8m0 (codeAt v63 j) with
         | none => (allCodes 0x7F, fp32.round rne (.ofInt 1))
         | some k => (x.map (fun q => e4m3.round rne (e2m1.value q)), fp32.round rne (.fin ⟨1, 1, k⟩)))) ∧
       conv (.cvtnF f) 32 4 1 (fun c _ x => narrowE2m1 c (x.map fp32.value)) ∧
       conv (.cvtwF f) 4 32 0 (fun c j x => (widenBlock fp32 c (e8m0Value (codeAt v63 j)) (x.map e2m1.value), 0)) ∧
       (f.fn = 4 ∨ f.fn = 5 →
         let fmt := if f.fn = 4 then fp32 else bf16
         let w := if f.fn = 4 then 32 else 16
         conv (.rotv f) w w 0 (fun c _ x => (rotateSame fmt false c x, 0)) ∧
         conv (.unrotv f) w w 0 (fun c _ x => (rotateSame fmt true c x, 0))) ∧
       (f.fn = 1 → conv (.cvti f) 16 8 1 (fun c _ x => narrowI8 c (x.map (toSigned 16)))) ∧
       (f.fn = 2 → conv (.cvti f) 8 2 1 (fun c j x => narrowT2 c (codeAt v63 j) (x.map (toSigned 8)))) ∧
       (f.fn = 5 → conv (.cvti f) 8 16 0 (fun c j x => (widenI16 c (codeAt v63 j) (x.map (toSigned 8)), 0))) ∧
       (f.fn = 1 ∨ f.fn = 2 → ∀ b, (blocksOf ((r {}).idx.toNat % 32) n s.self.active).find?
           (fun b => !sigmaOk (sigmaAt v63 b.j)) = some b →
         exec (.cvtn f) s = .next (s.raise SCALE_INVALID (word b.j)) ∧
         exec (.cvtw f) s = .next (s.raise SCALE_INVALID (word b.j)))) ∧
     (s.self.long = false → exec (.cvtnF f) s = .next (s.raise MODE s.self.pc) ∧
       exec (.cvtwF f) s = .next (s.raise MODE s.self.pc) ∧ exec (.rotv f) s = .next (s.raise MODE s.self.pc) ∧
       exec (.unrotv f) s = .next (s.raise MODE s.self.pc) ∧ exec (.qscale f) s = .next (s.raise MODE s.self.pc)) ∧
     (s.self.long = true → s.vround {} = .ok (q {}) → s.vround px = .ok (q px) →
       let mx : Bool := f.fn = 3
       let w := if mx then 1 else 4
       let out (px : Prefix) (r : Rnd) : List Byte :=
         let off := r.idx.toNat % 32
         let t := s.self.tag px
         (blocksOf off n s.self.active).foldl (fun v b =>
           let c : BlockCtx := ⟨r, t, s.self.seed t, r.idx - word off + word (32 * b.j)⟩
           let x := b.source (codes (if mx then 32 else 16) n a)
           splice v (w * b.j) (leBytes w (if mx then (narrowE2m1 c (x.map fp32.value)).2
             else scaleFor c (if f.fn = 1 then 448 else 57344) (x.map bf16.value)))) (s.self.vreg f.d.toNat)
       exec (.qscale f) s = .next (s.yields f.d 4 (out {} (q {}))) ∧
       exec (.prefixedPair px (.qscale f)) s = .next (s.yields f.d 8 (out px (q px))))) ∧
  (∀ (s : State) (f : FA) (a b : Word),
     (s.source f.a a → 1 ≤ f.d.toNat → f.d.toNat < 16 →
       ∃ t, exec (.seed f) s = .next t ∧ t.self.seed f.d.toNat = a ∧
         (∀ k, k ≠ f.d.toNat → t.self.seed k = s.self.seed k) ∧ t.self.g = s.self.g ∧ t.self.pc = (s.self.advance 4).pc) ∧
     (s.settled (.g f.d.toNat) →
       exec (.seedq f) s = .next (s.gains f.d 4 (if f.a = 0 then 0 else (s.self.sd[f.a.toNat]?).getD 0))) ∧
     (s.source f.a a →
       exec (.srseed f) s = .next (s.mapSelf (fun st => Strand.advance { st with srs := mix64 a, eidx := 0 } 4))) ∧
     (s.source f.a a → s.source f.b b → b.toNat ≤ 15 → s.settled (.g f.d.toNat) →
       exec (.rtag f) s = .next (s.gains f.d 4
         ((a.extractLsb' 60 4 ++ b.extractLsb' 0 4 ++ a.extractLsb' 0 56 : BitVec 64)))) ∧
     (s.source f.a a → s.source f.b b → 15 < b.toNat → exec (.rtag f) s = .next (s.raise ILL_FIELD b)) ∧
     (s.source f.a a → s.source f.b b → b.toNat ≤ 255 → s.settled (.g f.d.toNat) →
       (b.toNat / 16 ∈ [0, 1, 4, 5, 6, 7, 8] →
         exec (.mtag f) s = .next (s.gains f.d 4 ((b.extractLsb' 0 8 ++ a.extractLsb' 0 56 : BitVec 64)))) ∧
       (b.toNat / 16 ∉ [0, 1, 4, 5, 6, 7, 8] → exec (.mtag f) s = .next (s.raise FMT_MISMATCH b))))

/-- 03 R111, R112, R116: the signed block Hadamard rotation is undone by its inverse on exact integers, up to the factor
2^5 that unrotating divides out. -/
def Obligations.RotationIsInvertible : Prop :=
  ∀ (seed pos0 : Word) (x : List Int), x.length = 32 →
    ∃ y : List Int, rotateInts seed pos0 x = y ∧ y.length = 32 ∧
      signs seed pos0 (hadamard (y.map (fun v => ⟨v, 1, 0⟩))) = x.map (fun v => ⟨32 * v, 1, 0⟩)

/-- R370 to R372, R378, R382, R383, R390, R404, 01 R24: each matrix instruction captures its operands and joins the matrix
queue, unprefixed and under a pair's first word; a scaled form in short mode, or a cooperative one outside a crew of
eight, raises MODE. R380: mcvt marks the registers of its result empty and joins the matrix queue with its rounding,
its tag and the numbers of the results its command delivers; a group past v62 raises ILL_FIELD. -/
def Obligations.MatrixIssue : Prop :=
  (∀ (s : State) (px : Prefix) (f : FA) (a b : Word) (v : List Byte) (p : Nat),
     let product (i : Instr) (bytes : List Byte) : Prop :=
       s.source f.a a → s.source f.b b → exec i s = .next (s.queues 4 i [a, b] bytes) ∧
         exec (.prefixedPair px i) s = .next (s.queues 8 i [a, b] bytes)
     s.self.mq.outstanding.length < 16 →
     exec (.mzero f) s = .next (s.queues 4 (.mzero f) []) ∧
     exec (.macc f) s = .next (s.queues 4 (.macc f) []) ∧
     exec (.prefixedPair px (.macc f)) s = .next (s.queues 8 (.macc f) []) ∧
     (s.source f.a a → exec (.mld f) s = .next (s.queues 4 (.mld f) [a]) ∧
       exec (.mst f) s = .next (s.queues 4 (.mst f) [a]) ∧ exec (.mtr f) s = .next (s.queues 4 (.mtr f) [a]) ∧
       (s.ref 16 16 a = .ok p → exec (.mbar f) s = .next (s.queues 4 (.mbar f) [a] [] (some p))) ∧
       (a.toNat < 2 ^ 33 → 0 < a.toNat % 2 ^ 32 → a.toNat % 2 ^ 32 < 0x7F800000 →
         exec (.mscl f) s = .next (s.queues 4 (.mscl f) [a])) ∧
       (2 ^ 33 ≤ a.toNat → exec (.mscl f) s = .next (s.raise ILL_FIELD a)) ∧
       (a.toNat < 2 ^ 33 → (a.toNat % 2 ^ 32 = 0 ∨ 0x7F800000 ≤ a.toNat % 2 ^ 32) →
         exec (.mscl f) s = .next (s.raise SCALE_INVALID a)) ∧
       (a.toNat ≤ s.self.mq.completion → s.self.mq.completion ≤ s.self.mq.issue →
         exec (.mwait f) s = .next ((s.meets { after := [(s.ownQueue 2, a.toNat)] }).advance 4)) ∧
       (s.self.mq.issue < a.toNat → exec (.mwait f) s = .next (s.raise ILL_FIELD a)) ∧
       (s.self.long = true → 128 ≤ s.crew.vlGrant → a.toNat ≤ 127 → s.settled (.v f.d.toNat) →
         ∃ t, exec (.mrow f) s = .next t ∧ t.self.mq.issue = s.self.mq.issue + 1 ∧
           t.self.mq.cmds.map (fun c => (c.seq, c.op, c.args)) = s.self.mq.cmds.map (fun c => (c.seq, c.op, c.args)) ++
             [(s.self.mq.issue + 1, .mrow f, [a, word s.serial])] ∧
           t.returns = s.returns ++
             [{ id := s.serial, crew := s.self.crew, idx := s.self.idx, dest := .v f.d.toNat
                data := List.replicate 512 none ++ ((s.self.vreg f.d.toNat).drop 512).map some }] ∧
           t.self.pc = (s.self.advance 4).pc ∧ t.self.v = s.self.v) ∧
       (a.toNat ≤ 65535 → ∃ t, exec (.mramp f) s = .next t ∧ t.self = s.self.advance 4 ∧
         (swf {} s.cores = true → (s.core s.self.core).granted = false → a ≠ 0 →
           (t.core s.self.core).ready = true ∧ (t.core s.self.core).hold = a.toNat) ∧
         (swf {} s.cores = true → (s.core s.self.core).granted = true →
           (t.core s.self.core).granted = true ∧ (t.core s.self.core).hold = a.toNat)) ∧
       (65535 < a.toNat → exec (.mramp f) s = .next (s.raise ILL_FIELD a))) ∧
     product (.mma f) [] ∧
     (s.crew.size = 8 → product (.mmaC f) []) ∧
     (s.self.long = true → s.sourceV 63 v → product (.mmas f) v) ∧
     (s.self.long = true → s.crew.size = 8 → s.sourceV 63 v → product (.mmax f) v) ∧
     (s.self.long = false → exec (.mmas f) s = .next (s.raise MODE s.self.pc) ∧
       exec (.mmax f) s = .next (s.raise MODE s.self.pc) ∧ exec (.mcvt f) s = .next (s.raise MODE s.self.pc)) ∧
     (s.crew.size ≠ 8 → exec (.mmaC f) s = .next (s.raise MODE s.self.pc))) ∧
  (∀ (s : State) (px : Prefix) (f : FA) (v : List Byte) (r : Prefix → Rnd),
     let narrow : Bool := f.fn.toNat / 2 ≠ 0
     let size := 8 * s.crew.vlGrant
     let bytes := if narrow then 16384 else 32768
     let n := (bytes + size - 1) / size
     let regs := (List.range n).map (· + f.d.toNat)
     let done (len : Nat) (px : Prefix) (i : Instr) : Prop :=
       ∃ t, exec i s = .next t ∧ t.self.mq.issue = s.self.mq.issue + 1 ∧
         t.self.mq.cmds.map (fun c => (c.seq, c.op, c.args, c.bytes)) =
           s.self.mq.cmds.map (fun c => (c.seq, c.op, c.args, c.bytes)) ++
             [(s.self.mq.issue + 1, .mcvt f, [(r px).idx, (r px).srs, word (r px).mode, word (r px).sat,
               word (s.self.tag px), s.self.seed (s.self.tag px), word size] ++
               (List.range n).map (fun k => word (s.serial + k)), v)] ∧
         t.returns.map (fun x => (x.id, x.dest)) = s.returns.map (fun x => (x.id, x.dest)) ++
           (List.range n).map (fun k => (s.serial + k, .v (f.d.toNat + k))) ∧
         t.self.pc = (s.self.advance len).pc ∧ t.self.v = s.self.v ∧ s.sameMemory t
     s.self.long = true → s.sourceV 63 v → s.rround {} = .ok (r {}) → s.rround px = .ok (r px) →
     (f.d.toNat + n - 1 ≤ 62 → (narrow = true → 2052 ≤ size) → 0 < size → s.self.mq.outstanding.length < 16 →
       (∀ k ∈ regs, s.settled (.v k)) → done 4 {} (.mcvt f) ∧ done 8 px (.prefixedPair px (.mcvt f))) ∧
     (62 < f.d.toNat + n - 1 → exec (.mcvt f) s = .next (s.raise ILL_FIELD (f.d.setWidth 64))))

/-! ## The crane's instructions (13) -/

/-- R396 to R399, R402 to R406: each crane instruction reads and checks its descriptor, captures its operands, joins the
crane queue and answers its sequence number; a follow-on joins the matrix queue behind its copy; crnq answers the
queue's numbers, crnw queues a wait, crn.x completes every unbegun command behind a number without effect, whatever
their count, cancels their follow-ons, and leaves every other one as it was. -/
def Obligations.CraneIssue : Prop :=
  ∀ (s : State) (f : FA) (a b : Word) (bs r : List Byte) (bar fbar : Option Nat) (p : Nat) (q : QueueRef)
    (u w : State),
    let d := copyDesc bs
    let n := s.self.cq.issue + 1
    let room := s.self.cq.outstanding.length < 16
    let queued (t : State) (op : Instr) (args : List Word) (bytes : List Byte) (bar : Option Nat) (scope : Nat) : Strand :=
      { s.self with cq := { s.self.cq with issue := n, cmds := s.self.cq.cmds ++
        [{ seq := n, pc := s.self.pc, who := s.issuer, op, args, bytes, born := t.serial, bar, scope }] } }
    let copies (i : Instr) (k : CopyForm) : Prop :=
      (d.check k a = .ok () → s.barrierOf d.baren d.bar = .ok bar → s.extentsOk d k = .ok () → s.settled (.g f.d.toNat) →
        room → exec i s = .next { u with self := ((queued u i [] bs bar d.scope).setG f.d.toNat (word n)).advance 4 }) ∧
      (∀ code x, d.check k a = .error (.fault code x) → exec i s = .next (s.raise code x))
    s.source f.a a →
    (s.issueRead a 64 = .ok (bs, u) → u.self = s.self ∧ s.sameMemory u ∧ u.serial = s.serial + 1 ∧
      copies (.crn f) .copy ∧ copies (.crnT f) .turn ∧ copies (.crnC f) .fill ∧
      (s.source f.b b → s.ref 32 32 b = .ok p → d.check .ring a = .ok () → s.barrierOf d.baren d.bar = .ok bar →
        s.extentsOk d .ring = .ok () → s.settled (.g f.d.toNat) → room →
        exec (.crnR f) s = .next { u with
          self := ((queued u (.crnR f) [b, word p] bs bar d.scope).setG f.d.toNat (word n)).advance 4 }) ∧
      (∀ i g coop scaled, s.source f.b b → u.issueRead b 32 = .ok (r, w) → d.check .copy a = .ok () →
        followOn r = some (i, g, coop, scaled) → scaled = false → (coop = true → s.crew.size = 8) →
        s.barrierOf d.baren d.bar = .ok bar → s.barrierOf ((field r 4 4).testBit 0) (leWord (slice r 0x18 8)) = .ok fbar →
        s.extentsOk d .copy = .ok () → s.settled (.g f.d.toNat) → room → s.self.mq.outstanding.length < 16 →
        let m : Queue := { s.self.mq with issue := s.self.mq.issue + 1, cmds := s.self.mq.cmds ++
          [{ seq := s.self.mq.issue + 1, pc := s.self.pc, who := s.issuer, op := i, born := w.serial, bar := fbar, after := n
             args := [leWord (slice r 8 8), leWord (slice r 0x10 8)] }] }
        exec (.crnF f) s = .next { w with
          self := (Strand.setG { queued w (.crnF f) [] bs bar d.scope with mq := m } f.d.toNat (word n)).advance 4 }) ∧
      (s.source f.b b → u.issueRead b 32 = .ok (r, w) → d.check .copy a = .ok () → followOn r = none →
        exec (.crnF f) s = .next (s.raise ILL_FIELD b))) ∧
    (s.settled (.g f.d.toNat) →
      (a = 0 → exec (.crnq f) s = .next (s.gains f.d 4 (word s.self.cq.issue))) ∧
      (a = 1 → exec (.crnq f) s = .next (s.gains f.d 4 (word s.self.cq.completion))) ∧
      (a = 2 → exec (.crnq f) s = .next (s.gains f.d 4 (word (match s.self.cq.latch with
        | some l => l.code.toNat * 2 ^ 56 + l.seq % 2 ^ 56
        | none => 0)))) ∧
      (a = 3 → exec (.crnq f) s = .next (s.gains f.d 4 (word (Config.cqEnt - s.self.cq.outstanding.length))))) ∧
    (3 < a.toNat → exec (.crnq f) s = .next (s.raise ILL_FIELD a)) ∧
    (s.source f.b b → s.resolveQueue s.issuer s.crew.size b.toNat = .ok q → q ≠ s.ownQueue 1 →
      (q = s.ownQueue 2 → a.toNat ≤ s.self.mq.issue) → room →
      exec (.crnw f) s = .next { s with self := (queued s (.crnw f) (a :: queueWords q) [] none 3).advance 4 }) ∧
    (s.source f.b b → s.resolveQueue s.issuer s.crew.size b.toNat = .ok q → q = s.ownQueue 1 →
      exec (.crnw f) s = .next (s.raise ILL_FIELD b)) ∧
    ((∀ c ∈ s.self.cq.cmds, c.done = true ∨ c.stage ≠ 0 ∨ c.seq ≤ a.toNat ∨ c.isWait = true) →
      ∃ t, exec (.crnX f) s = .next t ∧ t.self.pc = (s.self.advance 4).pc ∧ t.self.cq = s.self.cq ∧ s.sameMemory t) ∧
    (s.chains = [] → (s.self.cq.cmds.map (·.seq)).Nodup →
      let gone (c : Cmd) : Prop := c ∈ s.self.cq.cmds ∧ c.done = false ∧ c.stage = 0 ∧ a.toNat < c.seq ∧ c.isWait = false
      (∀ c, gone c → c.bar = none) →
      ∃ t, exec (.crnX f) s = .next t ∧ t.self.pc = (s.self.advance 4).pc ∧ t.self.cq.issue = s.self.cq.issue ∧
        t.self.cq.latch = s.self.cq.latch ∧ s.sameMemory t ∧
        (∀ c, gone c → ∀ e ∈ t.self.cq.cmds, e.seq = c.seq → e.done = true) ∧
        (∀ c ∈ s.self.cq.cmds, c.done = false → ¬ gone c → c ∈ t.self.cq.cmds) ∧
        (s.self.cq.latch = none → ∀ c, gone c → ∀ e ∈ s.self.mq.cmds, e.after = c.seq →
          { e with cancelled := true, after := 0, spoiled := none } ∈ t.self.mq.cmds)) ∧
    (∀ c, s.self.cq.cmds = [c] → c.done = false → a.toNat < c.seq → c.isWait = false → c.bar = none →
      c.stage = 0 → s.chains = [] →
      c.seq = s.self.cq.completion + 1 → s.self.crew ≠ 0 → s.self.mq.cmds = [] →
      ∃ t, exec (.crnX f) s = .next t ∧ t.self.pc = (s.self.advance 4).pc ∧ t.self.cq.completion = c.seq ∧
        t.self.cq.cmds = [] ∧ t.self.cq.latch = s.self.cq.latch ∧ s.sameMemory t)

/-! ## Compressed halves (02 R48) -/

/-- R47, R48: each compressed arithmetic, branch and loop half has the effect of the instruction it expands to, over two
bytes: registers g0 to g15, offsets in halfwords from the half's own address. -/
def Obligations.CompressedHalves : Prop :=
  ∀ (s : State) (r : CR) (i : CI) (b : CB) (j : CJ) (x y : Word),
    let d : Reg := r.d.setWidth 6
    let e : Reg := i.d.setWidth 6
    let to_ {n : Nat} (off : BitVec n) : Word := s.self.pc + off.signExtend 64 * 2
    let go (c : Bool) : Host.Outcome State Fault Refusal :=
      .next (s.mapSelf (fun st => if c then st.branch (to_ b.off) else st.advance 2))
    (s.source (r.a.setWidth 6) y → s.settled (.g r.d.toNat) → exec (.cMv r) s = .next (s.gains d 2 y)) ∧
    (s.source d x → s.source (r.a.setWidth 6) y → s.settled (.g r.d.toNat) →
      exec (.cAdd r) s = .next (s.gains d 2 (x + y)) ∧ exec (.cSub r) s = .next (s.gains d 2 (x - y)) ∧
      exec (.cAnd r) s = .next (s.gains d 2 (x &&& y)) ∧ exec (.cOr r) s = .next (s.gains d 2 (x ||| y)) ∧
      exec (.cXor r) s = .next (s.gains d 2 (x ^^^ y))) ∧
    (s.source e x → s.settled (.g i.d.toNat) →
      exec (.cAddi i) s = .next (s.gains e 2 (x + i.imm.signExtend 64)) ∧
      exec (.cShli i) s = .next (s.gains e 2 (x <<< (i.imm.toNat % 64))) ∧
      exec (.cShri i) s = .next (s.gains e 2 (x >>> (i.imm.toNat % 64)))) ∧
    (s.settled (.g i.d.toNat) → exec (.cLi i) s = .next (s.gains e 2 (i.imm.signExtend 64))) ∧
    (s.source (b.a.setWidth 6) x →
      exec (.cBeqz b) s = go (x = 0) ∧ exec (.cBnez b) s = go (x ≠ 0) ∧
      exec (.cBrb b) s = .next (s.mapSelf (fun st =>
        let w := st.setG b.a.toNat (x - 1)
        if x - 1 ≠ 0 then w.branch (to_ b.off) else w.advance 2))) ∧
    (b.a = 0 → wellFormed (.cBrb b) = false) ∧
    exec (.cJmp j) s = .next (s.mapSelf (fun st => st.branch (to_ j.off))) ∧
    (s.source (r.a.setWidth 6) y →
      (y.getLsbD 0 = false → exec (.cJr r) s = .next (s.mapSelf (fun st => st.goto y))) ∧
      (y.getLsbD 0 = true → exec (.cJr r) s = .next (s.raise ALIGN y))) ∧
    exec (.cNop r) s = .next (s.mapSelf (fun st => st.advance 2)) ∧
    (∀ l, s.self.loops[r.x.toNat]? = some l → s.settled (.g r.d.toNat) →
      exec (.cLidx r) s = .next (s.gains d 2 l.index)) ∧
    (s.self.loops.length ≤ r.x.toNat → exec (.cLidx r) s = .next (s.raise LOOP_DEPTH (word r.x.toNat)))

/-! ## The bead engine (14) -/

/-- R440 to R445, R452: a lane load or store checks its elements and issues one strong access for each active one; a lane
store writes the cells of its rod and no others (one that has passed its checks only waits: it is not checked again);
the issue of an entry or of a run command checks its operands, places one command in the channel's queue and goes on;
bfence waits for a number; bstat answers the queue's numbers, modes, watchdog and fault address, and clears a latch in
supervisor mode. Where these rules name no address for a fault, it is the model's choice (log 16): PC for bstat's
PRIV, g[a] for a bad SEL and for rows outside the partition. That a lane access wakes its bank is log 26's reading. -/
def Obligations.BeadIssue : Prop :=
  ∀ (s : State) (f : FA) (a b : Word) (bs : List Byte) (u : State),
    let room (k : Nat) : Prop := (s.chan k).queue.outstanding.length < Config.bqEnt
    let queued (t : State) (k : Nat) (op : Instr) (args : List Word) (bytes : List Byte) : State :=
      t.setChan k (fun ch => { ch with queue := { ch.queue with
        issue := ch.queue.issue + 1
        cmds := ch.queue.cmds ++ [{ seq := ch.queue.issue + 1, pc := s.self.pc, who := s.issuer, op, args, bytes, born := t.serial }] } })
    let chanOf (a : Word) : Nat := wbits a 50 47 * 32 + wbits a 46 42
    let mine (n : Nat) : Prop := sget none s.subOwner (subId (chanOf a) n (wbits a 37 32)) = some s.crew.asid
    s.source f.a a → s.source f.b b →
    (b.toNat ≤ 63 → s.issueRead a 128 = .ok (bs, u) → (∃ n, n < 16 ∧ (field bs 6 2).testBit n = true) →
      bitsOf (field bs 0 8) 32 16 = 0 → field bs 0x10 16 = 0 → field bs 0x60 32 = 0 →
      (∀ n, n < 8 → slotFault bs n = none) →
      (∀ n ∈ blockBanks bs, sget none s.subOwner (subId (blockChan bs) n (blockSub bs)) = some s.crew.asid) →
      (blockArg bs 0 ≠ 0 → blockArg bs 1 ≠ 0 → ptrFmt (blockArg bs 0) = ptrFmt (blockArg bs 1) ∧
        ptrTag (blockArg bs 0) = ptrTag (blockArg bs 1)) →
      s.settled (.g f.d.toNat) → room (blockChan bs) →
      exec (.bcall f) s = .next ((State.mapSelf (queued u (blockChan bs) (.bcall f) [b] bs) (fun st =>
        st.setG f.d.toNat (word ((s.chan (blockChan bs)).queue.issue + 1)))).advance 4)) ∧
    (63 < b.toNat → exec (.bcall f) s = .next (s.raise ILL_FIELD b)) ∧
    (∀ k, s.beadQueue a a.toNat true = .ok k → b.toNat ≤ (s.chan k).queue.completion →
      exec (.bfence f) s = .next ((s.meets { after := [(.bead k, b.toNat)] }).advance 4)) ∧
    (∀ k, s.beadQueue a a.toNat true = .ok k → (s.chan k).queue.completion < b.toNat →
      exec (.bfence f) s = .next (s.onStop s.retry)) ∧
    (let good := wbits b 10 0 ≠ 0 ∧ wbits a 31 22 + wbits b 10 0 ≤ 1024 ∧ wbits b 63 32 = 0 ∧ wbits b 15 11 = 0
     let issued (op : Instr) : Prop := exec op s = .next ((queued s (chanOf a) op [a, b] []).advance 4)
     (good → room (chanOf a) → mine (wbits a 41 38) →
        issued (.bseal f) ∧ (wbits b 31 16 ≠ 0 → issued (.block f) ∧ issued (.bunlk f))) ∧
     (good → room (chanOf a) → issued (.bscrub f)) ∧
     (good → ¬ mine (wbits a 41 38) → exec (.bseal f) s = .next (s.raise SPACE_RANGE a) ∧
        (wbits b 31 16 ≠ 0 → exec (.block f) s = .next (s.raise SPACE_RANGE a) ∧
          exec (.bunlk f) s = .next (s.raise SPACE_RANGE a))) ∧
     (wbits b 31 16 = 0 → exec (.block f) s = .next (s.raise ILL_FIELD b) ∧ exec (.bunlk f) s = .next (s.raise ILL_FIELD b)) ∧
     (wbits b 10 0 = 0 → exec (.bseal f) s = .next (s.raise ILL_FIELD b) ∧ exec (.bscrub f) s = .next (s.raise ILL_FIELD b))) ∧
    (∀ k, wbits a 63 36 = 0 → s.beadQueue a (wbits a 31 0) true = .ok k → s.settled (.g f.d.toNat) →
      let sel := wbits a 35 32
      (sel = 0 → exec (.bstat f) s = .next (s.gains f.d 4 (word (s.chan k).queue.issue))) ∧
      (sel = 1 → exec (.bstat f) s = .next (s.gains f.d 4 (word (s.chan k).queue.completion))) ∧
      (sel = 2 → exec (.bstat f) s = .next (s.gains f.d 4 (word (s.chan k).queue.latched))) ∧
      (let modes (x : Nat) := (List.range 16).foldl (fun v n => if ((s.chan k).mode[n]?).getD 0 = x then v + 2 ^ n else v) 0
       sel = 3 → exec (.bstat f) s = .next (s.gains f.d 4 (word (modes 1 + 2 ^ 16 * modes 2 +
        2 ^ 32 * b2n ((s.chan k).entry.isSome && (s.chan k).parked == 0) + 2 ^ 33 * b2n ((s.chan k).parked != 0))))) ∧
      (6 < sel → exec (.bstat f) s = .next (s.raise ILL_FIELD a)) ∧
      (sel = 4 → exec (.bstat f) s = .next (s.gains f.d 4 (word (s.chan k).wd.toNat))) ∧
      (sel = 5 → exec (.bstat f) s = .next (s.gains f.d 4 (((s.chan k).queue.latch.map (fun l => l.addr)).getD 0))) ∧
      (sel = 6 → s.self.priv = false → exec (.bstat f) s = .next (s.raise PRIV s.self.pc)) ∧
      (sel = 6 → s.self.priv = true → exec (.bstat f) s =
        .next (State.gains (s.setChan k (fun c => { c with queue := { c.queue with latch := none } })) f.d 4
          (word (s.chan k).queue.latched)))) ∧
    (let n := s.self.count (container a)
     let els := (List.range n).filter s.self.active
     let first := wbits a 21 9 + b.toNat
     s.checkBead s.crew.asid a b.toNat els true = .ok () → s.settled (s.self.vdest f.d.toNat) →
      exec (.ldB f) s = .next ((State.issueLanes ((s.wakeBank (chanOf a) (wbits a 41 38)).produce (s.self.vdest f.d.toNat)
        ((s.self.vreg f.d.toNat).zipIdx.map (fun x => if els.contains (x.2 / container a) then none else some x.1))).1
        0xB0 a (fun e => .laneLoad a (first + e) (container a)) (fun e => some (s.serial, container a * e)) els).advance 4)) ∧
    (∀ v, let n := s.self.count (container a)
     let els := (List.range n).filter s.self.active
     let first := wbits a 21 9 + b.toNat
     s.sourceV f.d v → s.checkBead s.crew.asid a b.toNat els false = .ok () →
      exec (.stB f) s = .next ((State.issueLanes (s.wakeBank (chanOf a) (wbits a 41 38)) 0xB1 a (fun e =>
        .laneStore a (first + e) (toSigned (8 * container a) (el (elems (container a) n v) e))) (fun _ => none)
        els).advance 4)) ∧
    (∀ (r : Req) (rod : Nat), s.ordered r = true →
      let checks := s.checkBead r.who.asid a (rod - ptrCol a) [0] r.op.isLoad = .ok ()
      let waits := s.laneWaits (chanOf a) (wbits a 41 38) (wbits a 37 32) (ptrRows a) = true
      (∀ w, r.op = .laneLoad a rod w → checks → s.laneTurn r = State.tidy (State.dropReq (State.record
        ((s.wakeBank (chanOf a) (wbits a 41 38)).deliver r.ret (leBytes w (ofSigned (8 * w) (s.beadElem a rod))))
        { s.eventOf r 0 s.writes with strong := true, words := cellsOf a rod }) r.id)) ∧
      (∀ v : Int, r.op = .laneStore a rod v → r.again = false → waits → s.laneTurn r = s) ∧
      (∀ v : Int, r.op = .laneStore a rod v → (r.again = false ∧ ¬ waits ∨ checks) → s.Inv → rod < 8192 →
        let t := s.laneTurn r
        (wbits a 63 60 ≤ 1 → ∀ i, i < wbits a 55 51 → t.cell a i rod = (ofSigned (wbits a 55 51) v).testBit i) ∧
        (∀ i x, i < wbits a 55 51 → x < 8192 → x ≠ rod → t.cell a i x = s.cell a i x) ∧
        (∀ p, (∀ i, i < wbits a 55 51 → p ≠ cellPlace a i rod) → Memory.get t.mem p = Memory.get s.mem p))) ∧
    (∀ (r : Req) (rod w : Nat) (code : BitVec 8) (x : Word), s.ordered r = true → r.op = .laneLoad a rod w →
      s.checkBead r.who.asid a (rod - ptrCol a) [0] true = .error (.fault code x) →
      s.laneTurn r = s.reqFault r code x)

/-- R446 to R450: bcsl reads and checks the image and queues its loading; bsave parks a running entry at a micro-loop
boundary and else copies the valid work rows; brest resumes a parked entry, or copies the save rows back; bwdog sets
WD; bmode and bpart queue their commands. The order of the checks of MODE, VA_NONCANON, ALIGN and the identifier is
the model's choice (log 16), and so is that a save row never written restores as zeros (log 10). -/
def Obligations.BeadSupervisorIssue : Prop :=
  ∀ (s : State) (f : FA) (a b : Word) (bs : List (List Byte)),
    let room (k : Nat) : Prop := (s.chan k).queue.outstanding.length < Config.bqEnt
    let queued (t : State) (k : Nat) (op : Instr) (args : List Word) (bytes : List Byte) : State :=
      t.setChan k (fun ch => { ch with queue := { ch.queue with
        issue := ch.queue.issue + 1
        cmds := ch.queue.cmds ++ [{ seq := ch.queue.issue + 1, pc := s.self.pc, who := s.issuer, op, args, bytes, born := t.serial }] } })
    let chanOf (a : Word) : Nat := wbits a 50 47 * 32 + wbits a 46 42
    let named (x : Word) (k : Nat) : Prop :=
      x.toNat = 3 * 2 ^ 28 + k / 32 * 2 ^ 24 + k % 32 ∧ k < 512
    s.source f.a a → s.source f.b b →
    (∀ k, named b k → s.mod.duty.getLsbD 2 = false → canonical a = true → a.toNat % 64 = 0 →
      (List.range 66).mapM (fun i => s.strongRead (a + word (64 * i)) 64) = .ok bs →
      (imageFault bs.flatten = none → room k →
        let u := (List.range 66).foldl (fun t i => t.lookedAt (a + word (64 * i)) 64) s
        s.sameMemory u ∧ exec (.bcsl f) s = .next ((queued u k (.bcsl f) [a] bs.flatten).advance 4)) ∧
      (∀ o, imageFault bs.flatten = some o → exec (.bcsl f) s = .next (s.raise BEAD_ENTRY (a + word o)))) ∧
    (s.mod.duty.getLsbD 2 = false → canonical a = false → exec (.bcsl f) s = .next (s.raise VA_NONCANON a)) ∧
    (s.mod.duty.getLsbD 2 = false → canonical a = true → a.toNat % 64 ≠ 0 → exec (.bcsl f) s = .next (s.raise ALIGN a)) ∧
    (∀ k, named a k → (s.chan k).parkersDone = [] →
      ((s.chan k).entry = none → exec (.bsave f) s = .next (State.advance { s with
        saveRows := ((List.range 16).flatMap (fun n => s.workRows.filter (fun x =>
          subId k n 0 * 8 ≤ x.1 && x.1 < subId k n 64 * 8))).foldl (fun m x => sset none m x.1 x.2) s.saveRows } 4)) ∧
      (∀ e, (s.chan k).entry = some e →
        ((s.chan k).parked ≠ 0 → exec (.bsave f) s = .next (s.advance 4)) ∧
        ((s.chan k).parked = 0 → e.atRep = true → ∃ t, exec (.bsave f) s = .next t ∧ t.self = s.self.advance 4 ∧
          t.chan k = { s.chan k with
            entry := some { e with count := e.count + (s.tide - e.since), since := s.tide }
            parked := 1, parkers := [], parkersDone := (s.chan k).parkers } ∧ s.sameMemory t) ∧
        ((s.chan k).parked = 0 → e.atRep = false → (s.chan k).parkers = [] →
          exec (.bsave f) s = .next (s.onStop (State.retry (s.setChan k (fun c =>
            { c with parkers := [(s.self.crew, s.self.idx)] }))))))) ∧
    (∀ k, named a k → s.chanDown k = false →
      let u := (List.range 16).foldl (fun t n => t.wakeBank k n) s
      (∀ e, (s.chan k).entry = some e → (s.chan k).parked ≠ 0 → ∃ t, exec (.brest f) s = .next t ∧
        t.self = s.self.advance 4 ∧ t.chan k = { u.chan k with entry := some { e with since := s.tide }, parked := 0 } ∧
        t.workRows = (blockBanks e.cmd.bytes).foldl (fun m n =>
          keyRange m (subId k n 0 * 8) (subId k n 64 * 8) s.saveRows) u.workRows) ∧
      ((s.chan k).entry = none → ∃ t, exec (.brest f) s = .next t ∧ t.self = s.self.advance 4 ∧ t.chans = u.chans ∧
        s.sameMemory t ∧ ∀ n sub w, n < 16 → sub < 64 → w < 8 →
          sget none t.workRows (subId k n sub * 8 + w) = some ((sget none s.saveRows (subId k n sub * 8 + w)).getD 0))) ∧
    (∀ k, named a k →
      (b.toNat < 2 ^ 32 → exec (.bwdog f) s = .next ((s.setChan k (fun c => { c with wd := b.setWidth 32 })).advance 4)) ∧
      (2 ^ 32 ≤ b.toNat → exec (.bwdog f) s = .next (s.raise ILL_FIELD b))) ∧
    (room (chanOf a) → exec (.bmode f) s = .next ((queued s (chanOf a) (.bmode f) [a] []).advance 4)) ∧
    (room (chanOf a) → wbits b 63 17 = 0 → exec (.bpart f) s = .next ((queued s (chanOf a) (.bpart f) [a, b] []).advance 4)) ∧
    (wbits b 63 17 ≠ 0 → exec (.bpart f) s = .next (s.raise ILL_FIELD b))

/-- R444, R446, R449 to R451: what a run command, a control-store load, a mode change, an assignment or a scrub does when
it executes at the head of its channel's queue, once the claim of the rows it names is granted (01 R37). That a bseal,
a bpart and a bscrub wake their bank is log 26's reading. R428, R430, R433, R437 and 01 R37: an entry begins with its
counters and row set once its claim of the rows is granted, waits with its place among the claims until then, or fails
its checks; the watchdog ends an entry that has run too long; refresh changes nothing; an idle bank in power-down-
allowed mode goes down. -/
def Obligations.BeadCommands : Prop :=
  (∀ (s : State) (c : Cmd) (f : FA) (a b : Word),
     let k := s.args.unit
     let n := wbits a 41 38
     let sub := wbits a 37 32
     let row := wbits a 31 22
     let key : BitVec 16 := BitVec.ofNat 16 (wbits b 31 16)
     let rows := (List.range (wbits b 10 0)).map (fun i => row + i)
     let locked (r : Nat) : BitVec 16 := s.lockOf k n sub r
     let clash := rows.find? (fun r => locked r != 0 && locked r != key)
     let ready : Prop := ∃ u, s.rowClaim k c = .ok u
     s.beadHead k = some c → c.args.getD 0 0 = a → c.args.getD 1 0 = b →
     (∀ u, s.rowClaim k c = .error u → (c.op = .block f → exec .blockExec s = .next u) ∧
       (c.op = .bunlk f → exec .bunlkExec s = .next u) ∧ (c.op = .bseal f → exec .bsealExec s = .next u) ∧
       (c.op = .bpart f → exec .bpartExec s = .next u) ∧ (c.op = .bscrub f → exec .bscrubExec s = .next u)) ∧
     (∀ r, ready → clash = some r → c.op = .block f →
       exec .blockExec s = .next (s.beadEnd k c (some (BEAD_LOCKED, beadAddr [n] k sub r 0 0)))) ∧
     (ready → clash = none → c.op = .block f → exec .blockExec s =
       .next ((rows.foldl (fun t r => t.setLock k n sub r key) s).beadEnd k c none)) ∧
     (ready → c.op = .bunlk f → exec .bunlkExec s =
       .next (((rows.filter (fun r => locked r == key)).foldl (fun t r => t.setLock k n sub r 0) s).beadEnd k c none)) ∧
     (∀ r, ready → clash = some r → c.op = .bseal f →
       exec .bsealExec s = .next (s.beadEnd k c (some (BEAD_LOCKED, beadAddr [n] k sub r 0 0)))) ∧
     (ready → clash = none → c.op = .bseal f → exec .bsealExec s = .next (State.beadEnd
       ((rows.filter (fun r => s.stateOfRow k n sub r == .unsealed || s.stateOfRow k n sub r == .expired)).foldl
         (fun t r => t.setRowState k n sub r .isSealed) (s.wakeBank k n)) k c none)) ∧
     (c.op = .bcsl f → exec .bcslExec s = .next ((s.setChan k (fun ch => { ch with store := c.bytes })).beadEnd k c none)) ∧
     (let others := (List.range 16).filter (fun i => i != n && ((s.chan k).mode[i]?).getD 0 = 1)
      c.op = .bmode f →
       (f.fn = 1 → 4 ≤ others.length →
         exec .bmodeExec s = .next (s.beadEnd k c (some (MODE, beadAddr [n] k 0 0 0 0)))) ∧
       ((f.fn = 1 ∧ others.length < 4) ∨ f.fn = 0 → exec .bmodeExec s = .next (State.beadEnd
         ((s.wakeBank k n).setChan k (fun ch => { ch with mode := ch.mode.set n f.fn.toNat })) k c none)) ∧
       (f.fn = 2 → exec .bmodeExec s =
         .next ((s.setChan k (fun ch => { ch with mode := ch.mode.set n 2 })).beadEnd k c none))) ∧
     (let owner := sget none s.subOwner (subId k n sub)
      let asid : BitVec 16 := b.setWidth 16
      ready → c.op = .bpart f →
       (∀ x, owner = some x → x ≠ asid →
         exec .bpartExec s = .next (s.beadEnd k c (some (MODE, beadAddr [n] k sub 0 0 0)))) ∧
       (owner = none ∨ owner = some asid → ∃ t : State, exec .bpartExec s = .next (t.beadEnd k c none) ∧
         t.subOwner = sset none s.subOwner (subId k n sub) (if b.getLsbD 16 then some asid else none) ∧
         (∀ r i, r < 1024 → i < 1024 → Memory.get t.mem (rowPlace k n sub r + i) = 0) ∧
         (∀ r, r < 1024 → t.stateOfRow k n sub r = .isSealed ∧ t.lockOf k n sub r = 0) ∧
         (∀ w, w < 8 → sget none t.workRows (subId k n sub * 8 + w) = none) ∧
         (s.Inv → ∀ p, p < rowPlace k n sub 0 ∨ rowPlace k n (sub + 1) 0 ≤ p → Memory.get t.mem p = Memory.get s.mem p))) ∧
     (ready → c.op = .bscrub f →
       ((s.args.flag = false ∨ s.args.sub ∉ rows ∨ s.stateOfRow k n sub s.args.sub ≠ .isSealed) →
         exec .bscrubExec s = .next ((s.wakeBank k n).beadEnd k c none)) ∧
       (s.args.flag = true → s.args.sub ∈ rows → s.stateOfRow k n sub s.args.sub = .isSealed →
         exec .bscrubExec s = .next (State.beadEnd (((s.wakeBank k n).setRowState k n sub s.args.sub .poisoned).machineCheck
           MC_DRAM_UE (k / 32) c.who.asid (beadAddr [n] k sub s.args.sub 0 0)) k c none)))) ∧
  (∀ (s : State) (c : Cmd) (f : FA) (e : Entry) (n : Nat),
     let k := s.args.unit
     let ch := s.chan k
     let bs := c.bytes
     let sub := blockSub bs
     let fails (code : BitVec 8) (banks : List Nat) (row : Nat) : Prop :=
       exec .beadEntryRun s = .next (s.beadEnd k c (some (code, beadAddr banks k sub row 0 0)))
     (s.beadHead k = some c → c.op = .bcall f →
       (entryStart ch.store (c.args.headD 0).toNat = none → fails BEAD_ENTRY (blockBanks bs) 0) ∧
       (∀ start, entryStart ch.store (c.args.headD 0).toNat = some start →
         let ops := entryReads ch.store start ++ entryWrites ch.store start
         let free (b r : Nat) : Bool := s.lockOf k b sub r == 0 || s.lockOf k b sub r == blockKey bs
         let idle := (blockBanks bs).filter (fun b => (ch.mode[b]?).getD 0 != 1)
         let locked := (blockBanks bs).filter (fun b => (rowsOf bs ops).any (fun r => !free b r))
         (idle ≠ [] → fails BEAD_ENTRY idle 0) ∧
         (idle = [] → (∃ i ∈ slotsOf ops, blockArg bs i = 0) → fails BEAD_ENTRY (blockBanks bs) 0) ∧
         ((∀ b ∈ blockBanks bs, (ch.mode[b]?).getD 0 = 1) → (∀ i ∈ slotsOf ops, blockArg bs i ≠ 0) →
           (∀ u, s.rowClaim k c = .error u → exec .beadEntryRun s = .next u) ∧
           (∀ u, s.rowClaim k c = .ok u → (∀ b ∈ blockBanks bs, ∀ r ∈ rowsOf bs ops, free b r = true) → exec .beadEntryRun s =
             .next (u.setChan k (fun x => { x with
               entry := some { cmd := c, upc := start, last := 0, ctr := (List.range 4).map (blockInit bs)
                               ini := (List.range 4).map (blockInit bs), banks := blockBanks bs, since := s.tide, wd := ch.wd.toNat }
               parked := 0 }))) ∧
           (∀ u b r, s.rowClaim k c = .ok u → locked.head? = some b → (rowsOf bs ops).find? (fun r => !free b r) = some r →
             fails BEAD_LOCKED locked r)))) ∧
     (ch.entry = some e → ch.parked = 0 → 0 < ch.queue.issue → s.chains = [] → e.wd ≠ 0 → e.wd ≤ e.count + (s.tide - e.since) →
       ∃ t : State, exec .beadWatchdogExpire s = .next t ∧ (t.chan k).entry = none ∧
         (t.chan k).mode = ch.mode.map (fun x => if x = 1 then 0 else x) ∧ s.sameMemory t ∧
         (∀ b, b < 16 → (ch.mode[b]?).getD 0 = 1 → ∀ x w, x < 64 → w < 8 →
           sget none t.workRows (subId k b x * 8 + w) = none) ∧
         t.self = s.self) ∧
     (ch.entry = some e → (ch.parked ≠ 0 ∨ e.wd = 0 ∨ e.count + (s.tide - e.since) < e.wd) →
       exec .beadWatchdogExpire s = .next s) ∧
     (ch.entry = none → exec .beadWatchdogExpire s = .next s) ∧
     exec .beadRefresh s = .next s ∧
     (s.args.sub = n → (ch.mode[n]?).getD 0 = 2 → (ch.power[n]?).getD 0 = 0 →
       (s.bankLive k n = false → exec .bankPowerDown s =
         .next (s.setChan k (fun x => { x with power := x.power.set n 1 }))) ∧
       (s.bankLive k n = true → exec .bankPowerDown s =
         .next ((s.saveBank k n).setChan k (fun x => { x with power := x.power.set n 2 })))) ∧
     (s.args.sub = n → (ch.mode[n]?).getD 0 ≠ 2 → exec .bankPowerDown s = .next s))

/-- R422 to R424, R428, R429: what each micro-word does to the running entry: the row words in one bank, the failure of
its only bank, and in every bank of a bank set, those that fail among them; REP counts and loops, BRF branches on the
pass index, WAIT goes on, END seals and completes. R420, R423: a row operand reads and writes as its kind says: work
rows 6 and 7 read complemented, invalid work rows and expired data rows raise BEAD_WATCHDOG, constants read as such
and are not written, and a data row written is unsealed. -/
def Obligations.BeadWords : Prop :=
  (∀ (s : State) (e : Entry) (n : Nat) (a b c : RowRef) (x y z l : Row) (r : Nat),
     let k := s.args.unit
     let ch := s.chan k
     let m := microAt ch.store e.upc
     let sub := blockSub e.cmd.bytes
     let latch := ((e.latch.find? (fun i => i.1 == n)).map (fun i => i.2)).getD 0
     let goes (t : State) (v : Row) (read written : List Nat) : Host.Outcome State Fault Refusal :=
       .next ((t.rowEvents k n sub e.cmd read written s.writes).setChan k (fun i => { i with entry := some { e with
         latch := e.latch.filter (fun j => j.1 != n) ++ [(n, v)]
         wrote := e.wrote ++ (written.map (fun w => (n, w))).filter (fun w => !e.wrote.contains w)
         upc := e.upc + 1, last := e.upc, atSafe := m.isSafe, atRep := false } }))
     let row (i : RowRef) : List Nat := match i with
       | .data w => [w]
       | _ => []
     let word : Instr := if m.op = 0 then .actWord else if m.op = 1 then .aapWord else if m.op = 2 then .traWord
       else if m.op = 3 then .cslWord else .csrWord
     let held (i : Nat) : Row := ((e.latch.find? (fun j => j.1 == i)).map (fun j => j.2)).getD 0
     let fate (i : Nat) : Except WordStop (State × Row) := s.wordIn k i sub m a b c (held i)
     let bad := e.banks.filter (fun i => match fate i with
       | .error (.poison _) => true
       | _ => false)
     let late := e.banks.filter (fun i => match fate i with
       | .error (.watchdog _) => true
       | _ => false)
     let small (i : RowRef) : Prop := ∀ w, i = .data w → w < 1024
     s.mod.tup.getLsbD (k / 32) = true → s.chanDown k = false →
     ch.entry = some e → ch.parked = 0 → e.due s.tide = false →
     (e.banks = [n] → e.rowRef m m.a = some a → e.rowRef m m.b = some b → e.rowRef m m.c = some c →
       (m.op = 0 → s.readRef k n sub a = .ok x → exec .actWord s = goes s x (row a) []) ∧
       (m.op = 1 → s.readRef k n sub a = .ok x → exec .aapWord s = goes (s.writeRef k n sub x b) x (row a) (row b)) ∧
       (m.op = 2 → s.readRef k n sub a = .ok x → s.readRef k n sub b = .ok y → s.readRef k n sub c = .ok z →
         l = (x &&& y) ||| (y &&& z) ||| (x &&& z) → exec .traWord s =
           goes (((s.writeRef k n sub l a).writeRef k n sub l b).writeRef k n sub l c) l (row a ++ row b ++ row c)
             (row a ++ row b ++ row c)) ∧
       (m.op = 3 → exec .cslWord s =
         goes (s.writeRef k n sub ((latch <<< 1) ||| (if m.edge then 1 else 0)) b) latch [] (row b)) ∧
       (m.op = 4 → exec .csrWord s =
         goes (s.writeRef k n sub ((latch >>> 1) ||| (if m.edge then BitVec.twoPow 8192 8191 else 0)) b) latch [] (row b)) ∧
       (s.readRef k n sub a = .error (.watchdog r) →
         let stops := s.endEntry k e.cmd (some (BEAD_WATCHDOG, beadAddr [n] k sub r 0 e.upc))
         (m.op = 0 → exec .actWord s = .next stops) ∧ (m.op = 1 → exec .aapWord s = .next stops) ∧
         (m.op = 2 → exec .traWord s = .next stops)) ∧
       (s.readRef k n sub a = .error (.poison r) → e.failed = [] →
         let stops := State.endEntry (((s.chan k).writeSet e).foldl (fun t w => t.setRowState k n sub w .poisoned)
           (s.setRowState k n sub r .poisoned)) k e.cmd (some (BEAD_POISON, beadAddr [n] k sub r 0 e.upc))
         (m.op = 0 → exec .actWord s = .next stops) ∧ (m.op = 1 → exec .aapWord s = .next stops) ∧
         (m.op = 2 → exec .traWord s = .next stops))) ∧
     (m.op ≤ 4 → s.Inv → k < 512 → e.banks ≠ [] → e.banks.Nodup → (∀ i ∈ e.banks, i < 16) →
       e.rowRef m m.a = some a → e.rowRef m m.b = some b → e.rowRef m m.c = some c → small a → small b → small c →
       ∃ t : State,
         (∀ i w, i < 16 → w < 1024 →
           (∀ u v, i ∈ e.banks → fate i = .ok (u, v) → t.stateOfRow k i sub w = u.stateOfRow k i sub w ∧
             t.rowBits k i sub w = u.rowBits k i sub w ∧
             (w < 8 → sget none t.workRows (subId k i sub * 8 + w) = sget none u.workRows (subId k i sub * 8 + w))) ∧
           (∀ p, i ∈ e.banks → fate i = .error (.poison p) → t.stateOfRow k i sub w =
             if w = p ∨ w ∈ ch.writeSet e then .poisoned else s.stateOfRow k i sub w) ∧
           (i ∉ e.banks ∨ i ∈ late → t.stateOfRow k i sub w = s.stateOfRow k i sub w) ∧
           (i ∉ e.banks ∨ i ∈ late ∨ i ∈ bad → t.rowBits k i sub w = s.rowBits k i sub w ∧
             (w < 8 → sget none t.workRows (subId k i sub * 8 + w) = sget none s.workRows (subId k i sub * 8 + w)))) ∧
         (late = [] → bad ≠ e.banks → ∃ x : Entry,
           exec word s = .next (t.setChan k (fun i => { i with entry := some x })) ∧ x.upc = e.upc + 1 ∧ x.ctr = e.ctr ∧
           x.banks = e.banks.filter (fun i => !bad.contains i) ∧ x.failed = e.failed ++ bad ∧
           ∀ i u v, i ∈ e.banks → fate i = .ok (u, v) → (x.latch.find? (fun j => j.1 == i)).map (fun j => j.2) = some v) ∧
         (∀ i p, late.head? = some i → fate i = .error (.watchdog p) → exec word s =
           .next (t.endEntry k e.cmd (some (BEAD_WATCHDOG, beadAddr late k sub p 0 e.upc)))) ∧
         (∀ i p, late = [] → bad = e.banks → e.failed = [] → bad.head? = some i → fate i = .error (.poison p) → exec word s =
           .next (t.endEntry k e.cmd (some (BEAD_POISON, beadAddr bad k sub p 0 e.upc))))) ∧
     (e.rowRef m m.b = none → m.op = 3 →
       exec .cslWord s = .next (s.endEntry k e.cmd (some (BEAD_ENTRY, beadAddr e.banks k sub 0 0 e.upc)))) ∧
     (m.op = 5 → ch.parkers = [] →
       (1 < e.ctr.getD m.csel 1 → exec .repWord s = .next (s.setChan k (fun i => { i with entry := some { e with
         ctr := e.ctr.set m.csel (e.ctr.getD m.csel 1 - 1), upc := m.tgt, last := e.upc, atSafe := m.isSafe, atRep := true } }))) ∧
       (e.ctr.getD m.csel 1 ≤ 1 → exec .repWord s = .next (s.setChan k (fun i => { i with entry := some { e with
         ctr := e.ctr.set m.csel (e.ini.getD m.csel 1), upc := e.upc + 1, last := e.upc, atSafe := m.isSafe
         atRep := true } })))) ∧
     (m.op = 6 → ∃ u, exec .brfWord s = .next (s.setChan k (fun i => { i with entry := some { e with
         upc := u, last := e.upc, atSafe := m.isSafe, atRep := false } })) ∧
       (let pass := e.ini.getD m.csel 1 - e.ctr.getD m.csel 1
        u = if m.cond = 0 ∨ (m.cond = 1 ∧ pass = 0) ∨ (m.cond = 2 ∧ 0 < pass) then m.tgt else e.upc + 1)) ∧
     (m.op = 7 → exec .waitWord s = .next (s.setChan k (fun i => { i with entry := some { e with
         upc := e.upc + 1, last := e.upc, atSafe := m.isSafe, atRep := false } }))) ∧
     (m.op = 8 → e.failed = [] →
       (m.sealRows = false → exec .endWord s = .next (s.endEntry k e.cmd none)) ∧
       (m.sealRows = true → exec .endWord s = .next (State.endEntry ((e.wrote.filter (fun w => e.banks.contains w.1)).foldl
         (fun t w => t.setRowState k w.1 sub w.2 .isSealed) s) k e.cmd none)))) ∧
  (∀ (s : State) (k n sub w r : Nat) (v : Row),
     w < 8 → r < 1024 →
     (w < 6 → (s.writeRef k n sub v (.work w)).readRef k n sub (.work w) = .ok v) ∧
     (6 ≤ w → (s.writeRef k n sub v (.work w)).readRef k n sub (.work w) = .ok (~~~v)) ∧
     (sget none s.workRows (subId k n sub * 8 + w) = none → s.readRef k n sub (.work w) = .error (.watchdog 0)) ∧
     (s.Inv → (s.writeRef k n sub v (.data r)).readRef k n sub (.data r) = .ok v ∧
       (s.writeRef k n sub v (.data r)).stateOfRow k n sub r = .unsealed ∧
       ∀ p, p < rowPlace k n sub r ∨ rowPlace k n sub (r + 1) ≤ p →
         Memory.get (s.writeRef k n sub v (.data r)).mem p = Memory.get s.mem p) ∧
     (s.stateOfRow k n sub r = .expired → s.readRef k n sub (.data r) = .error (.watchdog r)) ∧
     (s.stateOfRow k n sub r = .poisoned → s.readRef k n sub (.data r) = .error (.poison r)) ∧
     (∀ one, s.readRef k n sub (.const one) = .ok (if one then ~~~0 else 0) ∧ s.writeRef k n sub v (.const one) = s))

/-! ## The home slices' events (10), results (01), translation (15) -/

/-- 10 R317 to R319, R325, R326; 04 R142, R143: what an access that is in order and within reach does where it is
performed: a load answers its bytes and leaves a copy under a new lease; a weak store is performed at once and waits
for the leases that stand; a strong operation sets HOLD while a lease on its unit stands and is performed when the
tide has reached its expiry. Its bytes change, every other byte reads as before; a dirty line that a full L2 writes
back (R321) stands under its own key from then on. A load is served from a copy that the ordering rule allows (04
R134), and a strong one from no other; what that rule allows is the model's reading of 04 R139 over the history of the
accesses performed (log 29, DEDUCED). -/
def Obligations.HomePerforms : Prop :=
  ∀ (s : State) (r : Req) (p n k : Nat) (sg : Bool) (bs : List Byte),
    let key := s.keyOf r.key
    let answered : List Return := match r.ret with
      | none => s.returns
      | some (id, off) => s.returns.map (fun x => if x.id == id then
          let b := (r.op.result r.vector (s.bytesAt key p r.op.size)).map some
          { x with data := x.data.take off ++ b ++ x.data.drop (off + b.length) } else x)
    let holds (t : State) (bs : List Byte) : Prop :=
      (∀ q, q / 128 = p / 128 →
        t.byteAt key q = if p ≤ q ∧ q < p + bs.length then (bs[q - p]?).getD 0 else s.byteAt key q) ∧
      (∀ q, q / 128 ≠ p / 128 → Memory.get t.mem q = Memory.get s.mem q ∧
        sget none t.lineKey (q / 128) = sget none s.lineKey (q / 128)) ∧
      ((Place.isG p = true → s.sliceUsed (sliceOf p) < s.sliceLines (sliceOf p)) →
        ∀ j q, q / 128 ≠ p / 128 → t.byteAt j q = s.byteAt j q) ∧ t.self = s.self ∧ t.peers = s.peers ∧
      t.returns = answered ∧ ∀ e ∈ t.reqs, e ∈ s.reqs ∧ e.id ≠ r.id
    let new := r.op.apply (s.bytesAt key p r.op.size)
    let clear := (∀ t, r.space = .t t → r.addr.toNat + r.op.size ≤ s.tsize t ∧ s.inResize t r.addr.toNat r.op.size = false) ∧ s.poisonHits r p = false
    let waits (t : State) : Prop := t.mem = s.mem ∧ t.self = s.self ∧ t.reqs = s.reqs.map (fun e =>
      if e.id == r.id then { e with arrived := if e.arrived = 0 then s.serial else e.arrived, held := true } else e)
    s.Inv → s.req s.args.unit = some r → s.ordered r = true → r.place = some p → s.stuck p = false →
    s.ownedAt p r.op.size = false → r.space ≠ .win → r.space ≠ .b → r.op ≠ .arrive → p % 128 + r.op.size ≤ 128 → clear →
    s.elementsWith r = [r] → s.veiled r.who false p r.op.size r.op.writes = false → (r.op.writes = true → r.who.crew ≠ 0 → s.hostHeld p r.op.size = false) →
    (∀ w ∈ s.waiters, w.served.isSome = true ∨ (w.need ≠ .claim ∧ w.need ≠ .take)) →
    (r.op = .load n sg → s.args.serve = .home → ∃ t, exec .homeReadRequest s = .next t ∧
      t.mem = s.mem ∧ t.self = s.self ∧ t.returns = answered ∧ (∀ e ∈ t.reqs, e ∈ s.reqs ∧ e.id ≠ r.id) ∧
      (Place.isG p = true → s.mayLease (r.unit s) = true →
        s.tide + (r.holder s).llen ≤ sget 0 t.lexp ((s.learn r.who.asid r.addr p).unitOf r.who.asid r.addr p)) ∧
      (Place.isG p = true → s.mayLease (r.unit s) = false → t.lexp = s.lexp)) ∧
    (r.op = .store bs → r.kind = .weak → ∃ t, exec .homeWeakStore s = .next t ∧ holds t bs ∧
      (Place.isG p = true → ∀ c ∈ s.copies, c.unit = r.unit s → s.tide < c.expiry →
        { req := r.id, ctx := r.who.ctx, crew := r.who.crew, idx := r.who.idx, holder := c.holder, expiry := c.expiry } ∈
          t.leaseWaits)) ∧
    (r.kind ≠ .weak → s.behind r = false →
      (s.leased r p = true →
        (r.op = .store bs → ∃ t, exec .homeStrongWrite s = .next t ∧ waits t) ∧
        (r.op.isRmw = true → ∃ t, exec .homeAtomic s = .next t ∧ waits t)) ∧
      (s.leased r p = false →
        (r.op = .store bs → ∃ t, exec .homeStrongWrite s = .next t ∧ holds t bs) ∧
        (r.op.isRmw = true → ∃ t, exec .homeAtomic s = .next t ∧ holds t new))) ∧
    (r.held = true → s.behind r = false → s.leased r p = false →
      (r.op = .store bs → ∃ t, exec .leaseExpiry s = .next t ∧ holds t bs) ∧
      (r.op.isRmw = true → ∃ t, exec .leaseExpiry s = .next t ∧ holds t new)) ∧
    (r.op = .load n sg → Place.isG p = true → s.args.serve = .miss →
      exec .homeReadRequest s = .next { s with inflight := s.inflight ++
        [if s.missRoom p then { lines := [p / 128], reqs := [r.id] } else { lines := [p / 128], spilled := [r.id] }] }) ∧
    (∀ c, r.op = .load n sg → s.args.serve = .copy k → s.copies[k]? = some c → s.coherent c r = false →
      exec .homeReadRequest s = .next s) ∧
    (∀ c, r.op = .load n sg → r.space = .g → s.args.serve = .copy k → s.copies[k]? = some c →
      s.veiled r.who false (128 * c.line + r.addr.toNat % 128) n false = false →
      s.coherent c r = true ∨ (r.kind = .weak ∧ ∀ x ∈ s.history, x.patch = none) →
      c.serves s r.who.asid r.addr = true → c.read = true → (c.user = true ∨ r.who.user = false) →
      c.holder = r.holder s →
      ∃ t, exec .homeReadRequest s = .next t ∧ t.mem = s.mem ∧ t.lexp = s.lexp ∧ t.returns = (s.deliver r.ret
        (r.op.result r.vector (slice c.data (r.addr.toNat % 128) r.op.size))).returns)

/-- R321, R461, R467; 01 R34; 04 R140: a line that arrives serves the load recorded there; a page walk gives a request its
place or faults; a complete result fills its register; the tide counts, and the tile fetch units renew the lines they
keep pinned (12 R385); headers of chain blocks and lighter queues that are still to be written are tried again then. -/
def Obligations.FillsWalksAndReturns : Prop :=
  ∀ (s : State) (r : Req) (x : Trans) (l : Return) (bs : List Byte),
    (∀ f, s.inflight = [f] → f.lines = [s.args.unit] → f.moving = false → f.reqs = [r.id] → f.spilled = [] →
      s.req r.id = some r → s.unreachable (128 * s.args.unit) = false →
      let u : State := { s.wakeAt (128 * s.args.unit) with inflight := [] }
      (r.op.isLoad = true → exec .lineFillDone s = .next (u.homeRead r .home)) ∧
      (r.op.isStore = true → r.kind = .weak → exec .lineFillDone s = .next (u.homeWeak r)) ∧
      (r.op.isRmw = true ∨ (r.op.isStore = true ∧ r.kind ≠ .weak) → exec .lineFillDone s = .next (u.homeStrong r))) ∧
    (∀ f, s.inflight = [f] → f.lines = [s.args.unit] → s.unreachable (128 * s.args.unit) = true →
      exec .lineFillDone s = .next s) ∧
    (s.inflight = [] → exec .lineFillDone s = .next s) ∧
    (s.req s.args.unit = some r → r.space = .g → r.place = none → r.op.isFence = false → s.args.flag = true →
      (s.crewById r.who.crew).saved = false →
      let t := towerOfSlot (s.slotOf r.who)
      let walk := s.translate t r.who.asid r.who.user (if r.op.isLoad then .r else .w) r.addr
      (walk = .ok x → ∃ u, exec .pageWalk s = .next u ∧ s.sameMemory u ∧ u.self = s.self ∧ u.reqs = s.reqs.map (fun e =>
        if e.id == r.id then { e with place := some x.place, key := x.key, pageUser := x.user,
                                      pageRead := x.read, pageFetch := x.fetch, fault := false }
        else e)) ∧
      (walk = .error .absent → r.who.ctx ≠ bootCtx → r.who.crew = s.self.crew → r.who.idx = s.self.idx →
        ∃ u, exec .pageWalk s = .next u ∧ s.sameMemory u ∧
        u.self = { s.self with pageWait := some r.addr, pageCode := PAGE_NOT_PRESENT } ∧
        ∃ f ∈ u.pageFaults, f.kind = 1 ∧ f.asid = r.who.asid ∧ f.addr.toNat / 65536 = r.addr.toNat / 65536) ∧
      (walk = .error .noSpace → exec .pageWalk s = .next (s.reqFault r PAGE_NOT_PRESENT)) ∧
      (walk = .error .noncanon → exec .pageWalk s = .next (s.reqFault r VA_NONCANON)) ∧
      (∀ p, walk = .error (.waits p) → exec .pageWalk s = .next (s.wakeAt p)) ∧
      (walk = .error .poisoned → exec .pageWalk s = .next (s.reqFault r MC_POISON)) ∧
      (walk = .error .perm → exec .pageWalk s = .next (s.reqFault r PAGE_PERM))) ∧
    (s.returns.find? (fun e => e.id == s.args.unit) = some l → l.data = bs.map some → (s.crewById l.crew).saved = false →
      exec .dataReturn s = .next { (s.mapStrand l.crew l.idx (fun st => st.fill l.dest bs)) with
        returns := s.returns.filter (fun e => e.id != l.id) }) ∧
    (s.returns.find? (fun e => e.id == s.args.unit) = some l → none ∈ l.data → exec .dataReturn s = .next s) ∧
    let quiet := (∀ b ∈ s.chains, b.owed = false) ∧ ∀ f ∈ s.pageFaults, f.kind ≠ 2 ∨ f.state ≠ 4
    (s.tideOn = true → quiet → (∀ e ∈ s.cores, e.2.work = 0) → exec .tideTick s = .next { s with tide := s.tide + 1 }) ∧
    (s.tideOn = true → quiet → ∃ t, exec .tideTick s = .next t ∧ t.tide = s.tide + 1 ∧ t.self = s.self ∧ t.peers = s.peers ∧
      t.mem = s.mem ∧ t.reqs = s.reqs ∧ t.claims = s.claims ∧
      ∀ c ∈ t.copies, c ∈ s.copies ∨ (∃ k, c.holder = .tile k) ∨ ∃ k, c.holder = .tower k) ∧
    (s.tideOn = false → exec .tideTick s = .next s)

/-- 15 R469 to R477, 16 R485, R487: loading a key, a shoot-down and its end, starting and ending a migration, the fates of
a page fault, the record of one in the host's ring, and the host's answer. That writes are ignored while the busy word
is set, what a write of the word at 0x28 does to MGRES, and that the destination of a page without a leaf is checked
as one of 64 KiB, R474 and R478 do not give: they are the model's choices (logs 22, 33). So is it that the lines that
stand dirty under a slot's old key are encrypted under its new one (log 14), and when the ranges of an address space
end: 10 R324 says only when it is destroyed, and the model ends them when, at the end of a shoot-down, the table names
no such space (State.endRanges, log 33, DESIGN CHOICE). -/
def Obligations.TranslationEvents : Prop :=
  ∀ (s u : State) (v : Word) (t : Nat) (f : PageFault),
    let arrives (off : Nat) : Prop :=
      (s.windowStore off = none ∧ off < 0x41000 ∧ s.mod.ports.any (fun up => up) = true ∧ u = s ∧
          v = s.args.value.setWidth 64) ∨
        ∃ r, s.windowStore off = some (r, v) ∧ u = (s.dropReq r.id).tidy
    let reg (o : Nat) : Nat := 0x200000 + 0x1000 * t + o
    let x := u.tower t
    let overWith (w : State) : State := { (w.holdOff 0 (2 ^ 33 + f.id)).holdOff 0 (2 ^ 60 + f.id) with pageFaults := [] }
    (t < 16 → s.args.unit = t →
      (arrives (reg 0x98) →
        let key : BitVec 512 := (v ++ x.keydata.extractLsb' 0 448)
        let w := u.setTower t (fun y => { y with keydata := key })
        (x.kslot = 0 → exec .keyLoad s = .next w) ∧
        (x.kslot ≠ 0 → s.Inv → ∃ z, exec .keyLoad s = .next z ∧ z.keys = sset none u.keys x.kslot.toNat (some key) ∧
          z.towers = w.towers ∧ z.mem = u.mem ∧ z.dirty = u.dirty ∧ z.self = u.self ∧
          (let old := sget none u.keys x.kslot.toNat
           ∀ l, sget none z.lineKey l = if old ≠ none ∧ sget none u.lineKey l = old ∧ sget false u.dirty l = true then some key
            else sget none u.lineKey l))) ∧
      (arrives (reg 0x10) →
        let w := u.setTower t (fun y => { y with sdasid := v.extractLsb' 48 16, sdsize := v.extractLsb' 46 2 })
        (x.sdbusy = true → exec .shootDown s = .next u) ∧
        (x.sdbusy = false → v.getLsbD 0 = false → exec .shootDown s = .next w) ∧
        (x.sdbusy = false → v.getLsbD 0 = true → t < u.towers.length → ∃ z, exec .shootDown s = .next z ∧
          z.towers = (w.setTower t (fun y => { y with
            sdbusy := true, sdmark := u.serial, sdrun := (x.sdva, v.extractLsb' 48 16, v.extractLsb' 46 2)
            sdgone := u.dropped (v.extractLsb' 48 16) (v.extractLsb' 46 2).toNat x.sdva })).towers ∧
          u.sameMemory z ∧
          (∀ e ∈ z.tlb, e ∈ u.tlb ∧ ¬ (e.asid = v.extractLsb' 48 16 ∧
            inShoot (v.extractLsb' 46 2).toNat x.sdva (word (e.page * e.leaf.size)) = true)) ∧
          (∀ e ∈ z.walked, e ∈ u.walked ∧ ¬ (e.asid = v.extractLsb' 48 16 ∧
            inShoot (v.extractLsb' 46 2).toNat x.sdva (word (e.region * regionSize e.level)) = true)) ∧
          (∀ c ∈ z.copies, c ∈ u.copies ∧ ¬ (c.asid = v.extractLsb' 48 16 ∧
            inShoot (v.extractLsb' 46 2).toNat x.sdva (word (128 * c.vline)) = true)))) ∧
      (let y := s.tower t
       let asid := y.sdrun.2.1
       let hit (a : Word) : Bool := inShoot y.sdrun.2.2.toNat y.sdrun.1 a
       (y.sdbusy = true → s.reqs = [] → s.claims = [] → t < s.towers.length → ∃ z, exec .shootDownDone s = .next z ∧
          (z.tower t).sdbusy = false ∧ s.sameMemory z ∧
          (∀ c ∈ z.copies, c ∈ s.copies ∧ ¬ (c.asid = asid ∧ hit (word (128 * c.vline)) = true)) ∧
          (∀ c ∈ z.ctxs, c.held = true → c.asid = asid → c.retry = true) ∧
          (s.walk t asid 0 = .noSpace → ∀ r ∈ z.ranges, r ∈ s.ranges ∧ r.asid ≠ asid)) ∧
       (y.sdbusy = false → exec .shootDownDone s = .next s) ∧
       (∀ r ∈ s.reqs, r.id < y.sdmark → r.who.asid = asid → r.space = .g → r.place.isSome = true → hit r.addr = true →
          (s.crewById r.who.crew).saved = false →
          exec .shootDownDone s = .next s) ∧
       (∀ c ∈ s.claims, c.granted = true → c.asid = asid → (∃ e ∈ c.cells ++ c.src, Place.isG e.place = true ∧ hit e.va = true) →
          exec .shootDownDone s = .next s) ∧
       (s.windowStore (reg 0x28) = none → y.mgbusy = true →
          (∀ z k, s.migrate t y.mgrun.2.1 y.mgrun.1 y.mgleaf y.mgrun.2.2.toNat = (z, some k) → exec .migration s =
            .next (z.setTower t (fun y => { y with mgbusy := false, mgres := BitVec.ofNat 2 k, mgleaf := none }))) ∧
          (∀ z, s.migrate t y.mgrun.2.1 y.mgrun.1 y.mgleaf y.mgrun.2.2.toNat = (z, none) →
            exec .migration s = .next z)) ∧
       (s.windowStore (reg 0x28) = none → y.mgbusy = false → exec .migration s = .next s)) ∧
      (∀ r, s.windowStore (reg 0x28) = some (r, v) → u = (s.dropReq r.id).tidy →
        let asid : BitVec 16 := v.extractLsb' 48 16
        let begins (found : Option (Leaf × Nat)) : Prop := exec .migration s = .next (u.setTower t (fun y => { y with
          mgasid := asid, mgres := v.extractLsb' 2 2, mgbusy := true, mgrun := (x.mgva, asid, x.mgdst), mgleaf := found }))
        (x.mgbusy = true → exec .migration s = .next u) ∧
        (x.mgbusy = false → v.getLsbD 0 = false → (∀ p, u.walk t asid x.mgva ≠ .waits p) →
          exec .migration s = .next (u.setTower t (fun y => { y with mgasid := asid, mgres := v.extractLsb' 2 2 }))) ∧
        (x.mgbusy = false → v.getLsbD 0 = true → canonical x.mgva = true → (u.tower 0).astbase.getLsbD 0 = true →
          t < u.towers.length →
          (∀ l k, u.walk t asid x.mgva = .leaf l k → begins (some (l, leNat (u.bytesAt (u.keyOf l.entryKey) l.entry 8)))) ∧
          (∀ l e p k, u.walk t asid x.mgva = .absent l e p k → begins none)))) ∧
    (∀ asid dst, let skew := bitsOf dst 11 9
      (3 ≤ skew ∨ (skew ≠ 0 ∧ 2 ≤ bitsOf dst 8 7) → s.migrate t asid v none dst = (s, some 1)) ∧
      (skew < 3 → skew = 0 ∨ bitsOf dst 8 7 < 2 → s.rangeOk (bitsOf dst 8 7) skew (bitsOf dst 51 12 * 4096) 65536 = true →
        s.migrate t asid v none dst = (s, some 3))) ∧
    (s.pageFaults = [f] → f.id = s.args.unit → f.kind = 1 → f.state = 0 → f.source = [] →
      (∀ l k, s.walk f.tower f.asid f.addr = .leaf l k →
        exec .hwFaultResolve s =
          .next ((State.pageArrived (overWith s) f.asid f.addr).dropEviction f.tower)) ∧
      (∀ l e p k, s.walk f.tower f.asid f.addr = .absent l e p k → s.mod.duty.getLsbD 0 = false → bitsOf e 2 1 = 0 →
        exec .hwFaultResolve s =
          .next ((State.pageFailed (overWith s) f.asid f.addr).dropEviction f.tower)) ∧
      (∀ l e p k, s.walk f.tower f.asid f.addr = .absent l e p k → s.mod.duty.getLsbD 0 = true →
        exec .hwFaultResolve s = .next (State.dropEviction { overWith s with pageFaults :=
          [{ f with state := 1, host := true, info := f.info % 4 + 4 * l + 32 * (f.info / 32 % 2) }] } f.tower)) ∧
      (∀ p, s.walk f.tower f.asid f.addr = .waits p →
        exec .hwFaultResolve s = .next ((s.wakeAt p).dropEviction f.tower))) ∧
    (let m := s.mod
     let n := 2 ^ min m.frlog.toNat 16
     let p := Place.host (m.frbase.toNat + 32 * (m.frtail.toNat % n))
     s.pageFaults = [f] → f.id = s.args.unit → f.state = 1 → f.kind = 1 →
      (n ≤ m.frtail.toNat - m.frhead.toNat → exec .faultRecordPost s = .next s) ∧
      (m.frtail.toNat - m.frhead.toNat < n → s.stuck p = false → s.ownedAt (p / 128 * 128) 128 = false → s.hostHeld p 32 = false →
        s.leasedAt p 32 = true → exec .faultRecordPost s = .next (s.holdOn 0 66 (s.unitsAt p 32))) ∧
      (m.frtail.toNat - m.frhead.toNat < n → s.stuck p = false → s.ownedAt (p / 128 * 128) 128 = false → s.hostHeld p 32 = false →
        s.leasedAt p 32 = false → exec .faultRecordPost s =
        .next (State.interrupt { ((s.holdOff 0 66).writeAt none p (faultRecord f m.frtail.toNat)) with
          pageFaults := [{ f with state := 2, seq := m.frtail.toNat % 2 ^ 32 }]
          mod := { m with frtail := m.frtail + 1 } } 64))) ∧
    (arrives 0x40028 → u.pageFaults = [f] → f.state = 2 → f.kind = 1 → wbits v 31 1 = 0 →
      (s.hostAcquires 0x40028 = false → exec .faultAnswer s = .next s) ∧
      (s.hostAcquires 0x40028 = true → f.seq = wbits v 63 32 → v.getLsbD 0 = false →
        exec .faultAnswer s =
          .next (State.pageArrived (overWith u) f.asid f.addr)) ∧
      (s.hostAcquires 0x40028 = true → f.seq = wbits v 63 32 → v.getLsbD 0 = true →
        exec .faultAnswer s =
          .next (State.pageFailed (overWith u) f.asid f.addr)) ∧
      (s.hostAcquires 0x40028 = true → f.seq ≠ wbits v 63 32 → exec .faultAnswer s = .next u))

/-- 05 R164, 16 R482 to R486, 17 R499: a register write reaches its register: enables, tails, heads and ring bases, with
their gates; every plain register reads back what its fields hold, and the host's store load places a command. R499
says of PCAP only that a larger value acts as 1,300: that the register keeps what is written is the model's choice
(log 34), as are the image's address (log 12), the tags of answers (log 23) and the field of CIEN (log 33). 16 R479 to
R481: the host reads the module's memory through the HDM window, writes it with strong writes, and snoops a host line
once no lease on it stands, all through a port that is up; a port trains. What the host's read leaves open, the host's
cached lines, and what a snoop does to the module's copies are the model's choices (logs 13, 24). -/
def Obligations.RegisterEvents : Prop :=
  (∀ (s u : State) (v : Word) (k : Nat),
     let arrives (off : Nat) : Prop :=
       (s.windowStore off = none ∧ off < 0x41000 ∧ s.mod.ports.any (fun up => up) = true ∧ u = s ∧
           v = s.args.value.setWidth 64) ∨
         ∃ r, s.windowStore off = some (r, v) ∧ u = (s.dropReq r.id).tidy
     (k < 64 → s.args.unit = k →
       (arrives (0x1000 * k) → exec .contextEnable s = .next (u.setCtx k (fun c =>
         { c with asid := if c.en then c.asid else v.extractLsb' 32 16, en := v.getLsbD 0 }))) ∧
       (arrives (0x1000 * k + 0x18) → s.hostAcquires (0x1000 * k + 0x18) = false → exec .launchDoorbell s = .next s) ∧
       (arrives (0x1000 * k + 0x18) → s.hostAcquires (0x1000 * k + 0x18) = true → exec .launchDoorbell s = .next
         (let t := u.setCtx k (fun c => { c with lrtail := v })
          if (s.windowStore (0x1000 * k + 0x18)).isSome then t else t.record { host := true, gives := [.bell k] })) ∧
       (arrives (0x1000 * k + 0x40) → exec .crheadWrite s = .next (u.setCtx k (fun c => { c with crhead := v }))) ∧
       (s.args.flag = false → arrives (0x1000 * k + 0x28) → exec .completionRingRetarget s = .next (u.setCtx k (fun c =>
         if c.en && !c.held then c else { c with crbase := v &&& ~~~0x3F, retry := c.retry || c.held }))) ∧
       (s.args.flag = true → arrives (0x1000 * k + 0x30) → exec .completionRingRetarget s = .next (u.setCtx k (fun c =>
         if c.en && !c.held then c else { c with crlog := v.setWidth 5, retry := c.retry || c.held })))) ∧
     (arrives 0x40000 →
       (u.ctxs.any (fun c => c.en) = true → exec .dutyWrite s = .next u) ∧
       (u.ctxs.any (fun c => c.en) = false → exec .dutyWrite s = .next { u with mod := { u.mod with duty := v.setWidth 4 } })) ∧
     (arrives 0x40020 → exec .frheadWrite s = .next { u with mod := { u.mod with frhead := v } }) ∧
     (arrives 0x110030 → exec .logheadWrite s = .next { u with mod := { u.mod with loghead := v } }) ∧
     (arrives 0x110068 →
       ((v.extractLsb' 32 32).toNat < u.mod.fusesvn.toNat → exec .fusesvnWrite s = .next u) ∧
       (u.mod.fusesvn.toNat ≤ (v.extractLsb' 32 32).toNat →
         exec .fusesvnWrite s = .next { u with mod := { u.mod with fusesvn := v.extractLsb' 32 32 } })) ∧
     (arrives 0x110000 →
       (v.getLsbD 0 = true → exec .readyWrite s = .next { u with mod := { u.mod with ready := true } }) ∧
       (v.getLsbD 0 = false → exec .readyWrite s = .next u)) ∧
     (s.args.unit = 0x40008 → arrives 0x40008 →
       exec .registerWrite s = .next { u with mod := { u.mod with frbase := v &&& ~~~0x1F } }) ∧
     (s.args.unit = 0x110038 → arrives 0x110038 → exec .registerWrite s =
       .next { u with mod := { u.mod with pcap := v.setWidth 16 } }) ∧
     (s.args.unit = 0x40000 → exec .registerWrite s = .next s) ∧
     (∀ c : Ctx, c.en = false →
       (c.setReg 0x08 v).reg 0x08 = v &&& ~~~0x7F ∧ (c.setReg 0x10 v).reg 0x10 = v &&& 0x1F ∧
       (c.setReg 0x48 v).reg 0x48 = v &&& ~~~0xFF ∧ (c.setReg 0x50 v).reg 0x50 = v &&& 0x1F ∧
       (c.setReg 0x58 v).reg 0x58 = v &&& ~~~0xFFFF ∧ (c.setReg 0x60 v).reg 0x60 = v &&& ~~~0xFFFF ∧
       (c.setReg 0x68 v).reg 0x68 = v &&& ~~~0xFFFF ∧ (c.setReg 0x70 v).reg 0x70 = v &&& ~~~0xFFFF ∧
       (c.setReg 0x78 v).reg 0x78 = v &&& 1) ∧
     (∀ (c : Ctx) (o : Nat), c.en = true → c.setReg o v = c) ∧
     (∀ t : Tower, (t.setReg 0x00 v).reg 0x00 = v ∧ (t.setReg 0x08 v).reg 0x08 = v ∧ (t.setReg 0x18 v).reg 0x18 = v ∧
       (t.setReg 0x20 v).reg 0x20 = v ∧ (t.setReg 0x30 v).reg 0x30 = v ∧ (t.setReg 0x40 v).reg 0x40 = v ∧
       (t.setReg 0x58 v).reg 0x58 = v &&& 0xFFF) ∧
     (∀ m : Module, (m.setReg 0x08 v).reg 0x08 = v &&& ~~~0x3F ∧ (m.setReg 0x10 v).reg 0x10 = v &&& 0xFFFF ∧
       (m.setReg 0x18 v).reg 0x18 = v &&& ~~~0x1F ∧ (m.setReg 0x70 v).reg 0x70 = v ∧
       (m.setHostReg 0x30 v).hostReg 0x30 = v &&& 0xFFF ∧ (m.setHostReg 0x38 v).hostReg 0x38 = v) ∧
     (arrives 0x40040 → u.mod.duty.getLsbD 2 = true → k < 512 → wbits v 31 0 = 3 * 2 ^ 28 + k / 32 * 2 ^ 24 + k % 32 →
       let image := u.bytesAt none (Place.host u.mod.csladdr.toNat) 4224
       (imageFault image = none → exec .cslLoadCommand s = .next (u.setChan k (fun ch => { ch with queue := { ch.queue with
         issue := ch.queue.issue + 1
         cmds := ch.queue.cmds ++ [{ seq := ch.queue.issue + 1, pc := 0, who := { ctx := 65 }, op := .bcsl ⟨0, 0, 0, 0, 0⟩
                                     bytes := image, born := u.serial }] } }))) ∧
       (∀ o, imageFault image = some o → exec .cslLoadCommand s = .next u))) ∧
  (∀ (s : State) (p : Nat),
     let a := s.args
     let up := s.mod.ports.any (fun x => x) = true
     let reads (t : State) : Prop := s.sameMemory t ∧ t.self = s.self ∧ t.peers = s.peers ∧ t.reqs = s.reqs ∧ t.free = s.free + 1
     (s.mod.ports.all (fun up => !up) = true → exec .hostMemRead s = .next s ∧ exec .hostMemWrite s = .next s) ∧
     (up → s.mod.ready = true → a.sub = 1 → s.hdmPlace a.unit = some p → s.readable p = true → s.ownedAt p 1 = false →
       ∃ t, exec .hostMemRead s = .next t ∧ t.answers = s.answers ++
         [[0xFC, if s.poisonedAt p 1 then 1 else 0, s.byteAt (s.keyOf s.mod.hdmkey.toNat) p]] ∧ reads t ∧
         sget false t.hostLines (p / 128) = true) ∧
     (up → s.mod.ready = false → a.sub = 1 → ∃ b t, exec .hostMemRead s = .next t ∧
       t.answers = s.answers ++ [[0xFC, 1, b]] ∧ reads t ∧ t.hostLines = s.hostLines) ∧
     (up → s.mod.ready = true → a.sub = 1 → a.unit < 2 ^ 40 → s.mod.tup.getLsbD (a.unit / 2 ^ 35 % 16) = true → s.hdmPlace a.unit = none →
       ∃ t, exec .hostMemRead s = .next t ∧ t.answers = s.answers ++ [[0xFC, 1, 0xFF]] ∧ reads t ∧ t.hostLines = s.hostLines) ∧
     (up → s.Inv → s.mod.ready = true → s.hdmPlace a.unit = some p → a.bytes ≠ [] → p % 128 + a.bytes.length ≤ 128 →
       s.stuck p = false → s.reqs = [] → s.lineHolds = [] → s.copies = [] → s.ranges = [] → sget 0 s.lexp (p / 128) ≤ s.tide →
       p % 8 = 0 → a.bytes.length % 8 = 0 → s.leaseWaits = [] → s.claims = [] → s.waiters = [] → (s.crewById 0).saved = false →
       ∃ t, exec .hostMemWrite s = .next t ∧ t.self = s.self ∧ t.reqs = [] ∧
         (let key := s.keyOf s.mod.hdmkey.toNat
          ∀ q, (q / 128 = p / 128 →
             t.byteAt key q = if p ≤ q ∧ q < p + a.bytes.length then (a.bytes[q - p]?).getD 0 else s.byteAt key q) ∧
           (q / 128 ≠ p / 128 → Memory.get t.mem q = Memory.get s.mem q))) ∧
     (s.mod.ready = false ∨ s.hdmPlace a.unit = none → exec .hostMemWrite s = .next s) ∧
     (a.unit / 2 ^ 53 = 2 → a.bytes = [] → s.stuck (128 * a.unit) = false → s.ownedAt (128 * a.unit) 128 = false →
       (s.leasedAt (128 * a.unit) 128 = false →
         exec .hostSnoop s = .next { s.holdOff 0 a.unit with
             copies := s.copies.filter (fun c => c.line != a.unit), answers := s.answers ++ [[0xFB]]
             dirty := sset false s.dirty a.unit false }) ∧
       (s.leasedAt (128 * a.unit) 128 = true →
         exec .hostSnoop s = .next (s.holdOn 0 a.unit (s.unitsAt (128 * a.unit) 128)))) ∧
     exec .cxlPortTrain s = .next { s with mod := { s.mod with ports := s.mod.ports.set a.unit a.flag } })

/-! ## The pilot's events (05) -/

/-- R164 to R168, R192, R193: a doorbell that is ahead of LRHEAD starts a launch, whose record is read and checked; its
root is admitted and becomes ready; a launch with a fault ends once nothing of it is under way, and its completion
record is written to the ring, CRTAIL and LRHEAD rising by one. While a lease stands on the record's place it waits
under HOLD (10 R319); what a poisoned launch record, or an entry on its walk, does is the model's choice (log 33). -/
def Obligations.LaunchEvents : Prop :=
  ∀ (s : State) (k : Nat) (c : Ctx) (x : Trans) (l : Launch) (r : List Byte) (f : FaultRec),
    let ring := c.lrbase + word (128 * (c.lrhead.toNat % 2 ^ min c.lrlog.toNat 16))
    let begun := s.setCtx k (fun c => { c with run := true, launch := some {} })
    let fetch := begun.translate begun.pilotTower c.asid false .r ring
    let fresh := State.record begun.newMid.2
      { reads := true, strong := true, words := wordsAt x.place 128, stamp := begun.newMid.2.writes }
    let root : Issuer := { ctx := k, asid := c.asid }
    let out := c.crbase + word (64 * (c.crtail.toNat % 2 ^ min c.crlog.toNat 16))
    s.args.unit = k → k < 64 → s.ctxs[k]? = some c →
    (c.en = true → c.run = false → c.lrhead.toNat < c.lrtail.toNat → s.mod.ready = true →
      (fetch = .ok x → begun.readable x.place = true → begun.ownedAt x.place 128 = true → exec .launchFetch s = .next begun) ∧
      (fetch = .ok x → begun.readable x.place = true → begun.ownedAt x.place 128 = false → begun.poisonedAt x.place 128 = false →
        r = begun.bytesAt (begun.keyOf x.key) x.place 128 →
        (∀ code, fresh.checkManifest root 0 true r = some code →
          exec .launchFetch s = .next (fresh.refuse k code begun.newMid.1 (recTag r) ring)) ∧
        (fresh.checkManifest root 0 true r = none → exec .launchFetch s =
          .next (State.setCtx (fresh.record { takes := [.bell k], gives := [.start fresh.serial] }).pass k (fun c => { c with
            launch := some { root := begun.newMid.1, record := some r, tag := recTag r, deps := fresh.resolveDeps root 0 r
                             born := fresh.serial } })))) ∧
      (fetch = .ok x → begun.readable x.place = false → exec .launchFetch s = .next (begun.wakeAt x.place)) ∧
      (fetch = .ok x → begun.readable x.place = true → begun.ownedAt x.place 128 = false → begun.poisonedAt x.place 128 = true →
        let w := begun.poisonWord x.place 128 ring
        exec .launchFetch s =
          .next ((begun.machineCheck MC_POISON begun.pilotTower c.asid w).refuse k MC_POISON 0 0 w)) ∧
      (∀ p, fetch = .error (.waits p) → exec .launchFetch s = .next (begun.wakeAt p)) ∧
      (fetch = .error .absent → exec .launchFetch s = .next
        ((begun.pageFault c.asid ring begun.pilotTower 0).setCtx k (fun c => { c with pageWait := some ring }))) ∧
      (fetch = .error .noncanon → exec .launchFetch s = .next (begun.refuse k VA_NONCANON 0 0 ring)) ∧
      (fetch = .error .noSpace → exec .launchFetch s = .next (begun.refuse k PAGE_NOT_PRESENT 0 0 ring)) ∧
      (fetch = .error .perm → exec .launchFetch s = .next (begun.refuse k PAGE_PERM 0 0 ring))) ∧
    (c.en = false → c.run = false → exec .launchFetch s = .next s) ∧
    (c.launch = some l → l.record = some r → l.admitted = false → l.completion = none →
      let t := lowestTower (recTowers r)
      (960 ≤ s.poolCount t → exec .manifestAdmit s = .next s) ∧
      (s.poolCount t < 960 → exec .manifestAdmit s = .next (State.setCtx { s with manifests := s.manifests ++
        [{ mid := l.root, ctx := k, record := r, tower := t, towers := recTowers r, deps := l.deps
           prio := recPrio r, born := l.born }] } k
        (fun c => { c with launch := some { l with admitted := true } })))) ∧
    (c.launch = some l → l.completion = some r → c.pageWait = none → c.held = false →
      c.crtail.toNat - c.crhead.toNat < 2 ^ min c.crlog.toNat 16 → s.reqs = [] → s.leaseWaits = [] →
      (s.translate s.pilotTower c.asid false .w out = .ok x → s.stuck x.place = false →
        s.ownedAt (x.place / 128 * 128) 128 = false → s.hostHeld x.place 64 = false → s.leasedAt x.place 64 = false → r.length = 56 →
        ∃ t, exec .completionRecordWrite s = .next t ∧
          t.ctxs[k]? = some { c with crtail := c.crtail + 1, lrhead := c.lrhead + 1, run := false, launch := none, held := false, retry := false } ∧
          t.answers = s.answers ++ (if c.cien then [[0xFF, BitVec.ofNat 8 k]] else []) ∧ t.self = s.self ∧
          (s.Inv → x.place % 64 = 0 → ∀ i, i < 64 → t.byteAt (s.keyOf x.key) (x.place + i) =
            ((r ++ leBytes 8 c.lrhead.toNat)[i]?).getD 0)) ∧
      (s.translate s.pilotTower c.asid false .w out = .ok x → s.stuck x.place = false →
        s.ownedAt (x.place / 128 * 128) 128 = false → s.hostHeld x.place 64 = false → s.leasedAt x.place 64 = true →
        exec .completionRecordWrite s = .next (s.holdOn 0 k (s.unitsAt x.place 64))) ∧
      (s.translate s.pilotTower c.asid false .w out = .error .perm →
        exec .completionRecordWrite s = .next ((s.holdOff 0 k).setCtx k (fun c => { c with held := true, retry := false })))) ∧
    (c.launch = some l → 2 ^ min c.crlog.toNat 16 ≤ c.crtail.toNat - c.crhead.toNat →
      exec .completionRecordWrite s = .next s) ∧
    (c.launch = some l → l.faults = [] → exec .launchEnd s = .next s) ∧
    (c.launch = some l → l.faults = [f] → l.ending = true → l.completion = none → s.endReady k = true →
      ∃ t, exec .launchEnd s = .next t ∧ t.ctxs[k]? = some { c with
          lighter := [], lqWait := none, launch := some { l with faults := [f], ending := true, completion := some (completionRecord f l.tag) } } ∧
        (∀ m ∈ t.manifests, m.ctx ≠ k) ∧ (∀ e ∈ t.reqs, e.who.ctx ≠ k ∨ e.who.crew = 0) ∧
        (∀ e ∈ t.crews, e.ctx ≠ k) ∧ s.sameMemory t)

/-- R168 to R178, R191: a manifest whose dependences are satisfied becomes ready; ready manifests age; an iteration is
placed on free slots, each strand with its indices, argument, number and identifier in g1 to g9; the lighter queue
gives back its oldest entry, whose record is what its 256 bytes hold now; an entry that cannot be read ends the
launch, or waits, which is the model's choice (log 33). -/
def Obligations.ManifestEvents : Prop :=
  ∀ (s : State) (m : Manifest) (slots : List Nat) (k : Nat),
    let named := s.args.unit = m.mid.toNat ∧ s.manifest m.mid = some m
    (named → m.ready = false → s.inLighter m = false → s.depsDone m = true → s.reqs = [] → s.leaseWaits = [] →
      exec .manifestReady s = .next (State.settleFrom (s.setManifest m.mid (fun x =>
        { x with ready := true, prio := recPrio m.record, ageFrom := s.tide })) m.mid)) ∧
    (named → s.depsDone m = false → exec .manifestReady s = .next s) ∧
    (named → m.ready = true → recAge m.record ≠ 0 →
      (m.ageFrom + recAge m.record * 1024 ≤ s.tide → exec .agingTick s = .next (s.setManifest m.mid (fun x =>
        { x with prio := x.prio - 1, ageFrom := x.ageFrom + recAge m.record * 1024 }))) ∧
      (s.tide < m.ageFrom + recAge m.record * 1024 → exec .agingTick s = .next s)) ∧
    (named → s.args.slots = slots → s.placeable m slots = true → s.offered m slots = true →
      let indices := (iterationAt (recOrder m.record) (recCounts m.record) m.next).map (BitVec.ofNat 32)
      ∃ t, exec .iterationPlace s = .next t ∧ t.self = { s.self with since := t.self.since } ∧
        (∀ i slot, slots[i]? = some slot → ∃ st ∈ t.peers, st.slot = slot ∧ st.crew = s.serial + 1 ∧ st.idx = i ∧
          st.pc = recEntry m.record ∧ st.readG 0 = 0 ∧
          (∀ j, j < 6 → st.readG (1 + j) = ((indices[j]?).getD 0).setWidth 64) ∧ st.readG 7 = recArg m.record ∧
          st.readG 8 = word i ∧ st.readG 9 = m.mid.setWidth 64 ∧ (∀ j, 10 ≤ j → st.readG j = 0) ∧
          st.priv = false ∧ st.inTrap = false ∧ st.loops = [] ∧ st.long = false ∧ st.rmode = 1) ∧
        (∀ x ∈ t.manifests, x.mid = m.mid → ∃ y ∈ s.manifests, x.next = y.next + 1 ∧ x.running = y.running + 1)) ∧
    (named → s.args.slots = slots → s.placeable m slots = false → exec .iterationPlace s = .next s) ∧
    (∀ rest, let c := s.ctx k
     let entry := s.lighterRead k m.tower (c.lqbase + word (256 * ((c.lqTail - c.lighter.length) % 2 ^ min c.lqlog.toNat 24)))
     s.args.unit = k → c.lighter = m.mid :: rest → s.manifest m.mid = some m →
      (s.poolCount m.tower < 1024 → c.lqWait = none → (c.launch.map (fun l => l.faults.isEmpty)).getD false = true →
        (∀ t, entry = .error t → exec .lighterFetchBack s = .next t) ∧
        (∀ bs, entry = .ok bs →
          let r := slice bs 0 64 ++ slice m.record 64 16 ++ slice bs 80 48
          exec .lighterFetchBack s = .next ((s.setManifest m.mid (fun x => { x with
            record := r, deps := (m.deps.zipIdx.take (recDeps r)).map (fun d => (d.1.1, recDeps64 r d.2)) })).setCtx k
              (fun c => { c with lighter := rest })))) ∧
      (1024 ≤ s.poolCount m.tower → exec .lighterFetchBack s = .next s))

/-- R181 to R191: a stop is asked of every strand of a crew; a strand stops at a yield point; a stopped crew leaves its
slots when its frame is written, and runs on when there is no room; a crew that waits for a page is suspended; a saved
crew resumes on free slots with what its frame in memory holds. -/
def Obligations.CrewEvents : Prop :=
  ∀ (s : State) (c : Crew) (st : Strand) (t : State) (slots : List Nat),
    let mine := s.strandsOf c.id
    let fine := ((s.ctx c.ctx).launch.map (fun l => l.faults.isEmpty)).getD false = true
    s.crews.find? (fun x => x.id == c.id) = some c → c.id ≠ 0 →
    (s.args.unit = c.id → c.saved = false → c.suspended = false → c.ctx ≠ bootCtx → ∃ u, exec .preemptRequest s = .next u ∧
      (s.self.crew = c.id → u.self = { s.self with stopReq := true }) ∧
      (∀ x ∈ u.peers, x.crew = c.id → x.stopReq = true) ∧ (u.crewById c.id).stopReq = true ∧ s.sameMemory u) ∧
    (s.args.unit = c.id → c.ctx = bootCtx → exec .preemptRequest s = .next s) ∧
    (s.strandInSlot s.args.unit = some st → st.stopReq = true → st.stopped = false → st.retired = false →
      st.ended = false → st.pageWait = none →
      (s.atYieldPoint st = false → exec .strandStop s = .next s) ∧
      (s.atYieldPoint st = true →
        let hit := (s.yieldEntry st).isSome
        let fresh := st.wait.isNone && (hit || s.atYield st)
        exec .strandStop s = .next ((s.withdraw st.crew st.idx).mapStrand st.crew st.idx
          (fun x => { x with stopped := true, ytHit := hit, pcnt := if fresh then 0 else x.pcnt })))) ∧
    (s.args.unit = c.id → c.saved = false → c.stopReq = true → c.suspended = false → fine →
      (∀ x ∈ mine, (x.stopped = true ∨ x.retired = true) ∧ x.pageWait = none ∧ s.craneStuck x.cq = false) →
      s.queuesIdle c.id = true → s.crewSettled c.id s.restarts = true →
      (∀ u, s.frameWaits c false = some u → exec .frameWrite s = .next u) ∧
      (s.frameWaits c false = none → s.saveCrew c.id false = some t → exec .frameWrite s = .next t ∧ (∀ x ∈ t.peers, x.crew ≠ c.id) ∧
        t.self.crew ≠ c.id ∧ (t.crewById c.id).saved = true) ∧
      (s.frameWaits c false = none → s.saveCrew c.id false = none → exec .frameWrite s = .next (((s.holdOff 0 (frameHold c.id)).setCrew c.id (fun c =>
        { c with stopReq := false })).mapCrew c.id (fun st => { st with stopReq := false, stopped := false, ytHit := false })))) ∧
    (s.args.unit = c.id → c.stopReq = false → exec .frameWrite s = .next s) ∧
    (s.args.unit = c.id → c.saved = false → c.ctx ≠ bootCtx → (∃ x ∈ mine, x.pageWait.isSome = true) →
      (∀ x ∈ mine, s.craneStuck x.cq = false) → ∃ u, exec .crewSuspend s = .next u ∧ (u.crewById c.id).suspended = true) ∧
    (s.args.unit = c.id → (∀ x ∈ mine, x.pageWait = none) → exec .crewSuspend s = .next s) ∧
    (s.args.unit = c.id → s.args.slots = slots → c.saved = true → fine →
      let old := s.saved.filter (fun x => x.crew == c.id)
      let cores := slots.map coreOfSlot
      (∀ x ∈ old, x.pageWait = none) → s.accLive c = [] →
      s.slotsFree slots c.size c.towers c.isLocal c.id = true → (c.isLocal = true → cores = c.cores) →
      s.capacityUsed (clusterOfCore (cores.headD 0)) + 512 * c.size * c.vlGrant ≤ 4194304 →
      (∀ m ∈ s.manifests, m.mid = c.mid → s.offered m slots = true) →
      (∀ u, s.frameRead c (towerOfSlot (slots.headD 0)) = .error u → exec .crewResume s = .next u) ∧
      ∀ fr, s.frameRead c (towerOfSlot (slots.headD 0)) = .ok fr →
      ∃ u, exec .crewResume s = .next u ∧ (∀ x ∈ u.saved, x.crew ≠ c.id) ∧
        u.self = { s.self with ahead := u.self.ahead, looped := u.self.looped, since := u.self.since } ∧
        (∀ x ∈ u.copies, x ∈ s.copies ∧ x.holder ≠ .tower (towerOfSlot (slots.headD 0)) ∧
          ∀ k ∈ cores, x.holder ≠ .l1 k ∧ x.holder ≠ .vmu k ∧ x.holder ≠ .icache k) ∧
        (u.crewById c.id).saved = false ∧ (u.crewById c.id).repin = word (field fr 8 8) + 1 ∧ s.sameMemory u ∧
        ∀ y ∈ c.strandFrames old (fr.drop 64), ∃ x ∈ u.peers, x.crew = y.1.crew ∧ x.idx = y.1.idx ∧ x.since = 0 ∧
          x.slot = (slots[y.1.idx]?).getD y.1.slot ∧ x.stopReq = false ∧ x.stopped = false ∧ x.wait = none ∧
          x.pc = word (field y.2 8 8) ∧ x.tvec = word (field y.2 0x18 8) ∧ x.tpc = word (field y.2 0x20 8) ∧
          x.taddr = word (field y.2 0x30 8) ∧ x.eidx = word (field y.2 0x38 8) ∧ x.srs = word (field y.2 0x40 8) ∧
          x.vl = min (field y.2 0x58 8) c.vlGrant ∧ x.pcnt = field y.2 0x60 8 ∧
          (y.1.masks = none → ∀ i, 0 < i → i < 32 →
            x.readG i = word (field y.2 (0x180 + 32 * (s.pendingOf c.id y.1.idx).length + 8 * i) 8))) ∧
    (s.args.unit = c.id → c.saved = false → exec .crewResume s = .next s)

/-! ## The matrix engine's events (12) -/

/-- R369 to R382: what a matrix command does when it executes at the head of its strand's queue with the unit its own: its
checks are over, its operands are read, its accumulator, its tile or its destination registers are written, it
completes. A product takes its array steps first, once its unit is granted; a copy's fault spoils its follow-on. -/
def Obligations.MatrixCommands : Prop :=
  ∀ (s t y y' z : State) (q : QueueRef) (x : Queue) (c : Cmd) (f : FA) (tile dst : Tile) (xs ys : List Spot)
    (codes : List Nat) (v : State) (n : Nat) (code : BitVec 8) (addr : Word),
    let u := t.stageCmd q c 1
    let done (w : State) : Host.Outcome State Fault Refusal := .next (w.endCommand q c none)
    let w := c.who
    let k := f.fn.toNat % 2
    let arg (i : Nat) : Word := c.args.getD i 0
    s.headCmd s.args.unit 2 = some (q, x, c) → c.pageWait = none → s.cmdReady c = true → x.latch = none →
    c.cancelled = false → s.takeUnit c = .ok t → c.moved = [] → z.args.part = none →
    (c.op = .mzero f → exec .mzeroExec s = done (u.setAcc w k (fun _ _ => 0))) ∧
    (c.op = .mbar f → exec .mbarArrive s = done u) ∧
    (c.op = .macc f → exec .maccExec s =
      done (u.setAcc w k (fun i j => add32 rne (u.accAt w k i j) (u.accAt w (1 - k) i j)))) ∧
    (c.op = .mscl f → arg 0 = word n → n < 2 ^ 33 → exec .msclExec s = done (u.setAcc w (n / 2 ^ 32) (fun i j =>
      fp32.round rne ((fp32.value (u.accAt w (n / 2 ^ 32) i j)).mul (fp32.value (n % 2 ^ 32)))))) ∧
    (c.op = .mld f →
      u.accTile q c false (fun t => t.fmt = 4 || t.fmt = 5 || (t.fmt = 0 && t.width = 31)) = .ok (tile, y) →
      y.tileSpots w .r tile = .ok xs → z = y.passT q c (y.tileT w tile) → z.tileCodes c tile xs = .ok codes →
      exec .mldExec s =
        done (((z.pin c xs).sourced q c tile.unit xs).setAcc w k (fun i j => if i < tile.rows ∧ j < tile.cols then
          (let y := el codes (i * tile.cols + j); if tile.fmt = 5 then fp32.round rne (bf16.value y) else y)
          else z.accAt w k i j))) ∧
    (c.op = .mld f → u.readDesc q c 32 32 (arg 0) = .error (.fault code addr) →
      exec .mldExec s = .next (u.endCommand q c (some (code, addr)))) ∧
    (c.op = .mst f → f.fn.toNat / 2 ≠ 1 →
      u.accTile q c true (fun t => t.fmt = 4 || (t.fmt = 0 && t.width = 31)) = .ok (tile, y) →
      y.operands q c ((y.tileSpots w .w tile).map (fun xs => ([], xs))) = .ok (ys, xs) → (y.passT q c (y.tileT w tile)).claim q c tile.unit xs 1 [] = .ok z →
      exec .mstExec s = done ((z.sourced q c 0 []).engineWrites q c (xs.zipIdx.map (fun e =>
          (e.1, leBytes tile.unit (z.accAt w k (e.2 / tile.cols) (e.2 % tile.cols))))))) ∧
    (c.op = .mst f → f.fn.toNat / 2 = 1 → u.accTile q c true (fun t => t.fmt = 5) = .ok (tile, y) →
      y.operands q c ((y.tileSpots w .w tile).map (fun xs => ([], xs))) = .ok (ys, xs) → (y.passT q c (y.tileT w tile)).claim q c tile.unit xs 1 [] = .ok z →
      exec .mstExec s = done ((z.sourced q c 0 []).engineWrites q c (xs.zipIdx.map (fun e =>
          (e.1, leBytes tile.unit (bf16.round rne (fp32.value (z.accAt w k (e.2 / tile.cols) (e.2 % tile.cols))))))))) ∧
    (∀ bs, c.op = .mtr f → (∃ b, u.readDesc q c 64 32 (arg 0) = .ok (b, y) ∧ tile = tileOf (arg 0) b) →
      (∃ b, y.readDesc q c 32 32 (arg 0 + 32) = .ok (b, y') ∧ dst = tileOf (arg 0 + 32) b) → tile.valid false = true →
      dst.valid true = true → tile.rows ≤ 512 → tile.cols ≤ 512 → dst.rows = tile.cols → dst.cols = tile.rows →
      tilesOverlap tile dst = false → dst.fmt = tile.fmt → dst.width = tile.width → tile.fmt ∈ [0, 1, 4, 5, 6, 7] →
      tile.tag = 0 → dst.tag = 0 → y'.operands q c (do
        let xs ← y'.tileSpots w .r tile
        let ys ← y'.passing q c (y'.tileT w tile) (y'.tileSpots w .w dst)
        return (xs, ys)) = .ok (xs, ys) →
      (y'.passT q c (y'.tileT w tile ++ y'.tileT w dst)).claim q c dst.unit ys tile.unit xs = .ok z →
      let turned := (List.range ys.length).filterMap (fun i => xs[i % dst.cols * tile.cols + i / dst.cols]?)
      turned.mapM (z.sourceRead c tile.unit) = .ok bs →
      exec .mtrExec s = done (((z.pin c xs).sourced q c tile.unit turned).engineWrites q c (ys.zip bs))) ∧
    (c.op = .mrow f → exec .mrowExec s = done (u.fillNow (arg 1).toNat
      ((List.range 128).flatMap (fun j => leBytes 4 (u.accAt w k (arg 0).toNat j))))) ∧
    (let r : Rnd := { mode := (arg 2).toNat, idx := arg 0, srs := arg 1, sat := (arg 3).toNat }
     let ids := c.args.drop 7
     let size := (arg 6).toNat
     c.op = .mcvt f → f.fn.toNat / 2 = 0 → exec .mcvtExec s = done (ids.zipIdx.foldl (fun t i => t.fillNow
       i.1.toNat ((((List.range 16384).flatMap (fun e => leBytes 2 (bf16.round (r.at e)
         (fp32.value (u.accAt w k (e / 128) (e % 128)))))).drop (size * i.2)).take size)) u)) ∧
    (c.op = .mma f → c.stage ≠ 2 → c.after = 0 → c.spoiled = none → u.product q c f false false = .ok (y, v, n) →
      let core := y.cmdCore c
      ((y.core core).granted = true → exec .matrixProductExec s =
        .next ((v.setCore core (fun e => { e with work := n, waiting := false })).stageCmd q c 2)) ∧
      ((y.core core).granted = false → exec .matrixProductExec s = .next (y.setCore core (fun e => { e with ready := true })))) ∧
    (∀ why, c.op = .mma f → c.stage ≠ 2 → c.after = 0 → c.spoiled = some why →
      exec .matrixProductExec s = .next (s.complete q c (some why) (some why))) ∧
    (c.op = .mma f → c.stage = 2 → (s.core (s.cmdCore c)).work = 0 → exec .matrixProductExec s =
      .next (s.endCommand q c none)) ∧
    (c.op = .mma f → c.stage = 2 → (s.core (s.cmdCore c)).work ≠ 0 → exec .matrixProductExec s = .next s)

/-- R363, R375, R376: an accumulator element reads as it was set, and the other accumulator is left alone; one group of an
integer product adds its exact sum modulo 2^32, over zero where the command overwrites; one group of a floating one
adds its promoted group; group q of a row lies q groups into it. -/
def Obligations.AccumulatorArithmetic : Prop :=
  ∀ (s : State) (w : Issuer) (g : Nat → Nat → Nat) (st : Strand) (p : Product) (m n acc q i j : Nat),
    (s.strandAt w.crew w.idx = some st → i < 128 → j < 128 → ∀ k, k < 2 →
      (s.setAcc w k g).accAt w k i j = g i j % 2 ^ 32 ∧ (s.setAcc w k g).accAt w (1 - k) i j = s.accAt w (1 - k) i j) ∧
    (let a := p.group p.a m q
     let b := p.group p.b n q
     let sum : Int := (List.zipWith (fun x y => toSigned 8 x * toSigned 8 y) a b).sum
     (p.fmtA = 0 → p.ov = false → p.step m n acc q = ((toSigned 32 acc + sum) % 2 ^ 32).toNat) ∧
     (p.fmtA = 0 → p.ov = true → p.step m n acc 0 = ((List.zipWith (fun x y => toSigned 8 x * toSigned 8 y)
       (p.group p.a m 0) (p.group p.b n 0)).sum % 2 ^ 32).toNat) ∧
     (p.fmtA ≠ 0 → p.ov = false → p.step m n acc q = fp32.round rne ((fp32.value acc).add 1 (fp32.value
       (promoteGroup (a.map (tileFmt p.fmtA).value) (b.map (tileFmt p.fmtB).value) (p.scale q m n) p.fold))))) ∧
    (p.fmtA = 6 → p.k = 256 → p.group p.a m q = (p.a.drop (m * 256 + q * 128)).take (min 128 (256 - q * 128))) ∧
    (p.fmtA = 6 → p.k = 256 → p.element m n acc = p.step m n (p.step m n acc 0) 1)

/-- R387 to R391: a ready unit is granted, one in each cluster every four cycles, in rank; a granted unit that has run its
hold of filler steps asks for its release and is released when no unit is ready; mramp's core follows its cycles. -/
def Obligations.SlewLimiter : Prop :=
  ∀ (s : State) (k cl : Nat),
    let set (f : Core → Core) : State := { (s.setCore k f) with grantCycle := sset 0 s.grantCycle cl (s.cycle + 4) }
    let may := sget 0 s.grantCycle cl ≤ s.cycle
    (s.args.unit = cl → s.firstUnit (s.readyUnits cl) = some k →
      (may → exec .matrixGrant s =
        .next (set (fun c => { c with granted := true, ready := false, waiting := false, filler := 0 }))) ∧
      (¬ may → exec .matrixGrant s = .next s)) ∧
    (s.args.unit = cl → s.readyUnits cl = [] → exec .matrixGrant s = .next s) ∧
    (s.args.unit = k →
      ((s.core k).granted = true → (s.core k).waiting = false → (s.core k).work = 0 → (s.core k).hold ≤ (s.core k).filler →
        exec .matrixReleaseRequest s = .next (s.setCore k (fun c => { c with waiting := true }))) ∧
      ((s.core k).granted = false ∨ (s.core k).work ≠ 0 ∨ (s.core k).filler < (s.core k).hold →
        exec .matrixReleaseRequest s = .next s)) ∧
    (s.args.unit = cl → s.firstUnit (s.waitingUnits cl) = some k →
      (may → s.readyUnits cl = [] → exec .matrixRelease s =
        .next (set (fun c => { c with granted := false, waiting := false, filler := 0 }))) ∧
      (s.readyUnits cl ≠ [] → exec .matrixRelease s = .next s)) ∧
    (∀ ks j, s.firstUnit ks = some k → j ∈ ks → s.unitRank k ≤ s.unitRank j) ∧
    (∀ ks, s.firstUnit ks = some k → k ∈ ks) ∧
    (∀ c : Core, (c.granted = false → c.cycle = c) ∧
      (c.granted = true → 0 < c.work → c.cycle = { c with work := c.work - 1, filler := 0, hold := 64, waiting := false }) ∧
      (c.granted = true → c.work = 0 → c.cycle = { c with filler := c.filler + 1 }))

/-! ## The crane's events (13), publishing (08) -/

/-- R394, R400, R401, R405, R406, R275: what a crane command does when it may run: a copy or fill checks, claims, reads
and writes its elements, or waits for what it claims; a ring command has its slot, and posts or frees it; a wait
command completes once the number is reached; a publish clears its lines' marks. -/
def Obligations.CraneCommands : Prop :=
  ∀ (s t u : State) (q : QueueRef) (x : Queue) (c : Cmd) (f : FA) (xs ys : List Spot) (bs : List (List Byte))
    (code : BitVec 8) (addr a n : Word) (ts : List Trans),
    let done (w : State) : Host.Outcome State Fault Refusal := .next (w.endCommand q c none)
    let d := copyDesc c.bytes
    let inT := s.copyT c.who d
    let checked := s.passT q c inT
    let found (fill : Bool) := s.operands q c (s.passing q c inT (s.copySpots c.who d fill))
    s.craneCmd s.args.unit s.args.sub = some (q, x, c) → c.pageWait = none → s.cmdReady c = true → x.latch = none →
    c.cancelled = false → c.moved = [] → t.args.part = none →
    (c.op = .crn f ∨ c.op = .crnF f →
      (found false = .ok (xs, ys) → checked.claim q c d.esize ys d.esize xs = .ok t →
        xs.mapM (t.sourceRead c d.esize) = .ok bs →
        exec .copyExec s = done ((t.sourced q c d.esize xs).engineWrites q c (ys.zip bs))) ∧
      (found false = .ok (xs, ys) → checked.claim q c d.esize ys d.esize xs = .error (.keep u) →
        exec .copyExec s = .next u) ∧
      (found false = .error (.fault code addr) →
        exec .copyExec s = .next (s.endCommand q c (some (code, addr)))) ∧
      (s.claimOf q c = none → s.copySpots c.who d false = .error (.page addr 0) → c.who.ctx ≠ bootCtx →
        exec .copyExec s = .next (checked.cmdPage q c addr 0))) ∧
    (c.op = .crnC f → found true = .ok (xs, ys) → checked.claim q c d.esize ys d.esize xs = .ok t →
      exec .fillExec s = done ((t.sourced q c d.esize xs).engineWrites q c (ys.map (fun y => (y, leBytes d.esize d.src.toNat))))) ∧
    (let m := d.width / d.esize
     let rows := (ptrRows d.dst).map (rowId (ptrChan d.dst) (ptrBank d.dst) (ptrSub d.dst))
     c.op = .crnT f → d.dsp = 4 → s.operands q c (do
        let xs ← (d.addrs d.src d.spitch).mapM (s.spot c.who d.ssp .r d.esize)
        s.turnCheck q c inT d.dst (List.range m) false
        return (xs, [])) = .ok (xs, ys) →
      checked.claim q c d.esize [] d.esize xs rows = .ok t → xs.mapM (t.sourceRead c d.esize) = .ok bs →
      t.bankWaits (ptrChan d.dst) (ptrBank d.dst) = false →
      exec .cornerTurnExec s = done (bs.zipIdx.foldl (fun t y =>
        (t.putBead d.dst (ptrCol d.dst + y.2) (toSigned (8 * d.esize) (leNat y.1))).record { t.eventFor q c with
          writes := true, strong := true, words := cellsOf d.dst (ptrCol d.dst + y.2), stamp := t.writes })
        ((t.sourced q c d.esize xs).wakeBank (ptrChan d.dst) (ptrBank d.dst)))) ∧
    (let m := d.width / d.esize
     c.op = .crnT f → d.dsp ≠ 4 → s.operands q c (do
        let ys ← (d.addrs d.dst d.dpitch).mapM (s.spot c.who d.dsp .w d.esize)
        s.turnCheck q c inT d.src (List.range m) true
        return ([], ys)) = .ok (xs, ys) → checked.claim q c d.esize ys d.esize [] = .ok u →
      u.laneWaits (ptrChan d.src) (ptrBank d.src) (ptrSub d.src) (ptrRows d.src) = false →
      t = State.record (u.wakeBank (ptrChan d.src) (ptrBank d.src)) { u.eventFor q c with
        reads := true, strong := true, words := (List.range m).flatMap (fun i => cellsOf d.src (ptrCol d.src + i)), stamp := u.writes } →
      (∀ i, i < ys.length → t.checkBead c.who.asid d.src 0 [i] true = .ok ()) →
      exec .cornerTurnExec s = done ((t.sourced q c 0 []).engineWrites q c (ys.zipIdx.map (fun y =>
        (y.1, leBytes d.esize (ofSigned (8 * d.esize) (t.beadElem d.src (ptrCol d.src + y.2)))))))) ∧
    (let p := (c.args.getD 1 0).toNat
     let r := s.ring p
     let release : Event := { u.eventFor q c with rel := true }
     c.op = .crnR f →
      (∀ v, d.dir = true → c.slot = some v →
        let d' : CopyDesc := { d with src := word (wbits v 29 0), ctrl := d.ctrl + (wbits v 63 62 + 1) }
        d'.apart = true → s.moveData q c d' false = .ok u → (u.ring p).free ≠ (u.ring p).take →
        exec .ringCopyExec s = done ((u.setRing release p { u.ring p with free := (u.ring p).free + 1 }).serveRing p)) ∧
      (∀ v, d.dir = false → c.slot = some v →
        let d' : CopyDesc := { d with dst := word (wbits v 29 0), ctrl := d.ctrl + 16 * (wbits v 63 62 + 1) }
        d'.apart = true → s.moveData q c d' false = .ok u → (u.ring p).post ≠ (u.ring p).claim →
        exec .ringCopyExec s = done ((u.setRing release p { u.ring p with post := (u.ring p).post + 1 }).serveRing p)) ∧
      (c.slot = none → s.poisonedAt p 32 = false →
        s.ringOk (s.crewById c.who.crew) (coreOfSlot (s.slotOf c.who)) r.cfg = .ok () → s.waiters = [] → c.ticket = 0 →
        d.extent (if d.dir then d.spitch else d.dpitch) ≤ 2 ^ r.logSize →
        (if d.dir then (r.post - r.take).toNat = 0 else r.slots ≤ (r.claim - r.free).toNat) →
        exec .ringCopyExec s = .next { (s.setCmd q c.seq (fun e => { e with ticket := s.serial })) with
          waiters := [{ id := s.serial, crew := 0, idx := 0, place := p, need := (if d.dir then .take else .claim),
                         event := { s.eventFor q c with acq := true } }]
          serial := s.serial + 1 })) ∧
    (c.op = .crnw f → ∀ k, c.args = [a, 3, word k, 0] → k < 512 →
      (a.toNat ≤ (s.chan k).queue.completion → exec .craneWaitDone s =
        done (s.record { s.eventFor q c with after := [(.bead k, a.toNat)] })) ∧
      ((s.chan k).queue.completion < a.toNat → exec .craneWaitDone s = .next s)) ∧
    (c.op = .cpubq f → c.args = [a, n] → s.args.part = none → (linesOf a n).mapM (fun va => s.cmdXlate c.who .wx va) = .ok ts →
      exec .publishCommandExec s = done (s.publish c.who f.fn.toNat (ts.map (fun t => t.place / 128))))

/-- R400, 10 R317: a strong write of an engine puts its bytes at its place, leaves every other byte as it reads under its
key, and makes a G line unpublished and dirty; a dirty line that a full L2 writes back (10 R321) stands under its own
key from then on. A write that moves a ring's counter serves its waiters besides (07 R259). -/
def Obligations.EngineWrites : Prop :=
  ∀ (s : State) (q : QueueRef) (c : Cmd) (x : Spot) (bs : List Byte),
    let t := s.engineWrite q c x bs
    s.Inv → x.place % 128 + bs.length ≤ 128 → bs ≠ [] →
    (∀ w ∈ s.waiters, w.served.isSome = true ∨ (w.need ≠ .claim ∧ w.need ≠ .take)) →
    let room := Place.isG x.place = true → s.sliceUsed (sliceOf x.place) < s.sliceLines (sliceOf x.place)
    (∀ p, p / 128 = x.place / 128 → t.byteAt (s.keyOf x.key) p =
      if x.place ≤ p ∧ p < x.place + bs.length then (bs[p - x.place]?).getD 0 else s.byteAt (s.keyOf x.key) p) ∧
    (∀ p, p / 128 ≠ x.place / 128 → Memory.get t.mem p = Memory.get s.mem p ∧
      sget none t.lineKey (p / 128) = sget none s.lineKey (p / 128)) ∧
    (room → ∀ key p, p / 128 ≠ x.place / 128 → t.byteAt key p = s.byteAt key p) ∧
    (Place.isG x.place = true → sget false t.unpub (x.place / 128) = true) ∧
    (Place.isG x.place = true → room → sget false t.dirty (x.place / 128) = true) ∧
    (Place.isG x.place = false → t.unpub = s.unpub) ∧ t.self = s.self ∧ t.reqs = s.reqs ∧ t.Inv

/-! ## Bring-up and trips (17) -/

/-- R489 to R496: reset leaves what R489 says and keeps the fuses and the boot flash; the image is staged, measured,
verified and checked against the rollback counter; towers start in order; the boot launch is one supervisor strand at
the image's entry with its data base in g7; an image arrives in chunks while BERR is 1; attestation answers. What
comes through the configuration space waits for port 0, what touches the staging area for its layers, and a tower that
has tripped does not start. That MODULE_RESET keeps the flash, what was answered, the agenda, and the counters turns,
free and serial is the model's choice (log 7), as are the tags 0xFA, 0xF9 and 0xF8 of what is answered (log 23); that
ATDST is an address of ASID 0 is log 11's reading, and what a failed TOWER_START does to the tower's DRAM log 15's. -/
def Obligations.BringUp : Prop :=
  ∀ (s t : State) (n : Nat),
    exec .moduleReset s = .next { State.reset with
      mod := { State.reset.mod with fusesvn := s.mod.fusesvn }, flash := s.flash, answers := s.answers
      agenda := s.agenda, turns := s.turns, free := s.free, serial := s.serial } ∧
    (s.stagingWaits = true → exec .resetRelease s = .next s ∧ exec .bootLaunchStart s = .next s ∧
      exec .doeImageChunk s = .next s ∧ exec .doeImageDone s = .next s) ∧
    (s.doeUp = false → exec .doeImageChunk s = .next s ∧ exec .doeImageDone s = .next s ∧
      exec .doeAttestRequest s = .next s ∧ exec .doeCertChain s = .next s) ∧
    (s.phase = .held → s.stagingWaits = false → t = State.putTower (2 ^ 19) s.resetRegisters 0 (s.flash.take (2 ^ 26)) →
      (t.header.passes = true → exec .resetRelease s = .next t.verifyImage) ∧
      (t.header.passes = false → exec .resetRelease s = .next { t with mod := { t.mod with berr := 1 }, phase := .staged })) ∧
    (s.phase = .running → exec .resetRelease s = .next s) ∧
    (let digest := sha256 (s.towerBytes 0 s.header.sigOff)
     let good := hssVerify Config.trustedKey digest (s.towerBytes s.header.sigOff s.header.sigSize)
     let m := s.verifyImage.mod
     let fits := good && decide (s.mod.fusesvn.toNat ≤ s.header.svn)
     m.meas = BitVec.ofNat 256 (leNat digest) ∧ m.berr = (if good then (if s.header.svn < s.mod.fusesvn.toNat then 3 else 0) else 2) ∧
     s.verifyImage.phase = (if fits then .towers 0 else .failed) ∧
     s.verifyImage.fwsvn = (if fits then word s.header.svn else s.fwsvn)) ∧
    (s.phase = .towers n → n < 16 →
      (s.args.flag = true → (s.tower n).rcDown = false → exec .towerStart s = .next { s with
        mod := { s.mod with tup := s.mod.tup ||| BitVec.twoPow 16 n }, phase := .towers (n + 1) }) ∧
      (s.args.flag = false ∨ (s.tower n).rcDown = true → exec .towerStart s = .next { s.setTower n (fun x => { x with rcDown := true }) with
        mod := { s.mod with berr := 4 }, phase := if n = 0 then .failed else .towers (n + 1) })) ∧
    (s.phase = .towers 16 → s.stagingWaits = false → s.self.crew = 0 → ∃ t, exec .bootLaunchStart s = .next t ∧ t.phase = .running ∧
      t.tideOn = true ∧ t.tide = 0 ∧ t.codeSize = s.header.codeSize ∧ t.self.pc = word s.header.entry ∧
      t.self.priv = true ∧ t.self.slot = 0 ∧ t.self.readG 7 = word ((s.header.codeSize + 65535) / 65536 * 65536) ∧
      (∀ i, i ≠ 7 → t.self.readG i = 0) ∧ t.self.loops = [] ∧ t.self.inTrap = false ∧
      (∃ c ∈ t.crews, c.id = t.self.crew ∧ c.ctx = 64 ∧ c.size = 1 ∧ c.isLocal = true)) ∧
    (s.phase ≠ .towers 16 → exec .bootLaunchStart s = .next s) ∧
    (s.doeUp = true → s.stagingWaits = false → s.mod.berr = 1 → s.args.unit % 4 = 0 → s.args.bytes.length = 4 → s.args.unit + 4 ≤ 2 ^ 26 →
      ∃ t, exec .doeImageChunk s = .next t ∧ t.answers = s.answers ++ [[0xFA, 0, 0, 0, 0]] ∧
        (s.Inv → ∀ i, i < 4 → t.byteAt none (s.dramPlace 0 (s.args.unit + i) 0) = (s.args.bytes[i]?).getD 0)) ∧
    (s.doeUp = true → s.stagingWaits = false → s.mod.berr ≠ 1 → exec .doeImageChunk s = .next { s with answers := s.answers ++ [[0xFA, 1, 0, 0, 0]] } ∧
      exec .doeImageDone s = .next { s with answers := s.answers ++ [[0xFA, 1, 0, 0, 0]] }) ∧
    (s.doeUp = true → s.stagingWaits = false → s.mod.berr = 1 → s.header.passes = true → exec .doeImageDone s =
      .next { s.verifyImage with answers := s.answers ++ [[0xFA, 0, 0, 0, 0]] }) ∧
    (s.doeUp = true → exec .doeAttestRequest s = .next { s with answers := s.answers ++ [0xF9 :: s.report s.args.value] } ∧
      exec .doeCertChain s = .next { s with answers := s.answers ++ [0xF8 :: Config.certChain s.mod.meas] }) ∧
    (∀ r v, s.windowStore 0x110078 = some (r, v) → t = (s.dropReq r.id).tidy →
      (v.getLsbD 0 = true → t.mod.atbusy = false → exec .attestStart s = .next { t with
        mod := { t.mod with atbusy := true, atreq := t.mod.atnonce, attgt := t.mod.atdst } }) ∧
      (v.getLsbD 0 = false ∨ t.mod.atbusy = true → exec .attestStart s = .next t)) ∧
    (∀ u w, let a : Word := s.mod.attgt &&& ~~~0xFF
            let first := (s.report s.mod.atreq).take 128
            let second := (s.report s.mod.atreq).drop 128
            s.mod.atbusy = true →
            (s.logWrite 68 (a + 128) second = .error t → exec .attestReportDone s = .next t) ∧
            (s.logWrite 68 (a + 128) second = .ok w → s.logWrite 67 a first = .error t → exec .attestReportDone s = .next t) ∧
            (s.logWrite 68 (a + 128) second = .ok w → s.logWrite 67 a first = .ok t → t.logWrite 68 (a + 128) second = .ok u →
              exec .attestReportDone s = .next { u with mod := { u.mod with atbusy := false } })) ∧
    (s.mod.atbusy = false → exec .attestReportDone s = .next s)

/-- R500 to R504, 10 R339, R340: power, warnings, uncorrectable errors, parity, links, trips and returns: what each marks,
what it ends and what it logs. R487, R503 and R504 give no address for the machine check of a link or of a control
store: that it is address 0 of ASID 0 is log 15's reading, and so is which of a tripped tower's lines stay in reach. -/
def Obligations.PowerTripsAndErrors : Prop :=
  ∀ (s : State) (st : Strand),
    let a := s.args
    let marks (t : State) (w : Nat) : Prop := sget false t.poison w = true ∧ (s.Inv → ∀ q, Memory.get t.mem q = Memory.get s.mem q)
    let logs (t : State) (code : BitVec 8) : Prop := ∃ f ∈ t.pageFaults, f.kind = 3 ∧ f.info = code.toNat ∧ f.state = 1
    let keeps (t : State) : Prop := (∀ key q, homeTower (128 * (q / 128)) ≠ a.unit → t.byteAt key q = s.byteAt key q) ∧
      (∀ q, Memory.get t.mem q = Memory.get s.mem q) ∧ t.poison = s.poison ∧ t.unpub = s.unpub
    (∃ t, exec .powerCapExceed s = .next t ∧ t.mod.pnow = BitVec.ofNat 16 (a.value.toNat / 10) ∧
      (min 1300 s.mod.pcap.toNat < a.value.toNat / 10 % 65536 → t.mod.lowered = true) ∧
      (a.value.toNat / 10 % 65536 < min 1300 s.mod.pcap.toNat → t.mod.lowered = false) ∧ t.self = s.self ∧ s.sameMemory t) ∧
    exec .thermalWarning s = .next (s.setTower a.unit (fun t => { t with warm := a.flag })) ∧
    (Place.isDram a.unit = true → sget none s.subOwner (subOf a.unit) = none →
      (a.flag = false → ∃ t, exec .dramUe s = .next t ∧ marks t (a.unit / 8) ∧ t.self = s.self ∧ logs t MC_DRAM_UE) ∧
      (a.flag = true → s.strandInSlot a.sub = some st → st = s.self → ∃ t, exec .dramUe s = .next t ∧
        marks t (a.unit / 8) ∧ t.self = { s.self with ended := true, wait := none })) ∧
    (a.unit = 0 → a.flag = false → ∃ t, exec .sramUe s = .next t ∧ marks t (a.sub / 8) ∧ logs t MC_SRAM_UE) ∧
    (a.unit = 1 → s.strandInSlot a.sub = some st → st = s.self →
      ∃ t, exec .sramUe s = .next t ∧ t.self = { s.self with ended := true, wait := none } ∧ s.sameMemory t) ∧
    (a.unit = 2 → (s.chan a.sub).entry = none → exec .sramUe s = .next (s.machineCheck MC_SRAM_UE (a.sub / 32) 0 0)) ∧
    (a.flag = false → exec .cacheParityError s = .next { s with copies := s.copies.eraseIdx a.unit }) ∧
    (a.flag = true → s.strandInSlot a.sub = some st → exec .cacheParityError s = .next (s.mapStrand st.crew st.idx (fun st =>
      { st with
        looped := st.looped.filter (fun x => x.toNat / 128 != a.unit)
        ahead := st.ahead.map (fun l => if l.vline = a.unit then { l with expiry := 0 } else l) }))) ∧
    (a.flag = false → exec .linkFail s =
      .next (s.machineCheck (if a.unit = 1 then MC_CXL else MC_LINK) (towerOfSlot a.sub % 16) 0 0)) ∧
    (a.flag = true → Place.isDram a.unit = true → sget none s.subOwner (subOf a.unit) = none →
      ∃ t, exec .patrolScrub s = .next t ∧ marks t (a.unit / 8) ∧ t.self = s.self ∧ t.ctxs = s.ctxs ∧ logs t MC_DRAM_UE) ∧
    (a.flag = false → exec .patrolScrub s = .next s) ∧
    (a.unit < 16 → s.towers.length = 16 →
      (∃ t, exec .laneDieTrip s = .next t ∧ (t.tower a.unit).laneDown = true ∧ logs t MC_THERM_LANE ∧ s.sameMemory t ∧
        (∀ c ∈ s.crews, c.id = s.self.crew → c.saved = false → (∃ k ∈ c.cores, towerOfCore k = a.unit) →
          t.self.ended = true)) ∧
      (∃ t, exec .laneDieRestart s = .next t ∧ (t.tower a.unit).laneDown = false ∧ t.self = s.self) ∧
      (s.stranded = [] →
        (∃ t, exec .rcDieTrip s = .next t ∧ (t.tower a.unit).rcDown = true ∧ t.mod.tup.getLsbD a.unit = false ∧
          logs t MC_THERM_RC ∧ keeps t) ∧
        (∃ t, exec .baseDieTrip s = .next t ∧ (t.tower a.unit).rcDown = true ∧ t.mod.tup.getLsbD a.unit = false ∧
          logs t MC_THERM_BASE ∧ keeps t)) ∧
      (∀ l, s.stranded = [(l, true)] → homeTower (128 * l) = a.unit → ∃ t, exec .rcDieTrip s = .next t ∧
        t.stranded = [] ∧ ∀ i, i < 16 → sget false t.poison (16 * l + i) = true)) ∧
    (a.unit < 16 → 1 ≤ a.sub → a.sub ≤ 16 → s.towers.length = 16 →
      ((s.tower a.unit).layersDown = [] → (∀ k ∈ layerChans a.unit a.sub, (s.chan k).entry = none) →
        ∃ t, exec .dramLayerTrip s = .next t ∧ (t.tower a.unit).layersDown = [a.sub - 1] ∧ t.self = s.self ∧
          s.sameMemory t ∧ ∀ l, (l, true) ∈ s.dirty → onLayer a.unit a.sub l = true → sget false t.stranded l = true) ∧
      ((s.tower a.unit).layersDown = [a.sub - 1] → s.inflight = [] → ∃ t, exec .dramLayerReturn s = .next t ∧
        (t.tower a.unit).layersDown = [] ∧ t.self = s.self ∧ t.poison = s.poison ∧
        (∀ q, Memory.get t.mem q = Memory.get s.mem q) ∧
        ∀ key q, sget false s.stranded (q / 128) = false → t.byteAt key q = s.byteAt key q)) ∧
    (a.unit < 8 → s.mod.outerDown = [] →
      exec .outerMemoryTrip s = .next { s with mod := { s.mod with outerDown := [a.unit] } }) ∧
    (a.unit < 8 → s.mod.outerDown = [a.unit] →
      exec .outerMemoryReturn s = .next { s with mod := { s.mod with outerDown := [] } }) ∧
    (a.unit = 2 → ∃ t, exec .ioChipletTrip s = .next t ∧ t.mod.ports = s.mod.ports.set 2 false ∧ logs t MC_CXL ∧
      s.sameMemory t)

/-! ## The machine -/

/-- A step runs the instruction that is decoded: a turn of another agent runs its step with the turn's operands; a
strand's turn runs what its fetch decodes at its program counter, when it may issue and its checks pass, and then
forgets lines fetched ahead; an instruction that has had a part of its effect goes on without a fetch (08 R266), and
both words of a pair within one line come from one fetch (08 R279); a turn of a strand that may not issue passes, and
one of an empty slot is the model's own fault (log 1). -/
def Obligations.StepRunsDecodedInstruction : Prop :=
  ∀ (s u w x v : State) (i : Instr) (args : EventArgs) (slot : Nat) (ahead : Bool) (a : Word) (rest : List Turn)
    (l m : FetchLine) (p : Parcel) (len : Nat),
    let t := { s with agenda := rest }
    (s.agenda = .event i args :: rest → i.isEvent = true → step s = exec i { t with args }) ∧
    (s.agenda = .cycle :: rest → step s = .next t.coreCycle) ∧
    (s.agenda = .fetchAhead slot a :: rest → step s = .next (t.aheadTurn slot a)) ∧
    (∀ k, s.agenda = .evict k :: rest → step s = .next (t.dropCopy k) ∧
      ((∀ c core, t.copies[k]? = some c → c.holder ≠ .tile core) → t.dropCopy k = { t with copies := t.copies.eraseIdx k })) ∧
    (∀ n, s.agenda = .useReport n :: rest → step s = .next (t.useReport n)) ∧
    (∀ l, s.agenda = .hostDrop l :: rest → step s = .next { t with hostLines := sset false t.hostLines l false }) ∧
    (∀ l, s.agenda = .writeBack l :: rest → step s = .next (t.writeBack l)) ∧
    (∀ k, s.agenda = .publish slot k :: rest → step s = .next (t.partTurn slot k)) ∧
    (∀ n asid how, s.agenda = .keepWalk n asid a how :: rest → step s = .next (t.keepWalk n asid a how)) ∧
    (∀ leaf n, s.agenda = .dropWalk leaf n :: rest → step s = .next (t.dropWalk leaf n)) ∧
    (s.agenda = .strand slot ahead :: rest →
      (t.focus slot = none → step s = .fault (.noStrand slot)) ∧
      (t.focus slot = some u → u.mayIssue u.self = false → step s = .next u) ∧
      (let runs (j : Instr) (x : State) : Prop := (exec j x = .next v → step s = .next (v.afterInstr j len x.self x.serial)) ∧
        (∀ f, exec j x = .fault f → step s = .fault f) ∧ ∀ r, exec j x = .refused r → step s = .refused r
       t.focus slot = some u → u.mayIssue u.self = true →
        (u.self.cur = some (i, len) → runs i u) ∧
        (u.self.cur = none →
          (∀ e, u.fetchInstr ahead = .error e → step s = .next (u.onStop e)) ∧
          (∀ j, u.fetchInstr ahead = .ok (.instr i len, w) → w.admitInstr i len = .run j len x → runs j x)))) ∧
    (u.fetchLine u.self.pc ahead = .ok (l, w) →
      (l.pairAt u.self.pc = false ∨ l.serves w (u.self.pc + 4) = true → u.fetchFirst ahead = .ok (l, w)) ∧
      (l.pairAt u.self.pc = true → l.serves w (u.self.pc + 4) = false →
        u.fetchFirst ahead = w.fetchCopy (!u.self.priv) u.self.pc (u.self.pc + 4))) ∧
    (u.fetchFirst ahead = .ok (l, w) → p = parcelOf l.data u.self.pc →
      (isPrefix p = false → (u.self.pc.getLsbD 1 = false ∨ isWide p = false) →
        u.fetchInstr ahead = .ok (decode (u.self.pc.getLsbD 1) p 0, w)) ∧
      (isPrefix p = true → u.self.pc.getLsbD 1 = false →
        (u.self.pc.toNat % 128 ≠ 124 → u.fetchInstr ahead = .ok (decode false p (parcelOf l.data (u.self.pc + 4)), w)) ∧
        (u.self.pc.toNat % 128 = 124 → w.fetchLine (u.self.pc + 4) ahead = .ok (m, x) →
          u.fetchInstr ahead = .ok (decode false p (parcelOf m.data (u.self.pc + 4)), x))) ∧
      (isWide p = true → u.self.pc.getLsbD 1 = true → u.fetchInstr ahead = .error (.fault ALIGN u.self.pc))) ∧
    (w.yieldEntry w.self = none → (w.self.long = true ∨ ∀ r ∈ i.vectorFields, r.toNat < 32) →
      (privileged i = false ∨ w.self.priv = true) → w.self.straddles len = none → w.self.pcnt < w.crew.limit →
      w.self.stopReq = false →
      w.admitInstr i len = .run i len w)

/-- 02 R46 and R54, R185, R217: before it executes, an instruction that names v32 to v63 in short mode raises ILL_FIELD, a
supervisor-only one PRIV in user code, one that straddles a loop's end LOOP_DEPTH; and one past the limit
PREEMPT_LIMIT. R183: a strand asked to stop goes no further than a back-edge. R46, R71, R185, R50: an opcode no row
defines raises ILL_OPC at its word; PREEMPT_LIMIT ends the launch; the padding half only advances. The step's flag
says which word of a pair it was (the model's own operand, log 1). -/
def Obligations.ChecksBeforeExecution : Prop :=
  (∀ (s : State) (i : Instr) (len : Nat) (e : Word),
     let fields := s.self.long = true ∨ ∀ r ∈ i.vectorFields, r.toNat < 32
     let allowed := privileged i = false ∨ s.self.priv = true
     (s.self.long = false → (∃ r ∈ i.vectorFields, 32 ≤ r.toNat) → len ≠ 8 →
       s.admitInstr i len = .over (s.raise ILL_FIELD s.self.pc)) ∧
     (s.self.long = false → (∃ r ∈ i.vectorFields, 32 ≤ r.toNat) → len = 8 →
       s.admitInstr i len = .over (s.raise ILL_FIELD (s.self.pc + 4))) ∧
     (fields → ¬ allowed → s.admitInstr i len = .over (s.raise PRIV s.self.pc)) ∧
     (fields → allowed → s.self.straddles len = some e → s.admitInstr i len = .over (s.raise LOOP_DEPTH e)) ∧
     (fields → allowed → s.self.straddles len = none → s.yieldEntry s.self = none → isYield i = false →
       s.crew.ctx ≠ bootCtx → s.crew.limit ≤ s.self.pcnt → s.self.stopReq = false → s.admitInstr i len = .run .preemptLimit len s) ∧
     (fields → allowed → s.self.straddles len = none → s.yieldEntry s.self = none → s.self.stopReq = true →
       s.self.wait = none → s.self.cleared = [] → s.self.atBackEdge = true → s.admitInstr i len = .over s)) ∧
  (∀ s : State,
     (s.args.flag = false → exec .illOpc s = .next (s.endLaunch ILL_OPC s.self.pc)) ∧
     (s.args.flag = true → exec .illOpc s = .next (s.endLaunch ILL_OPC (s.self.pc + 4))) ∧
     exec .preemptLimit s = .next (s.endLaunch PREEMPT_LIMIT 0) ∧
     exec .paddingHalf s = .next (s.mapSelf (fun st => st.advance 2)))

/-- Example words of the encoding tables of 02, 05, 06, 07, 08 and 09 decode to the instructions they stand for. -/
def Obligations.ExampleWordsDecode : Prop :=
  decodeTableWord 32 0x01C61403 = some (.add { d := 5, a := 6, b := 7 }) ∧
  decodeTableWord 32 0xFF46140B = some (.addi { d := 5, a := 6, imm := -3 }) ∧
  decodeTableWord 32 0x00221463 = some (.br { a := 5, cond := 2, off := 4 }) ∧
  decodeTableWord 32 0x0002006B = some (.jmp { off := 0x80 }) ∧
  decodeTableWord 32 0x000A1477 = some (.loopR { count := 5, body := 10 }) ∧
  decodeTableWord 32 0x000D148B = some (.getc { d := 5, imm := 13 }) ∧
  decodeTableWord 32 0xF80614A7 = some (.stS { d := 5, a := 6, imm := 0x3E0 }) ∧
  decodeTableWord 32 0x00073123 = some (.spawn { d := 12, a := 7 }) ∧
  decodeTableWord 32 0x11C60113 = some (.cpub { fn := 1, a := 6, b := 7 }) ∧
  decodeTableWord 64 0x4040097700001BFF = some (.prefixedPair { rnd := 6 } (.vadd { fn := 4, d := 2, a := 0, b := 1 }))

/-- 02 R41 to R58: decoding what the encoder gives for a well-formed instruction gives it back with its length, whatever
its operands; and a word, a pair or a half that decodes is what the encoder gives for the instruction. -/
def Obligations.DecodeAndEncodeAgree : Prop :=
  (∀ i : Instr, wellFormed i = true →
    decode (i.len == 2) ((encode i).getD 0 0) ((encode i).getD 1 0) = .instr i i.len) ∧
  (∀ (p : Parcel) (i : Instr), decode false p 0 = .instr i 4 → encode i = [p] ∧ wellFormed i = true) ∧
  (∀ (p q : Parcel) (i : Instr), decode false p q = .instr i 8 → encode i = [p, q] ∧ wellFormed i = true) ∧
  (∀ (p : Parcel) (i : Instr), decode false p 0 = .instr i 2 → encodeHalf i = p.extractLsb' 0 16 ∧ wellFormed i = true) ∧
  (∀ (p : Parcel) (i : Instr), decode true p 0 = .instr i 2 →
    encode i = [p.extractLsb' 16 16 ++ 0x000A#16] ∧ wellFormed i = true)

/-- R43, R49, R58, R71: a parcel of zeros, an opcode from 0xBF to 0xFE and a compressed opcode of no row raise ILL_OPC; a
first word before a compressed parcel, another first word or any instruction that takes none is an orphan; its own
reserved bits, and fields that the second word does not use, raise ILL_FIELD for it, bad fields of the second word for
that one; and a word's own bad fields do. -/
def Obligations.ReservedEncodings : Prop :=
  ∀ (p q : Parcel) (high : Bool) (h : BitVec 16) (j : Instr) (u : PxUse),
    let op (x : Parcel) : Nat := (x.extractLsb' 2 8).toNat
    let takesFirst (n : Nat) : Prop := (0x5D ≤ n ∧ n ≤ 0x7F) ∨ (0x90 ≤ n ∧ n ≤ 0x97) ∨ (0xA2 ≤ n ∧ n ≤ 0xA7)
    let sel := (h.extractLsb' 0 2).toNat
    let cop := (h.extractLsb' 2 3).toNat
    decode high 0 q = .illOpc false ∧
    (isWide p = true → 0xBF ≤ op p → op p ≠ 0xFF → decode false p q = .illOpc false) ∧
    (isWide p = true → decodeFields p = some j → wordOk j = false → decode false p q = .illField false) ∧
    (isWide p = false → p ≠ 0 → decode high p q = decodeHalf (p.extractLsb' (if high then 16 else 0) 16)) ∧
    (isPrefix p = true →
      decode false p 0 = .illOpc true ∧ (q ≠ 0 → isWide q = false → decode false p q = .orphan) ∧
      (isPrefix q = true → decode false p q = .orphan) ∧
      (isWide q = true → op q ≤ 0xBE → ¬ takesFirst (op q) → decode false p q = .orphan) ∧
      (isWide q = true → 0xBF ≤ op q → op q ≠ 0xFF → decode false p q = .illOpc true) ∧
      (isWide q = true → takesFirst (op q) → p.extractLsb' 29 3 ≠ 0 → decode false p q = .illField false) ∧
      (isWide q = true → decodeFields q = some j → pxUse j = some u →
        ((Prefix.ofParcel p).ok u = false → decode false p q = .illField false) ∧
        (p.extractLsb' 29 3 = 0 → (Prefix.ofParcel p).ok u = true → wordOk j = false ∨ secondE j = 1 →
          decode false p q = .illField true))) ∧
    ((sel = 1 ∧ cop = 7) ∨ (sel = 2 ∧ 5 ≤ cop) ∨ (sel = 3 ∧ h ≠ 3) → decodeHalf h = .illOpc false)

/-- The invariant: every step keeps the canonical form of memory and of the keys its lines stand under. -/
def Obligations.EveryStepKeepsMemoryForm : Prop :=
  ∀ s t : State, s.Inv → step s = .next t → t.Inv

/-- R489, R490: after reset no tower is up, no strand is placed, the module is not ready, the tide stands, no context is
enabled; the reset values of TUP, READY, DUTY and PCAP are those of their tables. That memory lists nothing is the
model's choice of what it reads as (log 4), and other values that no rule gives are log 6's. R171: the state a strand
starts an iteration with. The invariant holds at reset. -/
def Obligations.ResetState : Prop :=
  State.reset.Inv ∧ State.reset.mem = [] ∧ State.reset.phase = .held ∧ State.reset.mod.tup = 0 ∧ State.reset.mod.ready = false ∧
  State.reset.mod.berr = 0 ∧ State.reset.mod.duty = 0 ∧ State.reset.mod.pcap = 1300 ∧ State.reset.strands = [] ∧
  State.reset.crews = [] ∧ State.reset.manifests = [] ∧ State.reset.tideOn = false ∧ State.reset.tide = 0 ∧
  (∀ (k : Nat) (c : Ctx), State.reset.ctxs[k]? = some c → c.en = false ∧ c.run = false ∧ c.launch = none) ∧
  (∀ k, (State.reset.chan k).wd = 0 ∧ (State.reset.chan k).entry = none) ∧
  (∀ k n sub r, State.reset.stateOfRow k n sub r = .isSealed ∧ State.reset.lockOf k n sub r = 0) ∧
  (∀ k n sub w, State.reset.readRef k n sub (.work w) = .error (.watchdog 0)) ∧
  (∀ (slot crew idx : Nat) (entry arg : Word) (mid : BitVec 32) (indices : List (BitVec 32)),
    let t := freshStrand slot crew idx entry arg mid indices
    t.slot = slot ∧ t.crew = crew ∧ t.idx = idx ∧ t.pc = entry ∧
    (∀ l, l < 6 → t.readG (l + 1) = ((indices[l]?).getD 0).setWidth 64) ∧ t.readG 7 = arg ∧ t.readG 8 = word idx ∧
    t.readG 9 = mid.setWidth 64 ∧ (∀ r, 10 ≤ r → r < 32 → t.readG r = 0) ∧ (∀ r, r < 32 → t.gIsFull r = true) ∧
    (∀ (r : Nat) (x : List Byte), t.q[r]? = some x → x = List.replicate 32 0) ∧ t.q.length = 32 ∧
    (∀ i : Fin 16, t.sd[i] = 0) ∧ t.m[0]? = some (List.replicate 32 true) ∧
    (∀ k, 1 ≤ k → k < 8 → t.m[k]? = some (List.replicate 32 false)) ∧ t.acc0 = [] ∧ t.acc1 = [] ∧ t.loops = [] ∧
    t.long = false ∧ t.vl = 0 ∧ t.eidx = 0 ∧ t.srs = 0 ∧ t.rot = 0 ∧ t.rmode = 1 ∧ t.tvec = 0 ∧ t.tpc = 0 ∧
    t.tcode = 0 ∧ t.tkind = 0 ∧ t.taddr = 0 ∧ t.pcnt = 0 ∧ t.priv = false ∧ t.inTrap = false)

/-- 01 R34, 02 R55: an instruction with an empty g source waits and does nothing else, or with E set (in a pair with the
EMP bit) raises FE_EMPTY with the register's number; one with an empty index register of a pair waits. An instruction
that writes a register whose producer is pending waits. Which of several empty sources comes first, and which checks
come before one, is the model's order (log 33). -/
def Obligations.EmptySources : Prop :=
  ∀ (s : State) (f : FA) (i : FI) (c : CR) (n : CI) (z : CB) (j : FB) (l : FL) (u : FU) (px : Prefix) (v : Word),
    let waits : State := s.mapSelf (fun st => { st with wait := some .retry })
    let empty (r : Reg) (traps : Bool) : Host.Outcome State Fault Refusal :=
      if traps then .next (s.raise FE_EMPTY (r.setWidth 64)) else .next waits
    let hollow (r : Reg) : Prop := s.self.gIsFull r.toNat = false
    let full (r : Reg) : Prop := s.self.gIsFull r.toNat = true
    let arith : List Instr := [.add f, .sub f, .andR f, .orR f, .xorR f, .shl f, .shr f, .sar f, .mul f, .div f, .rem f,
      .mulh f, .minmax f, .cmp f]
    let three : List Instr := [.sel f, .ffma f]
    let two : List Instr := arith ++ three ++ [.fops f, .fcmp f, .fefill f, .amoS f, .rginit f, .cpub f, .cpubq f, .ipatch f,
      .wseq f, .mset f, .casG f, .fredG f, .famoG f, .gflush f, .rtag f, .mtag f, .crnR f, .crnF f, .crnw f,
      .ldB f, .stB f, .bcall f, .bfence f, .block f, .bunlk f, .bseal f, .bscrub f, .bcsl f, .bwdog f, .bpart f, .mma f]
    let one : List Instr := [.fcvt f, .jr f, .wfull f, .casS f, .rgclaim f, .rgtake f, .rgpost f, .rgfree f, .leaseq f,
      .cbar f, .cbarq f, .vmov f, .rgrain f, .rdrop f, .gquery f, .seed f, .srseed f, .mld f, .mst f, .mtr f, .mbar f, .mwait f,
      .mramp f, .mscl f, .crn f, .crnT f, .crnC f, .crnq f, .crnX f, .bstat f, .bsave f, .brest f, .bmode f]
    let based : List Instr := [.amoG f, .redG f, .vredG f, .vfredG f, .vld f, .vst f, .vlds f, .vsts f, .vldx f, .vstx f]
    (hollow f.a → ∀ x ∈ two ++ one, exec x s = empty f.a f.trap) ∧
    (hollow (baseReg f) → ∀ x ∈ based, exec x s = empty (baseReg f) f.trap) ∧
    (hollow f.a →
      (s.self.long = true → exec (.setvl f) s = empty f.a f.trap ∧ exec (.mmas f) s = empty f.a f.trap) ∧
      (s.self.long = false → exec (.vlong f) s = empty f.a f.trap) ∧
      (s.self.priv = true → exec (.tsplit f) s = empty f.a f.trap) ∧
      (s.self.long = true → 128 ≤ s.crew.vlGrant → exec (.mrow f) s = empty f.a f.trap) ∧
      (s.crew.size = 8 → exec (.mmaC f) s = empty f.a f.trap ∧ (s.self.long = true → exec (.mmax f) s = empty f.a f.trap)) ∧
      (s.crew.ctx ≠ bootCtx → exec (.spawn f) s = empty f.a f.trap ∧ (f.d ≠ 0 → exec (.spawnw f) s = empty f.a f.trap))) ∧
    (full f.a → hollow f.b → (∀ x ∈ two, exec x s = empty f.b f.trap) ∧
      (f.a ≠ 0 → exec (.cbarq f) s = empty f.b f.trap)) ∧
    (full (baseReg f) → hollow f.b → ∀ x ∈ [Instr.amoG f, .redG f, .vlds f, .vsts f], exec x s = empty f.b f.trap) ∧
    (hollow f.b → exec (.xch f) s = empty f.b f.trap ∧ (s.self.long = true → exec (.vxch f) s = empty f.b f.trap) ∧
      (s.self.vIsFull f.a.toNat = true → exec (.vslide f) s = empty f.b f.trap) ∧
      (full f.a → (s.self.long = true → exec (.mmas f) s = empty f.b f.trap) ∧
        (s.crew.size = 8 → exec (.mmaC f) s = empty f.b f.trap ∧
          (s.self.long = true → exec (.mmax f) s = empty f.b f.trap)))) ∧
    (full f.a → full f.b → hollow f.d → ∀ x ∈ three ++ [.casG f], exec x s = empty f.d f.trap) ∧
    (∀ (a : Word) (w : Space × Word × Option Nat), s.source f.a a → a.toNat % (if f.fn == 1 then 4 else 8) = 0 →
      s.locate .s a (if f.fn == 1 then 4 else 8) = .ok w → (hollow f.b → exec (.casS f) s = empty f.b f.trap) ∧
      (full f.b → hollow f.d → exec (.casS f) s = empty f.d f.trap)) ∧
    (hollow i.a → ∀ x ∈ [Instr.addi i, .logi i, .shi i, .ldS i, .ldC i, .ldT i, .ldG i, .stS i, .stC i, .stT i, .stG i,
      .ldq i, .stq i, .ldfe i, .ldfeC i, .stfe i, .stfeC i, .pref i], exec x s = .next waits) ∧
    (hollow i.d → ∀ (a : Word) (w : Space × Word × Option Nat) (sp : SpaceName),
      (s.effective i (2 ^ i.sz.toNat) = .ok a → s.locate sp a (2 ^ i.sz.toNat) = .ok w →
        (sp = .s → exec (.stS i) s = .next waits ∧ (i = expandS c → exec (.cSts c) s = .next waits)) ∧ (sp = .c → exec (.stC i) s = .next waits) ∧
        (sp = .t → exec (.stT i) s = .next waits) ∧ (sp = .g → exec (.stG i) s = .next waits)) ∧
      (s.effective i 8 = .ok a → s.locate sp a 8 = .ok w →
        (sp = .s → exec (.stfe i) s = .next waits) ∧ (sp = .c → exec (.stfeC i) s = .next waits))) ∧
    (hollow j.a → (j.cond.toNat < 6 → exec (.br j) s = .next waits) ∧ exec (.brb j) s = .next waits) ∧
    (hollow l.count → exec (.loopR l) s = .next waits) ∧
    (hollow u.d → u.imm ≠ 0x11 ∨ s.self.priv = true → exec (.setc u) s = .next waits) ∧
    (hollow (reg4 c.d) → ∀ x ∈ [Instr.cAdd c, .cSub c, .cAnd c, .cOr c, .cXor c], exec x s = .next waits) ∧
    (hollow (reg4 c.a) → ∀ x ∈ [Instr.cMv c, .cLds c, .cSts c, .cJr c], exec x s = .next waits) ∧
    (full (reg4 c.d) → hollow (reg4 c.a) → ∀ x ∈ [Instr.cAdd c, .cSub c, .cAnd c, .cOr c, .cXor c], exec x s = .next waits) ∧
    (hollow (reg4 n.d) → ∀ x ∈ [Instr.cAddi n, .cShli n, .cShri n], exec x s = .next waits) ∧
    (hollow (reg4 z.a) → ∀ x ∈ [Instr.cBeqz z, .cBnez z, .cBrb z], exec x s = .next waits) ∧
    (hollow f.a → exec (.prefixedPair px (.vmov f)) s = empty f.a (trapA px f) ∧
      exec (.prefixedPair px (.mma f)) s = empty f.a (trapA px f)) ∧
    (full f.a → hollow f.b → exec (.prefixedPair px (.mma f)) s = empty f.b (trapB px f)) ∧
    (px.ixb ≠ 0 → hollow px.ixb → s.self.vIsFull f.a.toNat = true → s.self.vIsFull f.b.toNat = true →
      ∀ x ∈ [Instr.vadd f, .vsub f, .vmul f], exec (.prefixedPair px x) s = .next waits) ∧
    (s.source f.a v → s.source f.b v → s.pendingOn s.self.crew s.self.idx (.g f.d.toNat) = true →
      ∀ x ∈ [Instr.add f, .sub f, .andR f, .orR f, .xorR f, .shl f, .shr f, .sar f, .mul f], exec x s = .next waits)

/-! ## Frames -/

/-- R205, R219 to R236: what the sequencer's instructions leave as it was, whatever they come to: every byte of memory,
every word's full/empty bit, poison and publish mark; q, v, m, the accumulators, sd and the queues; every g register
but the destination, with its full/empty bit; the control registers but the one setc names; the other strands,
accesses and channels; and, where no empty source traps, the trap registers. The program counter and the loop stack
may change. -/
def Obligations.SequencerFrame : Prop :=
  ∀ (s t : State) (f : FA) (i : FI) (u : FU) (b : FB) (j : FJ) (l : FL) (n : Instr),
    let rest : Prop := s.sameMemory t ∧ s.self.sameEngines t.self ∧ t.peers = s.peers ∧ t.saved = s.saved ∧
      t.reqs = s.reqs ∧ t.returns = s.returns ∧ t.chans = s.chans ∧ t.mod = s.mod
    let others (d : Nat) : Prop := ∀ r, r ≠ d → t.self.readG r = s.self.readG r ∧ t.self.gIsFull r = s.self.gIsFull r
    let allG : Prop := ∀ r, t.self.readG r = s.self.readG r ∧ t.self.gIsFull r = s.self.gIsFull r
    exec n s = .next t →
    (n ∈ [Instr.add f, .sub f, .andR f, .orR f, .xorR f, .shl f, .shr f, .sar f, .mul f, .mulh f, .div f, .rem f,
        .minmax f, .cmp f, .sel f, .fops f, .ffma f, .fcmp f, .fcvt f, .fe f, .lidx f, .jr f] →
      rest ∧ others f.d.toNat ∧ s.self.sameControl t.self ∧ (f.e = 0 → s.self.sameTrap t.self)) ∧
    (n ∈ [Instr.addi i, .logi i, .shi i] → rest ∧ others i.d.toNat ∧ s.self.sameControl t.self ∧ s.self.sameTrap t.self) ∧
    (n ∈ [Instr.lui u, .addpc u, .getc u] →
      rest ∧ others u.d.toNat ∧ s.self.sameControl t.self ∧ s.self.sameTrap t.self) ∧
    (n = .br b ∨ n = .jmp j ∨ n = .loopR l ∨ n = .loopi l →
      rest ∧ allG ∧ s.self.sameControl t.self ∧ s.self.sameTrap t.self) ∧
    (n = .brb b → rest ∧ others b.a.toNat ∧ s.self.sameControl t.self ∧ s.self.sameTrap t.self) ∧
    (n = .jal j → rest ∧ others 31 ∧ s.self.sameControl t.self ∧ s.self.sameTrap t.self) ∧
    (n = .lexit f → rest ∧ allG ∧ s.self.sameControl t.self ∧ s.self.sameTrap t.self) ∧
    (n ∈ [Instr.trap u, .sys u, .brk u, .tret f] → rest ∧ allG ∧ s.self.sameControl t.self) ∧
    (n = .setc u → rest ∧ allG ∧ (u.imm ≠ 1 → t.self.tvec = s.self.tvec) ∧ (u.imm ≠ 2 → t.self.tpc = s.self.tpc) ∧
      (u.imm ≠ 3 → t.self.tcode = s.self.tcode ∧ t.self.tkind = s.self.tkind) ∧
      (u.imm ≠ 4 → t.self.taddr = s.self.taddr) ∧ (u.imm ≠ 5 → t.self.eidx = s.self.eidx) ∧
      (u.imm ≠ 6 → t.self.srs = s.self.srs) ∧ (u.imm ≠ 7 → t.self.rot = s.self.rot) ∧
      (u.imm ≠ 8 → t.self.rmode = s.self.rmode) ∧ t.self.priv = s.self.priv ∧ t.self.inTrap = s.self.inTrap)

/-- R246, R254, R330: what the issue of a load, a store or an atomic leaves as it was, whatever it comes to: every byte of
memory (the access is performed later, at the place its request names), q, v, m, accumulators and queues, the control
registers, and every g register but the destination; a register that awaits its value keeps its bits. -/
def Obligations.AccessFrame : Prop :=
  ∀ (s t : State) (f : FA) (i : FI) (n : Instr),
    let rest : Prop := s.sameMemory t ∧ t.peers = s.peers ∧ t.saved = s.saved ∧ t.chans = s.chans ∧
      s.self.sameControl t.self ∧ t.self.m = s.self.m ∧ t.self.acc0 = s.self.acc0 ∧ t.self.acc1 = s.self.acc1 ∧
      t.self.sd = s.self.sd ∧ t.self.mq = s.self.mq ∧ t.self.cq = s.self.cq ∧ t.self.v = s.self.v ∧ t.self.q = s.self.q
    let others (d : Nat) : Prop := ∀ r, t.self.readG r = s.self.readG r ∧ (r ≠ d → t.self.gIsFull r = s.self.gIsFull r)
    exec n s = .next t →
    (n ∈ [Instr.ldS i, .ldC i, .ldT i, .ldG i] →
      rest ∧ others i.d.toNat ∧ t.self.qFull = s.self.qFull ∧ s.self.sameTrap t.self) ∧
    (n ∈ [Instr.stS i, .stC i, .stT i, .stG i] →
      rest ∧ others 0 ∧ t.self.qFull = s.self.qFull ∧ s.self.sameTrap t.self) ∧
    (n = .ldq i → rest ∧ others 0 ∧ (∀ r, r < 32 → r ≠ i.d.toNat → t.self.qFull.getLsbD r = s.self.qFull.getLsbD r)) ∧
    (n = .stq i → rest ∧ others 0 ∧ t.self.qFull = s.self.qFull) ∧
    (n ∈ [Instr.casS f, .amoS f, .amoG f, .casG f, .famoG f] →
      rest ∧ others f.d.toNat ∧ t.self.qFull = s.self.qFull ∧ (f.e = 0 → s.self.sameTrap t.self)) ∧
    (n ∈ [Instr.redG f, .fredG f] →
      rest ∧ others 0 ∧ t.self.qFull = s.self.qFull ∧ (f.e = 0 → s.self.sameTrap t.self))

/-- 09 R286, R299 to R310; 10 R333, R334; 11 R343 to R356; 12 R371, R372: what a vector or rotator instruction leaves as
it was, whatever it comes to: memory, every g register, every vector register's bytes (the result arrives later) and
the full bits of all but its destinations (v63 too for a conversion that writes it), the masks but the one that vcmp
and mset write, accumulators, sd and queues; a vector memory form adds accesses and changes no byte of memory, for
they are performed later; what the issue of a matrix command leaves when its queue has an entry free: memory, every
register, and the crane queue, but for the full bits of the v registers that mrow and mcvt will write. -/
def Obligations.EngineFrame : Prop :=
  ∀ (s t : State) (f : FA) (n : Instr),
    let base : Prop := s.sameMemory t ∧ t.peers = s.peers ∧ t.saved = s.saved ∧ s.self.sameControl t.self ∧
      t.self.g = s.self.g ∧ t.self.acc0 = s.self.acc0 ∧ t.self.acc1 = s.self.acc1 ∧ t.self.sd = s.self.sd ∧
      t.self.cq = s.self.cq ∧ t.self.v = s.self.v ∧ t.self.q = s.self.q ∧ t.self.vl = s.self.vl ∧
      t.self.long = s.self.long ∧ (f.e = 0 → s.self.sameTrap t.self)
    let rest : Prop := base ∧ t.reqs = s.reqs ∧ t.chans = s.chans ∧ t.self.gFull = s.self.gFull ∧ t.self.m = s.self.m
    let issues : Prop := base ∧ (∃ l, t.reqs = s.reqs ++ l) ∧ t.self.gFull = s.self.gFull ∧ t.self.m = s.self.m ∧
      t.self.mq = s.self.mq ∧ ∀ k, (t.chan k).entry = (s.chan k).entry ∧ (t.chan k).queue = (s.chan k).queue
    let others (l : List Nat) : Prop := ∀ r, r < 64 → r ∉ l → t.self.vFull.getLsbD r = s.self.vFull.getLsbD r ∧
      (r < 32 → t.self.qFull.getLsbD r = s.self.qFull.getLsbD r)
    exec n s = .next t →
    (n ∈ [Instr.vadd f, .vsub f, .vmul f, .vmulhI f, .vmulhN f, .vfma f, .vdiv f, .vdivN f, .vmin f, .vminN f, .vmax f,
        .vmaxN f, .vand f, .vor f, .vxor f, .vandn f, .vorn f, .vxnor f, .vshl f, .vshr f, .vsar f, .vsel f, .vmov f,
        .vabs f, .vneg f, .vexp2 f, .vlog2 f, .vrecip f, .vsqrt f, .vrsqrt f, .vact f, .vperm f, .vslide f, .vcompress f,
        .vexpand f, .vidx f, .rotv f, .unrotv f, .vredsum f, .vredsumO f, .vredmm f, .vscan f, .vsegred f, .cvtwF f,
        .qscale f] ∨ (n ∈ [Instr.cvtn f, .cvtw f] ∧ f.fn ≠ 3) ∨ (n = .cvti f ∧ f.fn ≠ 1 ∧ f.fn ≠ 2) →
      rest ∧ others [f.d.toNat] ∧ t.self.mq = s.self.mq) ∧
    (n ∈ [Instr.cvtn f, .cvtnF f, .cvtw f, .cvti f] → rest ∧ others [f.d.toNat, 63] ∧ t.self.mq = s.self.mq) ∧
    (n = .vsortkv f → rest ∧ others [f.d.toNat, (f.d + 1).toNat] ∧ t.self.mq = s.self.mq) ∧
    (n = .vcmp f ∨ n = .mset f →
      let k := if n = .vcmp f then f.d.toNat % 8 else f.d.toNat
      base ∧ t.reqs = s.reqs ∧ t.chans = s.chans ∧ t.returns = s.returns ∧ t.self.gFull = s.self.gFull ∧
        t.self.vFull = s.self.vFull ∧ t.self.qFull = s.self.qFull ∧ t.self.mq = s.self.mq ∧
        ∀ i, i ≠ k → t.self.m[i]? = s.self.m[i]?) ∧
    (n = .mpop f → base ∧ t.reqs = s.reqs ∧ t.chans = s.chans ∧ t.self.m = s.self.m ∧ t.self.vFull = s.self.vFull ∧
      t.self.qFull = s.self.qFull ∧ t.self.mq = s.self.mq ∧ ∀ r, r ≠ f.d.toNat → t.self.gIsFull r = s.self.gIsFull r) ∧
    (n ∈ [Instr.vld f, .vlds f, .vldx f] → issues ∧ others [f.d.toNat]) ∧
    (n ∈ [Instr.vst f, .vsts f, .vstx f, .vredG f, .vfredG f] →
      issues ∧ t.returns = s.returns ∧ t.self.vFull = s.self.vFull ∧ t.self.qFull = s.self.qFull) ∧
    (s.self.mq.outstanding.length < Config.mqEnt →
      (n ∈ [Instr.mzero f, .mld f, .mst f, .mtr f, .mscl f, .macc f, .mma f, .mmaC f, .mmas f, .mmax f, .mbar f] →
        rest ∧ t.self.vFull = s.self.vFull ∧ t.self.qFull = s.self.qFull ∧ t.returns = s.returns) ∧
      (n = .mrow f → rest ∧ t.self.qFull = s.self.qFull ∧ (∃ l, t.returns = s.returns ++ l) ∧
        ∀ r, r < 64 → r ≠ f.d.toNat → t.self.vFull.getLsbD r = s.self.vFull.getLsbD r) ∧
      (n = .mcvt f → let size := 8 * s.crew.vlGrant
        let regs := ((if f.fn.toNat / 2 ≠ 0 then 16384 else 32768) + size - 1) / size
        rest ∧ t.self.qFull = s.self.qFull ∧ (∃ l, t.returns = s.returns ++ l) ∧
          ∀ r, r < 64 → r < f.d.toNat ∨ f.d.toNat + regs ≤ r → t.self.vFull.getLsbD r = s.self.vFull.getLsbD r))
end

