-- ==== Sys2Proof/Laws/Dispatch.lean ====
section
/-! SUPPORT. Dispatch.lean: the arm of each constructor, and the meaning of each instruction that takes a first word,
as equations that hold by computation: proofs rewrite with them and never unfold `exec` or `State.paired`. -/

namespace Sys2Proof.Machine

theorem exec_prefixedPair (px : Prefix) (inner : Instr) (s : State) : exec (.prefixedPair px inner) s = execPrefixedPair px inner s := rfl
theorem exec_cMv (f : CR) (s : State) : exec (.cMv f) s = execCMv f s := rfl
theorem exec_cAdd (f : CR) (s : State) : exec (.cAdd f) s = execCAdd f s := rfl
theorem exec_cSub (f : CR) (s : State) : exec (.cSub f) s = execCSub f s := rfl
theorem exec_cAnd (f : CR) (s : State) : exec (.cAnd f) s = execCAnd f s := rfl
theorem exec_cOr (f : CR) (s : State) : exec (.cOr f) s = execCOr f s := rfl
theorem exec_cXor (f : CR) (s : State) : exec (.cXor f) s = execCXor f s := rfl
theorem exec_cLds (f : CR) (s : State) : exec (.cLds f) s = execCLds f s := rfl
theorem exec_cSts (f : CR) (s : State) : exec (.cSts f) s = execCSts f s := rfl
theorem exec_cAddi (f : CI) (s : State) : exec (.cAddi f) s = execCAddi f s := rfl
theorem exec_cLi (f : CI) (s : State) : exec (.cLi f) s = execCLi f s := rfl
theorem exec_cShli (f : CI) (s : State) : exec (.cShli f) s = execCShli f s := rfl
theorem exec_cShri (f : CI) (s : State) : exec (.cShri f) s = execCShri f s := rfl
theorem exec_cBeqz (f : CB) (s : State) : exec (.cBeqz f) s = execCBeqz f s := rfl
theorem exec_cBnez (f : CB) (s : State) : exec (.cBnez f) s = execCBnez f s := rfl
theorem exec_cBrb (f : CB) (s : State) : exec (.cBrb f) s = execCBrb f s := rfl
theorem exec_cJmp (f : CJ) (s : State) : exec (.cJmp f) s = execCJmp f s := rfl
theorem exec_cJr (f : CR) (s : State) : exec (.cJr f) s = execCJr f s := rfl
theorem exec_cNop (f : CR) (s : State) : exec (.cNop f) s = execCNop f s := rfl
theorem exec_cYield (f : CR) (s : State) : exec (.cYield f) s = execCYield f s := rfl
theorem exec_cLidx (f : CR) (s : State) : exec (.cLidx f) s = execCLidx f s := rfl
theorem exec_add (f : FA) (s : State) : exec (.add f) s = execAdd f s := rfl
theorem exec_sub (f : FA) (s : State) : exec (.sub f) s = execSub f s := rfl
theorem exec_addi (f : FI) (s : State) : exec (.addi f) s = execAddi f s := rfl
theorem exec_andR (f : FA) (s : State) : exec (.andR f) s = execAnd f s := rfl
theorem exec_orR (f : FA) (s : State) : exec (.orR f) s = execOr f s := rfl
theorem exec_xorR (f : FA) (s : State) : exec (.xorR f) s = execXor f s := rfl
theorem exec_logi (f : FI) (s : State) : exec (.logi f) s = execLogi f s := rfl
theorem exec_shl (f : FA) (s : State) : exec (.shl f) s = execShl f s := rfl
theorem exec_shr (f : FA) (s : State) : exec (.shr f) s = execShr f s := rfl
theorem exec_sar (f : FA) (s : State) : exec (.sar f) s = execSar f s := rfl
theorem exec_shi (f : FI) (s : State) : exec (.shi f) s = execShi f s := rfl
theorem exec_mul (f : FA) (s : State) : exec (.mul f) s = execMul f s := rfl
theorem exec_mulh (f : FA) (s : State) : exec (.mulh f) s = execMulh f s := rfl
theorem exec_div (f : FA) (s : State) : exec (.div f) s = execDiv f s := rfl
theorem exec_rem (f : FA) (s : State) : exec (.rem f) s = execRem f s := rfl
theorem exec_minmax (f : FA) (s : State) : exec (.minmax f) s = execMinmax f s := rfl
theorem exec_cmp (f : FA) (s : State) : exec (.cmp f) s = execCmp f s := rfl
theorem exec_sel (f : FA) (s : State) : exec (.sel f) s = execSel f s := rfl
theorem exec_lui (f : FU) (s : State) : exec (.lui f) s = execLui f s := rfl
theorem exec_addpc (f : FU) (s : State) : exec (.addpc f) s = execAddpc f s := rfl
theorem exec_fops (f : FA) (s : State) : exec (.fops f) s = execFops f s := rfl
theorem exec_ffma (f : FA) (s : State) : exec (.ffma f) s = execFfma f s := rfl
theorem exec_fcmp (f : FA) (s : State) : exec (.fcmp f) s = execFcmp f s := rfl
theorem exec_fcvt (f : FA) (s : State) : exec (.fcvt f) s = execFcvt f s := rfl
theorem exec_br (f : FB) (s : State) : exec (.br f) s = execBr f s := rfl
theorem exec_brb (f : FB) (s : State) : exec (.brb f) s = execBrb f s := rfl
theorem exec_jmp (f : FJ) (s : State) : exec (.jmp f) s = execJmp f s := rfl
theorem exec_jal (f : FJ) (s : State) : exec (.jal f) s = execJal f s := rfl
theorem exec_jr (f : FA) (s : State) : exec (.jr f) s = execJr f s := rfl
theorem exec_loopR (f : FL) (s : State) : exec (.loopR f) s = execLoop f s := rfl
theorem exec_loopi (f : FL) (s : State) : exec (.loopi f) s = execLoopi f s := rfl
theorem exec_lexit (f : FA) (s : State) : exec (.lexit f) s = execLexit f s := rfl
theorem exec_lidx (f : FA) (s : State) : exec (.lidx f) s = execLidx f s := rfl
theorem exec_fe (f : FA) (s : State) : exec (.fe f) s = execFe f s := rfl
theorem exec_getc (f : FU) (s : State) : exec (.getc f) s = execGetc f s := rfl
theorem exec_setc (f : FU) (s : State) : exec (.setc f) s = execSetc f s := rfl
theorem exec_trap (f : FU) (s : State) : exec (.trap f) s = execTrap f s := rfl
theorem exec_tret (f : FA) (s : State) : exec (.tret f) s = execTret f s := rfl
theorem exec_sys (f : FU) (s : State) : exec (.sys f) s = execSys f s := rfl
theorem exec_brk (f : FU) (s : State) : exec (.brk f) s = execBrk f s := rfl
theorem exec_ldS (f : FI) (s : State) : exec (.ldS f) s = execLdS f s := rfl
theorem exec_stS (f : FI) (s : State) : exec (.stS f) s = execStS f s := rfl
theorem exec_ldC (f : FI) (s : State) : exec (.ldC f) s = execLdC f s := rfl
theorem exec_stC (f : FI) (s : State) : exec (.stC f) s = execStC f s := rfl
theorem exec_ldT (f : FI) (s : State) : exec (.ldT f) s = execLdT f s := rfl
theorem exec_stT (f : FI) (s : State) : exec (.stT f) s = execStT f s := rfl
theorem exec_ldG (f : FI) (s : State) : exec (.ldG f) s = execLdG f s := rfl
theorem exec_stG (f : FI) (s : State) : exec (.stG f) s = execStG f s := rfl
theorem exec_ldq (f : FI) (s : State) : exec (.ldq f) s = execLdq f s := rfl
theorem exec_stq (f : FI) (s : State) : exec (.stq f) s = execStq f s := rfl
theorem exec_ldfe (f : FI) (s : State) : exec (.ldfe f) s = execLdfe f s := rfl
theorem exec_stfe (f : FI) (s : State) : exec (.stfe f) s = execStfe f s := rfl
theorem exec_fefill (f : FA) (s : State) : exec (.fefill f) s = execFefill f s := rfl
theorem exec_ldfeC (f : FI) (s : State) : exec (.ldfeC f) s = execLdfeC f s := rfl
theorem exec_stfeC (f : FI) (s : State) : exec (.stfeC f) s = execStfeC f s := rfl
theorem exec_fence (f : FA) (s : State) : exec (.fence f) s = execFence f s := rfl
theorem exec_xch (f : FA) (s : State) : exec (.xch f) s = execXch f s := rfl
theorem exec_rgclaim (f : FA) (s : State) : exec (.rgclaim f) s = execRgclaim f s := rfl
theorem exec_rgpost (f : FA) (s : State) : exec (.rgpost f) s = execRgpost f s := rfl
theorem exec_rgtake (f : FA) (s : State) : exec (.rgtake f) s = execRgtake f s := rfl
theorem exec_rgfree (f : FA) (s : State) : exec (.rgfree f) s = execRgfree f s := rfl
theorem exec_rginit (f : FA) (s : State) : exec (.rginit f) s = execRginit f s := rfl
theorem exec_pref (f : FI) (s : State) : exec (.pref f) s = execPref f s := rfl
theorem exec_tsplit (f : FA) (s : State) : exec (.tsplit f) s = execTsplit f s := rfl
theorem exec_casS (f : FA) (s : State) : exec (.casS f) s = execCasS f s := rfl
theorem exec_amoS (f : FA) (s : State) : exec (.amoS f) s = execAmoS f s := rfl
theorem exec_leaseq (f : FA) (s : State) : exec (.leaseq f) s = execLeaseq f s := rfl
theorem exec_wfull (f : FA) (s : State) : exec (.wfull f) s = execWfull f s := rfl
theorem exec_cpub (f : FA) (s : State) : exec (.cpub f) s = execCpub f s := rfl
theorem exec_cpubq (f : FA) (s : State) : exec (.cpubq f) s = execCpubq f s := rfl
theorem exec_ifence (f : FA) (s : State) : exec (.ifence f) s = execIfence f s := rfl
theorem exec_ipatch (f : FA) (s : State) : exec (.ipatch f) s = execIpatch f s := rfl
theorem exec_spawn (f : FA) (s : State) : exec (.spawn f) s = execSpawn f s := rfl
theorem exec_spawnw (f : FA) (s : State) : exec (.spawnw f) s = execSpawnw f s := rfl
theorem exec_yield (f : FA) (s : State) : exec (.yield f) s = execYield f s := rfl
theorem exec_retire (f : FA) (s : State) : exec (.retire f) s = execRetire f s := rfl
theorem exec_cbar (f : FA) (s : State) : exec (.cbar f) s = execCbar f s := rfl
theorem exec_cbarq (f : FA) (s : State) : exec (.cbarq f) s = execCbarq f s := rfl
theorem exec_wseq (f : FA) (s : State) : exec (.wseq f) s = execWseq f s := rfl
theorem exec_abort (f : FU) (s : State) : exec (.abort f) s = execAbort f s := rfl
theorem exec_vlong (f : FA) (s : State) : exec (.vlong f) s = execVlong f s := rfl
theorem exec_vshort (f : FA) (s : State) : exec (.vshort f) s = execVshort f s := rfl
theorem exec_setvl (f : FA) (s : State) : exec (.setvl f) s = execSetvl f s := rfl
theorem exec_mset (f : FA) (s : State) : exec (.mset f) s = execMset f s := rfl
theorem exec_mpop (f : FA) (s : State) : exec (.mpop f) s = execMpop f s := rfl
theorem exec_vxch (f : FA) (s : State) : exec (.vxch f) s = execVxch f s := rfl
theorem exec_vidx (f : FA) (s : State) : exec (.vidx f) s = execVidx f s := rfl
theorem exec_vld (f : FA) (s : State) : exec (.vld f) s = execVld f s := rfl
theorem exec_vst (f : FA) (s : State) : exec (.vst f) s = execVst f s := rfl
theorem exec_vlds (f : FA) (s : State) : exec (.vlds f) s = execVlds f s := rfl
theorem exec_vsts (f : FA) (s : State) : exec (.vsts f) s = execVsts f s := rfl
theorem exec_vldx (f : FA) (s : State) : exec (.vldx f) s = execVldx f s := rfl
theorem exec_vstx (f : FA) (s : State) : exec (.vstx f) s = execVstx f s := rfl
theorem exec_vadd (f : FA) (s : State) : exec (.vadd f) s = execVadd f s := rfl
theorem exec_vsub (f : FA) (s : State) : exec (.vsub f) s = execVsub f s := rfl
theorem exec_vmul (f : FA) (s : State) : exec (.vmul f) s = execVmul f s := rfl
theorem exec_vmulhI (f : FA) (s : State) : exec (.vmulhI f) s = execVmulhI f s := rfl
theorem exec_vmulhN (f : FA) (s : State) : exec (.vmulhN f) s = execVmulhN f s := rfl
theorem exec_vfma (f : FA) (s : State) : exec (.vfma f) s = execVfma f s := rfl
theorem exec_vdiv (f : FA) (s : State) : exec (.vdiv f) s = execVdiv f s := rfl
theorem exec_vdivN (f : FA) (s : State) : exec (.vdivN f) s = execVdivN f s := rfl
theorem exec_vmin (f : FA) (s : State) : exec (.vmin f) s = execVmin f s := rfl
theorem exec_vminN (f : FA) (s : State) : exec (.vminN f) s = execVminN f s := rfl
theorem exec_vmax (f : FA) (s : State) : exec (.vmax f) s = execVmax f s := rfl
theorem exec_vmaxN (f : FA) (s : State) : exec (.vmaxN f) s = execVmaxN f s := rfl
theorem exec_vand (f : FA) (s : State) : exec (.vand f) s = execVand f s := rfl
theorem exec_vor (f : FA) (s : State) : exec (.vor f) s = execVor f s := rfl
theorem exec_vxor (f : FA) (s : State) : exec (.vxor f) s = execVxor f s := rfl
theorem exec_vandn (f : FA) (s : State) : exec (.vandn f) s = execVandn f s := rfl
theorem exec_vorn (f : FA) (s : State) : exec (.vorn f) s = execVorn f s := rfl
theorem exec_vxnor (f : FA) (s : State) : exec (.vxnor f) s = execVxnor f s := rfl
theorem exec_vshl (f : FA) (s : State) : exec (.vshl f) s = execVshl f s := rfl
theorem exec_vshr (f : FA) (s : State) : exec (.vshr f) s = execVshr f s := rfl
theorem exec_vsar (f : FA) (s : State) : exec (.vsar f) s = execVsar f s := rfl
theorem exec_vcmp (f : FA) (s : State) : exec (.vcmp f) s = execVcmp f s := rfl
theorem exec_vsel (f : FA) (s : State) : exec (.vsel f) s = execVsel f s := rfl
theorem exec_vmov (f : FA) (s : State) : exec (.vmov f) s = execVmov f s := rfl
theorem exec_vabs (f : FA) (s : State) : exec (.vabs f) s = execVabs f s := rfl
theorem exec_vneg (f : FA) (s : State) : exec (.vneg f) s = execVneg f s := rfl
theorem exec_vexp2 (f : FA) (s : State) : exec (.vexp2 f) s = execVexp2 f s := rfl
theorem exec_vlog2 (f : FA) (s : State) : exec (.vlog2 f) s = execVlog2 f s := rfl
theorem exec_vrecip (f : FA) (s : State) : exec (.vrecip f) s = execVrecip f s := rfl
theorem exec_vsqrt (f : FA) (s : State) : exec (.vsqrt f) s = execVsqrt f s := rfl
theorem exec_vrsqrt (f : FA) (s : State) : exec (.vrsqrt f) s = execVrsqrt f s := rfl
theorem exec_vact (f : FA) (s : State) : exec (.vact f) s = execVact f s := rfl
theorem exec_vperm (f : FA) (s : State) : exec (.vperm f) s = execVperm f s := rfl
theorem exec_vslide (f : FA) (s : State) : exec (.vslide f) s = execVslide f s := rfl
theorem exec_vcompress (f : FA) (s : State) : exec (.vcompress f) s = execVcompress f s := rfl
theorem exec_vexpand (f : FA) (s : State) : exec (.vexpand f) s = execVexpand f s := rfl
theorem exec_vredsum (f : FA) (s : State) : exec (.vredsum f) s = execVredsum f s := rfl
theorem exec_vredsumO (f : FA) (s : State) : exec (.vredsumO f) s = execVredsumO f s := rfl
theorem exec_vredmm (f : FA) (s : State) : exec (.vredmm f) s = execVredmm f s := rfl
theorem exec_vscan (f : FA) (s : State) : exec (.vscan f) s = execVscan f s := rfl
theorem exec_vsortkv (f : FA) (s : State) : exec (.vsortkv f) s = execVsortkv f s := rfl
theorem exec_vsegred (f : FA) (s : State) : exec (.vsegred f) s = execVsegred f s := rfl
theorem exec_amoG (f : FA) (s : State) : exec (.amoG f) s = execAmoG f s := rfl
theorem exec_casG (f : FA) (s : State) : exec (.casG f) s = execCasG f s := rfl
theorem exec_redG (f : FA) (s : State) : exec (.redG f) s = execRedG f s := rfl
theorem exec_fredG (f : FA) (s : State) : exec (.fredG f) s = execFredG f s := rfl
theorem exec_famoG (f : FA) (s : State) : exec (.famoG f) s = execFamoG f s := rfl
theorem exec_vredG (f : FA) (s : State) : exec (.vredG f) s = execVredG f s := rfl
theorem exec_vfredG (f : FA) (s : State) : exec (.vfredG f) s = execVfredG f s := rfl
theorem exec_rfence (f : FA) (s : State) : exec (.rfence f) s = execRfence f s := rfl
theorem exec_rgrain (f : FA) (s : State) : exec (.rgrain f) s = execRgrain f s := rfl
theorem exec_rdrop (f : FA) (s : State) : exec (.rdrop f) s = execRdrop f s := rfl
theorem exec_gflush (f : FA) (s : State) : exec (.gflush f) s = execGflush f s := rfl
theorem exec_gquery (f : FA) (s : State) : exec (.gquery f) s = execGquery f s := rfl
theorem exec_seed (f : FA) (s : State) : exec (.seed f) s = execSeed f s := rfl
theorem exec_seedq (f : FA) (s : State) : exec (.seedq f) s = execSeedq f s := rfl
theorem exec_srseed (f : FA) (s : State) : exec (.srseed f) s = execSrseed f s := rfl
theorem exec_rtag (f : FA) (s : State) : exec (.rtag f) s = execRtag f s := rfl
theorem exec_cvtn (f : FA) (s : State) : exec (.cvtn f) s = execCvtn f s := rfl
theorem exec_cvtnF (f : FA) (s : State) : exec (.cvtnF f) s = execCvtnF f s := rfl
theorem exec_cvtw (f : FA) (s : State) : exec (.cvtw f) s = execCvtw f s := rfl
theorem exec_cvtwF (f : FA) (s : State) : exec (.cvtwF f) s = execCvtwF f s := rfl
theorem exec_qscale (f : FA) (s : State) : exec (.qscale f) s = execQscale f s := rfl
theorem exec_rotv (f : FA) (s : State) : exec (.rotv f) s = execRotv f s := rfl
theorem exec_unrotv (f : FA) (s : State) : exec (.unrotv f) s = execUnrotv f s := rfl
theorem exec_cvti (f : FA) (s : State) : exec (.cvti f) s = execCvti f s := rfl
theorem exec_mzero (f : FA) (s : State) : exec (.mzero f) s = execMzero f s := rfl
theorem exec_mld (f : FA) (s : State) : exec (.mld f) s = execMld f s := rfl
theorem exec_mst (f : FA) (s : State) : exec (.mst f) s = execMst f s := rfl
theorem exec_mbar (f : FA) (s : State) : exec (.mbar f) s = execMbar f s := rfl
theorem exec_mwait (f : FA) (s : State) : exec (.mwait f) s = execMwait f s := rfl
theorem exec_mtr (f : FA) (s : State) : exec (.mtr f) s = execMtr f s := rfl
theorem exec_mrow (f : FA) (s : State) : exec (.mrow f) s = execMrow f s := rfl
theorem exec_mramp (f : FA) (s : State) : exec (.mramp f) s = execMramp f s := rfl
theorem exec_mtag (f : FA) (s : State) : exec (.mtag f) s = execMtag f s := rfl
theorem exec_mscl (f : FA) (s : State) : exec (.mscl f) s = execMscl f s := rfl
theorem exec_mma (f : FA) (s : State) : exec (.mma f) s = execMma f s := rfl
theorem exec_mmaC (f : FA) (s : State) : exec (.mmaC f) s = execMmaC f s := rfl
theorem exec_mmas (f : FA) (s : State) : exec (.mmas f) s = execMmas f s := rfl
theorem exec_mmax (f : FA) (s : State) : exec (.mmax f) s = execMmax f s := rfl
theorem exec_macc (f : FA) (s : State) : exec (.macc f) s = execMacc f s := rfl
theorem exec_mcvt (f : FA) (s : State) : exec (.mcvt f) s = execMcvt f s := rfl
theorem exec_crn (f : FA) (s : State) : exec (.crn f) s = execCrn f s := rfl
theorem exec_crnF (f : FA) (s : State) : exec (.crnF f) s = execCrnF f s := rfl
theorem exec_crnT (f : FA) (s : State) : exec (.crnT f) s = execCrnT f s := rfl
theorem exec_crnR (f : FA) (s : State) : exec (.crnR f) s = execCrnR f s := rfl
theorem exec_crnq (f : FA) (s : State) : exec (.crnq f) s = execCrnq f s := rfl
theorem exec_crnw (f : FA) (s : State) : exec (.crnw f) s = execCrnw f s := rfl
theorem exec_crnX (f : FA) (s : State) : exec (.crnX f) s = execCrnX f s := rfl
theorem exec_crnC (f : FA) (s : State) : exec (.crnC f) s = execCrnC f s := rfl
theorem exec_ldB (f : FA) (s : State) : exec (.ldB f) s = execLdB f s := rfl
theorem exec_stB (f : FA) (s : State) : exec (.stB f) s = execStB f s := rfl
theorem exec_bcall (f : FA) (s : State) : exec (.bcall f) s = execBcall f s := rfl
theorem exec_bfence (f : FA) (s : State) : exec (.bfence f) s = execBfence f s := rfl
theorem exec_block (f : FA) (s : State) : exec (.block f) s = execBlock f s := rfl
theorem exec_bunlk (f : FA) (s : State) : exec (.bunlk f) s = execBunlk f s := rfl
theorem exec_bseal (f : FA) (s : State) : exec (.bseal f) s = execBseal f s := rfl
theorem exec_bstat (f : FA) (s : State) : exec (.bstat f) s = execBstat f s := rfl
theorem exec_bcsl (f : FA) (s : State) : exec (.bcsl f) s = execBcsl f s := rfl
theorem exec_bsave (f : FA) (s : State) : exec (.bsave f) s = execBsave f s := rfl
theorem exec_brest (f : FA) (s : State) : exec (.brest f) s = execBrest f s := rfl
theorem exec_bwdog (f : FA) (s : State) : exec (.bwdog f) s = execBwdog f s := rfl
theorem exec_bmode (f : FA) (s : State) : exec (.bmode f) s = execBmode f s := rfl
theorem exec_bpart (f : FA) (s : State) : exec (.bpart f) s = execBpart f s := rfl
theorem exec_bscrub (f : FA) (s : State) : exec (.bscrub f) s = execBscrub f s := rfl
theorem exec_moduleReset (s : State) : exec .moduleReset s = execModuleReset s := rfl
theorem exec_resetRelease (s : State) : exec .resetRelease s = execResetRelease s := rfl
theorem exec_towerStart (s : State) : exec .towerStart s = execTowerStart s := rfl
theorem exec_bootLaunchStart (s : State) : exec .bootLaunchStart s = execBootLaunchStart s := rfl
theorem exec_doeAttestRequest (s : State) : exec .doeAttestRequest s = execDoeAttestRequest s := rfl
theorem exec_doeCertChain (s : State) : exec .doeCertChain s = execDoeCertChain s := rfl
theorem exec_doeImageChunk (s : State) : exec .doeImageChunk s = execDoeImageChunk s := rfl
theorem exec_doeImageDone (s : State) : exec .doeImageDone s = execDoeImageDone s := rfl
theorem exec_readyWrite (s : State) : exec .readyWrite s = execReadyWrite s := rfl
theorem exec_attestStart (s : State) : exec .attestStart s = execAttestStart s := rfl
theorem exec_attestReportDone (s : State) : exec .attestReportDone s = execAttestReportDone s := rfl
theorem exec_fusesvnWrite (s : State) : exec .fusesvnWrite s = execFusesvnWrite s := rfl
theorem exec_keyLoad (s : State) : exec .keyLoad s = execKeyLoad s := rfl
theorem exec_shootDown (s : State) : exec .shootDown s = execShootDown s := rfl
theorem exec_shootDownDone (s : State) : exec .shootDownDone s = execShootDownDone s := rfl
theorem exec_migration (s : State) : exec .migration s = execMigration s := rfl
theorem exec_dutyWrite (s : State) : exec .dutyWrite s = execDutyWrite s := rfl
theorem exec_contextEnable (s : State) : exec .contextEnable s = execContextEnable s := rfl
theorem exec_launchDoorbell (s : State) : exec .launchDoorbell s = execLaunchDoorbell s := rfl
theorem exec_crheadWrite (s : State) : exec .crheadWrite s = execCrheadWrite s := rfl
theorem exec_completionRingRetarget (s : State) : exec .completionRingRetarget s = execCompletionRingRetarget s := rfl
theorem exec_frheadWrite (s : State) : exec .frheadWrite s = execFrheadWrite s := rfl
theorem exec_faultAnswer (s : State) : exec .faultAnswer s = execFaultAnswer s := rfl
theorem exec_cslLoadCommand (s : State) : exec .cslLoadCommand s = execCslLoadCommand s := rfl
theorem exec_registerWrite (s : State) : exec .registerWrite s = execRegisterWrite s := rfl
theorem exec_launchFetch (s : State) : exec .launchFetch s = execLaunchFetch s := rfl
theorem exec_manifestAdmit (s : State) : exec .manifestAdmit s = execManifestAdmit s := rfl
theorem exec_manifestReady (s : State) : exec .manifestReady s = execManifestReady s := rfl
theorem exec_iterationPlace (s : State) : exec .iterationPlace s = execIterationPlace s := rfl
theorem exec_lighterFetchBack (s : State) : exec .lighterFetchBack s = execLighterFetchBack s := rfl
theorem exec_completionRecordWrite (s : State) : exec .completionRecordWrite s = execCompletionRecordWrite s := rfl
theorem exec_agingTick (s : State) : exec .agingTick s = execAgingTick s := rfl
theorem exec_preemptRequest (s : State) : exec .preemptRequest s = execPreemptRequest s := rfl
theorem exec_strandStop (s : State) : exec .strandStop s = execStrandStop s := rfl
theorem exec_frameWrite (s : State) : exec .frameWrite s = execFrameWrite s := rfl
theorem exec_crewSuspend (s : State) : exec .crewSuspend s = execCrewSuspend s := rfl
theorem exec_crewResume (s : State) : exec .crewResume s = execCrewResume s := rfl
theorem exec_launchEnd (s : State) : exec .launchEnd s = execLaunchEnd s := rfl
theorem exec_preemptLimit (s : State) : exec .preemptLimit s = execPreemptLimit s := rfl
theorem exec_fullEmptyWake (s : State) : exec .fullEmptyWake s = execFullEmptyWake s := rfl
theorem exec_barrierWake (s : State) : exec .barrierWake s = execBarrierWake s := rfl
theorem exec_vectorCapacityGrant (s : State) : exec .vectorCapacityGrant s = execVectorCapacityGrant s := rfl
theorem exec_tideTick (s : State) : exec .tideTick s = execTideTick s := rfl
theorem exec_leaseExpiry (s : State) : exec .leaseExpiry s = execLeaseExpiry s := rfl
theorem exec_homeReadRequest (s : State) : exec .homeReadRequest s = execHomeReadRequest s := rfl
theorem exec_homeWeakStore (s : State) : exec .homeWeakStore s = execHomeWeakStore s := rfl
theorem exec_homeStrongWrite (s : State) : exec .homeStrongWrite s = execHomeStrongWrite s := rfl
theorem exec_homeAtomic (s : State) : exec .homeAtomic s = execHomeAtomic s := rfl
theorem exec_lineFillDone (s : State) : exec .lineFillDone s = execLineFillDone s := rfl
theorem exec_pageWalk (s : State) : exec .pageWalk s = execPageWalk s := rfl
theorem exec_hwFaultResolve (s : State) : exec .hwFaultResolve s = execHwFaultResolve s := rfl
theorem exec_faultRecordPost (s : State) : exec .faultRecordPost s = execFaultRecordPost s := rfl
theorem exec_hostMemRead (s : State) : exec .hostMemRead s = execHostMemRead s := rfl
theorem exec_hostMemWrite (s : State) : exec .hostMemWrite s = execHostMemWrite s := rfl
theorem exec_hostSnoop (s : State) : exec .hostSnoop s = execHostSnoop s := rfl
theorem exec_cxlPortTrain (s : State) : exec .cxlPortTrain s = execCxlPortTrain s := rfl
theorem exec_powerCapExceed (s : State) : exec .powerCapExceed s = execPowerCapExceed s := rfl
theorem exec_thermalWarning (s : State) : exec .thermalWarning s = execThermalWarning s := rfl
theorem exec_laneDieTrip (s : State) : exec .laneDieTrip s = execLaneDieTrip s := rfl
theorem exec_laneDieRestart (s : State) : exec .laneDieRestart s = execLaneDieRestart s := rfl
theorem exec_rcDieTrip (s : State) : exec .rcDieTrip s = execRcDieTrip s := rfl
theorem exec_baseDieTrip (s : State) : exec .baseDieTrip s = execBaseDieTrip s := rfl
theorem exec_dramLayerTrip (s : State) : exec .dramLayerTrip s = execDramLayerTrip s := rfl
theorem exec_dramLayerReturn (s : State) : exec .dramLayerReturn s = execDramLayerReturn s := rfl
theorem exec_outerMemoryTrip (s : State) : exec .outerMemoryTrip s = execOuterMemoryTrip s := rfl
theorem exec_ioChipletTrip (s : State) : exec .ioChipletTrip s = execIoChipletTrip s := rfl
theorem exec_dramUe (s : State) : exec .dramUe s = execDramUe s := rfl
theorem exec_sramUe (s : State) : exec .sramUe s = execSramUe s := rfl
theorem exec_cacheParityError (s : State) : exec .cacheParityError s = execCacheParityError s := rfl
theorem exec_linkFail (s : State) : exec .linkFail s = execLinkFail s := rfl
theorem exec_patrolScrub (s : State) : exec .patrolScrub s = execPatrolScrub s := rfl
theorem exec_matrixGrant (s : State) : exec .matrixGrant s = execMatrixGrant s := rfl
theorem exec_matrixReleaseRequest (s : State) : exec .matrixReleaseRequest s = execMatrixReleaseRequest s := rfl
theorem exec_matrixRelease (s : State) : exec .matrixRelease s = execMatrixRelease s := rfl
theorem exec_matrixProductExec (s : State) : exec .matrixProductExec s = execMatrixProductExec s := rfl
theorem exec_mzeroExec (s : State) : exec .mzeroExec s = execMzeroExec s := rfl
theorem exec_mldExec (s : State) : exec .mldExec s = execMldExec s := rfl
theorem exec_mstExec (s : State) : exec .mstExec s = execMstExec s := rfl
theorem exec_mbarArrive (s : State) : exec .mbarArrive s = execMbarArrive s := rfl
theorem exec_mtrExec (s : State) : exec .mtrExec s = execMtrExec s := rfl
theorem exec_mrowExec (s : State) : exec .mrowExec s = execMrowExec s := rfl
theorem exec_msclExec (s : State) : exec .msclExec s = execMsclExec s := rfl
theorem exec_maccExec (s : State) : exec .maccExec s = execMaccExec s := rfl
theorem exec_mcvtExec (s : State) : exec .mcvtExec s = execMcvtExec s := rfl
theorem exec_copyExec (s : State) : exec .copyExec s = execCopyExec s := rfl
theorem exec_fillExec (s : State) : exec .fillExec s = execFillExec s := rfl
theorem exec_cornerTurnExec (s : State) : exec .cornerTurnExec s = execCornerTurnExec s := rfl
theorem exec_ringCopyExec (s : State) : exec .ringCopyExec s = execRingCopyExec s := rfl
theorem exec_craneWaitDone (s : State) : exec .craneWaitDone s = execCraneWaitDone s := rfl
theorem exec_publishCommandExec (s : State) : exec .publishCommandExec s = execPublishCommandExec s := rfl
theorem exec_beadEntryRun (s : State) : exec .beadEntryRun s = execBeadEntryRun s := rfl
theorem exec_actWord (s : State) : exec .actWord s = execActWord s := rfl
theorem exec_aapWord (s : State) : exec .aapWord s = execAapWord s := rfl
theorem exec_traWord (s : State) : exec .traWord s = execTraWord s := rfl
theorem exec_cslWord (s : State) : exec .cslWord s = execCslWord s := rfl
theorem exec_csrWord (s : State) : exec .csrWord s = execCsrWord s := rfl
theorem exec_repWord (s : State) : exec .repWord s = execRepWord s := rfl
theorem exec_brfWord (s : State) : exec .brfWord s = execBrfWord s := rfl
theorem exec_waitWord (s : State) : exec .waitWord s = execWaitWord s := rfl
theorem exec_endWord (s : State) : exec .endWord s = execEndWord s := rfl
theorem exec_beadRefresh (s : State) : exec .beadRefresh s = execBeadRefresh s := rfl
theorem exec_beadWatchdogExpire (s : State) : exec .beadWatchdogExpire s = execBeadWatchdogExpire s := rfl
theorem exec_bankPowerDown (s : State) : exec .bankPowerDown s = execBankPowerDown s := rfl
theorem exec_blockExec (s : State) : exec .blockExec s = execBlockExec s := rfl
theorem exec_bunlkExec (s : State) : exec .bunlkExec s = execBunlkExec s := rfl
theorem exec_bsealExec (s : State) : exec .bsealExec s = execBsealExec s := rfl
theorem exec_bcslExec (s : State) : exec .bcslExec s = execBcslExec s := rfl
theorem exec_bmodeExec (s : State) : exec .bmodeExec s = execBmodeExec s := rfl
theorem exec_bpartExec (s : State) : exec .bpartExec s = execBpartExec s := rfl
theorem exec_bscrubExec (s : State) : exec .bscrubExec s = execBscrubExec s := rfl
theorem exec_paddingHalf (s : State) : exec .paddingHalf s = execPaddingHalf s := rfl
theorem exec_illOpc (s : State) : exec .illOpc s = execIllOpc s := rfl
theorem exec_dataReturn (s : State) : exec .dataReturn s = execDataReturn s := rfl
theorem exec_logheadWrite (s : State) : exec .logheadWrite s = execLogheadWrite s := rfl
theorem exec_outerMemoryReturn (s : State) : exec .outerMemoryReturn s = execOuterMemoryReturn s := rfl
theorem paired_vadd (s : State) (px : Prefix) (f : FA) :
    exec (.prefixedPair px (.vadd f)) s = finish s (s.vadd 8 px f) := rfl
theorem paired_vsub (s : State) (px : Prefix) (f : FA) :
    exec (.prefixedPair px (.vsub f)) s = finish s (s.vsub 8 px f) := rfl
theorem paired_vmul (s : State) (px : Prefix) (f : FA) :
    exec (.prefixedPair px (.vmul f)) s = finish s (s.vmul 8 px f) := rfl
theorem paired_vmulhI (s : State) (px : Prefix) (f : FA) :
    exec (.prefixedPair px (.vmulhI f)) s = finish s (s.vmulh 8 px f true) := rfl
theorem paired_vmulhN (s : State) (px : Prefix) (f : FA) :
    exec (.prefixedPair px (.vmulhN f)) s = finish s (s.vmulh 8 px f false) := rfl
theorem paired_vfma (s : State) (px : Prefix) (f : FA) :
    exec (.prefixedPair px (.vfma f)) s = finish s (s.vfma 8 px f) := rfl
theorem paired_vdiv (s : State) (px : Prefix) (f : FA) :
    exec (.prefixedPair px (.vdiv f)) s = finish s (s.vdiv 8 px f) := rfl
theorem paired_vdivN (s : State) (px : Prefix) (f : FA) :
    exec (.prefixedPair px (.vdivN f)) s = finish s (s.vdivN 8 px f) := rfl
theorem paired_vmin (s : State) (px : Prefix) (f : FA) :
    exec (.prefixedPair px (.vmin f)) s = finish s (s.vminmax 8 px f false false) := rfl
theorem paired_vminN (s : State) (px : Prefix) (f : FA) :
    exec (.prefixedPair px (.vminN f)) s = finish s (s.vminmax 8 px f true false) := rfl
theorem paired_vmax (s : State) (px : Prefix) (f : FA) :
    exec (.prefixedPair px (.vmax f)) s = finish s (s.vminmax 8 px f false true) := rfl
theorem paired_vmaxN (s : State) (px : Prefix) (f : FA) :
    exec (.prefixedPair px (.vmaxN f)) s = finish s (s.vminmax 8 px f true true) := rfl
theorem paired_vand (s : State) (px : Prefix) (f : FA) :
    exec (.prefixedPair px (.vand f)) s = finish s (s.vlogic 8 px f (· &&& ·)) := rfl
theorem paired_vor (s : State) (px : Prefix) (f : FA) :
    exec (.prefixedPair px (.vor f)) s = finish s (s.vlogic 8 px f (· ||| ·)) := rfl
theorem paired_vxor (s : State) (px : Prefix) (f : FA) :
    exec (.prefixedPair px (.vxor f)) s = finish s (s.vlogic 8 px f (· ^^^ ·)) := rfl
theorem paired_vandn (s : State) (px : Prefix) (f : FA) :
    exec (.prefixedPair px (.vandn f)) s = finish s (s.vlogic 8 px f (fun x y => x &&& ~~~y)) := rfl
theorem paired_vorn (s : State) (px : Prefix) (f : FA) :
    exec (.prefixedPair px (.vorn f)) s = finish s (s.vlogic 8 px f (fun x y => x ||| ~~~y)) := rfl
theorem paired_vxnor (s : State) (px : Prefix) (f : FA) :
    exec (.prefixedPair px (.vxnor f)) s = finish s (s.vlogic 8 px f (fun x y => ~~~(x ^^^ y))) := rfl
theorem paired_vshl (s : State) (px : Prefix) (f : FA) :
    exec (.prefixedPair px (.vshl f)) s = finish s (s.vshift 8 px f 0) := rfl
theorem paired_vshr (s : State) (px : Prefix) (f : FA) :
    exec (.prefixedPair px (.vshr f)) s = finish s (s.vshift 8 px f 1) := rfl
theorem paired_vsar (s : State) (px : Prefix) (f : FA) :
    exec (.prefixedPair px (.vsar f)) s = finish s (s.vshift 8 px f 2) := rfl
theorem paired_vcmp (s : State) (px : Prefix) (f : FA) :
    exec (.prefixedPair px (.vcmp f)) s = finish s (s.vcmp 8 px f) := rfl
theorem paired_vsel (s : State) (px : Prefix) (f : FA) :
    exec (.prefixedPair px (.vsel f)) s = finish s (s.vsel 8 px f) := rfl
theorem paired_vmov (s : State) (px : Prefix) (f : FA) :
    exec (.prefixedPair px (.vmov f)) s = finish s (s.vmov 8 px f) := rfl
theorem paired_vabs (s : State) (px : Prefix) (f : FA) :
    exec (.prefixedPair px (.vabs f)) s = finish s (s.vsign 8 px f false) := rfl
theorem paired_vneg (s : State) (px : Prefix) (f : FA) :
    exec (.prefixedPair px (.vneg f)) s = finish s (s.vsign 8 px f true) := rfl
theorem paired_vexp2 (s : State) (px : Prefix) (f : FA) :
    exec (.prefixedPair px (.vexp2 f)) s = finish s (s.vfunc 8 px f FV.exp2) := rfl
theorem paired_vlog2 (s : State) (px : Prefix) (f : FA) :
    exec (.prefixedPair px (.vlog2 f)) s = finish s (s.vfunc 8 px f FV.log2) := rfl
theorem paired_vrecip (s : State) (px : Prefix) (f : FA) :
    exec (.prefixedPair px (.vrecip f)) s = finish s (s.vfunc 8 px f FV.recip) := rfl
theorem paired_vsqrt (s : State) (px : Prefix) (f : FA) :
    exec (.prefixedPair px (.vsqrt f)) s = finish s (s.vfunc 8 px f FV.sqrt) := rfl
theorem paired_vrsqrt (s : State) (px : Prefix) (f : FA) :
    exec (.prefixedPair px (.vrsqrt f)) s = finish s (s.vfunc 8 px f FV.rsqrt) := rfl
theorem paired_vact (s : State) (px : Prefix) (f : FA) :
    exec (.prefixedPair px (.vact f)) s = finish s (s.vfunc 8 px f (if f.b == 1 then FV.sigmoid else FV.tanh)) := rfl
theorem paired_vperm (s : State) (px : Prefix) (f : FA) :
    exec (.prefixedPair px (.vperm f)) s = finish s (s.vperm 8 px f) := rfl
theorem paired_vslide (s : State) (px : Prefix) (f : FA) :
    exec (.prefixedPair px (.vslide f)) s = finish s (s.vslide 8 px f) := rfl
theorem paired_vcompress (s : State) (px : Prefix) (f : FA) :
    exec (.prefixedPair px (.vcompress f)) s = finish s (s.vcompress 8 px f) := rfl
theorem paired_vexpand (s : State) (px : Prefix) (f : FA) :
    exec (.prefixedPair px (.vexpand f)) s = finish s (s.vexpand 8 px f) := rfl
theorem paired_vredsum (s : State) (px : Prefix) (f : FA) :
    exec (.prefixedPair px (.vredsum f)) s = finish s (s.vredsum 8 px f false) := rfl
theorem paired_vredsumO (s : State) (px : Prefix) (f : FA) :
    exec (.prefixedPair px (.vredsumO f)) s = finish s (s.vredsum 8 px f true) := rfl
theorem paired_vredmm (s : State) (px : Prefix) (f : FA) :
    exec (.prefixedPair px (.vredmm f)) s = finish s (s.vredmm 8 px f) := rfl
theorem paired_vscan (s : State) (px : Prefix) (f : FA) :
    exec (.prefixedPair px (.vscan f)) s = finish s (s.vscan 8 px f) := rfl
theorem paired_vsortkv (s : State) (px : Prefix) (f : FA) :
    exec (.prefixedPair px (.vsortkv f)) s = finish s (s.vsortkv 8 px f) := rfl
theorem paired_vsegred (s : State) (px : Prefix) (f : FA) :
    exec (.prefixedPair px (.vsegred f)) s = finish s (s.vsegred 8 px f) := rfl
theorem paired_cvtn (s : State) (px : Prefix) (f : FA) :
    exec (.prefixedPair px (.cvtn f)) s = finish s (s.cvtn 8 px f) := rfl
theorem paired_cvtnF (s : State) (px : Prefix) (f : FA) :
    exec (.prefixedPair px (.cvtnF f)) s = finish s (s.cvtnF 8 px f) := rfl
theorem paired_cvtw (s : State) (px : Prefix) (f : FA) :
    exec (.prefixedPair px (.cvtw f)) s = finish s (s.cvtw 8 px f) := rfl
theorem paired_cvtwF (s : State) (px : Prefix) (f : FA) :
    exec (.prefixedPair px (.cvtwF f)) s = finish s (s.cvtwF 8 px f) := rfl
theorem paired_qscale (s : State) (px : Prefix) (f : FA) :
    exec (.prefixedPair px (.qscale f)) s = finish s (s.qscale 8 px f) := rfl
theorem paired_rotv (s : State) (px : Prefix) (f : FA) :
    exec (.prefixedPair px (.rotv f)) s = finish s (s.rotv 8 px f false) := rfl
theorem paired_unrotv (s : State) (px : Prefix) (f : FA) :
    exec (.prefixedPair px (.unrotv f)) s = finish s (s.rotv 8 px f true) := rfl
theorem paired_cvti (s : State) (px : Prefix) (f : FA) :
    exec (.prefixedPair px (.cvti f)) s = finish s (s.cvti 8 px f) := rfl
theorem paired_mma (s : State) (px : Prefix) (f : FA) :
    exec (.prefixedPair px (.mma f)) s = finish s (s.mma 8 px f) := rfl
theorem paired_mmaC (s : State) (px : Prefix) (f : FA) :
    exec (.prefixedPair px (.mmaC f)) s = finish s (s.mmaC 8 px f) := rfl
theorem paired_mmas (s : State) (px : Prefix) (f : FA) :
    exec (.prefixedPair px (.mmas f)) s = finish s (s.mmas 8 px f) := rfl
theorem paired_mmax (s : State) (px : Prefix) (f : FA) :
    exec (.prefixedPair px (.mmax f)) s = finish s (s.mmax 8 px f) := rfl
theorem paired_macc (s : State) (px : Prefix) (f : FA) :
    exec (.prefixedPair px (.macc f)) s = finish s (s.macc 8 f) := rfl
theorem paired_mcvt (s : State) (px : Prefix) (f : FA) :
    exec (.prefixedPair px (.mcvt f)) s = finish s (s.mcvt 8 px f) := rfl

end Sys2Proof.Machine
end

