-- ==== Sys2Proof/Laws/Operands.lean ====
section
/-! SUPPORT. Operands.lean: what each shared operation of an instruction answers: reading sources, waiting for
destinations, checks, results, and the end of a strand's instruction. -/

namespace Sys2Proof.Machine

@[simp] theorem except_ok_bind {ε α β : Type} (x : α) (f : α → Except ε β) : (Except.ok x >>= f) = f x := rfl
@[simp] theorem except_error_bind {ε α β : Type} (e : ε) (f : α → Except ε β) : (Except.error e >>= f) = .error e := rfl
@[simp] theorem except_pure {ε α : Type} (x : α) : (pure x : Except ε α) = .ok x := rfl

/-- A sequence that answers went through both of its parts. -/
theorem except_bind_eq_ok {ε α β : Type} {x : Except ε α} {f : α → Except ε β} {r : β} (h : (x >>= f) = .ok r) :
    ∃ a, x = .ok a ∧ f a = .ok r := by
  cases x with
  | error e => cases h
  | ok a => exact ⟨a, rfl, h⟩

@[simp] theorem finish_ok (s t : State) : finish s (.ok t) = .next t := rfl
@[simp] theorem finish_error (s : State) (e : Stop) : finish s (.error e) = .next (s.onStop e) := rfl

@[simp] theorem need_true (code : BitVec 8) (addr : Word) : need true code addr = .ok () := rfl
@[simp] theorem need_false (code : BitVec 8) (addr : Word) : need false code addr = .error (.fault code addr) := rfl
theorem need_eq_ok {ok : Bool} {code : BitVec 8} {addr : Word} (h : need ok code addr = .ok ()) : ok = true := by
  cases ok <;> simp_all
@[simp] theorem holdFor_true (s : State) : s.holdFor true = .ok () := rfl
@[simp] theorem holdFor_false (s : State) : s.holdFor false = .error s.hold := rfl
@[simp] theorem await_true (s : State) : s.await true = .ok () := rfl
@[simp] theorem await_false (s : State) : s.await false = .error s.retry := rfl

/-- Reading a full register. -/
theorem srcG_full {s : State} {r : Reg} {v : Word} (h : s.source r v) (trap : Bool) : s.srcG r trap = .ok v := by
  simp only [State.srcG, h.1, if_true, h.2]

/-- Reading an empty register: a trap with its number, or a wait (02 R55). -/
theorem srcG_empty {s : State} {r : Reg} (h : s.self.gIsFull r.toNat = false) (trap : Bool) :
    s.srcG r trap = .error (s.emptySource r trap) := by
  simp [State.srcG, h]

theorem srcV_full {s : State} {r : Reg} {v : List Byte} (h : s.sourceV r v) (trap : Bool) : s.srcV r trap = .ok v := by
  simp only [State.srcV, h.1, if_true, h.2]

theorem srcV_empty {s : State} {r : Reg} (h : s.self.vIsFull r.toNat = false) (trap : Bool) :
    s.srcV r trap = .error (s.emptySource r trap) := by
  simp [State.srcV, h]

theorem destFree_settled {s : State} {d : Dest} (h : s.settled d) : s.destFree d = .ok () := by
  simp only [State.destFree, State.settled] at *
  simp [h]

theorem result_settled {s : State} {d : Reg} (h : s.settled (.g d.toNat)) (len : Nat) (v : Word) :
    s.result d len v = .ok (s.gains d len v) := by
  simp only [State.result, destFree_settled h, except_ok_bind, except_pure, State.gains]

theorem binary_full {s : State} {f : FA} {a b : Word} (ha : s.source f.a a) (hb : s.source f.b b)
    (h : s.settled (.g f.d.toNat)) (len : Nat) (op : Word → Word → Word) :
    s.binary len f op = .ok (s.gains f.d len (op a b)) := by
  simp only [State.binary, srcG_full ha, srcG_full hb, except_ok_bind, result_settled h]

theorem immediate_full {s : State} {a d : Reg} {x : Word} (ha : s.source a x) (h : s.settled (.g d.toNat)) (len : Nat)
    (op : Word → Word) : s.immediate len a d op = .ok (s.gains d len (op x)) := by
  simp only [State.immediate, srcG_full ha, except_ok_bind, result_settled h]

/-- A command that finds a hardware entry is placed at the tail of its queue and counts (01 R24). -/
theorem accept_room {s : State} {kind opc : Nat} {op : Instr} {args : List Word} {bytes : List Byte}
    {bar : Option Nat} {after scope : Nat}
    (h : (if kind = 1 then s.self.cq else s.self.mq).outstanding.length < entriesOf kind) :
    s.accept kind opc op args bytes bar after scope =
      let q := if kind = 1 then s.self.cq else s.self.mq
      let c : Cmd := { seq := q.issue + 1, pc := s.self.pc, who := s.issuer, op, args, bytes, born := s.serial, bar, after, scope }
      let q' : Queue := { q with issue := q.issue + 1, cmds := q.cmds ++ [c] }
      .ok (s.mapSelf (fun st => if kind = 1 then { st with cq := q' } else { st with mq := q' }), q.issue + 1) := by
  simp only [State.accept]
  rw [if_pos h]
  rfl

/-- The effective address of a memory form whose base is full, when it is aligned (07 R245). -/
theorem effective_aligned {s : State} {f : FI} {b : Word} (n : Nat) (h : s.source f.a b)
    (ha : (b + f.byteOffset n).toNat % n = 0) : s.effective f n = .ok (b + f.byteOffset n) := by
  simp only [State.effective, srcG_full h, except_ok_bind, need, ha, decide_true, if_true, except_pure]

end Sys2Proof.Machine
end

