-- ==== Sys2Proof/Laws/State.lean ====
section
/-! SUPPORT. State.lean: what each field reads as after each update of the state, one lemma per field and update, so that
no later proof unfolds a record update. -/

namespace Sys2Proof.Machine

/-! `State.mapSelf` -/

@[simp] theorem mapSelf_self (s : State) (f : Strand → Strand) : (s.mapSelf f).self = f s.self := rfl
@[simp] theorem mapSelf_peers (s : State) (f : Strand → Strand) : (s.mapSelf f).peers = s.peers := rfl
@[simp] theorem mapSelf_saved (s : State) (f : Strand → Strand) : (s.mapSelf f).saved = s.saved := rfl
@[simp] theorem mapSelf_crews (s : State) (f : Strand → Strand) : (s.mapSelf f).crews = s.crews := rfl
@[simp] theorem mapSelf_manifests (s : State) (f : Strand → Strand) : (s.mapSelf f).manifests = s.manifests := rfl
@[simp] theorem mapSelf_ctxs (s : State) (f : Strand → Strand) : (s.mapSelf f).ctxs = s.ctxs := rfl
@[simp] theorem mapSelf_cores (s : State) (f : Strand → Strand) : (s.mapSelf f).cores = s.cores := rfl
@[simp] theorem mapSelf_grantCycle (s : State) (f : Strand → Strand) : (s.mapSelf f).grantCycle = s.grantCycle := rfl
@[simp] theorem mapSelf_towers (s : State) (f : Strand → Strand) : (s.mapSelf f).towers = s.towers := rfl
@[simp] theorem mapSelf_cycle (s : State) (f : Strand → Strand) : (s.mapSelf f).cycle = s.cycle := rfl
@[simp] theorem mapSelf_tide (s : State) (f : Strand → Strand) : (s.mapSelf f).tide = s.tide := rfl
@[simp] theorem mapSelf_tideOn (s : State) (f : Strand → Strand) : (s.mapSelf f).tideOn = s.tideOn := rfl
@[simp] theorem mapSelf_mem (s : State) (f : Strand → Strand) : (s.mapSelf f).mem = s.mem := rfl
@[simp] theorem mapSelf_empties (s : State) (f : Strand → Strand) : (s.mapSelf f).empties = s.empties := rfl
@[simp] theorem mapSelf_unpub (s : State) (f : Strand → Strand) : (s.mapSelf f).unpub = s.unpub := rfl
@[simp] theorem mapSelf_poison (s : State) (f : Strand → Strand) : (s.mapSelf f).poison = s.poison := rfl
@[simp] theorem mapSelf_dirty (s : State) (f : Strand → Strand) : (s.mapSelf f).dirty = s.dirty := rfl
@[simp] theorem mapSelf_stranded (s : State) (f : Strand → Strand) : (s.mapSelf f).stranded = s.stranded := rfl
@[simp] theorem mapSelf_lineKey (s : State) (f : Strand → Strand) : (s.mapSelf f).lineKey = s.lineKey := rfl
@[simp] theorem mapSelf_copies (s : State) (f : Strand → Strand) : (s.mapSelf f).copies = s.copies := rfl
@[simp] theorem mapSelf_hostLines (s : State) (f : Strand → Strand) : (s.mapSelf f).hostLines = s.hostLines := rfl
@[simp] theorem mapSelf_lexp (s : State) (f : Strand → Strand) : (s.mapSelf f).lexp = s.lexp := rfl
@[simp] theorem mapSelf_lineHolds (s : State) (f : Strand → Strand) : (s.mapSelf f).lineHolds = s.lineHolds := rfl
@[simp] theorem mapSelf_inflight (s : State) (f : Strand → Strand) : (s.mapSelf f).inflight = s.inflight := rfl
@[simp] theorem mapSelf_ranges (s : State) (f : Strand → Strand) : (s.mapSelf f).ranges = s.ranges := rfl
@[simp] theorem mapSelf_reqs (s : State) (f : Strand → Strand) : (s.mapSelf f).reqs = s.reqs := rfl
@[simp] theorem mapSelf_returns (s : State) (f : Strand → Strand) : (s.mapSelf f).returns = s.returns := rfl
@[simp] theorem mapSelf_leaseWaits (s : State) (f : Strand → Strand) : (s.mapSelf f).leaseWaits = s.leaseWaits := rfl
@[simp] theorem mapSelf_waiters (s : State) (f : Strand → Strand) : (s.mapSelf f).waiters = s.waiters := rfl
@[simp] theorem mapSelf_tlb (s : State) (f : Strand → Strand) : (s.mapSelf f).tlb = s.tlb := rfl
@[simp] theorem mapSelf_walked (s : State) (f : Strand → Strand) : (s.mapSelf f).walked = s.walked := rfl
@[simp] theorem mapSelf_pageFaults (s : State) (f : Strand → Strand) : (s.mapSelf f).pageFaults = s.pageFaults := rfl
@[simp] theorem mapSelf_claims (s : State) (f : Strand → Strand) : (s.mapSelf f).claims = s.claims := rfl
@[simp] theorem mapSelf_writes (s : State) (f : Strand → Strand) : (s.mapSelf f).writes = s.writes := rfl
@[simp] theorem mapSelf_history (s : State) (f : Strand → Strand) : (s.mapSelf f).history = s.history := rfl
@[simp] theorem mapSelf_veils (s : State) (f : Strand → Strand) : (s.mapSelf f).veils = s.veils := rfl
@[simp] theorem mapSelf_chains (s : State) (f : Strand → Strand) : (s.mapSelf f).chains = s.chains := rfl
@[simp] theorem mapSelf_spills (s : State) (f : Strand → Strand) : (s.mapSelf f).spills = s.spills := rfl
@[simp] theorem mapSelf_keys (s : State) (f : Strand → Strand) : (s.mapSelf f).keys = s.keys := rfl
@[simp] theorem mapSelf_chans (s : State) (f : Strand → Strand) : (s.mapSelf f).chans = s.chans := rfl
@[simp] theorem mapSelf_subOwner (s : State) (f : Strand → Strand) : (s.mapSelf f).subOwner = s.subOwner := rfl
@[simp] theorem mapSelf_rowState (s : State) (f : Strand → Strand) : (s.mapSelf f).rowState = s.rowState := rfl
@[simp] theorem mapSelf_rowLock (s : State) (f : Strand → Strand) : (s.mapSelf f).rowLock = s.rowLock := rfl
@[simp] theorem mapSelf_workRows (s : State) (f : Strand → Strand) : (s.mapSelf f).workRows = s.workRows := rfl
@[simp] theorem mapSelf_saveRows (s : State) (f : Strand → Strand) : (s.mapSelf f).saveRows = s.saveRows := rfl
@[simp] theorem mapSelf_mod (s : State) (f : Strand → Strand) : (s.mapSelf f).mod = s.mod := rfl
@[simp] theorem mapSelf_phase (s : State) (f : Strand → Strand) : (s.mapSelf f).phase = s.phase := rfl
@[simp] theorem mapSelf_flash (s : State) (f : Strand → Strand) : (s.mapSelf f).flash = s.flash := rfl
@[simp] theorem mapSelf_codeSize (s : State) (f : Strand → Strand) : (s.mapSelf f).codeSize = s.codeSize := rfl
@[simp] theorem mapSelf_fwsvn (s : State) (f : Strand → Strand) : (s.mapSelf f).fwsvn = s.fwsvn := rfl
@[simp] theorem mapSelf_answers (s : State) (f : Strand → Strand) : (s.mapSelf f).answers = s.answers := rfl
@[simp] theorem mapSelf_agenda (s : State) (f : Strand → Strand) : (s.mapSelf f).agenda = s.agenda := rfl
@[simp] theorem mapSelf_args (s : State) (f : Strand → Strand) : (s.mapSelf f).args = s.args := rfl
@[simp] theorem mapSelf_turns (s : State) (f : Strand → Strand) : (s.mapSelf f).turns = s.turns := rfl
@[simp] theorem mapSelf_free (s : State) (f : Strand → Strand) : (s.mapSelf f).free = s.free := rfl
@[simp] theorem mapSelf_serial (s : State) (f : Strand → Strand) : (s.mapSelf f).serial = s.serial := rfl

/-! `State.advance` -/

@[simp] theorem advance_self (s : State) (n : Nat) : (s.advance n).self = s.self.advance n := rfl
@[simp] theorem advance_peers (s : State) (n : Nat) : (s.advance n).peers = s.peers := rfl
@[simp] theorem advance_saved (s : State) (n : Nat) : (s.advance n).saved = s.saved := rfl
@[simp] theorem advance_crews (s : State) (n : Nat) : (s.advance n).crews = s.crews := rfl
@[simp] theorem advance_manifests (s : State) (n : Nat) : (s.advance n).manifests = s.manifests := rfl
@[simp] theorem advance_ctxs (s : State) (n : Nat) : (s.advance n).ctxs = s.ctxs := rfl
@[simp] theorem advance_cores (s : State) (n : Nat) : (s.advance n).cores = s.cores := rfl
@[simp] theorem advance_grantCycle (s : State) (n : Nat) : (s.advance n).grantCycle = s.grantCycle := rfl
@[simp] theorem advance_towers (s : State) (n : Nat) : (s.advance n).towers = s.towers := rfl
@[simp] theorem advance_cycle (s : State) (n : Nat) : (s.advance n).cycle = s.cycle := rfl
@[simp] theorem advance_tide (s : State) (n : Nat) : (s.advance n).tide = s.tide := rfl
@[simp] theorem advance_tideOn (s : State) (n : Nat) : (s.advance n).tideOn = s.tideOn := rfl
@[simp] theorem advance_mem (s : State) (n : Nat) : (s.advance n).mem = s.mem := rfl
@[simp] theorem advance_empties (s : State) (n : Nat) : (s.advance n).empties = s.empties := rfl
@[simp] theorem advance_unpub (s : State) (n : Nat) : (s.advance n).unpub = s.unpub := rfl
@[simp] theorem advance_poison (s : State) (n : Nat) : (s.advance n).poison = s.poison := rfl
@[simp] theorem advance_dirty (s : State) (n : Nat) : (s.advance n).dirty = s.dirty := rfl
@[simp] theorem advance_stranded (s : State) (n : Nat) : (s.advance n).stranded = s.stranded := rfl
@[simp] theorem advance_lineKey (s : State) (n : Nat) : (s.advance n).lineKey = s.lineKey := rfl
@[simp] theorem advance_copies (s : State) (n : Nat) : (s.advance n).copies = s.copies := rfl
@[simp] theorem advance_hostLines (s : State) (n : Nat) : (s.advance n).hostLines = s.hostLines := rfl
@[simp] theorem advance_lexp (s : State) (n : Nat) : (s.advance n).lexp = s.lexp := rfl
@[simp] theorem advance_lineHolds (s : State) (n : Nat) : (s.advance n).lineHolds = s.lineHolds := rfl
@[simp] theorem advance_inflight (s : State) (n : Nat) : (s.advance n).inflight = s.inflight := rfl
@[simp] theorem advance_ranges (s : State) (n : Nat) : (s.advance n).ranges = s.ranges := rfl
@[simp] theorem advance_reqs (s : State) (n : Nat) : (s.advance n).reqs = s.reqs := rfl
@[simp] theorem advance_returns (s : State) (n : Nat) : (s.advance n).returns = s.returns := rfl
@[simp] theorem advance_leaseWaits (s : State) (n : Nat) : (s.advance n).leaseWaits = s.leaseWaits := rfl
@[simp] theorem advance_waiters (s : State) (n : Nat) : (s.advance n).waiters = s.waiters := rfl
@[simp] theorem advance_tlb (s : State) (n : Nat) : (s.advance n).tlb = s.tlb := rfl
@[simp] theorem advance_walked (s : State) (n : Nat) : (s.advance n).walked = s.walked := rfl
@[simp] theorem advance_pageFaults (s : State) (n : Nat) : (s.advance n).pageFaults = s.pageFaults := rfl
@[simp] theorem advance_claims (s : State) (n : Nat) : (s.advance n).claims = s.claims := rfl
@[simp] theorem advance_writes (s : State) (n : Nat) : (s.advance n).writes = s.writes := rfl
@[simp] theorem advance_history (s : State) (n : Nat) : (s.advance n).history = s.history := rfl
@[simp] theorem advance_veils (s : State) (n : Nat) : (s.advance n).veils = s.veils := rfl
@[simp] theorem advance_chains (s : State) (n : Nat) : (s.advance n).chains = s.chains := rfl
@[simp] theorem advance_spills (s : State) (n : Nat) : (s.advance n).spills = s.spills := rfl
@[simp] theorem advance_keys (s : State) (n : Nat) : (s.advance n).keys = s.keys := rfl
@[simp] theorem advance_chans (s : State) (n : Nat) : (s.advance n).chans = s.chans := rfl
@[simp] theorem advance_subOwner (s : State) (n : Nat) : (s.advance n).subOwner = s.subOwner := rfl
@[simp] theorem advance_rowState (s : State) (n : Nat) : (s.advance n).rowState = s.rowState := rfl
@[simp] theorem advance_rowLock (s : State) (n : Nat) : (s.advance n).rowLock = s.rowLock := rfl
@[simp] theorem advance_workRows (s : State) (n : Nat) : (s.advance n).workRows = s.workRows := rfl
@[simp] theorem advance_saveRows (s : State) (n : Nat) : (s.advance n).saveRows = s.saveRows := rfl
@[simp] theorem advance_mod (s : State) (n : Nat) : (s.advance n).mod = s.mod := rfl
@[simp] theorem advance_phase (s : State) (n : Nat) : (s.advance n).phase = s.phase := rfl
@[simp] theorem advance_flash (s : State) (n : Nat) : (s.advance n).flash = s.flash := rfl
@[simp] theorem advance_codeSize (s : State) (n : Nat) : (s.advance n).codeSize = s.codeSize := rfl
@[simp] theorem advance_fwsvn (s : State) (n : Nat) : (s.advance n).fwsvn = s.fwsvn := rfl
@[simp] theorem advance_answers (s : State) (n : Nat) : (s.advance n).answers = s.answers := rfl
@[simp] theorem advance_agenda (s : State) (n : Nat) : (s.advance n).agenda = s.agenda := rfl
@[simp] theorem advance_args (s : State) (n : Nat) : (s.advance n).args = s.args := rfl
@[simp] theorem advance_turns (s : State) (n : Nat) : (s.advance n).turns = s.turns := rfl
@[simp] theorem advance_free (s : State) (n : Nat) : (s.advance n).free = s.free := rfl
@[simp] theorem advance_serial (s : State) (n : Nat) : (s.advance n).serial = s.serial := rfl

/-! `State.setCrew` -/

@[simp] theorem setCrew_self (s : State) (k : Nat) (f : Crew → Crew) : (s.setCrew k f).self = s.self := rfl
@[simp] theorem setCrew_peers (s : State) (k : Nat) (f : Crew → Crew) : (s.setCrew k f).peers = s.peers := rfl
@[simp] theorem setCrew_saved (s : State) (k : Nat) (f : Crew → Crew) : (s.setCrew k f).saved = s.saved := rfl
@[simp] theorem setCrew_manifests (s : State) (k : Nat) (f : Crew → Crew) : (s.setCrew k f).manifests = s.manifests := rfl
@[simp] theorem setCrew_ctxs (s : State) (k : Nat) (f : Crew → Crew) : (s.setCrew k f).ctxs = s.ctxs := rfl
@[simp] theorem setCrew_cores (s : State) (k : Nat) (f : Crew → Crew) : (s.setCrew k f).cores = s.cores := rfl
@[simp] theorem setCrew_grantCycle (s : State) (k : Nat) (f : Crew → Crew) : (s.setCrew k f).grantCycle = s.grantCycle := rfl
@[simp] theorem setCrew_towers (s : State) (k : Nat) (f : Crew → Crew) : (s.setCrew k f).towers = s.towers := rfl
@[simp] theorem setCrew_cycle (s : State) (k : Nat) (f : Crew → Crew) : (s.setCrew k f).cycle = s.cycle := rfl
@[simp] theorem setCrew_tide (s : State) (k : Nat) (f : Crew → Crew) : (s.setCrew k f).tide = s.tide := rfl
@[simp] theorem setCrew_tideOn (s : State) (k : Nat) (f : Crew → Crew) : (s.setCrew k f).tideOn = s.tideOn := rfl
@[simp] theorem setCrew_mem (s : State) (k : Nat) (f : Crew → Crew) : (s.setCrew k f).mem = s.mem := rfl
@[simp] theorem setCrew_empties (s : State) (k : Nat) (f : Crew → Crew) : (s.setCrew k f).empties = s.empties := rfl
@[simp] theorem setCrew_unpub (s : State) (k : Nat) (f : Crew → Crew) : (s.setCrew k f).unpub = s.unpub := rfl
@[simp] theorem setCrew_poison (s : State) (k : Nat) (f : Crew → Crew) : (s.setCrew k f).poison = s.poison := rfl
@[simp] theorem setCrew_dirty (s : State) (k : Nat) (f : Crew → Crew) : (s.setCrew k f).dirty = s.dirty := rfl
@[simp] theorem setCrew_stranded (s : State) (k : Nat) (f : Crew → Crew) : (s.setCrew k f).stranded = s.stranded := rfl
@[simp] theorem setCrew_lineKey (s : State) (k : Nat) (f : Crew → Crew) : (s.setCrew k f).lineKey = s.lineKey := rfl
@[simp] theorem setCrew_copies (s : State) (k : Nat) (f : Crew → Crew) : (s.setCrew k f).copies = s.copies := rfl
@[simp] theorem setCrew_hostLines (s : State) (k : Nat) (f : Crew → Crew) : (s.setCrew k f).hostLines = s.hostLines := rfl
@[simp] theorem setCrew_lexp (s : State) (k : Nat) (f : Crew → Crew) : (s.setCrew k f).lexp = s.lexp := rfl
@[simp] theorem setCrew_lineHolds (s : State) (k : Nat) (f : Crew → Crew) : (s.setCrew k f).lineHolds = s.lineHolds := rfl
@[simp] theorem setCrew_inflight (s : State) (k : Nat) (f : Crew → Crew) : (s.setCrew k f).inflight = s.inflight := rfl
@[simp] theorem setCrew_ranges (s : State) (k : Nat) (f : Crew → Crew) : (s.setCrew k f).ranges = s.ranges := rfl
@[simp] theorem setCrew_reqs (s : State) (k : Nat) (f : Crew → Crew) : (s.setCrew k f).reqs = s.reqs := rfl
@[simp] theorem setCrew_returns (s : State) (k : Nat) (f : Crew → Crew) : (s.setCrew k f).returns = s.returns := rfl
@[simp] theorem setCrew_leaseWaits (s : State) (k : Nat) (f : Crew → Crew) : (s.setCrew k f).leaseWaits = s.leaseWaits := rfl
@[simp] theorem setCrew_waiters (s : State) (k : Nat) (f : Crew → Crew) : (s.setCrew k f).waiters = s.waiters := rfl
@[simp] theorem setCrew_tlb (s : State) (k : Nat) (f : Crew → Crew) : (s.setCrew k f).tlb = s.tlb := rfl
@[simp] theorem setCrew_walked (s : State) (k : Nat) (f : Crew → Crew) : (s.setCrew k f).walked = s.walked := rfl
@[simp] theorem setCrew_pageFaults (s : State) (k : Nat) (f : Crew → Crew) : (s.setCrew k f).pageFaults = s.pageFaults := rfl
@[simp] theorem setCrew_claims (s : State) (k : Nat) (f : Crew → Crew) : (s.setCrew k f).claims = s.claims := rfl
@[simp] theorem setCrew_writes (s : State) (k : Nat) (f : Crew → Crew) : (s.setCrew k f).writes = s.writes := rfl
@[simp] theorem setCrew_history (s : State) (k : Nat) (f : Crew → Crew) : (s.setCrew k f).history = s.history := rfl
@[simp] theorem setCrew_veils (s : State) (k : Nat) (f : Crew → Crew) : (s.setCrew k f).veils = s.veils := rfl
@[simp] theorem setCrew_chains (s : State) (k : Nat) (f : Crew → Crew) : (s.setCrew k f).chains = s.chains := rfl
@[simp] theorem setCrew_spills (s : State) (k : Nat) (f : Crew → Crew) : (s.setCrew k f).spills = s.spills := rfl
@[simp] theorem setCrew_keys (s : State) (k : Nat) (f : Crew → Crew) : (s.setCrew k f).keys = s.keys := rfl
@[simp] theorem setCrew_chans (s : State) (k : Nat) (f : Crew → Crew) : (s.setCrew k f).chans = s.chans := rfl
@[simp] theorem setCrew_subOwner (s : State) (k : Nat) (f : Crew → Crew) : (s.setCrew k f).subOwner = s.subOwner := rfl
@[simp] theorem setCrew_rowState (s : State) (k : Nat) (f : Crew → Crew) : (s.setCrew k f).rowState = s.rowState := rfl
@[simp] theorem setCrew_rowLock (s : State) (k : Nat) (f : Crew → Crew) : (s.setCrew k f).rowLock = s.rowLock := rfl
@[simp] theorem setCrew_workRows (s : State) (k : Nat) (f : Crew → Crew) : (s.setCrew k f).workRows = s.workRows := rfl
@[simp] theorem setCrew_saveRows (s : State) (k : Nat) (f : Crew → Crew) : (s.setCrew k f).saveRows = s.saveRows := rfl
@[simp] theorem setCrew_mod (s : State) (k : Nat) (f : Crew → Crew) : (s.setCrew k f).mod = s.mod := rfl
@[simp] theorem setCrew_phase (s : State) (k : Nat) (f : Crew → Crew) : (s.setCrew k f).phase = s.phase := rfl
@[simp] theorem setCrew_flash (s : State) (k : Nat) (f : Crew → Crew) : (s.setCrew k f).flash = s.flash := rfl
@[simp] theorem setCrew_codeSize (s : State) (k : Nat) (f : Crew → Crew) : (s.setCrew k f).codeSize = s.codeSize := rfl
@[simp] theorem setCrew_fwsvn (s : State) (k : Nat) (f : Crew → Crew) : (s.setCrew k f).fwsvn = s.fwsvn := rfl
@[simp] theorem setCrew_answers (s : State) (k : Nat) (f : Crew → Crew) : (s.setCrew k f).answers = s.answers := rfl
@[simp] theorem setCrew_agenda (s : State) (k : Nat) (f : Crew → Crew) : (s.setCrew k f).agenda = s.agenda := rfl
@[simp] theorem setCrew_args (s : State) (k : Nat) (f : Crew → Crew) : (s.setCrew k f).args = s.args := rfl
@[simp] theorem setCrew_turns (s : State) (k : Nat) (f : Crew → Crew) : (s.setCrew k f).turns = s.turns := rfl
@[simp] theorem setCrew_free (s : State) (k : Nat) (f : Crew → Crew) : (s.setCrew k f).free = s.free := rfl
@[simp] theorem setCrew_serial (s : State) (k : Nat) (f : Crew → Crew) : (s.setCrew k f).serial = s.serial := rfl

/-! `State.mapCrew` -/

@[simp] theorem mapCrew_saved (s : State) (k : Nat) (f : Strand → Strand) : (s.mapCrew k f).saved = s.saved := rfl
@[simp] theorem mapCrew_crews (s : State) (k : Nat) (f : Strand → Strand) : (s.mapCrew k f).crews = s.crews := rfl
@[simp] theorem mapCrew_manifests (s : State) (k : Nat) (f : Strand → Strand) : (s.mapCrew k f).manifests = s.manifests := rfl
@[simp] theorem mapCrew_ctxs (s : State) (k : Nat) (f : Strand → Strand) : (s.mapCrew k f).ctxs = s.ctxs := rfl
@[simp] theorem mapCrew_cores (s : State) (k : Nat) (f : Strand → Strand) : (s.mapCrew k f).cores = s.cores := rfl
@[simp] theorem mapCrew_grantCycle (s : State) (k : Nat) (f : Strand → Strand) : (s.mapCrew k f).grantCycle = s.grantCycle := rfl
@[simp] theorem mapCrew_towers (s : State) (k : Nat) (f : Strand → Strand) : (s.mapCrew k f).towers = s.towers := rfl
@[simp] theorem mapCrew_cycle (s : State) (k : Nat) (f : Strand → Strand) : (s.mapCrew k f).cycle = s.cycle := rfl
@[simp] theorem mapCrew_tide (s : State) (k : Nat) (f : Strand → Strand) : (s.mapCrew k f).tide = s.tide := rfl
@[simp] theorem mapCrew_tideOn (s : State) (k : Nat) (f : Strand → Strand) : (s.mapCrew k f).tideOn = s.tideOn := rfl
@[simp] theorem mapCrew_mem (s : State) (k : Nat) (f : Strand → Strand) : (s.mapCrew k f).mem = s.mem := rfl
@[simp] theorem mapCrew_empties (s : State) (k : Nat) (f : Strand → Strand) : (s.mapCrew k f).empties = s.empties := rfl
@[simp] theorem mapCrew_unpub (s : State) (k : Nat) (f : Strand → Strand) : (s.mapCrew k f).unpub = s.unpub := rfl
@[simp] theorem mapCrew_poison (s : State) (k : Nat) (f : Strand → Strand) : (s.mapCrew k f).poison = s.poison := rfl
@[simp] theorem mapCrew_dirty (s : State) (k : Nat) (f : Strand → Strand) : (s.mapCrew k f).dirty = s.dirty := rfl
@[simp] theorem mapCrew_stranded (s : State) (k : Nat) (f : Strand → Strand) : (s.mapCrew k f).stranded = s.stranded := rfl
@[simp] theorem mapCrew_lineKey (s : State) (k : Nat) (f : Strand → Strand) : (s.mapCrew k f).lineKey = s.lineKey := rfl
@[simp] theorem mapCrew_copies (s : State) (k : Nat) (f : Strand → Strand) : (s.mapCrew k f).copies = s.copies := rfl
@[simp] theorem mapCrew_hostLines (s : State) (k : Nat) (f : Strand → Strand) : (s.mapCrew k f).hostLines = s.hostLines := rfl
@[simp] theorem mapCrew_lexp (s : State) (k : Nat) (f : Strand → Strand) : (s.mapCrew k f).lexp = s.lexp := rfl
@[simp] theorem mapCrew_lineHolds (s : State) (k : Nat) (f : Strand → Strand) : (s.mapCrew k f).lineHolds = s.lineHolds := rfl
@[simp] theorem mapCrew_inflight (s : State) (k : Nat) (f : Strand → Strand) : (s.mapCrew k f).inflight = s.inflight := rfl
@[simp] theorem mapCrew_ranges (s : State) (k : Nat) (f : Strand → Strand) : (s.mapCrew k f).ranges = s.ranges := rfl
@[simp] theorem mapCrew_reqs (s : State) (k : Nat) (f : Strand → Strand) : (s.mapCrew k f).reqs = s.reqs := rfl
@[simp] theorem mapCrew_returns (s : State) (k : Nat) (f : Strand → Strand) : (s.mapCrew k f).returns = s.returns := rfl
@[simp] theorem mapCrew_leaseWaits (s : State) (k : Nat) (f : Strand → Strand) : (s.mapCrew k f).leaseWaits = s.leaseWaits := rfl
@[simp] theorem mapCrew_waiters (s : State) (k : Nat) (f : Strand → Strand) : (s.mapCrew k f).waiters = s.waiters := rfl
@[simp] theorem mapCrew_tlb (s : State) (k : Nat) (f : Strand → Strand) : (s.mapCrew k f).tlb = s.tlb := rfl
@[simp] theorem mapCrew_walked (s : State) (k : Nat) (f : Strand → Strand) : (s.mapCrew k f).walked = s.walked := rfl
@[simp] theorem mapCrew_pageFaults (s : State) (k : Nat) (f : Strand → Strand) : (s.mapCrew k f).pageFaults = s.pageFaults := rfl
@[simp] theorem mapCrew_claims (s : State) (k : Nat) (f : Strand → Strand) : (s.mapCrew k f).claims = s.claims := rfl
@[simp] theorem mapCrew_writes (s : State) (k : Nat) (f : Strand → Strand) : (s.mapCrew k f).writes = s.writes := rfl
@[simp] theorem mapCrew_history (s : State) (k : Nat) (f : Strand → Strand) : (s.mapCrew k f).history = s.history := rfl
@[simp] theorem mapCrew_veils (s : State) (k : Nat) (f : Strand → Strand) : (s.mapCrew k f).veils = s.veils := rfl
@[simp] theorem mapCrew_chains (s : State) (k : Nat) (f : Strand → Strand) : (s.mapCrew k f).chains = s.chains := rfl
@[simp] theorem mapCrew_spills (s : State) (k : Nat) (f : Strand → Strand) : (s.mapCrew k f).spills = s.spills := rfl
@[simp] theorem mapCrew_keys (s : State) (k : Nat) (f : Strand → Strand) : (s.mapCrew k f).keys = s.keys := rfl
@[simp] theorem mapCrew_chans (s : State) (k : Nat) (f : Strand → Strand) : (s.mapCrew k f).chans = s.chans := rfl
@[simp] theorem mapCrew_subOwner (s : State) (k : Nat) (f : Strand → Strand) : (s.mapCrew k f).subOwner = s.subOwner := rfl
@[simp] theorem mapCrew_rowState (s : State) (k : Nat) (f : Strand → Strand) : (s.mapCrew k f).rowState = s.rowState := rfl
@[simp] theorem mapCrew_rowLock (s : State) (k : Nat) (f : Strand → Strand) : (s.mapCrew k f).rowLock = s.rowLock := rfl
@[simp] theorem mapCrew_workRows (s : State) (k : Nat) (f : Strand → Strand) : (s.mapCrew k f).workRows = s.workRows := rfl
@[simp] theorem mapCrew_saveRows (s : State) (k : Nat) (f : Strand → Strand) : (s.mapCrew k f).saveRows = s.saveRows := rfl
@[simp] theorem mapCrew_mod (s : State) (k : Nat) (f : Strand → Strand) : (s.mapCrew k f).mod = s.mod := rfl
@[simp] theorem mapCrew_phase (s : State) (k : Nat) (f : Strand → Strand) : (s.mapCrew k f).phase = s.phase := rfl
@[simp] theorem mapCrew_flash (s : State) (k : Nat) (f : Strand → Strand) : (s.mapCrew k f).flash = s.flash := rfl
@[simp] theorem mapCrew_codeSize (s : State) (k : Nat) (f : Strand → Strand) : (s.mapCrew k f).codeSize = s.codeSize := rfl
@[simp] theorem mapCrew_fwsvn (s : State) (k : Nat) (f : Strand → Strand) : (s.mapCrew k f).fwsvn = s.fwsvn := rfl
@[simp] theorem mapCrew_answers (s : State) (k : Nat) (f : Strand → Strand) : (s.mapCrew k f).answers = s.answers := rfl
@[simp] theorem mapCrew_agenda (s : State) (k : Nat) (f : Strand → Strand) : (s.mapCrew k f).agenda = s.agenda := rfl
@[simp] theorem mapCrew_args (s : State) (k : Nat) (f : Strand → Strand) : (s.mapCrew k f).args = s.args := rfl
@[simp] theorem mapCrew_turns (s : State) (k : Nat) (f : Strand → Strand) : (s.mapCrew k f).turns = s.turns := rfl
@[simp] theorem mapCrew_free (s : State) (k : Nat) (f : Strand → Strand) : (s.mapCrew k f).free = s.free := rfl
@[simp] theorem mapCrew_serial (s : State) (k : Nat) (f : Strand → Strand) : (s.mapCrew k f).serial = s.serial := rfl

/-! `State.mapStrand` -/

@[simp] theorem mapStrand_crews (s : State) (c i : Nat) (f : Strand → Strand) : (s.mapStrand c i f).crews = s.crews := rfl
@[simp] theorem mapStrand_manifests (s : State) (c i : Nat) (f : Strand → Strand) : (s.mapStrand c i f).manifests = s.manifests := rfl
@[simp] theorem mapStrand_ctxs (s : State) (c i : Nat) (f : Strand → Strand) : (s.mapStrand c i f).ctxs = s.ctxs := rfl
@[simp] theorem mapStrand_cores (s : State) (c i : Nat) (f : Strand → Strand) : (s.mapStrand c i f).cores = s.cores := rfl
@[simp] theorem mapStrand_grantCycle (s : State) (c i : Nat) (f : Strand → Strand) : (s.mapStrand c i f).grantCycle = s.grantCycle := rfl
@[simp] theorem mapStrand_towers (s : State) (c i : Nat) (f : Strand → Strand) : (s.mapStrand c i f).towers = s.towers := rfl
@[simp] theorem mapStrand_cycle (s : State) (c i : Nat) (f : Strand → Strand) : (s.mapStrand c i f).cycle = s.cycle := rfl
@[simp] theorem mapStrand_tide (s : State) (c i : Nat) (f : Strand → Strand) : (s.mapStrand c i f).tide = s.tide := rfl
@[simp] theorem mapStrand_tideOn (s : State) (c i : Nat) (f : Strand → Strand) : (s.mapStrand c i f).tideOn = s.tideOn := rfl
@[simp] theorem mapStrand_mem (s : State) (c i : Nat) (f : Strand → Strand) : (s.mapStrand c i f).mem = s.mem := rfl
@[simp] theorem mapStrand_empties (s : State) (c i : Nat) (f : Strand → Strand) : (s.mapStrand c i f).empties = s.empties := rfl
@[simp] theorem mapStrand_unpub (s : State) (c i : Nat) (f : Strand → Strand) : (s.mapStrand c i f).unpub = s.unpub := rfl
@[simp] theorem mapStrand_poison (s : State) (c i : Nat) (f : Strand → Strand) : (s.mapStrand c i f).poison = s.poison := rfl
@[simp] theorem mapStrand_dirty (s : State) (c i : Nat) (f : Strand → Strand) : (s.mapStrand c i f).dirty = s.dirty := rfl
@[simp] theorem mapStrand_stranded (s : State) (c i : Nat) (f : Strand → Strand) : (s.mapStrand c i f).stranded = s.stranded := rfl
@[simp] theorem mapStrand_lineKey (s : State) (c i : Nat) (f : Strand → Strand) : (s.mapStrand c i f).lineKey = s.lineKey := rfl
@[simp] theorem mapStrand_copies (s : State) (c i : Nat) (f : Strand → Strand) : (s.mapStrand c i f).copies = s.copies := rfl
@[simp] theorem mapStrand_hostLines (s : State) (c i : Nat) (f : Strand → Strand) : (s.mapStrand c i f).hostLines = s.hostLines := rfl
@[simp] theorem mapStrand_lexp (s : State) (c i : Nat) (f : Strand → Strand) : (s.mapStrand c i f).lexp = s.lexp := rfl
@[simp] theorem mapStrand_lineHolds (s : State) (c i : Nat) (f : Strand → Strand) : (s.mapStrand c i f).lineHolds = s.lineHolds := rfl
@[simp] theorem mapStrand_inflight (s : State) (c i : Nat) (f : Strand → Strand) : (s.mapStrand c i f).inflight = s.inflight := rfl
@[simp] theorem mapStrand_ranges (s : State) (c i : Nat) (f : Strand → Strand) : (s.mapStrand c i f).ranges = s.ranges := rfl
@[simp] theorem mapStrand_reqs (s : State) (c i : Nat) (f : Strand → Strand) : (s.mapStrand c i f).reqs = s.reqs := rfl
@[simp] theorem mapStrand_returns (s : State) (c i : Nat) (f : Strand → Strand) : (s.mapStrand c i f).returns = s.returns := rfl
@[simp] theorem mapStrand_leaseWaits (s : State) (c i : Nat) (f : Strand → Strand) : (s.mapStrand c i f).leaseWaits = s.leaseWaits := rfl
@[simp] theorem mapStrand_waiters (s : State) (c i : Nat) (f : Strand → Strand) : (s.mapStrand c i f).waiters = s.waiters := rfl
@[simp] theorem mapStrand_tlb (s : State) (c i : Nat) (f : Strand → Strand) : (s.mapStrand c i f).tlb = s.tlb := rfl
@[simp] theorem mapStrand_walked (s : State) (c i : Nat) (f : Strand → Strand) : (s.mapStrand c i f).walked = s.walked := rfl
@[simp] theorem mapStrand_pageFaults (s : State) (c i : Nat) (f : Strand → Strand) : (s.mapStrand c i f).pageFaults = s.pageFaults := rfl
@[simp] theorem mapStrand_claims (s : State) (c i : Nat) (f : Strand → Strand) : (s.mapStrand c i f).claims = s.claims := rfl
@[simp] theorem mapStrand_writes (s : State) (c i : Nat) (f : Strand → Strand) : (s.mapStrand c i f).writes = s.writes := rfl
@[simp] theorem mapStrand_history (s : State) (c i : Nat) (f : Strand → Strand) : (s.mapStrand c i f).history = s.history := rfl
@[simp] theorem mapStrand_veils (s : State) (c i : Nat) (f : Strand → Strand) : (s.mapStrand c i f).veils = s.veils := rfl
@[simp] theorem mapStrand_chains (s : State) (c i : Nat) (f : Strand → Strand) : (s.mapStrand c i f).chains = s.chains := rfl
@[simp] theorem mapStrand_spills (s : State) (c i : Nat) (f : Strand → Strand) : (s.mapStrand c i f).spills = s.spills := rfl
@[simp] theorem mapStrand_keys (s : State) (c i : Nat) (f : Strand → Strand) : (s.mapStrand c i f).keys = s.keys := rfl
@[simp] theorem mapStrand_chans (s : State) (c i : Nat) (f : Strand → Strand) : (s.mapStrand c i f).chans = s.chans := rfl
@[simp] theorem mapStrand_subOwner (s : State) (c i : Nat) (f : Strand → Strand) : (s.mapStrand c i f).subOwner = s.subOwner := rfl
@[simp] theorem mapStrand_rowState (s : State) (c i : Nat) (f : Strand → Strand) : (s.mapStrand c i f).rowState = s.rowState := rfl
@[simp] theorem mapStrand_rowLock (s : State) (c i : Nat) (f : Strand → Strand) : (s.mapStrand c i f).rowLock = s.rowLock := rfl
@[simp] theorem mapStrand_workRows (s : State) (c i : Nat) (f : Strand → Strand) : (s.mapStrand c i f).workRows = s.workRows := rfl
@[simp] theorem mapStrand_saveRows (s : State) (c i : Nat) (f : Strand → Strand) : (s.mapStrand c i f).saveRows = s.saveRows := rfl
@[simp] theorem mapStrand_mod (s : State) (c i : Nat) (f : Strand → Strand) : (s.mapStrand c i f).mod = s.mod := rfl
@[simp] theorem mapStrand_phase (s : State) (c i : Nat) (f : Strand → Strand) : (s.mapStrand c i f).phase = s.phase := rfl
@[simp] theorem mapStrand_flash (s : State) (c i : Nat) (f : Strand → Strand) : (s.mapStrand c i f).flash = s.flash := rfl
@[simp] theorem mapStrand_codeSize (s : State) (c i : Nat) (f : Strand → Strand) : (s.mapStrand c i f).codeSize = s.codeSize := rfl
@[simp] theorem mapStrand_fwsvn (s : State) (c i : Nat) (f : Strand → Strand) : (s.mapStrand c i f).fwsvn = s.fwsvn := rfl
@[simp] theorem mapStrand_answers (s : State) (c i : Nat) (f : Strand → Strand) : (s.mapStrand c i f).answers = s.answers := rfl
@[simp] theorem mapStrand_agenda (s : State) (c i : Nat) (f : Strand → Strand) : (s.mapStrand c i f).agenda = s.agenda := rfl
@[simp] theorem mapStrand_args (s : State) (c i : Nat) (f : Strand → Strand) : (s.mapStrand c i f).args = s.args := rfl
@[simp] theorem mapStrand_turns (s : State) (c i : Nat) (f : Strand → Strand) : (s.mapStrand c i f).turns = s.turns := rfl
@[simp] theorem mapStrand_free (s : State) (c i : Nat) (f : Strand → Strand) : (s.mapStrand c i f).free = s.free := rfl
@[simp] theorem mapStrand_serial (s : State) (c i : Nat) (f : Strand → Strand) : (s.mapStrand c i f).serial = s.serial := rfl

/-! `State.setCtx` -/

@[simp] theorem setCtx_self (s : State) (k : Nat) (f : Ctx → Ctx) : (s.setCtx k f).self = s.self := rfl
@[simp] theorem setCtx_peers (s : State) (k : Nat) (f : Ctx → Ctx) : (s.setCtx k f).peers = s.peers := rfl
@[simp] theorem setCtx_saved (s : State) (k : Nat) (f : Ctx → Ctx) : (s.setCtx k f).saved = s.saved := rfl
@[simp] theorem setCtx_crews (s : State) (k : Nat) (f : Ctx → Ctx) : (s.setCtx k f).crews = s.crews := rfl
@[simp] theorem setCtx_manifests (s : State) (k : Nat) (f : Ctx → Ctx) : (s.setCtx k f).manifests = s.manifests := rfl
@[simp] theorem setCtx_ctxs (s : State) (k : Nat) (f : Ctx → Ctx) : (s.setCtx k f).ctxs = s.ctxs.modify k f := rfl
@[simp] theorem setCtx_cores (s : State) (k : Nat) (f : Ctx → Ctx) : (s.setCtx k f).cores = s.cores := rfl
@[simp] theorem setCtx_grantCycle (s : State) (k : Nat) (f : Ctx → Ctx) : (s.setCtx k f).grantCycle = s.grantCycle := rfl
@[simp] theorem setCtx_towers (s : State) (k : Nat) (f : Ctx → Ctx) : (s.setCtx k f).towers = s.towers := rfl
@[simp] theorem setCtx_cycle (s : State) (k : Nat) (f : Ctx → Ctx) : (s.setCtx k f).cycle = s.cycle := rfl
@[simp] theorem setCtx_tide (s : State) (k : Nat) (f : Ctx → Ctx) : (s.setCtx k f).tide = s.tide := rfl
@[simp] theorem setCtx_tideOn (s : State) (k : Nat) (f : Ctx → Ctx) : (s.setCtx k f).tideOn = s.tideOn := rfl
@[simp] theorem setCtx_mem (s : State) (k : Nat) (f : Ctx → Ctx) : (s.setCtx k f).mem = s.mem := rfl
@[simp] theorem setCtx_empties (s : State) (k : Nat) (f : Ctx → Ctx) : (s.setCtx k f).empties = s.empties := rfl
@[simp] theorem setCtx_unpub (s : State) (k : Nat) (f : Ctx → Ctx) : (s.setCtx k f).unpub = s.unpub := rfl
@[simp] theorem setCtx_poison (s : State) (k : Nat) (f : Ctx → Ctx) : (s.setCtx k f).poison = s.poison := rfl
@[simp] theorem setCtx_dirty (s : State) (k : Nat) (f : Ctx → Ctx) : (s.setCtx k f).dirty = s.dirty := rfl
@[simp] theorem setCtx_stranded (s : State) (k : Nat) (f : Ctx → Ctx) : (s.setCtx k f).stranded = s.stranded := rfl
@[simp] theorem setCtx_lineKey (s : State) (k : Nat) (f : Ctx → Ctx) : (s.setCtx k f).lineKey = s.lineKey := rfl
@[simp] theorem setCtx_copies (s : State) (k : Nat) (f : Ctx → Ctx) : (s.setCtx k f).copies = s.copies := rfl
@[simp] theorem setCtx_hostLines (s : State) (k : Nat) (f : Ctx → Ctx) : (s.setCtx k f).hostLines = s.hostLines := rfl
@[simp] theorem setCtx_lexp (s : State) (k : Nat) (f : Ctx → Ctx) : (s.setCtx k f).lexp = s.lexp := rfl
@[simp] theorem setCtx_lineHolds (s : State) (k : Nat) (f : Ctx → Ctx) : (s.setCtx k f).lineHolds = s.lineHolds := rfl
@[simp] theorem setCtx_inflight (s : State) (k : Nat) (f : Ctx → Ctx) : (s.setCtx k f).inflight = s.inflight := rfl
@[simp] theorem setCtx_ranges (s : State) (k : Nat) (f : Ctx → Ctx) : (s.setCtx k f).ranges = s.ranges := rfl
@[simp] theorem setCtx_reqs (s : State) (k : Nat) (f : Ctx → Ctx) : (s.setCtx k f).reqs = s.reqs := rfl
@[simp] theorem setCtx_returns (s : State) (k : Nat) (f : Ctx → Ctx) : (s.setCtx k f).returns = s.returns := rfl
@[simp] theorem setCtx_leaseWaits (s : State) (k : Nat) (f : Ctx → Ctx) : (s.setCtx k f).leaseWaits = s.leaseWaits := rfl
@[simp] theorem setCtx_waiters (s : State) (k : Nat) (f : Ctx → Ctx) : (s.setCtx k f).waiters = s.waiters := rfl
@[simp] theorem setCtx_tlb (s : State) (k : Nat) (f : Ctx → Ctx) : (s.setCtx k f).tlb = s.tlb := rfl
@[simp] theorem setCtx_walked (s : State) (k : Nat) (f : Ctx → Ctx) : (s.setCtx k f).walked = s.walked := rfl
@[simp] theorem setCtx_pageFaults (s : State) (k : Nat) (f : Ctx → Ctx) : (s.setCtx k f).pageFaults = s.pageFaults := rfl
@[simp] theorem setCtx_claims (s : State) (k : Nat) (f : Ctx → Ctx) : (s.setCtx k f).claims = s.claims := rfl
@[simp] theorem setCtx_writes (s : State) (k : Nat) (f : Ctx → Ctx) : (s.setCtx k f).writes = s.writes := rfl
@[simp] theorem setCtx_history (s : State) (k : Nat) (f : Ctx → Ctx) : (s.setCtx k f).history = s.history := rfl
@[simp] theorem setCtx_veils (s : State) (k : Nat) (f : Ctx → Ctx) : (s.setCtx k f).veils = s.veils := rfl
@[simp] theorem setCtx_chains (s : State) (k : Nat) (f : Ctx → Ctx) : (s.setCtx k f).chains = s.chains := rfl
@[simp] theorem setCtx_spills (s : State) (k : Nat) (f : Ctx → Ctx) : (s.setCtx k f).spills = s.spills := rfl
@[simp] theorem setCtx_keys (s : State) (k : Nat) (f : Ctx → Ctx) : (s.setCtx k f).keys = s.keys := rfl
@[simp] theorem setCtx_chans (s : State) (k : Nat) (f : Ctx → Ctx) : (s.setCtx k f).chans = s.chans := rfl
@[simp] theorem setCtx_subOwner (s : State) (k : Nat) (f : Ctx → Ctx) : (s.setCtx k f).subOwner = s.subOwner := rfl
@[simp] theorem setCtx_rowState (s : State) (k : Nat) (f : Ctx → Ctx) : (s.setCtx k f).rowState = s.rowState := rfl
@[simp] theorem setCtx_rowLock (s : State) (k : Nat) (f : Ctx → Ctx) : (s.setCtx k f).rowLock = s.rowLock := rfl
@[simp] theorem setCtx_workRows (s : State) (k : Nat) (f : Ctx → Ctx) : (s.setCtx k f).workRows = s.workRows := rfl
@[simp] theorem setCtx_saveRows (s : State) (k : Nat) (f : Ctx → Ctx) : (s.setCtx k f).saveRows = s.saveRows := rfl
@[simp] theorem setCtx_mod (s : State) (k : Nat) (f : Ctx → Ctx) : (s.setCtx k f).mod = s.mod := rfl
@[simp] theorem setCtx_phase (s : State) (k : Nat) (f : Ctx → Ctx) : (s.setCtx k f).phase = s.phase := rfl
@[simp] theorem setCtx_flash (s : State) (k : Nat) (f : Ctx → Ctx) : (s.setCtx k f).flash = s.flash := rfl
@[simp] theorem setCtx_codeSize (s : State) (k : Nat) (f : Ctx → Ctx) : (s.setCtx k f).codeSize = s.codeSize := rfl
@[simp] theorem setCtx_fwsvn (s : State) (k : Nat) (f : Ctx → Ctx) : (s.setCtx k f).fwsvn = s.fwsvn := rfl
@[simp] theorem setCtx_answers (s : State) (k : Nat) (f : Ctx → Ctx) : (s.setCtx k f).answers = s.answers := rfl
@[simp] theorem setCtx_agenda (s : State) (k : Nat) (f : Ctx → Ctx) : (s.setCtx k f).agenda = s.agenda := rfl
@[simp] theorem setCtx_args (s : State) (k : Nat) (f : Ctx → Ctx) : (s.setCtx k f).args = s.args := rfl
@[simp] theorem setCtx_turns (s : State) (k : Nat) (f : Ctx → Ctx) : (s.setCtx k f).turns = s.turns := rfl
@[simp] theorem setCtx_free (s : State) (k : Nat) (f : Ctx → Ctx) : (s.setCtx k f).free = s.free := rfl
@[simp] theorem setCtx_serial (s : State) (k : Nat) (f : Ctx → Ctx) : (s.setCtx k f).serial = s.serial := rfl

/-! `State.setTower` -/

@[simp] theorem setTower_self (s : State) (k : Nat) (f : Tower → Tower) : (s.setTower k f).self = s.self := rfl
@[simp] theorem setTower_peers (s : State) (k : Nat) (f : Tower → Tower) : (s.setTower k f).peers = s.peers := rfl
@[simp] theorem setTower_saved (s : State) (k : Nat) (f : Tower → Tower) : (s.setTower k f).saved = s.saved := rfl
@[simp] theorem setTower_crews (s : State) (k : Nat) (f : Tower → Tower) : (s.setTower k f).crews = s.crews := rfl
@[simp] theorem setTower_manifests (s : State) (k : Nat) (f : Tower → Tower) : (s.setTower k f).manifests = s.manifests := rfl
@[simp] theorem setTower_ctxs (s : State) (k : Nat) (f : Tower → Tower) : (s.setTower k f).ctxs = s.ctxs := rfl
@[simp] theorem setTower_cores (s : State) (k : Nat) (f : Tower → Tower) : (s.setTower k f).cores = s.cores := rfl
@[simp] theorem setTower_grantCycle (s : State) (k : Nat) (f : Tower → Tower) : (s.setTower k f).grantCycle = s.grantCycle := rfl
@[simp] theorem setTower_cycle (s : State) (k : Nat) (f : Tower → Tower) : (s.setTower k f).cycle = s.cycle := rfl
@[simp] theorem setTower_tide (s : State) (k : Nat) (f : Tower → Tower) : (s.setTower k f).tide = s.tide := rfl
@[simp] theorem setTower_tideOn (s : State) (k : Nat) (f : Tower → Tower) : (s.setTower k f).tideOn = s.tideOn := rfl
@[simp] theorem setTower_mem (s : State) (k : Nat) (f : Tower → Tower) : (s.setTower k f).mem = s.mem := rfl
@[simp] theorem setTower_empties (s : State) (k : Nat) (f : Tower → Tower) : (s.setTower k f).empties = s.empties := rfl
@[simp] theorem setTower_unpub (s : State) (k : Nat) (f : Tower → Tower) : (s.setTower k f).unpub = s.unpub := rfl
@[simp] theorem setTower_poison (s : State) (k : Nat) (f : Tower → Tower) : (s.setTower k f).poison = s.poison := rfl
@[simp] theorem setTower_dirty (s : State) (k : Nat) (f : Tower → Tower) : (s.setTower k f).dirty = s.dirty := rfl
@[simp] theorem setTower_stranded (s : State) (k : Nat) (f : Tower → Tower) : (s.setTower k f).stranded = s.stranded := rfl
@[simp] theorem setTower_lineKey (s : State) (k : Nat) (f : Tower → Tower) : (s.setTower k f).lineKey = s.lineKey := rfl
@[simp] theorem setTower_copies (s : State) (k : Nat) (f : Tower → Tower) : (s.setTower k f).copies = s.copies := rfl
@[simp] theorem setTower_hostLines (s : State) (k : Nat) (f : Tower → Tower) : (s.setTower k f).hostLines = s.hostLines := rfl
@[simp] theorem setTower_lexp (s : State) (k : Nat) (f : Tower → Tower) : (s.setTower k f).lexp = s.lexp := rfl
@[simp] theorem setTower_lineHolds (s : State) (k : Nat) (f : Tower → Tower) : (s.setTower k f).lineHolds = s.lineHolds := rfl
@[simp] theorem setTower_inflight (s : State) (k : Nat) (f : Tower → Tower) : (s.setTower k f).inflight = s.inflight := rfl
@[simp] theorem setTower_ranges (s : State) (k : Nat) (f : Tower → Tower) : (s.setTower k f).ranges = s.ranges := rfl
@[simp] theorem setTower_reqs (s : State) (k : Nat) (f : Tower → Tower) : (s.setTower k f).reqs = s.reqs := rfl
@[simp] theorem setTower_returns (s : State) (k : Nat) (f : Tower → Tower) : (s.setTower k f).returns = s.returns := rfl
@[simp] theorem setTower_leaseWaits (s : State) (k : Nat) (f : Tower → Tower) : (s.setTower k f).leaseWaits = s.leaseWaits := rfl
@[simp] theorem setTower_waiters (s : State) (k : Nat) (f : Tower → Tower) : (s.setTower k f).waiters = s.waiters := rfl
@[simp] theorem setTower_tlb (s : State) (k : Nat) (f : Tower → Tower) : (s.setTower k f).tlb = s.tlb := rfl
@[simp] theorem setTower_walked (s : State) (k : Nat) (f : Tower → Tower) : (s.setTower k f).walked = s.walked := rfl
@[simp] theorem setTower_pageFaults (s : State) (k : Nat) (f : Tower → Tower) : (s.setTower k f).pageFaults = s.pageFaults := rfl
@[simp] theorem setTower_claims (s : State) (k : Nat) (f : Tower → Tower) : (s.setTower k f).claims = s.claims := rfl
@[simp] theorem setTower_writes (s : State) (k : Nat) (f : Tower → Tower) : (s.setTower k f).writes = s.writes := rfl
@[simp] theorem setTower_history (s : State) (k : Nat) (f : Tower → Tower) : (s.setTower k f).history = s.history := rfl
@[simp] theorem setTower_veils (s : State) (k : Nat) (f : Tower → Tower) : (s.setTower k f).veils = s.veils := rfl
@[simp] theorem setTower_chains (s : State) (k : Nat) (f : Tower → Tower) : (s.setTower k f).chains = s.chains := rfl
@[simp] theorem setTower_spills (s : State) (k : Nat) (f : Tower → Tower) : (s.setTower k f).spills = s.spills := rfl
@[simp] theorem setTower_keys (s : State) (k : Nat) (f : Tower → Tower) : (s.setTower k f).keys = s.keys := rfl
@[simp] theorem setTower_chans (s : State) (k : Nat) (f : Tower → Tower) : (s.setTower k f).chans = s.chans := rfl
@[simp] theorem setTower_subOwner (s : State) (k : Nat) (f : Tower → Tower) : (s.setTower k f).subOwner = s.subOwner := rfl
@[simp] theorem setTower_rowState (s : State) (k : Nat) (f : Tower → Tower) : (s.setTower k f).rowState = s.rowState := rfl
@[simp] theorem setTower_rowLock (s : State) (k : Nat) (f : Tower → Tower) : (s.setTower k f).rowLock = s.rowLock := rfl
@[simp] theorem setTower_workRows (s : State) (k : Nat) (f : Tower → Tower) : (s.setTower k f).workRows = s.workRows := rfl
@[simp] theorem setTower_saveRows (s : State) (k : Nat) (f : Tower → Tower) : (s.setTower k f).saveRows = s.saveRows := rfl
@[simp] theorem setTower_mod (s : State) (k : Nat) (f : Tower → Tower) : (s.setTower k f).mod = s.mod := rfl
@[simp] theorem setTower_phase (s : State) (k : Nat) (f : Tower → Tower) : (s.setTower k f).phase = s.phase := rfl
@[simp] theorem setTower_flash (s : State) (k : Nat) (f : Tower → Tower) : (s.setTower k f).flash = s.flash := rfl
@[simp] theorem setTower_codeSize (s : State) (k : Nat) (f : Tower → Tower) : (s.setTower k f).codeSize = s.codeSize := rfl
@[simp] theorem setTower_fwsvn (s : State) (k : Nat) (f : Tower → Tower) : (s.setTower k f).fwsvn = s.fwsvn := rfl
@[simp] theorem setTower_answers (s : State) (k : Nat) (f : Tower → Tower) : (s.setTower k f).answers = s.answers := rfl
@[simp] theorem setTower_agenda (s : State) (k : Nat) (f : Tower → Tower) : (s.setTower k f).agenda = s.agenda := rfl
@[simp] theorem setTower_args (s : State) (k : Nat) (f : Tower → Tower) : (s.setTower k f).args = s.args := rfl
@[simp] theorem setTower_turns (s : State) (k : Nat) (f : Tower → Tower) : (s.setTower k f).turns = s.turns := rfl
@[simp] theorem setTower_free (s : State) (k : Nat) (f : Tower → Tower) : (s.setTower k f).free = s.free := rfl
@[simp] theorem setTower_serial (s : State) (k : Nat) (f : Tower → Tower) : (s.setTower k f).serial = s.serial := rfl

/-! `State.setChan` -/

@[simp] theorem setChan_self (s : State) (k : Nat) (f : Chan → Chan) : (s.setChan k f).self = s.self := rfl
@[simp] theorem setChan_peers (s : State) (k : Nat) (f : Chan → Chan) : (s.setChan k f).peers = s.peers := rfl
@[simp] theorem setChan_saved (s : State) (k : Nat) (f : Chan → Chan) : (s.setChan k f).saved = s.saved := rfl
@[simp] theorem setChan_crews (s : State) (k : Nat) (f : Chan → Chan) : (s.setChan k f).crews = s.crews := rfl
@[simp] theorem setChan_manifests (s : State) (k : Nat) (f : Chan → Chan) : (s.setChan k f).manifests = s.manifests := rfl
@[simp] theorem setChan_ctxs (s : State) (k : Nat) (f : Chan → Chan) : (s.setChan k f).ctxs = s.ctxs := rfl
@[simp] theorem setChan_cores (s : State) (k : Nat) (f : Chan → Chan) : (s.setChan k f).cores = s.cores := rfl
@[simp] theorem setChan_grantCycle (s : State) (k : Nat) (f : Chan → Chan) : (s.setChan k f).grantCycle = s.grantCycle := rfl
@[simp] theorem setChan_towers (s : State) (k : Nat) (f : Chan → Chan) : (s.setChan k f).towers = s.towers := rfl
@[simp] theorem setChan_cycle (s : State) (k : Nat) (f : Chan → Chan) : (s.setChan k f).cycle = s.cycle := rfl
@[simp] theorem setChan_tide (s : State) (k : Nat) (f : Chan → Chan) : (s.setChan k f).tide = s.tide := rfl
@[simp] theorem setChan_tideOn (s : State) (k : Nat) (f : Chan → Chan) : (s.setChan k f).tideOn = s.tideOn := rfl
@[simp] theorem setChan_mem (s : State) (k : Nat) (f : Chan → Chan) : (s.setChan k f).mem = s.mem := rfl
@[simp] theorem setChan_empties (s : State) (k : Nat) (f : Chan → Chan) : (s.setChan k f).empties = s.empties := rfl
@[simp] theorem setChan_unpub (s : State) (k : Nat) (f : Chan → Chan) : (s.setChan k f).unpub = s.unpub := rfl
@[simp] theorem setChan_poison (s : State) (k : Nat) (f : Chan → Chan) : (s.setChan k f).poison = s.poison := rfl
@[simp] theorem setChan_dirty (s : State) (k : Nat) (f : Chan → Chan) : (s.setChan k f).dirty = s.dirty := rfl
@[simp] theorem setChan_stranded (s : State) (k : Nat) (f : Chan → Chan) : (s.setChan k f).stranded = s.stranded := rfl
@[simp] theorem setChan_lineKey (s : State) (k : Nat) (f : Chan → Chan) : (s.setChan k f).lineKey = s.lineKey := rfl
@[simp] theorem setChan_copies (s : State) (k : Nat) (f : Chan → Chan) : (s.setChan k f).copies = s.copies := rfl
@[simp] theorem setChan_hostLines (s : State) (k : Nat) (f : Chan → Chan) : (s.setChan k f).hostLines = s.hostLines := rfl
@[simp] theorem setChan_lexp (s : State) (k : Nat) (f : Chan → Chan) : (s.setChan k f).lexp = s.lexp := rfl
@[simp] theorem setChan_lineHolds (s : State) (k : Nat) (f : Chan → Chan) : (s.setChan k f).lineHolds = s.lineHolds := rfl
@[simp] theorem setChan_inflight (s : State) (k : Nat) (f : Chan → Chan) : (s.setChan k f).inflight = s.inflight := rfl
@[simp] theorem setChan_ranges (s : State) (k : Nat) (f : Chan → Chan) : (s.setChan k f).ranges = s.ranges := rfl
@[simp] theorem setChan_reqs (s : State) (k : Nat) (f : Chan → Chan) : (s.setChan k f).reqs = s.reqs := rfl
@[simp] theorem setChan_returns (s : State) (k : Nat) (f : Chan → Chan) : (s.setChan k f).returns = s.returns := rfl
@[simp] theorem setChan_leaseWaits (s : State) (k : Nat) (f : Chan → Chan) : (s.setChan k f).leaseWaits = s.leaseWaits := rfl
@[simp] theorem setChan_waiters (s : State) (k : Nat) (f : Chan → Chan) : (s.setChan k f).waiters = s.waiters := rfl
@[simp] theorem setChan_tlb (s : State) (k : Nat) (f : Chan → Chan) : (s.setChan k f).tlb = s.tlb := rfl
@[simp] theorem setChan_walked (s : State) (k : Nat) (f : Chan → Chan) : (s.setChan k f).walked = s.walked := rfl
@[simp] theorem setChan_pageFaults (s : State) (k : Nat) (f : Chan → Chan) : (s.setChan k f).pageFaults = s.pageFaults := rfl
@[simp] theorem setChan_claims (s : State) (k : Nat) (f : Chan → Chan) : (s.setChan k f).claims = s.claims := rfl
@[simp] theorem setChan_writes (s : State) (k : Nat) (f : Chan → Chan) : (s.setChan k f).writes = s.writes := rfl
@[simp] theorem setChan_history (s : State) (k : Nat) (f : Chan → Chan) : (s.setChan k f).history = s.history := rfl
@[simp] theorem setChan_veils (s : State) (k : Nat) (f : Chan → Chan) : (s.setChan k f).veils = s.veils := rfl
@[simp] theorem setChan_chains (s : State) (k : Nat) (f : Chan → Chan) : (s.setChan k f).chains = s.chains := rfl
@[simp] theorem setChan_spills (s : State) (k : Nat) (f : Chan → Chan) : (s.setChan k f).spills = s.spills := rfl
@[simp] theorem setChan_keys (s : State) (k : Nat) (f : Chan → Chan) : (s.setChan k f).keys = s.keys := rfl
@[simp] theorem setChan_chans (s : State) (k : Nat) (f : Chan → Chan) : (s.setChan k f).chans = sset {} s.chans k (f (s.chan k)) := rfl
@[simp] theorem setChan_subOwner (s : State) (k : Nat) (f : Chan → Chan) : (s.setChan k f).subOwner = s.subOwner := rfl
@[simp] theorem setChan_rowState (s : State) (k : Nat) (f : Chan → Chan) : (s.setChan k f).rowState = s.rowState := rfl
@[simp] theorem setChan_rowLock (s : State) (k : Nat) (f : Chan → Chan) : (s.setChan k f).rowLock = s.rowLock := rfl
@[simp] theorem setChan_workRows (s : State) (k : Nat) (f : Chan → Chan) : (s.setChan k f).workRows = s.workRows := rfl
@[simp] theorem setChan_saveRows (s : State) (k : Nat) (f : Chan → Chan) : (s.setChan k f).saveRows = s.saveRows := rfl
@[simp] theorem setChan_mod (s : State) (k : Nat) (f : Chan → Chan) : (s.setChan k f).mod = s.mod := rfl
@[simp] theorem setChan_phase (s : State) (k : Nat) (f : Chan → Chan) : (s.setChan k f).phase = s.phase := rfl
@[simp] theorem setChan_flash (s : State) (k : Nat) (f : Chan → Chan) : (s.setChan k f).flash = s.flash := rfl
@[simp] theorem setChan_codeSize (s : State) (k : Nat) (f : Chan → Chan) : (s.setChan k f).codeSize = s.codeSize := rfl
@[simp] theorem setChan_fwsvn (s : State) (k : Nat) (f : Chan → Chan) : (s.setChan k f).fwsvn = s.fwsvn := rfl
@[simp] theorem setChan_answers (s : State) (k : Nat) (f : Chan → Chan) : (s.setChan k f).answers = s.answers := rfl
@[simp] theorem setChan_agenda (s : State) (k : Nat) (f : Chan → Chan) : (s.setChan k f).agenda = s.agenda := rfl
@[simp] theorem setChan_args (s : State) (k : Nat) (f : Chan → Chan) : (s.setChan k f).args = s.args := rfl
@[simp] theorem setChan_turns (s : State) (k : Nat) (f : Chan → Chan) : (s.setChan k f).turns = s.turns := rfl
@[simp] theorem setChan_free (s : State) (k : Nat) (f : Chan → Chan) : (s.setChan k f).free = s.free := rfl
@[simp] theorem setChan_serial (s : State) (k : Nat) (f : Chan → Chan) : (s.setChan k f).serial = s.serial := rfl

/-! `State.issue` -/

@[simp] theorem issue_self (s : State) (op : ReqOp) (k : Kind) (sp : Space) (a : Word) (p : Option Nat) (r : Option (Nat × Nat)) (o : BitVec 8) : (s.issue op k sp a p r o).self = s.self := rfl
@[simp] theorem issue_peers (s : State) (op : ReqOp) (k : Kind) (sp : Space) (a : Word) (p : Option Nat) (r : Option (Nat × Nat)) (o : BitVec 8) : (s.issue op k sp a p r o).peers = s.peers := rfl
@[simp] theorem issue_saved (s : State) (op : ReqOp) (k : Kind) (sp : Space) (a : Word) (p : Option Nat) (r : Option (Nat × Nat)) (o : BitVec 8) : (s.issue op k sp a p r o).saved = s.saved := rfl
@[simp] theorem issue_crews (s : State) (op : ReqOp) (k : Kind) (sp : Space) (a : Word) (p : Option Nat) (r : Option (Nat × Nat)) (o : BitVec 8) : (s.issue op k sp a p r o).crews = s.crews := rfl
@[simp] theorem issue_manifests (s : State) (op : ReqOp) (k : Kind) (sp : Space) (a : Word) (p : Option Nat) (r : Option (Nat × Nat)) (o : BitVec 8) : (s.issue op k sp a p r o).manifests = s.manifests := rfl
@[simp] theorem issue_ctxs (s : State) (op : ReqOp) (k : Kind) (sp : Space) (a : Word) (p : Option Nat) (r : Option (Nat × Nat)) (o : BitVec 8) : (s.issue op k sp a p r o).ctxs = s.ctxs := rfl
@[simp] theorem issue_cores (s : State) (op : ReqOp) (k : Kind) (sp : Space) (a : Word) (p : Option Nat) (r : Option (Nat × Nat)) (o : BitVec 8) : (s.issue op k sp a p r o).cores = s.cores := rfl
@[simp] theorem issue_grantCycle (s : State) (op : ReqOp) (k : Kind) (sp : Space) (a : Word) (p : Option Nat) (r : Option (Nat × Nat)) (o : BitVec 8) : (s.issue op k sp a p r o).grantCycle = s.grantCycle := rfl
@[simp] theorem issue_towers (s : State) (op : ReqOp) (k : Kind) (sp : Space) (a : Word) (p : Option Nat) (r : Option (Nat × Nat)) (o : BitVec 8) : (s.issue op k sp a p r o).towers = s.towers := rfl
@[simp] theorem issue_cycle (s : State) (op : ReqOp) (k : Kind) (sp : Space) (a : Word) (p : Option Nat) (r : Option (Nat × Nat)) (o : BitVec 8) : (s.issue op k sp a p r o).cycle = s.cycle := rfl
@[simp] theorem issue_tide (s : State) (op : ReqOp) (k : Kind) (sp : Space) (a : Word) (p : Option Nat) (r : Option (Nat × Nat)) (o : BitVec 8) : (s.issue op k sp a p r o).tide = s.tide := rfl
@[simp] theorem issue_tideOn (s : State) (op : ReqOp) (k : Kind) (sp : Space) (a : Word) (p : Option Nat) (r : Option (Nat × Nat)) (o : BitVec 8) : (s.issue op k sp a p r o).tideOn = s.tideOn := rfl
@[simp] theorem issue_mem (s : State) (op : ReqOp) (k : Kind) (sp : Space) (a : Word) (p : Option Nat) (r : Option (Nat × Nat)) (o : BitVec 8) : (s.issue op k sp a p r o).mem = s.mem := rfl
@[simp] theorem issue_empties (s : State) (op : ReqOp) (k : Kind) (sp : Space) (a : Word) (p : Option Nat) (r : Option (Nat × Nat)) (o : BitVec 8) : (s.issue op k sp a p r o).empties = s.empties := rfl
@[simp] theorem issue_unpub (s : State) (op : ReqOp) (k : Kind) (sp : Space) (a : Word) (p : Option Nat) (r : Option (Nat × Nat)) (o : BitVec 8) : (s.issue op k sp a p r o).unpub = s.unpub := rfl
@[simp] theorem issue_poison (s : State) (op : ReqOp) (k : Kind) (sp : Space) (a : Word) (p : Option Nat) (r : Option (Nat × Nat)) (o : BitVec 8) : (s.issue op k sp a p r o).poison = s.poison := rfl
@[simp] theorem issue_dirty (s : State) (op : ReqOp) (k : Kind) (sp : Space) (a : Word) (p : Option Nat) (r : Option (Nat × Nat)) (o : BitVec 8) : (s.issue op k sp a p r o).dirty = s.dirty := rfl
@[simp] theorem issue_stranded (s : State) (op : ReqOp) (k : Kind) (sp : Space) (a : Word) (p : Option Nat) (r : Option (Nat × Nat)) (o : BitVec 8) : (s.issue op k sp a p r o).stranded = s.stranded := rfl
@[simp] theorem issue_lineKey (s : State) (op : ReqOp) (k : Kind) (sp : Space) (a : Word) (p : Option Nat) (r : Option (Nat × Nat)) (o : BitVec 8) : (s.issue op k sp a p r o).lineKey = s.lineKey := rfl
@[simp] theorem issue_copies (s : State) (op : ReqOp) (k : Kind) (sp : Space) (a : Word) (p : Option Nat) (r : Option (Nat × Nat)) (o : BitVec 8) : (s.issue op k sp a p r o).copies = s.copies := rfl
@[simp] theorem issue_hostLines (s : State) (op : ReqOp) (k : Kind) (sp : Space) (a : Word) (p : Option Nat) (r : Option (Nat × Nat)) (o : BitVec 8) : (s.issue op k sp a p r o).hostLines = s.hostLines := rfl
@[simp] theorem issue_lexp (s : State) (op : ReqOp) (k : Kind) (sp : Space) (a : Word) (p : Option Nat) (r : Option (Nat × Nat)) (o : BitVec 8) : (s.issue op k sp a p r o).lexp = s.lexp := rfl
@[simp] theorem issue_lineHolds (s : State) (op : ReqOp) (k : Kind) (sp : Space) (a : Word) (p : Option Nat) (r : Option (Nat × Nat)) (o : BitVec 8) : (s.issue op k sp a p r o).lineHolds = s.lineHolds := rfl
@[simp] theorem issue_inflight (s : State) (op : ReqOp) (k : Kind) (sp : Space) (a : Word) (p : Option Nat) (r : Option (Nat × Nat)) (o : BitVec 8) : (s.issue op k sp a p r o).inflight = s.inflight := rfl
@[simp] theorem issue_ranges (s : State) (op : ReqOp) (k : Kind) (sp : Space) (a : Word) (p : Option Nat) (r : Option (Nat × Nat)) (o : BitVec 8) : (s.issue op k sp a p r o).ranges = s.ranges := rfl
@[simp] theorem issue_returns (s : State) (op : ReqOp) (k : Kind) (sp : Space) (a : Word) (p : Option Nat) (r : Option (Nat × Nat)) (o : BitVec 8) : (s.issue op k sp a p r o).returns = s.returns := rfl
@[simp] theorem issue_leaseWaits (s : State) (op : ReqOp) (k : Kind) (sp : Space) (a : Word) (p : Option Nat) (r : Option (Nat × Nat)) (o : BitVec 8) : (s.issue op k sp a p r o).leaseWaits = s.leaseWaits := rfl
@[simp] theorem issue_waiters (s : State) (op : ReqOp) (k : Kind) (sp : Space) (a : Word) (p : Option Nat) (r : Option (Nat × Nat)) (o : BitVec 8) : (s.issue op k sp a p r o).waiters = s.waiters := rfl
@[simp] theorem issue_tlb (s : State) (op : ReqOp) (k : Kind) (sp : Space) (a : Word) (p : Option Nat) (r : Option (Nat × Nat)) (o : BitVec 8) : (s.issue op k sp a p r o).tlb = s.tlb := rfl
@[simp] theorem issue_walked (s : State) (op : ReqOp) (k : Kind) (sp : Space) (a : Word) (p : Option Nat) (r : Option (Nat × Nat)) (o : BitVec 8) : (s.issue op k sp a p r o).walked = s.walked := rfl
@[simp] theorem issue_pageFaults (s : State) (op : ReqOp) (k : Kind) (sp : Space) (a : Word) (p : Option Nat) (r : Option (Nat × Nat)) (o : BitVec 8) : (s.issue op k sp a p r o).pageFaults = s.pageFaults := rfl
@[simp] theorem issue_claims (s : State) (op : ReqOp) (k : Kind) (sp : Space) (a : Word) (p : Option Nat) (r : Option (Nat × Nat)) (o : BitVec 8) : (s.issue op k sp a p r o).claims = s.claims := rfl
@[simp] theorem issue_writes (s : State) (op : ReqOp) (k : Kind) (sp : Space) (a : Word) (p : Option Nat) (r : Option (Nat × Nat)) (o : BitVec 8) : (s.issue op k sp a p r o).writes = s.writes := rfl
@[simp] theorem issue_history (s : State) (op : ReqOp) (k : Kind) (sp : Space) (a : Word) (p : Option Nat) (r : Option (Nat × Nat)) (o : BitVec 8) : (s.issue op k sp a p r o).history = s.history := rfl
@[simp] theorem issue_veils (s : State) (op : ReqOp) (k : Kind) (sp : Space) (a : Word) (p : Option Nat) (r : Option (Nat × Nat)) (o : BitVec 8) : (s.issue op k sp a p r o).veils = s.veils := rfl
@[simp] theorem issue_chains (s : State) (op : ReqOp) (k : Kind) (sp : Space) (a : Word) (p : Option Nat) (r : Option (Nat × Nat)) (o : BitVec 8) : (s.issue op k sp a p r o).chains = s.chains := rfl
@[simp] theorem issue_spills (s : State) (op : ReqOp) (k : Kind) (sp : Space) (a : Word) (p : Option Nat) (r : Option (Nat × Nat)) (o : BitVec 8) : (s.issue op k sp a p r o).spills = s.spills := rfl
@[simp] theorem issue_keys (s : State) (op : ReqOp) (k : Kind) (sp : Space) (a : Word) (p : Option Nat) (r : Option (Nat × Nat)) (o : BitVec 8) : (s.issue op k sp a p r o).keys = s.keys := rfl
@[simp] theorem issue_chans (s : State) (op : ReqOp) (k : Kind) (sp : Space) (a : Word) (p : Option Nat) (r : Option (Nat × Nat)) (o : BitVec 8) : (s.issue op k sp a p r o).chans = s.chans := rfl
@[simp] theorem issue_subOwner (s : State) (op : ReqOp) (k : Kind) (sp : Space) (a : Word) (p : Option Nat) (r : Option (Nat × Nat)) (o : BitVec 8) : (s.issue op k sp a p r o).subOwner = s.subOwner := rfl
@[simp] theorem issue_rowState (s : State) (op : ReqOp) (k : Kind) (sp : Space) (a : Word) (p : Option Nat) (r : Option (Nat × Nat)) (o : BitVec 8) : (s.issue op k sp a p r o).rowState = s.rowState := rfl
@[simp] theorem issue_rowLock (s : State) (op : ReqOp) (k : Kind) (sp : Space) (a : Word) (p : Option Nat) (r : Option (Nat × Nat)) (o : BitVec 8) : (s.issue op k sp a p r o).rowLock = s.rowLock := rfl
@[simp] theorem issue_workRows (s : State) (op : ReqOp) (k : Kind) (sp : Space) (a : Word) (p : Option Nat) (r : Option (Nat × Nat)) (o : BitVec 8) : (s.issue op k sp a p r o).workRows = s.workRows := rfl
@[simp] theorem issue_saveRows (s : State) (op : ReqOp) (k : Kind) (sp : Space) (a : Word) (p : Option Nat) (r : Option (Nat × Nat)) (o : BitVec 8) : (s.issue op k sp a p r o).saveRows = s.saveRows := rfl
@[simp] theorem issue_mod (s : State) (op : ReqOp) (k : Kind) (sp : Space) (a : Word) (p : Option Nat) (r : Option (Nat × Nat)) (o : BitVec 8) : (s.issue op k sp a p r o).mod = s.mod := rfl
@[simp] theorem issue_phase (s : State) (op : ReqOp) (k : Kind) (sp : Space) (a : Word) (p : Option Nat) (r : Option (Nat × Nat)) (o : BitVec 8) : (s.issue op k sp a p r o).phase = s.phase := rfl
@[simp] theorem issue_flash (s : State) (op : ReqOp) (k : Kind) (sp : Space) (a : Word) (p : Option Nat) (r : Option (Nat × Nat)) (o : BitVec 8) : (s.issue op k sp a p r o).flash = s.flash := rfl
@[simp] theorem issue_codeSize (s : State) (op : ReqOp) (k : Kind) (sp : Space) (a : Word) (p : Option Nat) (r : Option (Nat × Nat)) (o : BitVec 8) : (s.issue op k sp a p r o).codeSize = s.codeSize := rfl
@[simp] theorem issue_fwsvn (s : State) (op : ReqOp) (k : Kind) (sp : Space) (a : Word) (p : Option Nat) (r : Option (Nat × Nat)) (o : BitVec 8) : (s.issue op k sp a p r o).fwsvn = s.fwsvn := rfl
@[simp] theorem issue_answers (s : State) (op : ReqOp) (k : Kind) (sp : Space) (a : Word) (p : Option Nat) (r : Option (Nat × Nat)) (o : BitVec 8) : (s.issue op k sp a p r o).answers = s.answers := rfl
@[simp] theorem issue_agenda (s : State) (op : ReqOp) (k : Kind) (sp : Space) (a : Word) (p : Option Nat) (r : Option (Nat × Nat)) (o : BitVec 8) : (s.issue op k sp a p r o).agenda = s.agenda := rfl
@[simp] theorem issue_args (s : State) (op : ReqOp) (k : Kind) (sp : Space) (a : Word) (p : Option Nat) (r : Option (Nat × Nat)) (o : BitVec 8) : (s.issue op k sp a p r o).args = s.args := rfl
@[simp] theorem issue_turns (s : State) (op : ReqOp) (k : Kind) (sp : Space) (a : Word) (p : Option Nat) (r : Option (Nat × Nat)) (o : BitVec 8) : (s.issue op k sp a p r o).turns = s.turns := rfl
@[simp] theorem issue_free (s : State) (op : ReqOp) (k : Kind) (sp : Space) (a : Word) (p : Option Nat) (r : Option (Nat × Nat)) (o : BitVec 8) : (s.issue op k sp a p r o).free = s.free := rfl
@[simp] theorem issue_serial (s : State) (op : ReqOp) (k : Kind) (sp : Space) (a : Word) (p : Option Nat) (r : Option (Nat × Nat)) (o : BitVec 8) : (s.issue op k sp a p r o).serial = s.serial + 1 := rfl

/-! `State.produce` -/

@[simp] theorem produce_self (s : State) (d : Dest) (x : List (Option Byte)) : ((s.produce d x).1).self = s.self.empty d := rfl
@[simp] theorem produce_peers (s : State) (d : Dest) (x : List (Option Byte)) : ((s.produce d x).1).peers = s.peers := rfl
@[simp] theorem produce_saved (s : State) (d : Dest) (x : List (Option Byte)) : ((s.produce d x).1).saved = s.saved := rfl
@[simp] theorem produce_crews (s : State) (d : Dest) (x : List (Option Byte)) : ((s.produce d x).1).crews = s.crews := rfl
@[simp] theorem produce_manifests (s : State) (d : Dest) (x : List (Option Byte)) : ((s.produce d x).1).manifests = s.manifests := rfl
@[simp] theorem produce_ctxs (s : State) (d : Dest) (x : List (Option Byte)) : ((s.produce d x).1).ctxs = s.ctxs := rfl
@[simp] theorem produce_cores (s : State) (d : Dest) (x : List (Option Byte)) : ((s.produce d x).1).cores = s.cores := rfl
@[simp] theorem produce_grantCycle (s : State) (d : Dest) (x : List (Option Byte)) : ((s.produce d x).1).grantCycle = s.grantCycle := rfl
@[simp] theorem produce_towers (s : State) (d : Dest) (x : List (Option Byte)) : ((s.produce d x).1).towers = s.towers := rfl
@[simp] theorem produce_cycle (s : State) (d : Dest) (x : List (Option Byte)) : ((s.produce d x).1).cycle = s.cycle := rfl
@[simp] theorem produce_tide (s : State) (d : Dest) (x : List (Option Byte)) : ((s.produce d x).1).tide = s.tide := rfl
@[simp] theorem produce_tideOn (s : State) (d : Dest) (x : List (Option Byte)) : ((s.produce d x).1).tideOn = s.tideOn := rfl
@[simp] theorem produce_mem (s : State) (d : Dest) (x : List (Option Byte)) : ((s.produce d x).1).mem = s.mem := rfl
@[simp] theorem produce_empties (s : State) (d : Dest) (x : List (Option Byte)) : ((s.produce d x).1).empties = s.empties := rfl
@[simp] theorem produce_unpub (s : State) (d : Dest) (x : List (Option Byte)) : ((s.produce d x).1).unpub = s.unpub := rfl
@[simp] theorem produce_poison (s : State) (d : Dest) (x : List (Option Byte)) : ((s.produce d x).1).poison = s.poison := rfl
@[simp] theorem produce_dirty (s : State) (d : Dest) (x : List (Option Byte)) : ((s.produce d x).1).dirty = s.dirty := rfl
@[simp] theorem produce_stranded (s : State) (d : Dest) (x : List (Option Byte)) : ((s.produce d x).1).stranded = s.stranded := rfl
@[simp] theorem produce_lineKey (s : State) (d : Dest) (x : List (Option Byte)) : ((s.produce d x).1).lineKey = s.lineKey := rfl
@[simp] theorem produce_copies (s : State) (d : Dest) (x : List (Option Byte)) : ((s.produce d x).1).copies = s.copies := rfl
@[simp] theorem produce_hostLines (s : State) (d : Dest) (x : List (Option Byte)) : ((s.produce d x).1).hostLines = s.hostLines := rfl
@[simp] theorem produce_lexp (s : State) (d : Dest) (x : List (Option Byte)) : ((s.produce d x).1).lexp = s.lexp := rfl
@[simp] theorem produce_lineHolds (s : State) (d : Dest) (x : List (Option Byte)) : ((s.produce d x).1).lineHolds = s.lineHolds := rfl
@[simp] theorem produce_inflight (s : State) (d : Dest) (x : List (Option Byte)) : ((s.produce d x).1).inflight = s.inflight := rfl
@[simp] theorem produce_ranges (s : State) (d : Dest) (x : List (Option Byte)) : ((s.produce d x).1).ranges = s.ranges := rfl
@[simp] theorem produce_reqs (s : State) (d : Dest) (x : List (Option Byte)) : ((s.produce d x).1).reqs = s.reqs := rfl
@[simp] theorem produce_leaseWaits (s : State) (d : Dest) (x : List (Option Byte)) : ((s.produce d x).1).leaseWaits = s.leaseWaits := rfl
@[simp] theorem produce_waiters (s : State) (d : Dest) (x : List (Option Byte)) : ((s.produce d x).1).waiters = s.waiters := rfl
@[simp] theorem produce_tlb (s : State) (d : Dest) (x : List (Option Byte)) : ((s.produce d x).1).tlb = s.tlb := rfl
@[simp] theorem produce_walked (s : State) (d : Dest) (x : List (Option Byte)) : ((s.produce d x).1).walked = s.walked := rfl
@[simp] theorem produce_pageFaults (s : State) (d : Dest) (x : List (Option Byte)) : ((s.produce d x).1).pageFaults = s.pageFaults := rfl
@[simp] theorem produce_claims (s : State) (d : Dest) (x : List (Option Byte)) : ((s.produce d x).1).claims = s.claims := rfl
@[simp] theorem produce_writes (s : State) (d : Dest) (x : List (Option Byte)) : ((s.produce d x).1).writes = s.writes := rfl
@[simp] theorem produce_history (s : State) (d : Dest) (x : List (Option Byte)) : ((s.produce d x).1).history = s.history := rfl
@[simp] theorem produce_veils (s : State) (d : Dest) (x : List (Option Byte)) : ((s.produce d x).1).veils = s.veils := rfl
@[simp] theorem produce_chains (s : State) (d : Dest) (x : List (Option Byte)) : ((s.produce d x).1).chains = s.chains := rfl
@[simp] theorem produce_spills (s : State) (d : Dest) (x : List (Option Byte)) : ((s.produce d x).1).spills = s.spills := rfl
@[simp] theorem produce_keys (s : State) (d : Dest) (x : List (Option Byte)) : ((s.produce d x).1).keys = s.keys := rfl
@[simp] theorem produce_chans (s : State) (d : Dest) (x : List (Option Byte)) : ((s.produce d x).1).chans = s.chans := rfl
@[simp] theorem produce_subOwner (s : State) (d : Dest) (x : List (Option Byte)) : ((s.produce d x).1).subOwner = s.subOwner := rfl
@[simp] theorem produce_rowState (s : State) (d : Dest) (x : List (Option Byte)) : ((s.produce d x).1).rowState = s.rowState := rfl
@[simp] theorem produce_rowLock (s : State) (d : Dest) (x : List (Option Byte)) : ((s.produce d x).1).rowLock = s.rowLock := rfl
@[simp] theorem produce_workRows (s : State) (d : Dest) (x : List (Option Byte)) : ((s.produce d x).1).workRows = s.workRows := rfl
@[simp] theorem produce_saveRows (s : State) (d : Dest) (x : List (Option Byte)) : ((s.produce d x).1).saveRows = s.saveRows := rfl
@[simp] theorem produce_mod (s : State) (d : Dest) (x : List (Option Byte)) : ((s.produce d x).1).mod = s.mod := rfl
@[simp] theorem produce_phase (s : State) (d : Dest) (x : List (Option Byte)) : ((s.produce d x).1).phase = s.phase := rfl
@[simp] theorem produce_flash (s : State) (d : Dest) (x : List (Option Byte)) : ((s.produce d x).1).flash = s.flash := rfl
@[simp] theorem produce_codeSize (s : State) (d : Dest) (x : List (Option Byte)) : ((s.produce d x).1).codeSize = s.codeSize := rfl
@[simp] theorem produce_fwsvn (s : State) (d : Dest) (x : List (Option Byte)) : ((s.produce d x).1).fwsvn = s.fwsvn := rfl
@[simp] theorem produce_answers (s : State) (d : Dest) (x : List (Option Byte)) : ((s.produce d x).1).answers = s.answers := rfl
@[simp] theorem produce_agenda (s : State) (d : Dest) (x : List (Option Byte)) : ((s.produce d x).1).agenda = s.agenda := rfl
@[simp] theorem produce_args (s : State) (d : Dest) (x : List (Option Byte)) : ((s.produce d x).1).args = s.args := rfl
@[simp] theorem produce_turns (s : State) (d : Dest) (x : List (Option Byte)) : ((s.produce d x).1).turns = s.turns := rfl
@[simp] theorem produce_free (s : State) (d : Dest) (x : List (Option Byte)) : ((s.produce d x).1).free = s.free := rfl
@[simp] theorem produce_serial (s : State) (d : Dest) (x : List (Option Byte)) : ((s.produce d x).1).serial = s.serial + 1 := rfl

/-! `Strand.advance` -/

@[simp] theorem strand_advance_slot (st : Strand) (n : Nat) : (st.advance n).slot = st.slot := rfl
@[simp] theorem strand_advance_crew (st : Strand) (n : Nat) : (st.advance n).crew = st.crew := rfl
@[simp] theorem strand_advance_idx (st : Strand) (n : Nat) : (st.advance n).idx = st.idx := rfl
@[simp] theorem strand_advance_g (st : Strand) (n : Nat) : (st.advance n).g = st.g := rfl
@[simp] theorem strand_advance_gFull (st : Strand) (n : Nat) : (st.advance n).gFull = st.gFull := rfl
@[simp] theorem strand_advance_q (st : Strand) (n : Nat) : (st.advance n).q = st.q := rfl
@[simp] theorem strand_advance_qFull (st : Strand) (n : Nat) : (st.advance n).qFull = st.qFull := rfl
@[simp] theorem strand_advance_v (st : Strand) (n : Nat) : (st.advance n).v = st.v := rfl
@[simp] theorem strand_advance_vFull (st : Strand) (n : Nat) : (st.advance n).vFull = st.vFull := rfl
@[simp] theorem strand_advance_m (st : Strand) (n : Nat) : (st.advance n).m = st.m := rfl
@[simp] theorem strand_advance_acc0 (st : Strand) (n : Nat) : (st.advance n).acc0 = st.acc0 := rfl
@[simp] theorem strand_advance_acc1 (st : Strand) (n : Nat) : (st.advance n).acc1 = st.acc1 := rfl
@[simp] theorem strand_advance_sd (st : Strand) (n : Nat) : (st.advance n).sd = st.sd := rfl
@[simp] theorem strand_advance_tld (st : Strand) (n : Nat) : (st.advance n).tld = st.tld := rfl
@[simp] theorem strand_advance_long (st : Strand) (n : Nat) : (st.advance n).long = st.long := rfl
@[simp] theorem strand_advance_inTrap (st : Strand) (n : Nat) : (st.advance n).inTrap = st.inTrap := rfl
@[simp] theorem strand_advance_pPriv (st : Strand) (n : Nat) : (st.advance n).pPriv = st.pPriv := rfl
@[simp] theorem strand_advance_priv (st : Strand) (n : Nat) : (st.advance n).priv = st.priv := rfl
@[simp] theorem strand_advance_tvec (st : Strand) (n : Nat) : (st.advance n).tvec = st.tvec := rfl
@[simp] theorem strand_advance_tpc (st : Strand) (n : Nat) : (st.advance n).tpc = st.tpc := rfl
@[simp] theorem strand_advance_taddr (st : Strand) (n : Nat) : (st.advance n).taddr = st.taddr := rfl
@[simp] theorem strand_advance_tkind (st : Strand) (n : Nat) : (st.advance n).tkind = st.tkind := rfl
@[simp] theorem strand_advance_tcode (st : Strand) (n : Nat) : (st.advance n).tcode = st.tcode := rfl
@[simp] theorem strand_advance_eidx (st : Strand) (n : Nat) : (st.advance n).eidx = st.eidx := rfl
@[simp] theorem strand_advance_srs (st : Strand) (n : Nat) : (st.advance n).srs = st.srs := rfl
@[simp] theorem strand_advance_rot (st : Strand) (n : Nat) : (st.advance n).rot = st.rot := rfl
@[simp] theorem strand_advance_rmode (st : Strand) (n : Nat) : (st.advance n).rmode = st.rmode := rfl
@[simp] theorem strand_advance_vl (st : Strand) (n : Nat) : (st.advance n).vl = st.vl := rfl
@[simp] theorem strand_advance_retired (st : Strand) (n : Nat) : (st.advance n).retired = st.retired := rfl
@[simp] theorem strand_advance_stopReq (st : Strand) (n : Nat) : (st.advance n).stopReq = st.stopReq := rfl
@[simp] theorem strand_advance_stopped (st : Strand) (n : Nat) : (st.advance n).stopped = st.stopped := rfl
@[simp] theorem strand_advance_ended (st : Strand) (n : Nat) : (st.advance n).ended = st.ended := rfl
@[simp] theorem strand_advance_barPhase (st : Strand) (n : Nat) : (st.advance n).barPhase = st.barPhase := rfl
@[simp] theorem strand_advance_arrival (st : Strand) (n : Nat) : (st.advance n).arrival = st.arrival := rfl
@[simp] theorem strand_advance_pageWait (st : Strand) (n : Nat) : (st.advance n).pageWait = st.pageWait := rfl
@[simp] theorem strand_advance_pageCode (st : Strand) (n : Nat) : (st.advance n).pageCode = st.pageCode := rfl
@[simp] theorem strand_advance_ytHit (st : Strand) (n : Nat) : (st.advance n).ytHit = st.ytHit := rfl
@[simp] theorem strand_advance_mq (st : Strand) (n : Nat) : (st.advance n).mq = st.mq := rfl
@[simp] theorem strand_advance_cq (st : Strand) (n : Nat) : (st.advance n).cq = st.cq := rfl
@[simp] theorem strand_advance_ahead (st : Strand) (n : Nat) : (st.advance n).ahead = st.ahead := rfl
@[simp] theorem strand_advance_looped (st : Strand) (n : Nat) : (st.advance n).looped = st.looped := rfl
@[simp] theorem strand_advance_since (st : Strand) (n : Nat) : (st.advance n).since = st.since := rfl
@[simp] theorem strand_advance_cleared (st : Strand) (n : Nat) : (st.advance n).cleared = st.cleared := rfl
@[simp] theorem strand_advance_looked (st : Strand) (n : Nat) : (st.advance n).looked = st.looked := rfl

/-! `Strand.goto` -/

@[simp] theorem strand_goto_slot (st : Strand) (t : Word) : (st.goto t).slot = st.slot := rfl
@[simp] theorem strand_goto_crew (st : Strand) (t : Word) : (st.goto t).crew = st.crew := rfl
@[simp] theorem strand_goto_idx (st : Strand) (t : Word) : (st.goto t).idx = st.idx := rfl
@[simp] theorem strand_goto_g (st : Strand) (t : Word) : (st.goto t).g = st.g := rfl
@[simp] theorem strand_goto_gFull (st : Strand) (t : Word) : (st.goto t).gFull = st.gFull := rfl
@[simp] theorem strand_goto_q (st : Strand) (t : Word) : (st.goto t).q = st.q := rfl
@[simp] theorem strand_goto_qFull (st : Strand) (t : Word) : (st.goto t).qFull = st.qFull := rfl
@[simp] theorem strand_goto_v (st : Strand) (t : Word) : (st.goto t).v = st.v := rfl
@[simp] theorem strand_goto_vFull (st : Strand) (t : Word) : (st.goto t).vFull = st.vFull := rfl
@[simp] theorem strand_goto_m (st : Strand) (t : Word) : (st.goto t).m = st.m := rfl
@[simp] theorem strand_goto_acc0 (st : Strand) (t : Word) : (st.goto t).acc0 = st.acc0 := rfl
@[simp] theorem strand_goto_acc1 (st : Strand) (t : Word) : (st.goto t).acc1 = st.acc1 := rfl
@[simp] theorem strand_goto_sd (st : Strand) (t : Word) : (st.goto t).sd = st.sd := rfl
@[simp] theorem strand_goto_loops (st : Strand) (t : Word) : (st.goto t).loops = st.loops := rfl
@[simp] theorem strand_goto_tld (st : Strand) (t : Word) : (st.goto t).tld = st.tld := rfl
@[simp] theorem strand_goto_long (st : Strand) (t : Word) : (st.goto t).long = st.long := rfl
@[simp] theorem strand_goto_inTrap (st : Strand) (t : Word) : (st.goto t).inTrap = st.inTrap := rfl
@[simp] theorem strand_goto_pPriv (st : Strand) (t : Word) : (st.goto t).pPriv = st.pPriv := rfl
@[simp] theorem strand_goto_priv (st : Strand) (t : Word) : (st.goto t).priv = st.priv := rfl
@[simp] theorem strand_goto_tvec (st : Strand) (t : Word) : (st.goto t).tvec = st.tvec := rfl
@[simp] theorem strand_goto_tpc (st : Strand) (t : Word) : (st.goto t).tpc = st.tpc := rfl
@[simp] theorem strand_goto_taddr (st : Strand) (t : Word) : (st.goto t).taddr = st.taddr := rfl
@[simp] theorem strand_goto_tkind (st : Strand) (t : Word) : (st.goto t).tkind = st.tkind := rfl
@[simp] theorem strand_goto_tcode (st : Strand) (t : Word) : (st.goto t).tcode = st.tcode := rfl
@[simp] theorem strand_goto_eidx (st : Strand) (t : Word) : (st.goto t).eidx = st.eidx := rfl
@[simp] theorem strand_goto_srs (st : Strand) (t : Word) : (st.goto t).srs = st.srs := rfl
@[simp] theorem strand_goto_rot (st : Strand) (t : Word) : (st.goto t).rot = st.rot := rfl
@[simp] theorem strand_goto_rmode (st : Strand) (t : Word) : (st.goto t).rmode = st.rmode := rfl
@[simp] theorem strand_goto_vl (st : Strand) (t : Word) : (st.goto t).vl = st.vl := rfl
@[simp] theorem strand_goto_retired (st : Strand) (t : Word) : (st.goto t).retired = st.retired := rfl
@[simp] theorem strand_goto_stopReq (st : Strand) (t : Word) : (st.goto t).stopReq = st.stopReq := rfl
@[simp] theorem strand_goto_stopped (st : Strand) (t : Word) : (st.goto t).stopped = st.stopped := rfl
@[simp] theorem strand_goto_ended (st : Strand) (t : Word) : (st.goto t).ended = st.ended := rfl
@[simp] theorem strand_goto_barPhase (st : Strand) (t : Word) : (st.goto t).barPhase = st.barPhase := rfl
@[simp] theorem strand_goto_arrival (st : Strand) (t : Word) : (st.goto t).arrival = st.arrival := rfl
@[simp] theorem strand_goto_pageWait (st : Strand) (t : Word) : (st.goto t).pageWait = st.pageWait := rfl
@[simp] theorem strand_goto_pageCode (st : Strand) (t : Word) : (st.goto t).pageCode = st.pageCode := rfl
@[simp] theorem strand_goto_ytHit (st : Strand) (t : Word) : (st.goto t).ytHit = st.ytHit := rfl
@[simp] theorem strand_goto_mq (st : Strand) (t : Word) : (st.goto t).mq = st.mq := rfl
@[simp] theorem strand_goto_cq (st : Strand) (t : Word) : (st.goto t).cq = st.cq := rfl
@[simp] theorem strand_goto_ahead (st : Strand) (t : Word) : (st.goto t).ahead = st.ahead := rfl
@[simp] theorem strand_goto_looped (st : Strand) (t : Word) : (st.goto t).looped = st.looped := rfl
@[simp] theorem strand_goto_since (st : Strand) (t : Word) : (st.goto t).since = st.since := rfl
@[simp] theorem strand_goto_cleared (st : Strand) (t : Word) : (st.goto t).cleared = st.cleared := rfl
@[simp] theorem strand_goto_looked (st : Strand) (t : Word) : (st.goto t).looked = st.looked := rfl

/-! `Strand.branch` -/

@[simp] theorem strand_branch_slot (st : Strand) (t : Word) : (st.branch t).slot = st.slot := rfl
@[simp] theorem strand_branch_crew (st : Strand) (t : Word) : (st.branch t).crew = st.crew := rfl
@[simp] theorem strand_branch_idx (st : Strand) (t : Word) : (st.branch t).idx = st.idx := rfl
@[simp] theorem strand_branch_g (st : Strand) (t : Word) : (st.branch t).g = st.g := rfl
@[simp] theorem strand_branch_gFull (st : Strand) (t : Word) : (st.branch t).gFull = st.gFull := rfl
@[simp] theorem strand_branch_q (st : Strand) (t : Word) : (st.branch t).q = st.q := rfl
@[simp] theorem strand_branch_qFull (st : Strand) (t : Word) : (st.branch t).qFull = st.qFull := rfl
@[simp] theorem strand_branch_v (st : Strand) (t : Word) : (st.branch t).v = st.v := rfl
@[simp] theorem strand_branch_vFull (st : Strand) (t : Word) : (st.branch t).vFull = st.vFull := rfl
@[simp] theorem strand_branch_m (st : Strand) (t : Word) : (st.branch t).m = st.m := rfl
@[simp] theorem strand_branch_acc0 (st : Strand) (t : Word) : (st.branch t).acc0 = st.acc0 := rfl
@[simp] theorem strand_branch_acc1 (st : Strand) (t : Word) : (st.branch t).acc1 = st.acc1 := rfl
@[simp] theorem strand_branch_sd (st : Strand) (t : Word) : (st.branch t).sd = st.sd := rfl
@[simp] theorem strand_branch_tld (st : Strand) (t : Word) : (st.branch t).tld = st.tld := rfl
@[simp] theorem strand_branch_long (st : Strand) (t : Word) : (st.branch t).long = st.long := rfl
@[simp] theorem strand_branch_inTrap (st : Strand) (t : Word) : (st.branch t).inTrap = st.inTrap := rfl
@[simp] theorem strand_branch_pPriv (st : Strand) (t : Word) : (st.branch t).pPriv = st.pPriv := rfl
@[simp] theorem strand_branch_priv (st : Strand) (t : Word) : (st.branch t).priv = st.priv := rfl
@[simp] theorem strand_branch_tvec (st : Strand) (t : Word) : (st.branch t).tvec = st.tvec := rfl
@[simp] theorem strand_branch_tpc (st : Strand) (t : Word) : (st.branch t).tpc = st.tpc := rfl
@[simp] theorem strand_branch_taddr (st : Strand) (t : Word) : (st.branch t).taddr = st.taddr := rfl
@[simp] theorem strand_branch_tkind (st : Strand) (t : Word) : (st.branch t).tkind = st.tkind := rfl
@[simp] theorem strand_branch_tcode (st : Strand) (t : Word) : (st.branch t).tcode = st.tcode := rfl
@[simp] theorem strand_branch_eidx (st : Strand) (t : Word) : (st.branch t).eidx = st.eidx := rfl
@[simp] theorem strand_branch_srs (st : Strand) (t : Word) : (st.branch t).srs = st.srs := rfl
@[simp] theorem strand_branch_rot (st : Strand) (t : Word) : (st.branch t).rot = st.rot := rfl
@[simp] theorem strand_branch_rmode (st : Strand) (t : Word) : (st.branch t).rmode = st.rmode := rfl
@[simp] theorem strand_branch_vl (st : Strand) (t : Word) : (st.branch t).vl = st.vl := rfl
@[simp] theorem strand_branch_retired (st : Strand) (t : Word) : (st.branch t).retired = st.retired := rfl
@[simp] theorem strand_branch_stopReq (st : Strand) (t : Word) : (st.branch t).stopReq = st.stopReq := rfl
@[simp] theorem strand_branch_stopped (st : Strand) (t : Word) : (st.branch t).stopped = st.stopped := rfl
@[simp] theorem strand_branch_ended (st : Strand) (t : Word) : (st.branch t).ended = st.ended := rfl
@[simp] theorem strand_branch_barPhase (st : Strand) (t : Word) : (st.branch t).barPhase = st.barPhase := rfl
@[simp] theorem strand_branch_arrival (st : Strand) (t : Word) : (st.branch t).arrival = st.arrival := rfl
@[simp] theorem strand_branch_pageWait (st : Strand) (t : Word) : (st.branch t).pageWait = st.pageWait := rfl
@[simp] theorem strand_branch_pageCode (st : Strand) (t : Word) : (st.branch t).pageCode = st.pageCode := rfl
@[simp] theorem strand_branch_ytHit (st : Strand) (t : Word) : (st.branch t).ytHit = st.ytHit := rfl
@[simp] theorem strand_branch_mq (st : Strand) (t : Word) : (st.branch t).mq = st.mq := rfl
@[simp] theorem strand_branch_cq (st : Strand) (t : Word) : (st.branch t).cq = st.cq := rfl
@[simp] theorem strand_branch_ahead (st : Strand) (t : Word) : (st.branch t).ahead = st.ahead := rfl
@[simp] theorem strand_branch_looped (st : Strand) (t : Word) : (st.branch t).looped = st.looped := rfl
@[simp] theorem strand_branch_since (st : Strand) (t : Word) : (st.branch t).since = st.since := rfl
@[simp] theorem strand_branch_cleared (st : Strand) (t : Word) : (st.branch t).cleared = st.cleared := rfl
@[simp] theorem strand_branch_looked (st : Strand) (t : Word) : (st.branch t).looked = st.looked := rfl

/-! `Strand.setG` -/

@[simp] theorem strand_setG_slot (st : Strand) (n : Nat) (v : Word) : (st.setG n v).slot = st.slot := by unfold Strand.setG; split <;> rfl
@[simp] theorem strand_setG_crew (st : Strand) (n : Nat) (v : Word) : (st.setG n v).crew = st.crew := by unfold Strand.setG; split <;> rfl
@[simp] theorem strand_setG_idx (st : Strand) (n : Nat) (v : Word) : (st.setG n v).idx = st.idx := by unfold Strand.setG; split <;> rfl
@[simp] theorem strand_setG_pc (st : Strand) (n : Nat) (v : Word) : (st.setG n v).pc = st.pc := by unfold Strand.setG; split <;> rfl
@[simp] theorem strand_setG_q (st : Strand) (n : Nat) (v : Word) : (st.setG n v).q = st.q := by unfold Strand.setG; split <;> rfl
@[simp] theorem strand_setG_qFull (st : Strand) (n : Nat) (v : Word) : (st.setG n v).qFull = st.qFull := by unfold Strand.setG; split <;> rfl
@[simp] theorem strand_setG_v (st : Strand) (n : Nat) (v : Word) : (st.setG n v).v = st.v := by unfold Strand.setG; split <;> rfl
@[simp] theorem strand_setG_vFull (st : Strand) (n : Nat) (v : Word) : (st.setG n v).vFull = st.vFull := by unfold Strand.setG; split <;> rfl
@[simp] theorem strand_setG_m (st : Strand) (n : Nat) (v : Word) : (st.setG n v).m = st.m := by unfold Strand.setG; split <;> rfl
@[simp] theorem strand_setG_acc0 (st : Strand) (n : Nat) (v : Word) : (st.setG n v).acc0 = st.acc0 := by unfold Strand.setG; split <;> rfl
@[simp] theorem strand_setG_acc1 (st : Strand) (n : Nat) (v : Word) : (st.setG n v).acc1 = st.acc1 := by unfold Strand.setG; split <;> rfl
@[simp] theorem strand_setG_sd (st : Strand) (n : Nat) (v : Word) : (st.setG n v).sd = st.sd := by unfold Strand.setG; split <;> rfl
@[simp] theorem strand_setG_loops (st : Strand) (n : Nat) (v : Word) : (st.setG n v).loops = st.loops := by unfold Strand.setG; split <;> rfl
@[simp] theorem strand_setG_tld (st : Strand) (n : Nat) (v : Word) : (st.setG n v).tld = st.tld := by unfold Strand.setG; split <;> rfl
@[simp] theorem strand_setG_long (st : Strand) (n : Nat) (v : Word) : (st.setG n v).long = st.long := by unfold Strand.setG; split <;> rfl
@[simp] theorem strand_setG_inTrap (st : Strand) (n : Nat) (v : Word) : (st.setG n v).inTrap = st.inTrap := by unfold Strand.setG; split <;> rfl
@[simp] theorem strand_setG_pPriv (st : Strand) (n : Nat) (v : Word) : (st.setG n v).pPriv = st.pPriv := by unfold Strand.setG; split <;> rfl
@[simp] theorem strand_setG_priv (st : Strand) (n : Nat) (v : Word) : (st.setG n v).priv = st.priv := by unfold Strand.setG; split <;> rfl
@[simp] theorem strand_setG_tvec (st : Strand) (n : Nat) (v : Word) : (st.setG n v).tvec = st.tvec := by unfold Strand.setG; split <;> rfl
@[simp] theorem strand_setG_tpc (st : Strand) (n : Nat) (v : Word) : (st.setG n v).tpc = st.tpc := by unfold Strand.setG; split <;> rfl
@[simp] theorem strand_setG_taddr (st : Strand) (n : Nat) (v : Word) : (st.setG n v).taddr = st.taddr := by unfold Strand.setG; split <;> rfl
@[simp] theorem strand_setG_tkind (st : Strand) (n : Nat) (v : Word) : (st.setG n v).tkind = st.tkind := by unfold Strand.setG; split <;> rfl
@[simp] theorem strand_setG_tcode (st : Strand) (n : Nat) (v : Word) : (st.setG n v).tcode = st.tcode := by unfold Strand.setG; split <;> rfl
@[simp] theorem strand_setG_eidx (st : Strand) (n : Nat) (v : Word) : (st.setG n v).eidx = st.eidx := by unfold Strand.setG; split <;> rfl
@[simp] theorem strand_setG_srs (st : Strand) (n : Nat) (v : Word) : (st.setG n v).srs = st.srs := by unfold Strand.setG; split <;> rfl
@[simp] theorem strand_setG_rot (st : Strand) (n : Nat) (v : Word) : (st.setG n v).rot = st.rot := by unfold Strand.setG; split <;> rfl
@[simp] theorem strand_setG_rmode (st : Strand) (n : Nat) (v : Word) : (st.setG n v).rmode = st.rmode := by unfold Strand.setG; split <;> rfl
@[simp] theorem strand_setG_vl (st : Strand) (n : Nat) (v : Word) : (st.setG n v).vl = st.vl := by unfold Strand.setG; split <;> rfl
@[simp] theorem strand_setG_pcnt (st : Strand) (n : Nat) (v : Word) : (st.setG n v).pcnt = st.pcnt := by unfold Strand.setG; split <;> rfl
@[simp] theorem strand_setG_retired (st : Strand) (n : Nat) (v : Word) : (st.setG n v).retired = st.retired := by unfold Strand.setG; split <;> rfl
@[simp] theorem strand_setG_stopReq (st : Strand) (n : Nat) (v : Word) : (st.setG n v).stopReq = st.stopReq := by unfold Strand.setG; split <;> rfl
@[simp] theorem strand_setG_stopped (st : Strand) (n : Nat) (v : Word) : (st.setG n v).stopped = st.stopped := by unfold Strand.setG; split <;> rfl
@[simp] theorem strand_setG_ended (st : Strand) (n : Nat) (v : Word) : (st.setG n v).ended = st.ended := by unfold Strand.setG; split <;> rfl
@[simp] theorem strand_setG_wait (st : Strand) (n : Nat) (v : Word) : (st.setG n v).wait = st.wait := by unfold Strand.setG; split <;> rfl
@[simp] theorem strand_setG_barPhase (st : Strand) (n : Nat) (v : Word) : (st.setG n v).barPhase = st.barPhase := by unfold Strand.setG; split <;> rfl
@[simp] theorem strand_setG_arrival (st : Strand) (n : Nat) (v : Word) : (st.setG n v).arrival = st.arrival := by unfold Strand.setG; split <;> rfl
@[simp] theorem strand_setG_pageWait (st : Strand) (n : Nat) (v : Word) : (st.setG n v).pageWait = st.pageWait := by unfold Strand.setG; split <;> rfl
@[simp] theorem strand_setG_pageCode (st : Strand) (n : Nat) (v : Word) : (st.setG n v).pageCode = st.pageCode := by unfold Strand.setG; split <;> rfl
@[simp] theorem strand_setG_ytHit (st : Strand) (n : Nat) (v : Word) : (st.setG n v).ytHit = st.ytHit := by unfold Strand.setG; split <;> rfl
@[simp] theorem strand_setG_mq (st : Strand) (n : Nat) (v : Word) : (st.setG n v).mq = st.mq := by unfold Strand.setG; split <;> rfl
@[simp] theorem strand_setG_cq (st : Strand) (n : Nat) (v : Word) : (st.setG n v).cq = st.cq := by unfold Strand.setG; split <;> rfl
@[simp] theorem strand_setG_ahead (st : Strand) (n : Nat) (v : Word) : (st.setG n v).ahead = st.ahead := by unfold Strand.setG; split <;> rfl
@[simp] theorem strand_setG_looped (st : Strand) (n : Nat) (v : Word) : (st.setG n v).looped = st.looped := by unfold Strand.setG; split <;> rfl
@[simp] theorem strand_setG_since (st : Strand) (n : Nat) (v : Word) : (st.setG n v).since = st.since := by unfold Strand.setG; split <;> rfl
@[simp] theorem strand_setG_cleared (st : Strand) (n : Nat) (v : Word) : (st.setG n v).cleared = st.cleared := by unfold Strand.setG; split <;> rfl
@[simp] theorem strand_setG_looked (st : Strand) (n : Nat) (v : Word) : (st.setG n v).looked = st.looked := by unfold Strand.setG; split <;> rfl

/-! `Strand.emptyG` -/

@[simp] theorem strand_emptyG_slot (st : Strand) (n : Nat) : (st.emptyG n).slot = st.slot := by unfold Strand.emptyG; split <;> rfl
@[simp] theorem strand_emptyG_crew (st : Strand) (n : Nat) : (st.emptyG n).crew = st.crew := by unfold Strand.emptyG; split <;> rfl
@[simp] theorem strand_emptyG_idx (st : Strand) (n : Nat) : (st.emptyG n).idx = st.idx := by unfold Strand.emptyG; split <;> rfl
@[simp] theorem strand_emptyG_pc (st : Strand) (n : Nat) : (st.emptyG n).pc = st.pc := by unfold Strand.emptyG; split <;> rfl
@[simp] theorem strand_emptyG_g (st : Strand) (n : Nat) : (st.emptyG n).g = st.g := by unfold Strand.emptyG; split <;> rfl
@[simp] theorem strand_emptyG_q (st : Strand) (n : Nat) : (st.emptyG n).q = st.q := by unfold Strand.emptyG; split <;> rfl
@[simp] theorem strand_emptyG_qFull (st : Strand) (n : Nat) : (st.emptyG n).qFull = st.qFull := by unfold Strand.emptyG; split <;> rfl
@[simp] theorem strand_emptyG_v (st : Strand) (n : Nat) : (st.emptyG n).v = st.v := by unfold Strand.emptyG; split <;> rfl
@[simp] theorem strand_emptyG_vFull (st : Strand) (n : Nat) : (st.emptyG n).vFull = st.vFull := by unfold Strand.emptyG; split <;> rfl
@[simp] theorem strand_emptyG_m (st : Strand) (n : Nat) : (st.emptyG n).m = st.m := by unfold Strand.emptyG; split <;> rfl
@[simp] theorem strand_emptyG_acc0 (st : Strand) (n : Nat) : (st.emptyG n).acc0 = st.acc0 := by unfold Strand.emptyG; split <;> rfl
@[simp] theorem strand_emptyG_acc1 (st : Strand) (n : Nat) : (st.emptyG n).acc1 = st.acc1 := by unfold Strand.emptyG; split <;> rfl
@[simp] theorem strand_emptyG_sd (st : Strand) (n : Nat) : (st.emptyG n).sd = st.sd := by unfold Strand.emptyG; split <;> rfl
@[simp] theorem strand_emptyG_loops (st : Strand) (n : Nat) : (st.emptyG n).loops = st.loops := by unfold Strand.emptyG; split <;> rfl
@[simp] theorem strand_emptyG_tld (st : Strand) (n : Nat) : (st.emptyG n).tld = st.tld := by unfold Strand.emptyG; split <;> rfl
@[simp] theorem strand_emptyG_long (st : Strand) (n : Nat) : (st.emptyG n).long = st.long := by unfold Strand.emptyG; split <;> rfl
@[simp] theorem strand_emptyG_inTrap (st : Strand) (n : Nat) : (st.emptyG n).inTrap = st.inTrap := by unfold Strand.emptyG; split <;> rfl
@[simp] theorem strand_emptyG_pPriv (st : Strand) (n : Nat) : (st.emptyG n).pPriv = st.pPriv := by unfold Strand.emptyG; split <;> rfl
@[simp] theorem strand_emptyG_priv (st : Strand) (n : Nat) : (st.emptyG n).priv = st.priv := by unfold Strand.emptyG; split <;> rfl
@[simp] theorem strand_emptyG_tvec (st : Strand) (n : Nat) : (st.emptyG n).tvec = st.tvec := by unfold Strand.emptyG; split <;> rfl
@[simp] theorem strand_emptyG_tpc (st : Strand) (n : Nat) : (st.emptyG n).tpc = st.tpc := by unfold Strand.emptyG; split <;> rfl
@[simp] theorem strand_emptyG_taddr (st : Strand) (n : Nat) : (st.emptyG n).taddr = st.taddr := by unfold Strand.emptyG; split <;> rfl
@[simp] theorem strand_emptyG_tkind (st : Strand) (n : Nat) : (st.emptyG n).tkind = st.tkind := by unfold Strand.emptyG; split <;> rfl
@[simp] theorem strand_emptyG_tcode (st : Strand) (n : Nat) : (st.emptyG n).tcode = st.tcode := by unfold Strand.emptyG; split <;> rfl
@[simp] theorem strand_emptyG_eidx (st : Strand) (n : Nat) : (st.emptyG n).eidx = st.eidx := by unfold Strand.emptyG; split <;> rfl
@[simp] theorem strand_emptyG_srs (st : Strand) (n : Nat) : (st.emptyG n).srs = st.srs := by unfold Strand.emptyG; split <;> rfl
@[simp] theorem strand_emptyG_rot (st : Strand) (n : Nat) : (st.emptyG n).rot = st.rot := by unfold Strand.emptyG; split <;> rfl
@[simp] theorem strand_emptyG_rmode (st : Strand) (n : Nat) : (st.emptyG n).rmode = st.rmode := by unfold Strand.emptyG; split <;> rfl
@[simp] theorem strand_emptyG_vl (st : Strand) (n : Nat) : (st.emptyG n).vl = st.vl := by unfold Strand.emptyG; split <;> rfl
@[simp] theorem strand_emptyG_pcnt (st : Strand) (n : Nat) : (st.emptyG n).pcnt = st.pcnt := by unfold Strand.emptyG; split <;> rfl
@[simp] theorem strand_emptyG_retired (st : Strand) (n : Nat) : (st.emptyG n).retired = st.retired := by unfold Strand.emptyG; split <;> rfl
@[simp] theorem strand_emptyG_stopReq (st : Strand) (n : Nat) : (st.emptyG n).stopReq = st.stopReq := by unfold Strand.emptyG; split <;> rfl
@[simp] theorem strand_emptyG_stopped (st : Strand) (n : Nat) : (st.emptyG n).stopped = st.stopped := by unfold Strand.emptyG; split <;> rfl
@[simp] theorem strand_emptyG_ended (st : Strand) (n : Nat) : (st.emptyG n).ended = st.ended := by unfold Strand.emptyG; split <;> rfl
@[simp] theorem strand_emptyG_wait (st : Strand) (n : Nat) : (st.emptyG n).wait = st.wait := by unfold Strand.emptyG; split <;> rfl
@[simp] theorem strand_emptyG_barPhase (st : Strand) (n : Nat) : (st.emptyG n).barPhase = st.barPhase := by unfold Strand.emptyG; split <;> rfl
@[simp] theorem strand_emptyG_arrival (st : Strand) (n : Nat) : (st.emptyG n).arrival = st.arrival := by unfold Strand.emptyG; split <;> rfl
@[simp] theorem strand_emptyG_pageWait (st : Strand) (n : Nat) : (st.emptyG n).pageWait = st.pageWait := by unfold Strand.emptyG; split <;> rfl
@[simp] theorem strand_emptyG_pageCode (st : Strand) (n : Nat) : (st.emptyG n).pageCode = st.pageCode := by unfold Strand.emptyG; split <;> rfl
@[simp] theorem strand_emptyG_ytHit (st : Strand) (n : Nat) : (st.emptyG n).ytHit = st.ytHit := by unfold Strand.emptyG; split <;> rfl
@[simp] theorem strand_emptyG_mq (st : Strand) (n : Nat) : (st.emptyG n).mq = st.mq := by unfold Strand.emptyG; split <;> rfl
@[simp] theorem strand_emptyG_cq (st : Strand) (n : Nat) : (st.emptyG n).cq = st.cq := by unfold Strand.emptyG; split <;> rfl
@[simp] theorem strand_emptyG_ahead (st : Strand) (n : Nat) : (st.emptyG n).ahead = st.ahead := by unfold Strand.emptyG; split <;> rfl
@[simp] theorem strand_emptyG_looped (st : Strand) (n : Nat) : (st.emptyG n).looped = st.looped := by unfold Strand.emptyG; split <;> rfl
@[simp] theorem strand_emptyG_since (st : Strand) (n : Nat) : (st.emptyG n).since = st.since := by unfold Strand.emptyG; split <;> rfl
@[simp] theorem strand_emptyG_cleared (st : Strand) (n : Nat) : (st.emptyG n).cleared = st.cleared := by unfold Strand.emptyG; split <;> rfl
@[simp] theorem strand_emptyG_looked (st : Strand) (n : Nat) : (st.emptyG n).looked = st.looked := by unfold Strand.emptyG; split <;> rfl

/-! `Strand.empty` -/

@[simp] theorem strand_empty_slot (st : Strand) (d : Dest) : (st.empty d).slot = st.slot := by cases d <;> simp [Strand.empty]
@[simp] theorem strand_empty_crew (st : Strand) (d : Dest) : (st.empty d).crew = st.crew := by cases d <;> simp [Strand.empty]
@[simp] theorem strand_empty_idx (st : Strand) (d : Dest) : (st.empty d).idx = st.idx := by cases d <;> simp [Strand.empty]
@[simp] theorem strand_empty_pc (st : Strand) (d : Dest) : (st.empty d).pc = st.pc := by cases d <;> simp [Strand.empty]
@[simp] theorem strand_empty_g (st : Strand) (d : Dest) : (st.empty d).g = st.g := by cases d <;> simp [Strand.empty]
@[simp] theorem strand_empty_q (st : Strand) (d : Dest) : (st.empty d).q = st.q := by cases d <;> simp [Strand.empty]
@[simp] theorem strand_empty_v (st : Strand) (d : Dest) : (st.empty d).v = st.v := by cases d <;> simp [Strand.empty]
@[simp] theorem strand_empty_m (st : Strand) (d : Dest) : (st.empty d).m = st.m := by cases d <;> simp [Strand.empty]
@[simp] theorem strand_empty_acc0 (st : Strand) (d : Dest) : (st.empty d).acc0 = st.acc0 := by cases d <;> simp [Strand.empty]
@[simp] theorem strand_empty_acc1 (st : Strand) (d : Dest) : (st.empty d).acc1 = st.acc1 := by cases d <;> simp [Strand.empty]
@[simp] theorem strand_empty_sd (st : Strand) (d : Dest) : (st.empty d).sd = st.sd := by cases d <;> simp [Strand.empty]
@[simp] theorem strand_empty_loops (st : Strand) (d : Dest) : (st.empty d).loops = st.loops := by cases d <;> simp [Strand.empty]
@[simp] theorem strand_empty_tld (st : Strand) (d : Dest) : (st.empty d).tld = st.tld := by cases d <;> simp [Strand.empty]
@[simp] theorem strand_empty_long (st : Strand) (d : Dest) : (st.empty d).long = st.long := by cases d <;> simp [Strand.empty]
@[simp] theorem strand_empty_inTrap (st : Strand) (d : Dest) : (st.empty d).inTrap = st.inTrap := by cases d <;> simp [Strand.empty]
@[simp] theorem strand_empty_pPriv (st : Strand) (d : Dest) : (st.empty d).pPriv = st.pPriv := by cases d <;> simp [Strand.empty]
@[simp] theorem strand_empty_priv (st : Strand) (d : Dest) : (st.empty d).priv = st.priv := by cases d <;> simp [Strand.empty]
@[simp] theorem strand_empty_tvec (st : Strand) (d : Dest) : (st.empty d).tvec = st.tvec := by cases d <;> simp [Strand.empty]
@[simp] theorem strand_empty_tpc (st : Strand) (d : Dest) : (st.empty d).tpc = st.tpc := by cases d <;> simp [Strand.empty]
@[simp] theorem strand_empty_taddr (st : Strand) (d : Dest) : (st.empty d).taddr = st.taddr := by cases d <;> simp [Strand.empty]
@[simp] theorem strand_empty_tkind (st : Strand) (d : Dest) : (st.empty d).tkind = st.tkind := by cases d <;> simp [Strand.empty]
@[simp] theorem strand_empty_tcode (st : Strand) (d : Dest) : (st.empty d).tcode = st.tcode := by cases d <;> simp [Strand.empty]
@[simp] theorem strand_empty_eidx (st : Strand) (d : Dest) : (st.empty d).eidx = st.eidx := by cases d <;> simp [Strand.empty]
@[simp] theorem strand_empty_srs (st : Strand) (d : Dest) : (st.empty d).srs = st.srs := by cases d <;> simp [Strand.empty]
@[simp] theorem strand_empty_rot (st : Strand) (d : Dest) : (st.empty d).rot = st.rot := by cases d <;> simp [Strand.empty]
@[simp] theorem strand_empty_rmode (st : Strand) (d : Dest) : (st.empty d).rmode = st.rmode := by cases d <;> simp [Strand.empty]
@[simp] theorem strand_empty_vl (st : Strand) (d : Dest) : (st.empty d).vl = st.vl := by cases d <;> simp [Strand.empty]
@[simp] theorem strand_empty_pcnt (st : Strand) (d : Dest) : (st.empty d).pcnt = st.pcnt := by cases d <;> simp [Strand.empty]
@[simp] theorem strand_empty_retired (st : Strand) (d : Dest) : (st.empty d).retired = st.retired := by cases d <;> simp [Strand.empty]
@[simp] theorem strand_empty_stopReq (st : Strand) (d : Dest) : (st.empty d).stopReq = st.stopReq := by cases d <;> simp [Strand.empty]
@[simp] theorem strand_empty_stopped (st : Strand) (d : Dest) : (st.empty d).stopped = st.stopped := by cases d <;> simp [Strand.empty]
@[simp] theorem strand_empty_ended (st : Strand) (d : Dest) : (st.empty d).ended = st.ended := by cases d <;> simp [Strand.empty]
@[simp] theorem strand_empty_wait (st : Strand) (d : Dest) : (st.empty d).wait = st.wait := by cases d <;> simp [Strand.empty]
@[simp] theorem strand_empty_barPhase (st : Strand) (d : Dest) : (st.empty d).barPhase = st.barPhase := by cases d <;> simp [Strand.empty]
@[simp] theorem strand_empty_arrival (st : Strand) (d : Dest) : (st.empty d).arrival = st.arrival := by cases d <;> simp [Strand.empty]
@[simp] theorem strand_empty_pageWait (st : Strand) (d : Dest) : (st.empty d).pageWait = st.pageWait := by cases d <;> simp [Strand.empty]
@[simp] theorem strand_empty_pageCode (st : Strand) (d : Dest) : (st.empty d).pageCode = st.pageCode := by cases d <;> simp [Strand.empty]
@[simp] theorem strand_empty_ytHit (st : Strand) (d : Dest) : (st.empty d).ytHit = st.ytHit := by cases d <;> simp [Strand.empty]
@[simp] theorem strand_empty_mq (st : Strand) (d : Dest) : (st.empty d).mq = st.mq := by cases d <;> simp [Strand.empty]
@[simp] theorem strand_empty_cq (st : Strand) (d : Dest) : (st.empty d).cq = st.cq := by cases d <;> simp [Strand.empty]
@[simp] theorem strand_empty_ahead (st : Strand) (d : Dest) : (st.empty d).ahead = st.ahead := by cases d <;> simp [Strand.empty]
@[simp] theorem strand_empty_looped (st : Strand) (d : Dest) : (st.empty d).looped = st.looped := by cases d <;> simp [Strand.empty]
@[simp] theorem strand_empty_since (st : Strand) (d : Dest) : (st.empty d).since = st.since := by cases d <;> simp [Strand.empty]
@[simp] theorem strand_empty_cleared (st : Strand) (d : Dest) : (st.empty d).cleared = st.cleared := by cases d <;> simp [Strand.empty]
@[simp] theorem strand_empty_looked (st : Strand) (d : Dest) : (st.empty d).looked = st.looked := by cases d <;> simp [Strand.empty]

end Sys2Proof.Machine
end

