-- ==== Sys2Proof/Laws/Frames.lean ====
section
/-! SUPPORT. Frames.lean: what a stop leaves as it was, and how a frame of an instruction follows from frames of the
operations it is made of. -/

namespace Sys2Proof.Machine

/-- A state that differs from another at most in the strand whose turn it is and in what a stop records: launches'
faults, the machine checks to be logged, the numbers handed out. -/
structure State.Aside (s t : State) : Prop where
  peers : t.peers = s.peers
  saved : t.saved = s.saved
  reqs : t.reqs = s.reqs
  returns : t.returns = s.returns
  chans : t.chans = s.chans
  mod : t.mod = s.mod
  mem : t.mem = s.mem
  lineKey : t.lineKey = s.lineKey
  empties : t.empties = s.empties
  poison : t.poison = s.poison
  unpub : t.unpub = s.unpub
  dirty : t.dirty = s.dirty

theorem State.Aside.refl (s : State) : s.Aside s := ⟨rfl, rfl, rfl, rfl, rfl, rfl, rfl, rfl, rfl, rfl, rfl, rfl⟩
theorem State.Aside.trans {s t u : State} (h : s.Aside t) (g : t.Aside u) : s.Aside u :=
  ⟨g.1.trans h.1, g.2.trans h.2, g.3.trans h.3, g.4.trans h.4, g.5.trans h.5, g.6.trans h.6, g.7.trans h.7,
    g.8.trans h.8, g.9.trans h.9, g.10.trans h.10, g.11.trans h.11, g.12.trans h.12⟩
theorem State.Aside.mapSelf {s t : State} (h : s.Aside t) (f : Strand → Strand) : s.Aside (t.mapSelf f) :=
  h.trans ⟨rfl, rfl, rfl, rfl, rfl, rfl, rfl, rfl, rfl, rfl, rfl, rfl⟩

/-- A byte reads the same while memory, the keys its lines stand under and the marks of lines in L2 do. -/
theorem byteAt_congr {s t : State} (hm : t.mem = s.mem) (hk : t.lineKey = s.lineKey) (hd : t.dirty = s.dirty)
    (key : Option (BitVec 512)) (p : Nat) : t.byteAt key p = s.byteAt key p := by
  simp only [State.byteAt, State.underKey, hm, hk, hd]

theorem State.Aside.sameMemory {s t : State} (h : s.Aside t) : s.sameMemory t :=
  ⟨fun key p => byteAt_congr h.mem h.lineKey h.dirty key p, h.empties, h.poison, h.unpub⟩

theorem endLaunch_aside (s : State) (code : BitVec 8) (addr : Word) (user : BitVec 16) :
    s.Aside (s.endLaunch code addr user) := by
  unfold State.endLaunch State.recordFault
  split <;> exact ⟨rfl, rfl, rfl, rfl, rfl, rfl, rfl, rfl, rfl, rfl, rfl, rfl⟩

theorem endLaunch_self (s : State) (code : BitVec 8) (addr : Word) (user : BitVec 16) :
    (s.endLaunch code addr user).self = { s.self with ended := true, wait := none, cleared := [] } := by
  unfold State.endLaunch State.recordFault
  split <;> rfl

theorem trapEntry_aside (s : State) (kind : BitVec 2) (code : BitVec 8) (tpc taddr target : Word) :
    s.Aside (s.trapEntry kind code tpc taddr target) := by
  unfold State.trapEntry
  dsimp only
  split
  · exact endLaunch_aside ..
  · split
    · split <;> exact endLaunch_aside ..
    · exact ⟨rfl, rfl, rfl, rfl, rfl, rfl, rfl, rfl, rfl, rfl, rfl, rfl⟩

theorem raise_aside (s : State) (code : BitVec 8) (addr : Word) : s.Aside (s.raise code addr) := by
  unfold State.raise
  split
  · exact trapEntry_aside ..
  · exact endLaunch_aside ..

theorem pageFault_aside (s : State) (asid : BitVec 16) (addr : Word) (tower info : Nat) :
    s.Aside (s.pageFault asid addr tower info) := by
  unfold State.pageFault
  split
  · exact .refl s
  · exact ⟨rfl, rfl, rfl, rfl, rfl, rfl, rfl, rfl, rfl, rfl, rfl, rfl⟩

theorem raisePage_aside (s : State) (addr : Word) (acc : Nat) : s.Aside (s.raisePage addr acc) := by
  unfold State.raisePage
  split
  · exact endLaunch_aside ..
  · exact (pageFault_aside ..).mapSelf _

/-- Strands that differ at most in their wait, their end, the page they wait for and what a trap entry writes. -/
structure Strand.Near (a b : Strand) : Prop where
  engines : a.sameEngines b
  control : a.sameControl b
  g : b.g = a.g
  gFull : b.gFull = a.gFull
  loops : b.loops = a.loops
  crew : b.crew = a.crew
  idx : b.idx = a.idx
  slot : b.slot = a.slot

theorem Strand.Near.refl (a : Strand) : a.Near a :=
  ⟨⟨rfl, rfl, rfl, rfl, rfl, rfl, rfl, rfl, rfl, rfl, rfl, rfl⟩, ⟨rfl, rfl, rfl, rfl, rfl⟩, rfl, rfl, rfl, rfl, rfl, rfl⟩

theorem endLaunch_near (s : State) (code : BitVec 8) (addr : Word) (user : BitVec 16) :
    s.self.Near (s.endLaunch code addr user).self := by
  rw [endLaunch_self]
  exact ⟨⟨rfl, rfl, rfl, rfl, rfl, rfl, rfl, rfl, rfl, rfl, rfl, rfl⟩, ⟨rfl, rfl, rfl, rfl, rfl⟩, rfl, rfl, rfl, rfl, rfl, rfl⟩

theorem trapEntry_near (s : State) (kind : BitVec 2) (code : BitVec 8) (tpc taddr target : Word) :
    s.self.Near (s.trapEntry kind code tpc taddr target).self := by
  unfold State.trapEntry
  dsimp only
  split
  · exact endLaunch_near ..
  · split
    · split <;> exact endLaunch_near ..
    · exact ⟨⟨rfl, rfl, rfl, rfl, rfl, rfl, rfl, rfl, rfl, rfl, rfl, rfl⟩, ⟨rfl, rfl, rfl, rfl, rfl⟩, rfl, rfl, rfl, rfl, rfl, rfl⟩

theorem raise_near (s : State) (code : BitVec 8) (addr : Word) : s.self.Near (s.raise code addr).self := by
  unfold State.raise
  split
  · exact trapEntry_near ..
  · exact endLaunch_near ..

theorem raisePage_near (s : State) (addr : Word) (acc : Nat) : s.self.Near (s.raisePage addr acc).self := by
  unfold State.raisePage
  split
  · exact endLaunch_near ..
  · unfold State.pageFault
    split <;> exact ⟨⟨rfl, rfl, rfl, rfl, rfl, rfl, rfl, rfl, rfl, rfl, rfl, rfl⟩, ⟨rfl, rfl, rfl, rfl, rfl⟩, rfl, rfl, rfl, rfl, rfl, rfl⟩

/-- A fault other than FE_EMPTY writes no trap register (06 R237). -/
theorem raise_sameTrap (s : State) (code : BitVec 8) (addr : Word) (h : code ≠ FE_EMPTY) :
    s.self.sameTrap (s.raise code addr).self := by
  unfold State.raise
  rw [if_neg (by simpa using h), endLaunch_self]
  exact ⟨rfl, rfl, rfl, rfl, rfl, rfl, rfl, rfl⟩

/-- A stop of the strand that changes no more than `Aside` and `Near` allow, and no trap register unless `trap`. -/
structure State.Calm (s : State) (trap : Bool) (e : Stop) : Prop where
  aside : s.Aside (s.onStop e)
  near : s.self.Near (s.onStop e).self
  quiet : trap = false → s.self.sameTrap (s.onStop e).self

theorem calm_retry (s : State) (trap : Bool) : s.Calm trap s.retry :=
  ⟨⟨rfl, rfl, rfl, rfl, rfl, rfl, rfl, rfl, rfl, rfl, rfl, rfl⟩, ⟨⟨rfl, rfl, rfl, rfl, rfl, rfl, rfl, rfl, rfl, rfl, rfl, rfl⟩, ⟨rfl, rfl, rfl, rfl, rfl⟩, rfl, rfl, rfl, rfl, rfl, rfl⟩,
    fun _ => ⟨rfl, rfl, rfl, rfl, rfl, rfl, rfl, rfl⟩⟩
theorem calm_hold (s : State) (trap : Bool) : s.Calm trap s.hold :=
  ⟨⟨rfl, rfl, rfl, rfl, rfl, rfl, rfl, rfl, rfl, rfl, rfl, rfl⟩, ⟨⟨rfl, rfl, rfl, rfl, rfl, rfl, rfl, rfl, rfl, rfl, rfl, rfl⟩, ⟨rfl, rfl, rfl, rfl, rfl⟩, rfl, rfl, rfl, rfl, rfl, rfl⟩,
    fun _ => ⟨rfl, rfl, rfl, rfl, rfl, rfl, rfl, rfl⟩⟩
theorem calm_fault (s : State) (trap : Bool) (code : BitVec 8) (addr : Word) (h : trap = true ∨ code ≠ FE_EMPTY) :
    s.Calm trap (.fault code addr) :=
  ⟨raise_aside .., raise_near .., fun q => raise_sameTrap s code addr (h.resolve_left (by simp [q]))⟩
theorem calm_page (s : State) (trap : Bool) (addr : Word) (acc : Nat) : s.Calm trap (.page addr acc) := by
  refine ⟨raisePage_aside .., raisePage_near .., fun _ => ?_⟩
  show s.self.sameTrap (s.raisePage addr acc).self
  unfold State.raisePage
  split
  · rw [endLaunch_self]
    exact ⟨rfl, rfl, rfl, rfl, rfl, rfl, rfl, rfl⟩
  · unfold State.pageFault
    split <;> exact ⟨rfl, rfl, rfl, rfl, rfl, rfl, rfl, rfl⟩
theorem calm_endLaunch (s : State) (trap : Bool) (code : BitVec 8) (addr : Word) (user : BitVec 16) :
    s.Calm trap (.endLaunch code addr user) :=
  ⟨endLaunch_aside .., endLaunch_near .., fun _ => by
    show s.self.sameTrap (s.endLaunch code addr user).self
    rw [endLaunch_self]
    exact ⟨rfl, rfl, rfl, rfl, rfl, rfl, rfl, rfl⟩⟩

/-- Writing g[d] leaves every other register's fullness and value (06 R205). -/
theorem gIsFull_setG_ne (st : Strand) (d r : Nat) (v : Word) (h : r ≠ d) : (st.setG d v).gIsFull r = st.gIsFull r := by
  unfold Strand.setG Strand.gIsFull
  by_cases hd : d = 0
  · simp only [hd, if_true]
  · simp only [hd, if_false, BitVec.getLsbD_or, BitVec.getLsbD_twoPow]
    have : ¬d = r := fun e => h e.symm
    simp [this]

theorem readG_setG_ne (st : Strand) (d r : Nat) (v : Word) (h : r ≠ d) : (st.setG d v).readG r = st.readG r := by
  unfold Strand.setG Strand.readG
  by_cases hd : d = 0
  · simp only [hd, if_true]
  · simp only [hd, if_false]
    have : ¬d = r := fun e => h e.symm
    rw [Vector.getElem?_setIfInBounds_ne this]

/-- A written register holds the value and is full; g0 keeps reading as zero. -/
theorem readG_setG_self (st : Strand) (d : Nat) (v : Word) (h0 : d ≠ 0) (h : d < 32) : (st.setG d v).readG d = v := by
  unfold Strand.setG Strand.readG
  simp only [h0, if_false]
  simp [h]

theorem gIsFull_setG_self (st : Strand) (d : Nat) (v : Word) (h : d < 32) : (st.setG d v).gIsFull d = true := by
  unfold Strand.setG Strand.gIsFull
  by_cases hd : d = 0
  · simp [hd]
  · simp [hd, h]

/-- Emptying g[d] leaves every value, and every other register's fullness. -/
theorem gIsFull_emptyG_ne (st : Strand) (d r : Nat) (h : r ≠ d) : (st.emptyG d).gIsFull r = st.gIsFull r := by
  unfold Strand.emptyG Strand.gIsFull
  by_cases hd : d = 0
  · simp only [hd, if_true]
  · simp only [hd, if_false, BitVec.getLsbD_and, BitVec.getLsbD_not, BitVec.getLsbD_twoPow]
    have : ¬d = r := fun e => h e.symm
    by_cases hr : r < 32
    · simp [this, hr]
    · simp [hr, BitVec.getLsbD_of_ge _ _ (Nat.le_of_not_lt hr)]

/-- A computation whose every stop is calm and whose every result has a property. -/
def State.Keeps {α : Type} (s : State) (trap : Bool) (Q : α → Prop) (r : Except Stop α) : Prop :=
  match r with
  | .ok a => Q a
  | .error e => s.Calm trap e

theorem keeps_ok {α : Type} {s : State} {trap : Bool} {Q : α → Prop} {a : α} (h : Q a) :
    s.Keeps trap Q (.ok a) := h

theorem keeps_bind {α β : Type} {s : State} {trap : Bool} {Q : α → Prop} {R : β → Prop} {x : Except Stop α}
    {f : α → Except Stop β} (hx : s.Keeps trap Q x) (hf : ∀ a, Q a → s.Keeps trap R (f a)) :
    s.Keeps trap R (x >>= f) := by
  cases x with
  | ok a => exact hf a hx
  | error e => exact hx

theorem keeps_mono {α : Type} {s : State} {trap : Bool} {Q R : α → Prop} {x : Except Stop α} (hx : s.Keeps trap Q x)
    (h : ∀ a, Q a → R a) : s.Keeps trap R x := by
  cases x with
  | ok a => exact h a hx
  | error e => exact hx

theorem keeps_srcG (s : State) (trap : Bool) (r : Reg) : s.Keeps trap (fun v => s.source r v) (s.srcG r trap) := by
  unfold State.srcG
  split
  · rename_i h
    exact ⟨h, rfl⟩
  · unfold State.emptySource
    split
    · exact calm_fault _ _ _ _ (.inl ‹_›)
    · exact calm_retry ..

theorem keeps_srcV (s : State) (trap : Bool) (r : Reg) : s.Keeps trap (fun v => s.sourceV r v) (s.srcV r trap) := by
  unfold State.srcV
  split
  · rename_i h
    exact ⟨h, rfl⟩
  · unfold State.emptySource
    split
    · exact calm_fault _ _ _ _ (.inl ‹_›)
    · exact calm_retry ..

theorem keeps_srcG_calm (s : State) (trap : Bool) (r : Reg) : s.Keeps trap (fun v => s.source r v) (s.srcG r false) := by
  unfold State.srcG
  split
  · rename_i h
    exact ⟨h, rfl⟩
  · exact calm_retry ..

theorem keeps_need (s : State) (trap ok : Bool) (code : BitVec 8) (addr : Word) (h : code ≠ FE_EMPTY) :
    s.Keeps trap (fun _ => ok = true) (need ok code addr) := by
  cases ok
  · exact calm_fault _ _ _ _ (.inr h)
  · rfl

theorem keeps_await (s : State) (trap ok : Bool) : s.Keeps trap (fun _ => ok = true) (s.await ok) := by
  cases ok
  · exact calm_retry ..
  · rfl

theorem keeps_holdFor (s : State) (trap ok : Bool) : s.Keeps trap (fun _ => ok = true) (s.holdFor ok) := by
  cases ok
  · exact calm_hold ..
  · rfl

theorem keeps_destFree (s : State) (trap : Bool) (d : Dest) : s.Keeps trap (fun _ => s.settled d) (s.destFree d) := by
  unfold State.destFree
  refine keeps_mono (keeps_await ..) (fun _ h => ?_)
  simpa using h

theorem keeps_result (s : State) (trap : Bool) (d : Reg) (len : Nat) (v : Word) :
    s.Keeps trap (fun t => t = s.gains d len v) (s.result d len v) := by
  unfold State.result
  exact keeps_bind (keeps_destFree ..) (fun _ _ => rfl)

theorem keeps_binary (s : State) (len : Nat) (f : FA) (op : Word → Word → Word) :
    s.Keeps f.trap (fun t => ∃ v, t = s.gains f.d len v) (s.binary len f op) := by
  unfold State.binary
  exact keeps_bind (keeps_srcG ..) (fun _ _ => keeps_bind (keeps_srcG ..) (fun _ _ =>
    keeps_mono (keeps_result ..) (fun _ h => ⟨_, h⟩)))

theorem keeps_immediate (s : State) (len : Nat) (a d : Reg) (op : Word → Word) :
    s.Keeps false (fun t => ∃ v, t = s.gains d len v) (s.immediate len a d op) := by
  unfold State.immediate
  exact keeps_bind (keeps_srcG_calm ..) (fun _ _ => keeps_mono (keeps_result ..) (fun _ h => ⟨_, h⟩))

/-- An instruction's frame: it holds of its result, and of what its stops leave. -/
theorem finish_keeps {s t : State} {trap : Bool} {Q P : State → Prop} {r : Except Stop State}
    (h : finish s r = .next t) (hr : s.Keeps trap Q r) (hQ : ∀ u, Q u → P u) (hS : ∀ e, s.Calm trap e → P (s.onStop e)) :
    P t := by
  cases r with
  | ok u =>
    cases h
    exact hQ _ hr
  | error e =>
    cases h
    exact hS _ hr

end Sys2Proof.Machine
end

