-- ==== Sys2Proof/Laws/Memory.lean ====
section
/-! SUPPORT. Memory.lean: the laws of sparse data and of memory: reading after writing, the canonical form, and the
reads of several bytes. -/

namespace Sys2Proof.Machine

/-! ## Sparse data -/

theorem swfFrom_mono {α : Type} [DecidableEq α] {d : α} {m : Sparse α} {a b : Nat}
    (h : swfFrom d (some b) m = true) (hab : a ≤ b) : swfFrom d (some a) m = true := by
  cases m with
  | nil => rfl
  | cons e m =>
    simp only [swfFrom, Bool.and_eq_true, decide_eq_true_eq] at h ⊢
    exact ⟨⟨by omega, h.1.2⟩, h.2⟩

theorem swfFrom_none {α : Type} [DecidableEq α] {d : α} {m : Sparse α} {a : Nat}
    (h : swfFrom d (some a) m = true) : swfFrom d none m = true := by
  cases m with
  | nil => rfl
  | cons e m =>
    simp only [swfFrom, Bool.and_eq_true, Bool.true_and] at h ⊢
    exact ⟨h.1.2, h.2⟩

/-- A key at or below the floor of canonical data is not listed. -/
theorem sget_below {α : Type} [DecidableEq α] {d : α} {m : Sparse α} {lo k : Nat}
    (h : swfFrom d (some lo) m = true) (hk : k ≤ lo) : sget d m k = d := by
  cases m with
  | nil => rfl
  | cons e m =>
    simp only [swfFrom, Bool.and_eq_true, decide_eq_true_eq] at h
    have h1 : e.1 ≠ k := by omega
    have h2 : k < e.1 := by omega
    simp [sget, h1, h2]

/-- Reading the key that was set gives the value set. -/
theorem sget_sset_same {α : Type} [DecidableEq α] (d : α) (lo : Option Nat) (m : Sparse α) (k : Nat) (v : α)
    (h : swfFrom d lo m = true) : sget d (sset d m k v) k = v := by
  induction m generalizing lo with
  | nil =>
    by_cases hv : v = d <;> simp [sset, sput, sget, hv]
  | cons e m ih =>
    obtain ⟨j, w⟩ := e
    simp only [swfFrom, Bool.and_eq_true] at h
    by_cases hj : j = k
    · subst hj
      by_cases hv : v = d
      · simp only [sset, sput, hv, if_true]
        exact sget_below h.2 (Nat.le_refl _)
      · simp [sset, sput, sget, hv]
    · by_cases hk : k < j
      · by_cases hv : v = d
        · simp [sset, sput, sget, hv, hj, hk]
        · simp [sset, sput, sget, hv, hj, hk]
      · have := ih (some j) h.2
        simp only [sset] at this ⊢
        simp [sput, sget, hj, hk, this]

/-- Setting a key leaves every other key as it was. -/
theorem sget_sset_other {α : Type} [DecidableEq α] (d : α) (m : Sparse α) (k i : Nat) (v : α)
    (hik : i ≠ k) (lo : Option Nat) (h : swfFrom d lo m = true) : sget d (sset d m k v) i = sget d m i := by
  induction m generalizing lo with
  | nil =>
    by_cases hv : v = d
    · simp [sset, sput, hv]
    · have : ¬ k = i := fun e => hik e.symm
      simp [sset, sput, sget, hv, this]
  | cons e m ih =>
    obtain ⟨j, w⟩ := e
    simp only [swfFrom, Bool.and_eq_true] at h
    by_cases hj : j = k
    · subst hj
      have hji : ¬ j = i := fun e => hik e.symm
      by_cases hv : v = d
      · simp only [sset, sput, hv, if_true, sget, hji, if_false]
        by_cases hi : i < j
        · simp only [hi, if_true]
          exact sget_below h.2 (by omega)
        · simp [hi]
      · simp [sset, sput, sget, hv, hji]
    · by_cases hk : k < j
      · by_cases hv : v = d
        · simp [sset, sput, hv, hj, hk]
        · have hki : ¬ k = i := fun e => hik e.symm
          by_cases hi : i < k
          · have h1 : ¬ j = i := by omega
            have h2 : i < j := by omega
            simp [sset, sput, sget, hv, hj, hk, hki, hi, h1, h2]
          · simp [sset, sput, sget, hv, hj, hk, hki, hi]
      · have := ih (some j) h.2
        simp only [sset] at this ⊢
        by_cases hji : j = i
        · subst hji
          simp [sput, sget, hj, hk]
        · by_cases hi : i < j
          · simp [sput, sget, hj, hk, hji, hi]
          · simp [sput, sget, hj, hk, hji, hi, this]

/-- Setting a key above the floor keeps the canonical form. -/
theorem swfFrom_sset {α : Type} [DecidableEq α] (d : α) (lo : Option Nat) (m : Sparse α) (k : Nat) (v : α)
    (h : swfFrom d lo m = true) (hk : ∀ l, lo = some l → l < k) : swfFrom d lo (sset d m k v) = true := by
  induction m generalizing lo with
  | nil =>
    by_cases hv : v = d
    · simp [sset, sput, hv, swfFrom]
    · cases lo with
      | none => simp [sset, sput, hv, swfFrom]
      | some l => simp [sset, sput, hv, swfFrom, hk l rfl]
  | cons e m ih =>
    obtain ⟨j, w⟩ := e
    have h0 := h
    simp only [swfFrom, Bool.and_eq_true] at h
    by_cases hj : j = k
    · subst hj
      by_cases hv : v = d
      · simp only [sset, sput, hv, if_true]
        cases lo with
        | none => exact swfFrom_none h.2
        | some l => exact swfFrom_mono h.2 (Nat.le_of_lt (hk l rfl))
      · have hv' : (v != d) = true := by simpa using hv
        simp only [sset, sput, hv, if_false, if_true, swfFrom, Bool.and_eq_true]
        exact ⟨⟨h.1.1, hv'⟩, h.2⟩
    · by_cases hkj : k < j
      · by_cases hv : v = d
        · simpa [sset, sput, hv, hj, hkj] using h0
        · have hv' : (v != d) = true := by simpa using hv
          simp only [sset, sput, hv, if_false, hj, hkj, if_true, swfFrom, Bool.and_eq_true, decide_eq_true_eq]
          refine ⟨⟨?_, hv'⟩, ⟨trivial, h.1.2⟩, h.2⟩
          cases lo with
          | none => rfl
          | some l => simpa using hk l rfl
      · have hjk : j < k := by omega
        have := ih (some j) h.2 (by intro l hl; cases hl; exact hjk)
        simp only [sset] at this ⊢
        simp only [sput, hj, hkj, if_false, swfFrom, Bool.and_eq_true]
        exact ⟨h.1, this⟩

/-- Dropping entries keeps the canonical form. -/
theorem swfFrom_filter {α : Type} [DecidableEq α] (d : α) (p : Nat × α → Bool) (lo : Option Nat) (m : Sparse α)
    (h : swfFrom d lo m = true) : swfFrom d lo (m.filter p) = true := by
  induction m generalizing lo with
  | nil => rfl
  | cons e m ih =>
    obtain ⟨j, w⟩ := e
    simp only [swfFrom, Bool.and_eq_true] at h
    by_cases hp : p (j, w) = true
    · simp only [List.filter_cons, hp, if_true, swfFrom, Bool.and_eq_true]
      exact ⟨h.1, ih (some j) h.2⟩
    · simp only [List.filter_cons, hp]
      cases lo with
      | none => exact swfFrom_none (ih (some j) h.2)
      | some l =>
        have hl : l < j := by simpa using h.1.1
        exact swfFrom_mono (ih (some j) h.2) (Nat.le_of_lt hl)

/-- Every listed key of canonical data lies above its floor. -/
theorem swfFrom_above {α : Type} [DecidableEq α] {d : α} {m : Sparse α} {lo : Nat} (h : swfFrom d (some lo) m = true)
    {e : Nat × α} (he : e ∈ m) : lo < e.1 := by
  induction m generalizing lo with
  | nil => cases he
  | cons x m ih =>
    simp only [swfFrom, Bool.and_eq_true, decide_eq_true_eq] at h
    rcases List.mem_cons.mp he with rfl | hm
    · exact h.1.1
    · exact Nat.lt_trans h.1.1 (ih h.2 hm)

/-- Raising the floor below every listed key. -/
theorem swfFrom_raise {α : Type} [DecidableEq α] {d : α} {m : Sparse α} {lo : Option Nat} (l : Nat)
    (h : swfFrom d lo m = true) (hm : ∀ e ∈ m, l < e.1) : swfFrom d (some l) m = true := by
  cases m with
  | nil => rfl
  | cons e m =>
    simp only [swfFrom, Bool.and_eq_true, decide_eq_true_eq] at h ⊢
    exact ⟨⟨hm e (List.mem_cons_self ..), h.1.2⟩, h.2⟩

/-- Canonical pieces that follow one another are canonical together. -/
theorem swfFrom_append {α : Type} [DecidableEq α] (d : α) (a b : Sparse α) (lo : Option Nat)
    (ha : swfFrom d lo a = true) (hb : swfFrom d lo b = true) (hab : ∀ x ∈ a, ∀ y ∈ b, x.1 < y.1) :
    swfFrom d lo (a ++ b) = true := by
  induction a generalizing lo with
  | nil => exact hb
  | cons x a ih =>
    simp only [swfFrom, Bool.and_eq_true] at ha
    simp only [List.cons_append, swfFrom, Bool.and_eq_true]
    refine ⟨ha.1, ih (some x.1) ha.2 ?_ fun y hy z hz => hab y (List.mem_cons_of_mem _ hy) z hz⟩
    exact swfFrom_raise x.1 hb fun y hy => hab x (List.mem_cons_self ..) y hy

/-- Putting the part of one canonical map between two keys in place of another's keeps the canonical form. -/
theorem swf_keyRange {α : Type} [DecidableEq α] (d : α) (m x : Sparse α) (lo hi : Nat) (hlh : lo ≤ hi)
    (hm : swf d m = true) (hx : swf d x = true) : swf d (keyRange m lo hi x) = true := by
  unfold swf keyRange at *
  refine swfFrom_append d _ _ none (swfFrom_append d _ _ none (swfFrom_filter d _ none m hm)
    (swfFrom_filter d _ none x hx) ?_) (swfFrom_filter d _ none m hm) ?_
  · intro a ha b hb
    simp only [List.mem_filter, Bool.and_eq_true, decide_eq_true_eq] at ha hb
    omega
  · intro a ha b hb
    simp only [List.mem_append, List.mem_filter, Bool.and_eq_true, decide_eq_true_eq] at ha hb
    omega

/-! ## Memory -/

theorem Memory.get_set_same (m : Memory) (p : Nat) (b : Byte) (h : m.wf = true) : (m.set p b).get p = b :=
  sget_sset_same 0 none m p b h

theorem Memory.get_set_other (m : Memory) (p q : Nat) (b : Byte) (hq : q ≠ p) (h : m.wf = true) :
    (m.set p b).get q = m.get q :=
  sget_sset_other 0 m p q b hq none h

theorem Memory.wf_set (m : Memory) (p : Nat) (b : Byte) (h : m.wf = true) : (m.set p b).wf = true :=
  swfFrom_sset 0 none m p b h (by intro l hl; cases hl)

theorem Memory.wf_setBytes (bs : List Byte) (m : Memory) (p : Nat) (h : m.wf = true) : (m.setBytes p bs).wf = true := by
  induction bs generalizing m p with
  | nil => exact h
  | cons b bs ih => exact ih (m.set p b) (p + 1) (Memory.wf_set m p b h)

theorem Memory.wf_filter (f : Host.Cell → Bool) (m : Memory) (h : m.wf = true) : Memory.wf (m.filter f) = true :=
  swfFrom_filter 0 f none m h

/-- The byte at a place after bytes were written there: the byte written, or the one that was there. -/
theorem Memory.get_setBytes (bs : List Byte) (m : Memory) (p q : Nat) (h : m.wf = true) :
    (m.setBytes p bs).get q = if p ≤ q ∧ q < p + bs.length then (bs[q - p]?).getD 0 else m.get q := by
  induction bs generalizing m p with
  | nil =>
    simp [Memory.setBytes]
  | cons b bs ih =>
    rw [Memory.setBytes, ih (m.set p b) (p + 1) (Memory.wf_set m p b h)]
    by_cases hq : q = p
    · subst hq
      have h1 : ¬ (q + 1 ≤ q ∧ q < q + 1 + bs.length) := by omega
      rw [if_neg h1, Memory.get_set_same m q b h]
      simp
    · rw [Memory.get_set_other m p q b hq h]
      by_cases hin : p + 1 ≤ q ∧ q < p + 1 + bs.length
      · have h2 : p ≤ q ∧ q < p + (b :: bs).length := by simp only [List.length_cons]; omega
        rw [if_pos hin, if_pos h2]
        have : q - p = (q - (p + 1)) + 1 := by omega
        rw [this]; simp
      · have h2 : ¬ (p ≤ q ∧ q < p + (b :: bs).length) := by simp only [List.length_cons]; omega
        rw [if_neg hin, if_neg h2]

/-! ## Reading several bytes -/

/-- Places below a place may be left out when reading from it on. -/
theorem sget_dropWhile {α : Type} (d : α) (m : Sparse α) (p k : Nat) (h : p ≤ k) :
    sget d (m.dropWhile (fun c => c.1 < p)) k = sget d m k := by
  induction m with
  | nil => rfl
  | cons e m ih =>
    by_cases he : e.1 < p
    · have h1 : ¬ e.1 = k := by omega
      have h2 : ¬ k < e.1 := by omega
      simp [he, ih, sget, h1, h2]
    · simp [he]

/-- Reading several bytes reads each of them. -/
theorem State.bytesAt_eq (s : State) (key : Option (BitVec 512)) (p n : Nat) :
    s.bytesAt key p n = (List.range n).map (fun i => s.byteAt key (p + i)) := by
  simp only [State.bytesAt, State.byteAt, Memory.get]
  refine List.map_congr_left fun i _ => ?_
  rw [sget_dropWhile 0 s.mem p (p + i) (by omega)]

@[simp] theorem State.bytesAt_length (s : State) (key : Option (BitVec 512)) (p n : Nat) :
    (s.bytesAt key p n).length = n := by simp [State.bytesAt]

theorem State.reset_mem_wf : Memory.wf State.reset.mem = true := rfl

end Sys2Proof.Machine
end

