-- ==== Sys2Proof/Laws/Invariant.lean ====
section
/-! SUPPORT. Invariant.lean: every operation that writes memory, or the keys lines stand under, keeps their canonical
form; every other operation leaves both fields, by the lemmas of Laws/State.lean. -/

namespace Sys2Proof.Machine

/-- The invariant reads two fields only. -/
theorem State.Inv.congr {s t : State} (h : s.Inv) (hm : t.mem = s.mem) (hk : t.lineKey = s.lineKey) : t.Inv := by
  simpa only [State.Inv, hm, hk] using h

theorem rekey_inv {s : State} (h : s.Inv) (key : Option (BitVec 512)) (p : Nat) : (s.rekey key p).Inv := by
  unfold State.rekey
  dsimp only
  split
  · refine ⟨?_, ?_⟩
    · generalize s.bytesAt key (128 * (p / 128)) 128 = bs
      exact Memory.wf_setBytes bs s.mem _ h.1
    · exact swfFrom_sset none none s.lineKey _ _ h.2 (by simp)
  · exact h

theorem setBytes_inv {s : State} (h : s.Inv) (p : Nat) (bs : List Byte) :
    State.Inv { s with mem := Memory.setBytes s.mem p bs } := ⟨Memory.wf_setBytes _ _ _ h.1, h.2⟩

/-- Making room in L2 changes no byte and no key. -/
theorem fitL2_inv {s : State} (h : s.Inv) (t : Nat) : (s.fitL2 t).Inv := by
  unfold State.fitL2
  split
  · exact h
  · split
    · exact h.congr rfl rfl
    · split
      · exact h.congr rfl rfl
      · exact h

theorem record_inv {s : State} (h : s.Inv) (e : Event) : (s.record e).Inv := h.congr rfl rfl

theorem putAt_inv {s : State} (h : s.Inv) (key : Option (BitVec 512)) (p : Nat) (bs : List Byte) :
    (s.putAt key p bs).Inv := by
  have hr := setBytes_inv (rekey_inv h key p) p bs
  unfold State.putAt
  dsimp only
  split
  · apply fitL2_inv
    exact ⟨hr.1, hr.2⟩
  · exact hr

theorem writeAt_inv {s : State} (h : s.Inv) (key : Option (BitVec 512)) (p : Nat) (bs : List Byte) :
    (s.writeAt key p bs).Inv := record_inv (putAt_inv h key p bs) _

theorem filterMem_inv {s : State} (h : s.Inv) (f : Host.Cell → Bool) :
    State.Inv { s with mem := s.mem.filter f } := ⟨Memory.wf_filter f s.mem h.1, h.2⟩

theorem wipe_inv {s : State} (h : s.Inv) (lo n : Nat) : (s.wipe lo n).Inv :=
  (filterMem_inv h (fun c => !(lo ≤ c.1 && c.1 < lo + n))).congr rfl rfl

theorem putRow_inv {s : State} (h : s.Inv) (k n sub row : Nat) (v : Row) : (s.putRow k n sub row v).Inv :=
  setBytes_inv h _ _

/-- A change made for each element of a list keeps the form if each one does. -/
theorem foldl_inv {α : Type} (f : State → α → State) (hf : ∀ t a, t.Inv → (f t a).Inv) (l : List α) (s : State)
    (h : s.Inv) : (l.foldl f s).Inv := by
  induction l generalizing s with
  | nil => exact h
  | cons a l ih => exact ih _ (hf s a h)

theorem putBead_inv {s : State} (h : s.Inv) (p : Word) (rod : Nat) (v : Int) : (s.putBead p rod v).Inv := by
  unfold State.putBead
  refine foldl_inv _ (fun t i ht => ?_) _ _ h
  exact ⟨Memory.wf_set _ _ _ ht.1, ht.2⟩

theorem clearSub_inv {s : State} (h : s.Inv) (k n sub : Nat) : (s.clearSub k n sub).Inv :=
  ⟨swf_keyRange 0 s.mem [] _ _ (Nat.le_add_right ..) h.1 rfl,
    swf_keyRange none s.lineKey [] _ _ (Nat.le_add_right ..) h.2 rfl⟩

/-- A strand's change, a retirement and a stop leave memory as it was. -/
theorem mapSelf_inv {s : State} (h : s.Inv) (f : Strand → Strand) : (s.mapSelf f).Inv := h.congr rfl rfl
theorem advance_inv {s : State} (h : s.Inv) (n : Nat) : (s.advance n).Inv := h.congr rfl rfl
theorem issue_inv {s : State} (h : s.Inv) (op : ReqOp) (k : Kind) (sp : Space) (a : Word) (p : Option Nat)
    (r : Option (Nat × Nat)) (o : BitVec 8) : (s.issue op k sp a p r o).Inv := h.congr rfl rfl
theorem produce_inv {s : State} (h : s.Inv) (d : Dest) (x : List (Option Byte)) : (s.produce d x).1.Inv :=
  h.congr rfl rfl

end Sys2Proof.Machine
end

