-- ==== Sys2Proof/Laws/PerInstr.lean ====
section
/-! SUPPORT. PerInstr.lean: the family of statements made per instruction. Shape: a step of another agent has no encoding
(02 R41), so no word decodes to one. -/

namespace Sys2Proof.Laws.Shape

/-- A step of another agent than a strand is not well formed as an instruction word. -/
def Statement (i : Instr) : Prop := i.isEvent = true → wellFormed i = false

theorem prefixedPair (px : Prefix) (inner : Instr) : Statement (.prefixedPair px inner) := nofun
theorem cMv (f : CR) : Statement (.cMv f) := nofun
theorem cAdd (f : CR) : Statement (.cAdd f) := nofun
theorem cSub (f : CR) : Statement (.cSub f) := nofun
theorem cAnd (f : CR) : Statement (.cAnd f) := nofun
theorem cOr (f : CR) : Statement (.cOr f) := nofun
theorem cXor (f : CR) : Statement (.cXor f) := nofun
theorem cLds (f : CR) : Statement (.cLds f) := nofun
theorem cSts (f : CR) : Statement (.cSts f) := nofun
theorem cAddi (f : CI) : Statement (.cAddi f) := nofun
theorem cLi (f : CI) : Statement (.cLi f) := nofun
theorem cShli (f : CI) : Statement (.cShli f) := nofun
theorem cShri (f : CI) : Statement (.cShri f) := nofun
theorem cBeqz (f : CB) : Statement (.cBeqz f) := nofun
theorem cBnez (f : CB) : Statement (.cBnez f) := nofun
theorem cBrb (f : CB) : Statement (.cBrb f) := nofun
theorem cJmp (f : CJ) : Statement (.cJmp f) := nofun
theorem cJr (f : CR) : Statement (.cJr f) := nofun
theorem cNop (f : CR) : Statement (.cNop f) := nofun
theorem cYield (f : CR) : Statement (.cYield f) := nofun
theorem cLidx (f : CR) : Statement (.cLidx f) := nofun
theorem add (f : FA) : Statement (.add f) := nofun
theorem sub (f : FA) : Statement (.sub f) := nofun
theorem addi (f : FI) : Statement (.addi f) := nofun
theorem andR (f : FA) : Statement (.andR f) := nofun
theorem orR (f : FA) : Statement (.orR f) := nofun
theorem xorR (f : FA) : Statement (.xorR f) := nofun
theorem logi (f : FI) : Statement (.logi f) := nofun
theorem shl (f : FA) : Statement (.shl f) := nofun
theorem shr (f : FA) : Statement (.shr f) := nofun
theorem sar (f : FA) : Statement (.sar f) := nofun
theorem shi (f : FI) : Statement (.shi f) := nofun
theorem mul (f : FA) : Statement (.mul f) := nofun
theorem mulh (f : FA) : Statement (.mulh f) := nofun
theorem div (f : FA) : Statement (.div f) := nofun
theorem rem (f : FA) : Statement (.rem f) := nofun
theorem minmax (f : FA) : Statement (.minmax f) := nofun
theorem cmp (f : FA) : Statement (.cmp f) := nofun
theorem sel (f : FA) : Statement (.sel f) := nofun
theorem lui (f : FU) : Statement (.lui f) := nofun
theorem addpc (f : FU) : Statement (.addpc f) := nofun
theorem fops (f : FA) : Statement (.fops f) := nofun
theorem ffma (f : FA) : Statement (.ffma f) := nofun
theorem fcmp (f : FA) : Statement (.fcmp f) := nofun
theorem fcvt (f : FA) : Statement (.fcvt f) := nofun
theorem br (f : FB) : Statement (.br f) := nofun
theorem brb (f : FB) : Statement (.brb f) := nofun
theorem jmp (f : FJ) : Statement (.jmp f) := nofun
theorem jal (f : FJ) : Statement (.jal f) := nofun
theorem jr (f : FA) : Statement (.jr f) := nofun
theorem loopR (f : FL) : Statement (.loopR f) := nofun
theorem loopi (f : FL) : Statement (.loopi f) := nofun
theorem lexit (f : FA) : Statement (.lexit f) := nofun
theorem lidx (f : FA) : Statement (.lidx f) := nofun
theorem fe (f : FA) : Statement (.fe f) := nofun
theorem getc (f : FU) : Statement (.getc f) := nofun
theorem setc (f : FU) : Statement (.setc f) := nofun
theorem trap (f : FU) : Statement (.trap f) := nofun
theorem tret (f : FA) : Statement (.tret f) := nofun
theorem sys (f : FU) : Statement (.sys f) := nofun
theorem brk (f : FU) : Statement (.brk f) := nofun
theorem ldS (f : FI) : Statement (.ldS f) := nofun
theorem stS (f : FI) : Statement (.stS f) := nofun
theorem ldC (f : FI) : Statement (.ldC f) := nofun
theorem stC (f : FI) : Statement (.stC f) := nofun
theorem ldT (f : FI) : Statement (.ldT f) := nofun
theorem stT (f : FI) : Statement (.stT f) := nofun
theorem ldG (f : FI) : Statement (.ldG f) := nofun
theorem stG (f : FI) : Statement (.stG f) := nofun
theorem ldq (f : FI) : Statement (.ldq f) := nofun
theorem stq (f : FI) : Statement (.stq f) := nofun
theorem ldfe (f : FI) : Statement (.ldfe f) := nofun
theorem stfe (f : FI) : Statement (.stfe f) := nofun
theorem fefill (f : FA) : Statement (.fefill f) := nofun
theorem ldfeC (f : FI) : Statement (.ldfeC f) := nofun
theorem stfeC (f : FI) : Statement (.stfeC f) := nofun
theorem fence (f : FA) : Statement (.fence f) := nofun
theorem xch (f : FA) : Statement (.xch f) := nofun
theorem rgclaim (f : FA) : Statement (.rgclaim f) := nofun
theorem rgpost (f : FA) : Statement (.rgpost f) := nofun
theorem rgtake (f : FA) : Statement (.rgtake f) := nofun
theorem rgfree (f : FA) : Statement (.rgfree f) := nofun
theorem rginit (f : FA) : Statement (.rginit f) := nofun
theorem pref (f : FI) : Statement (.pref f) := nofun
theorem tsplit (f : FA) : Statement (.tsplit f) := nofun
theorem casS (f : FA) : Statement (.casS f) := nofun
theorem amoS (f : FA) : Statement (.amoS f) := nofun
theorem leaseq (f : FA) : Statement (.leaseq f) := nofun
theorem wfull (f : FA) : Statement (.wfull f) := nofun
theorem cpub (f : FA) : Statement (.cpub f) := nofun
theorem cpubq (f : FA) : Statement (.cpubq f) := nofun
theorem ifence (f : FA) : Statement (.ifence f) := nofun
theorem ipatch (f : FA) : Statement (.ipatch f) := nofun
theorem spawn (f : FA) : Statement (.spawn f) := nofun
theorem spawnw (f : FA) : Statement (.spawnw f) := nofun
theorem yield (f : FA) : Statement (.yield f) := nofun
theorem retire (f : FA) : Statement (.retire f) := nofun
theorem cbar (f : FA) : Statement (.cbar f) := nofun
theorem cbarq (f : FA) : Statement (.cbarq f) := nofun
theorem wseq (f : FA) : Statement (.wseq f) := nofun
theorem abort (f : FU) : Statement (.abort f) := nofun
theorem vlong (f : FA) : Statement (.vlong f) := nofun
theorem vshort (f : FA) : Statement (.vshort f) := nofun
theorem setvl (f : FA) : Statement (.setvl f) := nofun
theorem mset (f : FA) : Statement (.mset f) := nofun
theorem mpop (f : FA) : Statement (.mpop f) := nofun
theorem vxch (f : FA) : Statement (.vxch f) := nofun
theorem vidx (f : FA) : Statement (.vidx f) := nofun
theorem vld (f : FA) : Statement (.vld f) := nofun
theorem vst (f : FA) : Statement (.vst f) := nofun
theorem vlds (f : FA) : Statement (.vlds f) := nofun
theorem vsts (f : FA) : Statement (.vsts f) := nofun
theorem vldx (f : FA) : Statement (.vldx f) := nofun
theorem vstx (f : FA) : Statement (.vstx f) := nofun
theorem vadd (f : FA) : Statement (.vadd f) := nofun
theorem vsub (f : FA) : Statement (.vsub f) := nofun
theorem vmul (f : FA) : Statement (.vmul f) := nofun
theorem vmulhI (f : FA) : Statement (.vmulhI f) := nofun
theorem vmulhN (f : FA) : Statement (.vmulhN f) := nofun
theorem vfma (f : FA) : Statement (.vfma f) := nofun
theorem vdiv (f : FA) : Statement (.vdiv f) := nofun
theorem vdivN (f : FA) : Statement (.vdivN f) := nofun
theorem vmin (f : FA) : Statement (.vmin f) := nofun
theorem vminN (f : FA) : Statement (.vminN f) := nofun
theorem vmax (f : FA) : Statement (.vmax f) := nofun
theorem vmaxN (f : FA) : Statement (.vmaxN f) := nofun
theorem vand (f : FA) : Statement (.vand f) := nofun
theorem vor (f : FA) : Statement (.vor f) := nofun
theorem vxor (f : FA) : Statement (.vxor f) := nofun
theorem vandn (f : FA) : Statement (.vandn f) := nofun
theorem vorn (f : FA) : Statement (.vorn f) := nofun
theorem vxnor (f : FA) : Statement (.vxnor f) := nofun
theorem vshl (f : FA) : Statement (.vshl f) := nofun
theorem vshr (f : FA) : Statement (.vshr f) := nofun
theorem vsar (f : FA) : Statement (.vsar f) := nofun
theorem vcmp (f : FA) : Statement (.vcmp f) := nofun
theorem vsel (f : FA) : Statement (.vsel f) := nofun
theorem vmov (f : FA) : Statement (.vmov f) := nofun
theorem vabs (f : FA) : Statement (.vabs f) := nofun
theorem vneg (f : FA) : Statement (.vneg f) := nofun
theorem vexp2 (f : FA) : Statement (.vexp2 f) := nofun
theorem vlog2 (f : FA) : Statement (.vlog2 f) := nofun
theorem vrecip (f : FA) : Statement (.vrecip f) := nofun
theorem vsqrt (f : FA) : Statement (.vsqrt f) := nofun
theorem vrsqrt (f : FA) : Statement (.vrsqrt f) := nofun
theorem vact (f : FA) : Statement (.vact f) := nofun
theorem vperm (f : FA) : Statement (.vperm f) := nofun
theorem vslide (f : FA) : Statement (.vslide f) := nofun
theorem vcompress (f : FA) : Statement (.vcompress f) := nofun
theorem vexpand (f : FA) : Statement (.vexpand f) := nofun
theorem vredsum (f : FA) : Statement (.vredsum f) := nofun
theorem vredsumO (f : FA) : Statement (.vredsumO f) := nofun
theorem vredmm (f : FA) : Statement (.vredmm f) := nofun
theorem vscan (f : FA) : Statement (.vscan f) := nofun
theorem vsortkv (f : FA) : Statement (.vsortkv f) := nofun
theorem vsegred (f : FA) : Statement (.vsegred f) := nofun
theorem amoG (f : FA) : Statement (.amoG f) := nofun
theorem casG (f : FA) : Statement (.casG f) := nofun
theorem redG (f : FA) : Statement (.redG f) := nofun
theorem fredG (f : FA) : Statement (.fredG f) := nofun
theorem famoG (f : FA) : Statement (.famoG f) := nofun
theorem vredG (f : FA) : Statement (.vredG f) := nofun
theorem vfredG (f : FA) : Statement (.vfredG f) := nofun
theorem rfence (f : FA) : Statement (.rfence f) := nofun
theorem rgrain (f : FA) : Statement (.rgrain f) := nofun
theorem rdrop (f : FA) : Statement (.rdrop f) := nofun
theorem gflush (f : FA) : Statement (.gflush f) := nofun
theorem gquery (f : FA) : Statement (.gquery f) := nofun
theorem seed (f : FA) : Statement (.seed f) := nofun
theorem seedq (f : FA) : Statement (.seedq f) := nofun
theorem srseed (f : FA) : Statement (.srseed f) := nofun
theorem rtag (f : FA) : Statement (.rtag f) := nofun
theorem cvtn (f : FA) : Statement (.cvtn f) := nofun
theorem cvtnF (f : FA) : Statement (.cvtnF f) := nofun
theorem cvtw (f : FA) : Statement (.cvtw f) := nofun
theorem cvtwF (f : FA) : Statement (.cvtwF f) := nofun
theorem qscale (f : FA) : Statement (.qscale f) := nofun
theorem rotv (f : FA) : Statement (.rotv f) := nofun
theorem unrotv (f : FA) : Statement (.unrotv f) := nofun
theorem cvti (f : FA) : Statement (.cvti f) := nofun
theorem mzero (f : FA) : Statement (.mzero f) := nofun
theorem mld (f : FA) : Statement (.mld f) := nofun
theorem mst (f : FA) : Statement (.mst f) := nofun
theorem mbar (f : FA) : Statement (.mbar f) := nofun
theorem mwait (f : FA) : Statement (.mwait f) := nofun
theorem mtr (f : FA) : Statement (.mtr f) := nofun
theorem mrow (f : FA) : Statement (.mrow f) := nofun
theorem mramp (f : FA) : Statement (.mramp f) := nofun
theorem mtag (f : FA) : Statement (.mtag f) := nofun
theorem mscl (f : FA) : Statement (.mscl f) := nofun
theorem mma (f : FA) : Statement (.mma f) := nofun
theorem mmaC (f : FA) : Statement (.mmaC f) := nofun
theorem mmas (f : FA) : Statement (.mmas f) := nofun
theorem mmax (f : FA) : Statement (.mmax f) := nofun
theorem macc (f : FA) : Statement (.macc f) := nofun
theorem mcvt (f : FA) : Statement (.mcvt f) := nofun
theorem crn (f : FA) : Statement (.crn f) := nofun
theorem crnF (f : FA) : Statement (.crnF f) := nofun
theorem crnT (f : FA) : Statement (.crnT f) := nofun
theorem crnR (f : FA) : Statement (.crnR f) := nofun
theorem crnq (f : FA) : Statement (.crnq f) := nofun
theorem crnw (f : FA) : Statement (.crnw f) := nofun
theorem crnX (f : FA) : Statement (.crnX f) := nofun
theorem crnC (f : FA) : Statement (.crnC f) := nofun
theorem ldB (f : FA) : Statement (.ldB f) := nofun
theorem stB (f : FA) : Statement (.stB f) := nofun
theorem bcall (f : FA) : Statement (.bcall f) := nofun
theorem bfence (f : FA) : Statement (.bfence f) := nofun
theorem block (f : FA) : Statement (.block f) := nofun
theorem bunlk (f : FA) : Statement (.bunlk f) := nofun
theorem bseal (f : FA) : Statement (.bseal f) := nofun
theorem bstat (f : FA) : Statement (.bstat f) := nofun
theorem bcsl (f : FA) : Statement (.bcsl f) := nofun
theorem bsave (f : FA) : Statement (.bsave f) := nofun
theorem brest (f : FA) : Statement (.brest f) := nofun
theorem bwdog (f : FA) : Statement (.bwdog f) := nofun
theorem bmode (f : FA) : Statement (.bmode f) := nofun
theorem bpart (f : FA) : Statement (.bpart f) := nofun
theorem bscrub (f : FA) : Statement (.bscrub f) := nofun
theorem moduleReset : Statement .moduleReset := fun _ => rfl
theorem resetRelease : Statement .resetRelease := fun _ => rfl
theorem towerStart : Statement .towerStart := fun _ => rfl
theorem bootLaunchStart : Statement .bootLaunchStart := fun _ => rfl
theorem doeAttestRequest : Statement .doeAttestRequest := fun _ => rfl
theorem doeCertChain : Statement .doeCertChain := fun _ => rfl
theorem doeImageChunk : Statement .doeImageChunk := fun _ => rfl
theorem doeImageDone : Statement .doeImageDone := fun _ => rfl
theorem readyWrite : Statement .readyWrite := fun _ => rfl
theorem attestStart : Statement .attestStart := fun _ => rfl
theorem attestReportDone : Statement .attestReportDone := fun _ => rfl
theorem fusesvnWrite : Statement .fusesvnWrite := fun _ => rfl
theorem keyLoad : Statement .keyLoad := fun _ => rfl
theorem shootDown : Statement .shootDown := fun _ => rfl
theorem shootDownDone : Statement .shootDownDone := fun _ => rfl
theorem migration : Statement .migration := fun _ => rfl
theorem dutyWrite : Statement .dutyWrite := fun _ => rfl
theorem contextEnable : Statement .contextEnable := fun _ => rfl
theorem launchDoorbell : Statement .launchDoorbell := fun _ => rfl
theorem crheadWrite : Statement .crheadWrite := fun _ => rfl
theorem completionRingRetarget : Statement .completionRingRetarget := fun _ => rfl
theorem frheadWrite : Statement .frheadWrite := fun _ => rfl
theorem faultAnswer : Statement .faultAnswer := fun _ => rfl
theorem cslLoadCommand : Statement .cslLoadCommand := fun _ => rfl
theorem registerWrite : Statement .registerWrite := fun _ => rfl
theorem launchFetch : Statement .launchFetch := fun _ => rfl
theorem manifestAdmit : Statement .manifestAdmit := fun _ => rfl
theorem manifestReady : Statement .manifestReady := fun _ => rfl
theorem iterationPlace : Statement .iterationPlace := fun _ => rfl
theorem lighterFetchBack : Statement .lighterFetchBack := fun _ => rfl
theorem completionRecordWrite : Statement .completionRecordWrite := fun _ => rfl
theorem agingTick : Statement .agingTick := fun _ => rfl
theorem preemptRequest : Statement .preemptRequest := fun _ => rfl
theorem strandStop : Statement .strandStop := fun _ => rfl
theorem frameWrite : Statement .frameWrite := fun _ => rfl
theorem crewSuspend : Statement .crewSuspend := fun _ => rfl
theorem crewResume : Statement .crewResume := fun _ => rfl
theorem launchEnd : Statement .launchEnd := fun _ => rfl
theorem preemptLimit : Statement .preemptLimit := nofun
theorem fullEmptyWake : Statement .fullEmptyWake := fun _ => rfl
theorem barrierWake : Statement .barrierWake := fun _ => rfl
theorem vectorCapacityGrant : Statement .vectorCapacityGrant := fun _ => rfl
theorem tideTick : Statement .tideTick := fun _ => rfl
theorem leaseExpiry : Statement .leaseExpiry := fun _ => rfl
theorem homeReadRequest : Statement .homeReadRequest := fun _ => rfl
theorem homeWeakStore : Statement .homeWeakStore := fun _ => rfl
theorem homeStrongWrite : Statement .homeStrongWrite := fun _ => rfl
theorem homeAtomic : Statement .homeAtomic := fun _ => rfl
theorem lineFillDone : Statement .lineFillDone := fun _ => rfl
theorem pageWalk : Statement .pageWalk := fun _ => rfl
theorem hwFaultResolve : Statement .hwFaultResolve := fun _ => rfl
theorem faultRecordPost : Statement .faultRecordPost := fun _ => rfl
theorem hostMemRead : Statement .hostMemRead := fun _ => rfl
theorem hostMemWrite : Statement .hostMemWrite := fun _ => rfl
theorem hostSnoop : Statement .hostSnoop := fun _ => rfl
theorem cxlPortTrain : Statement .cxlPortTrain := fun _ => rfl
theorem powerCapExceed : Statement .powerCapExceed := fun _ => rfl
theorem thermalWarning : Statement .thermalWarning := fun _ => rfl
theorem laneDieTrip : Statement .laneDieTrip := fun _ => rfl
theorem laneDieRestart : Statement .laneDieRestart := fun _ => rfl
theorem rcDieTrip : Statement .rcDieTrip := fun _ => rfl
theorem baseDieTrip : Statement .baseDieTrip := fun _ => rfl
theorem dramLayerTrip : Statement .dramLayerTrip := fun _ => rfl
theorem dramLayerReturn : Statement .dramLayerReturn := fun _ => rfl
theorem outerMemoryTrip : Statement .outerMemoryTrip := fun _ => rfl
theorem ioChipletTrip : Statement .ioChipletTrip := fun _ => rfl
theorem dramUe : Statement .dramUe := fun _ => rfl
theorem sramUe : Statement .sramUe := fun _ => rfl
theorem cacheParityError : Statement .cacheParityError := fun _ => rfl
theorem linkFail : Statement .linkFail := fun _ => rfl
theorem patrolScrub : Statement .patrolScrub := fun _ => rfl
theorem matrixGrant : Statement .matrixGrant := fun _ => rfl
theorem matrixReleaseRequest : Statement .matrixReleaseRequest := fun _ => rfl
theorem matrixRelease : Statement .matrixRelease := fun _ => rfl
theorem matrixProductExec : Statement .matrixProductExec := fun _ => rfl
theorem mzeroExec : Statement .mzeroExec := fun _ => rfl
theorem mldExec : Statement .mldExec := fun _ => rfl
theorem mstExec : Statement .mstExec := fun _ => rfl
theorem mbarArrive : Statement .mbarArrive := fun _ => rfl
theorem mtrExec : Statement .mtrExec := fun _ => rfl
theorem mrowExec : Statement .mrowExec := fun _ => rfl
theorem msclExec : Statement .msclExec := fun _ => rfl
theorem maccExec : Statement .maccExec := fun _ => rfl
theorem mcvtExec : Statement .mcvtExec := fun _ => rfl
theorem copyExec : Statement .copyExec := fun _ => rfl
theorem fillExec : Statement .fillExec := fun _ => rfl
theorem cornerTurnExec : Statement .cornerTurnExec := fun _ => rfl
theorem ringCopyExec : Statement .ringCopyExec := fun _ => rfl
theorem craneWaitDone : Statement .craneWaitDone := fun _ => rfl
theorem publishCommandExec : Statement .publishCommandExec := fun _ => rfl
theorem beadEntryRun : Statement .beadEntryRun := fun _ => rfl
theorem actWord : Statement .actWord := fun _ => rfl
theorem aapWord : Statement .aapWord := fun _ => rfl
theorem traWord : Statement .traWord := fun _ => rfl
theorem cslWord : Statement .cslWord := fun _ => rfl
theorem csrWord : Statement .csrWord := fun _ => rfl
theorem repWord : Statement .repWord := fun _ => rfl
theorem brfWord : Statement .brfWord := fun _ => rfl
theorem waitWord : Statement .waitWord := fun _ => rfl
theorem endWord : Statement .endWord := fun _ => rfl
theorem beadRefresh : Statement .beadRefresh := fun _ => rfl
theorem beadWatchdogExpire : Statement .beadWatchdogExpire := fun _ => rfl
theorem bankPowerDown : Statement .bankPowerDown := fun _ => rfl
theorem blockExec : Statement .blockExec := fun _ => rfl
theorem bunlkExec : Statement .bunlkExec := fun _ => rfl
theorem bsealExec : Statement .bsealExec := fun _ => rfl
theorem bcslExec : Statement .bcslExec := fun _ => rfl
theorem bmodeExec : Statement .bmodeExec := fun _ => rfl
theorem bpartExec : Statement .bpartExec := fun _ => rfl
theorem bscrubExec : Statement .bscrubExec := fun _ => rfl
theorem paddingHalf : Statement .paddingHalf := nofun
theorem illOpc : Statement .illOpc := nofun
theorem dataReturn : Statement .dataReturn := fun _ => rfl
theorem logheadWrite : Statement .logheadWrite := fun _ => rfl
theorem outerMemoryReturn : Statement .outerMemoryReturn := fun _ => rfl

end Sys2Proof.Laws.Shape
end

