-- ==== Sys2Proof/Tests/Slice0.lean ====
section
/-! SUPPORT. Slice0.lean: the model's own tests. Decoding: words of the spec's encoding tables, written out bit by bit.
WellFormed: for each check a term that it refuses. Meets: for each statement a state and operands that meet its
hypotheses, clause by clause. Runs: one step on a small state, its expected fields worked out from the rule it names. -/

namespace Sys2Proof.Tests

set_option Elab.async false

open Sys2Proof Sys2Proof.Machine

/-! ## Small states -/

/-- Registers given by number, the others zero. -/
def regs (l : List (Nat × Word)) : Vector Word 32 :=
  l.foldl (fun v x => v.setIfInBounds x.1 x.2) (Vector.replicate 32 0)
/-- A supervisor strand of crew 1. -/
def strand (l : List (Nat × Word)) : Strand := { crew := 1, pc := 0x100, priv := true, g := regs l }
/-- A placed crew of one strand on core 0. -/
def crew1 : Crew := { id := 1, isLocal := true, towers := 1, cores := [0] }
/-- A state whose turn is a strand's. -/
def of (st : Strand) : State := { State.reset with self := st, crews := [crew1] }
/-- Registers g1, g2 and g3 hold 6, 7 and 9. -/
def three : State := of (strand [(1, 6), (2, 7), (3, 9)])
/-- Format A on g1 and g2 into g3. -/
def fa (fn : BitVec 3) : FA := { fn, a := 1, b := 2, d := 3 }

/-- A computation answers a value. -/
def okIs {α : Type} [DecidableEq α] (x : Except Stop α) (a : α) : Bool :=
  match x with
  | .ok b => b == a
  | .error _ => false
/-- A computation ends in a fault with a code. -/
def failsWith {α : Type} (x : Except Stop α) (code : BitVec 8) : Bool :=
  match x with
  | .error (.fault c _) => c == code
  | _ => false
/-- The code and the address a computation ends the launch with. -/
def endsWith {α : Type} (x : Except Stop α) : Option (BitVec 8 × Word) :=
  match x with
  | .error (.endLaunch c a 0) => some (c, a)
  | _ => none
/-- What a computation answers, if it does. -/
def gives {ε α : Type} (x : Except ε α) : Option α :=
  match x with
  | .ok a => some a
  | .error _ => none
theorem ok_of {α : Type} [DecidableEq α] {x : Except Stop α} {a : α} (h : okIs x a = true) : x = .ok a := by
  cases x <;> simp_all [okIs]

/-! ## Meets: the sequencer -/

theorem test_meets_IntegerResults : ∀ fn : BitVec 3,
    three.source (fa fn).a 6 ∧ three.source (fa fn).b 7 ∧ three.source (fa fn).d 9 ∧ three.settled (.g (fa fn).d.toNat) ∧
      (fa fn).fn = fn := by decide

theorem test_meets_IntegerResults_immediate : ∀ k : BitVec 2,
    let i : FI := { imm := k ++ 63#8, a := 1, d := 3 }
    three.source i.a 6 ∧ three.settled (.g i.d.toNat) ∧ i.imm.extractLsb' 8 2 = k := by decide

theorem test_meets_IntegerResults_refused :
    ((0x040#10).extractLsb' 6 2 ≠ 0) ∧ 3 ≤ (fa 3).fn.toNat ∧ 4 ≤ (fa 4).fn.toNat := by decide

/-- The dividend in g1 and the divisor in g2. -/
def quotient (a b : Word) : State := of (strand [(1, a), (2, b)])

theorem test_meets_DivisionResults : ∀ fn : BitVec 1, let f := fa (fn.setWidth 3)
    (let s := quotient 0xFFFFFFFFFFFFFFF9 2
     s.source f.a 0xFFFFFFFFFFFFFFF9 ∧ s.source f.b 2 ∧ s.settled (.g f.d.toNat) ∧ (2 : Word) ≠ 0) ∧
    (let s := quotient 5 0
     s.source f.a 5 ∧ s.source f.b 0 ∧ s.settled (.g f.d.toNat) ∧ f.fn.toNat ≤ 1) ∧
    (let s := quotient 0x8000000000000000 0xFFFFFFFFFFFFFFFF
     s.source f.a 0x8000000000000000 ∧ s.source f.b 0xFFFFFFFFFFFFFFFF ∧ s.settled (.g f.d.toNat)) := by decide

theorem test_meets_ScalarFloatResults : ∀ fn : BitVec 3, let s := quotient 0x3F800000 0x40000000
    s.source (fa fn).a 0x3F800000 ∧ s.source (fa fn).b 0x40000000 ∧ s.source (fa fn).d 0 ∧
      s.settled (.g (fa fn).d.toNat) ∧ (fa fn).fn = fn ∧ (fa fn).b ≠ 0 := by decide

/-- A strand with g1 empty. -/
def hollow : State := of { strand [(2, 7)] with gFull := ~~~2 }

theorem test_meets_TransfersOfControl :
    (∀ cond : BitVec 3, let f : FB := { off := 0x1FF8, cond, a := 1 }
      three.source f.a 6 ∧ f.cond = cond ∧ hollow.self.gIsFull f.a.toNat = false) ∧
    three.settled (.g 31) ∧
    (let s := quotient 0x200 0x201
     s.source (fa 0).a 0x200 ∧ (0x200 : Word).getLsbD 0 = false ∧ s.settled (.g (fa 0).d.toNat) ∧
     s.source (fa 0).b 0x201 ∧ (0x201 : Word).getLsbD 0 = true) := by decide

/-- `n` loop levels that end at an address. -/
def nested (n : Nat) (stop : Word) : State :=
  of { strand [(1, 3)] with loops := List.replicate n ⟨0x104, stop, 2, 0, false⟩ }

theorem test_meets_LoopInstructions :
    (let f : FL := { body := 10, count := 1 }
     (nested 0 0).source f.count 3 ∧ (3 : Word) ≠ 0 ∧ (nested 5 0x118).self.loops.length < 6 ∧
     (nested 5 0x118).self.loops.getLast? = some ⟨0x104, 0x118, 2, 0, false⟩ ∧
     (nested 5 0x118).self.frozen < (nested 5 0x118).self.loops.length ∧
     ((nested 5 0x118).self.pc + 4 + word (2 * f.body.toNat)).toNat ≤ (0x118 : Word).toNat ∧
     (0x117 : Word).toNat < ((nested 5 0x117).self.pc + 4 + word (2 * f.body.toNat)).toNat ∧
     (nested 6 0x118).self.loops.length = 6 ∧ hollow.self.gIsFull f.count.toNat = false) ∧
    (∀ z : BitVec 1, let f : FL := { flags := z.setWidth 4 <<< 1, body := 1, count := 0 }
      three.source f.count 0 ∧ f.flags.getLsbD 1 = (z == 1)) ∧
    (let x : FA := { fn := 1, d := 3 }
     x.fn.toNat + 1 ≤ (nested 2 0x118).self.loops.length - (nested 2 0x118).self.frozen ∧
     (nested 2 0x118).self.loops[0]? = some ⟨0x104, 0x118, 2, 0, false⟩ ∧
     (nested 1 0x118).self.loops.length - (nested 1 0x118).self.frozen < x.fn.toNat + 1 ∧
     (nested 2 0x118).self.loops[x.fn.toNat]? = some ⟨0x104, 0x118, 2, 0, false⟩ ∧
     (nested 2 0x118).settled (.g x.d.toNat) ∧ (nested 1 0x118).self.loops.length ≤ x.fn.toNat) := by decide

theorem test_meets_LoopInstructions_back :
    (let st := (nested 6 0x104).self
     st.loops.length ≤ 6 ∧ st.loops = List.replicate 5 ⟨0x104, 0x104, 2, 0, false⟩ ++ [⟨0x104, 0x104, 2, 0, false⟩] ∧
     st.frozen < st.loops.length ∧ st.pc + word 4 = 0x104 ∧ st.pc + word 2 ≠ 0x104 ∧ (0 : Word).toNat + 1 < (2 : Word).toNat) ∧
    (let st := { (nested 0 0).self with loops := [⟨0x104, 0x104, 2, 1, false⟩] }
     st.frozen < st.loops.length ∧ ¬((1 : Word).toNat + 1 < (2 : Word).toNat)) ∧
    (nested 0 0).self.loops = [] ∧
    (let st := { (nested 1 0).self with inTrap := true, tld := 1 }
     st.loops.length ≤ st.frozen) := by decide

theorem test_meets_FullEmptyAndControl :
    (∀ fn : BitVec 3, three.settled (.g (fa fn).d.toNat) ∧ (fa fn).fn = fn) ∧
    (three.self.priv = true ∧ three.settled (.g 3)) ∧
    (let s := of { strand [] with priv := false }
     s.self.priv = false) ∧
    (0x12 ≤ ({ imm := 0x12 } : FU).imm.toNat ∧ ({ imm := 0x11 } : FU).imm = 0x11) ∧
    (let s := of (strand [(3, 7)])
     s.source 3 7 ∧ (7 : Word).toNat % 8 = 7 ∧ (of (strand [])).source 3 0 ∧ (0 : Word).toNat % 8 = 0 ∧
     three.source 3 9 ∧ (9 : Word).toNat % 8 ≠ 0 ∧ (9 : Word).toNat % 8 ≠ 7) := by decide

/-- A strand with a handler. -/
def handled (inTrap : Bool) : State :=
  { of { strand [] with tvec := 0x800, inTrap, tpc := 0x104 } with mod := { State.reset.mod with svccount := 2, svcbase := 0x4000 } }

theorem test_meets_TrapEntryAndReturn :
    ((handled false).self.inTrap = false ∧ (handled false).self.tvec ≠ 0 ∧
      (1 : BitVec 16).toNat < (handled false).mod.svccount.toNat ∧ (handled false).mod.svccount.toNat ≤ (2 : BitVec 16).toNat) ∧
    ((handled true).self.inTrap = true ∧ (handled true).self.loops.length = (handled true).self.tld) ∧
    (let s := of { (handled true).self with tld := 1 }
     s.self.inTrap = true ∧ s.self.loops.length ≠ s.self.tld) ∧
    (three.self.inTrap = false ∧ three.self.tvec = 0 ∧ ALIGN ≠ FE_EMPTY ∧ ALIGN ≠ PAGE_NOT_PRESENT) ∧
    (three.crew.ctx ≠ bootCtx ∧ ({ three with crews := [{ crew1 with ctx := bootCtx }] } : State).crew.ctx = bootCtx) := by decide

/-! ## Meets: the access unit -/

/-- g1 holds an address, g3 a value; the tower has one T unit. -/
def near (a : Word) : State := (of (strand [(1, a), (3, 9)])).setTower 0 (fun x => { x with tUnits := 1 })
/-- A 64-bit memory form on g1 and g3 with offset zero. -/
def fi : FI := { imm := 3, a := 1, d := 3 }

theorem test_meets_LoadsAndStores :
    (let s := near 0x7FFF8
     s.source fi.a 0x7FFF8 ∧ 2 ^ fi.sz.toNat = 8 ∧ (0x7FFF8 + fi.off.signExtend 64 * 8 : Word) = 0x7FFF8 ∧
     0x7FFF8 % 8 = 0 ∧ s.crew.isLocal = true ∧ 0x7FFF8 + 8 ≤ 2 ^ 19 ∧ s.settled (.g fi.d.toNat) ∧ s.source fi.d 9) ∧
    (let s := near 0xFFFF8
     s.source fi.a 0xFFFF8 ∧ 0xFFFF8 + 8 ≤ s.crew.size * 2 ^ 20 ∧ s.crew.cores[0xFFFF8 / 2 ^ 20]? = some 0) ∧
    (let s := near 0x3FFFFF8
     s.source fi.a 0x3FFFFF8 ∧ 0x3FFFFF8 + 8 ≤ (s.tower s.self.tower).tUnits * 2 ^ 26) ∧
    (let s := near 0xFFFFFFFFFFFFF8
     s.source fi.a 0xFFFFFFFFFFFFF8 ∧ canonical 0xFFFFFFFFFFFFF8 = true ∧ inWindow 0xFFFFFFFFFFFFF8 = false) ∧
    (let s := near 0xFF000000003FFFF8
     s.source fi.a 0xFF000000003FFFF8 ∧ inWindow 0xFF000000003FFFF8 = true ∧ s.self.priv = true) ∧
    (let c : CR := { x := 1, a := 1, d := 3 }
     let s := near 0x7FFF0
     s.source (c.a.setWidth 6) 0x7FFF0 ∧ (0x7FFF0 + (c.x.setWidth 5 : BitVec 5).signExtend 64 * 8 : Word).toNat + 8 ≤ 2 ^ 19 ∧
     s.settled (.g c.d.toNat) ∧ s.source (c.d.setWidth 6) 9) := by decide

theorem test_meets_LoadsAndStores_quad :
    (let s := near 0x7FFE0
     s.source fi.a 0x7FFE0 ∧ 0x7FFE0 % 32 = 0 ∧ s.crew.isLocal = true ∧ 0x7FFE0 + 32 ≤ 2 ^ 19 ∧
     s.settled (.q fi.d.toNat) ∧ s.self.qFull.getLsbD fi.d.toNat = true) ∧
    (let s := of { strand [(1, 0x7FFE0)] with qFull := ~~~8 }
     s.source fi.a 0x7FFE0 ∧ s.crew.isLocal = true ∧ 0x7FFE0 + 32 ≤ 2 ^ 19 ∧
     s.self.qFull.getLsbD fi.d.toNat = false) := by decide

theorem test_meets_MemoryAccessChecks :
    (let s := near 0x7FFFC
     s.source fi.a 0x7FFFC ∧ 0x7FFFC % 8 ≠ 0) ∧
    (let s := (near 0xFF00000000000000).mapSelf (fun st => { st with priv := false })
     s.source fi.a 0xFF00000000000000 ∧ s.self.priv = false ∧ 2 ^ fi.sz.toNat = 8) ∧
    (let s := near 0x80000
     s.source fi.a 0x80000 ∧ 0x80000 % 8 = 0 ∧ 2 ^ 19 < 0x80000 + 8) ∧
    (let s : State := { near 0 with crews := [] }
     s.source fi.a 0 ∧ s.crew.isLocal = false) ∧
    (let s := near 0x100000
     s.source fi.a 0x100000 ∧ s.crew.size * 2 ^ 20 < 0x100000 + 8) ∧
    (let s := near 0x4000000
     s.source fi.a 0x4000000 ∧ (s.tower s.self.tower).tUnits * 2 ^ 26 < 0x4000000 + 8) ∧
    (let s := near 0x100000000000000
     s.source fi.a 0x100000000000000 ∧ canonical 0x100000000000000 = false) ∧
    (let s := near 0xFF00000000000000
     s.source fi.a 0xFF00000000000000 ∧ inWindow 0xFF00000000000000 = true ∧ 2 ^ ({ fi with imm := 2 } : FI).sz.toNat ≠ 8 ∧
     s.self.priv = true) ∧
    (let s := (near 0x4000000).setTower 0 (fun x => { x with resizing := some (0x4000000, 0x8000000) })
     s.source fi.a 0x4000000 ∧ (s.tower s.self.tower).tUnits * 2 ^ 26 < 0x4000000 + 8 ∧ s.inResize s.self.tower 0x4000000 8 = true ∧
     (near 0x4000000).inResize 0 0x4000000 8 = false) ∧
    (let s := near 0x7FFF8
     s.source fi.a 0x7FFF8 ∧ 0x7FFF8 % 32 ≠ 0 ∧ (near 0x80000).source fi.a 0x80000 ∧ 0x80000 % 32 = 0 ∧ 2 ^ 19 < 0x80000 + 32) := by decide

/-- The strand's S space holds bytes from place 0x40 on, and a word there may be empty. -/
def local_ (a : Word) (bytes : List Byte) (empty : Bool) : State :=
  { near a with
    mem := Memory.setBytes [] (Place.s 0 0x40) bytes
    empties := if empty then [(Place.s 0 0x40 / 8, true)] else [] }

theorem test_meets_FullEmptyWords : ∀ empty : Bool, let s := local_ 0x40 [1] empty
    let p := Place.s s.self.core 0x40
    s.waiters = [] ∧ s.source fi.a 0x40 ∧ 0x40 + 8 ≤ 2 ^ 19 ∧ s.crew.isLocal = true ∧ s.settled (.g fi.d.toNat) ∧
      s.touches (.cas 8 0 0) (fi.kindOf false) p ∧ s.poisonedAt p 8 = false ∧
      s.wordFull p = !empty ∧ s.source fi.d 9 ∧ s.touches (.store (leBytes 8 0)) (fi.kindOf true) p ∧
      s.Inv ∧ s.crew.cores[0x40 / 2 ^ 20]? = some 0 ∧ s.crew.size = 1 := by decide

theorem test_meets_FullEmptyWords_reference :
    (three.ref 8 8 0x40 = .ok (Place.s 0 0x40)) ∧ ((local_ 0x40 [] true).ref 8 8 0x40 = .ok (Place.s 0 0x40)) :=
  ⟨rfl, rfl⟩

theorem test_meets_FullEmptyWords_fill : let s := of (strand [(1, 0x7FFF8), (2, 1)])
    s.source (fa 0).a 0x7FFF8 ∧ s.source (fa 0).b 1 ∧ 0x7FFF8 % 8 = 0 ∧ 0x7FFF8 + 8 * 1 ≤ 2 ^ 19 ∧ s.waiters = [] ∧
      s.crew.isLocal = true ∧ s.self.cleared = [] ∧ s.reqs = [] ∧
      (∀ i < 1, s.touches (.cas 8 0 0) .strong (Place.s s.self.core (0x7FFF8 + 8 * i))) := by decide

theorem test_meets_FullEmptyWords_wake :
    let st : Strand := { slot := 1, crew := 1, idx := 1, wait := some (.queued 5 true) }
    let s : State := { of { strand [] with wait := some (.queued 4 true) } with peers := [st], args := { unit := 0 } }
    s.self.slot = s.args.unit ∧ s.self.stopped = false ∧ s.self.wait = some (.queued 4 true) ∧
      (∃ q ∈ s.peers, q.slot = 1 ∧ q.stopped = false ∧ q.wait = some (.queued 5 true)) := by
  refine ⟨rfl, rfl, rfl, ?_⟩
  exact ⟨_, List.mem_singleton.mpr rfl, rfl, rfl, rfl⟩

theorem test_meets_FencesAndLocalAtomics : let s := of (strand [(1, 0x7FFF8), (2, 7), (3, 9)])
    s.source (fa 0).a 0x7FFF8 ∧ s.source (fa 0).b 7 ∧ s.source (fa 0).d 9 ∧ s.crew.isLocal = true ∧ 0x7FFF8 + 8 ≤ 2 ^ 19 ∧
      (of (strand [(1, 0x7FFFC)])).source (fa 1).a 0x7FFFC ∧ 0x7FFFC % 4 = 0 ∧ 0x7FFFC + 4 ≤ 2 ^ 19 ∧
      s.settled (.g (fa 0).d.toNat) := by decide

/-- A crew of two strands; the second waits or not. -/
def pair (w : Option Wait) (p : Word) : State :=
  { of (strand [(2, p)]) with
    crews := [{ crew1 with size := 2, cores := [0, 1] }]
    peers := [{ slot := 4, crew := 1, idx := 1, wait := w }] }

theorem test_meets_PrefetchLeaseAndSplit_exchange :
    (let s := pair none 0
     s.source (fa 5).b 0 ∧ s.settled (.q (fa 5).d.toNat) ∧ s.self.qFull.getLsbD (fa 5).a.toNat = true ∧
     (0 : Word).toNat < s.crew.size ∧ s.crew.size ≤ 8 ∧ (fa 5).fn.toNat ≤ 5 ∧ (0 : Word).toNat = s.self.idx ∧
     (fa 5).d.toNat < s.self.q.length) ∧
    (let s := pair none 1
     s.source (fa 5).b 1 ∧ (1 : Word).toNat < s.crew.size ∧ (1 : Word).toNat ≠ s.self.idx) := by decide

theorem test_meets_PrefetchLeaseAndSplit_peer (w : Option Wait) : let s := pair w 1
    s.peers = [] ++ { slot := 4, crew := 1, idx := 1, wait := w } :: [] ∧ s.self.crew = 1 ∧ s.self.idx = 0 :=
  ⟨rfl, rfl, rfl⟩

/-- A ring of two 64-byte slots at S 0x80, its descriptor at S 0x40 with the counters given. -/
def ringCfg : Word := 0x0604000000000080
def ringed (claim post take free : Nat) : State :=
  local_ 0x40 (leBytes 8 ringCfg.toNat ++ leBytes 4 claim ++ leBytes 4 post ++ leBytes 4 take ++ leBytes 4 free) false

theorem test_meets_BerthRings :
    (∀ kind ∈ [Kind.rel, .acq], ∀ s ∈ [ringed 1 1 0 0, ringed 2 1 1 0, ringed 2 0 0 0, ringed 1 1 1 0],
      (gives (s.ringAt 0x40 kind)).map (·.1) = some (Place.s 0 0x40)) ∧
    (three.ringOk three.crew three.self.core ringCfg = .ok ()) ∧ (three.ref 32 32 0x40 = .ok (Place.s 0 0x40)) :=
  ⟨by decide +kernel, rfl, rfl⟩

theorem test_meets_BerthRings_counters :
    (let s := ringed 2 1 1 0
     let g := s.ring (Place.s 0 0x40)
     s.waiters = [] ∧ s.source (fa 0).a 0x40 ∧ g.post ≠ g.claim ∧ g.free ≠ g.take) ∧
    (let s := ringed 1 1 0 0
     let g := s.ring (Place.s 0 0x40)
     g.post = g.claim ∧ g.free = g.take ∧ s.settled (.g (fa 0).d.toNat) ∧ (g.claim - g.free).toNat < 2 ^ g.logN ∧
     0 < (g.post - g.take).toNat) ∧
    (let full := (ringed 2 0 0 0).ring (Place.s 0 0x40)
     let bare := (ringed 1 1 1 0).ring (Place.s 0 0x40)
     2 ^ full.logN ≤ (full.claim - full.free).toNat ∧ bare.post = bare.take) ∧
    (let s := of (strand [(1, 0x40), (2, ringCfg)])
     s.source (fa 0).a 0x40 ∧ s.source (fa 0).b ringCfg ∧
     s.touches (.store (leBytes 32 0)) .strong (Place.s 0 0x40)) := by decide

theorem test_meets_PrefetchLeaseAndSplit :
    (let s := of (strand [(1, 8)])
     s.source fi.a 8 ∧ s.source (fa 0).a 8 ∧ canonical 8 = true ∧ s.settled (.g (fa 0).d.toNat) ∧ s.self.priv = true ∧
     (8 : Word).toNat ≤ 8 ∧ s.drained s.issuer = true ∧ s.leasesOver s.issuer s.serial 2 = true ∧
     s.self.tower < s.towers.length ∧ s.Inv ∧ (s.tower 0).tUnits < (8 : Word).toNat ∧ s.self.tower = 0 ∧
     s.dirtyIn 0 = [] ∧ (s.tower 0).resizing = none) ∧
    (let s := near 0
     s.source (fa 0).a 0 ∧ s.self.tower = 0 ∧ (0 : Word).toNat < (s.tower 0).tUnits ∧
     s.usesT (Place.t 0 0) (Place.t 0 (2 ^ 26)) = false ∧ (s.tower 0).resizing = none) ∧
    (let s := of (strand [(1, 9)])
     s.source (fa 0).a 9 ∧ 8 < (9 : Word).toNat ∧ s.self.priv = true) ∧
    (near 0x100000000000000).source (fa 0).a 0x100000000000000 ∧ canonical 0x100000000000000 = false := by decide

/-! ## Meets: fetch, the pilot's instructions, the home slices' instructions -/

/-- The boot mapping's leaf of the first page of address space 0 (17 R491), with no code image. -/
def leaf : Leaf :=
  { base := 0, size := 65536, policy := 1, skew := 0, key := 0, r := true, w := true, x := false, u := false }
def mapped (l : List (Nat × Word)) (bytes : List Byte := []) : State :=
  { of (strand l) with mem := Memory.setBytes [] (128 * 2 ^ 24) bytes }
/-- The place of address 0x1000. -/
def spot : Trans := { place := 128 * 2 ^ 24, key := 0, user := false, read := true, fetch := false }

theorem test_meets_FetchUnit :
    (let s := mapped [(1, 0x1000), (2, 128)]
     s.source (fa 0).a 0x1000 ∧ s.source (fa 0).b 128 ∧ (128 : Word).toNat ≤ 0x1000000 ∧ canonical 0x1000 = true ∧
     canonical (0x1000 + 128 - 1) = true ∧ (0x1000 : Word).toNat + (128 : Word).toNat - 1 < 2 ^ 64 ∧ s.self.cleared = [] ∧
     s.writesPending [2 ^ 24] = false ∧ s.settled (.g (fa 0).d.toNat) ∧
     s.self.cq.outstanding.length < 16 ∧ s.stuck spot.place = false ∧ s.poisonedAt spot.place 4 = false ∧
     s.ordered { id := s.serial, who := s.issuer, pc := s.self.pc, op := .store (leBytes 4 128), kind := .weak, space := .g, addr := 0x1000, place := some spot.place, key := spot.key } = true ∧
     s.ownedAt spot.place 4 = false ∧ s.hostHeld spot.place 4 = false ∧
     0x1000 % 4 = 0 ∧ s.reqs.all (fun r => !r.who.same s.issuer) = true ∧
     s.returns.all (fun r => !(r.crew == s.self.crew && r.idx == s.self.idx)) = true) ∧
    (let s := mapped [(1, 0), (2, 0x1000001)]
     s.source (fa 0).a 0 ∧ s.source (fa 0).b 0x1000001 ∧ 0x1000000 < (0x1000001 : Word).toNat) ∧
    (mapped [(2, 0x1000000)]).source (fa 0).b 0x1000000 ∧ (mapped [(2, 0)]).source (fa 0).b 0 := by decide

theorem test_meets_FetchUnit_mapped :
    (linesOf 0x1000 128).mapM (fun va => (mapped [(1, 0x1000)]).xlate .wx va) = .ok [spot] ∧
      (linesOf 0x1000 0).mapM (fun va => (mapped [(1, 0x1000)]).xlate .wx va) = .ok [] ∧
      (mapped [(1, 0x1000)]).xlate .w 0x1000 = .ok spot :=
  ⟨ok_of (by decide +kernel), ok_of (by decide +kernel), ok_of (by decide +kernel)⟩

/-- A record of zeros is a manifest of one iteration; with a must-be-zero bit set it is refused. -/
def blank : List Byte := List.replicate 128 0
def flawed : List Byte := List.replicate 0x11 0 ++ [0x80] ++ List.replicate 110 0

theorem test_meets_SpawnInstructions :
    (let s := mapped [(1, 0x1000)]
     s.crew.ctx ≠ bootCtx ∧ s.source (fa 0).a 0x1000 ∧ canonical 0x1000 = true ∧ 0x1000 % 128 = 0 ∧
     s.settled (.g (fa 0).d.toNat) ∧ (fa 0).d ≠ 0 ∧ (s.lookedAt 0x1000 128).poolOpen s.crew.ctx s.self.tower = true) ∧
    (let s := (mapped [(1, 0x1000)]).setCtx 0 (fun c => { c with lighter := [5] })
     (s.lookedAt 0x1000 128).poolOpen s.crew.ctx s.self.tower = false ∧
     (s.ctx s.crew.ctx).lighterSize ≤ (s.ctx s.crew.ctx).lighter.length ∧ s.mod.duty.getLsbD 1 = false) ∧
    three.manifests.length + three.ctxs.length + 2 < 2 ^ 32 := by decide

theorem test_meets_SpawnInstructions_record :
    (mapped [(1, 0x1000)]).strongRead 0x1000 128 = .ok blank ∧
      (mapped [(1, 0x1000)] flawed).strongRead 0x1000 128 = .ok flawed ∧
      ((mapped []).lookedAt 0x1000 128).checkManifest (mapped []).issuer 1 false blank = none ∧
      ((mapped []).lookedAt 0x1000 128).checkManifest (mapped []).issuer 1 false flawed = some ILL_FIELD :=
  ⟨ok_of (by decide +kernel), ok_of (by decide +kernel), by decide +kernel, by decide +kernel⟩

/-- A strand with an access that is not performed. -/
def busy : State := three.issue (.load 8 false) .weak .g 0x40 none

theorem test_meets_YieldRetireAbort :
    (three.drained three.issuer = true ∧ three.self.mq.idle = true ∧ three.self.cq.idle = true ∧
      three.peers ++ three.saved = [] ∧ three.leasesOver three.issuer three.serial 3 = true ∧ three.self.stopReq = false) ∧
    (of { strand [] with stopReq := true }).self.stopReq = true ∧
    busy.drained busy.issuer = false ∧
    (let s := pair none 0
     s.drained s.issuer = true ∧ s.self.mq.idle = true ∧ s.self.cq.idle = true ∧ s.leasesOver s.issuer s.serial 3 = true ∧
     s.peers.any (fun x => x.crew == s.self.crew && !x.retired) = true) := by decide

theorem test_meets_BarriersAndWaits :
    (let s := of (strand [(1, 0x40), (2, 5)])
     s.crews.find? (fun x => x.id == s.self.crew) = some crew1 ∧ s.self.barPhase = none ∧ s.drained s.issuer = true ∧
     s.leasesOver s.issuer s.serial 1 = true ∧ s.peers ++ s.saved = [] ∧
     (fa 0).a ≠ 0 ∧ s.source (fa 0).a 0x40 ∧ s.source (fa 0).b 5 ∧ s.poisonedAt (Place.s 0 0x40) 16 = false ∧
     s.touches (.load 4 false) .strong (Place.s 0 0x40) ∧ Place.space (Place.s 0 0x40) = .s 0 ∧
     (near 0x40).inResize 0 0x40 16 = false ∧ 0x40 + 16 ≤ (near 0x40).tsize 0 ∧
     Place.isG (Place.s 0 0x40) = false ∧ s.settled (.g (fa 0).d.toNat) ∧
     field (s.bytesAt none (Place.s 0 0x40) 4) 0 4 ≠ (5 : Word).toNat % 2 ^ 32 ∧
     field (s.bytesAt none (Place.s 0 0x40) 4) 0 4 = (0 : Word).toNat % 2 ^ 32) ∧
    (let s := pair none 0
     (s.peers.any (fun x => x.crew == s.self.crew && !x.retired && x.idx != s.self.idx)) = true ∧
     s.crew.arrived = []) ∧
    (let s := of (strand [(1, 0x10000000)])
     s.source (fa 0).a 0x10000000 ∧ s.source (fa 0).b 0 ∧ (0 : Word).toNat ≤ ((s.queue (s.ownQueue 1)).getD {}).issue ∧
     s.reached (s.ownQueue 1) 0 = true) := by decide

theorem test_meets_BarriersAndWaits_queue :
    three.resolveQueue three.issuer three.crew.size 0x10000000 = .ok (three.ownQueue 1) ∧
      three.resolveQueue three.issuer three.crew.size 0x40000000 = .error ILL_FIELD ∧
      three.ref 16 16 0x40 = .ok (Place.s 0 0x40) := ⟨rfl, rfl, rfl⟩

/-- A barrier at S 0x40 that has received one arrival of `expect`. -/
def barrier (expect : Nat) (fault : Bool) : State :=
  local_ 0x40 (leBytes 4 (if fault then 2 ^ 31 else 0) ++ leBytes 4 (2 ^ 12 + expect)) false

theorem test_meets_BarriersAndWaits_arrival :
    (∀ expect ∈ [2, 3], ∀ fault : Bool, let s := barrier expect fault
      let w1 := leNat (s.bytesAt none (Place.s 0 0x44) 4)
      s.Inv ∧ Place.isG (Place.s 0 0x40) = false ∧
        (leNat (s.bytesAt none (Place.s 0 0x40) 4)).testBit 31 = fault ∧ bitsOf w1 11 0 = expect ∧ bitsOf w1 23 12 = 1) ∧
    (let st : Strand := { strand [] with wait := some (.barrier 7 true) }
     st.stopped = false ∧ st.slot = (of st).args.unit) := by decide

theorem test_meets_HomeAtomics :
    (let s := of (strand [(1, 0x1000), (2, 5), (3, 9)])
     s.source ((fa 0).a &&& 31) 0x1000 ∧ s.source (fa 0).a 0x1000 ∧ s.source (fa 0).b 5 ∧ s.source (fa 0).d 9 ∧
     0x1000 % 8 = 0 ∧ canonical 0x1000 = true ∧ inWindow 0x1000 = false ∧ s.settled (.g (fa 0).d.toNat)) ∧
    (let s := of (strand [(1, 0x1004)])
     s.source ((fa 0).a &&& 31) 0x1004 ∧ 0x1004 % 8 ≠ 0 ∧ 0x1004 % 4 = 0) ∧
    (let s := of (strand [(1, 0x1002), (2, 5), (3, 9)])
     s.source (fa 0).a 0x1002 ∧ s.source (fa 0).b 5 ∧ s.source (fa 0).d 9 ∧ 0x1002 % 4 ≠ 0 ∧ (0x100000000000000 : Word).toNat % 8 = 0) ∧
    (near 0x100000000000000).source ((fa 0).a &&& 31) 0x100000000000000 ∧ canonical 0x100000000000000 = false ∧
    (three.sourceV (fa 0).b (List.replicate 32 0) ∧ three.sourceV (fa 0).d (List.replicate 32 0)) := by decide

/-- With no element active the vector forms check no address; with element 0 active they check one. -/
def masked (s : State) (on : Nat → Bool) : State :=
  s.mapSelf (fun st => { st with m := (List.range 32).map on :: st.m.tail })

theorem test_meets_HomeAtomics_vector :
    (let s := masked (mapped [(1, 0x1000)]) (fun e => e == 0)
     s.checkElems .w 8 ((s.self.actives (s.self.count 8)).map (fun e => (e, 0x1000 + word (el (elems 8 (s.self.count 8)
       (List.replicate 32 0)) e * 8)))) = .ok [(0, 0x1000, spot)] ∧
     s.checkElems .w 4 ((s.self.actives (s.self.count 4)).map (fun e => (e, 0x1000 + word (el (elems 4 (s.self.count 4)
       (List.replicate 32 0)) e * 4)))) = .ok [(0, 0x1000, spot)]) :=
  ⟨ok_of (by decide +kernel), ok_of (by decide +kernel)⟩

/-- A descriptor of one 8-byte range at address 0. -/
def rangeBytes : List Byte := leBytes 16 (8 * 2 ^ 64) ++ leBytes 4 1 ++ [3] ++ leBytes 11 0

theorem test_meets_RangeUnitsAndMaintenance :
    (let s := mapped [(1, 0x1000), (2, 128)]
     s.drained s.issuer = true ∧ s.leasesOver s.issuer s.serial 3 = true ∧ s.source (fa 0).a 0x1000 ∧
     0x1000 % 32 = 0 ∧ s.ranges = [] ∧ s.lexp = [] ∧ s.source (fa 0).b 128 ∧ canonical (0x1000 + 128 - 1) = true ∧
     s.settled (.g (fa 0).d.toNat) ∧ inWindow 0x1000 = false ∧ leaf.policy ≤ 1 ∧
     Place.isDram (s.leafPlace leaf (0x1000 % leaf.size)) = true) ∧
    (let r : Range := { asid := 0, base := 0x1000, stride := 8, count := 1, width := 8 }
     let s : State := { mapped [(1, 0x1000)] with ranges := [r] }
     s.ranges.find? (fun r => r.asid == s.crew.asid && r.base == 0x1000) = some r ∧ sget 0 s.lexp r.unit ≤ s.tide ∧
     r.words.any (fun w => s.ranges.any (fun x => x.has w)) = true ∧
     256 ≤ ((List.replicate 256 r).filter (fun x => x.asid == r.asid)).length ∧ ([] : List Range).length < 256) := by
  decide +kernel

theorem test_meets_RangeUnitsAndMaintenance_words :
    (mapped []).wordPlaces ((linesOf 0x1000 128).filterMap (fun va => if inWindow va then none else some va.toNat)) =
        .ok [(0x1000 / 8, spot.place / 8)] ∧
      ((mapped []).lookedAt 0x1000 32).wordPlaces (Range.words { asid := 0, base := 0x1000, stride := 8, count := 1, width := 8 }) =
        .ok [(0x1000 / 8, spot.place / 8)] ∧
      (mapped []).ownedAt (128 * 2 ^ 24) 128 = false ∧ (mapped []).flightOf (128 * 2 ^ 24) = none :=
  ⟨ok_of (by decide +kernel), ok_of (by decide +kernel), by decide +kernel, by decide +kernel⟩

theorem test_meets_RangeUnitsAndMaintenance_descriptor :
    (mapped [(1, 0x1000)] rangeBytes).strongRead 0x1000 32 = .ok rangeBytes ∧
      rangeOf 0 rangeBytes = some { asid := 0, base := 0, stride := 8, count := 1, width := 8 } ∧
      rangeOf 0 (List.replicate 32 0) = none ∧
      (mapped []).lookup 0 0 0x1000 = .leaf leaf 0 ∧ three.lookup 0 5 0x1000 = .noSpace :=
  ⟨ok_of (by decide +kernel), by decide +kernel, by decide +kernel, by decide +kernel, by decide +kernel⟩

/-! ## Meets: vectors, the rotator, the matrix engine, the crane, compressed halves -/

/-- Rounding under a first word that sets RND 2, SAT 2 and IXB g1, and without one. -/
def px : Prefix := { rnd := 2, sat := 2, ixb := 1, ord := 1 }
def rounding (p : Prefix) : Rnd :=
  if p.rnd = 0 then { mode := 1, idx := 0, srs := 0, sat := 1 } else { mode := 2, idx := 6, srs := 0, sat := 2 }
/-- The bytes of a q register that holds zeros. -/
def zeros : List Byte := List.replicate 32 0

theorem test_meets_Vectors_rounding :
    three.vround {} = .ok (rounding {}) ∧ three.vround px = .ok (rounding px) := ⟨rfl, rfl⟩

theorem test_meets_VectorArithmetic : ∀ fn : BitVec 3,
    three.sourceV (fa fn).a zeros ∧ three.sourceV (fa fn).b zeros ∧ three.sourceV (fa fn).d zeros ∧
      three.settled (three.self.vdest (fa fn).d.toNat) ∧ (fa fn).fn = fn := by decide

theorem test_meets_VectorFunctions :
    (∀ b : BitVec 1, let f : FA := { fn := 4, a := 1, b := b.setWidth 6, d := 3 }
      three.sourceV f.a zeros ∧ three.settled (three.self.vdest f.d.toNat) ∧ f.b = b.setWidth 6) ∧
    (fa 3).fn.toNat ≤ 3 ∧ ((fmtOf 4).value 0x80000000).isNan = false ∧ 0x80000000 < 2 ^ (8 * tyBytes 4) ∧
    ((fmtOf 5).value 0x7F80).isNan = false ∧ 0x7F80 < 2 ^ (8 * tyBytes 5) := by decide

theorem test_meets_VectorMasksAndPermutes :
    three.sourceV (fa 0).a zeros ∧ three.sourceV (fa 0).b zeros ∧ three.source (fa 0).a 6 ∧ three.source (fa 0).b 7 ∧
      three.settled (.g (fa 0).d.toNat) ∧ three.settled (three.self.vdest (fa 0).d.toNat) := by decide

theorem test_meets_VectorReductions :
    (three.sourceV (fa 4).a zeros ∧ three.settled (three.self.vdest (fa 4).d.toNat) ∧ (fa 4).b.toNat ≤ 3 ∧
      three.sourceV (fa 4).b zeros ∧ three.sourceV ((fa 4).a + 1) zeros ∧
      three.settled (three.self.vdest ((fa 4).d + 1).toNat)) := by decide

theorem test_meets_VectorMemory :
    (let s := mapped [(1, 0x1000), (2, 8)]
     s.source ((fa 2).a &&& 31) 0x1000 ∧ s.source (fa 2).b 8 ∧ s.sourceV (fa 2).b zeros ∧ s.sourceV (fa 2).d zeros ∧
     s.settled (s.self.vdest (fa 2).d.toNat)) := by decide

theorem test_meets_VectorMemory_elements : ∀ acc ∈ [Access.r, Access.w],
    okIs ((masked (mapped [(1, 0x1000), (2, 8)]) (fun e => e == 0)).checkElems acc 4
      (((List.range 8).filter (masked (mapped []) (fun e => e == 0)).self.active).map
        (fun e => (e, (0x1000 : Word) + word (e * 4))))) [(0, 0x1000, spot)] = true := by decide +kernel

theorem test_meets_VectorMemory_fails :
    failsWith ((masked (mapped []) (fun e => e == 0)).checkElems .r 4 [(0, 0x100000000000000)]) VA_NONCANON = true ∧
      endsWith (({ mapped [] with crews := [{ crew1 with asid := 5 }] } : State).checkElems .r 4 [(0, 0x1000)]) = some (PAGE_NOT_PRESENT, 0x1000) := by
  decide +kernel

/-- A strand in long mode whose vectors have 64 elements. -/
def long (l : List (Nat × Word)) (bs : List Byte) : State :=
  of { strand l with
    long := true, vl := 64, v := List.replicate 64 bs, m := List.replicate 8 (List.replicate 64 true) }
def wide : List Byte := List.replicate 512 0

set_option maxRecDepth 20000 in
theorem test_meets_VectorModeAndLength :
    (three.self.long = false ∧ (of (strand [])).source (fa 0).a 0) ∧
    (let s : State := { of (strand [(1, 64), (2, 0)]) with args := { unit := 1 } }
     s.crews = [crew1] ∧ crew1.id = s.self.crew ∧ s.self.retired = false ∧ s.self.long = false ∧ s.source (fa 0).a 64 ∧
     (64 : Word) ≠ 0 ∧ s.peers ++ s.saved = [] ∧ crew1.vlAsked = none ∧ crew1.saved = false ∧ crew1.size = 1 ∧
     s.args.unit = crew1.id ∧ 512 * min (64 * ((64 + 63) / 64)) 8192 ≤ 4194304 ∧
     s.capacityUsed (clusterOfCore (crew1.cores.headD 0)) = 0) ∧
    (let s := long [(1, 64), (2, 0)] wide
     s.crews = [crew1] ∧ s.self.long = true ∧ s.vectorBusy s.self.crew = false ∧ s.source (fa 0).a 64 ∧
     s.settled (.g (fa 0).d.toNat) ∧ s.source (fa 0).b 0 ∧ s.settled (.v (fa 0).d.toNat) ∧
     s.self.vFull.getLsbD (fa 0).a.toNat = true ∧ (0 : Word).toNat = s.self.idx ∧ (0 : Word).toNat < crew1.size ∧
     crew1.size ≤ 8) := by decide

/-- A crew of two strands; the second has arrived somewhere, or waits, or not. -/
def couple (isLong : Bool) (arrival : Option (Nat × Word × Nat)) (wait : Option Wait := none) : State :=
  { of { strand [(1, 64), (2, 1)] with long := isLong, vl := 64, v := if isLong then List.replicate 64 wide else [] } with
    crews := [{ crew1 with size := 2, cores := [0, 1] }]
    peers := [{ slot := 4, crew := 1, idx := 1, arrival, wait, v := if isLong then List.replicate 64 wide else [] }] }

theorem test_meets_VectorModeAndLength_crew : ∀ l : Bool, ∀ k ∈ [0, 1, 2],
    (let s := couple l none
     s.crews.map (fun c => c.id) = [s.self.crew] ∧ s.self.long = l ∧ s.source (fa 0).a 64 ∧ s.settled (.g (fa 0).d.toNat) ∧
     s.peers.any (fun y => y.crew == s.self.crew && !y.retired && y.arrival.isNone) = true) ∧
    (let s := couple l (some (k, 65, 4))
     s.peers.map (fun y => (y.crew, y.retired)) = [(s.self.crew, false)] ∧ s.peers.map (fun y => y.arrival) = [some (k, 65, 4)] ∧ s.saved = [] ∧
     (64 : Word).toNat ≤ (65 : Word).toNat ∧ s.vectorBusy s.self.crew = false ∧ s.source (fa 0).a 64 ∧
     s.settled (.g (fa 0).d.toNat) ∧ s.crews.map (fun c => c.vlAsked) = [none] ∧ s.self.retired = false) := by decide +kernel

theorem test_meets_VectorModeAndLength_grant :
    let c : Crew := { crew1 with vlAsked := some 8192 }
    let s : State := { of { strand [] with arrival := some (0, 64, 0) } with crews := [c], args := { unit := 1 } }
    let full : State := { s with crews := [c, { crew1 with id := 2, vlGrant := 64 }] }
    s.crews.find? (fun x => x.id == s.args.unit) = some c ∧ c.saved = false ∧
      s.capacityUsed (clusterOfCore (c.cores.headD 0)) + 512 * c.size * 8192 ≤ 4194304 ∧ s.peers ++ s.saved = [] ∧
      s.self.crew = c.id ∧ s.self.retired = false ∧ full.crews.find? (fun x => x.id == full.args.unit) = some c ∧
      ¬ full.capacityUsed (clusterOfCore (c.cores.headD 0)) + 512 * c.size * 8192 ≤ 4194304 := by decide +kernel

set_option maxRecDepth 20000 in
theorem test_meets_VectorModeAndLength_exchange : ∀ b : Bool, let w := if b then none else some (Wait.exchange 0 3 1 13 4)
    let s := couple true none w
    s.peers.map (fun y => (y.crew, y.idx, y.retired, y.stopped)) = [(s.self.crew, 1, false, false)] ∧
      s.peers.map (fun y => y.wait) = [w] ∧
      s.source (fa 5).b 1 ∧ s.settled (.v (fa 5).d.toNat) ∧ s.self.vFull.getLsbD (fa 5).a.toNat = true ∧
      (1 : Word).toNat < s.crew.size ∧ s.crew.size ≤ 8 ∧ (1 : Word).toNat ≠ s.self.idx ∧ s.self.idx = 0 ∧ 8 ≤ 13 := by decide

theorem test_meets_RotatorConversions_seeds :
    (∀ d ∈ [(1 : Reg), 15], 1 ≤ d.toNat ∧ d.toNat < 16 ∧ three.source (fa 0).a 6 ∧ three.settled (.g d.toNat)) ∧
    (let s := of (strand [(1, 5), (2, 15), (4, 16), (5, 0x8F), (6, 0x20), (7, 255)])
     s.source (fa 0).a 5 ∧ s.source (fa 0).b 15 ∧ (15 : Word).toNat ≤ 15 ∧ s.source 4 16 ∧ 15 < (16 : Word).toNat ∧
     s.source 5 0x8F ∧ (0x8F : Word).toNat / 16 ∈ [0, 1, 4, 5, 6, 7, 8] ∧ s.source 6 0x20 ∧
     (0x20 : Word).toNat / 16 ∉ [0, 1, 4, 5, 6, 7, 8] ∧ s.source 7 255 ∧ (255 : Word).toNat ≤ 255 ∧
     s.settled (.g (fa 0).d.toNat)) := by decide

/-- Scales of 1.0 in each word, and scales of zero. -/
def ones : List Byte := (List.range 128).flatMap (fun _ => leBytes 4 0x3F800000)

set_option maxRecDepth 20000 in
theorem test_meets_RotatorConversions :
    (three.sourceV (fa 0).a zeros ∧ three.settled (three.self.vdest (fa 0).d.toNat) ∧ three.self.long = false) ∧
    (let s := long [(1, 6)] ones
     s.self.long = true ∧ s.sourceV (fa 1).a ones ∧ s.sourceV 63 ones ∧ s.settled (.v 63) ∧
     s.settled (s.self.vdest (fa 1).d.toNat)) := by decide

theorem test_meets_RotatorConversions_rounding :
    (long [(1, 6)] ones).rround {} = .ok { rounding {} with sat := 2 } ∧
      (long [(1, 6)] ones).rround px = .ok (rounding px) ∧ (long [(1, 6)] ones).vround px = .ok (rounding px) ∧
      (long [(1, 6)] ones).vround {} = .ok (rounding {}) :=
  ⟨rfl, rfl, rfl, rfl⟩

theorem test_meets_RotatorConversions_scales :
    ((blocksOf 0 64 (long [] ones).self.active).all (fun b => sigmaOk (sigmaAt ones b.j)) = true) ∧
    ((blocksOf 6 64 (long [] ones).self.active).all (fun b => sigmaOk (sigmaAt ones b.j)) = true) ∧
    ((blocksOf 0 64 (long [] wide).self.active).find? (fun b => !sigmaOk (sigmaAt wide b.j))).isSome = true := by
  decide +kernel

theorem test_meets_RotationIsInvertible : (List.replicate 32 (5 : Int)).length = 32 := rfl

theorem test_meets_MatrixIssue :
    (let s := of (strand [(1, 0x40), (2, 7)])
     s.self.mq.outstanding.length < 16 ∧ s.source (fa 0).a 0x40 ∧ s.source (fa 0).b 7 ∧ s.self.long = false ∧
     s.crew.size ≠ 8 ∧ (0x40 : Word).toNat ≤ 65535 ∧ s.self.mq.issue < (0x40 : Word).toNat ∧ swf {} s.cores = true ∧
     (s.core s.self.core).granted = false ∧ (0x40 : Word) ≠ 0) ∧
    (let s := of (strand [])
     s.source (fa 0).a 0 ∧ (0 : Word).toNat ≤ s.self.mq.completion ∧ s.self.mq.completion ≤ s.self.mq.issue) ∧
    (let s : State := { of (strand [(1, 127)]) with cores := [(0, { granted := true })] }
     s.source (fa 0).a 127 ∧ swf {} s.cores = true ∧ (s.core s.self.core).granted = true) := by decide +kernel

theorem test_meets_MatrixIssue_any (a : Word) : (of (strand [(1, a)])).source (fa 0).a a :=
  ⟨show three.self.gIsFull 1 = true by decide, rfl⟩

theorem test_meets_MatrixIssue_scales :
    (∀ a ∈ [(1 : Word), 0x7F7FFFFF, 0x100000001],
      a.toNat < 2 ^ 33 ∧ 0 < a.toNat % 2 ^ 32 ∧ a.toNat % 2 ^ 32 < 0x7F800000) ∧
    (∀ a ∈ [(0 : Word), 0x7F800000, 0x180000000],
      a.toNat < 2 ^ 33 ∧ (a.toNat % 2 ^ 32 = 0 ∨ 0x7F800000 ≤ a.toNat % 2 ^ 32)) ∧
    2 ^ 33 ≤ (0x200000000 : Word).toNat ∧ 65535 < (0x200000000 : Word).toNat := by simp

/-- A crew of eight in long mode with a grant. -/
def eight (vlGrant : Nat) : State :=
  { long [(1, 127), (2, 7)] wide with crews := [{ crew1 with size := 8, vlGrant, cores := [0, 1, 2, 3, 4, 5, 6, 7] }] }

set_option maxRecDepth 20000 in
theorem test_meets_MatrixIssue_long :
    (let s := eight 128
     s.self.mq.outstanding.length < 16 ∧ s.self.long = true ∧ 128 ≤ s.crew.vlGrant ∧ s.source (fa 0).a 127 ∧
     s.source (fa 0).b 7 ∧ (127 : Word).toNat ≤ 127 ∧ s.settled (.v (fa 0).d.toNat) ∧ s.crew.size = 8 ∧ s.sourceV 63 wide) ∧
    (∀ fn ∈ [(1 : BitVec 3), 2], let s := eight 512
      let size := 8 * s.crew.vlGrant
      let n := ((if fn.toNat / 2 ≠ 0 then 16384 else 32768) + size - 1) / size
      s.self.long = true ∧ s.sourceV 63 wide ∧ (55 : Reg).toNat + n - 1 ≤ 62 ∧ 62 < (60 : Reg).toNat + n - 1 ∧
        2052 ≤ size ∧ 0 < size ∧ s.self.mq.outstanding.length < 16 ∧ s.returns = []) := by decide

/-- A copy descriptor of eight bytes. -/
def copyBytes (src dst : Nat) (ctrl : Nat) : List Byte :=
  leBytes 8 src ++ leBytes 8 dst ++ leBytes 8 0 ++ leBytes 4 8 ++ leBytes 4 1 ++ leBytes 8 0 ++ leBytes 4 ctrl ++ leBytes 20 0
/-- A follow-on record of an mma with no field set. -/
def followBytes : List Byte := leBytes 4 (encodeParcel (.mma {})).toNat ++ leBytes 28 0

theorem test_meets_CraneIssue_descriptor :
    (gives ((mapped [] (copyBytes 0 0x40 0)).issueRead 0x1000 64)).map (·.1) = some (copyBytes 0 0x40 0) ∧
    (copyDesc (copyBytes 0 0x40 0)).check .copy 0x1000 = .ok () ∧ (copyDesc (copyBytes 0 0x40 0)).check .fill 0x1000 = .ok () ∧
    (copyDesc (copyBytes 0 0x40 4)).check .turn 0x1000 = .ok () ∧ (copyDesc (copyBytes 0 0 0)).check .ring 0x1000 = .ok () ∧
    failsWith ((copyDesc (copyBytes 0 4 0)).check .copy 0x1000) ILL_FIELD = true ∧
    three.barrierOf false 0 = .ok none ∧ three.extentsOk (copyDesc (copyBytes 0 0x40 0)) .copy = .ok () ∧
    (gives (((mapped [] followBytes).lookedAt 0x1000 64).issueRead 0x1000 32)).map (·.1) = some followBytes ∧
    (followOn followBytes).map (fun x => (x.1, x.2.2)) = some (.mma {}, false, false) ∧ followOn (leBytes 32 0) = none ∧
    three.ref 32 32 0x40 = .ok (Place.s 0 0x40) :=
  ⟨by decide +kernel, ok_of (by decide +kernel), ok_of (by decide +kernel), ok_of (by decide +kernel),
    ok_of (by decide +kernel), by decide +kernel, rfl, ok_of (by decide +kernel), by decide +kernel,
    by decide +kernel, by decide +kernel, rfl⟩

/-- One crane command that has not begun. -/
def craneCmd : Cmd := { seq := 1, pc := 0x80, who := {}, op := .crn {} }

theorem test_meets_CraneIssue :
    (let s := mapped [(1, 0x1000), (2, 0x40)]
     s.source (fa 0).a 0x1000 ∧ s.source (fa 0).b 0x40 ∧ s.settled (.g (fa 0).d.toNat) ∧
     s.self.cq.outstanding.length < 16 ∧ s.self.mq.outstanding.length < 16) ∧
    (let s := of (strand [(1, 0), (2, 0x20000000)])
     s.source (fa 0).a 0 ∧ s.source (fa 0).b 0x20000000 ∧ s.ownQueue 2 ≠ s.ownQueue 1 ∧ (0 : Word).toNat ≤ s.self.mq.issue) ∧
    (let s := of { strand [] with cq := { issue := 1, cmds := [craneCmd] } }
     s.source (fa 0).a 0 ∧ craneCmd.done = false ∧ (0 : Word).toNat < craneCmd.seq ∧ craneCmd.isWait = false ∧ craneCmd.stage = 0 ∧ s.chains = [] ∧
     craneCmd.seq = s.self.cq.completion + 1 ∧ s.self.crew ≠ 0) := by decide

theorem test_meets_CraneIssue_head : let s := of { strand [] with cq := { issue := 1, cmds := [craneCmd] } }
    s.self.cq.cmds = [craneCmd] ∧ craneCmd.bar = none ∧ s.self.mq.cmds = [] := ⟨rfl, rfl, rfl⟩

/-- Of three commands two stand behind number 1; of a matrix command follows the last of them. -/
theorem test_meets_CraneIssue_cancels :
    let s := of { strand [(1, 1)] with
      cq := { issue := 3, cmds := [craneCmd, { craneCmd with seq := 2 }, { craneCmd with seq := 3 }] }
      mq := { issue := 1, cmds := [{ craneCmd with after := 3 }] } }
    s.source (fa 0).a 1 ∧ s.chains = [] ∧ (s.self.cq.cmds.map (·.seq)).Nodup ∧ s.self.cq.latch = none ∧
      s.self.cq.cmds.map (fun c => (c.done, c.stage, decide ((1 : Word).toNat < c.seq), c.isWait, c.bar)) =
        [(false, 0, false, false, none), (false, 0, true, false, none), (false, 0, true, false, none)] := by decide

theorem test_meets_CraneIssue_queue :
    three.resolveQueue three.issuer three.crew.size 0x20000000 = .ok (three.ownQueue 2) ∧
      three.resolveQueue three.issuer three.crew.size 0x10000000 = .ok (three.ownQueue 1) := ⟨rfl, rfl⟩

theorem test_meets_CompressedHalves :
    (let r : CR := { x := 0, a := 2, d := 1 }
     three.source (r.d.setWidth 6) 6 ∧ three.source (r.a.setWidth 6) 7 ∧ three.settled (.g r.d.toNat) ∧
     (7 : Word).getLsbD 0 = true ∧ (6 : Word).getLsbD 0 = false ∧ three.source 1 6 ∧
     (nested 1 0x118).self.loops[r.x.toNat]? = some ⟨0x104, 0x118, 2, 0, false⟩ ∧
     (nested 0 0).self.loops.length ≤ r.x.toNat) := by decide

/-! ## Meets: the bead engine -/

/-- A check passes. -/
def passes {ε : Type} (x : Except ε Unit) : Bool :=
  match x with
  | .ok _ => true
  | .error _ => false
theorem ok_of_passes {ε : Type} {x : Except ε Unit} (h : passes x = true) : x = .ok () := by
  cases x <;> simp_all [passes]

/-- A strand whose address space holds subarray 0 of bank 0 of channel 0. -/
def beads (l : List (Nat × Word)) (bytes : List Byte := []) : State := { mapped l bytes with subOwner := [(0, some 0)] }
/-- An argument block of bank 0 with two unsigned pointers of one plane. -/
def blockBytes : List Byte :=
  leBytes 8 (2 ^ 48) ++ List.replicate 24 0 ++ leBytes 8 (2 ^ 60 + 2 ^ 51) ++ leBytes 8 (2 ^ 60 + 2 ^ 51) ++ List.replicate 80 0

theorem test_meets_BeadIssue_call :
    (let s := beads [(1, 0x1000), (2, 63)] blockBytes
     s.source (fa 0).a 0x1000 ∧ s.source (fa 0).b 63 ∧ (63 : Word).toNat ≤ 63 ∧ (field blockBytes 6 2).testBit 0 = true ∧
     bitsOf (field blockBytes 0 8) 32 16 = 0 ∧ field blockBytes 0x10 16 = 0 ∧ field blockBytes 0x60 32 = 0 ∧
     (∀ n, n < 8 → slotFault blockBytes n = none) ∧
     (∀ n ∈ blockBanks blockBytes, sget none s.subOwner (subId (blockChan blockBytes) n (blockSub blockBytes)) = some s.crew.asid) ∧
     blockArg blockBytes 0 ≠ 0 ∧ ptrFmt (blockArg blockBytes 0) = ptrFmt (blockArg blockBytes 1) ∧
     ptrTag (blockArg blockBytes 0) = ptrTag (blockArg blockBytes 1) ∧ s.settled (.g (fa 0).d.toNat) ∧
     (s.chan (blockChan blockBytes)).queue.outstanding.length < 16) ∧
    (beads [(2, 64)]).source (fa 0).b 64 ∧ 63 < (64 : Word).toNat := by decide +kernel

theorem test_meets_BeadIssue_reads :
    (gives ((beads [(1, 0x1000)] blockBytes).issueRead 0x1000 128)).map (·.1) = some blockBytes ∧
      (beads []).beadQueue 0x30000000 0x30000000 true = .ok 0 :=
  ⟨by decide +kernel, ok_of (by decide +kernel)⟩

theorem test_meets_BeadIssue :
    (let s := beads [(1, 0x30000000), (2, 0)]
     s.source (fa 0).a 0x30000000 ∧ s.source (fa 0).b 0 ∧ (0 : Word).toNat ≤ (s.chan 0).queue.completion ∧
     (s.chan 0).queue.completion < (1 : Word).toNat) ∧
    (let b : Word := 0x10001
     let s := beads [(1, 0xFFC00000), (2, b)]
     s.source (fa 0).a 0xFFC00000 ∧ s.source (fa 0).b b ∧ wbits b 10 0 ≠ 0 ∧ wbits 0xFFC00000 31 22 + wbits b 10 0 ≤ 1024 ∧
     wbits b 63 32 = 0 ∧ wbits b 15 11 = 0 ∧ wbits b 31 16 ≠ 0 ∧
     sget none s.subOwner (subId (wbits 0xFFC00000 50 47 * 32 + wbits 0xFFC00000 46 42) (wbits 0xFFC00000 41 38)
       (wbits 0xFFC00000 37 32)) = some s.crew.asid ∧
     sget none three.subOwner (subId 0 0 0) ≠ some three.crew.asid ∧
     wbits 0 31 16 = 0 ∧ wbits 0 10 0 = 0) ∧
    (∀ sel ∈ [0, 1, 2, 3, 4, 5, 6, 7], let a : Word := word (sel * 2 ^ 32 + 0x30000000)
      (beads [(1, a)]).source (fa 0).a a ∧ wbits a 63 36 = 0 ∧ wbits a 31 0 = 0x30000000 ∧ wbits a 35 32 = sel) ∧
    (three.self.priv = true ∧ (of { strand [] with priv := false }).self.priv = false ∧
     three.settled (.g (fa 0).d.toNat)) := by decide +kernel

/-- A row of bead space that is not the address space's refuses a lane's element; one that is, at the last column, passes. -/
theorem test_meets_BeadIssue_turn : let p : Word := 8 * 2 ^ 51
    (∀ reads : Bool, (beads []).checkBead 0 p (8191 - ptrCol p) [0] reads = .ok ()) ∧
    (match three.checkBead 0 p (8191 - ptrCol p) [0] true with
      | .error (.fault code _) => code == SPACE_RANGE
      | _ => false) = true :=
  ⟨fun r => by cases r <;> exact ok_of_passes (by decide +kernel), by decide +kernel⟩

theorem test_meets_BeadIssue_lanes : let p : Word := 8 * 2 ^ 51
    (∀ reads : Bool, (beads [(1, p), (2, 0)]).checkBead 0 p 0 ((List.range 32).filter (beads []).self.active) reads = .ok ()) ∧
    (beads []).crew.asid = 0 ∧ (8191 : Nat) < 8192 ∧
    (∀ op ∈ [ReqOp.laneLoad p 8191 1, .laneStore p 8191 (-1)], (beads []).ordered { id := 1, who := three.issuer, pc := 0x80, op, kind := .strong, space := .b, addr := p } = true) ∧
    (beads []).laneWaits (wbits p 50 47 * 32 + wbits p 46 42) (wbits p 41 38) (wbits p 37 32) (ptrRows p) = false ∧
    ({ beads [] with claims := [{ q := .bead 0, seq := 1, asid := 0, n := 0, cells := [], spans := [], rows := [0], granted := true }] } : State).laneWaits
      (wbits p 50 47 * 32 + wbits p 46 42) (wbits p 41 38) (wbits p 37 32) (ptrRows p) = true ∧
    (beads []).self.count (container p) = 32 ∧ (beads []).settled ((beads []).self.vdest (fa 0).d.toNat) ∧
    (beads []).sourceV (fa 0).d zeros ∧ (beads []).Inv ∧ wbits p 63 60 ≤ 1 ∧ 7 < wbits p 55 51 :=
  ⟨fun r => by cases r <;> exact ok_of_passes (by decide +kernel), by decide +kernel⟩

/-- A control-store image whose words are all ACT of row 0, and one with a wrong entry. -/
def image : List Byte := List.replicate 4224 0
def wrongImage : List Byte := leBytes 2 0x100 ++ List.replicate 4222 0

theorem test_meets_BeadSupervisorIssue_image :
    (List.range 66).mapM (fun i => (beads [(1, 0x1000)]).strongRead (0x1000 + word (64 * i)) 64) =
        .ok (List.replicate 66 (List.replicate 64 0)) ∧
      (List.replicate 66 (List.replicate 64 (0 : Byte))).flatten = image ∧ imageFault wrongImage = some 0 :=
  ⟨ok_of (by decide +kernel), List.flatten_replicate_replicate, by decide +kernel⟩

theorem test_meets_BeadSupervisorIssue_ready : imageFault image = none := by
  have h (n : Nat) : leNat (List.replicate n 0#8) = 0 := by
    induction n with
    | zero => rfl
    | succ n ih => simp [List.replicate_succ, leNat, ih]
  have h0 (o n : Nat) : field image o n = 0 := by
    simp only [field, slice, image, List.drop_replicate, List.take_replicate, List.replicate_append_replicate]
    exact h _
  have h1 : micro 0 = ⟨0, false, false, 0, 0, 0, 0, 0, false, 0, 0⟩ := by decide
  have h2 : (List.range 64).filterMap (entryStart image) = [] := by
    simp [List.filterMap_eq_nil_iff, entryStart, h0]
  have h3 : (⟨0, false, false, 0, 0, 0, 0, 0, false, 0, 0⟩ : Micro).ok = true := by decide
  simp only [imageFault, h0, h2]
  have h4 (l : List Nat) : l.find? (fun _ => false) = none := by induction l <;> simp_all
  simp [microAt, h0, h1, h3, h4, bitsOf]

/-- Micro-words from their fields: OP, flags in bits 123 and 122, operands, CSEL, COND, TGT. -/
def mw (op rs a b c csel cond tgt : Nat) : List Byte :=
  leBytes 16 (op * 2 ^ 124 + rs * 2 ^ 122 + a * 2 ^ 104 + b * 2 ^ 88 + c * 2 ^ 72 + csel * 2 ^ 70 + cond * 2 ^ 68 + tgt * 2 ^ 56)
/-- A channel whose store begins with a word, whose entry 0 starts at it, and that runs an entry in bank 0. -/
def runs (w : List Byte) (e : Entry → Entry) : Chan :=
  { store := leBytes 2 0x8000 ++ List.replicate 126 0 ++ w
    queue := { issue := 1, cmds := [{ seq := 1, pc := 0x80, who := {}, op := .bcall {}, args := [0], bytes := blockBytes }] }
    entry := some (e { cmd := { seq := 1, pc := 0x80, who := {}, op := .bcall {}, args := [0], bytes := blockBytes }, banks := [0] }) }
/-- A channel 0 with tower 0 up. -/
def channel (l : List (Nat × Word)) (c : Chan) : State :=
  { beads l with chans := [(0, c)], mod := { State.reset.mod with tup := 1 } }

theorem test_meets_BeadSupervisorIssue :
    (let s := beads [(1, 0x1000), (2, 0x30000000)]
     s.source (fa 0).a 0x1000 ∧ s.source (fa 0).b 0x30000000 ∧ s.mod.duty.getLsbD 2 = false ∧ canonical 0x1000 = true ∧
     0x1000 % 64 = 0 ∧ (s.chan 0).queue.outstanding.length < 16 ∧ canonical 0x8000000000000000 = false ∧
     canonical 0x1001 = true ∧ (0x1001 : Word).toNat % 64 ≠ 0 ∧ (0x30000000 : Word).toNat = 3 * 2 ^ 28 ∧
     (0x3F00001F : Word).toNat = 3 * 2 ^ 28 + 511 / 32 * 2 ^ 24 + 511 % 32) ∧
    (let s := channel [(1, 0x30000000), (2, 0xFFFFFFFF)] (runs (mw 5 0 0 0 0 0 0 0) (fun e => { e with atRep := true }))
     s.source (fa 0).a 0x30000000 ∧ s.source (fa 0).b 0xFFFFFFFF ∧ (s.chan 0).parkersDone = [] ∧ (s.chan 0).parked = 0 ∧
     (s.chan 0).entry.map (·.atRep) = some true ∧ s.chanDown 0 = false ∧ (0xFFFFFFFF : Word).toNat < 2 ^ 32 ∧
     2 ^ 32 ≤ (0x100000000 : Word).toNat ∧ wbits 0x1FFFF 63 17 = 0 ∧ wbits 0x20000 63 17 ≠ 0) ∧
    (let s := channel [(1, 0x30000000)] (runs [] id)
     (s.chan 0).entry.map (·.atRep) = some false ∧ (s.chan 0).parkers = [] ∧ (s.chan 0).parked = 0 ∧
     (beads []).chan 0 = {} ∧
     (channel [] { runs [] id with parked := 1 }).chan 0 = { runs [] id with parked := 1 }) := by decide +kernel

/-- A channel with one command at its head. -/
def heads (op : Instr) (a b : Word) (bytes : List Byte := []) : State :=
  channel [] { queue := { issue := 1, cmds := [{ seq := 1, pc := 0x80, who := {}, op, args := [a, b], bytes }] } }

/-- A crane command that owns a row. -/
def rowOwner (row : Nat) : Claim :=
  { q := .crane 1 0, seq := 1, asid := 0, n := 0, cells := [], spans := [], rows := [row], granted := true }

theorem test_meets_BeadCommands :
    (∀ op ∈ [Instr.block (fa 0), .bunlk (fa 0), .bseal (fa 0), .bcsl (fa 0), .bmode (fa 0), .bmode (fa 1), .bmode (fa 2),
        .bpart (fa 0), .bscrub (fa 0)], let s := heads op 0xFFC00000 0x10001
      s.args.unit = 0 ∧ ((s.beadHead 0).map (fun c => (c.op, c.args.getD 0 0, c.args.getD 1 0))) = some (op, 0xFFC00000, 0x10001) ∧
        (s.beadHead 0).map (fun c => (gives (s.rowClaim 0 c)).isSome) = some true) ∧
    (∀ op ∈ [Instr.block (fa 0), .bunlk (fa 0), .bseal (fa 0), .bpart (fa 0), .bscrub (fa 0)],
      let s : State := { heads op 0xFFC00000 0x10001 with claims := [rowOwner 1023] }
      (s.beadHead 0).map (fun c => (gives (s.rowClaim 0 c)).isSome) = some false) ∧
    (let rows := (List.range (wbits 0x10001 10 0)).map (fun i => wbits 0xFFC00000 31 22 + i)
     let s := (heads (.block (fa 0)) 0xFFC00000 0x10001).setLock 0 0 0 1023 2
     rows.find? (fun r => s.lockOf 0 0 0 r != 0 && s.lockOf 0 0 0 r != 1) = some 1023 ∧
     rows.find? (fun r => three.lockOf 0 0 0 r != 0 && three.lockOf 0 0 0 r != 1) = none) ∧
    (let s := three.setChan 0 (fun c => { c with mode := [0, 1, 1, 1, 1, 0, 0, 0, 0, 0, 0, 0, 0, 0, 0, 0] })
     4 ≤ ((List.range 16).filter (fun i => i != 0 && ((s.chan 0).mode[i]?).getD 0 = 1)).length ∧
     ((List.range 16).filter (fun i => i != 1 && ((s.chan 0).mode[i]?).getD 0 = 1)).length < 4) ∧
    (sget none (beads []).subOwner (subId 0 0 0) = some 0 ∧ sget none three.subOwner (subId 0 0 0) = none ∧
     (0 : BitVec 16) ≠ (0x10001 : Word).setWidth 16) ∧
    (let s : State := { heads (.bscrub (fa 0)) 0xFFC00000 0x10001 with args := { flag := true, sub := 1023 } }
     s.args.flag = true ∧ s.args.sub ∈ [1023] ∧ s.stateOfRow 0 0 0 s.args.sub = .isSealed ∧ three.args.flag = false) ∧
    (heads (.bpart (fa 0)) 0 0x10001).Inv := by decide +kernel

/-- A channel whose run command is at its head, bank 0 in compute mode. -/
def calls (w : List Byte) : State :=
  channel [] { runs w id with entry := none, mode := 1 :: List.replicate 15 0 }

theorem test_meets_BeadEntries :
    (let s := calls (mw 0 0 5 0 0 0 0 0 ++ mw 8 0 0 0 0 0 0 0)
     let bs := blockBytes
     (s.beadHead 0).map (fun c => (c.op, c.args, c.bytes)) = some (.bcall {}, [0], bs) ∧
     entryStart (s.chan 0).store 0 = some 0 ∧ (entryReads (s.chan 0).store 0 ++ entryWrites (s.chan 0).store 0) = [5] ∧
     slotsOf [5] = [] ∧ blockBanks bs = [0] ∧ rowsOf bs [5] = [5] ∧ ((s.chan 0).mode[0]?).getD 0 = 1 ∧
     s.lockOf 0 0 0 5 = 0 ∧ blockKey bs = 0 ∧ (s.setLock 0 0 0 5 7).lockOf 0 0 0 5 = 7 ∧
     (s.beadHead 0).map (fun c => ((gives (s.rowClaim 0 c)).isSome, (gives (({ s with claims := [rowOwner 5] } : State).rowClaim 0 c)).isSome)) =
       some (true, false)) ∧
    (let s := calls (mw 0 0 5 0 0 0 0 0 ++ mw 8 0 0 0 0 0 0 0)
     let free (t : State) (b r : Nat) : Bool := t.lockOf 0 b 0 r == 0 || t.lockOf 0 b 0 r == blockKey blockBytes
     (blockBanks blockBytes).filter (fun b => ((s.chan 0).mode[b]?).getD 0 != 1) = [] ∧
     (blockBanks blockBytes).filter (fun b => ((three.chan 0).mode[b]?).getD 0 != 1) ≠ [] ∧
     (let t := s.setLock 0 0 0 5 7
      ((blockBanks blockBytes).filter (fun b => (rowsOf blockBytes [5]).any (fun r => !free t b r))).head? = some 0 ∧
      (rowsOf blockBytes [5]).find? (fun r => !free t 0 r) = some 5)) ∧
    (entryStart (heads (.bcall {}) 0 0 blockBytes |>.chan 0).store 0 = none ∧
     slotsOf [0x4000 + 2048] = [1] ∧ blockArg (List.replicate 128 0) 1 = 0 ∧
     ((three.chan 0).mode[0]?).getD 0 ≠ 1) ∧
    (let s := channel [] (runs [] (fun e => { e with wd := 3, count := 3 }))
     (s.chan 0).entry.map (fun e => (e.wd, decide (e.wd ≤ e.count + (s.tide - e.since)))) = some (3, true) ∧
     (s.chan 0).parked = 0 ∧ 0 < (s.chan 0).queue.issue ∧ s.chains = []) ∧
    (let s := channel [] (runs [] (fun e => { e with wd := 3, count := 2 }))
     (s.chan 0).entry.map (fun e => decide (e.count + (s.tide - e.since) < e.wd)) = some true ∧ (three.chan 0).entry = none) ∧
    (let s := three.setChan 0 (fun c => { c with mode := 2 :: List.replicate 15 0 })
     s.args.sub = 0 ∧ ((s.chan 0).mode[0]?).getD 0 = 2 ∧ ((s.chan 0).power[0]?).getD 0 = 0 ∧ s.bankLive 0 0 = false ∧
     ({ s with workRows := [(0, some 5)] } : State).bankLive 0 0 = true) := by decide +kernel

theorem test_meets_BeadWords : ∀ op ∈ List.range 9, let c := runs (mw op 0 5 6 7 0 0 0) id
    c.parked = 0 ∧ (microAt c.store 0).op = op ∧ c.parkers = [] ∧
      c.entry.map (fun e => (e.upc, e.banks, e.failed)) = some (0, [0], []) ∧
      c.entry.map (fun e => (e.due 0, e.ctr.getD 0 1)) = some (false, 1) := by decide +kernel

/-- An entry that runs AAP of row 5 into row 6 in three banks, row 5 of the second and of the third in the given states; and
which of its banks end in which way. -/
def spread (x y : RowState) : State :=
  ((channel [] (runs (mw 1 0 5 6 7 0 0 0) (fun e => { e with banks := [0, 1, 2] }))).setRowState 0 1 0 5 x).setRowState 0 2 0 5 y
def fates (s : State) : List (Option WordStop) :=
  [0, 1, 2].map (fun i => match s.wordIn 0 i 0 (microAt (s.chan 0).store 0) (.data 5) (.data 6) (.data 7) 0 with
    | .error e => some e
    | .ok _ => none)

theorem test_meets_BeadWords_banks :
    fates (spread .isSealed .unsealed) = [none, none, none] ∧ fates (spread .poisoned .isSealed) = [none, some (.poison 5), none] ∧
      fates (spread .expired .poisoned) = [none, some (.watchdog 5), some (.poison 5)] ∧
      fates ((spread .poisoned .poisoned).setRowState 0 0 0 5 .poisoned) = [some (.poison 5), some (.poison 5), some (.poison 5)] ∧
      (let s := spread .isSealed .isSealed
       s.mod.tup.getLsbD (0 / 32) = true ∧ s.chanDown 0 = false ∧ s.Inv ∧ s.args.unit = 0 ∧ [0, 1, 2].Nodup ∧
       (s.chan 0).entry.map (fun e => (e.banks, e.failed, e.rowRef (microAt (s.chan 0).store 0) 5, e.due s.tide)) =
         some ([0, 1, 2], [], some (.data 5), false)) := by decide +kernel

theorem test_meets_BeadWords_operands : let e : Entry := { cmd := craneCmd }
    let m := micro 0
    e.rowRef m 5 = some (.data 5) ∧ e.rowRef m 0x8006 = some (.work 6) ∧ e.rowRef m 0xC001 = some (.const true) ∧
      e.rowRef m 0x4001 = none := by decide +kernel

theorem test_meets_BeadWords_flow :
    (runs (mw 5 0 0 0 0 1 0 0) (fun e => { e with ctr := [1, 2, 1, 1] })).entry.map (fun e => e.ctr.getD 1 1) = some 2 ∧
      (micro (leNat (mw 5 0 0 0 0 1 0 0))).csel = 1 ∧ (micro (leNat (mw 8 1 0 0 0 0 0 0))).sealRows = true ∧
      (micro (leNat (mw 8 0 0 0 0 0 0 0))).sealRows = false ∧
      (channel [] (runs [] id)).args.unit = 0 ∧ ((channel [] (runs [] id)).chan 0).entry.isSome = true := by decide +kernel

/-- What reading a row operand answers: its row, or the row it fails on. -/
def reads (x : Except WordStop Row) : Option Row × Option WordStop :=
  match x with
  | .ok v => (some v, none)
  | .error e => (none, some e)

theorem test_meets_BeadWords_rows :
    reads (three.readRef 0 0 0 (.data 5)) = (some 0, none) ∧
      reads ((three.setRowState 0 0 0 5 .expired).readRef 0 0 0 (.data 5)) = (none, some (.watchdog 5)) ∧
      reads ((three.setRowState 0 0 0 5 .poisoned).readRef 0 0 0 (.data 5)) = (none, some (.poison 5)) := by decide +kernel

theorem test_meets_BeadRowOperands :
    (7 : Nat) < 8 ∧ 1023 < 1024 ∧ sget none three.workRows (subId 0 0 0 * 8 + 7) = none ∧ three.Inv ∧
      (three.setRowState 0 0 0 1023 .expired).stateOfRow 0 0 0 1023 = .expired ∧
      (three.setRowState 0 0 0 1023 .poisoned).stateOfRow 0 0 0 1023 = .poisoned := by decide +kernel

/-! ## Meets: homes, translation, registers, the host's memory -/

/-- One access of the strand to the page of `mapped`, at its place, in flight. -/
def asked (op : ReqOp) (kind : Kind) (held : Bool := false) : State :=
  { mapped [] with
    reqs := [{ id := 1, who := three.issuer, pc := 0x80, op, kind, space := .g, addr := 0x1000, place := some spot.place, held }]
    args := { unit := 1 } }
def line : Nat := spot.place / 128
/-- A copy of that line in the strand's core. -/
def copy : Copy :=
  { holder := .l1 0, asid := 0, vline := 0x20, line, unit := line, user := true, data := List.replicate 128 0, expiry := 9 }

theorem test_meets_HomePerforms : ∀ x ∈ [(ReqOp.load 8 false, Kind.weak), (.store [1], .weak), (.store [1], .strong),
      (.amo 0 8 5, .strong), (.famo 0 5, .strong)], let s := asked x.1 x.2
    s.Inv ∧ (s.req s.args.unit).map (fun r => (r.op, r.kind, r.place, r.space)) = some (x.1, x.2, some spot.place, .g) ∧
      s.reqs.all s.ordered = true ∧ s.stuck spot.place = false ∧ spot.place % 128 + x.1.size ≤ 128 ∧
      s.reqs.all (fun r => !s.poisonHits r spot.place) = true ∧ s.args.serve = .home ∧ Place.isG spot.place = true ∧
      s.ownedAt spot.place x.1.size = false ∧
      s.reqs.all (fun r => s.elementsWith r == [r] && !s.behind r && !s.veiled r.who false spot.place x.1.size r.op.writes) = true ∧
      s.mayLease line = true ∧ ({ s with lineHolds := [⟨1, 1, line, 0⟩] } : State).mayLease line = false ∧
      s.reqs.all (fun r => r.unit s == line && !r.held) = true ∧ s.lineHolds = [] ∧ sget 0 s.lexp line ≤ s.tide ∧
      s.reqs.all (fun r => r.who.crew != 0) = true ∧ ({ s with lexp := [(line, 5)] } : State).tide < sget 0 [(line, 5)] line := by
  decide +kernel

theorem test_meets_HomePerforms_room : ∀ x ∈ [(ReqOp.load 8 false, Kind.weak), (.store [1], .weak), (.store [1], .strong),
      (.amo 0 8 5, .strong), (.famo 0 5, .strong)], let s := asked x.1 x.2
    s.hostHeld spot.place x.1.size = false ∧ s.waiters = [] ∧
      s.sliceUsed (sliceOf spot.place) < s.sliceLines (sliceOf spot.place) ∧
      s.reqs.all (fun r => !s.leased r spot.place && ({ s with lexp := [(line, 5)] } : State).leased r spot.place) = true := by
  decide +kernel

theorem test_meets_HomePerforms_held : ∀ op ∈ [ReqOp.store [1], .amo 0 8 5], let s := asked op .strong true
    s.reqs.map (fun r => (r.held, s.ordered r, s.behind r)) = [(true, true, false)] ∧ sget 0 s.lexp line ≤ s.tide ∧
      (ReqOp.amo 0 8 5).isRmw = true := by decide +kernel

theorem test_meets_HomePerforms_copy :
    let s : State := { asked (.load 8 false) .weak with copies := [copy], args := { unit := 1, serve := .copy 0 } }
    s.copies[0]? = some copy ∧ s.args.serve = .copy 0 ∧ copy.serves s 0 0x1000 = true ∧ copy.read = true ∧ copy.user = true ∧
      three.issuer.user = false ∧
      s.reqs.map (fun r => (r.who.asid, r.addr, r.holder s)) = [(0, 0x1000, copy.holder)] ∧ copy.line = spot.place / 128 ∧
      s.reqs.all (fun r => s.coherent copy r) = true ∧ s.history = [] ∧ s.tide < copy.expiry ∧ ({ s with args := { serve := .miss } } : State).args.serve = .miss := by decide +kernel

/-- A strong load whose strand has read the word in a newer state than the copy's. -/
theorem test_meets_HomePerforms_stale :
    let w := wordsAt spot.place 8
    let s : State := { asked (.load 8 false) .strong with
      copies := [copy], args := { unit := 1, serve := .copy 0 }
      history := [{ id := 5, crew := 2, writes := true, words := w }, { id := 0, crew := 1, reads := true, words := w, stamp := 1 }] }
    s.copies[0]? = some copy ∧ s.reqs.all (fun r => !s.coherent copy r && r.kind != .weak) = true ∧
      s.reqs.all (fun r => !s.veiled r.who false (128 * copy.line + r.addr.toNat % 128) 8 false) = true := by decide +kernel

theorem test_meets_AtomicOperations : (8 : Nat) = 8 ∧ (5 : Word) = 5 ∧ (5 : Word) ≠ 6 := by decide

/-- One access of the strand that is not translated yet. -/
def untranslated (addr : Word) : State :=
  { mapped [] with
    reqs := [{ id := 1, who := three.issuer, pc := 0x80, op := .load 8 false, kind := .weak, space := .g, addr }]
    args := { unit := 1, flag := true } }
/-- How a translation ends: at a place, or with its error. -/
def ends (x : Except TErr Trans) : Option Trans × Option TErr :=
  match x with
  | .ok t => (some t, none)
  | .error e => (none, some e)
/-- A state whose tower 0 has an address space table at 0 of policy 1. -/
def tabled (s : State) (bytes : List Byte) : State :=
  { s.setTower 0 (fun x => { x with astbase := 0x81 }) with mem := Memory.setBytes [] 0 bytes }

theorem test_meets_FillsWalksAndReturns :
    (∀ x ∈ [(ReqOp.load 8 false, Kind.weak), (.store [1], .weak), (.store [1], .strong), (.amo 0 8 5, .strong)],
     let f : InFlight := { lines := [2 ^ 54], reqs := [1] }
     let s : State := { asked x.1 x.2 with inflight := [f], args := { unit := 2 ^ 54 } }
     let up : State := { s with mod := { s.mod with ports := [true] } }
     s.inflight = [f] ∧ f.lines = [s.args.unit] ∧ f.moving = false ∧ f.spilled = [] ∧ (s.req 1).isSome = true ∧
     2 ^ 60 ≤ 128 * s.args.unit ∧ up.unreachable (128 * s.args.unit) = false ∧ s.unreachable (128 * s.args.unit) = true ∧
     (x.1.isLoad || (x.1.isStore && x.2 == .weak) || x.1.isRmw || (x.1.isStore && x.2 != .weak)) = true) ∧
    (let s := untranslated 0x1000
     (s.req s.args.unit).map (fun r => (r.space, r.place, r.op.isFence, s.slotOf r.who)) = some (.g, none, false, 0) ∧
     s.args.flag = true ∧ (s.crewById 1).saved = false ∧ ends (s.translate 0 0 false .r 0x1000) = (some spot, none)) ∧
    ends ((untranslated 0).translate 0 0 false .r (word (2 ^ 35))) = (none, some .absent) ∧
    ends (((tabled three []).setTower 0 (fun x => { x with layersDown := [0] })).translate 0 0 false .r 0x1000) =
      (none, some (.waits 0)) ∧
    ends (({ tabled three [] with poison := [(0, true)] } : State).translate 0 0 false .r 0x1000) = (none, some .poisoned) ∧
    (three.issuer.ctx ≠ bootCtx ∧ three.issuer.crew = three.self.crew ∧ three.issuer.idx = three.self.idx) ∧
    ends ((tabled three []).translate 0 0 false .r 0x1000) = (none, some .noSpace) ∧
    ends (three.translate 0 0 false .r 0x100000000000000) = (none, some .noncanon) ∧
    ends (three.translate 0 0 true .r 0x1000) = (none, some .perm) := by decide +kernel

theorem test_meets_FillsWalksAndReturns_line :
    (let f : InFlight := { lines := [line], reqs := [1] }
     let s : State := { asked (.load 8 false) .weak with inflight := [f], args := { unit := line } }
     s.inflight = [f] ∧ f.lines = [s.args.unit] ∧ s.unreachable (128 * s.args.unit) = false ∧ 128 * line < 2 ^ 60) ∧
    (let s : State := { three with tideOn := true, cores := [(0, {})] }
     s.tideOn = true ∧ s.cores.all (fun e => e.2.work == 0) = true) := by decide +kernel

theorem test_meets_FillsWalksAndReturns_results :
    let l : Return := { id := 1, crew := 1, idx := 0, dest := .g 5, data := (leBytes 8 7).map some }
    let s : State := { three with returns := [l], args := { unit := 1 } }
    s.returns.find? (fun e => e.id == s.args.unit) = some l ∧ (s.crewById l.crew).saved = false ∧
      none ∈ ({ l with data := [none] } : Return).data ∧ three.tideOn = false ∧ s.inflight = [] := by decide +kernel

/-- A supervisor's store of a doubleword to the register window, in order. -/
def writes (off : Nat) (v : Word) (s : State) : State :=
  { s with reqs := [{ id := 1, who := s.issuer, pc := 0x80, op := .store (leBytes 8 v.toNat), kind := .strong, space := .win, addr := word off }] }
/-- What the register write that is in order writes. -/
def written (s : State) (off : Nat) : Option Word := (s.windowStore off).map (·.2)

theorem test_meets_TranslationEvents_registers :
    written (writes 0x200098 7 three) 0x200098 = some 7 ∧ written (writes 0x200010 1 three) 0x200010 = some 1 ∧
      written (writes 0x200028 1 three) 0x200028 = some 1 ∧ written (writes 0x20F098 7 three) (0x200000 + 0x1000 * 15 + 0x98) = some 7 ∧
      three.windowStore 0x40028 = none ∧ 0x40028 < 0x41000 ∧ (three.tower 0).kslot = 0 ∧
      ((three.setTower 0 (fun x => { x with kslot := 5 })).tower 0).kslot ≠ 0 ∧ (three.tower 0).sdbusy = false ∧
      ((three.setTower 0 (fun x => { x with sdbusy := true })).tower 0).sdbusy = true ∧ 0 < three.towers.length ∧
      (0 : Word).getLsbD 0 = false ∧ (1 : Word).getLsbD 0 = true ∧ three.reqs = [] ∧
      ({ State.reset.mod with ports := [true] } : Module).ports.any (fun up => up) = true ∧ (15 : Nat) < 16 ∧
      ((three.setTower 0 (fun x => { x with mgbusy := true })).tower 0).mgbusy = true ∧ (three.tower 0).mgbusy = false := by decide +kernel

theorem test_meets_TranslationEvents_waits :
    (let s := (asked (.load 8 false) .weak).setTower 0 (fun x => { x with sdbusy := true, sdmark := 2, sdrun := (0, 0, 3) })
     (s.crewById 1).saved = false ∧ s.reqs.all (fun r => r.id < (s.tower 0).sdmark && r.who.asid == (s.tower 0).sdrun.2.1 && r.space == .g && r.place.isSome &&
       inShoot (s.tower 0).sdrun.2.2.toNat (s.tower 0).sdrun.1 r.addr) = true ∧ s.reqs ≠ []) ∧
    (let c : Claim := { q := .crane 1 0, seq := 1, asid := 0, n := 1, cells := [{ va := 0x1000, place := spot.place }], spans := [], granted := true }
     c.granted = true ∧ c.asid = 0 ∧ c.cells.all (fun e => Place.isG e.place && inShoot 3 0 e.va) = true) ∧
    (three.claims = [] ∧ (tabled three []).walk 0 5 0 = .noSpace) := by decide +kernel

/-- A page table of one space: at 0 its entry, and tables from 0x1000 on whose first entries lead to an entry of level 0. -/
def tables (e : Nat) : Memory :=
  [(0, 0x1081), (0x1000, 0x2081), (0x2000, 0x3081), (0x3000, 0x4081), (0x4000, 0x5081), (0x5000, e)].foldl
    (fun m x => Memory.setBytes m (three.placeOf 1 0 x.1 0) (leBytes 8 x.2)) []
/-- A state with that table, a migration under way, and a page fault of the given state. -/
def paged (e : Nat) (state : Nat) (duty : BitVec 4) : State :=
  { (tabled three []).setTower 0 (fun x => { x with
      mgbusy := true, mgva := 0x40, mgdst := 0x20080, mgrun := (0x40, 0, 0x20080) }) with
    mem := tables e
    pageFaults := [{ id := 1, asid := 0, addr := 0x40, tower := 0, state }]
    args := { unit := 1, value := 0 }
    mod := { State.reset.mod with duty, frlog := 3 } }

theorem test_meets_TranslationEvents_walk :
    (paged 0x100000B7 0 0).walk 0 0 0x40 = .leaf (leafOf 0 0x100000B7 (three.placeOf 1 0 0x5000 0) 0) 0 ∧
    (paged 0 0 1).walk 0 0 0x40 = .absent 0 0 (three.placeOf 1 0 0x5000 0) 0 ∧ bitsOf 0 2 1 = 0 ∧
    (paged 0 0 0).mod.duty.getLsbD 0 = false ∧ (paged 0 0 1).mod.duty.getLsbD 0 = true ∧ canonical 0x40 = true ∧
    ((paged 0 0 0).tower 0).astbase.getLsbD 0 = true ∧ ((paged 0 0 0).tower 0).mgbusy = true ∧
    ((paged 0 0 0).tower 0).mgleaf = none ∧
    ((paged 0 0 0).setTower 0 (fun x => { x with layersDown := [0] })).walk 0 0 0x40 = .waits 0 ∧
    (paged 0 0 0).pageFaults.all (fun f => f.source == []) = true := by decide +kernel

theorem test_meets_TranslationEvents_records :
    (let s := paged 0 1 0
     let m := s.mod
     s.pageFaults.map (fun f => (f.id, f.kind, f.state)) = [(1, 1, 1)] ∧ s.args.unit = 1 ∧
     let p := Place.host (m.frbase.toNat + 32 * (m.frtail.toNat % 8))
     let up : State := { s with mod := { m with ports := [true] } }
     m.frtail.toNat - m.frhead.toNat < 2 ^ min m.frlog.toNat 16 ∧ s.stuck p = true ∧ up.stuck p = false ∧
     up.ownedAt (p / 128 * 128) 128 = false ∧ up.hostHeld p 32 = false ∧ up.leasedAt p 32 = false ∧
     ({ up with lexp := [(p / 128, 9)] } : State).leasedAt p 32 = true ∧
     ({ m with frtail := 8 } : Module).frtail.toNat - m.frhead.toNat ≥ 2 ^ min m.frlog.toNat 16) ∧
    (let s := paged 0 2 0
     s.pageFaults.map (fun f => (f.kind, f.state, f.seq)) = [(1, 2, 0)] ∧ wbits 0 31 1 = 0 ∧ 0 = wbits 0 63 32 ∧
     0 ≠ wbits 0x100000000 63 32 ∧ wbits 0x100000001 31 1 = 0 ∧ s.hostAcquires 0x40028 = true ∧
     ({ s with reqs := [{ id := 1, who := { ctx := 65 }, pc := 0, op := .store [1], kind := .strong, space := .g, addr := 0 }] } :
       State).hostAcquires 0x40028 = false ∧
     ({ State.reset.mod with ports := [true] } : Module).ports.any (fun up => up) = true) := by decide +kernel

/-- A migration of a resident page to another frame, and one whose frame has a SKEW that is reserved. -/
theorem test_meets_TranslationEvents_absent : 3 ≤ bitsOf 0x10600 11 9 ∧ bitsOf 0x10300 11 9 ≠ 0 ∧ 2 ≤ bitsOf 0x10300 8 7 ∧
    bitsOf 0x10080 11 9 = 0 ∧ bitsOf 0x10200 11 9 < 3 ∧ bitsOf 0x10200 8 7 < 2 ∧
    three.rangeOk (bitsOf 0x10080 8 7) 0 (bitsOf 0x10080 51 12 * 4096) 65536 = true := by decide +kernel

theorem test_meets_TranslationEvents_move : let s := tabled three (leBytes 8 0x87)
    (s.migrate 0 0 0x40 (some ({ leaf with policy := 1, base := 0x30000, entry := 0 }, 0x87)) 0x10080).2 = some 0 ∧
      3 ≤ bitsOf 0x10680 11 9 ∧ bitsOf 0x10080 11 9 < 3 ∧ s.rangeOk (bitsOf 0x10080 8 7) 0 (bitsOf 0x10080 51 12 * 4096) 65536 = true ∧
      (({ s with lexp := [(0, 9)] } : State).migrate 0 0 0x40 (some ({ leaf with policy := 1, base := 0x30000, entry := 0 }, 0x87)) 0x10080).2 = none := by
  decide +kernel

theorem test_meets_RegisterEvents :
    (∀ off ∈ [0x3F000, 0x3F018, 0x3F040, 0x3F028, 0x3F030, 0x40000, 0x40020, 0x40008, 0x40040],
      three.windowStore off = none ∧ off < 0x41000) ∧
    (∀ off ∈ [0x110030, 0x110068, 0x110000, 0x110038], written (writes off 9 three) off = some 9) ∧
    (three.ctxs.any (fun c => c.en) = false ∧ (three.setCtx 3 (fun c => { c with en := true })).ctxs.any (fun c => c.en) = true) ∧
    (let m : Module := { State.reset.mod with fusesvn := 2 }
     ((0x100000000 : Word).extractLsb' 32 32).toNat < m.fusesvn.toNat ∧
     m.fusesvn.toNat ≤ ((0x200000000 : Word).extractLsb' 32 32).toNat) ∧
    (({} : Ctx).en = false ∧ ({ ({} : Ctx) with en := true } : Ctx).en = true ∧ three.args.flag = false) ∧
    (({ State.reset.mod with ports := [true] } : Module).ports.any (fun up => up) = true ∧ three.hostAcquires 0x3F018 = true ∧
     ({ three with reqs := [{ id := 1, who := { ctx := 65 }, pc := 0, op := .store [1], kind := .strong, space := .g, addr := 0 }] } :
       State).hostAcquires 0x3F018 = false) ∧
    (({ State.reset.mod with duty := 4 } : Module).duty.getLsbD 2 = true ∧ 511 < 512 ∧
     wbits 0x3F00001F 31 0 = 3 * 2 ^ 28 + 511 / 32 * 2 ^ 24 + 511 % 32) := by decide +kernel

theorem test_meets_RegisterEvents_image :
    three.bytesAt none (Place.host three.mod.csladdr.toNat) 4224 = image := by
  have h (p : Nat) : three.underKey none p (Memory.get [] p) = 0 := by
    simp only [State.underKey, show sget none three.lineKey (p / 128) = none from rfl, decide_true, Bool.or_true, Bool.true_or,
      if_true]
    rfl
  simp only [State.bytesAt, image, show three.mem = [] from rfl, List.dropWhile_nil, h, List.map_const', List.length_range]

theorem test_meets_HostMemory :
    (let s : State := { three with mod := { State.reset.mod with ready := true, tup := 1, ports := [true] }, args := { sub := 1, bytes := List.replicate 8 1 } }
     s.mod.ports.any (fun x => x) = true ∧ three.mod.ports.all (fun up => !up) = true ∧ s.readable 0 = true ∧
     s.ownedAt 0 1 = false ∧ s.waiters = [] ∧ s.mod.ready = true ∧ s.args.sub = 1 ∧ s.hdmPlace s.args.unit = some 0 ∧ s.stuck 0 = false ∧ s.Inv ∧ s.args.bytes ≠ [] ∧
     0 % 128 + s.args.bytes.length ≤ 128 ∧ s.reqs = [] ∧ s.lineHolds = [] ∧ s.copies = [] ∧ s.ranges = [] ∧
     sget 0 s.lexp (0 / 128) ≤ s.tide ∧ s.args.bytes.length % 8 = 0 ∧ s.leaseWaits = [] ∧ three.mod.ready = false ∧
     s.claims = [] ∧ (s.crewById 0).saved = false ∧
     three.hdmPlace 0 = none) ∧
    (let s : State := { beads [] with mod := { State.reset.mod with ready := true, tup := 1, ports := [true] } }
     s.mod.ports.any (fun x => x) = true ∧ s.mod.tup.getLsbD (0 / 2 ^ 35 % 16) = true ∧ s.hdmPlace 0 = none) ∧
    (let s : State := { three with args := { unit := 2 ^ 54 }, mod := { State.reset.mod with ports := [true] } }
     s.stuck (128 * s.args.unit) = false ∧ s.ownedAt (128 * s.args.unit) 128 = false ∧ s.args.unit / 2 ^ 53 = 2 ∧ s.args.bytes = [] ∧
     s.leasedAt (128 * s.args.unit) 128 = false ∧
     ({ s with lexp := [(2 ^ 54, 5)] } : State).leasedAt (128 * s.args.unit) 128 = true) := by decide +kernel

/-! ## Meets: the pilot's events -/

/-- A context whose rings lie on the page of `mapped`; its doorbell is one ahead. -/
def ringCtx : Ctx := { en := true, lrbase := 0x1000, lrtail := 1, crbase := 0x2000 }
/-- A record of one crew of one strand that may run on tower 0; and a launch of it. -/
def record : List Byte := List.replicate 18 0 ++ [1] ++ List.replicate 109 0
def launched (c : Ctx) (bytes : List Byte := record) : State :=
  { mapped [] bytes with ctxs := c :: List.replicate 64 {}, mod := { State.reset.mod with ready := true, tup := 1 } }

theorem test_meets_LaunchEvents_fetch :
    (let s := launched ringCtx
     let begun := s.setCtx 0 (fun c => { c with run := true, launch := some {} })
     s.args.unit = 0 ∧ s.ctxs[0]? = some ringCtx ∧ ringCtx.en = true ∧ ringCtx.run = false ∧
     ringCtx.lrhead.toNat < ringCtx.lrtail.toNat ∧ s.mod.ready = true ∧
     ends (begun.translate begun.pilotTower 0 false .r 0x1000) = (some spot, none) ∧ begun.readable spot.place = true ∧
     begun.poisonedAt spot.place 128 = false ∧ begun.bytesAt none spot.place 128 = record ∧
     (let fresh := begun.newMid.2.record
        { reads := true, strong := true, words := wordsAt spot.place 128, stamp := begun.newMid.2.writes }
      fresh.checkManifest { ctx := 0, asid := 0 } 0 true record = none ∧
      fresh.checkManifest { ctx := 0, asid := 0 } 0 true blank = some ILL_FIELD) ∧ begun.ownedAt spot.place 128 = false ∧
     ({ begun with claims := [{ q := .crane 1 0, seq := 1, asid := 0, n := 8, cells := [{ va := 0x1000, place := spot.place }], spans := [(spot.place, 8)], granted := true }] } :
       State).ownedAt spot.place 128 = true ∧
     (begun.setTower 0 (fun x => { x with layersDown := [0] })).readable spot.place = false ∧
     ({ begun with poison := [(spot.place / 8, true)] } : State).poisonedAt spot.place 128 = true) ∧
    (launched { ringCtx with en := false }).ctxs[0]? = some { ringCtx with en := false } := by decide +kernel

theorem test_meets_LaunchEvents_refused :
    ends (three.translate three.pilotTower 0 false .r 0x100000000000000) = (none, some .noncanon) ∧
      ends ((tabled three []).translate 0 0 false .r 0x1000) = (none, some .noSpace) ∧
      ends ((paged 0x100000B3 0 0).translate 0 0 false .r 0x40) = (none, some .perm) ∧
      ends (three.translate three.pilotTower 0 false .r 0x800000000) = (none, some .absent) ∧
      ends (((tabled three []).setTower 0 (fun x => { x with layersDown := [0] })).translate 0 0 false .r 0x1000) =
        (none, some (.waits 0)) := by decide +kernel

theorem test_meets_LaunchEvents_root : let l : Launch := { root := 5, record := some record }
    let s := launched { ringCtx with run := true, launch := some l }
    s.ctxs[0]? = some { ringCtx with run := true, launch := some l } ∧ l.admitted = false ∧ l.completion = none ∧
      s.poolCount (lowestTower (recTowers record)) < 960 ∧
      960 ≤ ({ s with manifests := List.replicate 960 { mid := 1, ctx := 0, record, tower := 0, towers := 1 } } : State).poolCount 0 := by
  decide +kernel

theorem test_meets_LaunchEvents_end :
    let f : FaultRec := { code := 1 }
    let l : Launch := { root := 5, record := some record, admitted := true, ending := true, faults := [f] }
    let s := launched { ringCtx with run := true, launch := some l }
    s.ctxs[0]? = some { ringCtx with run := true, launch := some l } ∧ l.faults = [f] ∧ l.ending = true ∧
      s.endReady 0 = true ∧ ({ l with faults := [] } : Launch).faults = [] := by decide +kernel

theorem test_meets_LaunchEvents_record :
    let l : Launch := { completion := some (List.replicate 56 1) }
    let c : Ctx := { ringCtx with run := true, launch := some l, cien := true }
    let s := launched c
    s.ctxs[0]? = some c ∧ l.completion = some (List.replicate 56 1) ∧ c.pageWait = none ∧ c.held = false ∧
      c.crtail.toNat - c.crhead.toNat < 2 ^ min c.crlog.toNat 16 ∧ s.reqs = [] ∧
      (gives (s.translate s.pilotTower 0 false .w 0x2000)).isSome = true ∧
      s.stuck (((gives (s.translate s.pilotTower 0 false .w 0x2000)).map (·.place)).getD 0) = false ∧
      (let p := ((gives (s.translate s.pilotTower 0 false .w 0x2000)).map (·.place)).getD 0
       p % 64 = 0 ∧ s.ownedAt (p / 128 * 128) 128 = false ∧ s.hostHeld p 64 = false ∧ s.leasedAt p 64 = false ∧
       ({ s with lexp := [(p / 128, 9)] } : State).leasedAt p 64 = true) ∧
      s.leaseWaits = [] ∧ s.claims = [] ∧
      ends (({ s with codeSize := 0x10000 } : State).translate s.pilotTower 0 false .w 0x2000) = (none, some .perm) ∧
      (List.replicate 56 1).length = 56 ∧ s.Inv ∧
      2 ^ min c.crlog.toNat 16 ≤ ({ c with crtail := 1 } : Ctx).crtail.toNat - c.crhead.toNat := by decide +kernel

/-- A manifest of that record, which may be ready. -/
def manifest (ready : Bool) : Manifest := { mid := 5, ctx := 0, record, tower := 0, towers := 1, ready }
def offers (ready : Bool) : State :=
  { launched { ringCtx with run := true, launch := some { record := some record, admitted := true } } with
    manifests := [manifest ready]
    args := { unit := 5, slots := [8] } }

theorem test_meets_ManifestEvents :
    (let s := offers false
     s.args.unit = (manifest false).mid.toNat ∧ s.manifest 5 = some (manifest false) ∧ s.inLighter (manifest false) = false ∧
     s.depsDone (manifest false) = true ∧ s.reqs = [] ∧ s.leaseWaits = [] ∧ s.placeable (manifest false) [8] = false) ∧
    (let s := offers true
     s.args.slots = [8] ∧ s.manifest 5 = some (manifest true) ∧ s.placeable (manifest true) [8] = true ∧
     s.offered (manifest true) [8] = true) := by decide +kernel

/-- The record with one dependence on a queue number that is far off, and with an age of one. -/
def waiting : List Byte := (record.set 17 1).take 0x40 ++ leBytes 4 0x30000000 ++ leBytes 12 0 ++ leBytes 8 9 ++ List.replicate 40 0
def aged : List Byte := record.set 20 1

theorem test_meets_ManifestEvents_waits :
    (let m : Manifest := { manifest false with record := waiting, deps := [(.bead 0, 9)] }
     let s : State := { offers false with manifests := [m] }
     s.manifest 5 = some m ∧ s.depsDone m = false) ∧
    (let m : Manifest := { manifest true with record := aged }
     let s : State := { offers true with manifests := [m], tide := 1024 }
     s.manifest 5 = some m ∧ recAge m.record ≠ 0 ∧ m.ageFrom + recAge m.record * 1024 ≤ s.tide ∧
     0 < m.ageFrom + recAge m.record * 1024) ∧
    (let s := (offers false).setCtx 0 (fun c => { c with lighter := [5] })
     let far := (s.setCtx 0 (fun c => { c with lqbase := 0x1000 })).setTower 0 (fun x => { x with layersDown := [0, 1, 2] })
     (s.ctx 0).lighter = [5] ∧ s.manifest 5 = some (manifest false) ∧ s.poolCount 0 < 1024 ∧ (s.ctx 0).lqWait = none ∧
     ((s.ctx 0).launch.map (fun l => l.faults.isEmpty)) = some true ∧
     ((gives (s.lighterRead 0 0 0x1000)).map (·.length), (gives (far.lighterRead 0 0 0x1000)).isSome) = (some 256, false) ∧
     1024 ≤ ({ s with manifests := List.replicate 1024 { manifest true with mid := 1 } } : State).poolCount 0) := by decide +kernel

/-- A crew whose yield table lies on the page of `mapped`: one entry at its PC, with nothing live. -/
def yielding : Crew := { crew1 with stopReq := true, ytab := 0x1000, ycnt := 1 }
/-- A launch under way whose crew 1 is asked to stop. -/
def stopping (f : Strand → Strand) : State :=
  { launched { ringCtx with run := true, frbase := 0x3000, frsize := 0x8000, launch := some {} } (leBytes 32 0x100) with
    self := f { strand [] with stopReq := true }
    crews := [yielding]
    args := { unit := 1, slots := [8] } }

theorem test_meets_CrewEvents :
    (let s := stopping (fun st => { st with stopped := true })
     s.crews.find? (fun x => x.id == 1) = some yielding ∧ yielding.id ≠ 0 ∧ s.args.unit = yielding.id ∧
     yielding.saved = false ∧ yielding.suspended = false ∧ yielding.stopReq = true ∧ yielding.ctx ≠ bootCtx) ∧
    (let s := stopping (fun st => { st with stopped := true })
     ((s.ctx 0).launch.map (fun l => l.faults.isEmpty)) = some true ∧
     (s.strandsOf 1).all (fun x => (x.stopped || x.retired) && x.pageWait.isNone && !s.craneStuck x.cq) = true ∧
     s.queuesIdle 1 = true ∧ s.crewSettled 1 s.restarts = true ∧ ({ crew1 with ctx := bootCtx } : Crew).ctx = bootCtx ∧ crew1.stopReq = false) := by
  decide +kernel

theorem test_meets_CrewEvents_points :
    (let s : State := { stopping id with args := { unit := 0 } }
     (s.strandInSlot 0).map (fun st => (st.stopReq, st.stopped, st.retired)) = some (true, false, false) ∧
     (s.strandInSlot 0).map (fun st => (st.ended, st.pageWait, s.atYieldPoint st)) = some (false, none, true)) ∧
    (let s : State := { stopping (fun st => { st with pc := 0x200 }) with args := { unit := 0 } }
     (s.strandInSlot 0).map s.atYieldPoint = some false) ∧
    (let s := stopping (fun st => { st with pageWait := some 0 })
     (s.strandsOf 1).any (fun x => x.pageWait.isSome) = true) := by decide +kernel

theorem test_meets_CrewEvents_frame :
    ((stopping (fun st => { st with stopped := true, ytHit := true })).saveCrew 1 false).isSome = true ∧
      ((stopping (fun st => { st with stopped := true, ytHit := true })).frameWaits yielding false).isNone = true ∧
      ((((stopping (fun st => { st with stopped := true, ytHit := true })).setTower 0 (fun x => { x with layersDown := [1] })).setCtx 0
        (fun c => { c with frbase := 0x3100 })).frameWaits yielding false).isSome = true ∧
      (((stopping (fun st => { st with stopped := true, ytHit := true })).setCtx 0 (fun c => { c with frsize := 0 })).saveCrew
        1 false).isSome = false := by
  decide +kernel

theorem test_meets_CrewEvents_resume :
    let c : Crew := { yielding with saved := true, isLocal := false, mid := 5 }
    let s : State := { stopping id with self := {}, saved := [{ strand [] with ytHit := true, masks := some (leBytes 32 0x100) }], crews := [c], manifests := [manifest true] }
    s.crews.find? (fun x => x.id == 1) = some c ∧ s.args.slots = [8] ∧ c.saved = true ∧
      (s.saved.filter (fun x => x.crew == c.id)).all (fun x => x.pageWait.isNone) = true ∧ s.accLive c = [] ∧
      ((gives (s.frameRead { c with frame := 0x3000, frameLen := 0x400 } 2)).map (·.length)) = some 0x400 ∧
      (gives ((s.setTower 0 (fun x => { x with layersDown := [0, 1, 2, 3] })).frameRead { c with frame := 0x3000, frameLen := 0x400 } 0)).isSome = false ∧
      s.manifests.all (fun m => m.mid == c.mid && s.offered m [8]) = true ∧
      s.slotsFree [8] c.size c.towers c.isLocal c.id = true ∧
      s.capacityUsed (clusterOfCore (([8].map coreOfSlot).headD 0)) + 512 * c.size * c.vlGrant ≤ 4194304 := by decide +kernel

/-! ## Meets: the matrix engine's and the crane's events -/

/-- A strand on the page of `mapped` with one matrix command at its queue's head, or one crane command. -/
def commands (crane : Bool) (op : Instr) (args : List Word) (bytes : List Byte) (mem : List Byte := []) : State :=
  let q : Queue := { issue := 1, cmds := [{ seq := 1, pc := 0x80, who := three.issuer, op, args, bytes }] }
  { mapped [] mem with self := if crane then { strand [] with cq := q } else { strand [] with mq := q }, args := { sub := 1 } }
/-- An element tile descriptor: one row and one column of a format and width, at a base. -/
def tileBytes (fmt width base : Nat) : List Byte :=
  leBytes 8 base ++ leBytes 8 (fmt * 2 ^ 60 + width * 2 ^ 51) ++ leBytes 4 0 ++ leBytes 2 1 ++ leBytes 2 1 ++ leBytes 8 0

theorem test_meets_Commands_head (crane : Bool) (op : Instr) (args : List Word) (bytes mem : List Byte) :
    ((commands crane op args bytes mem).headCmd 0 (if crane then 1 else 2)).map (fun h => (h.2.2.op, h.2.2.args, h.2.2.bytes)) =
      some (op, args, bytes) := by cases crane <;> rfl

theorem test_meets_MatrixCommands :
    (let s := commands false (.mzero (fa 0)) [word 5] []
     (s.headCmd s.args.unit 2).map (fun h => (h.2.1.latch, h.2.2.pageWait, h.2.2.cancelled, s.cmdReady h.2.2)) =
       some (none, none, false, true) ∧
     (s.headCmd 0 2).map (fun h => ((gives (s.takeUnit h.2.2)).isSome, h.2.2.stage, h.2.2.after)) = some (true, 0, 0)) ∧
    (fa 4).fn.toNat / 2 ≠ 1 ∧ (fa 2).fn.toNat / 2 = 1 ∧ (fa 0).fn.toNat / 2 = 0 := by decide +kernel

/-- The head command of a state, whose unit is its own. -/
def headOf (s : State) : Cmd := ((s.headCmd 0 2).map (fun h => h.2.2)).getD craneCmd

/-- That state with the command begun on its unit. -/
def begunOf (s : State) : State := ((gives (s.takeUnit (headOf s))).getD s).stageCmd (.matrix 1 0) (headOf s) 1
/-- The fault a command's step ends in. -/
def cmdFault {α : Type} (x : Except CmdStop α) : Option (BitVec 8 × Word) :=
  match x with
  | .error (.fault code a) => some (code, a)
  | _ => none

theorem test_meets_MatrixCommands_tiles :
    (let s := commands false (.mld (fa 0)) [0x1000] [] (tileBytes 4 0 0x1040)
     let c := headOf s
     c.moved = [] ∧ s.args.part = none ∧
     (gives ((begunOf s).accTile (.matrix 1 0) c false (fun t => t.fmt = 4))).bind (fun t =>
       (gives (t.2.tileSpots three.issuer .r t.1)).bind (fun xs =>
         gives ((t.2.passT (.matrix 1 0) c (t.2.tileT three.issuer t.1)).tileCodes c t.1 xs))) = some [0]) ∧
    (let s := commands false (.mst (fa 0)) [0x1000] [] (tileBytes 4 0 0x1040)
     ((gives ((begunOf s).accTile (.matrix 1 0) (headOf s) true (fun t => t.fmt = 4 || (t.fmt = 0 && t.width = 31)))).bind (fun t =>
       ((gives (t.2.operands (.matrix 1 0) (headOf s) ((t.2.tileSpots three.issuer .w t.1).map (fun xs => ([], xs))))).map (·.2)).bind (fun xs =>
         gives ((t.2.passT (.matrix 1 0) (headOf s) (t.2.tileT three.issuer t.1)).claim (.matrix 1 0) (headOf s) t.1.unit xs 1 [])))).isSome = true) ∧
    (let s := commands false (.mst (fa 2)) [0x1000] [] (tileBytes 5 0 0x1040)
     ((gives ((begunOf s).accTile (.matrix 1 0) (headOf s) true (fun t => t.fmt = 5))).bind (fun t =>
       ((gives (t.2.operands (.matrix 1 0) (headOf s) ((t.2.tileSpots three.issuer .w t.1).map (fun xs => ([], xs))))).map (·.2)).bind (fun xs =>
         gives ((t.2.passT (.matrix 1 0) (headOf s) (t.2.tileT three.issuer t.1)).claim (.matrix 1 0) (headOf s) t.1.unit xs 1 [])))).isSome = true) ∧
    cmdFault (three.readDesc (.matrix 1 0) { craneCmd with who := three.issuer } 32 32 0x1001) = some (ALIGN, 0x1001) := by
  decide +kernel

theorem test_meets_MatrixCommands_turn : let s := commands false (.mtr (fa 0)) [0x1000] [] (tileBytes 4 0 0x1040 ++ tileBytes 4 0 0x1060)
    let a := tileOf 0x1000 (tileBytes 4 0 0x1040)
    let b := tileOf 0x1020 (tileBytes 4 0 0x1060)
    let q := QueueRef.matrix 1 0
    let c := headOf s
    let y := ((gives ((begunOf s).readDesc q c 64 32 0x1000)).map (·.2)).getD s
    let y' := ((gives (y.readDesc q c 32 32 0x1020)).map (·.2)).getD s
    let xs := (gives (y'.tileSpots three.issuer .r a)).getD []
    let ys := (gives (y'.tileSpots three.issuer .w b)).getD []
    let z := (gives ((y'.passT q c (y'.tileT three.issuer a ++ y'.tileT three.issuer b)).claim q c b.unit ys a.unit xs)).getD s
    (gives ((begunOf s).readDesc q c 64 32 0x1000)).map (·.1) = some (tileBytes 4 0 0x1040) ∧
      (gives (y.readDesc q c 32 32 0x1020)).map (·.1) = some (tileBytes 4 0 0x1060) ∧ a.valid false = true ∧ b.valid true = true ∧
      a.rows ≤ 512 ∧ b.rows = a.cols ∧ b.cols = a.rows ∧ tilesOverlap a b = false ∧ b.fmt = a.fmt ∧ b.width = a.width ∧
      a.fmt ∈ [0, 1, 4, 5, 6, 7] ∧ a.tag = 0 ∧ b.tag = 0 ∧ xs.length = 1 ∧ ys.length = 1 ∧
      (gives ((y'.passT q c (y'.tileT three.issuer a ++ y'.tileT three.issuer b)).claim q c b.unit ys a.unit xs)).isSome = true ∧
      (gives (y'.operands q c (do
        let xs ← y'.tileSpots three.issuer .r a
        let ys ← y'.passing q c (y'.tileT three.issuer a) (y'.tileSpots three.issuer .w b)
        return (xs, ys)))).map (fun o => (o.1.length, o.2.length)) = some (1, 1) ∧
      gives (((List.range ys.length).filterMap (fun i => xs[i % b.cols * a.cols + i / b.cols]?)).mapM (z.sourceRead c a.unit)) =
        some [[0, 0, 0, 0]] ∧ z.args.part = none := by decide +kernel

theorem test_meets_MatrixCommands_product :
    (let s := commands false (.mma (fa 0)) [0x1000, 0x1020] [] (tileBytes 0 7 0x1040 ++ tileBytes 0 7 0x1060)
     let g : State := { s with cores := [(0, { granted := true })] }
     (gives ((begunOf s).product (.matrix 1 0) (headOf s) (fa 0) false false)).map (fun x => (x.1.core (x.1.cmdCore (headOf s))).granted) =
       some false ∧
     (gives ((begunOf g).product (.matrix 1 0) (headOf g) (fa 0) false false)).map (fun x => (x.1.core (x.1.cmdCore (headOf g))).granted) =
       some true) ∧
    (let c : Cmd := { headOf (commands false (.mma (fa 0)) [] []) with stage := 2 }
     c.stage = 2 ∧ (three.core (three.cmdCore c)).work = 0 ∧
     (({ three with cores := [(0, { work := 3 })] } : State).core (three.cmdCore c)).work ≠ 0) := by decide +kernel

theorem test_meets_AccumulatorArithmetic :
    (three.strandAt 1 0).isSome = true ∧ (127 : Nat) < 128 ∧ (1 : Nat) < 2 ∧
    (let p : Product := { m := 1, n := 1, k := 256, fmtA := 6, fmtB := 6, a := [], b := [], fold := false, ov := false, scale := fun _ _ _ => .nan }
     p.fmtA = 6 ∧ p.k = 256 ∧ p.fmtA ≠ 0 ∧ p.ov = false) := by decide

theorem test_meets_SlewLimiter :
    (let s : State := { three with cores := [(0, { ready := true })] }
     s.args.unit = 0 ∧ s.firstUnit (s.readyUnits 0) = some 0 ∧ sget 0 s.grantCycle 0 ≤ s.cycle ∧ three.readyUnits 0 = [] ∧
     ¬ sget 0 [(0, 4)] 0 ≤ s.cycle) ∧
    (let s : State := { three with cores := [(0, { granted := true, filler := 64, waiting := false })] }
     (s.core 0).granted = true ∧ (s.core 0).waiting = false ∧ (s.core 0).work = 0 ∧ (s.core 0).hold ≤ (s.core 0).filler ∧
     (three.core 0).granted = false) ∧
    (let s : State := { three with cores := [(0, { granted := true, waiting := true }), (3, { ready := true })] }
     s.firstUnit (s.waitingUnits 0) = some 0 ∧ s.readyUnits 0 ≠ []) ∧
    (let s : State := { three with cores := [(0, { granted := true, waiting := true })] }
     s.firstUnit (s.waitingUnits 0) = some 0 ∧ s.readyUnits 0 = []) := by decide +kernel

/-- The command a test moves data for, which stands in no queue; and the places its checks find. -/
def mover : Cmd := { craneCmd with who := three.issuer }
def found (s : State) (q : QueueRef) (c : Cmd) (d : CopyDesc) (fill : Bool) : Option (List Spot × List Spot) :=
  gives (s.operands q c (s.passing q c (s.copyT c.who d) (s.copySpots c.who d fill)))

theorem test_meets_CraneCommands :
    (let s := commands true (.crn (fa 0)) [] (copyBytes 0x1000 0x1040 0)
     let d := copyDesc (copyBytes 0x1000 0x1040 0)
     let q := QueueRef.crane 1 0
     (s.craneCmd s.args.unit s.args.sub).map (fun h => (h.2.1.latch, h.2.2.pageWait, h.2.2.cancelled, s.cmdReady h.2.2)) =
       some (none, none, false, true) ∧
     (s.craneCmd s.args.unit s.args.sub).map (fun h => (h.1, h.2.2.moved)) = some (q, []) ∧ s.args.sub = 1 ∧ s.args.part = none ∧
     ((found s q mover d false).bind (fun x => (gives ((s.passT q mover (s.copyT three.issuer d)).claim q mover 1 x.2 1 x.1)).bind (fun t =>
       (gives (x.1.mapM (t.sourceRead mover 1))).map (fun bs => (t.args.part, bs.length))))) = some (none, 8) ∧
     ((found s q mover d true).bind (fun x => gives ((s.passT q mover (s.copyT three.issuer d)).claim q mover 1 x.2 1 x.1))).isSome = true ∧
     cmdFault (s.operands q mover (s.passing q mover [] (s.copySpots three.issuer
       (copyDesc (copyBytes 0x100000000000000 0x1040 0)) false))) = some (VA_NONCANON, 0x100000000000000) ∧ s.claimOf q mover = none) := by decide +kernel

/-- A command's step ends in a state that is kept, or in a page it waits for. -/
def kept {α : Type} (x : Except CmdStop α) : Bool :=
  match x with
  | .error (.keep _) => true
  | _ => false
def pageOf {α : Type} (x : Except CmdStop α) : Option (Word × Nat) :=
  match x with
  | .error (.page a k) => some (a, k)
  | _ => none

theorem test_meets_CraneCommands_waiting :
    (let s : State := { mapped [] with lexp := [(line, 9)] }
     let xs := (gives (s.copySpots three.issuer (copyDesc (copyBytes 0x1000 0x1040 0)) false)).getD ([], [])
     kept (s.claim (.crane 1 0) mover 1 xs.2 1 xs.1) = true) ∧
    pageOf ((mapped []).copySpots three.issuer (copyDesc (copyBytes 0x800000000 0x1040 0)) false) = some (0x800000000, 0) ∧
    three.issuer.ctx ≠ bootCtx := by decide +kernel

theorem test_meets_CraneCommands_turn :
    (let d := copyDesc (leBytes 8 0x1000 ++ leBytes 8 (8 * 2 ^ 51) ++ leBytes 8 0 ++ leBytes 4 8 ++ leBytes 4 1 ++ leBytes 8 0 ++ leBytes 4 0x40)
     let s := beads []
     let q := QueueRef.crane 1 0
     let rows := (ptrRows d.dst).map (rowId (ptrChan d.dst) (ptrBank d.dst) (ptrSub d.dst))
     let xs := ((gives (s.operands q mover (do
        let xs ← (d.addrs d.src d.spitch).mapM (s.spot three.issuer d.ssp .r d.esize)
        s.turnCheck q mover (s.copyT three.issuer d) d.dst (List.range (d.width / d.esize)) false
        return (xs, [])))).getD ([], [])).1
     d.dsp = 4 ∧ xs.length = 8 ∧
     ((gives ((s.passT q mover (s.copyT three.issuer d)).claim q mover d.esize [] d.esize xs rows)).bind (fun t =>
       (gives (xs.mapM (t.sourceRead mover d.esize))).map (fun bs => (bs.length, t.bankWaits (ptrChan d.dst) (ptrBank d.dst), t.args.part)))) =
       some (8, false, none)) ∧
    (let d := copyDesc (leBytes 8 (8 * 2 ^ 51) ++ leBytes 8 0x1000 ++ leBytes 8 0 ++ leBytes 4 8 ++ leBytes 4 1 ++ leBytes 8 0 ++ leBytes 4 4)
     let s := beads []
     let q := QueueRef.crane 1 0
     let ys := ((gives (s.operands q mover (do
        let ys ← (d.addrs d.dst d.dpitch).mapM (s.spot three.issuer d.dsp .w d.esize)
        s.turnCheck q mover (s.copyT three.issuer d) d.src (List.range (d.width / d.esize)) true
        return ([], ys)))).getD ([], [])).2
     d.dsp ≠ 4 ∧ ys.length = 8 ∧
     (gives ((s.passT q mover (s.copyT three.issuer d)).claim q mover d.esize ys d.esize [])).map (fun u =>
       (u.laneWaits (ptrChan d.src) (ptrBank d.src) (ptrSub d.src) (ptrRows d.src), u.args.part)) = some (false, none)) := by decide +kernel

theorem test_meets_CraneCommands_rings :
    (let s := ringed 2 1 1 0
     let p := Place.s 0 0x40
     let r := s.ring p
     let d : CopyDesc := { copyDesc (copyBytes 0x200 0x300 0x100010) with ctrl := 0x100010 }
     let v := r.slotRef 0
     let d' : CopyDesc := { d with src := word (wbits v 29 0), ctrl := d.ctrl + (wbits v 63 62 + 1) }
     s.poisonedAt p 32 = false ∧ (gives (s.ringOk (s.crewById 1) 0 r.cfg)).isSome = true ∧ d.dir = true ∧ d.extent d.spitch ≤ 2 ^ r.logSize ∧
     d'.apart = true ∧ (gives (s.moveData (.crane 1 0) mover d' false)).map (fun u => (u.ring p).free != (u.ring p).take) = some true) ∧
    (let s := ringed 1 0 0 0
     let p := Place.s 0 0x40
     let r := s.ring p
     let d : CopyDesc := copyDesc (copyBytes 0x200 0x300 1)
     let v := r.slotRef 0
     let d' : CopyDesc := { d with dst := word (wbits v 29 0), ctrl := d.ctrl + 16 * (wbits v 63 62 + 1) }
     d.dir = false ∧ d.extent d.dpitch ≤ 2 ^ r.logSize ∧ d'.apart = true ∧
     (gives (s.moveData (.crane 1 0) mover d' false)).map (fun u => (u.ring p).post != (u.ring p).claim) = some true) ∧
    (((ringed 1 1 1 0).ring (Place.s 0 0x40)).post - ((ringed 1 1 1 0).ring (Place.s 0 0x40)).take).toNat = 0 ∧
    ((ringed 2 1 1 0).ring (Place.s 0 0x40)).slots ≤
      (((ringed 2 1 1 0).ring (Place.s 0 0x40)).claim - ((ringed 2 1 1 0).ring (Place.s 0 0x40)).free).toNat ∧
    mover.slot = none ∧ mover.ticket = 0 ∧ three.waiters = [] := by decide +kernel

theorem test_meets_CraneCommands_waits :
    (511 : Nat) < 512 ∧ (0 : Word).toNat ≤ (three.chan 511).queue.completion ∧ (three.chan 511).queue.completion < (1 : Word).toNat ∧
      ((gives ((linesOf 0x1000 128).mapM (fun va => (mapped []).cmdXlate three.issuer .wx va))).isSome = true) := by decide +kernel

theorem test_meets_EngineWrites : let x : Spot := { va := 0x1000, place := spot.place }
    three.Inv ∧ x.place % 128 + [(1 : Byte)].length ≤ 128 ∧ [(1 : Byte)] ≠ [] ∧ Place.isG x.place = true ∧
      Place.isG (Place.s 0 0x40) = false ∧
      three.sliceUsed (sliceOf x.place) < three.sliceLines (sliceOf x.place) := by decide +kernel

/-! ## Meets: bring-up, errors, the machine -/

/-- A module whose staged image has a header that passes, and one where none is staged. -/
def header : List Byte :=
  leBytes 8 0x000000015746_4E4C ++ leBytes 8 5 ++ leBytes 8 65536 ++ leBytes 8 16 ++ leBytes 8 131072 ++ leBytes 8 8 ++ leBytes 8 4 ++
    leBytes 8 131080 ++ leBytes 8 64
def staged (phase : Phase) : State := { State.reset with mem := Memory.setBytes [] 0 header, phase }

theorem test_meets_BringUp :
    (State.reset.phase = .held ∧ (staged .running).phase = .running ∧ (staged (.towers 0)).phase = .towers 0 ∧
     (staged (.towers 15)).phase = .towers 15 ∧ (15 : Nat) < 16 ∧ (staged (.towers 16)).phase = .towers 16 ∧
     State.reset.self.crew = 0 ∧ State.reset.args.flag = false ∧ State.reset.phase ≠ .towers 16 ∧ State.reset.mod.berr ≠ 1 ∧
     State.reset.mod.atbusy = false ∧ State.reset.stagingWaits = false ∧ State.reset.doeUp = false ∧
     ({ State.reset with mod := { State.reset.mod with ports := [true] } } : State).doeUp = true ∧
     (State.reset.setTower 0 (fun x => { x with layersDown := [3] })).stagingWaits = true ∧ (State.reset.tower 15).rcDown = false ∧
     ((State.reset.setTower 15 (fun x => { x with rcDown := true })).tower 15).rcDown = true) ∧
    (({ State.reset.mod with berr := 1 } : Module).berr = 1 ∧ (0x3FFFFFC : Nat) % 4 = 0 ∧ [(1 : Byte), 2, 3, 4].length = 4 ∧
     0x3FFFFFC + 4 ≤ 2 ^ 26 ∧ written (writes 0x110078 1 three) 0x110078 = some 1 ∧ three.mod.atbusy = false) ∧
    (staged .staged).header.passes = true ∧ State.reset.header.passes = false ∧ (staged .held).Inv := by decide +kernel

theorem test_meets_BringUp_report : (gives (three.logWrite 67 0x1000 [1])).isSome = true ∧
    ((gives (three.logWrite 68 0x1080 [1])).bind (fun _ => (gives (three.logWrite 67 0x1000 [1])).bind (fun t =>
      gives (t.logWrite 68 0x1080 [1])))).isSome = true ∧
    (let s : State := { three with lexp := [(line, 9)] }
     (gives (s.logWrite 68 0x1000 [1])).isNone = true ∧ (gives (s.logWrite 67 0x1000 [1])).isNone = true ∧
     ({ State.reset.mod with atbusy := true } : Module).atbusy = true) := by decide +kernel

theorem test_meets_PowerTripsAndErrors :
    (Place.isDram 0x40 = true ∧ sget none three.subOwner (subOf 0x40) = none ∧ three.args.flag = false ∧
     three.strandInSlot 0 = some three.self ∧ three.args.unit = 0 ∧ (three.chan 0).entry = none ∧ (15 : Nat) < 16 ∧
     three.towers.length = 16 ∧ three.stranded = [] ∧ three.mod.outerDown = [] ∧ (7 : Nat) < 8) ∧
    (three.crews.find? (fun c => c.id == 1) = some crew1 ∧ crew1.id = three.self.crew ∧ crew1.saved = false ∧
     (∃ k ∈ crew1.cores, towerOfCore k = 0)) ∧
    (homeTower (128 * 0) = 0 ∧ (three.tower 0).layersDown = [] ∧ (∀ k ∈ layerChans 0 1, (three.chan k).entry = none) ∧
     ((three.setTower 0 (fun t => { t with layersDown := [15] })).tower 0).layersDown = [16 - 1]) ∧
    (let s : State := { three with stranded := [(5, true)], mod := { State.reset.mod with pcap := 2000, outerDown := [7] } }
     homeTower (128 * 5) = 0 ∧ s.stranded = [(5, true)] ∧ s.mod.outerDown = [7] ∧ three.inflight = [] ∧
     min 1300 s.mod.pcap.toNat < 13010 / 10 % 65536 ∧ 12999 / 10 % 65536 < min 1300 s.mod.pcap.toNat) := by decide +kernel

/-- A turn of a strand that stands at a word. -/
def turn (nbits w : Nat) : State := State.reset.withFetchWord nbits w

theorem test_meets_StepRunsDecodedInstruction :
    (turn 32 0x01C61403).agenda = [.strand 0 false] ∧ ((turn 32 0x01C61403).focus 0).isSome = true ∧
    ((turn 32 0x01C61403).focus 5).isSome = false ∧
    ((turn 32 0x01C61403).focus 0).map (fun u => u.mayIssue u.self) = some true ∧
    (∀ t ∈ [Turn.evict 0, .useReport 0, .hostDrop 0, .writeBack 0, .cycle, .publish 0 0, .fetchAhead 0 0, .keepWalk 0 0 0 0, .dropWalk true 0],
      ({ State.reset with agenda := [t] } : State).agenda = t :: []) ∧
    (Instr.tideTick).isEvent = true ∧ three.mayIssue { three.self with stopped := true } = false := by decide +kernel

/-- The strand's turn in that state, its slot's strand in focus. -/
def turning (nbits w : Nat) : State := ((turn nbits w).focus 0).getD State.reset

theorem test_meets_StepRunsDecodedInstruction_fetch :
    (gives ((turning 32 0x01C61403).fetchInstr false)).map (fun x => match x.1 with
      | .instr (.add f) n => (f.a, f.b, f.d, n)
      | _ => (0, 0, 0, 0)) = some (6, 7, 5, 4) ∧
    (gives ((turning 32 0x01C61403).fetchFirst false)).map (fun x =>
      (isPrefix (parcelOf x.1.data 0), isWide (parcelOf x.1.data 0), (turning 32 0x01C61403).self.pc)) = some (false, true, 0) ∧
    (gives ((turning 64 0x01C61403000003FF).fetchFirst false)).map (fun x => (isPrefix (parcelOf x.1.data 0), x.1.pairAt 0)) =
      some (true, true) ∧
    (gives ((turning 64 0x01C61403000003FF).fetchLine 0 false)).map (fun x =>
      (x.1.pairAt 0, x.1.serves x.2 4, ({ x.1 with fresh := 3 } : FetchLine).serves x.2 4)) = some (true, true, false) ∧
    ((turning 64 0x01C61403000003FF).mapSelf (fun st => { st with pc := 124 })).self.pc.toNat % 128 = 124 ∧
    (gives ((turning 64 0x01C61403000003FF).fetchLine 128 false)).isSome = true ∧ (turning 16 0x0145).self.pc = 2 ∧
    (turning 16 0x0145).self.cur = none ∧ ((turning 16 0x0145).mapSelf (fun st => { st with cur := some (.ifence {}, 4) })).self.cur =
      some (.ifence {}, 4) := by decide +kernel

theorem test_meets_StepRunsDecodedInstruction_admits :
    let w := turning 32 0x01C61403
    w.yieldEntry w.self = none ∧ privileged (.add (fa 0)) = false ∧ w.self.straddles 4 = none ∧ w.self.pcnt < w.crew.limit ∧
      w.self.stopReq = false := by
  decide +kernel

theorem test_meets_ChecksBeforeExecution :
    three.self.long = false ∧ ((33 : Reg) ∈ (Instr.vadd { a := 33 }).vectorFields ∧ 32 ≤ (33 : Reg).toNat) ∧
    (privileged (.bcsl (fa 0)) = true ∧ (of { strand [] with priv := false }).self.priv = false) ∧
    ((nested 1 0x102).self.straddles 4).isSome = true ∧ three.self.straddles 4 = none ∧ three.yieldEntry three.self = none ∧
    isYield (.add (fa 0)) = false ∧ three.crew.ctx ≠ bootCtx ∧ privileged (.add (fa 0)) = false ∧
    (of { strand [] with pcnt := 1000000000 }).crew.limit ≤ (of { strand [] with pcnt := 1000000000 }).self.pcnt ∧
    three.self.stopReq = false ∧ three.self.cleared = [] ∧
    (let st : Strand := { strand [] with stopReq := true, loops := [⟨0x100, 0x110, 2, 1, false⟩] }
     st.stopReq = true ∧ st.wait = none ∧ st.atBackEdge = true ∧ st.straddles 4 = none) := by decide +kernel

theorem test_meets_DecodeAndEncodeAgree :
    wellFormed (.add (fa 0)) = true ∧ wellFormed (.prefixedPair { rnd := 6 } (.vadd (fa 4))) = true ∧
      wellFormed (.cLi { d := 10, imm := 0 }) = true ∧ decode true 0x01450000 0 = .instr (.cLi { d := 10, imm := 0 }) 2 ∧
      decode false 0x01450145 0 = .instr (.cLi { d := 10, imm := 0 }) 2 ∧
      decode false 0x01C61403 0 = .instr (.add { d := 5, a := 6, b := 7 }) 4 ∧
      decode false 0x00001BFF 0x40400977 = .instr (.prefixedPair { rnd := 6 } (.vadd { fn := 4, d := 2, a := 0, b := 1 })) 8 :=
  ⟨rfl, rfl, rfl, rfl, rfl, rfl, rfl⟩

theorem test_meets_ReservedEncodings :
    isWide 0x2FF = true ∧ 0xBF ≤ ((0x2FF : Parcel).extractLsb' 2 8).toNat ∧ (0x2FF : Parcel).extractLsb' 2 8 ≠ 0xFF ∧
      isPrefix 0x3FF = true ∧ (0x2 : Parcel) ≠ 0 ∧ isWide 0x2 = false ∧ (0x200003FF : Parcel).extractLsb' 29 3 ≠ 0 ∧
      isPrefix 0x200003FF = true ∧ (0x16 : BitVec 16).extractLsb' 0 2 = 2 ∧ 5 ≤ ((0x16 : BitVec 16).extractLsb' 2 3).toNat ∧
      (0x1D : BitVec 16).extractLsb' 0 2 = 1 ∧ ((0x1D : BitVec 16).extractLsb' 2 3).toNat = 7 ∧
      (0x7 : BitVec 16).extractLsb' 0 2 = 3 ∧ (0x7 : BitVec 16) ≠ 3 ∧
      (let op (x : Parcel) : Nat := (x.extractLsb' 2 8).toNat
       isWide 0x40400977 = true ∧ op 0x40400977 = 0x5D ∧ isWide 0x01C61403 = true ∧ op 0x01C61403 = 0 ∧
       isWide 0x40400A7F = true ∧ op 0x40400A7F = 0x9F ∧ isWide 0x3FB = true ∧ op 0x3FB = 0xFE) := by decide

/-- Second words of a pair: a vadd that uses the pair's rounding, one that does not take it, one of an unlisted TY, and
one whose E bit is set. -/
theorem test_meets_ReservedEncodings_pairs :
    (decodeFields 0x40400977).bind pxUse = some { emp := 3, rnd := 6, sat := 2, ixb := true } ∧
      (Prefix.ofParcel 0x00001BFF).ok { emp := 3, rnd := 6, sat := 2, ixb := true } = true ∧
      (Prefix.ofParcel 0x000003FF).ok { emp := 3, sat := 3 } = true ∧
      (decodeFields 0x00400977).bind pxUse = some { emp := 3, sat := 3 } ∧
      (Prefix.ofParcel 0x00001BFF).ok { emp := 3, sat := 3 } = false ∧
      (decodeFields 0x60400977).map (fun j => (wordOk j, (pxUse j).isSome)) = some (false, true) ∧
      (decodeFields 0x80400977).map (fun j => (secondE j, (pxUse j).isSome)) = some (1, true) := by decide

theorem test_meets_EveryStepKeepsMemoryForm : (turn 32 0x01C61403).Inv ∧ State.reset.Inv := by decide +kernel

theorem test_meets_EmptySources :
    (fa 0).a.toNat < 32 ∧ hollow.self.gIsFull (fa 0).a.toNat = false ∧ (fa 0).e = 0 ∧ ({ fa 0 with e := 1 } : FA).e = 1 ∧
    (let s := of { strand [(1, 6)] with gFull := ~~~4 }
     s.source (fa 0).a 6 ∧ s.self.gIsFull (fa 0).b.toNat = false) ∧ hollow.self.gIsFull fi.a.toNat = false ∧
    (let s : State := { of (strand [(1, 6), (2, 6)]) with returns := [{ id := 1, crew := 1, idx := 0, dest := .g 3, data := [none] }] }
     s.source (fa 0).a 6 ∧ s.source (fa 0).b 6 ∧ s.pendingOn s.self.crew s.self.idx (.g (fa 0).d.toNat) = true) := by decide

/-- g1 to g3 with one of them empty, and in long mode with a crew of eight. -/
def lacking (r : Nat) : State := of { strand [(1, 0x40), (2, 7), (3, 9)] with gFull := ~~~(BitVec.twoPow 32 r) }
def lackingLong : State :=
  (eight 128).mapSelf (fun st => { st with gFull := ~~~2 })

theorem test_meets_EmptySources_registers :
    ((lacking 1).self.gIsFull (baseReg (fa 0)).toNat = false ∧ (lacking 1).self.long = false ∧ (lacking 1).self.priv = true ∧
      (lacking 1).crew.ctx ≠ bootCtx ∧ (fa 0).d ≠ 0 ∧ (fa 0).a ≠ 0) ∧
    ((lacking 2).self.gIsFull (fa 0).a.toNat = true ∧ (lacking 2).self.gIsFull (baseReg (fa 0)).toNat = true ∧
      (lacking 2).self.gIsFull (fa 0).b.toNat = false ∧ (lacking 2).self.vIsFull (fa 0).a.toNat = true) ∧
    ((lacking 3).self.gIsFull (fa 0).a.toNat = true ∧ (lacking 3).self.gIsFull (fa 0).b.toNat = true ∧
      (lacking 3).self.gIsFull (fa 0).d.toNat = false ∧ (lacking 3).source (fa 0).a 0x40 ∧ (lacking 2).source (fa 0).a 0x40) ∧
    ((lacking 1).self.gIsFull ({ a := 1 } : FB).a.toNat = false ∧ (lacking 1).self.gIsFull ({ count := 1 } : FL).count.toNat = false ∧
      (lacking 1).self.gIsFull ({ d := 1 } : FU).d.toNat = false) ∧
    (let c : CR := { x := 0, a := 2, d := 1 }
     (lacking 1).self.gIsFull (reg4 c.d).toNat = false ∧ (lacking 2).self.gIsFull (reg4 c.a).toNat = false ∧
     (lacking 2).self.gIsFull (reg4 c.d).toNat = true ∧ (lacking 1).self.gIsFull (reg4 ({ d := 1 } : CI).d).toNat = false ∧
     (lacking 1).self.gIsFull (reg4 ({ a := 1 } : CB).a).toNat = false ∧ expandS { c with d := 3 } = { expandS c with d := 3 }) ∧
    (px.ixb ≠ 0 ∧ (lacking 1).self.gIsFull px.ixb.toNat = false ∧ (lacking 1).self.vIsFull (fa 0).a.toNat = true ∧
      (lacking 1).self.vIsFull (fa 0).b.toNat = true) := by decide

theorem test_meets_EmptySources_address :
    (gives ((lacking 3).effective fi (2 ^ fi.sz.toNat))).map (fun a => (a, (gives ((lacking 3).locate .s a 8)).isSome)) =
        some (0x40, true) ∧ (lacking 3).self.gIsFull fi.d.toNat = false ∧
      (gives ((lacking 3).locate .s 0x40 4)).isSome = true ∧ (gives ((lacking 3).locate .c 0x40 8)).isSome = true ∧
      (gives ((near 0x40).locate .t 0x40 8)).isSome = true ∧ (gives ((lacking 3).locate .g 0x40 8)).isSome = true := by decide +kernel

set_option maxRecDepth 20000 in
theorem test_meets_EmptySources_long : lackingLong.self.gIsFull (fa 0).a.toNat = false ∧ lackingLong.self.long = true ∧
    lackingLong.crew.size = 8 ∧ 128 ≤ lackingLong.crew.vlGrant ∧
    (let s := (eight 128).mapSelf (fun st => { st with gFull := ~~~4 })
     s.self.gIsFull (fa 0).a.toNat = true ∧ s.self.gIsFull (fa 0).b.toNat = false ∧ s.self.long = true ∧ s.crew.size = 8) := by decide

/-- What a step leaves. -/
def after (o : Host.Outcome State Fault Refusal) : Option State :=
  match o with
  | .next t => some t
  | _ => none

theorem test_meets_SequencerFrame :
    (after (exec (.add (fa 0)) three)).isSome ∧ (after (exec (.addi fi) three)).isSome ∧ (after (exec (.lui {}) three)).isSome ∧
      (after (exec (.br {}) three)).isSome ∧ (after (exec (.brb { a := 1 }) three)).isSome ∧ (after (exec (.jal {}) three)).isSome ∧
      (after (exec (.lexit {}) three)).isSome ∧ (after (exec (.trap {}) three)).isSome ∧ (after (exec (.setc { imm := 5 }) three)).isSome := by
  decide +kernel

theorem test_meets_AccessFrame :
    (after (exec (.ldS fi) (near 0x40))).isSome ∧ (after (exec (.stS fi) (near 0x40))).isSome ∧ (after (exec (.ldq fi) (near 0x40))).isSome ∧
      (after (exec (.stq fi) (near 0x40))).isSome ∧ (after (exec (.amoS (fa 0)) (near 0x40))).isSome ∧
      (after (exec (.redG (fa 0)) (near 0x40))).isSome := by decide +kernel

theorem test_meets_EngineFrame :
    (after (exec (.vadd (fa 0)) three)).isSome ∧ (after (exec (.rotv (fa 0)) three)).isSome ∧
      three.self.mq.outstanding.length = 0 ∧ 0 < Config.mqEnt := by
  exact ⟨by decide +kernel, by decide +kernel, rfl, Nat.lt_of_lt_of_le (by decide : 0 < 16) (Nat.le_max_left _ _)⟩

theorem test_meets_EngineFrame_forms :
    (∀ i ∈ [Instr.cvtn (fa 0), .cvtnF (fa 0), .cvtw (fa 0), .cvti (fa 0), .qscale (fa 0), .vredsum (fa 4), .vsegred (fa 4),
      .vsortkv (fa 4), .vcmp (fa 4), .mset (fa 4), .mpop (fa 0)], (after (exec i three)).isSome = true) ∧
    (∀ i ∈ [Instr.vld (fa 2), .vst (fa 2), .vlds (fa 2), .vstx (fa 2), .vredG (fa 0), .vfredG (fa 0)],
      (after (exec i (masked (mapped [(1, 0x1000), (2, 8)]) (fun e => e == 0)))).isSome = true) ∧ (fa 0).fn ≠ 3 := by decide +kernel

/-! ## Decoding: example words of the spec's encoding tables -/

/-- 06 R218. -/
theorem test_decode_sequencer_1 :
    decodeTableWord 32 0x01C61403 = some (.add { d := 5, a := 6, b := 7 }) ∧
    decodeTableWord 32 0x01C61407 = some (.sub { d := 5, a := 6, b := 7 }) ∧
    decodeTableWord 32 0xFF46140B = some (.addi { d := 5, a := 6, imm := -3 }) ∧
    decodeTableWord 32 0x01C6140F = some (.andR { d := 5, a := 6, b := 7 }) ∧
    decodeTableWord 32 0x01C61413 = some (.orR { d := 5, a := 6, b := 7 }) ∧
    decodeTableWord 32 0x01C61417 = some (.xorR { d := 5, a := 6, b := 7 }) ∧
    decodeTableWord 32 0x43C6141B = some (.logi { d := 5, a := 6, imm := 0x10F }) ∧
    decodeTableWord 32 0x01C61427 = some (.sar { d := 5, a := 6, b := 7 }) ∧
    decodeTableWord 32 0xC206142B = some (.shi { d := 5, a := 6, imm := 0x308 }) ∧
    decodeTableWord 32 0x01C6142F = some (.mul { d := 5, a := 6, b := 7 }) ∧
    decodeTableWord 32 0x11C61433 = some (.mulh { fn := 1, d := 5, a := 6, b := 7 }) ∧
    decodeTableWord 32 0x01C61437 = some (.div { d := 5, a := 6, b := 7 }) :=
  ⟨rfl, rfl, rfl, rfl, rfl, rfl, rfl, rfl, rfl, rfl, rfl, rfl⟩

/-- 06 R218. -/
theorem test_decode_sequencer_2 :
    decodeTableWord 32 0x11C6143B = some (.rem { fn := 1, d := 5, a := 6, b := 7 }) ∧
    decodeTableWord 32 0x31C6143F = some (.minmax { fn := 3, d := 5, a := 6, b := 7 }) ∧
    decodeTableWord 32 0x41C61443 = some (.cmp { fn := 4, d := 5, a := 6, b := 7 }) ∧
    decodeTableWord 32 0x01C61447 = some (.sel { d := 5, a := 6, b := 7 }) ∧
    decodeTableWord 32 0x1234144B = some (.lui { d := 5, imm := 0x1234 }) ∧
    decodeTableWord 32 0x0004144F = some (.addpc { d := 5, imm := 4 }) ∧
    decodeTableWord 32 0x31C61453 = some (.fops { fn := 3, d := 5, a := 6, b := 7 }) ∧
    decodeTableWord 32 0x11C61457 = some (.ffma { fn := 1, d := 5, a := 6, b := 7 }) ∧
    decodeTableWord 32 0x31C6145B = some (.fcmp { fn := 3, d := 5, a := 6, b := 7 }) ∧
    decodeTableWord 32 0x4006145F = some (.fcvt { fn := 4, d := 5, a := 6 }) :=
  ⟨rfl, rfl, rfl, rfl, rfl, rfl, rfl, rfl, rfl, rfl⟩

/-- 06 R218. -/
theorem test_decode_sequencer_control_1 :
    decodeTableWord 32 0x00221463 = some (.br { a := 5, cond := 2, off := 4 }) ∧
    decodeTableWord 32 0xFFC11467 = some (.brb { a := 5, cond := 1, off := -8 }) ∧
    decodeTableWord 32 0x0002006B = some (.jmp { off := 0x80 }) ∧
    decodeTableWord 32 0x0002006F = some (.jal { off := 0x80 }) ∧
    decodeTableWord 32 0x001F0073 = some (.jr { d := 0, a := 31 }) ∧
    decodeTableWord 32 0x000A1477 = some (.loopR { count := 5, body := 10 }) ∧
    decodeTableWord 32 0x000C0C7B = some (.loopi { count := 3, body := 12 }) ∧
    decodeTableWord 32 0x1000007F = some (.lexit { fn := 1 }) ∧
    decodeTableWord 32 0x00002C83 = some (.lidx { d := 11 }) ∧
    decodeTableWord 32 0x20061487 = some (.fe { fn := 2, d := 5, a := 6 }) ∧
    decodeTableWord 32 0x000D148B = some (.getc { d := 5, imm := 0xD }) ∧
    decodeTableWord 32 0x0005148F = some (.setc { d := 5, imm := 5 }) :=
  ⟨rfl, rfl, rfl, rfl, rfl, rfl, rfl, rfl, rfl, rfl, rfl, rfl⟩

/-- 06 R218. -/
theorem test_decode_sequencer_control_2 :
    decodeTableWord 32 0x00800093 = some (.trap { imm := 0x80 }) ∧
    decodeTableWord 32 0x00000097 = some (.tret {}) ∧
    decodeTableWord 32 0x0003009B = some (.sys { imm := 3 }) ∧
    decodeTableWord 32 0x0007009F = some (.brk { imm := 7 }) :=
  ⟨rfl, rfl, rfl, rfl⟩

/-- 07 R244. -/
theorem test_decode_access_1 :
    decodeTableWord 32 0x00C614A3 = some (.ldS { d := 5, a := 6, imm := 0 * 32 + 0 * 8 + 0 * 4 + 3 }) ∧
    decodeTableWord 32 0xF80614A7 = some (.stS { d := 5, a := 6, imm := 31 * 32 + 0 * 8 + 0 * 4 + 0 }) ∧
    decodeTableWord 32 0x0C4614AB = some (.ldC { d := 5, a := 6, imm := 1 * 32 + 2 * 8 + 0 * 4 + 1 }) ∧
    decodeTableWord 32 0x08C614AF = some (.stC { d := 5, a := 6, imm := 1 * 32 + 0 * 8 + 0 * 4 + 3 }) ∧
    decodeTableWord 32 0x00C614B3 = some (.ldT { d := 5, a := 6, imm := 0 * 32 + 0 * 8 + 0 * 4 + 3 }) ∧
    decodeTableWord 32 0x00C614B7 = some (.stT { d := 5, a := 6, imm := 0 * 32 + 0 * 8 + 0 * 4 + 3 }) ∧
    decodeTableWord 32 0x138614BB = some (.ldG { d := 5, a := 6, imm := 2 * 32 + 1 * 8 + 1 * 4 + 2 }) ∧
    decodeTableWord 32 0x0C8614BF = some (.stG { d := 5, a := 6, imm := 1 * 32 + 2 * 8 + 0 * 4 + 2 }) ∧
    decodeTableWord 32 0x080614C3 = some (.ldq { d := 5, a := 6, imm := 1 * 32 + 0 * 8 + 0 * 4 + 0 }) ∧
    decodeTableWord 32 0x000614C7 = some (.stq { d := 5, a := 6, imm := 0 * 32 + 0 * 8 + 0 * 4 + 0 }) ∧
    decodeTableWord 32 0x04C614CB = some (.ldfe { d := 5, a := 6, imm := 0 * 32 + 2 * 8 + 0 * 4 + 3 }) ∧
    decodeTableWord 32 0x04C614CF = some (.stfe { d := 5, a := 6, imm := 0 * 32 + 2 * 8 + 0 * 4 + 3 }) :=
  ⟨rfl, rfl, rfl, rfl, rfl, rfl, rfl, rfl, rfl, rfl, rfl, rfl⟩

/-- 07 R244. -/
theorem test_decode_access_2 :
    decodeTableWord 32 0x11C600D3 = some (.fefill { fn := 1, a := 6, b := 7 }) ∧
    decodeTableWord 32 0x08C614D7 = some (.ldfeC { d := 5, a := 6, imm := 1 * 32 + 0 * 8 + 0 * 4 + 3 }) ∧
    decodeTableWord 32 0x00C614DB = some (.stfeC { d := 5, a := 6, imm := 0 * 32 + 0 * 8 + 0 * 4 + 3 }) ∧
    decodeTableWord 32 0x108000DF = some (.fence { fn := 1, b := 2 }) ∧
    decodeTableWord 32 0x21C614E3 = some (.xch { fn := 2, d := 5, a := 6, b := 7 }) ∧
    decodeTableWord 32 0x000614E7 = some (.rgclaim { d := 5, a := 6 }) ∧
    decodeTableWord 32 0x000600EB = some (.rgpost { a := 6 }) ∧
    decodeTableWord 32 0x000614EF = some (.rgtake { d := 5, a := 6 }) ∧
    decodeTableWord 32 0x000600F3 = some (.rgfree { a := 6 }) ∧
    decodeTableWord 32 0x01C600F7 = some (.rginit { a := 6, b := 7 }) ∧
    decodeTableWord 32 0x104600FB = some (.pref { a := 6, imm := 2 * 32 + 1 }) ∧
    decodeTableWord 32 0x000600FF = some (.tsplit { a := 6 }) :=
  ⟨rfl, rfl, rfl, rfl, rfl, rfl, rfl, rfl, rfl, rfl, rfl, rfl⟩

/-- 07 R244. -/
theorem test_decode_access_3 :
    decodeTableWord 32 0x11C61503 = some (.casS { fn := 1, d := 5, a := 6, b := 7 }) ∧
    decodeTableWord 32 0x71C61507 = some (.amoS { fn := 7, d := 5, a := 6, b := 7 }) ∧
    decodeTableWord 32 0x0006150B = some (.leaseq { d := 5, a := 6 }) ∧
    decodeTableWord 32 0x0006010F = some (.wfull { a := 6 }) :=
  ⟨rfl, rfl, rfl, rfl⟩

/-- 08 R267 and 05 R195. -/
theorem test_decode_fetch_and_pilot :
    decodeTableWord 32 0x11C60113 = some (.cpub { fn := 1, a := 6, b := 7 }) ∧
    decodeTableWord 32 0x21C61517 = some (.cpubq { fn := 2, d := 5, a := 6, b := 7 }) ∧
    decodeTableWord 32 0x0000011B = some (.ifence {}) ∧
    decodeTableWord 32 0x11C6011F = some (.ipatch { fn := 1, a := 6, b := 7 }) ∧
    decodeTableWord 32 0x00073123 = some (.spawn { d := 12, a := 7 }) ∧
    decodeTableWord 32 0x00073127 = some (.spawnw { d := 12, a := 7 }) ∧
    decodeTableWord 32 0x0000012B = some (.yield {}) ∧
    decodeTableWord 32 0x0000012F = some (.retire {}) ∧
    decodeTableWord 32 0x00000133 = some (.cbar {}) ∧
    decodeTableWord 32 0x01C61537 = some (.cbarq { d := 5, a := 6, b := 7 }) ∧
    decodeTableWord 32 0x01C6153B = some (.wseq { d := 5, a := 6, b := 7 }) ∧
    decodeTableWord 32 0x0042013F = some (.abort { imm := 0x42 }) :=
  ⟨rfl, rfl, rfl, rfl, rfl, rfl, rfl, rfl, rfl, rfl, rfl, rfl⟩

/-- 09 R290. -/
theorem test_decode_vector_1 :
    decodeTableWord 32 0x00030143 = some (.vlong { a := 3 }) ∧
    decodeTableWord 32 0x00000147 = some (.vshort {}) ∧
    decodeTableWord 32 0x0003094B = some (.setvl { d := 2, a := 3 }) ∧
    decodeTableWord 32 0x2103094F = some (.mset { fn := 2, d := 2, a := 3, b := 4 }) ∧
    decodeTableWord 32 0x00030953 = some (.mpop { d := 2, a := 3 }) ∧
    decodeTableWord 32 0x21030957 = some (.vxch { fn := 2, d := 2, a := 3, b := 4 }) ∧
    decodeTableWord 32 0x2000095B = some (.vidx { fn := 2, d := 2 }) ∧
    decodeTableWord 32 0x2003095F = some (.vld { fn := 2, d := 2, a := 3 }) ∧
    decodeTableWord 32 0x20030963 = some (.vst { fn := 2, d := 2, a := 3 }) ∧
    decodeTableWord 32 0x21030967 = some (.vlds { fn := 2, d := 2, a := 3, b := 4 }) ∧
    decodeTableWord 32 0x2103096B = some (.vsts { fn := 2, d := 2, a := 3, b := 4 }) ∧
    decodeTableWord 32 0x2103096F = some (.vldx { fn := 2, d := 2, a := 3, b := 4 }) :=
  ⟨rfl, rfl, rfl, rfl, rfl, rfl, rfl, rfl, rfl, rfl, rfl, rfl⟩

/-- 09 R290. -/
theorem test_decode_vector_2 :
    decodeTableWord 32 0x21230973 = some (.vstx { fn := 2, d := 2, a := 35, b := 4 }) ∧
    decodeTableWord 32 0x41030977 = some (.vadd { fn := 4, d := 2, a := 3, b := 4 }) ∧
    decodeTableWord 32 0x1103097B = some (.vsub { fn := 1, d := 2, a := 3, b := 4 }) ∧
    decodeTableWord 32 0x5103097F = some (.vmul { fn := 5, d := 2, a := 3, b := 4 }) ∧
    decodeTableWord 32 0x21030983 = some (.vmulhI { fn := 2, d := 2, a := 3, b := 4 }) ∧
    decodeTableWord 32 0x21030987 = some (.vmulhN { fn := 2, d := 2, a := 3, b := 4 }) ∧
    decodeTableWord 32 0x4103098B = some (.vfma { fn := 4, d := 2, a := 3, b := 4 }) ∧
    decodeTableWord 32 0x4103098F = some (.vdiv { fn := 4, d := 2, a := 3, b := 4 }) ∧
    decodeTableWord 32 0x31030993 = some (.vdivN { fn := 3, d := 2, a := 3, b := 4 }) ∧
    decodeTableWord 32 0x41030997 = some (.vmin { fn := 4, d := 2, a := 3, b := 4 }) ∧
    decodeTableWord 32 0x0103099B = some (.vminN { d := 2, a := 3, b := 4 }) ∧
    decodeTableWord 32 0x3103099F = some (.vmax { fn := 3, d := 2, a := 3, b := 4 }) :=
  ⟨rfl, rfl, rfl, rfl, rfl, rfl, rfl, rfl, rfl, rfl, rfl, rfl⟩

/-- 09 R290. -/
theorem test_decode_vector_3 :
    decodeTableWord 32 0x110309A3 = some (.vmaxN { fn := 1, d := 2, a := 3, b := 4 }) ∧
    decodeTableWord 32 0x310309A7 = some (.vandn { fn := 3, d := 2, a := 3, b := 4 }) ∧
    decodeTableWord 32 0x210309AB = some (.vshl { fn := 2, d := 2, a := 3, b := 4 }) ∧
    decodeTableWord 32 0x010309AF = some (.vshr { d := 2, a := 3, b := 4 }) ∧
    decodeTableWord 32 0x110309B3 = some (.vsar { fn := 1, d := 2, a := 3, b := 4 }) ∧
    decodeTableWord 32 0x410345B7 = some (.vcmp { fn := 4, d := 17, a := 3, b := 4 }) ∧
    decodeTableWord 32 0x610309BB = some (.vsel { fn := 6, d := 2, a := 3, b := 4 }) ∧
    decodeTableWord 32 0x400309BF = some (.vmov { fn := 4, d := 2, a := 3 }) ∧
    decodeTableWord 32 0x404309C3 = some (.vneg { fn := 4, d := 2, a := 3, b := 1 }) ∧
    decodeTableWord 32 0x400309C7 = some (.vexp2 { fn := 4, d := 2, a := 3 }) ∧
    decodeTableWord 32 0x500309CB = some (.vlog2 { fn := 5, d := 2, a := 3 }) ∧
    decodeTableWord 32 0x400309CF = some (.vrecip { fn := 4, d := 2, a := 3 }) :=
  ⟨rfl, rfl, rfl, rfl, rfl, rfl, rfl, rfl, rfl, rfl, rfl, rfl⟩

/-- 09 R290. -/
theorem test_decode_vector_4 :
    decodeTableWord 32 0x404309D3 = some (.vrsqrt { fn := 4, d := 2, a := 3, b := 1 }) ∧
    decodeTableWord 32 0x404309D7 = some (.vact { fn := 4, d := 2, a := 3, b := 1 }) ∧
    decodeTableWord 32 0x210309DB = some (.vperm { fn := 2, d := 2, a := 3, b := 4 }) ∧
    decodeTableWord 32 0x410309DF = some (.vslide { fn := 4, d := 2, a := 3, b := 4 }) ∧
    decodeTableWord 32 0x400309E3 = some (.vcompress { fn := 4, d := 2, a := 3 }) ∧
    decodeTableWord 32 0x400309E7 = some (.vexpand { fn := 4, d := 2, a := 3 }) ∧
    decodeTableWord 32 0x400309EB = some (.vredsum { fn := 4, d := 2, a := 3 }) ∧
    decodeTableWord 32 0x400309EF = some (.vredsumO { fn := 4, d := 2, a := 3 }) ∧
    decodeTableWord 32 0x204309F3 = some (.vredmm { fn := 2, d := 2, a := 3, b := 1 }) ∧
    decodeTableWord 32 0x400309F7 = some (.vscan { fn := 4, d := 2, a := 3 }) ∧
    decodeTableWord 32 0x404409FB = some (.vsortkv { fn := 4, d := 2, a := 4, b := 1 }) ∧
    decodeTableWord 32 0x410309FF = some (.vsegred { fn := 4, d := 2, a := 3, b := 4 }) :=
  ⟨rfl, rfl, rfl, rfl, rfl, rfl, rfl, rfl, rfl, rfl, rfl, rfl⟩

/-- 10 R328. -/
theorem test_decode_slices_1 :
    decodeTableWord 32 0x01C61603 = some (.amoG { d := 5, a := 6, b := 7 }) ∧
    decodeTableWord 32 0x71E61603 = some (.amoG { fn := 7, d := 5, a := 38, b := 7 }) ∧
    decodeTableWord 32 0x11C61607 = some (.casG { fn := 1, d := 5, a := 6, b := 7 }) ∧
    decodeTableWord 32 0x21C6020B = some (.redG { fn := 2, a := 6, b := 7 }) ∧
    decodeTableWord 32 0x01C6020F = some (.fredG { a := 6, b := 7 }) ∧
    decodeTableWord 32 0x21C61613 = some (.famoG { fn := 2, d := 5, a := 6, b := 7 }) ∧
    decodeTableWord 32 0x3A66A217 = some (.vredG { fn := 3, d := 40, a := 38, b := 41 }) ∧
    decodeTableWord 32 0x088F9A1B = some (.vfredG { d := 38, a := 15, b := 34 }) ∧
    decodeTableWord 32 0x3000021F = some (.rfence { fn := 3 }) ∧
    decodeTableWord 32 0x00060223 = some (.rgrain { a := 6 }) ∧
    decodeTableWord 32 0x00060227 = some (.rdrop { a := 6 }) ∧
    decodeTableWord 32 0x11C6022B = some (.gflush { fn := 1, a := 6, b := 7 }) :=
  ⟨rfl, rfl, rfl, rfl, rfl, rfl, rfl, rfl, rfl, rfl, rfl, rfl⟩

/-- 10 R328. -/
theorem test_decode_slices_2 :
    decodeTableWord 32 0x0006162F = some (.gquery { d := 5, a := 6 }) :=
  rfl

/-- 11's encodings. -/
theorem test_decode_rotator :
    decodeTableWord 32 0x00030A33 = some (.seed { d := 2, a := 3 }) ∧
    decodeTableWord 32 0x00030A37 = some (.seedq { d := 2, a := 3 }) ∧
    decodeTableWord 32 0x0003023B = some (.srseed { a := 3 }) ∧
    decodeTableWord 32 0x01030A3F = some (.rtag { d := 2, a := 3, b := 4 }) ∧
    decodeTableWord 32 0x10218A43 = some (.cvtn { fn := 1, d := 34, a := 33 }) ∧
    decodeTableWord 32 0x00218A47 = some (.cvtnF { d := 34, a := 33 }) ∧
    decodeTableWord 32 0x20218A4B = some (.cvtw { fn := 2, d := 34, a := 33 }) ∧
    decodeTableWord 32 0x00218A4F = some (.cvtwF { d := 34, a := 33 }) ∧
    decodeTableWord 32 0x1021FE53 = some (.qscale { fn := 1, d := 63, a := 33 }) ∧
    decodeTableWord 32 0x40218A57 = some (.rotv { fn := 4, d := 34, a := 33 }) ∧
    decodeTableWord 32 0x50218A5B = some (.unrotv { fn := 5, d := 34, a := 33 }) ∧
    decodeTableWord 32 0x10218A5F = some (.cvti { fn := 1, d := 34, a := 33 }) :=
  ⟨rfl, rfl, rfl, rfl, rfl, rfl, rfl, rfl, rfl, rfl, rfl, rfl⟩

/-- 12 R370. -/
theorem test_decode_matrix_1 :
    decodeTableWord 32 0x10000263 = some (.mzero { fn := 1 }) ∧
    decodeTableWord 32 0x00060267 = some (.mld { a := 6 }) ∧
    decodeTableWord 32 0x3006026B = some (.mst { fn := 3, a := 6 }) ∧
    decodeTableWord 32 0x0006026F = some (.mbar { a := 6 }) ∧
    decodeTableWord 32 0x00060273 = some (.mwait { a := 6 }) ∧
    decodeTableWord 32 0x00060277 = some (.mtr { a := 6 }) ∧
    decodeTableWord 32 0x00068A7B = some (.mrow { d := 34, a := 6 }) ∧
    decodeTableWord 32 0x0006027F = some (.mramp { a := 6 }) ∧
    decodeTableWord 32 0x01C61683 = some (.mtag { d := 5, a := 6, b := 7 }) ∧
    decodeTableWord 32 0x00060287 = some (.mscl { a := 6 }) ∧
    decodeTableWord 32 0x21C6028B = some (.mma { fn := 2, a := 6, b := 7 }) ∧
    decodeTableWord 32 0x11C6028B = some (.mma { fn := 1, a := 6, b := 7 }) :=
  ⟨rfl, rfl, rfl, rfl, rfl, rfl, rfl, rfl, rfl, rfl, rfl, rfl⟩

/-- 12 R370. -/
theorem test_decode_matrix_2 :
    decodeTableWord 32 0x21C6028F = some (.mmaC { fn := 2, a := 6, b := 7 }) ∧
    decodeTableWord 32 0x21C60293 = some (.mmas { fn := 2, a := 6, b := 7 }) ∧
    decodeTableWord 32 0x31C60297 = some (.mmax { fn := 3, a := 6, b := 7 }) ∧
    decodeTableWord 32 0x1000029B = some (.macc { fn := 1 }) ∧
    decodeTableWord 32 0x20008A9F = some (.mcvt { fn := 2, d := 34 }) :=
  ⟨rfl, rfl, rfl, rfl, rfl⟩

/-- 13's encodings. -/
theorem test_decode_crane :
    decodeTableWord 32 0x000616A3 = some (.crn { d := 5, a := 6 }) ∧
    decodeTableWord 32 0x01C616A7 = some (.crnF { d := 5, a := 6, b := 7 }) ∧
    decodeTableWord 32 0x000616AB = some (.crnT { d := 5, a := 6 }) ∧
    decodeTableWord 32 0x01C616AF = some (.crnR { d := 5, a := 6, b := 7 }) ∧
    decodeTableWord 32 0x000616B3 = some (.crnq { d := 5, a := 6 }) ∧
    decodeTableWord 32 0x01C602B7 = some (.crnw { a := 6, b := 7 }) ∧
    decodeTableWord 32 0x000602BB = some (.crnX { a := 6 }) ∧
    decodeTableWord 32 0x000616BF = some (.crnC { d := 5, a := 6 }) :=
  ⟨rfl, rfl, rfl, rfl, rfl, rfl, rfl, rfl⟩

/-- 14 R439's, bcall and bstat with the opcodes of 02 R70 (log 8). -/
theorem test_decode_bead_1 :
    decodeTableWord 32 0x01C68AC3 = some (.ldB { d := 34, a := 6, b := 7 }) ∧
    decodeTableWord 32 0x01C68AC7 = some (.stB { d := 34, a := 6, b := 7 }) ∧
    decodeTableWord 32 0x01C616CB = some (.bcall { d := 5, a := 6, b := 7 }) ∧
    decodeTableWord 32 0x01C602CF = some (.bfence { a := 6, b := 7 }) ∧
    decodeTableWord 32 0x01C602D3 = some (.block { a := 6, b := 7 }) ∧
    decodeTableWord 32 0x01C602D7 = some (.bunlk { a := 6, b := 7 }) ∧
    decodeTableWord 32 0x01C602DB = some (.bseal { a := 6, b := 7 }) ∧
    decodeTableWord 32 0x000616DF = some (.bstat { d := 5, a := 6 }) ∧
    decodeTableWord 32 0x01C602E3 = some (.bcsl { a := 6, b := 7 }) ∧
    decodeTableWord 32 0x000602E7 = some (.bsave { a := 6 }) ∧
    decodeTableWord 32 0x000602EB = some (.brest { a := 6 }) ∧
    decodeTableWord 32 0x01C602EF = some (.bwdog { a := 6, b := 7 }) :=
  ⟨rfl, rfl, rfl, rfl, rfl, rfl, rfl, rfl, rfl, rfl, rfl, rfl⟩

/-- 14 R439's, bcall and bstat with the opcodes of 02 R70 (log 8). -/
theorem test_decode_bead_2 :
    decodeTableWord 32 0x100602F3 = some (.bmode { fn := 1, a := 6 }) ∧
    decodeTableWord 32 0x01C602F7 = some (.bpart { a := 6, b := 7 }) ∧
    decodeTableWord 32 0x01C602FB = some (.bscrub { a := 6, b := 7 }) :=
  ⟨rfl, rfl, rfl⟩

/-- 02's examples: compressed halves, and a pair. -/
theorem test_decode_halves :
    decodeTableWord 16 0x0B45 = some (.cLi { d := 10, imm := 5 }) ∧ decodeTableWord 16 0x0165 = some (.cLi { d := 11, imm := 0 }) ∧
    decodeTableWord 16 0x1564 = some (.cAdd { d := 11, a := 10 }) ∧ decodeTableWord 16 0xFF41 = some (.cAddi { d := 10, imm := -1 }) ∧
    decodeTableWord 16 0x0003 = some .paddingHalf ∧ decodeTableWord 32 0xFFD12863 = some (.br { a := 10, cond := 1, off := -6 }) ∧
    decodeTableWord 64 0x4040097700001BFF = some (.prefixedPair { rnd := 6 } (.vadd { fn := 4, d := 2, b := 1 })) ∧
    decodeTableWord 32 0 = none :=
  ⟨rfl, rfl, rfl, rfl, rfl, rfl, rfl, rfl⟩

/-! ## WellFormed: a term for each check, which the check refuses -/

theorem test_wellFormed_halves : ([.cBrb { a := 0 }, .cMv { x := 1 }, .cAdd { x := 1 }, .cXor { x := 3 }, .cShli { imm := 64 }, .cShri { imm := 64 },
    .cJr { d := 1 }, .cJr { x := 1 }, .cNop { a := 1 }, .cYield { d := 1 }, .cLidx { x := 6 }, .cLidx { a := 1 }] : List Instr).all
    (fun i => !wellFormed i) = true := by decide +kernel

theorem test_wellFormed_sequencer : ([.add { d := 32 }, .add { fn := 1 }, .sub { a := 32 }, .andR { b := 32 }, .addi { d := 32 },
    .logi { imm := 0x300 }, .shi { imm := 0x40 }, .mulh { fn := 3 }, .div { fn := 2 }, .rem { fn := 2 }, .minmax { fn := 4 },
    .cmp { fn := 6 }, .lui { d := 32 }, .addpc { d := 32 }, .fops { fn := 7 }, .fops { fn := 4, b := 1 }, .ffma { fn := 2 },
    .fcmp { fn := 4 }, .fcvt { b := 1 }, .fcvt { fn := 6 }, .br { a := 32 }, .brb { a := 0 }, .brb { a := 1, cond := 2 },
    .jr { b := 1 }, .loopR { body := 0 }, .loopR { body := 1, flags := 4 }, .loopR { body := 1, count := 32 }, .loopi { body := 0 },
    .lexit { fn := 6 }, .lexit { d := 1 }, .lidx { fn := 6 }, .lidx { a := 1 }, .fe { fn := 3 }, .fe { a := 1 }, .getc { imm := 0x12 },
    .setc { imm := 0x12 }, .trap { imm := 0x7F }, .trap { imm := 0x100 }, .trap { imm := 0x80, d := 1 }, .tret { a := 1 },
    .sys { d := 1 }, .brk { d := 1 }] : List Instr).all (fun i => !wellFormed i) = true := by decide +kernel

theorem test_wellFormed_access : ([.ldS { imm := 0x18 }, .ldS { a := 32 }, .stS { imm := 4 }, .stG { imm := 0x18 }, .ldq { imm := 1 },
    .stq { imm := 4 }, .ldfe { imm := 2 }, .stfeC { imm := 7 }, .fefill { fn := 2 }, .fefill { d := 1 }, .fence { fn := 5 },
    .fence { b := 3 }, .fence { a := 1 }, .xch { fn := 6 }, .xch { d := 32 }, .rgclaim { b := 1 }, .rgpost { d := 1 }, .rginit { fn := 1 },
    .pref { imm := 2 }, .pref { d := 1 }, .pref { imm := 8 }, .tsplit { b := 1 }, .casS { fn := 2 }, .amoS { d := 32 }, .leaseq { fn := 1 },
    .wfull { d := 1 }, .cpub { fn := 5 }, .cpub { d := 1 }, .ifence { fn := 1 }, .ipatch { a := 32 }, .spawn { b := 1 }, .spawnw { d := 0 },
    .yield { d := 1 }, .retire { a := 1 }, .cbar { d := 1 }, .wseq { fn := 1 }, .abort { d := 1 }] : List Instr).all
    (fun i => !wellFormed i) = true := by decide +kernel

theorem test_wellFormed_vector : ([.vlong { d := 1 }, .vshort { a := 1 }, .setvl { b := 1 }, .mset { d := 8 }, .mset { a := 32 },
    .mpop { a := 8 }, .mpop { fn := 1 }, .vxch { b := 32 }, .vidx { fn := 4 }, .vidx { a := 1 }, .vld { b := 1 }, .vlds { b := 32 },
    .vadd { fn := 6 }, .vmulhI { fn := 4 }, .vmaxN { fn := 4 }, .vand { fn := 1 }, .vxnor { fn := 4 }, .vshl { fn := 4 },
    .vcmp { fn := 6 }, .vcmp { d := 0x30 }, .vmov { a := 32 }, .vmov { b := 1 }, .vabs { b := 1 }, .vneg { b := 0 }, .vexp2 { fn := 3 },
    .vrsqrt { fn := 4, b := 0 }, .vact { fn := 4, b := 2 }, .vslide { b := 32 }, .vcompress { b := 1 }, .vredsum { fn := 6 },
    .vredmm { b := 4 }, .vredmm { b := 2, fn := 4 }, .vscan { b := 3 }, .vsortkv { b := 2 }, .vsortkv { d := 1 }, .vsegred { fn := 6 }] :
    List Instr).all (fun i => !wellFormed i) = true := by decide +kernel

theorem test_wellFormed_engines : ([.amoG { d := 32 }, .casG { fn := 2 }, .redG { d := 1 }, .fredG { fn := 3 }, .famoG { fn := 3 },
    .vfredG { a := 32 }, .rfence { fn := 5 }, .rgrain { d := 1 }, .gflush { fn := 2 }, .gquery { b := 1 }, .seed { d := 0 },
    .seed { d := 16 }, .seedq { a := 16 }, .srseed { b := 1 }, .rtag { fn := 1 }, .cvtn { fn := 4 }, .cvtn { fn := 1, d := 63 },
    .cvtnF { a := 63 }, .cvtw { b := 1 }, .qscale { fn := 0 }, .rotv { fn := 3 }, .unrotv { fn := 4, b := 1 }, .cvti { fn := 3 },
    .cvti { fn := 1, d := 63 }, .mzero { fn := 2 }, .mld { d := 1 }, .mst { fn := 4 }, .mrow { b := 1 }, .mtag { fn := 1 },
    .mma { fn := 4 }, .mma { d := 1 }, .macc { a := 1 }, .mcvt { fn := 6 }, .mcvt { a := 1 }, .crn { b := 1 }, .crnF { fn := 1 },
    .crnw { d := 1 }, .crnX { d := 1 }, .ldB { fn := 1 }, .stB { a := 32 }, .bcall { fn := 1 }, .bfence { d := 1 }, .bstat { b := 1 },
    .bsave { b := 1 }, .bmode { fn := 3 }, .bpart { d := 1 }] : List Instr).all (fun i => !wellFormed i) = true := by decide +kernel

theorem test_wellFormed_pairs : ([.prefixedPair {} (.add {}), .prefixedPair { rnd := 7 } (.vadd { fn := 4 }),
    .prefixedPair { rnd := 1 } (.vadd { fn := 0 }), .prefixedPair { sat := 3 } (.vadd { fn := 4 }), .prefixedPair { emp := 4 } (.vadd {}),
    .prefixedPair { slot := 1 } (.vadd { fn := 4 }), .prefixedPair { ixb := 32 } (.vadd { fn := 4 }), .prefixedPair { ixb := 1 } (.vadd {}),
    .prefixedPair { ord := 1 } (.vadd {}), .prefixedPair {} (.vadd { e := 1 }), .prefixedPair {} (.vadd { fn := 6 }), .tideTick] :
    List Instr).all (fun i => !wellFormed i) = true := by decide +kernel

/-! ## Runs: one step, its fields worked out from the rule it names -/

/-- What a step leaves in a register. -/
def leaves (o : Host.Outcome State Fault Refusal) (r : Nat) : Option Word := (after o).map (fun t => t.self.readG r)

/-- R219: sums and differences modulo 2^64; a register that is source and destination. -/
theorem test_run_sub_wraps : leaves (exec (.sub (fa 0)) three) 3 = some 0xFFFFFFFFFFFFFFFF ∧
    leaves (exec (.add { a := 3, b := 3, d := 3 }) three) 3 = some 18 := by decide +kernel

/-- R220: a negative quotient is truncated toward zero, and the remainder takes the dividend's sign. -/
theorem test_run_division : leaves (exec (.div (fa 0)) (quotient 0xFFFFFFFFFFFFFFF9 2)) 3 = some 0xFFFFFFFFFFFFFFFD ∧
    leaves (exec (.rem (fa 0)) (quotient 0xFFFFFFFFFFFFFFF9 2)) 3 = some 0xFFFFFFFFFFFFFFFF := by decide +kernel

/-- R219: the high half of a signed product, and a rotation. -/
theorem test_run_mulh : leaves (exec (.mulh (fa 0)) (quotient 0xFFFFFFFFFFFFFFFF 2)) 3 = some 0xFFFFFFFFFFFFFFFF ∧
    leaves (exec (.mulh (fa 1)) (quotient 0xFFFFFFFFFFFFFFFF 2)) 3 = some 1 ∧
    leaves (exec (.shi { a := 1, d := 3, imm := 0x304 }) three) 3 = some 0x6000000000000000 := by decide +kernel

/-- R223: 1.0 + 2.0 = 3.0 in FP32; R224: FP32 1.0 to BF16 is its high half. -/
theorem test_run_float : leaves (exec (.fops (fa 0)) (quotient 0x3F800000 0x40000000)) 3 = some 0x40400000 ∧
    leaves (exec (.fcvt { fn := 4, a := 1, d := 3 }) (quotient 0x3F800000 0)) 3 = some 0x3F80 := by decide +kernel

/-- R225, R226: a taken branch of -6 halfwords, as the worked program of 02 has it at 0x10; jal leaves its return address. -/
theorem test_run_branch :
    (after (exec (.br { a := 1, cond := 1, off := -6 }) (of { strand [(1, 4)] with pc := 0x10 }))).map (fun t => t.self.pc) = some 4 ∧
    leaves (exec (.jal { off := 0x80 }) three) 31 = some 0x104 := by decide +kernel

/-- R233: a trap with a handler records its code and the address after it; R235: tret goes back. -/
theorem test_run_trap :
    (after (exec (.trap { imm := 0x80 }) (handled false))).map (fun t => (t.self.pc, t.self.tpc, t.self.tcode, t.self.inTrap)) =
      some (0x800, 0x104, 0x80, true) ∧
    (after (exec (.tret {}) (handled true))).map (fun t => (t.self.pc, t.self.inTrap)) = some (0x104, false) := by decide +kernel

/-- R228: loop pushes a level with its count, at its body. -/
theorem test_run_loop : (after (exec (.loopR { body := 10, count := 1 }) (nested 0 0))).map (fun t => (t.self.pc, t.self.loops)) =
    some (0x104, [⟨0x104, 0x118, 3, 0, false⟩]) := by decide +kernel

/-- The step of a machine in which an addition stands: it retires at its PC and the strand goes on behind it. -/
theorem test_run_step : (after (step (turn 32 0xFF46140B))).map (fun t => (t.self.pc, t.self.readG 5)) =
    some (4, 0xFFFFFFFFFFFFFFFD) := by decide +kernel

end Sys2Proof.Tests
end

/-! PROOF. O53: the decoder and the encoder agree. A layout reads back what it lays and lays what it read; the opcode map
and the encoder name the same layout and opcode for each instruction; so each kind of word goes both ways. -/

namespace Sys2Proof

open BitVec

/-! ## 32-bit words: the layouts, and the opcode map against its encoder (R51, R61 to R71) -/

/-- A 32-bit layout (R51): how its fields are read from a parcel, and the 22 bits they fill above the opcode. -/
structure Layout (F : Type) where
  read : Parcel → F
  fields : F → BitVec 22
  read_laid : ∀ f (op : BitVec 8), read (fields f ++ op ++ 3#2) = f
  fields_read : ∀ p, fields (read p) = p.extractLsb' 10 22

def FA.layout : Layout FA where
  read := FA.ofParcel
  fields f := f.e ++ f.fn ++ f.b ++ f.a ++ f.d
  read_laid f op := by
    let w := f.e ++ f.fn ++ f.b ++ f.a ++ f.d ++ op ++ 3#2
    show (⟨extractLsb' 31 1 w, extractLsb' 28 3 w, extractLsb' 22 6 w, extractLsb' 16 6 w, extractLsb' 10 6 w⟩ : FA) = f
    simp (disch := decide) only [w, extractLsb'_append_eq_of_add_le, extractLsb'_append_eq_of_le, extractLsb'_eq_self,
      Nat.reduceSub]
  fields_read p := by
    show p.extractLsb' 31 1 ++ p.extractLsb' 28 3 ++ p.extractLsb' 22 6 ++ p.extractLsb' 16 6 ++ p.extractLsb' 10 6 = _
    simp (disch := decide) only [extractLsb'_append_extractLsb'_eq_extractLsb']

def FI.layout : Layout FI where
  read := FI.ofParcel
  fields f := f.imm ++ f.a ++ f.d
  read_laid f op := by
    let w := f.imm ++ f.a ++ f.d ++ op ++ 3#2
    show (⟨extractLsb' 22 10 w, extractLsb' 16 6 w, extractLsb' 10 6 w⟩ : FI) = f
    simp (disch := decide) only [w, extractLsb'_append_eq_of_add_le, extractLsb'_append_eq_of_le, extractLsb'_eq_self,
      Nat.reduceSub]
  fields_read p := by
    show p.extractLsb' 22 10 ++ p.extractLsb' 16 6 ++ p.extractLsb' 10 6 = _
    simp (disch := decide) only [extractLsb'_append_extractLsb'_eq_extractLsb']

def FU.layout : Layout FU where
  read := FU.ofParcel
  fields f := f.imm ++ f.d
  read_laid f op := by
    let w := f.imm ++ f.d ++ op ++ 3#2
    show (⟨extractLsb' 16 16 w, extractLsb' 10 6 w⟩ : FU) = f
    simp (disch := decide) only [w, extractLsb'_append_eq_of_add_le, extractLsb'_append_eq_of_le, extractLsb'_eq_self,
      Nat.reduceSub]
  fields_read _ := extractLsb'_append_extractLsb'_eq_extractLsb' rfl

def FB.layout : Layout FB where
  read := FB.ofParcel
  fields f := f.off ++ f.cond ++ f.a
  read_laid f op := by
    let w := f.off ++ f.cond ++ f.a ++ op ++ 3#2
    show (⟨extractLsb' 19 13 w, extractLsb' 16 3 w, extractLsb' 10 6 w⟩ : FB) = f
    simp (disch := decide) only [w, extractLsb'_append_eq_of_add_le, extractLsb'_append_eq_of_le, extractLsb'_eq_self,
      Nat.reduceSub]
  fields_read p := by
    show p.extractLsb' 19 13 ++ p.extractLsb' 16 3 ++ p.extractLsb' 10 6 = _
    simp (disch := decide) only [extractLsb'_append_extractLsb'_eq_extractLsb']

def FJ.layout : Layout FJ where
  read := FJ.ofParcel
  fields f := f.off
  read_laid f op := by
    let w := f.off ++ op ++ 3#2
    show (⟨extractLsb' 10 22 w⟩ : FJ) = f
    simp (disch := decide) only [w, extractLsb'_append_eq_of_le, extractLsb'_eq_self, Nat.reduceSub]
  fields_read _ := rfl

def FL.layout : Layout FL where
  read := FL.ofParcel
  fields f := f.flags ++ f.body ++ f.count
  read_laid f op := by
    let w := f.flags ++ f.body ++ f.count ++ op ++ 3#2
    show (⟨extractLsb' 28 4 w, extractLsb' 16 12 w, extractLsb' 10 6 w⟩ : FL) = f
    simp (disch := decide) only [w, extractLsb'_append_eq_of_add_le, extractLsb'_append_eq_of_le, extractLsb'_eq_self,
      Nat.reduceSub]
  fields_read p := by
    show p.extractLsb' 28 4 ++ p.extractLsb' 16 12 ++ p.extractLsb' 10 6 = _
    simp (disch := decide) only [extractLsb'_append_extractLsb'_eq_extractLsb']

theorem opcode_laid (hi : BitVec 22) (op : BitVec 8) : (hi ++ op ++ 3#2).extractLsb' 2 8 = op := by
  rw [extractLsb'_append_eq_of_le (by decide), extractLsb'_append_eq_right]

theorem isWide_laid (hi : BitVec 22) (op : BitVec 8) : isWide (hi ++ op ++ 3#2) = true := by
  rw [isWide, extractLsb'_append_eq_right]; rfl

/-- A parcel that is not compressed is laid from its fields and its opcode. -/
theorem Layout.laid_read {F : Type} (L : Layout F) {p : Parcel} (hw : isWide p = true) :
    L.fields (L.read p) ++ p.extractLsb' 2 8 ++ 3#2 = p := by
  rw [L.fields_read, show 3#2 = p.extractLsb' 0 2 from (eq_of_beq hw).symm]
  iterate 2 rw [extractLsb'_append_extractLsb'_eq_extractLsb' (by decide)]
  exact extractLsb'_eq_self

/-- Opcode 0x69 names six instructions by fn (R67). -/
def FA.logic (f : FA) : Instr :=
  match f.fn.toNat with
  | 1 => .vor f
  | 2 => .vxor f
  | 3 => .vandn f
  | 4 => .vorn f
  | 5 => .vxnor f
  | _ => .vand f

/-- Opcode 0x70 names two instructions by b (R67). -/
def FA.sign (f : FA) : Instr := if f.b == 1 then .vneg f else .vabs f

/-- Opcode 0x74 names two instructions by b (R67). -/
def FA.root (f : FA) : Instr := if f.b == 1 then .vrsqrt f else .vsqrt f

/-- The kinds of well-formed words (R42): the padding half, a compressed half, which takes no first word, and a 32-bit
word; each is decoded from what it is encoded as. -/
inductive ReadsBack (j : Instr) : Prop where
  | padding (h : j = .paddingHalf)
  | half (hx : pxUse j = none) (h : decodeHalfFields (encodeHalf j) = some j)
  | wide (h7 : encodeHalf j = 7) (hw : isWide (encodeParcel j) = true) (h : decodeFields (encodeParcel j) = some j)

/-- An instruction whose row names a layout and an opcode, and which is laid by that layout under that opcode, is read back. -/
theorem Layout.readsBack {F : Type} (L : Layout F) {k : F → Instr} {op : BitVec 8} {f : F} (h7 : encodeHalf (k f) = 7)
    (hk : encodeParcel (k f) = L.fields f ++ op ++ 3#2)
    (h : ∀ p, (p.extractLsb' 2 8).toNat = op.toNat → decodeFields p = some (k (L.read p))) : ReadsBack (k f) :=
  .wide h7 (hk ▸ isWide_laid _ op) (by rw [hk, h _ (congrArg _ (opcode_laid _ op)), L.read_laid])

theorem FA.logic_encodes (f : FA) :
    encodeHalf f.logic = 7 ∧ encodeParcel f.logic = FA.layout.fields f ++ (0x69 : BitVec 8) ++ 3#2 := by
  unfold FA.logic; split <;> exact ⟨rfl, rfl⟩

theorem FA.sign_encodes (f : FA) :
    encodeHalf f.sign = 7 ∧ encodeParcel f.sign = FA.layout.fields f ++ (0x70 : BitVec 8) ++ 3#2 := by
  unfold FA.sign; split <;> exact ⟨rfl, rfl⟩

theorem FA.root_encodes (f : FA) :
    encodeHalf f.root = 7 ∧ encodeParcel f.root = FA.layout.fields f ++ (0x74 : BitVec 8) ++ 3#2 := by
  unfold FA.root; split <;> exact ⟨rfl, rfl⟩

set_option maxRecDepth 20000 in
theorem FA.logic_readsBack (f : FA) : ReadsBack f.logic :=
  FA.layout.readsBack f.logic_encodes.1 f.logic_encodes.2 fun p h => by unfold decodeFields; rw [h]; exact rfl

set_option maxRecDepth 20000 in
theorem FA.sign_readsBack (f : FA) : ReadsBack f.sign :=
  FA.layout.readsBack f.sign_encodes.1 f.sign_encodes.2 fun p h => by unfold decodeFields; rw [h]; exact rfl

set_option maxRecDepth 20000 in
theorem FA.root_readsBack (f : FA) : ReadsBack f.root :=
  FA.layout.readsBack f.root_encodes.1 f.root_encodes.2 fun p h => by unfold decodeFields; rw [h]; exact rfl

/-! ## Compressed halves (R47, R48) -/

/-- A compressed layout (R47): how its fields are read from a half, and the 11 bits they fill above cop and sel. -/
structure HalfLayout (F : Type) where
  read : BitVec 16 → F
  fields : F → BitVec 11
  read_laid : ∀ f (cop : BitVec 3) (sel : BitVec 2), read (fields f ++ cop ++ sel) = f
  fields_read : ∀ h, fields (read h) = h.extractLsb' 5 11

def CR.layout : HalfLayout CR where
  read := CR.ofHalf
  fields f := f.x ++ f.a ++ f.d
  read_laid f cop sel := by
    let w := f.x ++ f.a ++ f.d ++ cop ++ sel
    show (⟨extractLsb' 13 3 w, extractLsb' 9 4 w, extractLsb' 5 4 w⟩ : CR) = f
    simp (disch := decide) only [w, extractLsb'_append_eq_of_add_le, extractLsb'_append_eq_of_le, extractLsb'_eq_self,
      Nat.reduceSub]
  fields_read h := by
    show h.extractLsb' 13 3 ++ h.extractLsb' 9 4 ++ h.extractLsb' 5 4 = _
    simp (disch := decide) only [extractLsb'_append_extractLsb'_eq_extractLsb']

def CI.layout : HalfLayout CI where
  read := CI.ofHalf
  fields f := f.imm ++ f.d
  read_laid f cop sel := by
    let w := f.imm ++ f.d ++ cop ++ sel
    show (⟨extractLsb' 9 7 w, extractLsb' 5 4 w⟩ : CI) = f
    simp (disch := decide) only [w, extractLsb'_append_eq_of_add_le, extractLsb'_append_eq_of_le, extractLsb'_eq_self,
      Nat.reduceSub]
  fields_read _ := extractLsb'_append_extractLsb'_eq_extractLsb' rfl

def CB.layout : HalfLayout CB where
  read := CB.ofHalf
  fields f := f.off ++ f.a
  read_laid f cop sel := by
    let w := f.off ++ f.a ++ cop ++ sel
    show (⟨extractLsb' 9 7 w, extractLsb' 5 4 w⟩ : CB) = f
    simp (disch := decide) only [w, extractLsb'_append_eq_of_add_le, extractLsb'_append_eq_of_le, extractLsb'_eq_self,
      Nat.reduceSub]
  fields_read _ := extractLsb'_append_extractLsb'_eq_extractLsb' rfl

def CJ.layout : HalfLayout CJ where
  read := CJ.ofHalf
  fields f := f.off
  read_laid f cop sel := by
    let w := f.off ++ cop ++ sel
    show (⟨extractLsb' 5 11 w⟩ : CJ) = f
    simp (disch := decide) only [w, extractLsb'_append_eq_of_le, extractLsb'_eq_self, Nat.reduceSub]
  fields_read _ := rfl

theorem cop_laid (hi : BitVec 11) (cop : BitVec 3) (sel : BitVec 2) : (hi ++ cop ++ sel).extractLsb' 2 3 = cop := by
  rw [extractLsb'_append_eq_of_le (by decide), extractLsb'_append_eq_right]

theorem sel_laid (hi : BitVec 11) (cop : BitVec 3) (sel : BitVec 2) : (hi ++ cop ++ sel).extractLsb' 0 2 = sel :=
  extractLsb'_append_eq_right

theorem HalfLayout.laid_read {F : Type} (L : HalfLayout F) (h : BitVec 16) :
    L.fields (L.read h) ++ h.extractLsb' 2 3 ++ h.extractLsb' 0 2 = h := by
  rw [L.fields_read]
  iterate 2 rw [extractLsb'_append_extractLsb'_eq_extractLsb' (by decide)]
  exact extractLsb'_eq_self

/-- As `Layout.readsBack`, for a compressed row. -/
theorem HalfLayout.readsBack {F : Type} (L : HalfLayout F) {k : F → Instr} {cop : BitVec 3} {sel : BitVec 2} {f : F}
    (hx : pxUse (k f) = none) (hk : encodeHalf (k f) = L.fields f ++ cop ++ sel)
    (h : ∀ w, (w.extractLsb' 0 2).toNat = sel.toNat → (w.extractLsb' 2 3).toNat = cop.toNat →
      decodeHalfFields w = some (k (L.read w))) : ReadsBack (k f) :=
  .half hx (by rw [hk, h _ (congrArg _ (sel_laid _ _ _)) (congrArg _ (cop_laid _ _ _)), L.read_laid])


/-! ## Both tables, row by row -/

set_option maxRecDepth 20000 in
/-- Every word whose fields the encoding admits is read back from what it is encoded as. -/
theorem readsBack_of_wordOk {j : Instr} (hj : wordOk j = true) : ReadsBack j := by
  cases j
  case paddingHalf => exact .padding rfl
  case cMv f | cAdd f | cSub f | cAnd f | cOr f | cXor f | cLds f | cSts f | cJr f | cNop f | cYield f | cLidx f =>
    exact CR.layout.readsBack rfl rfl fun w hs hc => by unfold decodeHalfFields; rw [hs, hc]; exact rfl
  case cAddi f | cLi f | cShli f | cShri f =>
    exact CI.layout.readsBack rfl rfl fun w hs hc => by unfold decodeHalfFields; rw [hs, hc]; exact rfl
  case cBeqz f | cBnez f | cBrb f =>
    exact CB.layout.readsBack rfl rfl fun w hs hc => by unfold decodeHalfFields; rw [hs, hc]; exact rfl
  case cJmp f => exact CJ.layout.readsBack rfl rfl fun w hs hc => by unfold decodeHalfFields; rw [hs, hc]; exact rfl
  case addi f | logi f | shi f | ldS f | stS f | ldC f | stC f | ldT f | stT f | ldG f | stG f | ldq f | stq f |
      ldfe f | stfe f | ldfeC f | stfeC f | pref f =>
    exact FI.layout.readsBack rfl rfl fun p h => by unfold decodeFields; rw [h]; exact rfl
  case lui f | addpc f | getc f | setc f | trap f | sys f | brk f | abort f =>
    exact FU.layout.readsBack rfl rfl fun p h => by unfold decodeFields; rw [h]; exact rfl
  case br f | brb f => exact FB.layout.readsBack rfl rfl fun p h => by unfold decodeFields; rw [h]; exact rfl
  case jmp f | jal f => exact FJ.layout.readsBack rfl rfl fun p h => by unfold decodeFields; rw [h]; exact rfl
  case loopR f | loopi f => exact FL.layout.readsBack rfl rfl fun p h => by unfold decodeFields; rw [h]; exact rfl
  case vand f | vor f | vxor f | vandn f | vorn f | vxnor f =>
    have h := f.logic_readsBack
    rwa [FA.logic, show f.fn = _ from eq_of_beq hj] at h
  case vabs f | vneg f =>
    have h := f.sign_readsBack
    rwa [FA.sign, show f.b = _ from eq_of_beq (Bool.and_eq_true_iff.1 hj).1] at h
  case vsqrt f | vrsqrt f =>
    have h := f.root_readsBack
    rwa [FA.root, show f.b = _ from eq_of_beq (Bool.and_eq_true_iff.1 hj).1] at h
  -- pairs and the steps of other agents are no words; all that stand after them are of format A
  all_goals try exact absurd hj Bool.false_ne_true
  all_goals exact FA.layout.readsBack rfl rfl fun p h => by unfold decodeFields; rw [h]; exact rfl


/-- What a layout reads at an opcode, laid under that opcode, is the parcel. -/
theorem Layout.laid_at {F : Type} (L : Layout F) {p : Parcel} {op : BitVec 8} (hw : isWide p = true)
    (hop : (p.extractLsb' 2 8).toNat = op.toNat) : L.fields (L.read p) ++ op ++ 3#2 = p :=
  BitVec.eq_of_toNat_eq hop ▸ L.laid_read hw

set_option maxRecDepth 20000 in
/-- Opcodes from 0xBF up are of no row (R71). -/
theorem opcode_lt_of_decodeFields {p : Parcel} {j : Instr} (h : decodeFields p = some j) :
    (p.extractLsb' 2 8).toNat < 0xBF := by
  have hlt := (p.extractLsb' 2 8).isLt
  by_contra hge
  unfold decodeFields at h
  generalize (p.extractLsb' 2 8).toNat = n at h hlt hge
  interval_cases n
  all_goals exact absurd h.symm (Option.some_ne_none j)

/-- The layout of an opcode's row (R62 to R70). -/
def layoutAt : Nat → (F : Type) × Layout F
  | 0x02 | 0x06 | 0x0A | 0x28 | 0x29 | 0x2A | 0x2B | 0x2C | 0x2D | 0x2E | 0x2F | 0x30 | 0x31 | 0x32 | 0x33 | 0x35 | 0x36
  | 0x3E => ⟨FI, FI.layout⟩
  | 0x12 | 0x13 | 0x22 | 0x23 | 0x24 | 0x26 | 0x27 | 0x4F => ⟨FU, FU.layout⟩
  | 0x18 | 0x19 => ⟨FB, FB.layout⟩
  | 0x1A | 0x1B => ⟨FJ, FJ.layout⟩
  | 0x1D | 0x1E => ⟨FL, FL.layout⟩
  | _ => ⟨FA, FA.layout⟩

set_option maxRecDepth 20000 in
/-- A word that an opcode's row reads is what the encoder gives for the instruction read. -/
theorem encodeParcel_of_decodeFields {p : Parcel} {j : Instr} (hw : isWide p = true) (h : decodeFields p = some j) :
    encodeParcel j = p ∧ encodeHalf j = 7 := by
  have hlt := opcode_lt_of_decodeFields h
  unfold decodeFields at h
  generalize hn : (p.extractLsb' 2 8).toNat = n at h hlt
  have hop : (p.extractLsb' 2 8).toNat = (BitVec.ofNat 8 n).toNat := by rw [hn, toNat_ofNat]; omega
  have laid := (layoutAt n).2.laid_at hw hop
  -- the three opcodes of several names, and the opcodes between them
  obtain rfl | rfl | rfl | hr | ⟨hl, hr⟩ | ⟨hl, hr⟩ | hl : n = 0x69 ∨ n = 0x70 ∨ n = 0x74 ∨ n < 0x69 ∨
      (0x69 < n ∧ n < 0x70) ∨ (0x70 < n ∧ n < 0x74) ∨ 0x74 < n := by omega
  · obtain rfl := Option.some.inj h
    obtain ⟨h7, hp⟩ := (FA.ofParcel p).logic_encodes
    exact ⟨hp.trans laid, h7⟩
  · obtain rfl := Option.some.inj h
    obtain ⟨h7, hp⟩ := (FA.ofParcel p).sign_encodes
    exact ⟨hp.trans laid, h7⟩
  · obtain rfl := Option.some.inj h
    obtain ⟨h7, hp⟩ := (FA.ofParcel p).root_encodes
    exact ⟨hp.trans laid, h7⟩
  all_goals
    interval_cases n
    all_goals
      obtain rfl := Option.some.inj h
      exact ⟨laid, rfl⟩

theorem HalfLayout.laid_at {F : Type} (L : HalfLayout F) {h : BitVec 16} {cop : BitVec 3} {sel : BitVec 2}
    (hsel : (h.extractLsb' 0 2).toNat = sel.toNat) (hcop : (h.extractLsb' 2 3).toNat = cop.toNat) :
    L.fields (L.read h) ++ cop ++ sel = h :=
  BitVec.eq_of_toNat_eq hsel ▸ BitVec.eq_of_toNat_eq hcop ▸ L.laid_read h

/-- A half that a compressed row reads is what the encoder gives for the instruction read. -/
theorem encodeHalf_of_decodeHalfFields {h : BitVec 16} {j : Instr} (hd : decodeHalfFields h = some j) : encodeHalf j = h := by
  have hlts := (h.extractLsb' 0 2).isLt
  have hltc := (h.extractLsb' 2 3).isLt
  unfold decodeHalfFields at hd
  generalize hs : (h.extractLsb' 0 2).toNat = sel at hd hlts
  generalize hc : (h.extractLsb' 2 3).toNat = cop at hd hltc
  interval_cases sel
  · interval_cases cop
    all_goals
      obtain rfl := Option.some.inj hd
      exact CR.layout.laid_at hs hc
  · obtain hr | ⟨hl, hr⟩ | rfl : cop < 4 ∨ (4 ≤ cop ∧ cop < 7) ∨ cop = 7 := by omega
    · interval_cases cop
      all_goals
        obtain rfl := Option.some.inj hd
        exact CI.layout.laid_at hs hc
    · interval_cases cop
      all_goals
        obtain rfl := Option.some.inj hd
        exact CB.layout.laid_at hs hc
    · exact absurd hd.symm (Option.some_ne_none j)
  · obtain rfl | ⟨hl, hr⟩ | hl : cop = 0 ∨ (0 < cop ∧ cop < 5) ∨ 5 ≤ cop := by omega
    · obtain rfl := Option.some.inj hd
      exact CJ.layout.laid_at hs hc
    · interval_cases cop
      all_goals
        obtain rfl := Option.some.inj hd
        exact CR.layout.laid_at hs hc
    · interval_cases cop
      all_goals exact absurd hd.symm (Option.some_ne_none j)
  · interval_cases cop
    all_goals exact absurd hd.symm (Option.some_ne_none j)

/-! ## The decoder's answers, one equivalence for each of its functions -/

theorem decodeWide_eq_instr {p : Parcel} {i : Instr} {n : Nat} :
    decodeWide p = .instr i n ↔ decodeFields p = some i ∧ wordOk i = true ∧ n = 4 := by
  unfold decodeWide
  constructor
  · intro h
    split at h
    · cases h
    next j hj =>
      split_ifs at h with hok
      cases h
      exact ⟨hj, hok, rfl⟩
  · rintro ⟨hj, hok, rfl⟩
    simp [hj, hok]

theorem decodeHalf_eq_instr {h : BitVec 16} {i : Instr} {n : Nat} :
    decodeHalf h = .instr i n ↔
      n = 2 ∧ (h = 3 ∧ i = .paddingHalf ∨ decodeHalfFields h = some i ∧ wordOk i = true) := by
  unfold decodeHalf
  constructor
  · intro hd
    split_ifs at hd with h3
    · cases hd
      exact ⟨rfl, .inl ⟨eq_of_beq h3, rfl⟩⟩
    · split at hd
      · cases hd
      next j hj =>
        split_ifs at hd with hok
        cases hd
        exact ⟨rfl, .inr ⟨hj, hok⟩⟩
  · rintro ⟨rfl, ⟨rfl, rfl⟩ | ⟨hj, hok⟩⟩
    · rfl
    · have h3 : (h == 3) = false := by
        refine beq_eq_false_iff_ne.2 ?_
        rintro rfl
        exact absurd hj.symm (Option.some_ne_none i)
      simp only [h3, hj, hok]
      rfl

theorem ne_zero_of_isWide {p : Parcel} (hw : isWide p = true) : (p == 0) = false := by
  refine beq_eq_false_iff_ne.2 ?_
  rintro rfl
  exact absurd hw (by decide)

/-- 0xFF, a first word's opcode, is of no row (R56). -/
theorem opcode_ne_prefix {p : Parcel} {j : Instr} (h : decodeFields p = some j) : (p.extractLsb' 2 8 == 0xFF) = false := by
  have hop := opcode_lt_of_decodeFields h
  refine beq_eq_false_iff_ne.2 fun hff => ?_
  rw [hff] at hop
  exact absurd hop (by decide)

theorem decodePair_eq_instr {p q : Parcel} {i : Instr} {n : Nat} :
    decodePair p q = .instr i n ↔ n = 8 ∧ isWide q = true ∧ p.extractLsb' 29 3 = 0 ∧
      ∃ j u, i = .prefixedPair (.ofParcel p) j ∧ decodeFields q = some j ∧ pxUse j = some u ∧
        (Prefix.ofParcel p).ok u = true ∧ wordOk j = true ∧ secondE j = 0 := by
  unfold decodePair
  constructor
  · intro h
    split_ifs at h with h0 hq
    split at h
    · cases h
    next j hj =>
      split at h
      · cases h
      next u hu =>
        split_ifs at h with hp hok
        cases h
        simp_all
  · rintro ⟨rfl, hw, h29, j, u, rfl, hj, hu, hok, hwo, he⟩
    simp only [hj, hu, h29, hok, hwo, he, hw, ne_zero_of_isWide hw, opcode_ne_prefix hj]
    rfl

theorem isPrefix_of_decodeFields {p : Parcel} {j : Instr} (h : decodeFields p = some j) : isPrefix p = false := by
  rw [isPrefix, opcode_ne_prefix h, Bool.and_false]

/-- A word with a row of the opcode map decodes as that row's instruction, wherever it stands and whatever follows. -/
theorem decode_of_wide {p q : Parcel} {high : Bool} {j : Instr} (hw : isWide p = true) (h : decodeFields p = some j)
    (hok : wordOk j = true) : decode high p q = .instr j 4 := by
  simp only [decode, ne_zero_of_isWide hw, isPrefix_of_decodeFields h, hw, decodeWide_eq_instr.2 ⟨h, hok, rfl⟩]
  rfl

/-- A half above a c.nop decodes as that half. -/
theorem decode_above_cNop (h : BitVec 16) (q : Parcel) : decode true (h ++ 0x000A#16) q = decodeHalf h := by
  have hlow : (h ++ 0x000A#16).extractLsb' 0 2 = 2 := by
    rw [extractLsb'_append_eq_of_add_le (by decide)]; rfl
  have h0 : ((h ++ 0x000A#16 : Parcel) == 0) = false :=
    beq_eq_false_iff_ne.2 fun he => absurd ((congrArg (extractLsb' 0 2) he).symm.trans hlow) (by decide)
  have hw : isWide (h ++ 0x000A#16) = false := by rw [isWide, hlow]; rfl
  rw [decode, h0, isPrefix, hw, extractLsb'_append_eq_left]
  rfl

/-- What an instruction stands in, from the parcels it was decoded from. -/
theorem decode_eq_instr {p q : Parcel} {high : Bool} {i : Instr} {n : Nat} (h : decode high p q = .instr i n) :
    isPrefix p = true ∧ decodePair p q = .instr i n ∨ isWide p = true ∧ decodeWide p = .instr i n ∨
      decodeHalf (if high then p.extractLsb' 16 16 else p.extractLsb' 0 16) = .instr i n := by
  unfold decode at h
  split_ifs at h with h0 hp hw hh
  · exact .inl ⟨hp, h⟩
  · exact .inr (.inl ⟨hw, h⟩)
  · exact .inr (.inr (by rwa [if_pos hh]))
  · exact .inr (.inr (by rwa [if_neg hh]))

/-! ## First words of pairs (R56) -/

theorem Prefix.ofParcel_parcel (px : Prefix) : Prefix.ofParcel px.parcel = px := by
  let w := 0#3 ++ px.ord ++ px.ixb ++ px.slot ++ px.emp ++ px.sat ++ px.rnd ++ 0xFF#8 ++ 3#2
  show (⟨extractLsb' 28 1 w, extractLsb' 22 6 w, extractLsb' 18 4 w, extractLsb' 15 3 w, extractLsb' 13 2 w,
    extractLsb' 10 3 w⟩ : Prefix) = px
  simp (disch := decide) only [w, extractLsb'_append_eq_of_add_le, extractLsb'_append_eq_of_le, extractLsb'_eq_self,
    Nat.reduceSub]

theorem Prefix.reserved_parcel (px : Prefix) : px.parcel.extractLsb' 29 3 = 0 := by
  let w := 0#3 ++ px.ord ++ px.ixb ++ px.slot ++ px.emp ++ px.sat ++ px.rnd ++ 0xFF#8 ++ 3#2
  show extractLsb' 29 3 w = 0
  simp (disch := decide) only [w, extractLsb'_append_eq_of_le, extractLsb'_eq_self, Nat.reduceSub]
  rfl

theorem Prefix.isPrefix_parcel (px : Prefix) : isPrefix px.parcel = true := by
  let hi := 0#3 ++ px.ord ++ px.ixb ++ px.slot ++ px.emp ++ px.sat ++ px.rnd
  show (isWide (hi ++ 0xFF#8 ++ 3#2) && (hi ++ 0xFF#8 ++ 3#2).extractLsb' 2 8 == 0xFF) = true
  rw [isWide_laid, opcode_laid]
  rfl

theorem Prefix.parcel_ofParcel {p : Parcel} (hp : isPrefix p = true) (h29 : p.extractLsb' 29 3 = 0) :
    (Prefix.ofParcel p).parcel = p := by
  obtain ⟨hw, hop⟩ := Bool.and_eq_true_iff.1 hp
  have hw : 3#2 = p.extractLsb' 0 2 := (eq_of_beq hw).symm
  have hop : 0xFF#8 = p.extractLsb' 2 8 := (eq_of_beq hop).symm
  have h29 : 0#3 = p.extractLsb' 29 3 := h29.symm
  show 0#3 ++ p.extractLsb' 28 1 ++ p.extractLsb' 22 6 ++ p.extractLsb' 18 4 ++ p.extractLsb' 15 3 ++
    p.extractLsb' 13 2 ++ p.extractLsb' 10 3 ++ 0xFF#8 ++ 3#2 = p
  rw [hw, hop, h29]
  simp (disch := decide) only [extractLsb'_append_extractLsb'_eq_extractLsb']
  exact extractLsb'_eq_self

/-! ## Whole instructions: a pair's second word and every other instruction are words (R44) -/

/-- A pair is not a word. -/
theorem ne_pair_of_wordOk {j : Instr} (hj : wordOk j = true) (px : Prefix) (k : Instr) : j ≠ .prefixedPair px k := by
  rintro rfl
  exact absurd hj Bool.false_ne_true

theorem wellFormed_of_wordOk {j : Instr} (hj : wordOk j = true) : wellFormed j = true := by
  unfold wellFormed
  split
  · exact absurd rfl (ne_pair_of_wordOk hj _ _)
  · exact hj

theorem wordOk_of_wellFormed {j : Instr} (hj : wellFormed j = true) (hp : ∀ px k, j ≠ .prefixedPair px k) :
    wordOk j = true := by
  unfold wellFormed at hj
  split at hj
  · exact absurd rfl (hp _ _)
  · exact hj

theorem wellFormed_pair {px : Prefix} {j : Instr} :
    wellFormed (.prefixedPair px j) = true ↔
      ∃ u, pxUse j = some u ∧ px.ok u = true ∧ wordOk j = true ∧ secondE j = 0 := by
  show (match pxUse j with | some u => px.ok u && wordOk j && secondE j == 0 | none => false) = true ↔ _
  cases pxUse j <;> simp [Bool.and_assoc]

theorem len_of_wordOk {j : Instr} (hj : wordOk j = true) : j.len = if encodeHalf j == 7 then 4 else 2 := by
  unfold Instr.len
  split
  · exact absurd rfl (ne_pair_of_wordOk hj _ _)
  · rfl

theorem encode_of_wordOk {j : Instr} (hj : wordOk j = true) :
    encode j = if encodeHalf j == 7 then [encodeParcel j] else [encodeHalf j ++ 0x000A#16] := by
  unfold encode
  split
  · exact absurd rfl (ne_pair_of_wordOk hj _ _)
  · rfl

/-- No compressed row reads the half that stands for no instruction. -/
theorem encodeHalf_ne_seven {j : Instr} (h : decodeHalfFields (encodeHalf j) = some j) : (encodeHalf j == 7) = false := by
  refine beq_eq_false_iff_ne.2 fun h7 => ?_
  rw [h7] at h
  exact absurd h.symm (Option.some_ne_none j)

/-- Decoding gives a well-formed word back. -/
theorem decode_encode_word {j : Instr} (hj : wordOk j = true) :
    decode (j.len == 2) ((encode j).getD 0 0) ((encode j).getD 1 0) = .instr j j.len := by
  rw [len_of_wordOk hj, encode_of_wordOk hj]
  cases readsBack_of_wordOk hj with
  | padding h => subst h; rfl
  | half _ h =>
    rw [encodeHalf_ne_seven h]
    exact (decode_above_cNop _ _).trans (decodeHalf_eq_instr.2 ⟨rfl, .inr ⟨h, hj⟩⟩)
  | wide h7 hw h =>
    rw [h7]
    exact decode_of_wide hw h hj

/-- Decoding gives a well-formed pair back. -/
theorem decode_encode_pair {px : Prefix} {j : Instr} (h : wellFormed (.prefixedPair px j) = true) :
    decode false px.parcel (encodeParcel j) = .instr (.prefixedPair px j) 8 := by
  obtain ⟨u, hu, hok, hj, he⟩ := wellFormed_pair.1 h
  have hpx := px.isPrefix_parcel
  have hw := (Bool.and_eq_true_iff.1 hpx).1
  rw [decode, ne_zero_of_isWide hw, hpx]
  cases readsBack_of_wordOk hj with
  | padding h => subst h; cases hu
  | half hx _ => rw [hx] at hu; cases hu
  | wide _ hw h =>
    exact decodePair_eq_instr.2 ⟨rfl, hw, px.reserved_parcel, j, u, by rw [px.ofParcel_parcel], h, hu,
      by rwa [px.ofParcel_parcel], hj, he⟩

/-- A word that decodes is what the encoder gives. -/
theorem encode_of_decodeWide {p : Parcel} {i : Instr} {n : Nat} (hw : isWide p = true) (h : decodeWide p = .instr i n) :
    n = 4 ∧ encode i = [p] ∧ wellFormed i = true := by
  obtain ⟨hi, hok, rfl⟩ := decodeWide_eq_instr.1 h
  obtain ⟨hp, h7⟩ := encodeParcel_of_decodeFields hw hi
  exact ⟨rfl, by rw [encode_of_wordOk hok, h7, hp]; rfl, wellFormed_of_wordOk hok⟩

/-- A pair that decodes is what the encoder gives. -/
theorem encode_of_decodePair {p q : Parcel} {i : Instr} {n : Nat} (hp : isPrefix p = true)
    (h : decodePair p q = .instr i n) : n = 8 ∧ encode i = [p, q] ∧ wellFormed i = true := by
  obtain ⟨rfl, hw, h29, j, u, rfl, hj, hu, hok, hwo, he⟩ := decodePair_eq_instr.1 h
  refine ⟨rfl, ?_, wellFormed_pair.2 ⟨u, hu, hok, hwo, he⟩⟩
  show [(Prefix.ofParcel p).parcel, encodeParcel j] = [p, q]
  rw [Prefix.parcel_ofParcel hp h29, (encodeParcel_of_decodeFields hw hj).1]

/-- A half that decodes is what the encoder gives. -/
theorem encode_of_decodeHalf {h : BitVec 16} {i : Instr} {n : Nat} (hd : decodeHalf h = .instr i n) :
    n = 2 ∧ encodeHalf i = h ∧ encode i = [h ++ 0x000A#16] ∧ wellFormed i = true := by
  obtain ⟨rfl, ⟨rfl, rfl⟩ | ⟨hi, hok⟩⟩ := decodeHalf_eq_instr.1 hd
  · exact ⟨rfl, rfl, rfl, rfl⟩
  · have he := encodeHalf_of_decodeHalfFields hi
    subst he
    exact ⟨rfl, rfl, by rw [encode_of_wordOk hok, encodeHalf_ne_seven hi]; rfl, wellFormed_of_wordOk hok⟩

/-- Settles O53: each kind of word is read back from its layout, and lays what its layout reads. -/
theorem decodeAndEncodeAgree : Obligations.DecodeAndEncodeAgree := by
  unfold Obligations.DecodeAndEncodeAgree
  refine ⟨fun i hi => ?_, fun p i h => ?_, fun p q i h => ?_, fun p i h => ?_, fun p i h => ?_⟩
  · by_cases hp : ∃ px k, i = .prefixedPair px k
    · obtain ⟨px, j, rfl⟩ := hp
      exact decode_encode_pair hi
    · exact decode_encode_word (wordOk_of_wellFormed hi fun px k he => hp ⟨px, k, he⟩)
  all_goals obtain ⟨hp, h⟩ | ⟨hw, h⟩ | h := decode_eq_instr h
  · cases h
  · exact (encode_of_decodeWide hw h).2
  · cases (encode_of_decodeHalf h).1
  · exact (encode_of_decodePair hp h).2
  · cases (encode_of_decodeWide hw h).1
  · cases (encode_of_decodeHalf h).1
  · cases h
  · cases (encode_of_decodeWide hw h).1
  · obtain ⟨-, he, -, hwf⟩ := encode_of_decodeHalf h
    exact ⟨he, hwf⟩
  · cases h
  · cases (encode_of_decodeWide hw h).1
  · exact (encode_of_decodeHalf h).2.2
end Sys2Proof

/-! PROOF. O50: a step is the turn that the agenda names; a strand's turn is what its fetch decodes, once it is admitted. -/

namespace Sys2Proof.Machine

/-! ## The turn that the agenda names -/

theorem nextTurn_of_agenda {s : State} {t : Turn} {rest : List Turn} (h : s.agenda = t :: rest) :
    s.nextTurn = (t, { s with agenda := rest }) := by
  rw [State.nextTurn, h]

theorem step_event {s : State} {i : Instr} {args : EventArgs} {rest : List Turn} (h : s.agenda = .event i args :: rest)
    (hi : i.isEvent = true) : step s = exec i { s with agenda := rest, args } := by
  rw [step, nextTurn_of_agenda h]
  exact if_pos hi

theorem step_empty {s : State} {slot : Nat} {ahead : Bool} {rest : List Turn} (h : s.agenda = .strand slot ahead :: rest)
    (ht : State.strandTurn { s with agenda := rest } slot ahead = .empty) : step s = .fault (.noStrand slot) := by
  simp only [step, nextTurn_of_agenda h, ht]

theorem step_over {s u : State} {slot : Nat} {ahead : Bool} {rest : List Turn} (h : s.agenda = .strand slot ahead :: rest)
    (ht : State.strandTurn { s with agenda := rest } slot ahead = .over u) : step s = .next u := by
  simp only [step, nextTurn_of_agenda h, ht]

/-- A step in which an instruction runs comes to what the instruction comes to. -/
theorem step_run {s x v : State} {slot : Nat} {ahead : Bool} {rest : List Turn} {j : Instr} {len : Nat}
    (h : s.agenda = .strand slot ahead :: rest)
    (ht : State.strandTurn { s with agenda := rest } slot ahead = .run j len x) :
    (exec j x = .next v → step s = .next (v.afterInstr j len x.self x.serial)) ∧
      (∀ f, exec j x = .fault f → step s = .fault f) ∧ ∀ r, exec j x = .refused r → step s = .refused r := by
  refine ⟨fun he => ?_, fun f he => ?_, fun r he => ?_⟩ <;> simp only [step, nextTurn_of_agenda h, ht, he]

/-! ## A strand's turn -/

theorem strandTurn_empty {s : State} {slot : Nat} (ahead : Bool) (h : s.focus slot = none) :
    s.strandTurn slot ahead = .empty := by
  rw [State.strandTurn, h]

theorem strandTurn_passes {s u : State} {slot : Nat} (ahead : Bool) (h : s.focus slot = some u)
    (hi : u.mayIssue u.self = false) : s.strandTurn slot ahead = .over u := by
  simp only [State.strandTurn, h, hi]
  rfl

theorem strandTurn_issues {s u : State} {slot : Nat} (ahead : Bool) (h : s.focus slot = some u)
    (hi : u.mayIssue u.self = true) : s.strandTurn slot ahead = u.nextInstr ahead := by
  simp only [State.strandTurn, h, hi]
  rfl

/-- An instruction that has had a part of its effect is not fetched again (08 R266). -/
theorem nextInstr_begun {s : State} {i : Instr} {len : Nat} (ahead : Bool) (h : s.self.cur = some (i, len)) :
    s.nextInstr ahead = .run i len s := by
  rw [State.nextInstr, h]

theorem nextInstr_error {s : State} {ahead : Bool} {e : Stop} (h : s.self.cur = none)
    (hf : s.fetchInstr ahead = .error e) : s.nextInstr ahead = .over (s.onStop e) := by
  simp only [State.nextInstr, h, hf]

theorem nextInstr_fetched {s t : State} {ahead : Bool} {i : Instr} {len : Nat} (h : s.self.cur = none)
    (hf : s.fetchInstr ahead = .ok (.instr i len, t)) : s.nextInstr ahead = t.admitInstr i len := by
  simp only [State.nextInstr, h, hf]

theorem dropCopy_unpinned {s : State} {k : Nat} (h : ∀ c core, s.copies[k]? = some c → c.holder ≠ .tile core) :
    s.dropCopy k = { s with copies := s.copies.eraseIdx k } := by
  unfold State.dropCopy
  cases hc : s.copies[k]? with
  | none => rfl
  | some c =>
    cases hh : c.holder with
    | tile core => exact absurd hh (h c core hc)
    | l1 | vmu | icache | tower => simp only [hh]; rfl

/-! ## Fetching -/

theorem fetchFirst_of_fetchLine {s t : State} {ahead : Bool} {l : FetchLine} (h : s.fetchLine s.self.pc ahead = .ok (l, t)) :
    s.fetchFirst ahead = if l.pairAt s.self.pc && !l.serves t (s.self.pc + 4)
      then t.fetchCopy (!s.self.priv) s.self.pc (s.self.pc + 4) else .ok (l, t) := by
  rw [State.fetchFirst, h]
  rfl

theorem pairAt_eq_false {l : FetchLine} {pc : Word} (h : isPrefix (parcelOf l.data pc) = false) : l.pairAt pc = false := by
  simp only [FetchLine.pairAt, h, Bool.and_false, Bool.false_and]

theorem pairAt_at_end {l : FetchLine} {pc : Word} (h124 : pc.toNat % 128 = 124) : l.pairAt pc = false := by
  simp only [FetchLine.pairAt, h124, bne_self_eq_false, Bool.and_false]

theorem pairAt_eq_true {l : FetchLine} {pc : Word} (h : isPrefix (parcelOf l.data pc) = true) (h1 : pc.getLsbD 1 = false)
    (h124 : pc.toNat % 128 ≠ 124) : l.pairAt pc = true := by
  simp only [FetchLine.pairAt, h, h1, bne_iff_ne.2 h124, Bool.not_false, Bool.and_true]

section Fetched
variable {s t : State} {ahead : Bool} {l : FetchLine} (hf : s.fetchFirst ahead = .ok (l, t))
include hf

theorem fetchInstr_single (hp : isPrefix (parcelOf l.data s.self.pc) = false)
    (h1 : s.self.pc.getLsbD 1 = false ∨ isWide (parcelOf l.data s.self.pc) = false) :
    s.fetchInstr ahead = .ok (decode (s.self.pc.getLsbD 1) (parcelOf l.data s.self.pc) 0, t) := by
  have hn : (s.self.pc.getLsbD 1 && isWide (parcelOf l.data s.self.pc)) = false := by
    rcases h1 with h | h <;> simp only [h, Bool.false_and, Bool.and_false]
  simp only [State.fetchInstr, hf, except_ok_bind, hn, Bool.not_false, need_true, pairAt_eq_false hp, hp]
  rfl

/-- Both words of a pair within one line come from one fetch (08 R279). -/
theorem fetchInstr_pair (hp : isPrefix (parcelOf l.data s.self.pc) = true) (h1 : s.self.pc.getLsbD 1 = false)
    (h124 : s.self.pc.toNat % 128 ≠ 124) :
    s.fetchInstr ahead = .ok (decode false (parcelOf l.data s.self.pc) (parcelOf l.data (s.self.pc + 4)), t) := by
  simp only [State.fetchInstr, hf, except_ok_bind, h1, Bool.false_and, Bool.not_false, need_true, pairAt_eq_true hp h1 h124]
  rfl

theorem fetchInstr_split_pair (hp : isPrefix (parcelOf l.data s.self.pc) = true) (h1 : s.self.pc.getLsbD 1 = false)
    (h124 : s.self.pc.toNat % 128 = 124) {m : FetchLine} {u : State} (hm : t.fetchLine (s.self.pc + 4) ahead = .ok (m, u)) :
    s.fetchInstr ahead = .ok (decode false (parcelOf l.data s.self.pc) (parcelOf m.data (s.self.pc + 4)), u) := by
  simp only [State.fetchInstr, hf, except_ok_bind, h1, Bool.false_and, Bool.not_false, need_true, pairAt_at_end h124, hp, hm]
  rfl

theorem fetchInstr_inside_wide (hw : isWide (parcelOf l.data s.self.pc) = true) (h1 : s.self.pc.getLsbD 1 = true) :
    s.fetchInstr ahead = .error (.fault ALIGN s.self.pc) := by
  simp only [State.fetchInstr, hf, except_ok_bind, h1, hw, Bool.and_true, Bool.not_true, need_false, except_error_bind]

end Fetched

/-- What admits an instruction at a place that no yield entry names, for a strand that is not asked to stop. -/
theorem admitInstr_run {s : State} {i : Instr} {len : Nat} (hy : s.yieldEntry s.self = none)
    (hv : s.self.long = true ∨ ∀ r ∈ i.vectorFields, r.toNat < 32) (hp : privileged i = false ∨ s.self.priv = true)
    (hl : s.self.straddles len = none) (hc : s.self.pcnt < s.crew.limit) (hs : s.self.stopReq = false) :
    s.admitInstr i len = .run i len s := by
  have hfields : (!s.self.long && i.vectorFields.any (fun r => 32 ≤ r.toNat)) = false := by
    rcases hv with h | h
    · simp [h]
    · have hany : i.vectorFields.any (fun r => 32 ≤ r.toNat) = false := by
        simpa using h
      rw [hany, Bool.and_false]
  have hpriv : (privileged i && !s.self.priv) = false := by
    rcases hp with h | h <;> simp [h]
  have hlim : ¬ s.crew.limit < s.self.pcnt + 1 := by omega
  simp [State.admitInstr, hfields, hpriv, hl, hy, hs, hlim]

/-- Settles O50: the turn named, the strand's readiness, the fetch and the checks, one equation for each. -/
theorem stepRunsDecodedInstruction : Obligations.StepRunsDecodedInstruction := by
  intro s u w x v i args slot ahead a rest l m p len t
  have turn {r : Turn} (h : s.agenda = r :: rest) : s.nextTurn = (r, t) := nextTurn_of_agenda h
  refine ⟨step_event, fun h => ?_, fun h => ?_, fun k h => ⟨?_, dropCopy_unpinned⟩, fun n h => ?_, fun k h => ?_,
    fun k h => ?_, fun k h => ?_, fun n asid how h => ?_, fun leaf n h => ?_,
    fun h => ⟨fun hs => ?_, fun hs hi => ?_, fun hs hi => ⟨?_, ?_⟩⟩, fun hl => ⟨?_, ?_⟩, ?_, admitInstr_run⟩
  iterate 4 simp only [step, turn h]
  · simp only [step, turn h, State.hostDrop]
  iterate 4 simp only [step, turn h]
  · exact step_empty h (strandTurn_empty ahead hs)
  · exact step_over h (strandTurn_passes ahead hs hi)
  · exact fun hc => step_run h ((strandTurn_issues ahead hs hi).trans (nextInstr_begun ahead hc))
  · exact fun hc => ⟨fun e he => step_over h ((strandTurn_issues ahead hs hi).trans (nextInstr_error hc he)),
      fun j hj ha => step_run h ((strandTurn_issues ahead hs hi).trans ((nextInstr_fetched hc hj).trans ha))⟩
  · intro hq
    rw [fetchFirst_of_fetchLine hl, if_neg]
    rcases hq with hq | hq <;> rw [hq] <;> simp
  · intro hq hs
    rw [fetchFirst_of_fetchLine hl, hq, hs]
    rfl
  · rintro hf rfl
    exact ⟨fetchInstr_single hf,
      fun hp h1 => ⟨fetchInstr_pair hf hp h1, fun h124 hm => fetchInstr_split_pair hf hp h1 h124 hm⟩,
      fetchInstr_inside_wide hf⟩

end Sys2Proof.Machine

/-! PROOF. O57 fails: a strand that stands in a word's queue goes on waiting there, whatever its registers hold since. -/

namespace Sys2Proof.Machine

/-- A strand in a word's queue that has not been served stays in it, without reading its sources again (07 R250). -/
theorem queueFor_queued {s : State} {w : Waiter} (h : s.myWaiter = some w) (hw : w.served = none) (ask : Except Stop Ask) :
    s.queueFor ask = .error (.wait s) := by
  simp only [State.queueFor, h, hw]

theorem exec_wfull_queued {s : State} {w : Waiter} (h : s.myWaiter = some w) (hw : w.served = none) (f : FA) :
    exec (.wfull f) s = .next s := by
  rw [exec_wfull, execWfull, State.waitFull, queueFor_queued h hw]
  rfl

/-- A strand that stands in the queue of the word at place 0, with g1 empty. -/
def queuedHollow : State :=
  { State.reset with
    self := { gFull := 0, wait := some (.queued 0 false) }
    waiters := [{ id := 0, crew := 0, idx := 0, place := 0, need := .seeFull }] }

/-- Refutes O57: wfull of a strand in a word's queue leaves it there, where the statement has it retry for its empty g1.
The statement lacks the hypothesis that the strand stands in no queue (`s.myWaiter = none`), which those of its
instructions that join one need: wfull, rgclaim, rgtake, and the forms of ldfe and stfe. -/
theorem not_emptySources : ¬ Obligations.EmptySources := by
  intro h
  have hollow : queuedHollow.self.gIsFull (1 : Reg).toNat = false := by decide
  have waits := (h queuedHollow { a := 1 } {} {} {} {} {} {} {} {} 0).1 hollow (.wfull { a := 1 }) (by simp)
  rw [exec_wfull_queued (w := { id := 0, crew := 0, idx := 0, place := 0, need := .seeFull }) rfl rfl] at waits
  have wait : queuedHollow.self.wait = some .retry := congrArg (fun s => s.self.wait) (Host.Outcome.next.inj waits)
  cases wait

end Sys2Proof.Machine

/-! PROOF. O54: what is refused, and under which name. A row of the opcode map takes a first word or it does not, by its
opcode; the decoder then answers each reserved pattern in the order of its checks. -/

namespace Sys2Proof

open BitVec

/-! ## The rows that take a first word (R58) -/

/-- The opcodes whose rows take a first word (R58). -/
abbrev TakesFirst (op : Nat) : Prop := (0x5D ≤ op ∧ op ≤ 0x7F) ∨ (0x90 ≤ op ∧ op ≤ 0x97) ∨ (0xA2 ≤ op ∧ op ≤ 0xA7)

theorem lt_of_takesFirst {op : Nat} (h : TakesFirst op) : op < 0xBF := by omega

theorem FA.logic_takesFirst (f : FA) : (pxUse f.logic).isSome = true := by
  unfold FA.logic; split <;> rfl

theorem FA.sign_takesFirst (f : FA) : (pxUse f.sign).isSome = true := by
  unfold FA.sign; split <;> rfl

theorem FA.root_takesFirst (f : FA) : (pxUse f.root).isSome = true := by
  unfold FA.root; split <;> rfl

set_option maxRecDepth 20000 in
/-- Every opcode below 0xBF has a row, and the opcode says whether its instructions take a first word. -/
theorem exists_row {p : Parcel} (h : (p.extractLsb' 2 8).toNat < 0xBF) :
    ∃ j, decodeFields p = some j ∧ (pxUse j).isSome = decide (TakesFirst (p.extractLsb' 2 8).toNat) := by
  unfold decodeFields
  generalize (p.extractLsb' 2 8).toNat = n at h
  -- the three opcodes of several names, and the opcodes between them
  obtain rfl | rfl | rfl | hr | ⟨hl, hr⟩ | ⟨hl, hr⟩ | hl : n = 0x69 ∨ n = 0x70 ∨ n = 0x74 ∨ n < 0x69 ∨
      (0x69 < n ∧ n < 0x70) ∨ (0x70 < n ∧ n < 0x74) ∨ 0x74 < n := by omega
  · exact ⟨_, rfl, (FA.ofParcel p).logic_takesFirst⟩
  · exact ⟨_, rfl, (FA.ofParcel p).sign_takesFirst⟩
  · exact ⟨_, rfl, (FA.ofParcel p).root_takesFirst⟩
  all_goals
    interval_cases n
    all_goals exact ⟨_, rfl, rfl⟩

/-- An opcode from 0xBF up has no row (R71). -/
theorem decodeFields_eq_none {p : Parcel} (h : 0xBF ≤ (p.extractLsb' 2 8).toNat) : decodeFields p = none :=
  Option.eq_none_iff_forall_ne_some.2 fun _ hj => absurd (opcode_lt_of_decodeFields hj) (by omega)

/-! ## What the decoder answers for one parcel (R42, R43, R71) -/

theorem decode_of_isPrefix {p q : Parcel} (hp : isPrefix p = true) : decode false p q = decodePair p q := by
  rw [decode, ne_zero_of_isWide (Bool.and_eq_true_iff.1 hp).1, hp]
  rfl

theorem decode_of_isWide {p q : Parcel} (hw : isWide p = true) (hop : p.extractLsb' 2 8 ≠ 0xFF) :
    decode false p q = decodeWide p := by
  rw [decode, ne_zero_of_isWide hw, isPrefix, hw, beq_eq_false_iff_ne.2 hop]
  rfl

theorem decode_of_not_isWide {p q : Parcel} (high : Bool) (hw : isWide p = false) (h0 : p ≠ 0) :
    decode high p q = decodeHalf (p.extractLsb' (if high then 16 else 0) 16) := by
  rw [decode, beq_eq_false_iff_ne.2 h0, isPrefix, hw]
  cases high <;> rfl

theorem decodeWide_unassigned {p : Parcel} (h : decodeFields p = none) : decodeWide p = .illOpc false := by
  rw [decodeWide, h]

theorem decodeWide_badFields {p : Parcel} {j : Instr} (h : decodeFields p = some j) (hok : wordOk j = false) :
    decodeWide p = .illField false := by
  rw [decodeWide, h]
  exact if_neg (ne_true_of_eq_false hok)

/-! ## What the decoder answers for a pair (R43, R46, R56 to R58) -/

section Pairs
variable {p q : Parcel} {j : Instr} {u : PxUse}

theorem decodePair_compressed (h0 : q ≠ 0) (hw : isWide q = false) : decodePair p q = .orphan := by
  rw [decodePair, beq_eq_false_iff_ne.2 h0, hw]
  rfl

theorem decodePair_prefix (hq : isPrefix q = true) : decodePair p q = .orphan := by
  obtain ⟨hw, hop⟩ := Bool.and_eq_true_iff.1 hq
  rw [decodePair, ne_zero_of_isWide hw, hw, hop]
  rfl

theorem decodePair_unassigned (hw : isWide q = true) (hop : q.extractLsb' 2 8 ≠ 0xFF) (h : decodeFields q = none) :
    decodePair p q = .illOpc true := by
  rw [decodePair, ne_zero_of_isWide hw, hw, beq_eq_false_iff_ne.2 hop, h]
  rfl

theorem decodePair_notTaken (hw : isWide q = true) (h : decodeFields q = some j) (hu : pxUse j = none) :
    decodePair p q = .orphan := by
  simp only [decodePair, ne_zero_of_isWide hw, hw, opcode_ne_prefix h, h, hu]
  rfl

/-- A second word that takes a first word: the first word's fields are checked, then the second's (R46). -/
theorem decodePair_taken (hw : isWide q = true) (h : decodeFields q = some j) (hu : pxUse j = some u) :
    decodePair p q = if p.extractLsb' 29 3 != 0 || !(Prefix.ofParcel p).ok u then .illField false
      else if wordOk j && secondE j == 0 then .instr (.prefixedPair (.ofParcel p) j) 8 else .illField true := by
  simp only [decodePair, ne_zero_of_isWide hw, hw, opcode_ne_prefix h, h, hu]
  rfl

theorem decodePair_badFirst (hw : isWide q = true) (h : decodeFields q = some j) (hu : pxUse j = some u)
    (hbad : p.extractLsb' 29 3 ≠ 0 ∨ (Prefix.ofParcel p).ok u = false) : decodePair p q = .illField false := by
  rw [decodePair_taken hw h hu, if_pos]
  simpa using hbad

theorem decodePair_badSecond (hw : isWide q = true) (h : decodeFields q = some j) (hu : pxUse j = some u)
    (h29 : p.extractLsb' 29 3 = 0) (hok : (Prefix.ofParcel p).ok u = true) (hbad : wordOk j = false ∨ secondE j = 1) :
    decodePair p q = .illField true := by
  rw [decodePair_taken hw h hu, if_neg (by simp [h29, hok]), if_neg]
  rcases hbad with hbad | hbad <;> simp [hbad]

end Pairs

/-! ## Compressed halves of no row (R49) -/

theorem decodeHalfFields_eq_none {h : BitVec 16}
    (hr : (h.extractLsb' 0 2).toNat = 1 ∧ (h.extractLsb' 2 3).toNat = 7 ∨
      (h.extractLsb' 0 2).toNat = 2 ∧ 5 ≤ (h.extractLsb' 2 3).toNat ∨ (h.extractLsb' 0 2).toNat = 3) :
    decodeHalfFields h = none := by
  have hc := (h.extractLsb' 2 3).isLt
  unfold decodeHalfFields
  generalize (h.extractLsb' 2 3).toNat = cop at hr hc
  obtain ⟨hs, rfl⟩ | ⟨hs, h5⟩ | hs := hr
  · rw [hs]; rfl
  · rw [hs]
    interval_cases cop <;> rfl
  · rw [hs]; rfl

theorem decodeHalf_unassigned {h : BitVec 16} (h3 : h ≠ 3) (hn : decodeHalfFields h = none) :
    decodeHalf h = .illOpc false := by
  rw [decodeHalf, beq_eq_false_iff_ne.2 h3, hn]
  rfl

/-- Settles O54: each pattern of the statement meets its check of the decoder, and passes those before it. -/
theorem reservedEncodings : Obligations.ReservedEncodings := by
  intro p q high h j u op takes sel cop
  refine ⟨rfl, fun hw hb hf => ?_, fun hw hj hok => ?_, fun hw h0 => decode_of_not_isWide high hw h0, fun hp => ?_,
    fun hr => ?_⟩
  · rw [decode_of_isWide hw fun h => hf (congrArg BitVec.toNat h)]
    exact decodeWide_unassigned (decodeFields_eq_none hb)
  · rw [decode_of_isWide hw (beq_eq_false_iff_ne.1 (opcode_ne_prefix hj))]
    exact decodeWide_badFields hj hok
  · simp only [decode_of_isPrefix hp]
    refine ⟨rfl, decodePair_compressed, decodePair_prefix, fun hw hle ht => ?_, fun hw hb hf => ?_, fun hw ht h29 => ?_,
      fun hw hj hu => ⟨fun hok => decodePair_badFirst hw hj hu (.inr hok), fun h29 hok => decodePair_badSecond hw hj hu h29 hok⟩⟩
    · obtain ⟨k, hk, hs⟩ := exists_row (p := q) (Nat.lt_succ_of_le hle)
      exact decodePair_notTaken hw hk (Option.isNone_iff_eq_none.1 (Option.isSome_eq_false_iff.1
        (hs.trans (decide_eq_false ht))))
    · exact decodePair_unassigned hw (fun h => hf (congrArg BitVec.toNat h)) (decodeFields_eq_none hb)
    · obtain ⟨k, hk, hs⟩ := exists_row (p := q) (lt_of_takesFirst ht)
      obtain ⟨v, hv⟩ := Option.isSome_iff_exists.1 (hs.trans (decide_eq_true ht))
      exact decodePair_badFirst hw hk hv (.inl h29)
  · refine decodeHalf_unassigned ?_ (decodeHalfFields_eq_none (hr.imp_right (.imp_right And.left)))
    rintro rfl
    exact absurd hr (by decide)

end Sys2Proof

/-! PROOF. O31 fails: c.jr, as jr into g0, waits while a producer is pending on g0, whatever its target. -/

namespace Sys2Proof.Machine

/-- What c.jr does with an even target: it expands to jr into g0, and that waits for g0's producer as for any other's. -/
theorem exec_cJr_even {s : State} {r : CR} {y : Word} (hy : s.source (r.a.setWidth 6) y) (h0 : y.getLsbD 0 = false) :
    exec (.cJr r) s = .next (s.mapSelf (fun st =>
      if s.pendingOn s.self.crew s.self.idx (.g 0) then { st with wait := some .retry } else st.goto y)) := by
  have hy : s.source (reg4 r.a) y := hy
  have hg : (0 : Reg).toNat = 0 := rfl
  simp only [exec_cJr, execCJr, State.jr, srcG_full hy, except_ok_bind, h0, Bool.not_false, need_true, State.destFree, hg]
  cases s.pendingOn s.self.crew s.self.idx (.g 0) <;> rfl

/-- A strand at a c.jr to g1, which holds 0x200, with a producer pending on its g0. -/
def pendingZero : State :=
  { State.reset with
    self := { g := (Vector.replicate 32 0).setIfInBounds 1 0x200 }
    returns := [{ id := 0, crew := 0, idx := 0, dest := .g 0, data := [] }] }

/-- Refutes O31: with a producer pending on g0, c.jr waits, where the statement has it go to its target. The statement
is made of every state, and lacks `s.settled (.g 0)` for c.jr, what it asks of the register each other half names. -/
theorem not_compressedHalves : ¬ Obligations.CompressedHalves := by
  intro h
  obtain ⟨-, -, -, -, -, -, -, jumps, -⟩ := h pendingZero { a := 1 } {} {} {} 0 0x200
  have target : pendingZero.source ((1 : BitVec 4).setWidth 6) 0x200 := by decide
  have pending : pendingZero.pendingOn pendingZero.self.crew pendingZero.self.idx (.g 0) = true := by decide
  have goes := (jumps target).1 (by decide)
  rw [exec_cJr_even target (by decide), pending] at goes
  have wait : some Wait.retry = none := congrArg (fun s => s.self.wait) (Host.Outcome.next.inj goes)
  cases wait

end Sys2Proof.Machine

/-! PROOF. O51: the checks between decoding and execution, in their order (02 R46), and the steps of decode faults. -/

namespace Sys2Proof.Machine

/-! ## The checks, one equation for each outcome -/

theorem vectorFields_admitted {s : State} {i : Instr} (hv : s.self.long = true ∨ ∀ r ∈ i.vectorFields, r.toNat < 32) :
    (!s.self.long && i.vectorFields.any (fun r => 32 ≤ r.toNat)) = false := by
  rw [Bool.and_eq_false_iff]
  exact hv.imp (by simp) (by simp)

theorem privileged_admitted {s : State} {i : Instr} (hp : privileged i = false ∨ s.self.priv = true) :
    (privileged i && !s.self.priv) = false := by
  rw [Bool.and_eq_false_iff]
  exact hp.imp_right (by simp)

section Admitted
variable {s : State} {i : Instr} {len : Nat}

/-- Registers 32 to 63 in short mode come first (02 R54). -/
theorem admitInstr_longRegister (hl : s.self.long = false) (hv : ∃ r ∈ i.vectorFields, 32 ≤ r.toNat) :
    s.admitInstr i len = .over (s.raise ILL_FIELD (s.self.pc + if len = 8 then 4 else 0)) := by
  have hany : i.vectorFields.any (fun r => 32 ≤ r.toNat) = true := by simpa using hv
  rw [State.admitInstr, hl, hany]
  rfl

variable (hv : s.self.long = true ∨ ∀ r ∈ i.vectorFields, r.toNat < 32)
include hv

theorem admitInstr_notAllowed (hp : ¬ (privileged i = false ∨ s.self.priv = true)) :
    s.admitInstr i len = .over (s.raise PRIV s.self.pc) := by
  simp only [not_or, Bool.not_eq_false, Bool.not_eq_true] at hp
  obtain ⟨hi, hu⟩ := hp
  rw [State.admitInstr, vectorFields_admitted hv, hi, hu]
  rfl

variable (hp : privileged i = false ∨ s.self.priv = true)
include hp

theorem admitInstr_straddling (e : Word) (hl : s.self.straddles len = some e) :
    s.admitInstr i len = .over (s.raise LOOP_DEPTH e) := by
  rw [State.admitInstr, vectorFields_admitted hv, privileged_admitted hp, hl]
  rfl

/-- Past the checks of 02 R46, where no yield entry names the PC: a signalled strand stops at a back-edge (05 R183), and
an instruction past the limit gives way to PREEMPT_LIMIT (05 R185). -/
theorem admitInstr_unmarked (hl : s.self.straddles len = none) (hy : s.yieldEntry s.self = none) :
    s.admitInstr i len =
      if s.self.stopReq && s.self.wait.isNone && s.self.cleared.isEmpty && s.self.atBackEdge then .over s
      else if !isYield i && s.crew.ctx != bootCtx && s.crew.limit < s.self.pcnt + 1 then .run .preemptLimit len s
      else .run i len s := by
  rw [State.admitInstr, vectorFields_admitted hv, privileged_admitted hp, hl, hy]
  rfl

end Admitted

/-! ## The faults of decoding and of the limit -/

/-- Every fault but FE_EMPTY ends the launch (06 R237). -/
theorem raise_of_ne_feEmpty (s : State) {code : BitVec 8} (addr : Word) (h : code ≠ FE_EMPTY) :
    s.raise code addr = s.endLaunch code addr := by
  rw [State.raise, beq_eq_false_iff_ne.2 h]
  rfl

theorem exec_illOpc_ends (s : State) :
    exec .illOpc s = .next (s.endLaunch ILL_OPC (s.self.pc + if s.args.flag then 4 else 0)) := by
  rw [exec_illOpc, execIllOpc, raise_of_ne_feEmpty s _ (by decide)]

/-- Settles O51: each check passes those before it, and answers its fault. -/
theorem checksBeforeExecution : Obligations.ChecksBeforeExecution := by
  refine ⟨fun s i len e => ⟨fun hl hv h8 => ?_, fun hl hv h8 => ?_, admitInstr_notAllowed,
    fun hf ha => admitInstr_straddling hf ha e, fun hf ha hl hy hi hc hp hs => ?_, fun hf ha hl hy hs hw hcl hb => ?_⟩,
    fun s => ⟨fun hf => ?_, fun hf => ?_, ?_, ?_⟩⟩
  · simp [admitInstr_longRegister hl hv, h8]
  · simp [admitInstr_longRegister hl hv, h8]
  · rw [admitInstr_unmarked hf ha hl hy, hs, hi]
    simp [hc, Nat.lt_succ_of_le hp]
  · rw [admitInstr_unmarked hf ha hl hy, hs, hw, hcl, hb]
    rfl
  · simp [exec_illOpc_ends, hf]
  · simp [exec_illOpc_ends, hf]
  · rw [exec_preemptLimit, execPreemptLimit, raise_of_ne_feEmpty s _ (by decide)]
  · rw [exec_paddingHalf, execPaddingHalf, finish_ok, State.advance]

end Sys2Proof.Machine

/-! PROOF. O28: the rotation of exact integers is undone by its inverse, up to the factor 2^5 (03 R111, R112, R116). A
block is read as an integer function of the position: a butterfly stage over a block is `stage` there, of which two of
one kind double, and two of different kinds commute; so the five stages done twice multiply by 2^5. -/

namespace Sys2Proof.Machine

/-! ## Blocks of exact integers -/

/-- The block of 32 exact integers that holds `f j` at position `j`. -/
def intBlock (f : Nat → Int) : List Q := (List.range 32).map (fun j => ⟨f j, 1, 0⟩)

theorem qAdd_int (a b : Int) : Q.add ⟨a, 1, 0⟩ ⟨b, 1, 0⟩ = ⟨a + b, 1, 0⟩ := by simp [Q.add]

theorem qAt_intBlock (f : Nat → Int) {j : Nat} (hj : j < 32) : qAt (intBlock f) j = ⟨f j, 1, 0⟩ := by
  simp [qAt, intBlock, hj]

theorem map_n_intBlock (f : Nat → Int) : (intBlock f).map (·.n) = (List.range 32).map f := by simp [intBlock]

/-- Every list of 32 integers is the values of a function at the positions. -/
theorem eq_map_range {x : List Int} (hx : x.length = 32) : x = (List.range 32).map (fun j => x.getD j 0) := by
  refine List.ext_getElem (by simp [hx]) fun j hj _ => ?_
  simp [hj]

/-! ## The butterfly stages -/

/-- The butterfly stage at distance 2^k, over functions of the position: the position across differs in bit `k`. -/
def stage (f : Nat → Int) (k : Nat) : Nat → Int :=
  fun j => if j.testBit k then f (j ^^^ 2 ^ k) - f j else f j + f (j ^^^ 2 ^ k)

/-- Where a stage of R112 finds the position across: above if bit `k` is clear, below if it is set. -/
theorem across_of_clear : ∀ k < 5, ∀ j < 32, j / 2 ^ k % 2 = 0 →
    j + 2 ^ k = j ^^^ 2 ^ k ∧ j ^^^ 2 ^ k < 32 ∧ j.testBit k = false := by decide

theorem across_of_set : ∀ k < 5, ∀ j < 32, j / 2 ^ k % 2 ≠ 0 →
    j - 2 ^ k = j ^^^ 2 ^ k ∧ j ^^^ 2 ^ k < 32 ∧ j.testBit k = true := by decide

theorem butterfly_intBlock (f : Nat → Int) {k : Nat} (hk : k < 5) :
    butterfly (intBlock f) (2 ^ k) = intBlock (stage f k) := by
  refine List.map_congr_left fun j hj => ?_
  have hj : j < 32 := List.mem_range.1 hj
  by_cases hb : j / 2 ^ k % 2 = 0
  · obtain ⟨above, inside, clear⟩ := across_of_clear k hk j hj hb
    simp [hb, above, stage, clear, qAt_intBlock f hj, qAt_intBlock f inside, qAdd_int]
  · obtain ⟨below, inside, set⟩ := across_of_set k hk j hj hb
    simp [hb, below, stage, set, qAt_intBlock f hj, qAt_intBlock f inside, qAdd_int, Q.neg, Int.sub_eq_add_neg]

theorem foldl_butterfly_intBlock (ks : List Nat) (hks : ∀ k ∈ ks, k < 5) (f : Nat → Int) :
    (ks.map (2 ^ ·)).foldl butterfly (intBlock f) = intBlock (ks.foldl stage f) := by
  induction ks generalizing f with
  | nil => rfl
  | cons k ks ih =>
    obtain ⟨hk, hks⟩ := List.forall_mem_cons.1 hks
    simp only [List.map_cons, List.foldl_cons, butterfly_intBlock f hk, ih hks]

theorem hadamard_intBlock (f : Nat → Int) : hadamard (intBlock f) = intBlock ((List.range 5).foldl stage f) :=
  foldl_butterfly_intBlock (List.range 5) (fun _ => List.mem_range.1) f

/-! ## The stages done twice -/

theorem stage_stage_same (f : Nat → Int) (k : Nat) : stage (stage f k) k = fun j => 2 * f j := by
  funext j
  have back : j ^^^ 2 ^ k ^^^ 2 ^ k = j := by rw [Nat.xor_assoc, Nat.xor_self, Nat.xor_zero]
  have flip : (j ^^^ 2 ^ k).testBit k = !j.testBit k := by simp [Nat.testBit_xor]
  cases h : j.testBit k <;> simp [stage, back, flip, h] <;> ring

theorem stage_stage_comm (f : Nat → Int) {k l : Nat} (hkl : k ≠ l) : stage (stage f k) l = stage (stage f l) k := by
  funext j
  have keepk : (j ^^^ 2 ^ l).testBit k = j.testBit k := by simp [Nat.testBit_xor, hkl.symm]
  have keepl : (j ^^^ 2 ^ k).testBit l = j.testBit l := by simp [Nat.testBit_xor, hkl]
  have cross : j ^^^ 2 ^ l ^^^ 2 ^ k = j ^^^ 2 ^ k ^^^ 2 ^ l := Nat.xor_right_comm ..
  cases hk : j.testBit k <;> cases hl : j.testBit l <;> simp [stage, keepk, keepl, cross, hk, hl] <;> ring

theorem foldl_stage_comm {k : Nat} {ks : List Nat} (hk : k ∉ ks) (f : Nat → Int) :
    ks.foldl stage (stage f k) = stage (ks.foldl stage f) k := by
  induction ks generalizing f with
  | nil => rfl
  | cons l ks ih =>
    obtain ⟨hkl, hk⟩ := List.ne_and_not_mem_of_not_mem_cons hk
    rw [List.foldl_cons, List.foldl_cons, stage_stage_comm f hkl, ih hk]

/-- H·H = 2^n·I, for any `n` different stages in any order. -/
theorem foldl_stage_twice {ks : List Nat} (hks : ks.Nodup) (f : Nat → Int) :
    ks.foldl stage (ks.foldl stage f) = fun j => 2 ^ ks.length * f j := by
  induction ks generalizing f with
  | nil => simp
  | cons k ks ih =>
    obtain ⟨hk, hks⟩ := List.nodup_cons.1 hks
    calc ks.foldl stage (stage (ks.foldl stage (stage f k)) k)
        = ks.foldl stage (ks.foldl stage (stage (stage f k) k)) := by rw [← foldl_stage_comm hk]
      _ = fun j => 2 ^ ks.length * (2 * f j) := by rw [ih hks, stage_stage_same]
      _ = fun j => 2 ^ (k :: ks).length * f j := by funext j; rw [List.length_cons, pow_succ, mul_assoc]

/-! ## The signs -/

/-- The signs of a block's positions (R111), over functions of the position. -/
def signed (seed pos0 : Word) (f : Nat → Int) : Nat → Int :=
  fun j => if flips seed (pos0 + word j) then -f j else f j

theorem signs_intBlock (seed pos0 : Word) (f : Nat → Int) :
    signs seed pos0 (intBlock f) = intBlock (signed seed pos0 f) := by
  refine List.ext_getElem (by simp [signs, intBlock]) fun j _ _ => ?_
  cases h : flips seed (pos0 + word j) <;> simp [signs, intBlock, signed, h, Q.neg]

/-- D·D = I, and D is linear. -/
theorem signed_mul_signed (seed pos0 : Word) (c : Int) (f : Nat → Int) :
    signed seed pos0 (fun j => c * signed seed pos0 f j) = fun j => c * f j := by
  funext j
  cases h : flips seed (pos0 + word j) <;> simp [signed, h]

/-! ## The round trip -/

theorem rotateInts_map_range (seed pos0 : Word) (f : Nat → Int) :
    rotateInts seed pos0 ((List.range 32).map f) =
      (List.range 32).map ((List.range 5).foldl stage (signed seed pos0 f)) := by
  have block : ((List.range 32).map f).map (fun v => (⟨v, 1, 0⟩ : Q)) = intBlock f := List.map_map
  rw [rotateInts, block, signs_intBlock, hadamard_intBlock, map_n_intBlock]

/-- Settles O28: the five stages done twice multiply by 2^5, and the signs, which commute with that factor, cancel. -/
theorem rotationIsInvertible : Obligations.RotationIsInvertible := by
  intro seed pos0 x hx
  refine ⟨_, rfl, ?_⟩
  rw [eq_map_range hx, rotateInts_map_range, List.map_map, List.map_map]
  refine ⟨by simp, ?_⟩
  change signs seed pos0 (hadamard (intBlock _)) = intBlock (fun j => 32 * x.getD j 0)
  rw [hadamard_intBlock, foldl_stage_twice List.nodup_range, signs_intBlock, signed_mul_signed]
  rfl

end Sys2Proof.Machine

/-! PROOF. What the operations of the pilot leave as it was: the bytes of memory, and the states they are read in. -/

namespace Sys2Proof.Machine

/-- Everything that a byte of memory reads from, and the marks of its words, stands as it was. -/
structure State.KeepsBytes (s t : State) : Prop where
  mem : t.mem = s.mem
  lineKey : t.lineKey = s.lineKey
  dirty : t.dirty = s.dirty
  empties : t.empties = s.empties
  poison : t.poison = s.poison
  unpub : t.unpub = s.unpub

theorem State.KeepsBytes.refl (s : State) : s.KeepsBytes s := ⟨rfl, rfl, rfl, rfl, rfl, rfl⟩
theorem State.KeepsBytes.trans {s t u : State} (h : s.KeepsBytes t) (g : t.KeepsBytes u) : s.KeepsBytes u :=
  ⟨g.mem.trans h.mem, g.lineKey.trans h.lineKey, g.dirty.trans h.dirty, g.empties.trans h.empties,
    g.poison.trans h.poison, g.unpub.trans h.unpub⟩

theorem State.KeepsBytes.sameMemory {s t : State} (h : s.KeepsBytes t) : s.sameMemory t :=
  ⟨fun key p => byteAt_congr h.mem h.lineKey h.dirty key p, h.empties, h.poison, h.unpub⟩

/-- A state that differs from another at most in what the module notes down: its history and the numbers it hands out, the
words that open fences veil, units under HOLD, page faults and machine checks to be served, and banks that have woken. -/
structure State.Notes (s t : State) : Prop where
  self : t.self = s.self
  peers : t.peers = s.peers
  saved : t.saved = s.saved
  crews : t.crews = s.crews
  manifests : t.manifests = s.manifests
  ctxs : t.ctxs = s.ctxs
  tide : t.tide = s.tide
  reqs : t.reqs = s.reqs
  returns : t.returns = s.returns
  leaseWaits : t.leaseWaits = s.leaseWaits
  waiters : t.waiters = s.waiters
  keys : t.keys = s.keys
  mod : t.mod = s.mod
  answers : t.answers = s.answers
  bytes : s.KeepsBytes t

theorem State.Notes.refl (s : State) : s.Notes s :=
  ⟨rfl, rfl, rfl, rfl, rfl, rfl, rfl, rfl, rfl, rfl, rfl, rfl, rfl, rfl, .refl s⟩
theorem State.Notes.trans {s t u : State} (h : s.Notes t) (g : t.Notes u) : s.Notes u :=
  ⟨g.1.trans h.1, g.2.trans h.2, g.3.trans h.3, g.4.trans h.4, g.5.trans h.5, g.6.trans h.6, g.7.trans h.7, g.8.trans h.8,
    g.9.trans h.9, g.10.trans h.10, g.11.trans h.11, g.12.trans h.12, g.13.trans h.13, g.14.trans h.14, h.bytes.trans g.bytes⟩

theorem notes_record (s : State) (e : Event) : s.Notes (s.record e) :=
  ⟨rfl, rfl, rfl, rfl, rfl, rfl, rfl, rfl, rfl, rfl, rfl, rfl, rfl, rfl, ⟨rfl, rfl, rfl, rfl, rfl, rfl⟩⟩
theorem notes_pass (s : State) : s.Notes s.pass :=
  ⟨rfl, rfl, rfl, rfl, rfl, rfl, rfl, rfl, rfl, rfl, rfl, rfl, rfl, rfl, ⟨rfl, rfl, rfl, rfl, rfl, rfl⟩⟩
theorem notes_meets (s : State) (e : Event) : s.Notes (s.meets e) := (notes_record ..).trans (notes_pass _)
theorem notes_veil (s : State) (r : Req) (words : List Nat) : s.Notes (s.veil r words) :=
  ⟨rfl, rfl, rfl, rfl, rfl, rfl, rfl, rfl, rfl, rfl, rfl, rfl, rfl, rfl, ⟨rfl, rfl, rfl, rfl, rfl, rfl⟩⟩
theorem notes_holdOff (s : State) (crew idx : Nat) : s.Notes (s.holdOff crew idx) :=
  ⟨rfl, rfl, rfl, rfl, rfl, rfl, rfl, rfl, rfl, rfl, rfl, rfl, rfl, rfl, ⟨rfl, rfl, rfl, rfl, rfl, rfl⟩⟩
theorem notes_newMid (s : State) : s.Notes s.newMid.2 :=
  ⟨rfl, rfl, rfl, rfl, rfl, rfl, rfl, rfl, rfl, rfl, rfl, rfl, rfl, rfl, ⟨rfl, rfl, rfl, rfl, rfl, rfl⟩⟩

section Notes
variable {s t : State} (h : s.Notes t)
include h

theorem State.Notes.ctx (k : Nat) : t.ctx k = s.ctx k := by rw [State.ctx, h.ctxs, State.ctx]
theorem State.Notes.crew : t.crew = s.crew := by rw [State.crew, State.crewById, h.crews, h.self, State.crew, State.crewById]
theorem State.Notes.issuer : t.issuer = s.issuer := by
  rw [State.issuer, State.issuerOf, State.crewById, h.crews, h.self, State.issuer, State.issuerOf, State.crewById]

end Notes

/-- A context that stands in the list is the one that its number names. -/
theorem ctx_of_getElem? {s : State} {k : Nat} {c : Ctx} (h : s.ctxs[k]? = some c) : s.ctx k = c := by
  rw [State.ctx, h, Option.getD_some]

end Sys2Proof.Machine

/-! PROOF. O15: spawn and spawnw, and manifest identifiers that nothing of the module holds (05 R171). -/

namespace Sys2Proof.Machine

/-! ## A new identifier -/

/-- The identifiers that no new manifest may take (05 R171): zero, those of the manifests, and those of the roots of launches
whose record has been read. -/
def State.takenMids (s : State) : List (BitVec 32) :=
  0 :: s.manifests.map (·.mid) ++
    s.ctxs.filterMap (fun c => c.launch.bind (fun l => if l.record.isSome then some l.root else none))

theorem mem_takenMids {s : State} {m : BitVec 32} : m ∈ s.takenMids ↔
    m = 0 ∨ (∃ x ∈ s.manifests, x.mid = m) ∨ ∃ c ∈ s.ctxs, ∃ l, c.launch = some l ∧ l.record.isSome = true ∧ l.root = m := by
  simp [State.takenMids, Option.bind_eq_some_iff]

/-- The values that are tried where the free one is taken. -/
def State.midCandidates (s : State) : List (BitVec 32) :=
  (List.range (s.manifests.length + s.ctxs.length + 2)).map (BitVec.ofNat 32)

theorem newMid_eq (s : State) :
    let c : BitVec 32 := s.freeWord.1.setWidth 32
    s.newMid.1 = if c ∈ s.takenMids then (s.midCandidates.find? (· ∉ s.takenMids)).getD c else c := by
  intro c
  have used (m : BitVec 32) : (m == 0 || s.manifests.any (fun x => x.mid == m) ||
      s.ctxs.any (fun c => (c.launch.map (fun l => l.record.isSome && l.root == m)).getD false)) = decide (m ∈ s.takenMids) := by
    rw [Bool.eq_iff_iff, decide_eq_true_iff, mem_takenMids]
    simp only [Bool.or_eq_true, beq_iff_eq, List.any_eq_true, or_assoc]
    refine or_congr .rfl (or_congr .rfl (exists_congr fun c => and_congr .rfl ?_))
    cases c.launch <;> simp
  simp only [State.newMid, used, decide_eq_true_iff, decide_not]
  rfl

theorem takenMids_length_lt (s : State) : s.takenMids.length < s.midCandidates.length := by
  have := List.length_filterMap_le (fun c : Ctx => c.launch.bind (fun l => if l.record.isSome then some l.root else none)) s.ctxs
  simp only [State.takenMids, State.midCandidates, List.length_append, List.length_cons, List.length_map, List.length_range]
  omega

theorem midCandidates_nodup {s : State} (h : s.manifests.length + s.ctxs.length + 2 < 2 ^ 32) : s.midCandidates.Nodup := by
  refine List.Nodup.map_on (fun x hx y hy hxy => ?_) List.nodup_range
  have := congrArg BitVec.toNat hxy
  simp only [BitVec.toNat_ofNat, List.mem_range] at this hx hy
  omega

/-- More values are tried than are taken, so one of them is free. -/
theorem newMid_fresh {s : State} (h : s.manifests.length + s.ctxs.length + 2 < 2 ^ 32) : s.newMid.1 ∉ s.takenMids := by
  rw [newMid_eq]
  split
  · cases hf : s.midCandidates.find? (· ∉ s.takenMids) with
    | some m => simpa using List.find?_some hf
    | none =>
      have all : s.midCandidates ⊆ s.takenMids := fun m hm => by simpa using List.find?_eq_none.1 hf m hm
      have := (List.subperm_of_subset (midCandidates_nodup h) all).length_le
      have := takenMids_length_lt s
      omega
  · assumption

/-! ## Room for a child -/

theorem poolOpen_congr {s t : State} (hm : t.manifests = s.manifests) (hc : t.ctxs = s.ctxs) (k n : Nat) :
    t.poolOpen k n = s.poolOpen k n := by
  unfold State.poolOpen State.poolCount State.inLighter State.ctx
  rw [hm, hc]

theorem childRoom_open {s : State} {k n : Nat} (h : s.poolOpen k n = true) (p : Word) : s.childRoom k n p = .ok () := by
  simp [State.childRoom, h]

theorem childRoom_full {s : State} {k n : Nat} (h : s.poolOpen k n = false)
    (hl : (s.ctx k).lighterSize ≤ (s.ctx k).lighter.length) (hd : s.mod.duty.getLsbD 1 = false) (p : Word) :
    s.childRoom k n p = .error (.fault CHILD_POOL p) := by
  rw [State.childRoom, h, hd, decide_eq_false (Nat.not_lt_of_le hl)]
  rfl

theorem lighterReady_open {s : State} {k n : Nat} (h : s.poolOpen k n = true) : s.lighterReady k n = .ok () := by
  simp [State.lighterReady, h]

/-! ## What spawn and spawnw come to -/

/-- A strand that has read bytes stands as it did; the history has what it read. -/
theorem notes_lookedAt {s u : State} {va : Word} {n : Nat} {r : List Byte} (h : s.strongRead va n = .ok r)
    (hu : s.lookedAt va n = u) : s.Notes u ∧ u.serial = s.serial + 1 := by
  obtain ⟨t, ht, -⟩ := except_bind_eq_ok h
  simp only [State.lookedAt, ht] at hu
  subst hu
  exact ⟨(notes_veil ..).trans (notes_meets ..), rfl⟩

/-- The child of a record that the strand whose turn it is has read. -/
def State.childOf (s : State) (r : List Byte) : Manifest :=
  { mid := s.newMid.1, ctx := s.crew.ctx, record := r, tower := s.self.tower, parent := some s.crew.mid
    towers := if recTowers r == 0 then BitVec.twoPow 16 s.self.tower else recTowers r
    deps := s.resolveDeps s.issuer s.crew.size r, spawner := s.issuer, born := s.serial, prio := recPrio r }

/-- A state from which the strand's spawn gives its child a place. -/
def State.spawning (s : State) : State :=
  (s.roomFound.holdOff s.self.crew s.self.idx).newMid.2.meets { gives := [.start s.serial] }

theorem notes_spawning (s : State) : s.Notes s.spawning := by
  have notes_roomFound : s.Notes s.roomFound :=
    ⟨rfl, rfl, rfl, rfl, rfl, rfl, rfl, rfl, rfl, rfl, rfl, rfl, rfl, rfl, ⟨rfl, rfl, rfl, rfl, rfl, rfl⟩⟩
  exact notes_roomFound.trans ((notes_holdOff ..).trans ((notes_newMid _).trans (notes_meets ..)))

theorem spawning_serial (s : State) : s.spawning.serial = s.serial + 1 := rfl

/-- What spawn leaves of a state in which its strand has read the record. -/
def State.spawned (s : State) (d : Reg) (r : List Byte) : State :=
  (s.spawning.admitChild (s.childOf r)).mapSelf (fun st => (st.setG d.toNat (s.newMid.1.setWidth 64)).advance 4)

/-- What spawnw leaves of it. -/
def State.spawnedW (s : State) (d : Reg) (r : List Byte) : State :=
  ((s.spawning.produce (.g d.toNat) (List.replicate 8 none)).1.admitChild { s.childOf r with ret := some (s.serial + 1) }).advance 4

/-- A child takes its place in an open pool, and its parent counts it. -/
theorem admitChild_open {s t : State} {m : Manifest} (hm : t.manifests = s.manifests) (hc : t.ctxs = s.ctxs)
    (ho : s.poolOpen m.ctx m.tower = true) :
    t.admitChild m = { t with manifests :=
      (s.setManifest (m.parent.getD 0) (fun x => { x with kids := x.kids + 1 })).manifests ++ [m] } := by
  simp only [State.admitChild, (poolOpen_congr hm hc ..).trans ho, if_true, State.setManifest, hm]

/-- The parent of a child counts it. -/
abbrev State.withKid (s : State) : List Manifest := (s.setManifest s.crew.mid (fun x => { x with kids := x.kids + 1 })).manifests

theorem spawned_open {s : State} {d : Reg} {r : List Byte} (ho : s.poolOpen s.crew.ctx s.self.tower = true) :
    (s.spawned d r).manifests = s.withKid ++ [s.childOf r] ∧
      (s.spawned d r).self = (s.self.setG d.toNat (s.newMid.1.setWidth 64)).advance 4 ∧ s.KeepsBytes (s.spawned d r) := by
  have notes := notes_spawning s
  have placed := admitChild_open (m := s.childOf r) notes.manifests notes.ctxs ho
  rw [State.spawned, placed]
  generalize s.spawning = t at notes
  exact ⟨rfl, congrArg (fun st => (Strand.setG st d.toNat (s.newMid.1.setWidth 64)).advance 4) notes.self,
    notes.bytes.trans ⟨rfl, rfl, rfl, rfl, rfl, rfl⟩⟩

theorem spawnedW_open {s : State} {d : Reg} {r : List Byte} (ho : s.poolOpen s.crew.ctx s.self.tower = true) :
    (s.spawnedW d r).manifests = s.withKid ++ [{ s.childOf r with ret := some (s.serial + 1) }] ∧
      (s.spawnedW d r).self = (s.self.emptyG d.toNat).advance 4 ∧
      (s.spawnedW d r).returns = s.returns ++
        [{ id := s.serial + 1, crew := s.self.crew, idx := s.self.idx, dest := .g d.toNat, data := List.replicate 8 none }] ∧
      s.KeepsBytes (s.spawnedW d r) := by
  have notes := notes_spawning s
  have hserial := spawning_serial s
  rw [State.spawnedW]
  generalize s.spawning = t at notes hserial
  rw [admitChild_open (s := s) (t := (t.produce _ _).1) notes.manifests notes.ctxs ho]
  refine ⟨rfl, congrArg (fun st => (Strand.emptyG st d.toNat).advance 4) notes.self, ?_,
    notes.bytes.trans ⟨rfl, rfl, rfl, rfl, rfl, rfl⟩⟩
  rw [← notes.returns, ← notes.self, ← hserial]
  rfl

section Spawn
variable {s u : State} {f : FA} {p : Word} {r : List Byte} (waits : Bool) (hboot : s.crew.ctx ≠ bootCtx)
  (ha : s.source f.a p) (hc : canonical p = true) (h128 : p.toNat % 128 = 0) (hd : s.settled (.g f.d.toNat))
  (hr : s.strongRead p 128 = .ok r) (hu : s.lookedAt p 128 = u) (hw : waits = true → f.d ≠ 0)
include hboot ha hc h128 hd hr hu hw

/-- spawn and spawnw check the record once they have read it; then the child needs room. -/
theorem spawnCommon_read : s.spawnCommon f waits =
    match u.checkManifest s.issuer s.crew.size false r with
      | some c => .error (.fault c p)
      | none => do
        u.childRoom s.crew.ctx s.self.tower p
        u.lighterReady s.crew.ctx s.self.tower
        return if waits then u.spawnedW f.d r else u.spawned f.d r := by
  have hw : (!waits || f.d != 0) = true := by cases waits <;> simp_all
  obtain ⟨notes, -⟩ := notes_lookedAt hr hu
  simp only [State.spawnCommon, bne_iff_ne.2 hboot, hw, srcG_full ha, hc, h128, decide_true, need_true, destFree_settled hd, hr,
    hu, except_ok_bind]
  rw [← notes.issuer, ← notes.crew, ← notes.self]
  cases waits <;> rfl

/-- In a tower whose pool takes it the child has a place at once (05 R177). -/
theorem spawnCommon_placed (hm : u.checkManifest s.issuer s.crew.size false r = none)
    (ho : u.poolOpen s.crew.ctx s.self.tower = true) :
    s.spawnCommon f waits = .ok (if waits then u.spawnedW f.d r else u.spawned f.d r) := by
  simp only [spawnCommon_read waits hboot ha hc h128 hd hr hu hw, hm, childRoom_open ho, lighterReady_open ho, except_ok_bind,
    except_pure]

theorem spawnCommon_refused {c : BitVec 8} (hm : u.checkManifest s.issuer s.crew.size false r = some c) :
    s.spawnCommon f waits = .error (.fault c p) := by
  simp only [spawnCommon_read waits hboot ha hc h128 hd hr hu hw, hm]

/-- No room in the pool, none in the lighter queue, and no host to make some (05 R179). -/
theorem spawnCommon_full (hm : u.checkManifest s.issuer s.crew.size false r = none)
    (ho : u.poolOpen s.crew.ctx s.self.tower = false)
    (hl : (s.ctx s.crew.ctx).lighterSize ≤ (s.ctx s.crew.ctx).lighter.length) (hduty : s.mod.duty.getLsbD 1 = false) :
    s.spawnCommon f waits = .error (.fault CHILD_POOL p) := by
  obtain ⟨notes, -⟩ := notes_lookedAt hr hu
  have full := childRoom_full ho (by rwa [notes.ctx]) (by rwa [notes.mod]) p
  simp only [spawnCommon_read waits hboot ha hc h128 hd hr hu hw, hm, full, except_error_bind]

end Spawn

/-- Settles O15: the record is read, checked, and its child placed; the identifiers that new manifests take are free. -/
theorem spawnInstructions : Obligations.SpawnInstructions := by
  refine ⟨fun s f p r => ?_, fun s hlen => ?_⟩
  · intro u child counted hboot ha hc h128 hd hr
    have hu : s.lookedAt p 128 = u := rfl
    clear_value u
    obtain ⟨notes, hserial⟩ := notes_lookedAt hr hu
    have hchild : u.childOf r = child := by
      simp only [State.childOf, child, notes.self, notes.crew, notes.issuer]
    have hcounted : u.withKid = counted := by
      simp only [State.withKid, State.setManifest, notes.manifests, notes.crew, counted]
    have hopen (ho : u.poolOpen s.crew.ctx s.self.tower = true) : u.poolOpen u.crew.ctx u.self.tower = true := by
      rwa [notes.crew, notes.self]
    refine ⟨hserial, notes.bytes.sameMemory, notes.returns, fun hm ho => ⟨?_, fun hd0 => ?_⟩, fun c hm => ⟨?_, fun hd0 => ?_⟩,
      fun hm ho hl hduty => ⟨?_, fun hd0 => ?_⟩⟩
    · obtain ⟨hmans, hst, hbytes⟩ := spawned_open (d := f.d) (r := r) (hopen ho)
      rw [exec_spawn, execSpawn, spawnCommon_placed false hboot ha hc h128 hd hr hu nofun hm ho]
      exact ⟨u.spawned f.d r, rfl, by rw [hmans, hcounted, hchild], by rw [hst, notes.self], (notes.bytes.trans hbytes).sameMemory⟩
    · obtain ⟨hmans, hst, hret, hbytes⟩ := spawnedW_open (d := f.d) (r := r) (hopen ho)
      rw [exec_spawnw, execSpawnw, spawnCommon_placed true hboot ha hc h128 hd hr hu (fun _ => hd0) hm ho]
      exact ⟨u.spawnedW f.d r, rfl, by rw [hmans, hcounted, hchild], by rw [hst, notes.self],
        by rw [hret, notes.returns, notes.self], (notes.bytes.trans hbytes).sameMemory⟩
    · rw [exec_spawn, execSpawn, spawnCommon_refused false hboot ha hc h128 hd hr hu nofun hm]; rfl
    · rw [exec_spawnw, execSpawnw, spawnCommon_refused true hboot ha hc h128 hd hr hu (fun _ => hd0) hm]; rfl
    · rw [exec_spawn, execSpawn, spawnCommon_full false hboot ha hc h128 hd hr hu nofun hm ho hl hduty]; rfl
    · rw [exec_spawnw, execSpawnw, spawnCommon_full true hboot ha hc h128 hd hr hu (fun _ => hd0) hm ho hl hduty]; rfl
  · have fresh := newMid_fresh hlen
    rw [mem_takenMids, not_or, not_or] at fresh
    obtain ⟨hzero, hmans, hroots⟩ := fresh
    exact ⟨hzero, fun m hm hmid => hmans ⟨m, hm, hmid⟩, fun c hc l hl hrec hroot => hroots ⟨c, hc, l, hl, hrec, hroot⟩⟩

end Sys2Proof.Machine

/-! PROOF. O16: yield, retire and abort (05 R198, R199, R203). -/

namespace Sys2Proof.Machine

/-! ## What the end of an iteration leaves as it was -/

/-- Strands, crews, and what every byte of memory holds stand as they were. -/
structure State.KeepsCrews (s t : State) : Prop where
  self : t.self = s.self
  peers : t.peers = s.peers
  saved : t.saved = s.saved
  crews : t.crews = s.crews
  bytes : s.KeepsBytes t

theorem State.KeepsCrews.refl (s : State) : s.KeepsCrews s := ⟨rfl, rfl, rfl, rfl, .refl s⟩
theorem State.KeepsCrews.trans {s t u : State} (h : s.KeepsCrews t) (g : t.KeepsCrews u) : s.KeepsCrews u :=
  ⟨g.1.trans h.1, g.2.trans h.2, g.3.trans h.3, g.4.trans h.4, h.5.trans g.5⟩
theorem State.Notes.keepsCrews {s t : State} (h : s.Notes t) : s.KeepsCrews t := ⟨h.self, h.peers, h.saved, h.crews, h.bytes⟩

theorem keepsCrews_setCtx (s : State) (k : Nat) (f : Ctx → Ctx) : s.KeepsCrews (s.setCtx k f) :=
  ⟨rfl, rfl, rfl, rfl, ⟨rfl, rfl, rfl, rfl, rfl, rfl⟩⟩
theorem keepsCrews_setManifest (s : State) (mid : BitVec 32) (f : Manifest → Manifest) : s.KeepsCrews (s.setManifest mid f) :=
  ⟨rfl, rfl, rfl, rfl, ⟨rfl, rfl, rfl, rfl, rfl, rfl⟩⟩
theorem keepsCrews_dropManifest (s : State) (mid : BitVec 32) :
    s.KeepsCrews { s with manifests := s.manifests.filter (fun x => x.mid != mid) } :=
  ⟨rfl, rfl, rfl, rfl, ⟨rfl, rfl, rfl, rfl, rfl, rfl⟩⟩

theorem keepsCrews_deliver (s : State) (ret : Option (Nat × Nat)) (bs : List Byte) : s.KeepsCrews (s.deliver ret bs) := by
  cases ret with
  | none => exact .refl s
  | some r => exact ⟨rfl, rfl, rfl, rfl, ⟨rfl, rfl, rfl, rfl, rfl, rfl⟩⟩

theorem keepsCrews_observe (s : State) (m : Manifest) : s.KeepsCrews (s.observe m) := by
  unfold State.observe
  cases m.ret with
  | none => exact .refl s
  | some r => exact ((notes_record ..).trans (notes_pass _)).keepsCrews.trans (keepsCrews_deliver ..)

/-- The completion of manifests, up to a root (05 R158), concerns no strand, no crew, and no byte of memory. -/
theorem keepsCrews_settle (n : Nat) (mid : BitVec 32) (s : State) : s.KeepsCrews (s.settle n mid) := by
  induction n generalizing mid s with
  | zero => exact .refl s
  | succ n ih =>
    rw [State.settle]
    split
    · exact .refl s
    next m _ =>
      split_ifs
      · exact .refl s
      · exact keepsCrews_setManifest ..
      · have dropped := keepsCrews_dropManifest s mid
        cases m.parent with
        | none => exact dropped.trans (keepsCrews_setCtx ..)
        | some p =>
          refine dropped.trans (.trans ?_ (ih p _))
          exact (notes_record ..).keepsCrews.trans ((keepsCrews_observe _ m).trans (keepsCrews_setManifest ..))

theorem keepsBytes_removeCrew (s : State) (id : Nat) : s.KeepsBytes (s.removeCrew id) := ⟨rfl, rfl, rfl, rfl, rfl, rfl⟩

/-- The end of an iteration removes its crew; its manifest, or its launch, is all else that it concerns. -/
theorem endIteration_keepsCrews (s : State) (id : Nat) : (s.removeCrew id).KeepsCrews (s.endIteration id) := by
  dsimp only [State.endIteration]
  split_ifs
  · exact keepsCrews_setCtx ..
  · exact (keepsCrews_setManifest ..).trans (keepsCrews_settle ..)

/-! ## retire -/

theorem barrierCheck_eq (s : State) (id : Nat) : s.barrierCheck id = s ∨
    s.barrierCheck id = s.setCrew id (fun c => { c with barPhase := c.barPhase + 1, arrived := [] }) := by
  dsimp only [State.barrierCheck]
  split_ifs
  · exact .inr rfl
  · exact .inl rfl

/-- A strand as retire leaves it. -/
def Strand.gone (st : Strand) : Strand := { st with retired := true, wait := none, pcnt := st.pcnt + 1 }

/-- A state as its strand's retire leaves it, before it may end the iteration: a retired strand counts at its crew's barrier. -/
def State.retiring (s : State) : State :=
  let ends := ((s.manifest s.crew.mid).map (fun m => [Mark.over m.born])).getD []
  ((s.meets { gives := .gone s.self.crew s.crew.barPhase.toNat :: ends }).mapSelf Strand.gone).barrierCheck s.self.crew

theorem retiring_keeps (s : State) : s.retiring.self = s.self.gone ∧ s.retiring.peers = s.peers ∧ s.retiring.saved = s.saved ∧
    s.retiring.manifests = s.manifests ∧ s.KeepsBytes s.retiring := by
  have checked (t : State) (id : Nat) : (t.barrierCheck id).self = t.self ∧ (t.barrierCheck id).peers = t.peers ∧
      (t.barrierCheck id).saved = t.saved ∧ (t.barrierCheck id).manifests = t.manifests ∧ t.KeepsBytes (t.barrierCheck id) := by
    rcases barrierCheck_eq t id with h | h <;> rw [h] <;> exact ⟨rfl, rfl, rfl, rfl, ⟨rfl, rfl, rfl, rfl, rfl, rfl⟩⟩
  obtain ⟨hself, hpeers, hsaved, hmans, hbytes⟩ := checked (State.mapSelf (s.meets _) Strand.gone) s.self.crew
  have gone (e : Event) : s.KeepsBytes ((s.meets e).mapSelf Strand.gone) := ⟨rfl, rfl, rfl, rfl, rfl, rfl⟩
  exact ⟨hself, hpeers, hsaved, hmans, (gone _).trans hbytes⟩

/-- A strand that waits for nothing retires, and ends the iteration when it is its crew's last. -/
theorem retire_ok {s : State} (hdr : s.drained s.issuer = true) (hl : s.leasesOver s.issuer s.serial 3 = true)
    (hm : s.self.mq.idle = true) (hc : s.self.cq.idle = true) :
    s.retire = .ok (if (s.retiring.strandsOf s.self.crew).all (·.retired) then s.retiring.endIteration s.self.crew
      else s.retiring) := by
  simp only [State.retire, hdr, hl, hm, hc, Bool.and_self, await_true, except_ok_bind]
  exact (apply_ite Except.ok ..).symm

theorem retire_waits {s : State} (h : s.drained s.issuer = false ∨ s.leasesOver s.issuer s.serial 3 = false) :
    s.retire = .error s.retry := by
  have h : (s.drained s.issuer && s.leasesOver s.issuer s.serial 3) = false := Bool.and_eq_false_iff.2 h
  simp only [State.retire, h, await_false, except_error_bind]

theorem retiring_all_retired {s : State} : (s.retiring.strandsOf s.self.crew).all (·.retired) = true ↔
    ∀ x ∈ s.peers ++ s.saved, x.crew = s.self.crew → x.retired = true := by
  obtain ⟨hself, hpeers, hsaved, -⟩ := retiring_keeps s
  simp only [State.strandsOf, hself, hpeers, hsaved, List.all_eq_true, List.mem_filter, beq_iff_eq, and_imp, List.cons_append,
    List.forall_mem_cons]
  exact and_iff_right fun _ => rfl

/-- Settles O16: by whether a stop is asked for, whether anything is outstanding, and whether the strand is the last to retire. -/
theorem yieldRetireAbort : Obligations.YieldRetireAbort := by
  intro s f c u
  refine ⟨fun hs => ?_, fun hs => ?_, fun hdr hl hm hc hsome => ?_, fun hdr hl hm hc hall => ?_, fun h => ?_, fun hdr => ?_⟩
  · rw [exec_yield, exec_cYield]
    simp [execYield, execCYield, State.yieldPoint, State.mapSelf, hs]
  · rw [exec_yield, exec_cYield]
    simp [execYield, execCYield, State.yieldPoint, State.mapSelf, hs]
  · obtain ⟨hself, -, -, hmans, hbytes⟩ := retiring_keeps s
    have hnot : ¬ (s.retiring.strandsOf s.self.crew).all (·.retired) = true := by
      rw [retiring_all_retired]
      obtain ⟨x, hx, hcrew, hret⟩ := hsome
      exact fun hall => Bool.false_ne_true (hret.symm.trans (hall x hx hcrew))
    rw [exec_retire, execRetire, retire_ok hdr hl hm hc, if_neg hnot]
    exact ⟨s.retiring, rfl, hself, hbytes.sameMemory, hmans⟩
  · obtain ⟨hself, -, -, -, hbytes⟩ := retiring_keeps s
    have ended := endIteration_keepsCrews s.retiring s.self.crew
    rw [exec_retire, execRetire, retire_ok hdr hl hm hc, if_pos (retiring_all_retired.2 hall)]
    refine ⟨_, rfl, ?_, fun x hx => ?_, fun x hx => ?_, (hbytes.trans ((keepsBytes_removeCrew ..).trans ended.bytes)).sameMemory⟩
    · rw [ended.self, State.removeCrew, hself]
      simp [Strand.gone]
    · rw [ended.peers, ended.saved] at hx
      simp only [State.removeCrew, List.mem_append, List.mem_filter, bne_iff_ne] at hx
      exact hx.elim And.right And.right
    · rw [ended.crews] at hx
      simpa using (List.mem_filter.1 hx).2
  · rw [exec_retire, execRetire, retire_waits h, finish_error]
  · rw [exec_abort, execAbort, State.abort, hdr]
    rfl

end Sys2Proof.Machine

/-! PROOF. O17: crew barriers and completion barriers, the arrivals at them and the waits on them (05 R200 to R202; 01 R29, R30). -/

namespace Sys2Proof.Machine

/-! ## Numbers as bytes, and the bytes of a local space -/

theorem leNat_lt (bs : List Byte) : leNat bs < 256 ^ bs.length := by
  induction bs with
  | nil => simp [leNat]
  | cons b bs ih =>
    rw [leNat, List.length_cons, pow_succ]
    omega

theorem leNat_leBytes (n x : Nat) : leNat (leBytes n x) = x % 256 ^ n := by
  induction n generalizing x with
  | zero => simp [leBytes, leNat, Nat.mod_one]
  | succ n ih =>
    rw [leBytes, leNat, ih, pow_succ', Nat.mod_mul, BitVec.toNat_ofNat]

@[simp] theorem leBytes_length (n x : Nat) : (leBytes n x).length = n := by
  induction n generalizing x with
  | zero => rfl
  | succ n ih => rw [leBytes, List.length_cons, ih]

theorem leNat_bytesAt_lt (s : State) (p n : Nat) : leNat (s.bytesAt none p n) < 256 ^ n := by
  simpa using leNat_lt (s.bytesAt none p n)

theorem not_isG_add {p : Nat} (h : Place.isG p = false) (o : Nat) : Place.isG (p + o) = false := by
  simp only [Place.isG, decide_eq_false_iff_not] at *
  omega

/-- No byte of a local space stands under a key. -/
theorem byteAt_local {p : Nat} (h : Place.isG p = false) (s : State) (key : Option (BitVec 512)) :
    s.byteAt key p = Memory.get s.mem p := by
  simp [State.byteAt, State.underKey, h]

theorem putAt_local {p : Nat} (h : Place.isG p = false) (s : State) (key : Option (BitVec 512)) (bs : List Byte) :
    s.putAt key p bs = { s with mem := Memory.setBytes s.mem p bs } := by
  simp [State.putAt, State.rekey, h]

/-- Bytes written in a local space are what a read of them finds. -/
theorem bytesAt_putAt_local {s : State} (h : s.Inv) {p : Nat} (hp : Place.isG p = false) (key : Option (BitVec 512))
    (bs : List Byte) {o k : Nat} (hk : o + k ≤ bs.length) :
    (s.putAt key p bs).bytesAt none (p + o) k = (bs.drop o).take k := by
  rw [putAt_local hp, State.bytesAt_eq]
  refine List.ext_getElem (by simp; omega) fun i hi _ => ?_
  simp only [List.length_map, List.length_range] at hi
  have inside : p ≤ p + o + i ∧ p + o + i < p + bs.length := by omega
  have place : p + o + i - p = o + i := by omega
  simp only [List.getElem_map, List.getElem_range, byteAt_local (not_isG_add (not_isG_add hp o) i), Memory.get_setBytes _ _ _ _ h.1,
    if_pos inside, place, List.getElem_take, List.getElem_drop]
  rw [List.getElem?_eq_getElem (by omega), Option.getD_some]

/-- Bytes before those written stand as they were. -/
theorem bytesAt_putAt_below {s : State} (h : s.Inv) {p o : Nat} (hp : Place.isG p = false) (key : Option (BitVec 512))
    (bs : List Byte) : (s.putAt key (p + o) bs).bytesAt none p o = s.bytesAt none p o := by
  rw [putAt_local (not_isG_add hp o), State.bytesAt_eq, State.bytesAt_eq]
  refine List.map_congr_left fun i hi => ?_
  have outside : ¬ (p + o ≤ p + i ∧ p + i < p + o + bs.length) := by
    have := List.mem_range.1 hi
    omega
  simp only [byteAt_local (not_isG_add hp i), Memory.get_setBytes _ _ _ _ h.1, if_neg outside]

theorem State.KeepsBytes.bytesAt {s t : State} (h : s.KeepsBytes t) (key : Option (BitVec 512)) (p n : Nat) :
    t.bytesAt key p n = s.bytesAt key p n := by
  simp only [State.bytesAt_eq, byteAt_congr h.mem h.lineKey h.dirty]

/-! ## Arrivals at a completion barrier -/

section Arrive
variable {s : State} {p : Nat}

theorem keepsBytes_wakeWaiters (s : State) (p : Nat) : s.KeepsBytes (s.wakeWaiters p) := ⟨rfl, rfl, rfl, rfl, rfl, rfl⟩

/-- Nothing arrives at a barrier whose fault flag is set (01 R30). -/
theorem arrive_faulted (h : (leNat (s.bytesAt none p 4)).testBit 31 = true) (f : Option (BitVec 8 × Word)) :
    s.arrive p f = s := by
  simp only [State.arrive, h, if_true]

theorem arrive_counts (h : (leNat (s.bytesAt none p 4)).testBit 31 = false)
    (hn : bitsOf (leNat (s.bytesAt none (p + 4) 4)) 23 12 + 1 < bitsOf (leNat (s.bytesAt none (p + 4) 4)) 11 0) :
    s.arrive p none = s.putAt none (p + 4) (leBytes 4 (leNat (s.bytesAt none (p + 4) 4) + 2 ^ 12)) := by
  simp only [State.arrive, h, Bool.false_eq_true, if_false, if_neg (Nat.not_le_of_lt hn)]

theorem arrive_completes (h : (leNat (s.bytesAt none p 4)).testBit 31 = false)
    (hn : bitsOf (leNat (s.bytesAt none (p + 4) 4)) 11 0 ≤ bitsOf (leNat (s.bytesAt none (p + 4) 4)) 23 12 + 1) :
    s.arrive p none = (s.putAt none p (leBytes 4 ((leNat (s.bytesAt none p 4) % 2 ^ 31 + 1) % 2 ^ 31) ++
      leBytes 4 (bitsOf (leNat (s.bytesAt none (p + 4) 4)) 31 24 * 2 ^ 24 + bitsOf (leNat (s.bytesAt none (p + 4) 4)) 11 0))).wakeWaiters
        p := by
  simp only [State.arrive, h, Bool.false_eq_true, if_false, if_pos hn]

theorem arrive_records (h : (leNat (s.bytesAt none p 4)).testBit 31 = false) (code : BitVec 8) (a : Word) :
    s.arrive p (some (code, a)) = (s.putAt none p (leBytes 4 (2 ^ 31 + (leNat (s.bytesAt none p 4) % 2 ^ 31 + 1) % 2 ^ 31) ++
      leBytes 4 (code.toNat * 2 ^ 24 + leNat (s.bytesAt none (p + 4) 4) % 2 ^ 24) ++ leBytes 8 a.toNat)).wakeWaiters p := by
  simp only [State.arrive, h, Bool.false_eq_true, if_false]

/-- A number that an arrival writes is what its barrier reads after the wake-ups. -/
theorem reads_arrived (h : s.Inv) (hp : Place.isG p = false) {bs : List Byte} (o k x : Nat) (hk : o + k ≤ bs.length)
    (hx : (bs.drop o).take k = leBytes k x) :
    leNat (((s.putAt none p bs).wakeWaiters p).bytesAt none (p + o) k) = x % 256 ^ k := by
  rw [(keepsBytes_wakeWaiters _ p).bytesAt, bytesAt_putAt_local h hp none bs hk, hx, leNat_leBytes]

theorem wakeAt_local (h : Place.isG p = false) (s : State) : s.wakeAt p = s := by
  have : Place.isDram p = false := by
    simp only [Place.isG, Place.isDram, decide_eq_false_iff_not] at *
    omega
  simp [State.wakeAt, this]

end Arrive

/-! ## The crew barrier -/

/-- A crew that is changed, its number kept, is found again under its number. -/
theorem find_setCrew {s : State} {id : Nat} {c : Crew} (h : s.crews.find? (fun x => x.id == id) = some c) {f : Crew → Crew}
    (hf : ∀ x, x.id = id → (f x).id = id) : (s.setCrew id f).crews.find? (fun x => x.id == id) = some (f c) := by
  have same : ((fun x : Crew => x.id == id) ∘ fun c => if c.id == id then f c else c) = fun x => x.id == id := by
    funext x
    simp only [Function.comp_apply]
    split_ifs with hx
    · rw [hf x (beq_iff_eq.1 hx), hx, beq_self_eq_true]
    · rfl
  have hid : (c.id == id) = true := by simpa using List.find?_some h
  simp only [State.setCrew, List.find?_map, same, h, Option.map_some, if_pos hid]

theorem crewById_of_find {s : State} {id : Nat} {c : Crew} (h : s.crews.find? (fun x => x.id == id) = some c) :
    s.crewById id = c := by rw [State.crewById, h, Option.getD_some]

/-- A state in which the strand has arrived at its crew's barrier. -/
def State.arriving (s : State) : State :=
  (s.meets { gives := [.phase s.self.crew s.crew.barPhase.toNat] }).setCrew s.self.crew
    (fun c => { c with arrived := c.arrived ++ [s.self.idx] })

/-- The state of a strand that passes its crew's barrier. -/
def State.crosses (t : State) (id : Nat) (ph : BitVec 32) : State :=
  (t.meets { takes := [.phase id ph.toNat] }).mapSelf (fun st => { st.advance 4 with barPhase := none })

section Barrier
variable {s : State} {c : Crew} (hc : s.crews.find? (fun x => x.id == s.self.crew) = some c)
include hc

theorem arriving_find : s.arriving.crews.find? (fun x => x.id == s.self.crew) =
    some { c with arrived := c.arrived ++ [s.self.idx] } := find_setCrew (s := s.meets _) hc fun _ h => h

theorem arriving_crew : s.arriving.crewById s.self.crew = { c with arrived := c.arrived ++ [s.self.idx] } :=
  crewById_of_find (arriving_find hc)

/-- The last strand to arrive lifts the phase. -/
theorem arriving_last (h : ∀ x ∈ s.peers ++ s.saved, x.crew = s.self.crew → x.retired = true ∨ x.idx ∈ c.arrived) :
    s.arriving.barrierCheck s.self.crew =
      s.arriving.setCrew s.self.crew (fun c => { c with barPhase := c.barPhase + 1, arrived := [] }) := by
  have everyone : (s.strandsOf s.self.crew).all (fun st => st.retired || (c.arrived ++ [s.self.idx]).contains st.idx) = true := by
    simp only [List.all_eq_true, State.strandsOf, List.mem_filter, List.cons_append, List.mem_cons, beq_iff_eq, Bool.or_eq_true,
      List.contains_iff_mem, List.mem_append, List.not_mem_nil, or_false]
    rintro x ⟨rfl | hx, hcrew⟩
    · exact .inr (.inr rfl)
    · exact (h x (List.mem_append.2 hx) hcrew).imp_right .inl
  have nonempty : (c.arrived ++ [s.self.idx]).isEmpty = false := by simp
  simp only [State.barrierCheck, arriving_crew hc]
  rw [if_pos]
  rw [nonempty]
  exact everyone

/-- A strand that is not its crew's last to arrive leaves the phase as it is. -/
theorem arriving_notLast {x : Strand} (hx : x ∈ s.peers) (hcrew : x.crew = s.self.crew) (hret : x.retired = false)
    (hidx : x.idx ∉ c.arrived) (hother : x.idx ≠ s.self.idx) : s.arriving.barrierCheck s.self.crew = s.arriving := by
  have missing : (s.strandsOf s.self.crew).all (fun st => st.retired || (c.arrived ++ [s.self.idx]).contains st.idx) = false := by
    rw [List.all_eq_false]
    exact ⟨x, by simp [State.strandsOf, hx, hcrew], by simp [hret, hidx, hother]⟩
  simp only [State.barrierCheck, arriving_crew hc]
  rw [if_neg]
  rw [Bool.and_eq_true, not_and, Bool.not_eq_true]
  exact fun _ => missing

theorem crewBarrier_arrives (hb : s.self.barPhase = none) (hdr : s.drained s.issuer = true)
    (hl : s.leasesOver s.issuer s.serial 1 = true) : s.crewBarrier =
      if (s.arriving.barrierCheck s.self.crew).crew.barPhase != c.barPhase then
        .ok ((s.arriving.barrierCheck s.self.crew).crosses s.self.crew c.barPhase)
      else .error (State.retry
        ((s.arriving.barrierCheck s.self.crew).mapSelf (fun st => { st with barPhase := some c.barPhase }))) := by
  have hcrew : s.crew = c := crewById_of_find hc
  simp only [State.crewBarrier, hb, hdr, hl, Bool.and_self, await_true, except_ok_bind, hcrew]
  rw [State.arriving, hcrew]
  rfl

end Barrier

/-- Once every other strand has arrived or retired, the strand passes. -/
theorem crewBarrier_last {s : State} {c : Crew} (hc : s.crews.find? (fun x => x.id == s.self.crew) = some c)
    (hb : s.self.barPhase = none) (hdr : s.drained s.issuer = true) (hl : s.leasesOver s.issuer s.serial 1 = true)
    (hall : ∀ x ∈ s.peers ++ s.saved, x.crew = s.self.crew → x.retired = true ∨ x.idx ∈ c.arrived) :
    ∃ t, s.crewBarrier = .ok t ∧ t.self = { s.self.advance 4 with barPhase := none } ∧
      t.crew.barPhase = c.barPhase + 1 ∧ t.crew.arrived = [] := by
  have found := crewById_of_find (find_setCrew (arriving_find hc) (f := fun c => { c with barPhase := c.barPhase + 1, arrived := [] })
    fun _ h => h)
  have lifted : ((s.arriving.barrierCheck s.self.crew).crew.barPhase != c.barPhase) = true := by
    rw [arriving_last hc hall]
    refine bne_iff_ne.2 fun h => ?_
    have h : c.barPhase + 1 = c.barPhase := (congrArg Crew.barPhase found).symm.trans h
    simp at h
  rw [crewBarrier_arrives hc hb hdr hl, if_pos lifted, arriving_last hc hall]
  exact ⟨_, rfl, rfl, (congrArg Crew.barPhase found :), (congrArg Crew.arrived found :)⟩

/-- While another strand is still to arrive, the strand waits, its arrival noted. -/
theorem crewBarrier_notLast {s : State} {c : Crew} (hc : s.crews.find? (fun x => x.id == s.self.crew) = some c)
    (hb : s.self.barPhase = none) (hdr : s.drained s.issuer = true) (hl : s.leasesOver s.issuer s.serial 1 = true)
    (hsome : ∃ x ∈ s.peers, x.crew = s.self.crew ∧ x.retired = false ∧ x.idx ∉ c.arrived ∧ x.idx ≠ s.self.idx) :
    ∃ t, s.crewBarrier = .error (.wait t) ∧ t.self = { s.self with barPhase := some c.barPhase, wait := some .retry } ∧
      t.crew.barPhase = c.barPhase ∧ t.crew.arrived = c.arrived ++ [s.self.idx] := by
  obtain ⟨x, hx, hcrew, hret, hidx, hother⟩ := hsome
  have found := arriving_crew hc
  have same : ((s.arriving.barrierCheck s.self.crew).crew.barPhase != c.barPhase) = false := by
    rw [arriving_notLast hc hx hcrew hret hidx hother, bne_eq_false_iff_eq]
    exact (congrArg Crew.barPhase found :)
  rw [crewBarrier_arrives hc hb hdr hl, same, if_neg Bool.false_ne_true, arriving_notLast hc hx hcrew hret hidx hother]
  exact ⟨_, rfl, rfl, (congrArg Crew.barPhase found :), (congrArg Crew.arrived found :)⟩

theorem notPoisoned_clean {s : State} {p n : Nat} (h : s.poisonedAt p n = false) (a : Word) : s.notPoisoned p n a = .ok () := by
  rw [State.notPoisoned, h]
  rfl

theorem touch_goes {s : State} {op : ReqOp} {kind : Kind} {p : Nat} (h : s.touches op kind p) :
    s.touch op kind p = .ok (s.veil (s.ownReq op kind 0 p) (wordsAt p op.size)) := by
  obtain ⟨hown, hmay⟩ := h
  simp only [State.touch, hown, hmay, Bool.false_eq_true, if_false, if_true]

/-- An arrival whose place is in order is one event there (05 R200). -/
theorem perform_arrive {s : State} {x : Req} {p : Nat} (hop : x.op = .arrive) (hspace : x.space = Place.space p)
    (hp : Place.isG p = false) (hpo : s.poisonedAt p 16 = false)
    (hT : ∀ t, Place.space p = .t t → x.addr.toNat + 16 ≤ s.tsize t ∧ s.inResize t x.addr.toNat 16 = false) :
    s.perform x p = (((s.arrive p none).performed x p s.writes).serveRings.dropReq x.id).tidy := by
  have hits : s.poisonHits x p = false := by simp [State.poisonHits, hop, ReqOp.size, hpo]
  have size : ReqOp.arrive.size = 16 := rfl
  simp only [State.perform, wakeAt_local hp, hspace, hits, hop, size]
  cases hs : Place.space p with
  | t t =>
    obtain ⟨hsize, hres⟩ := hT t hs
    simp [hres, Nat.not_lt.2 hsize]
  | _ => simp

/-- Settles O17: what each barrier and each wait comes to, then what an arrival writes at its place. -/
theorem barriersAndWaits : Obligations.BarriersAndWaits := by
  refine ⟨fun s f c r b p q => ⟨fun ha hc hb hdr hl hall => ?_, fun ha hc hb hdr hl hsome => ?_, fun ha hr hp hpo => ?_,
    fun x hop hspace hp hpo hT => perform_arrive hop hspace hp hpo hT,
    fun ha hr hb hp hpo ht hd => ⟨fun hne => ?_, fun heq => ?_⟩, fun hr hb hq hown hn hd => ?_,
    fun e hr hb hq => ?_⟩, fun s p code a => ?_⟩
  · obtain ⟨t, ht, rest⟩ := crewBarrier_last hc hb hdr hl hall
    exact ⟨t, by rw [exec_cbar, execCbar, State.cbar, if_pos (beq_iff_eq.2 ha), ht, finish_ok], rest⟩
  · obtain ⟨t, ht, rest⟩ := crewBarrier_notLast hc hb hdr hl hsome
    exact ⟨t, by rw [exec_cbar, execCbar, State.cbar, if_pos (beq_iff_eq.2 ha), ht, finish_error, State.onStop], rest⟩
  · simp only [exec_cbar, execCbar, State.cbar, beq_iff_eq, ha, if_false, srcG_full hr, hp, notPoisoned_clean hpo, except_ok_bind,
      except_pure, finish_ok]
  · simp only [exec_cbarq, execCbarq, State.cbarq, bne_iff_ne.2 ha, need_true, srcG_full hr, srcG_full hb, hp,
      notPoisoned_clean hpo, touch_goes ht, except_ok_bind, bne_iff_ne.2 hne, if_true]
    rw [result_settled, finish_ok]
    · rfl
    · exact hd
  · simp only [exec_cbarq, execCbarq, State.cbarq, bne_iff_ne.2 ha, need_true, srcG_full hr, srcG_full hb, hp,
      notPoisoned_clean hpo, touch_goes ht, except_ok_bind, heq, bne_self_eq_false, Bool.false_eq_true, if_false]
    rfl
  · have mine : (!((q == s.ownQueue 1 || q == s.ownQueue 2) && decide (((s.queue q).getD {}).issue < b.toNat))) = true := by
      simp only [Bool.not_eq_true', Bool.and_eq_false_iff, decide_eq_false_iff_not, Nat.not_lt]
      by_cases h : q = s.ownQueue 1 ∨ q = s.ownQueue 2
      · exact .inr (hown h)
      · exact .inl (by simpa using h)
    simp only [exec_wseq, execWseq, State.wseq, srcG_full hr, srcG_full hb, hq, except_ok_bind, mine, need_true, hn, await_true]
    rw [result_settled, finish_ok]
    exact hd
  · simp only [exec_wseq, execWseq, State.wseq, srcG_full hr, srcG_full hb, hq, except_ok_bind, finish_error, State.onStop]
  · intro w0 w1 n hinv hp
    have hw0 : w0 < 2 ^ 32 := leNat_bytesAt_lt s p 4
    have hw1 : w1 < 2 ^ 32 := leNat_bytesAt_lt s (p + 4) 4
    refine ⟨fun hf => ⟨arrive_faulted hf _, arrive_faulted hf _⟩, fun hf hn => ?_, fun hf hn => ?_, fun hf => ?_, ?_⟩
    · have room : w1 + 2 ^ 12 < 2 ^ 32 := by
        simp only [bitsOf] at hn
        omega
      simp only [n, arrive_counts hf hn]
      exact ⟨congrArg leNat (bytesAt_putAt_below hinv hp none _),
        (congrArg leNat (bytesAt_putAt_local hinv (not_isG_add hp 4) none _ (o := 0) le_rfl)).trans
          ((leNat_leBytes 4 _).trans (Nat.mod_eq_of_lt room))⟩
    · simp only [n, arrive_completes hf hn]
      refine ⟨(reads_arrived hinv hp 0 4 _ (by simp) rfl).trans ?_, (reads_arrived hinv hp 4 4 _ (by simp) rfl).trans ?_⟩
      · omega
      · simp only [bitsOf]
        omega
    · simp only [n, arrive_records hf]
      refine ⟨(reads_arrived hinv hp 0 4 _ (by simp) rfl).trans ?_, (reads_arrived hinv hp 4 4 _ (by simp) rfl).trans ?_,
        (reads_arrived hinv hp 8 8 _ (by simp) rfl).trans ?_⟩
      · omega
      · omega
      · omega
    · rw [exec_barrierWake]
      refine ⟨_, rfl, rfl, fun q hs hst hwait => ?_, fun hs => ?_, fun x hx hs hst ⟨q, hwait⟩ => ?_⟩
      · simp [hs, hst, hwait]
      · simp [hs]
      · exact List.mem_map.2 ⟨x, hx, by simp [hs, hst, hwait]⟩

end Sys2Proof.Machine

/-! PROOF. What memory reads after a write of the module's or the host's, under the key that it is made with (15 R476). -/

namespace Sys2Proof.Machine

/-! ## What a write leaves as it was -/

/-- A state that differs from another at most in what memory holds and in what the module notes down. -/
structure State.Writes (s t : State) : Prop where
  self : t.self = s.self
  peers : t.peers = s.peers
  saved : t.saved = s.saved
  crews : t.crews = s.crews
  manifests : t.manifests = s.manifests
  ctxs : t.ctxs = s.ctxs
  tide : t.tide = s.tide
  reqs : t.reqs = s.reqs
  returns : t.returns = s.returns
  leaseWaits : t.leaseWaits = s.leaseWaits
  waiters : t.waiters = s.waiters
  keys : t.keys = s.keys
  mod : t.mod = s.mod
  answers : t.answers = s.answers

theorem State.Writes.trans {s t u : State} (h : s.Writes t) (g : t.Writes u) : s.Writes u :=
  ⟨g.1.trans h.1, g.2.trans h.2, g.3.trans h.3, g.4.trans h.4, g.5.trans h.5, g.6.trans h.6, g.7.trans h.7, g.8.trans h.8,
    g.9.trans h.9, g.10.trans h.10, g.11.trans h.11, g.12.trans h.12, g.13.trans h.13, g.14.trans h.14⟩
theorem State.Notes.writes {s t : State} (h : s.Notes t) : s.Writes t :=
  ⟨h.1, h.2, h.3, h.4, h.5, h.6, h.7, h.8, h.9, h.10, h.11, h.12, h.13, h.14⟩
theorem State.Writes.refl (s : State) : s.Writes s := (State.Notes.refl s).writes

theorem notes_wakeAt (s : State) (p : Nat) : s.Notes (s.wakeAt p) := by
  have same (u : State) (k : Nat) (f : Chan → Chan) : u.Notes (u.setChan k f) :=
    ⟨rfl, rfl, rfl, rfl, rfl, rfl, rfl, rfl, rfl, rfl, rfl, rfl, rfl, rfl, ⟨rfl, rfl, rfl, rfl, rfl, rfl⟩⟩
  have restored (k n : Nat) : s.Notes (s.restoreBank k n) :=
    ⟨rfl, rfl, rfl, rfl, rfl, rfl, rfl, rfl, rfl, rfl, rfl, rfl, rfl, rfl, ⟨rfl, rfl, rfl, rfl, rfl, rfl⟩⟩
  dsimp only [State.wakeAt, State.wakeBank]
  split_ifs
  · exact .refl s
  · exact (restored ..).trans (same ..)
  · exact same ..
  · exact .refl s

theorem writes_rekey (s : State) (key : Option (BitVec 512)) (p : Nat) : s.Writes (s.rekey key p) := by
  dsimp only [State.rekey]
  split_ifs
  · exact ⟨rfl, rfl, rfl, rfl, rfl, rfl, rfl, rfl, rfl, rfl, rfl, rfl, rfl, rfl⟩
  · exact .refl s

/-- To make room in L2 a copy, or a dirty line, goes: memory and the keys of its lines stand. -/
theorem fitL2_keeps (s : State) (k : Nat) : s.Writes (s.fitL2 k) ∧ (s.fitL2 k).mem = s.mem ∧ (s.fitL2 k).lineKey = s.lineKey := by
  have copies (l : List Copy) : s.Writes { s with copies := l } := ⟨rfl, rfl, rfl, rfl, rfl, rfl, rfl, rfl, rfl, rfl, rfl, rfl, rfl, rfl⟩
  have dirty (d : Sparse Bool) : s.Writes { s with dirty := d } := ⟨rfl, rfl, rfl, rfl, rfl, rfl, rfl, rfl, rfl, rfl, rfl, rfl, rfl, rfl⟩
  unfold State.fitL2
  split
  · exact ⟨.refl s, rfl, rfl⟩
  · split
    · exact ⟨copies _, rfl, rfl⟩
    · split
      · exact ⟨dirty _, rfl, rfl⟩
      · exact ⟨.refl s, rfl, rfl⟩

/-- A write puts its bytes where its line stands under its key. -/
theorem putAt_keeps (s : State) (key : Option (BitVec 512)) (p : Nat) (bs : List Byte) : s.Writes (s.putAt key p bs) ∧
    (s.putAt key p bs).mem = Memory.setBytes (s.rekey key p).mem p bs ∧ (s.putAt key p bs).lineKey = (s.rekey key p).lineKey := by
  have rekeyed := writes_rekey s key p
  unfold State.putAt
  generalize s.rekey key p = t at rekeyed
  have put (mem : Memory) (unpub dirty : Sparse Bool) : t.Writes { t with mem, unpub, dirty } :=
    ⟨rfl, rfl, rfl, rfl, rfl, rfl, rfl, rfl, rfl, rfl, rfl, rfl, rfl, rfl⟩
  dsimp only
  split_ifs
  · obtain ⟨fitted, hmem, hkey⟩ := fitL2_keeps { t with
      mem := Memory.setBytes t.mem p bs, unpub := sset false t.unpub (p / 128) true
      dirty := sset false t.dirty (p / 128) true } (sliceOf p)
    exact ⟨(rekeyed.trans (put ..)).trans fitted, hmem, hkey⟩
  · exact ⟨rekeyed.trans (put ..), rfl, rfl⟩

/-! ## What reads find after it -/

theorem isG_congr {p q : Nat} (h : q / 128 = p / 128) : Place.isG q = Place.isG p := by
  simp only [Place.isG, decide_eq_decide]
  omega

/-- A byte whose line stands under the key is read as it is. -/
theorem byteAt_same {s : State} {key : Option (BitVec 512)} {q : Nat} (h : Place.isG q = true → sget none s.lineKey (q / 128) = key) :
    s.byteAt key q = Memory.get s.mem q := by
  cases hq : Place.isG q with
  | false => exact byteAt_local hq s key
  | true => simp [State.byteAt, State.underKey, h hq]

/-- After a line has been made to stand under a key, memory holds what it reads as under it, and other lines stand as they were. -/
theorem get_rekey {s : State} (h : s.Inv) (key : Option (BitVec 512)) (p q : Nat) :
    (q / 128 = p / 128 → Memory.get (s.rekey key p).mem q = s.byteAt key q ∧
      (Place.isG q = true → sget none (s.rekey key p).lineKey (q / 128) = key)) ∧
    (q / 128 ≠ p / 128 → Memory.get (s.rekey key p).mem q = Memory.get s.mem q) := by
  dsimp only [State.rekey]
  split_ifs with hk
  · refine ⟨fun hq => ⟨?_, fun _ => ?_⟩, fun hq => ?_⟩
    · have inside : 128 * (p / 128) ≤ q ∧ q < 128 * (p / 128) + 128 := by omega
      have place : 128 * (p / 128) + (q - 128 * (p / 128)) = q := by omega
      rw [Memory.get_setBytes _ _ _ _ h.1, State.bytesAt_length, if_pos inside, State.bytesAt_eq, List.getElem?_map,
        List.getElem?_range (by omega), Option.map_some, Option.getD_some, place]
    · rw [hq]
      exact sget_sset_same none none s.lineKey _ _ h.2
    · have outside : ¬ (128 * (p / 128) ≤ q ∧ q < 128 * (p / 128) + 128) := by omega
      rw [Memory.get_setBytes _ _ _ _ h.1, State.bytesAt_length, if_neg outside]
  · have stands (hq : q / 128 = p / 128) (hG : Place.isG q = true) : sget none s.lineKey (q / 128) = key := by
      rw [isG_congr hq] at hG
      simpa [hG, hq] using hk
    exact ⟨fun hq => ⟨(byteAt_same (stands hq)).symm, stands hq⟩, fun _ => rfl⟩

/-- Bytes written within a line under a key are read back under it; the others of the line read as they did. -/
theorem byteAt_putAt {s : State} (h : s.Inv) (key : Option (BitVec 512)) {p q : Nat} (bs : List Byte) (hq : q / 128 = p / 128) :
    (s.putAt key p bs).byteAt key q = if p ≤ q ∧ q < p + bs.length then (bs[q - p]?).getD 0 else s.byteAt key q := by
  obtain ⟨-, hmem, hkey⟩ := putAt_keeps s key p bs
  obtain ⟨hget, hstands⟩ := (get_rekey h key p q).1 hq
  rw [byteAt_same (fun hG => hkey ▸ hstands hG), hmem, Memory.get_setBytes _ _ _ _ (rekey_inv h key p).1, hget]

/-- A write within a line leaves the other lines of memory. -/
theorem get_putAt_other {s : State} (h : s.Inv) (key : Option (BitVec 512)) {p q : Nat} {bs : List Byte}
    (hfit : p % 128 + bs.length ≤ 128) (hq : q / 128 ≠ p / 128) :
    Memory.get (s.putAt key p bs).mem q = Memory.get s.mem q := by
  have outside : ¬ (p ≤ q ∧ q < p + bs.length) := by omega
  rw [(putAt_keeps s key p bs).2.1, Memory.get_setBytes _ _ _ _ (rekey_inv h key p).1, if_neg outside, (get_rekey h key p q).2 hq]

end Sys2Proof.Machine

/-! PROOF. O39: register writes, doorbells, and the host's memory (05 R164; 16 R479 to R486; 17 R499). -/

namespace Sys2Proof.Machine

/-! ## Register writes -/

/-- A write of a register is performed next: the host's, through a port that is up, or a strand's, which is then done. -/
def State.arrives (s u : State) (v : Word) (off : Nat) : Prop :=
  (s.windowStore off = none ∧ off < 0x41000 ∧ s.mod.ports.any (fun up => up) = true ∧ u = s ∧ v = s.args.value.setWidth 64) ∨
    ∃ r, s.windowStore off = some (r, v) ∧ u = (s.dropReq r.id).tidy

theorem regEvent_arrives {s u : State} {v : Word} {off : Nat} (h : s.arrives u v off) (f : State → Word → State) :
    s.regEvent off f = .next (f u v) := by
  unfold State.regEvent
  obtain ⟨hnone, hoff, hup, rfl, rfl⟩ | ⟨r, hsome, rfl⟩ := h
  · simp [hnone, hoff, hup]
  · simp only [hsome]

theorem arrives_args {s u : State} {v : Word} {off : Nat} (h : s.arrives u v off) : u.args = s.args := by
  obtain ⟨-, -, -, rfl, -⟩ | ⟨r, -, rfl⟩ := h <;> rfl

/-! ## Registers read back -/

theorem zx_setWidth (v : Word) (n : Nat) (h : n ≤ 64) : zx (v.setWidth n) = v &&& BitVec.ofNat 64 (2 ^ n - 1) := by
  refine BitVec.eq_of_toNat_eq ?_
  simp only [zx, BitVec.toNat_setWidth, BitVec.toNat_and, BitVec.toNat_ofNat]
  have : 2 ^ n ≤ 2 ^ 64 := Nat.pow_le_pow_right (by omega) h
  rw [Nat.mod_eq_of_lt (a := 2 ^ n - 1) (by have := Nat.two_pow_pos n; omega), Nat.and_two_pow_sub_one_eq_mod,
    Nat.mod_eq_of_lt (a := v.toNat % 2 ^ n) (by have := Nat.mod_lt v.toNat (Nat.two_pow_pos n); omega)]

theorem flagBit_getLsbD (v : Word) : flagBit (v.getLsbD 0) = v &&& 1 := by
  refine BitVec.eq_of_getLsbD_eq fun i hi => ?_
  cases h : v.getLsbD 0 <;> rcases i with _ | i <;> simp_all [flagBit]

theorem ctx_setReg_of_en {c : Ctx} (h : c.en = true) (o : Nat) (v : Word) : c.setReg o v = c := by
  simp only [Ctx.setReg, h, if_true]

theorem ctx_reads_back {c : Ctx} (h : c.en = false) (v : Word) :
    (c.setReg 0x08 v).reg 0x08 = v &&& ~~~0x7F ∧ (c.setReg 0x10 v).reg 0x10 = v &&& 0x1F ∧
       (c.setReg 0x48 v).reg 0x48 = v &&& ~~~0xFF ∧ (c.setReg 0x50 v).reg 0x50 = v &&& 0x1F ∧
       (c.setReg 0x58 v).reg 0x58 = v &&& ~~~0xFFFF ∧ (c.setReg 0x60 v).reg 0x60 = v &&& ~~~0xFFFF ∧
       (c.setReg 0x68 v).reg 0x68 = v &&& ~~~0xFFFF ∧ (c.setReg 0x70 v).reg 0x70 = v &&& ~~~0xFFFF ∧
       (c.setReg 0x78 v).reg 0x78 = v &&& 1 := by
  simp only [Ctx.setReg, h, Bool.false_eq_true, if_false, Ctx.reg, true_and]
  exact ⟨zx_setWidth v 5 (by decide), zx_setWidth v 5 (by decide), flagBit_getLsbD v⟩

theorem tower_reads_back (t : Tower) (v : Word) :
    (t.setReg 0x00 v).reg 0x00 = v ∧ (t.setReg 0x08 v).reg 0x08 = v ∧ (t.setReg 0x18 v).reg 0x18 = v ∧
      (t.setReg 0x20 v).reg 0x20 = v ∧ (t.setReg 0x30 v).reg 0x30 = v ∧ (t.setReg 0x40 v).reg 0x40 = v ∧
      (t.setReg 0x58 v).reg 0x58 = v &&& 0xFFF :=
  ⟨rfl, rfl, rfl, rfl, rfl, rfl, zx_setWidth v 12 (by decide)⟩

theorem module_reads_back (m : Module) (v : Word) :
    (m.setReg 0x08 v).reg 0x08 = v &&& ~~~0x3F ∧ (m.setReg 0x10 v).reg 0x10 = v &&& 0xFFFF ∧
      (m.setReg 0x18 v).reg 0x18 = v &&& ~~~0x1F ∧ (m.setReg 0x70 v).reg 0x70 = v ∧
      (m.setHostReg 0x30 v).hostReg 0x30 = v &&& 0xFFF ∧ (m.setHostReg 0x38 v).hostReg 0x38 = v :=
  ⟨rfl, zx_setWidth v 16 (by decide), rfl, rfl, zx_setWidth v 12 (by decide), rfl⟩

/-! ## The events that write registers -/

section Writes
variable {s u : State} {v : Word} {k : Nat}

theorem contextEvents (hk : k < 64) (hunit : s.args.unit = k) :
    (s.arrives u v (0x1000 * k) → exec .contextEnable s = .next (u.setCtx k (fun c =>
      { c with asid := if c.en then c.asid else v.extractLsb' 32 16, en := v.getLsbD 0 }))) ∧
    (s.arrives u v (0x1000 * k + 0x18) → s.hostAcquires (0x1000 * k + 0x18) = false → exec .launchDoorbell s = .next s) ∧
    (s.arrives u v (0x1000 * k + 0x18) → s.hostAcquires (0x1000 * k + 0x18) = true → exec .launchDoorbell s = .next
      (let t := u.setCtx k (fun c => { c with lrtail := v })
       if (s.windowStore (0x1000 * k + 0x18)).isSome then t else t.record { host := true, gives := [.bell k] })) ∧
    (s.arrives u v (0x1000 * k + 0x40) → exec .crheadWrite s = .next (u.setCtx k (fun c => { c with crhead := v }))) ∧
    (s.args.flag = false → s.arrives u v (0x1000 * k + 0x28) → exec .completionRingRetarget s = .next (u.setCtx k (fun c =>
      if c.en && !c.held then c else { c with crbase := v &&& ~~~0x3F, retry := c.retry || c.held }))) ∧
    (s.args.flag = true → s.arrives u v (0x1000 * k + 0x30) → exec .completionRingRetarget s = .next (u.setCtx k (fun c =>
      if c.en && !c.held then c else { c with crlog := v.setWidth 5, retry := c.retry || c.held }))) := by
  have hmod : s.args.unit % 64 = k := by omega
  refine ⟨fun h => ?_, fun h hacq => ?_, fun h hacq => ?_, fun h => ?_, fun hf h => ?_, fun hf h => ?_⟩
  · simpa only [exec_contextEnable, execContextEnable, hmod, ctxReg, Nat.add_zero] using regEvent_arrives h _
  · simp only [exec_launchDoorbell, execLaunchDoorbell, hmod, ctxReg, hacq, Bool.not_false, if_true]
  · simp only [exec_launchDoorbell, execLaunchDoorbell, hmod, ctxReg, hacq, Bool.not_true, Bool.false_eq_true, if_false]
    exact regEvent_arrives h _
  · simpa only [exec_crheadWrite, execCrheadWrite, hmod, ctxReg] using regEvent_arrives h _
  · have hoff : ctxReg (s.args.unit % 64) (if s.args.flag then 0x30 else 0x28) = 0x1000 * k + 0x28 := by rw [hmod, hf]; rfl
    rw [exec_completionRingRetarget, execCompletionRingRetarget]
    refine (regEvent_arrives (hoff ▸ h) _).trans ?_
    rw [arrives_args h, hf, hmod]
    rfl
  · have hoff : ctxReg (s.args.unit % 64) (if s.args.flag then 0x30 else 0x28) = 0x1000 * k + 0x30 := by rw [hmod, hf]; rfl
    rw [exec_completionRingRetarget, execCompletionRingRetarget]
    refine (regEvent_arrives (hoff ▸ h) _).trans ?_
    rw [arrives_args h, hf, hmod]
    rfl

/-- REGISTER_WRITE of a register whose write has no event of its own. -/
theorem registerWrite_plain (hown : ownWrite s.args.unit = false) (h : s.arrives u v s.args.unit) :
    exec .registerWrite s = .next (u.regWrite s.args.unit v) := by
  rw [exec_registerWrite, execRegisterWrite, hown, if_neg Bool.false_ne_true, regEvent_arrives h, arrives_args h]

/-- The identifier of a channel comes apart into its tower and its number there; an image that passes its checks is queued. -/
theorem cslLoad_names (h : s.arrives u v 0x40040) (hduty : u.mod.duty.getLsbD 2 = true) (hk : k < 512)
    (hid : wbits v 31 0 = 3 * 2 ^ 28 + k / 32 * 2 ^ 24 + k % 32) :
    exec .cslLoadCommand s = .next (if (imageFault (u.bytesAt none (Place.host u.mod.csladdr.toNat) 4224)).isSome then u else
      u.setChan k (fun ch => { ch with queue := { ch.queue with
        issue := ch.queue.issue + 1
        cmds := ch.queue.cmds ++ [{ seq := ch.queue.issue + 1, pc := 0, who := { ctx := 65 }, op := .bcsl ⟨0, 0, 0, 0, 0⟩
                                    bytes := u.bytesAt none (Place.host u.mod.csladdr.toNat) 4224, born := u.serial }] } })) := by
  have htowers : k / 32 < 16 := by omega
  have htop : bitsOf (3 * 2 ^ 28 + k / 32 * 2 ^ 24 + k % 32) 31 28 = 3 := by
    have : (3 * 2 ^ 28 + k / 32 * 2 ^ 24 + k % 32) / 2 ^ 28 = 3 := by omega
    rw [bitsOf, this]
    rfl
  have htower : bitsOf (3 * 2 ^ 28 + k / 32 * 2 ^ 24 + k % 32) 27 24 = k / 32 := by simp only [bitsOf]; omega
  have hzero : bitsOf (3 * 2 ^ 28 + k / 32 * 2 ^ 24 + k % 32) 23 8 = 0 := by simp only [bitsOf]; omega
  have hchan : bitsOf (3 * 2 ^ 28 + k / 32 * 2 ^ 24 + k % 32) 7 0 = k % 32 := by simp only [bitsOf]; omega
  have hnum : k / 32 * 32 + k % 32 = k := Nat.div_add_mod' k 32
  have hsmall : ¬ 32 ≤ k % 32 := by omega
  rw [exec_cslLoadCommand, execCslLoadCommand, regEvent_arrives h]
  simp only [hid, hduty, htop, htower, hzero, hchan, hnum, hsmall, Bool.not_true, bne_self_eq_false, decide_false, Bool.false_or]

end Writes

/-! ## What the host reads and writes through the HDM window -/

/-- What was set to true is true, wherever it stands in the map. -/
theorem sget_sset_true (m : Sparse Bool) (k : Nat) : sget false (sset false m k true) k = true := by
  induction m with
  | nil => simp [sset, sput, sget]
  | cons e m ih =>
    simp only [sset, Bool.true_eq_false, if_false, sput] at ih ⊢
    split_ifs with h h' <;> simp_all [sget]

theorem any_port_up {s : State} (h : s.mod.ports.any (fun x => x) = true) : s.mod.ports.all (fun up => !up) = false := by
  obtain ⟨x, hx, hx'⟩ := List.any_eq_true.1 h
  exact List.all_eq_false.2 ⟨x, hx, by simp [hx']⟩

section HostReads
variable {s : State} (hup : s.mod.ports.any (fun x => x) = true) (hsub : s.args.sub = 1)
include hup hsub

/-- What a read of one byte of the host's leaves as it was. -/
def State.unmoved (s t : State) : Prop :=
  s.sameMemory t ∧ t.self = s.self ∧ t.peers = s.peers ∧ t.reqs = s.reqs ∧ t.free = s.free + 1

/-- The host reads a byte that it reaches, of which nothing keeps it. -/
theorem hostMemRead_reached {p : Nat} (hplace : (if s.mod.ready then s.hdmPlace s.args.unit else none) = some p)
    (hread : s.readable p = true) (howned : s.ownedAt p 1 = false) : ∃ t, exec .hostMemRead s = .next t ∧
      t.answers = s.answers ++ [[0xFC, if s.poisonedAt p 1 then 1 else 0, s.byteAt (s.keyOf s.mod.hdmkey.toNat) p]] ∧
      s.unmoved t ∧ t.hostLines = sset false s.hostLines (p / 128) true := by
  have one : List.range s.args.sub = [0] := by rw [hsub]; rfl
  have waits : List.find? (fun p => !s.readable p || s.ownedAt p 1) [p] = none := by simp [hread, howned]
  simp only [exec_hostMemRead, execHostMemRead, any_port_up hup, one, Nat.add_zero, Bool.false_eq_true, if_false, List.filterMap_cons,
    List.filterMap_nil, hplace, waits]
  exact ⟨_, rfl, by simp [hplace], ⟨⟨fun _ _ => rfl, rfl, rfl, rfl⟩, rfl, rfl, rfl, by simp [hsub]⟩, rfl⟩

/-- The host reads a byte that it does not reach. -/
theorem hostMemRead_unreached (hplace : (if s.mod.ready then s.hdmPlace s.args.unit else none) = none) :
    ∃ t, exec .hostMemRead s = .next t ∧ t.answers = s.answers ++
        [[0xFC, 1, if s.hdmOnes s.args.unit then 0xFF else (Config.freeWord s.free).setWidth 8]] ∧
      s.unmoved t ∧ t.hostLines = s.hostLines := by
  have one : List.range s.args.sub = [0] := by rw [hsub]; rfl
  simp only [exec_hostMemRead, execHostMemRead, any_port_up hup, one, Nat.add_zero, Bool.false_eq_true, if_false, List.filterMap_cons,
    List.filterMap_nil, hplace, List.find?_nil]
  exact ⟨_, rfl, by simp [hplace], ⟨⟨fun _ _ => rfl, rfl, rfl, rfl⟩, rfl, rfl, rfl, by simp [hsub]⟩, rfl⟩

end HostReads

/-- An offset of the HDM window in a tower that is up, below the skewed views' end, which the host does not reach. -/
theorem hdmOnes_of_unreached {s : State} {h : Nat} (hready : s.mod.ready = true) (hh : h < 2 ^ 40)
    (htup : s.mod.tup.getLsbD (h / 2 ^ 35 % 16) = true) (hp : s.hdmPlace h = none) : s.hdmOnes h = true := by
  have below : h < 2 ^ 40 + 2 ^ 39 := by omega
  rw [State.hdmOnes, hready, decide_eq_true below, htup, hp]
  rfl

theorem hostMemWrite_unreached {s : State} (h : (if s.mod.ready then s.hdmPlace s.args.unit else none) = none) :
    exec .hostMemWrite s = .next s := by
  simp only [exec_hostMemWrite, execHostMemWrite, h]

theorem hostMem_portsDown {s : State} (h : s.mod.ports.all (fun up => !up) = true) :
    exec .hostMemRead s = .next s ∧ exec .hostMemWrite s = .next s := by
  constructor
  · simp only [exec_hostMemRead, execHostMemRead, h, if_true]
  · simp only [exec_hostMemWrite, execHostMemWrite, h, Bool.or_true, if_true]
    split <;> rfl

/-- A snoop of a host line that is in reach and that no command owns (16 R481). -/
theorem hostSnoop_free {s : State} (hline : s.args.unit / 2 ^ 53 = 2) (hbytes : s.args.bytes = [])
    (hstuck : s.stuck (128 * s.args.unit) = false) (howned : s.ownedAt (128 * s.args.unit) 128 = false) :
    exec .hostSnoop s = .next (if s.leasedAt (128 * s.args.unit) 128 then
        s.holdOn 0 s.args.unit (s.unitsAt (128 * s.args.unit) 128)
      else { s.holdOff 0 s.args.unit with
        copies := s.copies.filter (fun c => c.line != s.args.unit), answers := s.answers ++ [[0xFB]]
        dirty := sset false s.dirty s.args.unit false }) := by
  have host : (128 * s.args.unit / 2 ^ 60 != 2) = false := by
    rw [bne_eq_false_iff_eq]
    omega
  have inside : decide (128 < s.args.sub % 128 + ([] : List Byte).length) = false := by
    rw [decide_eq_false_iff_not, List.length_nil]
    omega
  simp only [exec_hostSnoop, execHostSnoop, host, hbytes, inside, hstuck, howned, Bool.or_self, Bool.false_eq_true, if_false,
    List.isEmpty_nil, if_true]
  cases s.leasedAt (128 * s.args.unit) 128 <;> rfl

/-! ## The host's write -/

/-- The request of the host's write at a place. -/
def State.hostStore (s : State) (p : Nat) : Req :=
  { id := s.serial, who := { ctx := 65 }, pc := 0, op := .store s.args.bytes, kind := .strong, space := .g, addr := word s.args.unit
    place := some p, key := s.mod.hdmkey.toNat }

/-- The state in which it arrives at its home. -/
def State.hostStoring (s : State) (p : Nat) : State := { s with reqs := s.reqs ++ [s.hostStore p], serial := s.serial + 1 }

section HostWrite
variable {s : State} {p : Nat}

/-- Nothing at a home holds up the only request of a module without claims. -/
theorem hostStore_goes (hstuck : s.stuck p = false) (hreqs : s.reqs = []) (hclaims : s.claims = [])
    (hsaved : (s.crewById 0).saved = false) : (s.hostStoring p).arriveAt (s.hostStore p) p = .go := by
  obtain ⟨hflight, hreach⟩ : s.flightOf p = none ∧ s.unreachable p = false := by simpa [State.stuck] using hstuck
  have flight : (s.hostStoring p).flightOf p = none := hflight
  have reach : (s.hostStoring p).unreachable p = false := hreach
  have alone : (s.hostStoring p).reqs = [s.hostStore p] := by rw [State.hostStoring, hreqs]; rfl
  have claims : (s.hostStoring p).claims = [] := hclaims
  have ordered (past : List Nat) : (s.hostStoring p).orderedPast true past (s.hostStore p) = true := by
    have saved : ((s.hostStoring p).crewById 0).saved = false := hsaved
    simp [State.orderedPast, alone, State.hostStore, saved]
  have barred : (s.hostStoring p).barred (s.hostStore p) p = false := by
    simp [State.barred, State.ownedAt, claims, State.veiled, State.inInstance, State.hostStore]
  simp only [State.arriveAt, flight, reach, barred, State.orderedFor, ordered, Bool.not_true, Bool.false_eq_true, if_false]

/-- Without ranges every word of a line is of the line's unit. -/
theorem unit_of_line {s : State} (hranges : s.ranges = []) {p n w : Nat} (hfit : p % 128 + n ≤ 128) (hw : w ∈ wordsAt p n) :
    s.unitAt (8 * w) = p / 128 := by
  obtain ⟨i, hi, rfl⟩ := List.mem_map.1 hw
  have := List.mem_range.1 hi
  simp only [State.unitAt, hranges, List.find?_nil]
  omega

/-- It waits neither behind another operation nor for a lease. -/
theorem hostStore_free (hfit : p % 128 + s.args.bytes.length ≤ 128) (hreqs : s.reqs = []) (hholds : s.lineHolds = [])
    (hcopies : s.copies = []) (hranges : s.ranges = []) (hlexp : sget 0 s.lexp (p / 128) ≤ s.tide) (hclaims : s.claims = []) :
    (s.hostStoring p).behind (s.hostStore p) = false ∧ (s.hostStoring p).leased (s.hostStore p) p = false := by
  have alone : (s.hostStoring p).reqs = [s.hostStore p] := by rw [State.hostStoring, hreqs]; rfl
  have claims : (s.hostStoring p).claims = [] := hclaims
  have holds : (s.hostStoring p).lineHolds = [] := hholds
  have copies : (s.hostStoring p).copies = [] := hcopies
  have ranges : (s.hostStoring p).ranges = [] := hranges
  have expired : ¬ (s.hostStoring p).tide < sget 0 (s.hostStoring p).lexp (p / 128) := Nat.not_lt.2 hlexp
  refine ⟨by simp [State.behind, alone, claims, holds], ?_⟩
  have unit : (s.hostStore p).unit (s.hostStoring p) = p / 128 := by
    simp [Req.unit, State.hostStore, State.unitAt, ranges]
  have size : (s.hostStore p).op.size = s.args.bytes.length := rfl
  have noLease : (s.hostStoring p).leasedAt p s.args.bytes.length = false := by
    simp only [State.leasedAt, copies, List.any_nil, Bool.or_false, List.any_eq_false, State.unitsAt, List.mem_eraseDups, List.mem_map,
      decide_eq_true_eq]
    rintro u ⟨w, hw, rfl⟩
    rwa [unit_of_line ranges hfit hw]
  simp [State.leased, unit, size, noLease, expired]

theorem eraseDups_of_all_eq {α : Type} [BEq α] [LawfulBEq α] {a : α} {l : List α} (hl : l ≠ []) (h : ∀ x ∈ l, x = a) :
    l.eraseDups = [a] := by
  obtain ⟨b, l, rfl⟩ := List.exists_cons_of_ne_nil hl
  obtain rfl : b = a := h b (by simp)
  have others : l.filter (fun x => !x == b) = [] := by
    simpa using fun x hx => h x (List.mem_cons_of_mem _ hx)
  rw [List.eraseDups_cons, others, List.eraseDups_nil]

/-- A store of no vector instruction is performed by itself. -/
theorem performStore_alone (t : State) : t.performStore (s.hostStore p) p = t.perform (s.hostStore p) p := by
  have elements : t.elementsWith (s.hostStore p) = [s.hostStore p] := by simp [State.elementsWith, State.hostStore]
  have placed : (s.hostStore p).place = some p := rfl
  simp only [State.performStore, elements, List.any_cons, List.any_nil, placed, Option.isNone_some, Bool.or_false,
    Bool.false_eq_true, if_false]
  rw [eraseDups_of_all_eq (a := s.hostStore p)]
  · simp
  · intro h
    obtain ⟨hnamed, hrest⟩ := List.append_eq_nil_iff.1 h
    rw [hnamed] at hrest
    simp at hrest
  · intro x hx
    simp only [List.mem_append, List.mem_filterMap, List.find?_singleton, List.mem_filter, List.mem_singleton] at hx
    obtain ⟨a, -, ha⟩ | ⟨hx, -⟩ := hx
    · split_ifs at ha
      exact (Option.some.inj ha).symm
    · exact hx

/-- The state in which a store's bytes stand at its place. -/
def State.hostStored (s : State) (p : Nat) : State :=
  ((s.hostStoring p).wakeAt p).performWrite (s.hostStore p) p s.args.bytes

theorem hostStored_keeps : (s.hostStored p).self = s.self ∧ (s.hostStored p).waiters = s.waiters ∧
    (s.hostStored p).reqs = s.reqs ++ [s.hostStore p] ∧
    (s.hostStored p).mem = (((s.hostStoring p).wakeAt p).putAt (s.keyOf s.mod.hdmkey.toNat) p s.args.bytes).mem ∧
    (s.hostStored p).lineKey = (((s.hostStoring p).wakeAt p).putAt (s.keyOf s.mod.hdmkey.toNat) p s.args.bytes).lineKey ∧
    (s.hostStored p).dirty = (((s.hostStoring p).wakeAt p).putAt (s.keyOf s.mod.hdmkey.toNat) p s.args.bytes).dirty := by
  have woken := notes_wakeAt (s.hostStoring p) p
  have key : ((s.hostStoring p).wakeAt p).keyOf (s.hostStore p).key = s.keyOf s.mod.hdmkey.toNat := by
    rw [State.keyOf, woken.keys]
    rfl
  obtain ⟨written, -, -⟩ := putAt_keeps ((s.hostStoring p).wakeAt p) (s.keyOf s.mod.hdmkey.toNat) p s.args.bytes
  have written := woken.writes.trans written
  simp only [State.hostStored, State.performWrite, key]
  by_cases hG : Place.isG p = true <;> simp only [hG, if_true, if_false, Bool.false_eq_true]
  · exact ⟨written.self, written.waiters, written.reqs, rfl, rfl, rfl⟩
  · exact ⟨written.self, written.waiters, written.reqs, rfl, rfl, rfl⟩

theorem perform_hostStore (h8 : p % 8 = 0) (hn8 : s.args.bytes.length % 8 = 0) (hwaiters : s.waiters = []) :
    (s.hostStoring p).perform (s.hostStore p) p =
      (((s.hostStored p).performed (s.hostStore p) p ((s.hostStoring p).wakeAt p).writes).dropReq s.serial).tidy := by
  have hits (t : State) : t.poisonHits (s.hostStore p) p = false := by
    simp [State.poisonHits, State.hostStore, ReqOp.isStore, ReqOp.size, h8, hn8]
  have quiet : ((s.hostStored p).performed (s.hostStore p) p ((s.hostStoring p).wakeAt p).writes).waiters = [] :=
    hostStored_keeps.2.1.trans hwaiters
  have rings (t : State) (h : t.waiters = []) : t.serveRings = t := by
    rw [State.serveRings, h]
    rfl
  simp only [State.perform, hits]
  exact congrArg (fun t => (State.dropReq t s.serial).tidy) (rings _ quiet)

/-- The host's write that nothing keeps is performed at once (16 R481). -/
theorem hostMemWrite_performed (hup : s.mod.ports.any (fun x => x) = true)
    (hplace : (if s.mod.ready then s.hdmPlace s.args.unit else none) = some p) (hne : s.args.bytes ≠ [])
    (hfit : p % 128 + s.args.bytes.length ≤ 128) (hstuck : s.stuck p = false) (hreqs : s.reqs = []) (hholds : s.lineHolds = [])
    (hcopies : s.copies = []) (hranges : s.ranges = []) (hlexp : sget 0 s.lexp (p / 128) ≤ s.tide) (h8 : p % 8 = 0)
    (hn8 : s.args.bytes.length % 8 = 0) (hclaims : s.claims = []) (hwaiters : s.waiters = [])
    (hsaved : (s.crewById 0).saved = false) : exec .hostMemWrite s =
      .next (((s.hostStored p).performed (s.hostStore p) p ((s.hostStoring p).wakeAt p).writes).dropReq s.serial).tidy := by
  obtain ⟨hbehind, hleased⟩ := hostStore_free hfit hreqs hholds hcopies hranges hlexp hclaims
  have fits : decide (128 < p % 128 + s.args.bytes.length) = false := decide_eq_false (Nat.not_lt.2 hfit)
  have bytes : s.args.bytes.isEmpty = false := by simpa using hne
  have home : State.homeStrong (s.hostStoring p) (s.hostStore p) = (s.hostStoring p).perform (s.hostStore p) p := by
    have placed : (s.hostStore p).place = some p := rfl
    have space : (s.hostStore p).space = .g := rfl
    simp only [State.homeStrong, placed, space, hostStore_goes hstuck hreqs hclaims hsaved, hbehind, hleased, performStore_alone,
      Bool.false_eq_true, if_false]
    rfl
  rw [← perform_hostStore h8 hn8 hwaiters, ← home]
  simp only [exec_hostMemWrite, execHostMemWrite, hplace, bytes, fits, any_port_up hup, Bool.or_self, Bool.false_eq_true, if_false]
  rfl

/-- An access that has been performed is forgotten; what it has done stands. -/
theorem performed_done (u : State) (r : Req) (p n id : Nat) :
    let t := ((u.performed r p n).dropReq id).tidy
    t.self = u.self ∧ t.mem = u.mem ∧ t.lineKey = u.lineKey ∧ t.dirty = u.dirty ∧
      (u.reqs.filter (fun r => r.id != id) = [] → t.reqs = []) := by
  have notes : u.Notes (u.performed r p n) := (notes_veil ..).trans (notes_record ..)
  rw [← notes.self, ← notes.bytes.mem, ← notes.bytes.lineKey, ← notes.bytes.dirty, ← notes.reqs]
  generalize u.performed r p n = w
  exact ⟨rfl, rfl, rfl, rfl, fun h => (congrArg (List.filter _) h :)⟩

/-- What the host's write leaves. -/
theorem hostStored_done (hinv : s.Inv) (hfit : p % 128 + s.args.bytes.length ≤ 128) (hreqs : s.reqs = []) (n : Nat) :
    let t := (((s.hostStored p).performed (s.hostStore p) p n).dropReq s.serial).tidy
    let key := s.keyOf s.mod.hdmkey.toNat
    t.self = s.self ∧ t.reqs = [] ∧
      ∀ q, (q / 128 = p / 128 →
          t.byteAt key q = if p ≤ q ∧ q < p + s.args.bytes.length then (s.args.bytes[q - p]?).getD 0 else s.byteAt key q) ∧
        (q / 128 ≠ p / 128 → Memory.get t.mem q = Memory.get s.mem q) := by
  intro t key
  obtain ⟨hself, -, hreqs', hmem, hkey, hdirty⟩ := hostStored_keeps (s := s) (p := p)
  have woken := (notes_wakeAt (s.hostStoring p) p).bytes
  have inv : ((s.hostStoring p).wakeAt p).Inv := hinv.congr woken.mem woken.lineKey
  have dropped : ((s.hostStored p).reqs.filter (fun r => r.id != s.serial)) = [] := by
    rw [hreqs', hreqs]
    simp [State.hostStore]
  obtain ⟨tself, tmem, tkey, tdirty, treqs⟩ := performed_done (s.hostStored p) (s.hostStore p) p n s.serial
  refine ⟨tself.trans hself, treqs dropped, fun q => ⟨fun hq => ?_, fun hq => ?_⟩⟩
  · rw [byteAt_congr (tmem.trans hmem) (tkey.trans hkey) (tdirty.trans hdirty), byteAt_putAt inv key _ hq,
      byteAt_congr woken.mem woken.lineKey woken.dirty]
    rfl
  · rw [tmem.trans hmem, get_putAt_other inv key hfit hq, woken.mem]
    rfl

end HostWrite

/-- Settles O39: register by register, then what the host's read, write and snoop come to, by what stands in their way. -/
theorem registerEvents : Obligations.RegisterEvents := by
  refine ⟨fun s u v k => ?_, fun s p => ?_⟩
  · intro arrives
    refine ⟨fun hk hunit => contextEvents hk hunit, fun h => ⟨fun hany => ?_, fun hany => ?_⟩, fun h => ?_, fun h => ?_,
      fun h => ⟨fun hlt => ?_, fun hle => ?_⟩, fun h => ⟨fun hv => ?_, fun hv => ?_⟩, fun hunit h => ?_, fun hunit h => ?_, fun hunit => ?_,
      fun c hc => ctx_reads_back hc v, fun c o hc => ctx_setReg_of_en hc o v, fun t => tower_reads_back t v,
      fun m => module_reads_back m v, fun h hduty hk hid => ⟨fun hi => ?_, fun o ho => ?_⟩⟩
    · rw [exec_dutyWrite, execDutyWrite, regEvent_arrives h, hany, if_pos rfl]
    · rw [exec_dutyWrite, execDutyWrite, regEvent_arrives h, hany, if_neg Bool.false_ne_true]
    · rw [exec_frheadWrite, execFrheadWrite, regEvent_arrives h]
    · rw [exec_logheadWrite, execLogheadWrite, regEvent_arrives h]
    · rw [exec_fusesvnWrite, execFusesvnWrite, regEvent_arrives h]
      exact congrArg _ (if_pos hlt)
    · rw [exec_fusesvnWrite, execFusesvnWrite, regEvent_arrives h]
      exact congrArg _ (if_neg (Nat.not_lt.2 hle))
    · rw [exec_readyWrite, execReadyWrite, regEvent_arrives h, hv, if_pos rfl]
    · rw [exec_readyWrite, execReadyWrite, regEvent_arrives h, hv, if_neg Bool.false_ne_true]
    · rw [registerWrite_plain (hunit ▸ rfl) (hunit ▸ h), hunit]
      rfl
    · rw [registerWrite_plain (hunit ▸ rfl) (hunit ▸ h), hunit]
      rfl
    · rw [exec_registerWrite, execRegisterWrite, hunit]
      rfl
    · rw [cslLoad_names h hduty hk hid, hi]
      rfl
    · rw [cslLoad_names h hduty hk hid, ho]
      rfl
  · intro a up reads
    refine ⟨hostMem_portsDown, fun hup hready hsub hp hread howned => ?_, fun hup hready hsub => ?_,
      fun hup hready hsub hunit htup hp => ?_,
      fun hup hinv hready hp hne hfit hstuck hreqs hholds hcopies hranges hlexp h8 hn8 hwaits hclaims hwaiters hsaved => ?_,
      fun h => hostMemWrite_unreached ?_, fun hline hbytes hstuck howned => ⟨fun hl => ?_, fun hl => ?_⟩, rfl⟩
    · obtain ⟨t, ht, hans, hkeep, hlines⟩ := hostMemRead_reached hup hsub (by rw [if_pos hready, hp]) hread howned
      exact ⟨t, ht, hans, hkeep, by rw [hlines, sget_sset_true]⟩
    · obtain ⟨t, ht, hans, hkeep, hlines⟩ := hostMemRead_unreached hup hsub (by rw [hready, if_neg Bool.false_ne_true])
      exact ⟨_, t, ht, hans, hkeep, hlines⟩
    · obtain ⟨t, ht, hans, hkeep, hlines⟩ := hostMemRead_unreached hup hsub (by rw [if_pos hready, hp])
      rw [hdmOnes_of_unreached hready hunit htup hp, if_pos rfl] at hans
      exact ⟨t, ht, hans, hkeep, hlines⟩
    · exact ⟨_, hostMemWrite_performed hup (by rw [if_pos hready, hp]) hne hfit hstuck hreqs hholds hcopies hranges hlexp h8 hn8 hclaims
        hwaiters hsaved, hostStored_done hinv hfit hreqs _⟩
    · obtain h | h := h
      · rw [h, if_neg Bool.false_ne_true]
      · rw [h, ite_self]
    · rw [hostSnoop_free hline hbytes hstuck howned, if_neg (Bool.eq_false_iff.1 hl)]
    · rw [hostSnoop_free hline hbytes hstuck howned, if_pos hl]

end Sys2Proof.Machine

/-! PROOF. O40: how a launch starts, is admitted, ends, and is reported (05 R164 to R168, R192, R193). -/

namespace Sys2Proof.Machine

/-- A doorbell ahead of LRHEAD starts a launch of an enabled context (05 R165). -/
theorem launch_starts {s : State} {k : Nat} {c : Ctx} (hk : k < 64) (hen : c.en = true) (hrun : c.run = false)
    (hbell : c.lrhead.toNat < c.lrtail.toNat) (hready : s.mod.ready = true) :
    (c.en && !c.run && decide (c.lrhead.toNat < c.lrtail.toNat) && decide (k < bootCtx) && s.mod.ready) = true := by
  simp [hen, hrun, hbell, hready, bootCtx, hk]

/-- Two changes of a context that agree on it come to one. -/
theorem setCtx_congr {t : State} {k : Nat} {d : Ctx} (h : t.ctxs[k]? = some d) {f g : Ctx → Ctx} (hfg : f d = g d) :
    t.setCtx k f = t.setCtx k g := by
  have : t.ctxs.modify k f = t.ctxs.modify k g := by
    refine List.ext_getElem? fun i => ?_
    rw [List.getElem?_modify, List.getElem?_modify]
    by_cases hi : k = i
    · subst hi
      simp [h, hfg]
    · simp [hi]
  rw [State.setCtx, State.setCtx, this]

theorem setCtx_ctxs_same {s : State} {k : Nat} {c : Ctx} (h : s.ctxs[k]? = some c) (f : Ctx → Ctx) :
    (s.setCtx k f).ctxs[k]? = some (f c) := by
  simp [State.setCtx, h]

/-- A launch that has begun, its record read and noted, has its context as it was. -/
theorem launched_congr {b : State} {k : Nat} {d : Ctx} (h : b.ctxs[k]? = some d) (e e' : Event) {f g : Ctx → Ctx} (hfg : f d = g d) :
    ((b.newMid.2.record e).record e').pass.setCtx k f = ((b.newMid.2.record e).record e').pass.setCtx k g := by
  have notes := notes_newMid b
  generalize b.newMid.2 = v at notes
  have notes := notes.trans ((notes_record v e).trans ((notes_record _ e').trans (notes_pass _)))
  exact setCtx_congr (notes.ctxs ▸ h) hfg

/-! ## The completion record (05 R167) -/

/-- Nothing keeps a completion record from its ring but what its place answers. -/
theorem record_due {s : State} {k : Nat} {c : Ctx} (hpage : c.pageWait = none) (hheld : c.held = false)
    (hroom : c.crtail.toNat - c.crhead.toNat < 2 ^ min c.crlog.toNat 16) (hreqs : s.reqs = []) (hwaits : s.leaseWaits = []) :
    (c.pageWait.isSome || (c.held && !c.retry) || decide (2 ^ min c.crlog.toNat 16 ≤ c.crtail.toNat - c.crhead.toNat) ||
        s.reqs.any (fun r => r.who.ctx == k && r.who.crew != 0 && !s.fenceOver r) ||
        s.leaseWaits.any (fun l => l.ctx == k && s.tide < l.expiry)) = false := by
  simp [hpage, hheld, hroom, hreqs, hwaits]

theorem moduleWrite_goes {s : State} {p n : Nat} (hstuck : s.stuck p = false) (hown : s.ownedAt (p / 128 * 128) 128 = false)
    (hhost : s.hostHeld p n = false) (idx : Nat) : s.moduleWrite idx p n =
      if s.leasedAt p n then .error (s.holdOn 0 idx (s.unitsAt p n)) else .ok (s.holdOff 0 idx) := by
  simp only [State.moduleWrite, hstuck, hown, hhost, Bool.or_self, Bool.false_eq_true, if_false]

/-- A write of the module's own, and the poison that it clears, touch no more than a write does. -/
theorem writes_writeAs (s : State) (e : Event) (key : Option (BitVec 512)) (p n : Nat) (bs : List Byte) :
    s.Writes ((s.writeAs e key p bs).clearPoison p n) := by
  have cleared (u : State) : u.Writes (u.clearPoison p n) := ⟨rfl, rfl, rfl, rfl, rfl, rfl, rfl, rfl, rfl, rfl, rfl, rfl, rfl, rfl⟩
  exact ((putAt_keeps s key p bs).1.trans (notes_record ..).writes).trans (cleared _)

/-- It reads back. -/
theorem byteAt_writeAs {s : State} (h : s.Inv) (e : Event) (key : Option (BitVec 512)) {p n q : Nat} {bs : List Byte}
    (hq : q / 128 = p / 128) :
    ((s.writeAs e key p bs).clearPoison p n).byteAt key q =
      if p ≤ q ∧ q < p + bs.length then (bs[q - p]?).getD 0 else s.byteAt key q :=
  (byteAt_congr rfl rfl rfl key q).trans (byteAt_putAt h key bs hq)

/-- The state in which a completion record stands in its ring. -/
def State.reported (s : State) (k : Nat) (c : Ctx) (x : Trans) (r : List Byte) : State :=
  (((s.holdOff 0 k).wakeAt x.place).writeAs { ends := c.launch.map (·.born) } (s.keyOf x.key) x.place
    (r ++ leBytes 8 c.lrhead.toNat)).clearPoison x.place 64

/-- The context then. -/
def Ctx.reported (c : Ctx) : Ctx :=
  { c with crtail := c.crtail + 1, lrhead := c.lrhead + 1, run := false, launch := none, held := false, retry := false }

theorem reported_writes (s : State) (k : Nat) (c : Ctx) (x : Trans) (r : List Byte) : s.Writes (s.reported k c x r) :=
  ((notes_holdOff ..).trans (notes_wakeAt ..)).writes.trans (writes_writeAs ..)

theorem reported_byteAt {s : State} (h : s.Inv) {k i : Nat} {c : Ctx} {x : Trans} {r : List Byte} (hlen : r.length = 56)
    (h64 : x.place % 64 = 0) (hi : i < 64) :
    (s.reported k c x r).byteAt (s.keyOf x.key) (x.place + i) = ((r ++ leBytes 8 c.lrhead.toNat)[i]?).getD 0 := by
  have woken := ((notes_holdOff s 0 k).trans (notes_wakeAt _ x.place)).bytes
  have line : (x.place + i) / 128 = x.place / 128 := by omega
  have inside : x.place ≤ x.place + i ∧ x.place + i < x.place + (r ++ leBytes 8 c.lrhead.toNat).length := by
    rw [List.length_append, leBytes_length, hlen]
    omega
  rw [State.reported, byteAt_writeAs (h.congr woken.mem woken.lineKey) _ _ line, if_pos inside, Nat.add_sub_cancel_left]

/-- The context goes on to its next launch, and the host has its interrupt. -/
theorem setCtx_interrupt {s t : State} {k : Nat} {c : Ctx} (h : s.Writes t) (hctx : s.ctxs[k]? = some c)
    (f : Ctx → Ctx) (b : Bool) :
    let u := if b then (t.setCtx k f).interrupt k else t.setCtx k f
    u.ctxs[k]? = some (f c) ∧ u.answers = s.answers ++ (if b then [[0xFF, BitVec.ofNat 8 k]] else []) ∧ u.self = s.self ∧
      ∀ key q, u.byteAt key q = t.byteAt key q := by
  have next : (t.setCtx k f).ctxs[k]? = some (f c) := setCtx_ctxs_same (h.ctxs ▸ hctx) f
  rw [← h.answers, ← h.self]
  cases b with
  | false => exact ⟨next, (List.append_nil _).symm, rfl, fun _ _ => rfl⟩
  | true => exact ⟨next, rfl, rfl, fun _ _ => rfl⟩

/-! ## The end of a launch by a fault (05 R192, R193) -/

/-- Crews are removed one after another: they go, and nothing of contexts, manifests, requests or memory does. -/
theorem removeCrews_keeps (ids : List Nat) (s : State) :
    let t := ids.foldl (fun t id => t.removeCrew id) s
    t.ctxs = s.ctxs ∧ s.KeepsBytes t ∧ ∀ e ∈ t.crews, e ∈ s.crews ∧ e.id ∉ ids := by
  induction ids generalizing s with
  | nil => exact ⟨rfl, .refl s, fun e he => ⟨he, List.not_mem_nil⟩⟩
  | cons id ids ih =>
    obtain ⟨hctxs, hbytes, hcrews⟩ := ih (s.removeCrew id)
    refine ⟨hctxs, (keepsBytes_removeCrew s id).trans hbytes, fun e he => ?_⟩
    obtain ⟨hmem, hid⟩ := hcrews e he
    obtain ⟨hmem, hne⟩ := List.mem_filter.1 hmem
    exact ⟨hmem, List.not_mem_cons_of_ne_of_not_mem (by simpa using hne) hid⟩

/-- What the end of a launch discards, and what it leaves in the launch's context. -/
theorem finishEnd_discards {s : State} {k : Nat} {c : Ctx} (hk : k ≠ bootCtx) (hctx : s.ctxs[k]? = some c)
    (l : Launch) (f : FaultRec) :
    let t := s.finishEnd k l f
    t.ctxs[k]? = some { c with
        lighter := [], lqWait := none, launch := some { l with completion := some (completionRecord f l.tag) } } ∧
      (∀ m ∈ t.manifests, m.ctx ≠ k) ∧ (∀ e ∈ t.reqs, e.who.ctx ≠ k ∨ e.who.crew = 0) ∧
      (∀ e ∈ t.crews, e.ctx ≠ k) ∧ s.sameMemory t := by
  obtain ⟨hctxs, hbytes, hcrews⟩ := removeCrews_keeps ((s.crewsOf k).map (·.id)) s
  simp only [State.finishEnd, if_neg hk]
  generalize ((s.crewsOf k).map (·.id)).foldl (fun t id => t.removeCrew id) s = u at hctxs hbytes hcrews
  refine ⟨?_, fun m hm => ?_, fun e he => ?_, fun e he hek => ?_, (hbytes.trans ⟨rfl, rfl, rfl, rfl, rfl, rfl⟩).sameMemory⟩
  · exact setCtx_ctxs_same (hctxs ▸ hctx) _
  · simpa using (List.mem_filter.1 hm).2
  · simpa using (List.mem_filter.1 he).2
  · obtain ⟨hmem, hid⟩ := hcrews e he
    exact hid (List.mem_map_of_mem (List.mem_filter.2 ⟨hmem, beq_iff_eq.2 hek⟩))

/-- Settles O40: by what the walk to the launch record, the pool, or the ring's place answers. -/
theorem launchEvents : Obligations.LaunchEvents := by
  intro s k c x l r f
  dsimp only
  intro hunit hk hctx
  have hc : s.ctx k = c := ctx_of_getElem? hctx
  refine ⟨fun hen hrun hbell hready => ?_, fun hen hrun => ?_, fun hl hr hadm hdone => ⟨fun hfull => ?_, fun hroom => ?_⟩,
    fun hl hcomp hpage hheld hroom hreqs hwaits => ⟨fun hf hstuck hown hhost hlease hlen => ?_, fun hf hstuck hown hhost hlease => ?_,
      fun hf => ?_⟩, fun hl hfull => ?_, fun hl hfaults => ?_, fun hl hfaults hend hdone hready => ?_⟩
  · have start := launch_starts hk hen hrun hbell hready
    refine ⟨fun hf hread hown => ?_, fun hf hread hown hpo hr => ⟨fun code hm => ?_, fun hm => ?_⟩, fun hf hread => ?_,
      fun hf hread hown hpo => ?_, fun p hf => ?_, fun hf => ?_, fun hf => ?_, fun hf => ?_, fun hf => ?_⟩
    all_goals simp only [exec_launchFetch, execLaunchFetch, hunit, hc, start, if_true, Bool.not_true, Bool.false_and,
      Bool.false_eq_true, if_false, hf]
    · simp only [hread, hown, Bool.not_true, Bool.false_eq_true, if_false, if_true]
    · subst hr
      simp only [hread, hown, hpo, Bool.not_true, Bool.false_eq_true, if_false, hm]
    · subst hr
      simp only [hread, hown, hpo, Bool.not_true, Bool.false_eq_true, if_false, hm]
      exact congrArg Host.Outcome.next (launched_congr (setCtx_ctxs_same hctx _) _ _ rfl)
    · simp only [hread, Bool.not_false, if_true]
    · simp only [hread, hown, hpo, Bool.not_true, Bool.false_eq_true, if_false, if_true]
  · simp only [exec_launchFetch, execLaunchFetch, hunit, hc, hen, hrun, Bool.false_and, Bool.not_false, Bool.and_self, if_true]
  · simp only [exec_manifestAdmit, execManifestAdmit, hunit, hc, hl, hr, hadm, hdone, decide_eq_true hfull,
      Option.isSome_none, Bool.or_true, if_true]
  · simp only [exec_manifestAdmit, execManifestAdmit, hunit, hc, hl, hr, hadm, hdone, decide_eq_false (Nat.not_le.2 hroom),
      Option.isSome_none, Bool.or_self, Bool.false_eq_true, if_false]
  · obtain ⟨hnext, hans, hself, hbyte⟩ := setCtx_interrupt (reported_writes s k c x r) hctx Ctx.reported c.cien
    refine ⟨_, ?_, hnext, hans, hself, fun hinv h64 i hi => (hbyte ..).trans (reported_byteAt hinv hlen h64 hi)⟩
    simp only [exec_completionRecordWrite, execCompletionRecordWrite, hunit, hc, hl, Option.bind_some, hcomp,
      record_due hpage hheld hroom hreqs hwaits, Bool.false_eq_true, if_false, hf, moduleWrite_goes hstuck hown hhost, hlease]
    rw [State.reported, hl]
    rfl
  · simp only [exec_completionRecordWrite, execCompletionRecordWrite, hunit, hc, hl, Option.bind_some, hcomp,
      record_due hpage hheld hroom hreqs hwaits, Bool.false_eq_true, if_false, hf, moduleWrite_goes hstuck hown hhost, hlease, if_true]
  · simp only [exec_completionRecordWrite, execCompletionRecordWrite, hunit, hc, hl, Option.bind_some, hcomp,
      record_due hpage hheld hroom hreqs hwaits, Bool.false_eq_true, if_false, hf]
  · simp only [exec_completionRecordWrite, execCompletionRecordWrite, hunit, hc, hl, Option.bind_some, decide_eq_true hfull, Bool.or_true,
      Bool.true_or, if_true]
    split <;> rfl
  · simp only [exec_launchEnd, execLaunchEnd, hunit, hc, hl, hfaults, List.isEmpty_nil, Bool.true_or, if_true]
  · have hchosen : l.chosen 0 = f := by simp [Launch.chosen, hfaults]
    have stands : (l.faults.isEmpty || l.completion.isSome) = false := by rw [hfaults, hdone]; rfl
    refine ⟨_, ?_, finishEnd_discards (by rw [bootCtx]; omega) hctx { l with faults := [f], ending := true } f⟩
    simp only [exec_launchEnd, execLaunchEnd, hunit, hc, hl, stands, hend, if_true, hready, hchosen, Bool.false_eq_true, if_false]

end Sys2Proof.Machine

/-! PROOF. O41 fails: the readiness of a manifest (05 R168, R175) in a state with two manifests of one identifier. No rule of
the spec speaks of such a state, which R171 keeps from arising; the statement is of every state. There MANIFEST_READY gives each of the
two the priority of its own record, and the statement gives both that of the first. -/

namespace Sys2Proof.Machine

/-- A manifest with identifier 1, an iteration of which runs, and whose record asks for a priority. -/
def twin (prio : Nat) : Manifest :=
  { mid := 1, ctx := 0, record := List.replicate 16 0 ++ [BitVec.ofNat 8 (64 * prio)] ++ List.replicate 111 0, tower := 0, towers := 1
    running := 1 }

/-- A state that holds two of them, with an event that names them. -/
def twins : State := { manifests := [twin 0, twin 3], args := { unit := 1 } }

/-- The priorities of the manifests that an event leaves. -/
def prios (o : Host.Outcome State Fault Refusal) : List Nat :=
  match o with
  | .next t => t.manifests.map (·.prio)
  | _ => []

/-- The event gives each of the two the priority of its own record. -/
theorem prios_manifestReady_twins : prios (exec .manifestReady twins) = [0, 3] := by
  rw [exec_manifestReady]
  decide

/-- What the statement says that it leaves has the first one's priority in both. -/
theorem prios_stated_twins : prios (.next (State.settleFrom (twins.setManifest 1 (fun x =>
    { x with ready := true, prio := recPrio (twin 0).record, ageFrom := twins.tide })) 1)) = [0, 0] := by
  decide

/-- Refutes O41: of two manifests with one identifier that become ready, the second takes its own record's priority, not the first's. -/
theorem not_manifestEvents : ¬ Obligations.ManifestEvents := by
  intro h
  obtain ⟨ready, -⟩ := h twins (twin 0) [] 0
  have stated := congrArg prios (ready ⟨rfl, by decide⟩ rfl (by decide) (by decide) rfl rfl)
  have same : prios (exec .manifestReady twins) = [0, 0] := stated.trans prios_stated_twins
  rw [prios_manifestReady_twins] at same
  exact absurd same (by decide)

end Sys2Proof.Machine

/-! PROOF. O42: how crews stop, are saved and suspended, and resume (05 R181 to R191). -/

namespace Sys2Proof.Machine

/-! ## Writes of the pilot -/

/-- A write of the pilot, piece by piece, is a write. -/
theorem pilotWrite_writes {s t : State} {tower : Nat} {asid : BitVec 16} {va : Word} {bs : List Byte}
    (h : s.pilotWrite tower asid va bs = some t) : s.Writes t := by
  unfold State.pilotWrite at h
  generalize pieces (bs.length / 32 + 1) 0 bs = l at h
  suffices ∀ r : Option State, (∀ u, r = some u → s.Writes u) → l.foldl _ r = some t → s.Writes t from
    this (some s) (fun u hu => Option.some.inj hu ▸ .refl s) h
  clear h
  induction l with
  | nil => exact fun r hr h => hr t h
  | cons x l ih =>
    refine fun r hr h => ih _ (fun v hv => ?_) h
    cases r with
    | none => cases hv
    | some u =>
      dsimp only at hv
      split at hv
      · exact Option.some.inj hv ▸ (hr u rfl).trans ((notes_wakeAt ..).writes.trans (writes_writeAs ..))
      · cases hv

/-- What a write of the pilot waits for leaves the crews as they are. -/
theorem pilotWaits_crews {s u : State} {t : Nat} {asid : BitVec 16} {va : Word} {n crew idx : Nat}
    (h : s.pilotWaits t asid va n crew idx = some u) : u.crews = s.crews := by
  have read {a : Word} {v : State} (hv : s.pilotReadWaits t asid a = some v) : v.crews = s.crews := by
    unfold State.pilotReadWaits at hv
    split at hv
    · exact Option.some.inj hv ▸ (notes_wakeAt ..).crews
    · split_ifs at hv
      · exact Option.some.inj hv ▸ (notes_wakeAt ..).crews
      · exact Option.some.inj hv ▸ rfl
    · cases hv
  unfold State.pilotWaits at h
  dsimp only at h
  split at h
  next v hv =>
    obtain ⟨x, -, hx⟩ := List.exists_of_findSome?_eq_some hv
    exact Option.some.inj h ▸ read hx
  next =>
    split_ifs at h
    · exact Option.some.inj h ▸ rfl
    · exact Option.some.inj h ▸ rfl

theorem frameWaits_crews {s u : State} {c : Crew} {midStop : Bool} (h : s.frameWaits c midStop = some u) : u.crews = s.crews := by
  obtain ⟨a, -, ha⟩ := Option.bind_eq_some_iff.1 h
  exact pilotWaits_crews ha

/-! ## A crew that is saved -/

/-- The cores whose matrix unit a crew held give it up; the crews stand. -/
theorem freeHolders_crews (cores : List Nat) (id : Nat) (s : State) :
    let t := cores.foldl (fun t k => if (t.core k).holder / 256 == id then t.setCore k (fun x => { x with holder := 0 }) else t) s
    t.crews = s.crews := by
  induction cores generalizing s with
  | nil => rfl
  | cons k cores ih =>
    refine (ih _).trans ?_
    dsimp only
    split_ifs <;> rfl

/-- A crew that is saved has left its slots (05 R189, R190). -/
theorem saveCrew_frees {s t : State} {c : Crew} {id : Nat} {midStop : Bool} (hc : s.crews.find? (fun x => x.id == id) = some c)
    (hid : id ≠ 0) (h : s.saveCrew id midStop = some t) : (∀ x ∈ t.peers, x.crew ≠ id) ∧ t.self.crew ≠ id ∧
      (t.crewById id).saved = true ∧ (t.crewById id).suspended = midStop := by
  simp only [State.saveCrew] at h
  split at h
  · cases h
  next a _ =>
    split at h
    · cases h
    next v hv =>
      have crews := (freeHolders_crews (s.crewById id).cores id v).trans (pilotWrite_writes hv).crews
      generalize (s.crewById id).cores.foldl _ v = w at h crews
      obtain rfl := Option.some.inj h
      have found := crewById_of_find (find_setCrew (s := w) (crews ▸ hc) (f := fun c => { c with
        saved := true, frame := a, frameLen := (s.frameOf (s.crewById id) midStop).2.length, suspended := midStop }) fun _ h => h)
      refine ⟨fun x hx => by simpa using (List.mem_filter.1 hx).2, ?_, (congrArg Crew.saved found :), (congrArg Crew.suspended found :)⟩
      dsimp only
      split_ifs with hself
      · exact Ne.symm hid
      · simpa using hself

/-! ## A crew that waits for a page -/

/-- A strand of a crew that gives up its wait leaves the crew suspended. -/
theorem withdraw_suspended {s : State} {id idx : Nat} {c : Crew} (hc : s.crews.find? (fun x => x.id == id) = some c)
    (hs : c.suspended = true) :
    ∃ d, (s.withdraw id idx).crews.find? (fun x => x.id == id) = some d ∧ d.suspended = true :=
  ⟨{ c with vlAsked := none }, find_setCrew hc fun _ h => h, hs⟩

theorem withdraws_suspended {id : Nat} (l : List Strand) (hl : ∀ x ∈ l, x.crew = id) {s : State} {c : Crew}
    (hc : s.crews.find? (fun x => x.id == id) = some c) (hs : c.suspended = true) :
    ∃ d, (l.foldl (fun t st => t.withdraw st.crew st.idx) s).crews.find? (fun x => x.id == id) = some d ∧ d.suspended = true := by
  induction l generalizing s c with
  | nil => exact ⟨c, hc, hs⟩
  | cons x l ih =>
    obtain ⟨d, hd, hds⟩ := withdraw_suspended (idx := x.idx) hc hs
    exact ih (fun y hy => hl y (List.mem_cons_of_mem x hy)) (hl x List.mem_cons_self ▸ hd) hds

/-- A suspended crew whose frame is written, or waits to be, or finds no room, stays suspended. -/
theorem frame_suspended {t : State} {c d : Crew} {id : Nat} (hid : id ≠ 0) (hd : t.crews.find? (fun x => x.id == id) = some d)
    (hs : d.suspended = true) : (((t.frameWaits c true).getD ((t.saveCrew id true).getD t)).crewById id).suspended = true := by
  cases hw : t.frameWaits c true with
  | some u => rw [Option.getD_some, State.crewById, frameWaits_crews hw, hd, Option.getD_some, hs]
  | none =>
    cases hv : t.saveCrew id true with
    | some u => exact (saveCrew_frees hd hid hv).2.2.2
    | none => exact crewById_of_find hd ▸ hs

/-! ## A crew that resumes -/

section Resume
variable (s : State) (c : Crew) (slots : List Nat) (fr : List Byte)

theorem resumeCrew_self : ∃ ahead looped since, (s.resumeCrew c [] slots fr).self = { s.self with ahead, looped, since } := by
  have stale (st : Strand) : ∃ ahead looped, (if (slots.map coreOfSlot).contains st.core then
      { st with ahead := st.ahead.map (fun l => { l with expiry := 0 }), looped := [] } else st) = { st with ahead, looped } := by
    split
    · exact ⟨_, _, rfl⟩
    · exact ⟨_, _, rfl⟩
  obtain ⟨ahead, looped, h⟩ := stale (s.freshSlots slots).self
  exact ⟨ahead, looped, _, h⟩

theorem resumeCrew_keepsBytes : s.KeepsBytes (s.resumeCrew c [] slots fr) := ⟨rfl, rfl, rfl, rfl, rfl, rfl⟩

/-- The copies of its cores, and those of its tower's L2, are dropped (08 R272; 04 R153). -/
theorem resumeCrew_copies {x : Copy} (hx : x ∈ (s.resumeCrew c [] slots fr).copies) : x ∈ s.copies ∧
    x.holder ≠ .tower (towerOfSlot (slots.headD 0)) ∧
    ∀ k ∈ slots.map coreOfSlot, x.holder ≠ .l1 k ∧ x.holder ≠ .vmu k ∧ x.holder ≠ .icache k := by
  obtain ⟨hmem, hkeep⟩ := List.mem_filter.1 hx
  generalize slots.map coreOfSlot = cores at hkeep ⊢
  refine ⟨hmem, fun h => by simp [h] at hkeep, fun k hk => ⟨fun h => ?_, fun h => ?_, fun h => ?_⟩⟩ <;> simp [h, hk] at hkeep

theorem resumeCrew_crew (hc : s.crews.find? (fun x => x.id == c.id) = some c) :
    ((s.resumeCrew c [] slots fr).crewById c.id).saved = false ∧
      ((s.resumeCrew c [] slots fr).crewById c.id).repin = word (field fr 8 8) + 1 := by
  have found := crewById_of_find (find_setCrew hc (f := fun _ => { c.restore fr with
    saved := false, suspended := false, stopReq := false, cores := slots.map coreOfSlot
    repin := (c.restore fr).repin + 1, frame := 0, frameLen := 0 }) fun _ _ => rfl)
  exact ⟨(congrArg Crew.saved found :), (congrArg Crew.repin found :)⟩

end Resume

/-- Registers that are all live follow one another. -/
theorem takeRegs_all {live : Nat → Bool} (hlive : ∀ i, live i = true) (w : Nat) (l : List Nat) (bs : List Byte) {i : Nat}
    (hi : i < l.length) :
    (takeRegs w live l bs).1[i]? = some (some (slice (bs.drop (w * i)) 0 w)) := by
  induction l generalizing bs i with
  | nil => cases hi
  | cons j l ih =>
    rw [takeRegs, if_pos (hlive j)]
    cases i with
    | zero => simp
    | succ i =>
      simp only [List.getElem?_cons_succ]
      rw [ih (bs.drop w) (by simpa using hi), List.drop_drop, Nat.mul_succ, Nat.add_comm]

/-- A strand that is restored without masks has its registers from its frame (05 R188, R191). -/
theorem restore_readG {st : Strand} (h : st.masks = none) (maxvl npend : Nat) (fr : List Byte) {i : Nat} (h0 : 0 < i) (hi : i < 32) :
    (st.restore maxvl npend fr).readG i = word (field fr (0x180 + 32 * npend + 8 * i) 8) := by
  have live (j : Nat) : (st.restoreFixed maxvl fr).keeps 4 4 j = true := by
    have : (st.restoreFixed maxvl fr).masks = none := h
    rw [Strand.keeps, this]
  have reg := takeRegs_all live 8 (List.range 32) (fr.drop (0x180 + 32 * npend)) (i := i) (by simpa using hi)
  have value : (st.restore maxvl npend fr).g[i]? = some (word (field fr (0x180 + 32 * npend + 8 * i) 8)) := by
    rw [Vector.getElem?_eq_getElem hi]
    simp only [Strand.restore, Strand.restoreRegs, Vector.getElem_ofFn, regWord, reg, Option.join_some, Option.map_some, Option.getD_some,
      List.drop_drop]
    rfl
  rw [Strand.readG, if_neg (Nat.ne_of_gt h0), value, Option.getD_some]

/-- Each strand comes back to a slot with what its frame holds (05 R191). -/
theorem resumeCrew_peers (s : State) (c : Crew) (slots : List Nat) (fr : List Byte) {y : Strand × List Byte}
    (hy : y ∈ c.strandFrames (s.saved.filter (fun x => x.crew == c.id)) (fr.drop 64)) :
    ∃ x ∈ (s.resumeCrew c [] slots fr).peers, ∃ barPhase,
      x = { y.1.restore c.vlGrant (s.pendingOf c.id y.1.idx).length y.2 with
        slot := (slots[y.1.idx]?).getD y.1.slot, stopReq := false, stopped := false, ytHit := false, masks := none, wait := none
        since := 0, barPhase } := by
  refine ⟨_, List.mem_append_right _ (List.mem_map_of_mem (List.mem_map_of_mem hy)), _, rfl⟩

/-! ## The events -/

/-- A stop is asked of a crew that is placed (05 R183, R184). -/
theorem askStop_placed {s : State} {c : Crew} {id : Nat} (hc : s.crewById id = c) (hid : c.id ≠ 0) (hsaved : c.saved = false)
    (hsusp : c.suspended = false) (hboot : c.ctx ≠ bootCtx) : s.askStop id =
      (s.setCrew c.id (fun c => { c with stopReq := true })).mapCrew c.id (fun st => { st with stopReq := true }) := by
  simp [State.askStop, hc, hid, hsaved, hsusp, hboot]

/-- A saved crew may come back to slots that are free for it, when no better manifest competes for them (05 R191). -/
theorem resumable_on {s : State} {c : Crew} {slots : List Nat} (hid : c.id ≠ 0) (hsaved : c.saved = true)
    (hfine : ((s.ctx c.ctx).launch.map (fun l => l.faults.isEmpty)).getD false = true)
    (hpages : ∀ x ∈ s.saved.filter (fun x => x.crew == c.id), x.pageWait = none)
    (hslots : s.slotsFree slots c.size c.towers c.isLocal c.id = true) (hlocal : c.isLocal = true → slots.map coreOfSlot = c.cores)
    (hcap : s.capacityUsed (clusterOfCore ((slots.map coreOfSlot).headD 0)) + 512 * c.size * c.vlGrant ≤ 4194304) :
    s.resumable c [] slots = true := by
  have pages : (s.saved.filter (fun st => st.crew == c.id)).all (fun st => st.pageWait.isNone) = true :=
    List.all_eq_true.2 fun x hx => by rw [hpages x hx]; rfl
  have own : (!c.isLocal || slots.map coreOfSlot == c.cores) = true := by
    cases h : c.isLocal with
    | false => rfl
    | true => exact beq_iff_eq.2 (hlocal h)
  rw [State.resumable, bne_iff_ne.2 hid, hsaved, hfine, pages, decide_eq_true hcap, hslots, own]
  rfl

/-- Settles O42: by what keeps each event from taking place. -/
theorem crewEvents : Obligations.CrewEvents := by
  intro s c st t slots mine fine hfind hid
  have hcrew : s.crewById c.id = c := crewById_of_find hfind
  refine ⟨fun hunit hsaved hsusp hboot => ?_, fun hunit hboot => ?_, fun hst hreq hstop hret hend hpage => ⟨fun hat => ?_, fun hat => ?_⟩,
    fun hunit hsaved hreq hsusp hfine hmine hidle hsettled => ?_, fun hunit hreq => ?_, fun hunit hsaved hboot hsome hstuck => ?_,
    fun hunit hnone => ?_, ?_, fun hunit hsaved => ?_⟩
  · have asked : exec .preemptRequest s = .next ((s.setCrew c.id (fun c => { c with stopReq := true })).mapCrew c.id
        (fun st => { st with stopReq := true })) := by
      rw [exec_preemptRequest, execPreemptRequest, hunit, askStop_placed hcrew hid hsaved hsusp hboot]
    refine ⟨_, asked, fun h => ?_, fun x hx hxc => ?_, ?_, ⟨fun _ _ => rfl, rfl, rfl, rfl⟩⟩
    · exact if_pos (beq_iff_eq.2 h)
    · obtain ⟨y, -, rfl⟩ := List.mem_map.1 hx
      split_ifs at hxc ⊢ with hy
      · rfl
      · exact absurd (beq_iff_eq.2 hxc) hy
    · exact congrArg Crew.stopReq (crewById_of_find (find_setCrew hfind (f := fun c => { c with stopReq := true }) fun _ h => h))
  · rw [exec_preemptRequest, execPreemptRequest, hunit, State.askStop, hcrew]
    simp [hboot]
  · simp only [exec_strandStop, execStrandStop, hst, hat, Bool.and_false, Bool.false_eq_true, if_false]
  · simp only [exec_strandStop, execStrandStop, hst, hat, hreq, hstop, hret, hend, hpage, Option.isNone_none, Bool.not_false, Bool.and_self,
      if_true]
  · have placed : (decide (c.id = 0) || c.saved || !c.stopReq || c.suspended ||
        !((s.ctx c.ctx).launch.map (fun l => l.faults.isEmpty)).getD false) = false := by
      have hfine : ((s.ctx c.ctx).launch.map (fun l => l.faults.isEmpty)).getD false = true := hfine
      simp [hid, hsaved, hreq, hsusp, hfine]
    have free : (s.strandsOf c.id).any (fun st => s.craneStuck st.cq) = false := by
      simpa using fun x hx => (hmine x hx).2.2
    have stopped : (s.strandsOf c.id).all (fun st => (st.stopped || st.retired) && st.pageWait.isNone) = true := by
      simpa using fun x hx => ⟨(hmine x hx).1, (hmine x hx).2.1⟩
    refine ⟨fun u hu => ?_, fun hu ht => ?_, fun hu ht => ?_⟩
    all_goals simp only [exec_frameWrite, execFrameWrite, hunit, hcrew, placed, free, stopped, hidle, hsettled, hu, Bool.and_false,
      Bool.and_self, Bool.false_eq_true, if_false, if_true]
    · obtain ⟨hpeers, hself, hsv, -⟩ := saveCrew_frees hfind hid ht
      exact ⟨by rw [ht], hpeers, hself, hsv⟩
    · rw [ht]
  · simp [exec_frameWrite, execFrameWrite, hunit, hcrew, hreq]
  · have waits : (decide (c.id = 0) || c.saved || !(s.strandsOf c.id).any (fun st => st.pageWait.isSome) ||
        c.ctx == bootCtx) = false := by
      have : (s.strandsOf c.id).any (fun st => st.pageWait.isSome) = true := List.any_eq_true.2 hsome
      simp [hid, hsaved, hboot, this]
    have free : (s.strandsOf c.id).any (fun st => s.craneStuck st.cq) = false := by simpa using hstuck
    obtain ⟨d, hd, hds⟩ := withdraws_suspended ((s.strandsOf c.id).filter (fun st => !st.amid))
      (fun x hx => by simpa using (List.mem_filter.1 (List.mem_filter.1 hx).1).2)
      (find_setCrew hfind (f := fun c => { c with suspended := true }) fun _ h => h) rfl
    simp only [exec_crewSuspend, execCrewSuspend, hunit, hcrew, waits, free, Bool.false_eq_true, if_false]
    split
    · exact ⟨_, rfl, frame_suspended hid hd hds⟩
    · exact ⟨_, rfl, crewById_of_find hd ▸ hds⟩
  · have still : (s.strandsOf c.id).any (fun st => st.pageWait.isSome) = false := by
      simpa using hnone
    simp only [exec_crewSuspend, execCrewSuspend, hunit, hcrew, still, Bool.not_false, Bool.or_true, Bool.true_or, if_true]
  · intro hunit hslots hsaved hfine old cores hpages htakes hfree hlocal hcap hoffer
    have comes := resumable_on hid hsaved hfine hpages hfree hlocal hcap
    have first : (s.manifest c.mid).all (fun m => s.offered m slots) = true := by
      cases hm : s.manifest c.mid with
      | none => rfl
      | some m => exact hoffer m (List.mem_of_find?_eq_some hm) (by simpa using List.find?_some hm)
    refine ⟨fun u hu => ?_, fun fr hfr => ?_⟩
    · simp only [exec_crewResume, execCrewResume, hunit, hcrew, hslots, htakes, comes, first, hu, Bool.not_true, Bool.or_self,
        Bool.false_eq_true, if_false]
    · have back : exec .crewResume s = .next (s.resumeCrew c [] slots fr) := by
        simp only [exec_crewResume, execCrewResume, hunit, hcrew, hslots, htakes, comes, first, hfr, Bool.not_true, Bool.or_self,
          Bool.false_eq_true, if_false]
      obtain ⟨ahead, looped, since, hself⟩ := resumeCrew_self s c slots fr
      obtain ⟨hsv, hrepin⟩ := resumeCrew_crew s c slots fr hfind
      refine ⟨_, back, fun x hx => by simpa using (List.mem_filter.1 hx).2, by rw [hself], fun x hx => resumeCrew_copies s c slots fr hx,
        hsv, hrepin, (resumeCrew_keepsBytes s c slots fr).sameMemory, fun y hy => ?_⟩
      obtain ⟨x, hx, barPhase, rfl⟩ := resumeCrew_peers s c slots fr hy
      exact ⟨_, hx, rfl, rfl, rfl, rfl, rfl, rfl, rfl, rfl, rfl, rfl, rfl, rfl, rfl, rfl, rfl,
        fun hmasks i h0 hi => restore_readG hmasks c.vlGrant _ y.2 h0 hi⟩
  · have placed : s.resumable c (s.accLive c) s.args.slots = false := by simp [State.resumable, hsaved]
    simp only [exec_crewResume, execCrewResume, hunit, hcrew, placed, Bool.not_false, Bool.true_or, if_true]

end Sys2Proof.Machine

/-! PROOF. O1 to O3: what the sequencer's arithmetic instructions write. Each of them reads its sources, awaits its
destination and gains one value (`finish_binary_full`, `finish_immediate_full`); what is left is that value. -/

namespace Sys2Proof.Machine

/-! ## An instruction whose operands can be read -/

/-- Two full sources and a settled destination: g[d] gains the value of the operation. -/
theorem finish_binary_full {s : State} {f : FA} {a b v : Word} {op : Word → Word → Word} (ha : s.source f.a a)
    (hb : s.source f.b b) (hd : s.settled (.g f.d.toNat)) (hv : op a b = v) :
    finish s (s.binary 4 f op) = .next (s.gains f.d 4 v) := by
  rw [binary_full ha hb hd, hv, finish_ok]

/-- One full source, an immediate and a settled destination. -/
theorem finish_immediate_full {s : State} {a d : Reg} {x v : Word} {op : Word → Word} (ha : s.source a x)
    (hd : s.settled (.g d.toNat)) (hv : op x = v) : finish s (s.immediate 4 a d op) = .next (s.gains d 4 v) := by
  rw [immediate_full ha hd, hv, finish_ok]

/-- No source: g[d] gains a value that the instruction's word and its address give. -/
theorem finish_result_settled {s : State} {d : Reg} {w v : Word} (hd : s.settled (.g d.toNat)) (hv : w = v) :
    finish s (s.result d 4 w) = .next (s.gains d 4 v) := by
  rw [result_settled hd, hv, finish_ok]

theorem exec_sel_full {s : State} {f : FA} {a b d : Word} (ha : s.source f.a a) (hb : s.source f.b b)
    (hd : s.settled (.g f.d.toNat)) (h : s.source f.d d) :
    exec (.sel f) s = .next (s.gains f.d 4 (if d = 0 then b else a)) := by
  rw [exec_sel, execSel, State.select, srcG_full ha, srcG_full hb, srcG_full h]
  refine finish_result_settled hd ?_
  by_cases h0 : d = 0 <;> simp [h0]

/-! ## Selectors that the encoding does not list (02 R53) -/

theorem FA.dab_eq_false {f : FA} {n : Nat} (h : n < f.fn.toNat) : f.dab n = false := by
  simp [FA.dab, Nat.not_le.2 h]

theorem FA.da_eq_false {f : FA} {n : Nat} (h : n < f.fn.toNat ∨ f.b ≠ 0) : f.da n = false := by
  obtain h | h := h
  · simp [FA.da, Nat.not_le.2 h]
  · rw [FA.da, beq_eq_false_iff_ne.2 h, Bool.and_false]

theorem wellFormed_logi_unlisted {i : FI} (h : i.imm.extractLsb' 8 2 = 3) : wellFormed (.logi i) = false := by
  show (i.regs && i.imm.extractLsb' 8 2 != 3) = false
  rw [h]
  exact Bool.and_false _

theorem wellFormed_shi_reserved {i : FI} (h : i.imm.extractLsb' 6 2 ≠ 0) : wellFormed (.shi i) = false := by
  show (i.regs && i.imm.extractLsb' 6 2 == 0) = false
  rw [beq_eq_false_iff_ne.2 h]
  exact Bool.and_false _

/-! ## The values of the integer instructions (R219) -/

/-- A register shift counts by the low six bits of g[b]. -/
theorem toNat_mod_64 (b : Word) : b.toNat % 64 = (b.extractLsb' 0 6).toNat := by
  rw [BitVec.extractLsb'_toNat, Nat.shiftRight_zero]

/-- Bits 127:64 of an integer are the low half of its 128-bit word, shifted down by 64. -/
theorem high_ofInt (p : Int) : (BitVec.ofInt 128 p >>> 64).setWidth 64 = BitVec.ofInt 64 (p / 2 ^ 64) := by
  apply BitVec.eq_of_toNat_eq
  simp only [BitVec.toNat_setWidth, BitVec.toNat_ushiftRight, BitVec.toNat_ofInt, Nat.shiftRight_eq_div_pow]
  omega

/-- The product of two 128-bit words is that of the integers they hold. -/
theorem high_mul {x y : BitVec 128} {i j : Int} (hx : x = BitVec.ofInt 128 i) (hy : y = BitVec.ofInt 128 j) :
    BitVec.ofInt 64 (i * j / 2 ^ 64) = ((x * y) >>> 64).setWidth 64 := by
  rw [hx, hy, ← BitVec.ofInt_mul, high_ofInt]

theorem setWidth_eq_ofInt (a : Word) : a.setWidth 128 = BitVec.ofInt 128 a.toNat := by
  rw [BitVec.ofInt_natCast, BitVec.ofNat_toNat]

/-- The three forms of mulh: a full product of the operands, each widened by its own sign or by zeros. -/
theorem mulHigh_signed (a b : Word) :
    mulHigh true true a b = ((a.signExtend 128 * b.signExtend 128) >>> 64).setWidth 64 := high_mul rfl rfl
theorem mulHigh_unsigned (a b : Word) :
    mulHigh false false a b = ((a.setWidth 128 * b.setWidth 128) >>> 64).setWidth 64 :=
  high_mul (setWidth_eq_ofInt a) (setWidth_eq_ofInt b)
theorem mulHigh_mixed (a b : Word) :
    mulHigh true false a b = ((a.signExtend 128 * b.setWidth 128) >>> 64).setWidth 64 :=
  high_mul rfl (setWidth_eq_ofInt b)

/-- Where the model keeps one operand only if it is strictly less, the statement's order decides. -/
theorem ite_lt_eq_ite_le {α n : Type} [LinearOrder n] (x y : n) (a b : α) :
    (if decide (y < x) = true then b else a) = if x ≤ y then a else b := by
  by_cases h : x ≤ y
  · simp [h]
  · simp [h, not_le.1 h]

/-- An operand equal to the other may be kept for it. -/
theorem ite_lt_eq_ite_le_swap {α n : Type} [LinearOrder n] {x y : n} {a b : α} (h : x = y → a = b) :
    (if decide (x < y) = true then b else a) = if x ≤ y then b else a := by
  obtain hlt | rfl | hlt := lt_trichotomy x y
  · simp [hlt, hlt.le]
  · simp [h rfl]
  · simp [hlt.not_gt, hlt.not_ge]

theorem minMax_zero (a b : Word) : minMax 0 a b = if a.toInt ≤ b.toInt then a else b := by
  rw [minMax, BitVec.slt_eq_decide, ite_lt_eq_ite_le]
theorem minMax_one (a b : Word) : minMax 1 a b = if a.toInt ≤ b.toInt then b else a := by
  rw [minMax, BitVec.slt_eq_decide, ite_lt_eq_ite_le_swap BitVec.eq_of_toInt_eq]
theorem minMax_two (a b : Word) : minMax 2 a b = if a.toNat ≤ b.toNat then a else b := by
  rw [minMax, BitVec.ult_eq_decide, ite_lt_eq_ite_le]
theorem minMax_three (a b : Word) : minMax 3 a b = if a.toNat ≤ b.toNat then b else a := by
  show (if a.ult b = true then b else a) = _
  rw [BitVec.ult_eq_decide, ite_lt_eq_ite_le_swap BitVec.eq_of_toNat_eq]

/-- A truth value as a word (R219, R223). -/
theorem word_b2n (c : Bool) : word (b2n c) = if c = true then 1 else 0 := by
  cases c <;> rfl

theorem word_b2n_not (c : Bool) : word (b2n (!c)) = if c = true then 0 else 1 := by
  cases c <;> rfl

theorem condHolds_eq (a b : Word) : word (b2n (condHolds 0 a b)) = if a = b then 1 else 0 := by
  simp [condHolds, word_b2n]
theorem condHolds_ne (a b : Word) : word (b2n (condHolds 1 a b)) = if a = b then 0 else 1 := by
  simp [condHolds, word_b2n]
theorem condHolds_slt (a b : Word) : word (b2n (condHolds 2 a b)) = if a.toInt < b.toInt then 1 else 0 := by
  simp [condHolds, word_b2n, BitVec.slt_eq_decide]
theorem condHolds_sge (a b : Word) : word (b2n (condHolds 3 a b)) = if b.toInt ≤ a.toInt then 1 else 0 := by
  simp [condHolds, word_b2n, BitVec.slt_eq_decide]
theorem condHolds_ult (a b : Word) : word (b2n (condHolds 4 a b)) = if a.toNat < b.toNat then 1 else 0 := by
  simp [condHolds, word_b2n, BitVec.ult_eq_decide]
theorem condHolds_uge (a b : Word) : word (b2n (condHolds 5 a b)) = if b.toNat ≤ a.toNat then 1 else 0 := by
  simp [condHolds, word_b2n, BitVec.ult_eq_decide]

/-- addpc counts in parcels from its own address. -/
theorem ofInt_mul_four (u : BitVec 16) : BitVec.ofInt 64 (u.toInt * 4) = u.signExtend 64 * 4 := by
  rw [BitVec.ofInt_mul]
  rfl

/-- Settles O1: the value of each instruction, and the selectors that no encoding holds. -/
theorem integerResults : Obligations.IntegerResults := by
  intro s f i u a b d x
  have shift (kind : Nat) : shiftBy kind a (b.toNat % 64) = shiftBy kind a (b.extractLsb' 0 6).toNat := by rw [toNat_mod_64]
  refine ⟨fun ha hb hd => ?_, fun hx hd => ?_, fun hd => ?_, wellFormed_logi_unlisted, wellFormed_shi_reserved,
    FA.dab_eq_false, FA.dab_eq_false⟩
  · have two {v : Word} {op : Word → Word → Word} (hv : op a b = v) := finish_binary_full ha hb hd hv
    exact ⟨two rfl, two rfl, two rfl, two rfl, two rfl, two (shift 0), two (shift 1), two (shift 2), two rfl,
      fun h => two (by rw [h]; exact mulHigh_signed a b), fun h => two (by rw [h]; exact mulHigh_unsigned a b),
      fun h => two (by rw [h]; exact mulHigh_mixed a b),
      fun h => two (by rw [h]; exact minMax_zero a b), fun h => two (by rw [h]; exact minMax_one a b),
      fun h => two (by rw [h]; exact minMax_two a b), fun h => two (by rw [h]; exact minMax_three a b),
      fun h => two (by rw [h]; exact condHolds_eq a b), fun h => two (by rw [h]; exact condHolds_ne a b),
      fun h => two (by rw [h]; exact condHolds_slt a b), fun h => two (by rw [h]; exact condHolds_sge a b),
      fun h => two (by rw [h]; exact condHolds_ult a b), fun h => two (by rw [h]; exact condHolds_uge a b),
      exec_sel_full ha hb hd⟩
  · have one {v : Word} {op : Word → Word} (hv : op x = v) := finish_immediate_full hx hd hv
    exact ⟨one rfl, fun h => one (by rw [h]; rfl), fun h => one (by rw [h]; rfl), fun h => one (by rw [h]; rfl),
      fun h => one (by rw [h]; rfl), fun h => one (by rw [h]; rfl), fun h => one (by rw [h]; rfl),
      fun h => one (by rw [h]; rfl)⟩
  · exact ⟨finish_result_settled hd rfl, finish_result_settled hd (by rw [ofInt_mul_four])⟩

end Sys2Proof.Machine

namespace Sys2Proof.Machine

/-! ## Quotients and remainders (R220) -/

theorem divide_signed {a b : Word} (hb : b ≠ 0) : divide false a b = BitVec.ofInt 64 (a.toInt.tdiv b.toInt) := by
  have quotient : divide false a b = a.sdiv b := if_neg (by simpa using hb)
  rw [quotient]
  apply BitVec.eq_of_toInt_eq
  rw [BitVec.toInt_sdiv, BitVec.toInt_ofInt]

theorem remainder_signed {a b : Word} (hb : b ≠ 0) :
    remainder false a b = BitVec.ofInt 64 (a.toInt - b.toInt * a.toInt.tdiv b.toInt) := by
  have rest : remainder false a b = a.srem b := if_neg (by simpa using hb)
  rw [rest, ← Int.tmod_def, ← BitVec.toInt_srem, BitVec.ofInt_toInt]

theorem divide_unsigned {a b : Word} (hb : b ≠ 0) : divide true a b = BitVec.ofNat 64 (a.toNat / b.toNat) := by
  have quotient : divide true a b = a / b := if_neg (by simpa using hb)
  rw [quotient, BitVec.udiv_def]

theorem remainder_unsigned {a b : Word} (hb : b ≠ 0) :
    remainder true a b = BitVec.ofNat 64 (a.toNat - b.toNat * (a.toNat / b.toNat)) := by
  have rest : remainder true a b = a % b := if_neg (by simpa using hb)
  rw [rest, BitVec.umod_def, Nat.mod_def]

/-- Settles O2: by the divisor and the sign; the corner cases are values. -/
theorem divisionResults : Obligations.DivisionResults := by
  intro s f a b ha hb hd
  have two {v : Word} {op : Word → Word → Word} (hv : op a b = v) := finish_binary_full ha hb hd hv
  refine ⟨fun h0 h => ⟨two ?_, two ?_⟩, fun h0 h => ⟨two ?_, two ?_⟩, fun h0 _ => ⟨two ?_, two ?_⟩,
    fun hmin hneg h => ⟨two ?_, two ?_⟩, fun hmin hneg h => ⟨two ?_, two ?_⟩, fun h => ⟨FA.dab_eq_false h, FA.dab_eq_false h⟩⟩
  · rw [h]; exact divide_signed h0
  · rw [h]; exact remainder_signed h0
  · rw [h]; exact divide_unsigned h0
  · rw [h]; exact remainder_unsigned h0
  · rw [h0]; rfl
  · rw [h0]; rfl
  all_goals
    rw [h, hmin, hneg]
    decide

/-! ## The scalar FP32 instructions (R221 to R224) -/

theorem exec_ffma_full {s : State} {f : FA} {a b d : Word} (ha : s.source f.a a) (hb : s.source f.b b)
    (hd : s.settled (.g f.d.toNat)) (h : s.source f.d d) :
    exec (.ffma f) s = .next (s.gains f.d 4 (word (fp32.round s.self.rnd
      ((if f.fn == 1 then ((f32 a).mul (f32 b)).negate else (f32 a).mul (f32 b)).add s.self.rnd.mode (f32 d))))) := by
  rw [exec_ffma, execFfma, State.scalarFma, srcG_full ha, srcG_full hb, srcG_full h]
  exact finish_result_settled hd rfl

/-- fcvt has one source. -/
theorem exec_fcvt_full {s : State} {f : FA} {a : Word} {n : Nat} (ha : s.source f.a a) (hd : s.settled (.g f.d.toNat))
    (hv : fcvtResult f.fn.toNat s.self.rnd a = n) : exec (.fcvt f) s = .next (s.gains f.d 4 (word n)) := by
  rw [exec_fcvt, execFcvt, State.fcvt, srcG_full ha]
  exact finish_result_settled hd (by rw [hv])

theorem exec_fops_full {s : State} {f : FA} {a b : Word} {n : Nat} (ha : s.source f.a a) (hb : s.source f.b b)
    (hd : s.settled (.g f.d.toNat)) (hv : fopsResult f.fn.toNat s.self.rnd (f32 a) (f32 b) = n) :
    exec (.fops f) s = .next (s.gains f.d 4 (word n)) :=
  finish_binary_full ha hb hd (congrArg word hv)

theorem exec_fcmp_full {s : State} {f : FA} {a b : Word} {c : Bool} (ha : s.source f.a a) (hb : s.source f.b b)
    (hd : s.settled (.g f.d.toNat)) (hv : fcmpHolds f.fn.toNat (f32 a) (f32 b) = c) :
    exec (.fcmp f) s = .next (s.gains f.d 4 (if c then 1 else 0)) :=
  finish_binary_full ha hb hd (by rw [hv, word_b2n])

/-- Two values are unordered when either is a NaN (R223). -/
theorem fcmpHolds_un (x y : FV) : fcmpHolds 3 x y = (x.isNan || y.isNan) := by
  show (!(!x.isNan && !y.isNan)) = _
  rw [Bool.not_and, Bool.not_not, Bool.not_not]

theorem wellFormed_fops_root {f : FA} (h : f.fn = 4) (hb : f.b ≠ 0) : wellFormed (.fops f) = false := by
  show (f.dab 6 && (f.fn != 4 || f.b == 0)) = false
  rw [h, beq_eq_false_iff_ne.2 hb]
  exact Bool.and_false _

theorem wellFormed_fops_unlisted {f : FA} (h : f.fn = 7) : wellFormed (.fops f) = false := by
  show (f.dab 6 && (f.fn != 4 || f.b == 0)) = false
  rw [FA.dab_eq_false (by rw [h]; decide), Bool.false_and]

/-- Settles O3: the value of each form, under the rounding that the strand's registers give. -/
theorem scalarFloatResults : Obligations.ScalarFloatResults := by
  intro s f a b d r x y z ha hb hd
  have ops {n : Nat} (hv : fopsResult f.fn.toNat r x y = n) := exec_fops_full ha hb hd hv
  have cmp {c : Bool} (hv : fcmpHolds f.fn.toNat x y = c) := exec_fcmp_full ha hb hd hv
  have cvt {n : Nat} (hv : fcvtResult f.fn.toNat r a = n) := exec_fcvt_full ha hd hv
  exact ⟨fun h => ops (by rw [h]; rfl), fun h => ops (by rw [h]; rfl), fun h => ops (by rw [h]; rfl),
    fun h => ops (by rw [h]; rfl), fun h => ops (by rw [h]; rfl), fun h => ops (by rw [h]; rfl),
    fun h => ops (by rw [h]; rfl),
    fun h h0 => by rw [exec_ffma_full ha hb hd h, h0]; rfl, fun h h1 => by rw [exec_ffma_full ha hb hd h, h1]; rfl,
    fun h => cmp (by rw [h]; rfl), fun h => cmp (by rw [h]; rfl), fun h => cmp (by rw [h]; rfl),
    fun h => cmp (by rw [h]; exact fcmpHolds_un x y),
    fun h => cvt (by rw [h]; rfl), fun h => cvt (by rw [h]; rfl), fun h => cvt (by rw [h]; rfl),
    fun h => cvt (by rw [h]; rfl), fun h => cvt (by rw [h]; rfl), fun h => cvt (by rw [h]; rfl),
    wellFormed_fops_unlisted, wellFormed_fops_root, FA.dab_eq_false, FA.dab_eq_false, FA.da_eq_false⟩

end Sys2Proof.Machine

/-! PROOF. O4 to O6: transfers of control, the loop stack, full/empty control. -/

namespace Sys2Proof.Machine

/-! ## Transfers of control (R225 to R227) -/

/-- A branch that is decided is one change of its strand. -/
theorem finish_branchIf (s t : State) (taken : Bool) (go : Word) : finish s (.ok (t.branchIf 4 taken go)) =
    .next (t.mapSelf (fun st => if taken then st.branch go else st.advance 4)) := by
  cases taken <;> rfl

/-- A target: twice the signed offset, from the branch's own address (02 R52). -/
theorem target_eq {n : Nat} (pc : Word) (off : BitVec n) : target pc off = pc + off.signExtend 64 * 2 := by
  rw [target, Int.mul_comm, BitVec.ofInt_mul]
  rfl

section Branches
variable {s : State} {f : FB} {a : Word}

/-- The conditions that read g[a]: 0 to 5 compare it with zero. -/
theorem exec_br_full (ha : s.source f.a a) (h : f.cond.toNat < 6) {c : Bool} (hc : zeroCond f.cond.toNat a = c) :
    exec (.br f) s = .next (s.mapSelf (fun st =>
      if c then st.branch (s.self.pc + f.off.signExtend 64 * 2) else st.advance 4)) := by
  rw [exec_br, execBr, State.br, if_neg (by omega), if_neg (by omega), srcG_full ha, except_ok_bind, hc, target_eq]
  exact finish_branchIf ..

theorem exec_br_empty (ha : s.self.gIsFull f.a.toNat = false) (h : f.cond.toNat < 6) :
    exec (.br f) s = .next (s.mapSelf (fun st => { st with wait := some .retry })) := by
  rw [exec_br, execBr, State.br, if_neg (by omega), if_neg (by omega), srcG_empty ha]
  rfl

/-- brb decrements g[a] and tests what it wrote. -/
theorem exec_brb_full (ha : s.source f.a a) {c : Bool}
    (hc : (if f.cond == 1 then (0 : Word).slt (a - 1) else a - 1 != 0) = c) :
    exec (.brb f) s = .next (s.mapSelf (fun st => let x := st.setG f.a.toNat (a - 1)
      if c then x.branch (s.self.pc + f.off.signExtend 64 * 2) else x.advance 4)) := by
  rw [exec_brb, execBrb, State.brb, srcG_full ha, except_ok_bind]
  dsimp only
  rw [hc, target_eq]
  exact finish_branchIf ..

theorem exec_brb_empty (ha : s.self.gIsFull f.a.toNat = false) :
    exec (.brb f) s = .next (s.mapSelf (fun st => { st with wait := some .retry })) := by
  rw [exec_brb, execBrb, State.brb, srcG_empty ha]
  rfl

theorem wellFormed_brb_unlisted (h : f.a = 0 ∨ 2 ≤ f.cond.toNat) : wellFormed (.brb f) = false := by
  show (f.a.isG && f.a != 0 && f.cond.toNat ≤ 1) = false
  obtain h | h := h
  · simp [h]
  · simp [Nat.not_le.2 h]

end Branches

theorem exec_jr_aligned {s : State} {r : FA} {a : Word} (ha : s.source r.a a) (h0 : a.getLsbD 0 = false)
    (hd : s.settled (.g r.d.toNat)) :
    exec (.jr r) s = .next (s.mapSelf (fun st => (st.setG r.d.toNat (st.pc + 4)).goto a)) := by
  rw [exec_jr, execJr, State.jr, srcG_full ha, except_ok_bind, h0, destFree_settled hd]
  rfl

/-- An odd target faults before the link is written, and before its producer is awaited. -/
theorem exec_jr_odd {s : State} {r : FA} {a : Word} (ha : s.source r.a a) (h0 : a.getLsbD 0 = true) :
    exec (.jr r) s = .next (s.raise ALIGN a) := by
  rw [exec_jr, execJr, State.jr, srcG_full ha, except_ok_bind, h0]
  rfl

/-- Settles O4: condition by condition. -/
theorem transfersOfControl : Obligations.TransfersOfControl := by
  intro s f j r a t jt go brb
  refine ⟨fun ha => ?_, fun he => ⟨exec_br_empty he, exec_brb_empty he⟩, wellFormed_brb_unlisted, fun h => ?_, fun h => ?_, ?_,
    fun hd => ?_, exec_jr_aligned, exec_jr_odd, rfl⟩
  · have br {c : Bool} (n : Nat) (h : f.cond.toNat = n) (hn : n < 6) (hc : zeroCond n a = c) : exec (.br f) s = go c :=
      exec_br_full ha (h ▸ hn) (h ▸ hc)
    have back {c : Bool} (hc : (if f.cond == 1 then (0 : Word).slt (a - 1) else a - 1 != 0) = c) : exec (.brb f) s = brb c :=
      exec_brb_full ha hc
    refine ⟨fun h => br 0 (by rw [h]; rfl) (by decide) ?_, fun h => br 1 (by rw [h]; rfl) (by decide) ?_,
      fun h => br 2 (by rw [h]; rfl) (by decide) ?_, fun h => br 3 (by rw [h]; rfl) (by decide) ?_,
      fun h => br 4 (by rw [h]; rfl) (by decide) ?_, fun h => br 5 (by rw [h]; rfl) (by decide) ?_,
      fun h => back ?_, fun h => back ?_⟩
    all_goals
      rw [Bool.eq_iff_iff]
      simp [zeroCond, BitVec.slt_eq_decide, h]
  · rw [exec_br, execBr, State.br, if_pos (by rw [h]; rfl), target_eq]
    exact finish_branchIf ..
  · rw [exec_br, execBr, State.br, if_neg (by rw [h]; decide), if_pos (by rw [h]; rfl), target_eq]
    exact finish_branchIf ..
  · rw [exec_jmp, execJmp, target_eq, finish_ok]
  · rw [exec_jal, execJal, State.jal, destFree_settled hd, target_eq]
    rfl

end Sys2Proof.Machine

namespace Sys2Proof.Machine

/-! ## Loop levels (R228 to R230) -/

section Push
variable {s : State} {f : FL} {c : Word}

/-- The end of a loop's body: behind it, counted from the first instruction after the loop's own. -/
def loopEnd (s : State) (f : FL) : Word := s.self.pc + 4 + word (2 * f.body.toNat)

theorem pushLoop_skips (hc : c = 0) (h : f.flags.getLsbD 1 = true) :
    s.pushLoop c f = .ok (s.mapSelf (fun st => st.branch (loopEnd s f))) := by
  rw [State.pushLoop, hc, h]
  rfl

theorem pushLoop_noPasses (hc : c = 0) (h : f.flags.getLsbD 1 = false) :
    s.pushLoop c f = .error (.fault LOOP_DEPTH 0) := by
  rw [State.pushLoop, hc, h]
  rfl

theorem pushLoop_tooDeep (hc : c ≠ 0) (h : s.self.loops.length = 6) : s.pushLoop c f = .error (.fault LOOP_DEPTH 6) := by
  rw [State.pushLoop, beq_eq_false_iff_ne.2 hc, Strand.ldepth, h]
  rfl

/-- A level that ends inside the one around it, unless that one is frozen or there is none. -/
theorem pushLoop_inside (hc : c ≠ 0) (hlen : s.self.loops.length < 6)
    (h : ∀ l, s.self.loops.getLast? = some l → s.self.frozen < s.self.loops.length → (loopEnd s f).toNat ≤ l.stop.toNat) :
    s.pushLoop c f = .ok (s.mapSelf (fun st => { st.goto (st.pc + 4) with
      loops := st.loops ++ [{ start := st.pc + 4, stop := loopEnd s f, count := c
                              index := if f.flags.getLsbD 0 then c - 1 else 0, down := f.flags.getLsbD 0 }] })) := by
  have inside : (match s.self.loops.getLast? with
      | some l => decide (s.self.ldepth ≤ s.self.frozen) || decide ((loopEnd s f).toNat ≤ l.stop.toNat)
      | none => true) = true := by
    split
    next l hl =>
      rw [Bool.or_eq_true, decide_eq_true_iff, decide_eq_true_iff]
      exact (Nat.lt_or_ge s.self.frozen s.self.loops.length).symm.imp_right (h l hl)
    next => rfl
  rw [State.pushLoop, beq_eq_false_iff_ne.2 hc, Strand.ldepth, bne_iff_ne.2 hlen.ne]
  exact congrArg (fun b => need b LOOP_DEPTH (loopEnd s f) >>= fun _ => _) inside

theorem pushLoop_outside (hc : c ≠ 0) (hlen : s.self.loops.length < 6) {l : LoopLevel} (hl : s.self.loops.getLast? = some l)
    (hfrozen : s.self.frozen < s.self.loops.length) (h : l.stop.toNat < (loopEnd s f).toNat) :
    s.pushLoop c f = .error (.fault LOOP_DEPTH (loopEnd s f)) := by
  have outside : (decide (s.self.loops.length ≤ s.self.frozen) || decide ((loopEnd s f).toNat ≤ l.stop.toNat)) = false := by
    rw [decide_eq_false (Nat.not_le.2 hfrozen), decide_eq_false (Nat.not_le.2 h)]
    rfl
  rw [State.pushLoop, beq_eq_false_iff_ne.2 hc, Strand.ldepth, bne_iff_ne.2 hlen.ne, hl]
  exact congrArg (fun b => need b LOOP_DEPTH (loopEnd s f) >>= fun _ => _) outside

end Push

theorem exec_loopR_full {s : State} {f : FL} {c : Word} (h : s.source f.count c) :
    exec (.loopR f) s = finish s (s.pushLoop c f) := by
  rw [exec_loopR, execLoop, State.loop, srcG_full h, except_ok_bind]

theorem exec_loopR_empty {s : State} {f : FL} (h : s.self.gIsFull f.count.toNat = false) :
    exec (.loopR f) s = .next (s.mapSelf (fun st => { st with wait := some .retry })) := by
  rw [exec_loopR, execLoop, State.loop, srcG_empty h]
  rfl

theorem wellFormed_loopR_unlisted {f : FL} (h : 32 ≤ f.count.toNat) : wellFormed (.loopR f) = false := by
  show (f.shape && decide (f.count.toNat < 32)) = false
  rw [decide_eq_false (Nat.not_lt.2 h), Bool.and_false]

/-- loopi: a count of 0 stands for 64. -/
theorem exec_loopi_counts (s : State) {f : FL} (h : f.flags.getLsbD 1 = false) :
    exec (.loopi f) s = finish s (s.pushLoop (if f.count = 0 then 64 else f.count.setWidth 64) f) := by
  rw [exec_loopi, execLoopi, State.loopi, h]
  by_cases h0 : f.count = 0 <;> simp [h0]

theorem exec_loopi_zeroTrip (s : State) {f : FL} (h : f.flags.getLsbD 1 = true) :
    exec (.loopi f) s = .next (s.raise ILL_FIELD s.self.pc) := by
  rw [exec_loopi, execLoopi, State.loopi, h]
  rfl

theorem exec_lexit_leaves {s : State} {x : FA} {l : LoopLevel} (hn : x.fn.toNat + 1 ≤ s.self.loops.length - s.self.frozen)
    (hl : s.self.loops[s.self.loops.length - (x.fn.toNat + 1)]? = some l) :
    exec (.lexit x) s = .next (s.mapSelf (fun st =>
      { st.goto l.stop with loops := st.loops.take (st.loops.length - (x.fn.toNat + 1)) })) := by
  rw [exec_lexit, execLexit, State.lexit, Strand.ldepth, decide_eq_true hn, hl]
  rfl

theorem exec_lexit_tooMany {s : State} {x : FA} (hn : s.self.loops.length - s.self.frozen < x.fn.toNat + 1) :
    exec (.lexit x) s = .next (s.raise LOOP_DEPTH (word (x.fn.toNat + 1))) := by
  rw [exec_lexit, execLexit, State.lexit, Strand.ldepth, decide_eq_false (Nat.not_le.2 hn)]
  rfl

theorem exec_lidx_level {s : State} {x : FA} {l : LoopLevel} (hl : s.self.loops[x.fn.toNat]? = some l)
    (hd : s.settled (.g x.d.toNat)) : exec (.lidx x) s = .next (s.gains x.d 4 l.index) := by
  rw [exec_lidx, execLidx, State.lidx, hl]
  exact finish_result_settled hd rfl

theorem exec_lidx_noLevel {s : State} {x : FA} (h : s.self.loops.length ≤ x.fn.toNat) :
    exec (.lidx x) s = .next (s.raise LOOP_DEPTH (word x.fn.toNat)) := by
  rw [exec_lidx, execLidx, State.lidx, List.getElem?_eq_none h]
  rfl

theorem wellFormed_lexit_unlisted {x : FA} (h : 6 ≤ x.fn.toNat) : wellFormed (.lexit x) = false := by
  show x.none 5 = false
  simp [FA.none, Nat.not_le.2 h]

theorem wellFormed_lidx_unlisted {x : FA} (h : 6 ≤ x.fn.toNat) : wellFormed (.lidx x) = false := by
  show (decide (x.fn.toNat ≤ 5) && x.b == 0 && x.a == 0 && x.d.isG) = false
  simp [Nat.not_le.2 h]

/-! ## The back-edge test (R215) -/

/-- A level has a further pass. -/
def LoopLevel.more (l : LoopLevel) : Bool := if l.down then 0 < l.index.toNat else l.index.toNat + 1 < l.count.toNat
/-- A level at the start of its next pass. -/
def LoopLevel.next (l : LoopLevel) : LoopLevel := { l with index := if l.down then l.index - 1 else l.index + 1 }

theorem backEdge_nil (frozen fuel : Nat) (next : Word) : backEdge frozen next fuel [] = ([], next, false) := by
  cases fuel <;> rfl

/-- One round of the test, on the innermost level. -/
theorem backEdge_concat (frozen fuel : Nat) (next : Word) (ls : List LoopLevel) (l : LoopLevel) :
    backEdge frozen next (fuel + 1) (ls ++ [l]) =
      if ls.length + 1 ≤ frozen ∨ next ≠ l.stop then (ls ++ [l], next, false)
      else if l.more then (ls ++ [l.next], l.start, true) else backEdge frozen next fuel ls := by
  have more : ((!l.down && decide (l.index.toNat + 1 < l.count.toNat)) || (l.down && decide (0 < l.index.toNat))) = l.more := by
    unfold LoopLevel.more
    cases l.down <;> simp
  rw [backEdge, List.getLast?_concat]
  simp only [List.length_append, List.length_singleton, Bool.or_eq_true, decide_eq_true_eq, bne_iff_ne, List.dropLast_concat]
  rw [← more]
  simp only [Bool.or_eq_true]
  rfl

/-- Any fuel that covers the levels gives the same answer. -/
theorem backEdge_fuel (frozen : Nat) (next : Word) (ls : List LoopLevel) : ∀ {n m : Nat}, ls.length ≤ n → ls.length ≤ m →
    backEdge frozen next n ls = backEdge frozen next m ls := by
  induction ls using List.reverseRecOn with
  | nil => intro n m _ _; rw [backEdge_nil, backEdge_nil]
  | append_singleton ls l ih =>
    intro n m hn hm
    rw [List.length_append, List.length_singleton] at hn hm
    obtain ⟨n, rfl⟩ := Nat.exists_eq_succ_of_ne_zero (by omega : n ≠ 0)
    obtain ⟨m, rfl⟩ := Nat.exists_eq_succ_of_ne_zero (by omega : m ≠ 0)
    rw [Nat.succ_eq_add_one, Nat.succ_eq_add_one, backEdge_concat, backEdge_concat, ih (by omega : _ ≤ n) (by omega : _ ≤ m)]

section Rounds
variable {frozen n : Nat} {next : Word} {stack ls : List LoopLevel} {l : LoopLevel} (hs : stack = ls ++ [l])
include hs

theorem backEdge_elsewhere (h : next ≠ l.stop) : backEdge frozen next (n + 1) stack = (stack, next, false) := by
  rw [hs, backEdge_concat, if_pos (.inr h)]

theorem backEdge_again (hf : frozen < ls.length + 1) (h : next = l.stop) (hm : l.more = true) :
    backEdge frozen next (n + 1) stack = (ls ++ [l.next], l.start, true) := by
  rw [hs, backEdge_concat, if_neg (not_or.2 ⟨Nat.not_le.2 hf, not_not.2 h⟩), if_pos hm]

/-- A level without a further pass is left, and the test goes on with the level outside it. -/
theorem backEdge_leaves (hf : frozen < ls.length + 1) (h : next = l.stop) (hm : l.more = false) (hn : ls.length ≤ n) :
    backEdge frozen next (n + 1) stack = backEdge frozen next (n + 1) ls := by
  rw [hs, backEdge_concat, if_neg (not_or.2 ⟨Nat.not_le.2 hf, not_not.2 h⟩), if_neg (ne_true_of_eq_false hm),
    backEdge_fuel frozen next ls hn (Nat.le_succ_of_le hn)]

end Rounds

theorem backEdge_frozen (frozen fuel : Nat) (next : Word) {ls : List LoopLevel} (h : ls = [] ∨ ls.length ≤ frozen) :
    backEdge frozen next fuel ls = (ls, next, false) := by
  obtain rfl | ⟨ls, l, rfl⟩ := List.eq_nil_or_concat' ls
  · exact backEdge_nil ..
  · obtain _ | fuel := fuel
    · rfl
    · rw [backEdge_concat, if_pos]
      exact .inl (by simpa using h)

/-- What an instruction that retires leaves is what the test answers. -/
theorem advance_of_backEdge {st : Strand} {len : Nat} {ls : List LoopLevel} {next : Word} {back : Bool}
    (h : backEdge st.frozen (st.pc + word len) 6 st.loops = (ls, next, back)) :
    (st.advance len).pc = next ∧ (st.advance len).loops = ls ∧ (st.advance len).pcnt = if back then 0 else st.pcnt + 1 := by
  rw [Strand.advance, h]
  exact ⟨rfl, rfl, rfl⟩

/-- Two stacks for which the test answers the same leave the strand at the same place. -/
theorem advance_of_backEdge_eq {st : Strand} {len : Nat} {ls : List LoopLevel}
    (h : backEdge st.frozen (st.pc + word len) 6 st.loops = backEdge st.frozen (st.pc + word len) 6 ls) :
    (st.advance len).pc = (Strand.advance { st with loops := ls } len).pc ∧
      (st.advance len).loops = (Strand.advance { st with loops := ls } len).loops ∧
      (st.advance len).pcnt = (Strand.advance { st with loops := ls } len).pcnt := by
  rw [Strand.advance, h]
  exact ⟨rfl, rfl, rfl⟩

/-- Settles O5: each check of the loop instructions in its turn, then the rounds of the back-edge test. -/
theorem loopInstructions : Obligations.LoopInstructions := by
  constructor
  · intro s f x c e first pushed push
    have pushes (i : Instr) (hi : exec i s = finish s (s.pushLoop c f)) : push i := by
      refine ⟨fun hc h => ?_, fun hc h => ?_, fun hc h => ?_, fun hc h hin => ?_, fun l hc h hl hf hout => ?_⟩
      · rw [hi, pushLoop_skips hc h]
        rfl
      · rw [hi, pushLoop_noPasses hc h]
        rfl
      · rw [hi, pushLoop_tooDeep hc h]
        rfl
      · rw [hi, pushLoop_inside hc h hin]
        rfl
      · rw [hi, pushLoop_outside hc h hl hf hout]
        rfl
    exact ⟨fun h => pushes _ (exec_loopR_full h), exec_loopR_empty, wellFormed_loopR_unlisted,
      fun h hc => pushes _ (hc ▸ exec_loopi_counts s h), exec_loopi_zeroTrip s, fun _ => exec_lexit_leaves,
      exec_lexit_tooMany, fun _ => exec_lidx_level, exec_lidx_noLevel,
      fun h => ⟨wellFormed_lexit_unlisted h, wellFormed_lidx_unlisted h⟩⟩
  · intro st len ls l next more index hlen
    have depth (hl : st.loops = ls ++ [l]) : st.loops.length = ls.length + 1 := by rw [hl, List.length_append, List.length_singleton]
    refine ⟨fun h => advance_of_backEdge (backEdge_frozen _ _ _ h), fun hl hstop => ?_, fun hl hf hstop hmore => ?_,
      fun hl hf hstop hmore => ?_⟩
    · exact advance_of_backEdge (backEdge_elsewhere hl hstop)
    · rw [depth hl] at hf
      exact advance_of_backEdge (backEdge_again hl hf hstop hmore)
    · rw [depth hl] at hf hlen
      exact advance_of_backEdge_eq (backEdge_leaves hl hf hstop hmore (Nat.le_of_succ_le_succ hlen))

end Sys2Proof.Machine

namespace Sys2Proof.Machine

/-! ## Full/empty control (R231) -/

/-- Refutes O6: `fe.fill` of the field value 32, which names no register (02 R54), fills nothing. The statement lacks the
hypothesis that the instruction is well formed (`f.d.toNat < 32`). -/
theorem not_fullEmptyAndControl : ¬ Obligations.FullEmptyAndControl := by
  intro h
  obtain ⟨-, fill, -⟩ := h State.reset { fn := 1, d := 32 } {} 0
  obtain ⟨t, ht, -, full, -⟩ := fill rfl rfl
  have left : t.self.gFull = State.reset.self.gFull ||| BitVec.twoPow 32 32 := by
    rw [exec_fe] at ht
    rw [← Host.Outcome.next.inj ht]
    rfl
  rw [Strand.gIsFull, left] at full
  exact absurd full (by decide)

end Sys2Proof.Machine

/-! PROOF. O7: the classes of faults. -/

namespace Sys2Proof.Machine

/-- A strand that is amid a cpub, one of whose lines, line 0, it has published (08 R274). -/
def amidPublish : State := { State.reset with self := { cleared := [0] } }

/-- Refutes O7: a fault that ends the launch also makes a strand amid a cpub, a fefill or a tsplit forget the parts it has
done (`endLaunch_self`), where the statement has the rest of the strand as it was. -/
theorem not_trapEntryAndReturn : ¬ Obligations.TrapEntryAndReturn := by
  intro h
  obtain ⟨-, classes⟩ := h
  obtain ⟨-, -, -, -, -, -, -, -, -, ends⟩ := classes amidPublish {} PRIV 0
  rw [endLaunch_self] at ends
  exact absurd (congrArg Strand.cleared ends) (by decide)

end Sys2Proof.Machine

/-! PROOF. O52: words of the encoding tables. -/

namespace Sys2Proof

/-- Settles O52: the decoder evaluates each of them. -/
theorem exampleWordsDecode : Obligations.ExampleWordsDecode := by
  unfold Obligations.ExampleWordsDecode
  decide

end Sys2Proof

/-! PROOF. O58: what the sequencer's instructions leave as it was. A result keeps the frame of each operation it is made of
(`State.Frame`), and a stop keeps what `State.Calm` says. -/

namespace Sys2Proof.Machine

/-! ## Frames of strands and states -/

/-- A strand that goes on with its engines, its control registers and its trap registers as they were, and with every g
register but those written: its program counter, its loop stack and its bookkeeping may differ. -/
structure Strand.Frame (written : Nat → Prop) (a b : Strand) : Prop where
  engines : a.sameEngines b
  control : a.sameControl b
  trap : a.sameTrap b
  others : ∀ r, ¬ written r → b.readG r = a.readG r ∧ b.gIsFull r = a.gIsFull r

/-- A state that differs at most in such a strand, and in what a stop records. -/
structure State.Frame (written : Nat → Prop) (s t : State) : Prop where
  aside : s.Aside t
  strand : s.self.Frame written t.self

section Strands
variable {w : Nat → Prop} {a b c : Strand}

theorem Strand.sameEngines.trans (h : a.sameEngines b) (g : b.sameEngines c) : a.sameEngines c := by
  simp only [Strand.sameEngines] at *
  simp only [h, g, and_self]

theorem Strand.sameControl.trans (h : a.sameControl b) (g : b.sameControl c) : a.sameControl c := by
  simp only [Strand.sameControl] at *
  simp only [h, g, and_self]

theorem Strand.sameTrap.trans (h : a.sameTrap b) (g : b.sameTrap c) : a.sameTrap c := by
  simp only [Strand.sameTrap] at *
  simp only [h, g, and_self]

theorem Strand.Frame.trans (h : a.Frame w b) (g : b.Frame w c) : a.Frame w c where
  engines := h.engines.trans g.engines
  control := h.control.trans g.control
  trap := h.trap.trans g.trap
  others r hr := ⟨(g.others r hr).1.trans (h.others r hr).1, (g.others r hr).2.trans (h.others r hr).2⟩

theorem frame_advance (w : Nat → Prop) (st : Strand) (n : Nat) : st.Frame w (st.advance n) :=
  ⟨⟨rfl, rfl, rfl, rfl, rfl, rfl, rfl, rfl, rfl, rfl, rfl, rfl⟩, ⟨rfl, rfl, rfl, rfl, rfl⟩,
    ⟨rfl, rfl, rfl, rfl, rfl, rfl, rfl, rfl⟩, fun _ _ => ⟨rfl, rfl⟩⟩

/-- A transfer of control, whatever it makes of the loop stack. -/
theorem frame_goto (w : Nat → Prop) (st : Strand) (t : Word) (ls : List LoopLevel) :
    st.Frame w { st.goto t with loops := ls } :=
  ⟨⟨rfl, rfl, rfl, rfl, rfl, rfl, rfl, rfl, rfl, rfl, rfl, rfl⟩, ⟨rfl, rfl, rfl, rfl, rfl⟩,
    ⟨rfl, rfl, rfl, rfl, rfl, rfl, rfl, rfl⟩, fun _ _ => ⟨rfl, rfl⟩⟩

/-- A change of the g registers and their full bits alone. -/
theorem frame_of_g (hb : b = { a with g := b.g, gFull := b.gFull })
    (h : ∀ r, ¬ w r → b.readG r = a.readG r ∧ b.gIsFull r = a.gIsFull r) : a.Frame w b where
  engines := by rw [hb]; exact ⟨rfl, rfl, rfl, rfl, rfl, rfl, rfl, rfl, rfl, rfl, rfl, rfl⟩
  control := by rw [hb]; exact ⟨rfl, rfl, rfl, rfl, rfl⟩
  trap := by rw [hb]; exact ⟨rfl, rfl, rfl, rfl, rfl, rfl, rfl, rfl⟩
  others := h

theorem frame_setG (st : Strand) (d : Nat) (v : Word) : st.Frame (· = d) (st.setG d v) :=
  frame_of_g (by unfold Strand.setG; split <;> rfl) fun r hr => ⟨readG_setG_ne st d r v hr, gIsFull_setG_ne st d r v hr⟩

theorem frame_emptyG (st : Strand) (d : Nat) : st.Frame (· = d) (st.emptyG d) :=
  frame_of_g (by unfold Strand.emptyG; split <;> rfl) fun r hr =>
    ⟨by unfold Strand.emptyG; split <;> rfl, gIsFull_emptyG_ne st d r hr⟩

/-- Marking g[d] full leaves every value, and every other register's fullness. -/
theorem frame_fillG (st : Strand) (d : Nat) : st.Frame (· = d) { st with gFull := st.gFull ||| BitVec.twoPow 32 d } :=
  frame_of_g rfl fun r hr => ⟨rfl, by simp [Strand.gIsFull, BitVec.getLsbD_twoPow, Ne.symm hr]⟩

end Strands

section States
variable {w : Nat → Prop} {s : State}

theorem frame_mapSelf {f : Strand → Strand} (h : s.self.Frame w (f s.self)) : s.Frame w (s.mapSelf f) :=
  ⟨(State.Aside.refl s).mapSelf f, h⟩

theorem frame_gains (s : State) (d : Reg) (len : Nat) (v : Word) : s.Frame (· = d.toNat) (s.gains d len v) :=
  frame_mapSelf ((frame_setG ..).trans (frame_advance ..))

theorem frame_branchIf (s : State) (len : Nat) (taken : Bool) (t : Word) : s.Frame w (s.branchIf len taken t) := by
  cases taken
  · exact frame_mapSelf (f := (·.advance len)) (frame_advance ..)
  · exact frame_mapSelf (f := (·.branch t)) (frame_goto ..)

/-! ## What each instruction keeps -/

theorem keeps_result_frame (trap : Bool) (d : Reg) (len : Nat) (v : Word) :
    s.Keeps trap (s.Frame (· = d.toNat)) (s.result d len v) :=
  keeps_mono (keeps_result ..) fun _ h => h ▸ frame_gains ..

theorem keeps_binary_frame (len : Nat) (f : FA) (op : Word → Word → Word) :
    s.Keeps f.trap (s.Frame (· = f.d.toNat)) (s.binary len f op) :=
  keeps_mono (keeps_binary ..) fun _ ⟨_, h⟩ => h ▸ frame_gains ..

theorem keeps_immediate_frame (len : Nat) (a d : Reg) (op : Word → Word) :
    s.Keeps false (s.Frame (· = d.toNat)) (s.immediate len a d op) :=
  keeps_mono (keeps_immediate ..) fun _ ⟨_, h⟩ => h ▸ frame_gains ..

theorem keeps_select (f : FA) : s.Keeps f.trap (s.Frame (· = f.d.toNat)) (s.select f) :=
  keeps_bind (keeps_srcG ..) fun _ _ => keeps_bind (keeps_srcG ..) fun _ _ => keeps_bind (keeps_srcG ..) fun _ _ =>
    keeps_result_frame ..

theorem keeps_scalarFma (f : FA) : s.Keeps f.trap (s.Frame (· = f.d.toNat)) (s.scalarFma f) :=
  keeps_bind (keeps_srcG ..) fun _ _ => keeps_bind (keeps_srcG ..) fun _ _ => keeps_bind (keeps_srcG ..) fun _ _ =>
    keeps_result_frame ..

theorem keeps_fcvt (f : FA) : s.Keeps f.trap (s.Frame (· = f.d.toNat)) (s.fcvt f) :=
  keeps_bind (keeps_srcG ..) fun _ _ => keeps_result_frame ..

theorem keeps_fe (trap : Bool) (f : FA) : s.Keeps trap (s.Frame (· = f.d.toNat)) (s.fe f) := by
  unfold State.fe
  split
  · exact keeps_result_frame ..
  · refine keeps_bind (keeps_destFree ..) fun _ _ => frame_mapSelf (.trans ?_ (frame_advance ..))
    split
    · exact frame_emptyG ..
    · exact frame_fillG ..

theorem keeps_lidx (trap : Bool) (len : Nat) (d : Reg) (level : Nat) :
    s.Keeps trap (s.Frame (· = d.toNat)) (s.lidx len d level) := by
  unfold State.lidx
  split
  · exact keeps_result_frame ..
  · exact calm_fault _ _ _ _ (.inr (by decide))

theorem keeps_jr (len : Nat) (d a : Reg) (trap : Bool) : s.Keeps trap (s.Frame (· = d.toNat)) (s.jr len d a trap) :=
  keeps_bind (keeps_srcG ..) fun _ _ => keeps_bind (keeps_need _ _ _ _ _ (by decide)) fun _ _ =>
    keeps_bind (keeps_destFree ..) fun _ _ => frame_mapSelf ((frame_setG ..).trans (frame_goto ..))

theorem keeps_controlAllowed (sel : Nat) : s.Keeps false (fun _ => True) (s.controlAllowed sel) :=
  keeps_mono (keeps_need _ _ _ _ _ (by decide)) fun _ _ => trivial

theorem keeps_getc (f : FU) : s.Keeps false (s.Frame (· = f.d.toNat)) (s.getc f) :=
  keeps_bind (keeps_controlAllowed _) fun _ _ => keeps_result_frame ..

theorem keeps_br (len : Nat) (a : Reg) (cond : Nat) (t : Word) : s.Keeps false (s.Frame w) (s.br len a cond t) := by
  unfold State.br
  split
  · exact frame_branchIf ..
  · split
    · exact frame_branchIf ..
    · exact keeps_bind (keeps_srcG_calm ..) fun _ _ => frame_branchIf ..

theorem keeps_brb (len : Nat) (a : Reg) (gtz : Bool) (t : Word) :
    s.Keeps false (s.Frame (· = a.toNat)) (s.brb len a gtz t) :=
  keeps_bind (keeps_srcG_calm ..) fun x _ =>
    have wrote := frame_mapSelf (s := s) (frame_setG s.self a.toNat (x - 1))
    have went := frame_branchIf (w := (· = a.toNat)) (s.mapSelf (·.setG a.toNat (x - 1))) len
      (if gtz then (0 : Word).slt (x - 1) else x - 1 != 0) t
    keeps_ok ⟨wrote.aside.trans went.aside, wrote.strand.trans went.strand⟩

theorem keeps_jal (t : Word) : s.Keeps false (s.Frame (· = 31)) (s.jal t) :=
  keeps_bind (keeps_destFree ..) fun _ _ => frame_mapSelf ((frame_setG ..).trans (frame_goto ..))

theorem keeps_pushLoop (c : Word) (f : FL) : s.Keeps false (s.Frame w) (s.pushLoop c f) := by
  unfold State.pushLoop
  dsimp only
  split
  · split
    · exact frame_mapSelf (frame_goto ..)
    · exact calm_fault _ _ _ _ (.inr (by decide))
  · exact keeps_bind (keeps_need _ _ _ _ _ (by decide)) fun _ _ => keeps_bind (keeps_need _ _ _ _ _ (by decide)) fun _ _ =>
      frame_mapSelf (frame_goto ..)

theorem keeps_loop (f : FL) : s.Keeps false (s.Frame w) (s.loop f) :=
  keeps_bind (keeps_srcG_calm ..) fun _ _ => keeps_pushLoop ..

theorem keeps_loopi (f : FL) : s.Keeps false (s.Frame w) (s.loopi f) :=
  keeps_bind (keeps_need _ _ _ _ _ (by decide)) fun _ _ => keeps_pushLoop ..

theorem keeps_lexit (n : Nat) : s.Keeps false (s.Frame w) (s.lexit n) := by
  refine keeps_bind (keeps_need _ _ _ _ _ (by decide)) fun _ _ => ?_
  split
  · exact frame_mapSelf (frame_goto ..)
  · exact calm_fault _ _ _ _ (.inr (by decide))

/-- A trap entry that an instruction makes, whether a handler takes it or the launch ends. -/
theorem enter_near (s : State) (kind : BitVec 2) (code : BitVec 8) (taddr handler : Word) :
    s.Aside (s.enter kind code taddr handler) ∧ s.self.Near (s.enter kind code taddr handler).self := by
  obtain ⟨he, hc, hg, hf, hl, hcr, hi, hs⟩ := trapEntry_near s kind code (s.self.pc + 4) taddr handler
  exact ⟨(trapEntry_aside ..).mapSelf _, ⟨he, hc, hg, hf, hl, hcr, hi, hs⟩⟩

theorem keeps_sys (service : BitVec 16) :
    s.Keeps true (fun t => s.Aside t ∧ s.self.Near t.self) (s.sys service) :=
  keeps_bind (keeps_need _ _ _ _ _ (by decide)) fun _ _ => enter_near ..

theorem keeps_tret : s.Keeps true (fun t => s.Aside t ∧ s.self.Near t.self) s.tret :=
  keeps_bind (keeps_need _ _ _ _ _ (by decide)) fun _ _ => keeps_bind (keeps_need _ _ _ _ _ (by decide)) fun _ _ =>
    keeps_ok ⟨(State.Aside.refl s).mapSelf _, ⟨⟨rfl, rfl, rfl, rfl, rfl, rfl, rfl, rfl, rfl, rfl, rfl, rfl⟩,
      ⟨rfl, rfl, rfl, rfl, rfl⟩, rfl, rfl, rfl, rfl, rfl, rfl⟩⟩

theorem keeps_setc (f : FU) : s.Keeps false (fun t => ∃ v, t = s.mapSelf (fun st => (st.setControl f.imm.toNat v).advance 4))
    (s.setc f) :=
  keeps_bind (keeps_controlAllowed _) fun _ _ => keeps_bind (keeps_srcG_calm ..) fun v _ =>
    keeps_bind (keeps_need _ _ _ _ _ (by decide)) fun _ _ => ⟨v, rfl⟩

end States

/-- The control and trap registers, of which setc writes at most those of the selector it names. -/
def Strand.sameControlBut (k : Nat) (a b : Strand) : Prop :=
  (k ≠ 1 → b.tvec = a.tvec) ∧ (k ≠ 2 → b.tpc = a.tpc) ∧ (k ≠ 3 → b.tcode = a.tcode ∧ b.tkind = a.tkind) ∧
    (k ≠ 4 → b.taddr = a.taddr) ∧ (k ≠ 5 → b.eidx = a.eidx) ∧ (k ≠ 6 → b.srs = a.srs) ∧ (k ≠ 7 → b.rot = a.rot) ∧
    (k ≠ 8 → b.rmode = a.rmode) ∧ b.priv = a.priv ∧ b.inTrap = a.inTrap

theorem sameControlBut_of_same {k : Nat} {a b : Strand} (hc : a.sameControl b) (ht : a.sameTrap b) :
    a.sameControlBut k b := by
  obtain ⟨tvec, eidx, srs, rot, rmode⟩ := hc
  obtain ⟨tpc, taddr, tkind, tcode, inTrap, priv, -, -⟩ := ht
  exact ⟨fun _ => tvec, fun _ => tpc, fun _ => ⟨tcode, tkind⟩, fun _ => taddr, fun _ => eidx, fun _ => srs, fun _ => rot,
    fun _ => rmode, priv, inTrap⟩

theorem setControl_keeps (st : Strand) (k : Nat) (v : Word) : st.sameEngines (st.setControl k v) ∧
    (st.setControl k v).g = st.g ∧ (st.setControl k v).gFull = st.gFull ∧ st.sameControlBut k (st.setControl k v) := by
  unfold Strand.setControl Strand.sameControlBut Strand.sameEngines
  split <;> simp

/-! ## From the frame of a computation to that of the instruction -/

/-- An instruction that ends as a computation does whose stops are calm and whose results have a frame. -/
def State.Framed (s : State) (trap : Bool) (written : Nat → Prop) (n : Instr) : Prop :=
  ∃ r, exec n s = finish s r ∧ s.Keeps trap (s.Frame written) r

section Conclusions
variable {s t : State}

/-- What lies outside the strand, and the strand's engines. -/
theorem State.Aside.rest (h : s.Aside t) (he : s.self.sameEngines t.self) : s.sameMemory t ∧ s.self.sameEngines t.self ∧
    t.peers = s.peers ∧ t.saved = s.saved ∧ t.reqs = s.reqs ∧ t.returns = s.returns ∧ t.chans = s.chans ∧ t.mod = s.mod :=
  ⟨h.sameMemory, he, h.peers, h.saved, h.reqs, h.returns, h.chans, h.mod⟩

theorem Strand.sameG {a b : Strand} (hg : b.g = a.g) (hf : b.gFull = a.gFull) (r : Nat) :
    b.readG r = a.readG r ∧ b.gIsFull r = a.gIsFull r := by
  rw [Strand.readG, Strand.gIsFull, hg, hf]
  exact ⟨rfl, rfl⟩

/-- What such an instruction leaves, whatever it comes to: an empty source that traps writes the trap registers. -/
structure State.Kept (trap : Bool) (written : Nat → Prop) (s t : State) : Prop where
  aside : s.Aside t
  engines : s.self.sameEngines t.self
  others : ∀ r, ¬ written r → t.self.readG r = s.self.readG r ∧ t.self.gIsFull r = s.self.gIsFull r
  control : s.self.sameControl t.self
  quiet : trap = false → s.self.sameTrap t.self

theorem State.Framed.kept {n : Instr} {trap : Bool} {w : Nat → Prop} (hn : s.Framed trap w n) (h : exec n s = .next t) :
    s.Kept trap w t := by
  obtain ⟨r, hr, keeps⟩ := hn
  exact finish_keeps (hr ▸ h) keeps
    (fun _ hu => ⟨hu.aside, hu.strand.engines, hu.strand.others, hu.strand.control, fun _ => hu.strand.trap⟩)
    (fun _ he => ⟨he.aside, he.near.engines, fun r _ => Strand.sameG he.near.g he.near.gFull r, he.near.control, he.quiet⟩)

theorem near_next {n : Instr} {trap : Bool} {r : Except Stop State} (hr : exec n s = finish s r)
    (keeps : s.Keeps trap (fun u => s.Aside u ∧ s.self.Near u.self) r) (h : exec n s = .next t) :
    s.Aside t ∧ s.self.Near t.self :=
  finish_keeps (hr ▸ h) keeps (fun _ hu => hu) (fun _ he => ⟨he.aside, he.near⟩)

/-- What setc of a selector leaves. -/
structure State.SetsControl (k : Nat) (s t : State) : Prop where
  aside : s.Aside t
  engines : s.self.sameEngines t.self
  sameG : ∀ r, t.self.readG r = s.self.readG r ∧ t.self.gIsFull r = s.self.gIsFull r
  control : s.self.sameControlBut k t.self

theorem exec_setc_setsControl {u : FU} (h : exec (.setc u) s = .next t) : s.SetsControl u.imm.toNat t := by
  refine finish_keeps h (keeps_setc u) (fun x hx => ?_) (fun e he => ?_)
  · obtain ⟨v, rfl⟩ := hx
    obtain ⟨engines, hg, hf, control⟩ := setControl_keeps s.self u.imm.toNat v
    exact ⟨(State.Aside.refl s).mapSelf _, engines, Strand.sameG hg hf, control⟩
  · exact ⟨he.aside, he.near.engines, Strand.sameG he.near.g he.near.gFull, sameControlBut_of_same he.near.control (he.quiet rfl)⟩

end Conclusions

theorem FA.trap_eq_false {f : FA} (h : f.e = 0) : f.trap = false := by
  rw [FA.trap, h]
  rfl

theorem toNat_ne {k : BitVec 16} {n : Nat} (h : k ≠ BitVec.ofNat 16 n) (hn : n < 65536) : k.toNat ≠ n := fun e =>
  h (BitVec.eq_of_toNat_eq (by rw [e, BitVec.toNat_ofNat, Nat.mod_eq_of_lt hn]))

/-- Format A instructions of the sequencer that write g[d]: each reads sources and gains a value, but for fe and jr. -/
theorem framed_sequencer_FA (s : State) (f : FA) : ∀ n ∈ [Instr.add f, .sub f, .andR f, .orR f, .xorR f, .shl f, .shr f,
    .sar f, .mul f, .mulh f, .div f, .rem f, .minmax f, .cmp f, .sel f, .fops f, .ffma f, .fcmp f, .fcvt f, .fe f, .lidx f,
    .jr f], s.Framed f.trap (· = f.d.toNat) n := by
  have two {n : Instr} {op : Word → Word → Word} (hn : exec n s = finish s (s.binary 4 f op)) :
      s.Framed f.trap (· = f.d.toNat) n := ⟨_, hn, keeps_binary_frame 4 f op⟩
  simp only [List.forall_mem_cons]
  exact ⟨two rfl, two rfl, two rfl, two rfl, two rfl, two rfl, two rfl, two rfl, two rfl, two rfl, two rfl, two rfl, two rfl,
    two rfl, ⟨_, rfl, keeps_select f⟩, two rfl, ⟨_, rfl, keeps_scalarFma f⟩, two rfl, ⟨_, rfl, keeps_fcvt f⟩,
    ⟨_, rfl, keeps_fe ..⟩, ⟨_, rfl, keeps_lidx ..⟩, ⟨_, rfl, keeps_jr ..⟩, fun _ h => nomatch h⟩

theorem framed_sequencer_FI (s : State) (i : FI) : ∀ n ∈ [Instr.addi i, .logi i, .shi i],
    s.Framed false (· = i.d.toNat) n := by
  simp only [List.forall_mem_cons]
  exact ⟨⟨_, rfl, keeps_immediate_frame ..⟩, ⟨_, rfl, keeps_immediate_frame ..⟩, ⟨_, rfl, keeps_immediate_frame ..⟩, fun _ h => nomatch h⟩

theorem framed_sequencer_FU (s : State) (u : FU) : ∀ n ∈ [Instr.lui u, .addpc u, .getc u],
    s.Framed false (· = u.d.toNat) n := by
  simp only [List.forall_mem_cons]
  exact ⟨⟨_, rfl, keeps_result_frame ..⟩, ⟨_, rfl, keeps_result_frame ..⟩, ⟨_, rfl, keeps_getc u⟩, fun _ h => nomatch h⟩

/-- Instructions that write no g register. -/
theorem framed_transfers (s : State) (b : FB) (j : FJ) (l : FL) (f : FA) :
    ∀ n ∈ [Instr.br b, .jmp j, .loopR l, .loopi l, .lexit f], s.Framed false (fun _ => False) n := by
  simp only [List.forall_mem_cons]
  exact ⟨⟨_, rfl, keeps_br ..⟩, ⟨_, rfl, keeps_ok (frame_mapSelf (frame_goto ..))⟩, ⟨_, rfl, keeps_loop l⟩,
    ⟨_, rfl, keeps_loopi l⟩, ⟨_, rfl, keeps_lexit _⟩, fun _ h => nomatch h⟩

theorem near_traps {s t : State} (u : FU) (f : FA) : ∀ n ∈ [Instr.trap u, .sys u, .brk u, .tret f],
    exec n s = .next t → s.Aside t ∧ s.self.Near t.self := by
  simp only [List.forall_mem_cons]
  exact ⟨near_next (trap := true) rfl (keeps_ok (enter_near ..)), near_next rfl (keeps_sys _),
    near_next (trap := true) rfl (keeps_ok (enter_near ..)), near_next rfl keeps_tret, fun _ h => nomatch h⟩

/-- Settles O58: the frame of each group of instructions, each from those of the operations it is made of. -/
theorem sequencerFrame : Obligations.SequencerFrame := by
  intro s t f i u b j l n rest others allG h
  have writes (d : Nat) (trap : Bool) (hn : s.Framed trap (· = d) n) :
      rest ∧ others d ∧ s.self.sameControl t.self ∧ (trap = false → s.self.sameTrap t.self) := by
    obtain ⟨aside, engines, gs, control, quiet⟩ := hn.kept h
    exact ⟨aside.rest engines, gs, control, quiet⟩
  have writesOne (d : Nat) (hn : s.Framed false (· = d) n) :
      rest ∧ others d ∧ s.self.sameControl t.self ∧ s.self.sameTrap t.self := by
    obtain ⟨same, gs, control, quiet⟩ := writes d false hn
    exact ⟨same, gs, control, quiet rfl⟩
  have writesNone (hn : n ∈ [Instr.br b, .jmp j, .loopR l, .loopi l, .lexit f]) :
      rest ∧ allG ∧ s.self.sameControl t.self ∧ s.self.sameTrap t.self := by
    obtain ⟨aside, engines, gs, control, quiet⟩ := (framed_transfers s b j l f n hn).kept h
    exact ⟨aside.rest engines, fun r => gs r id, control, quiet rfl⟩
  refine ⟨fun hn => ?_, fun hn => writesOne _ (framed_sequencer_FI s i n hn), fun hn => writesOne _ (framed_sequencer_FU s u n hn),
    fun hn => writesNone ?_, fun hn => writesOne _ ?_, fun hn => writesOne _ ?_, fun hn => writesNone ?_, fun hn => ?_, fun hn => ?_⟩
  · obtain ⟨same, gs, control, quiet⟩ := writes _ _ (framed_sequencer_FA s f n hn)
    exact ⟨same, gs, control, fun he => quiet (FA.trap_eq_false he)⟩
  · obtain rfl | rfl | rfl | rfl := hn <;> simp
  · exact hn ▸ ⟨_, rfl, keeps_brb ..⟩
  · exact hn ▸ ⟨_, rfl, keeps_jal _⟩
  · simp [hn]
  · obtain ⟨aside, near⟩ := near_traps u f n hn h
    exact ⟨aside.rest near.engines, Strand.sameG near.g near.gFull, near.control⟩
  · subst hn
    obtain ⟨aside, engines, gs, tvec, tpc, tcause, taddr, eidx, srs, rot, rmode, priv, inTrap⟩ := exec_setc_setsControl h
    have names {k : Nat} (hk : k < 65536) (hu : u.imm ≠ BitVec.ofNat 16 k) : u.imm.toNat ≠ k := toNat_ne hu hk
    exact ⟨aside.rest engines, gs, fun hu => tvec (names (by decide) hu), fun hu => tpc (names (by decide) hu),
      fun hu => tcause (names (by decide) hu), fun hu => taddr (names (by decide) hu), fun hu => eidx (names (by decide) hu),
      fun hu => srs (names (by decide) hu), fun hu => rot (names (by decide) hu), fun hu => rmode (names (by decide) hu),
      priv, inTrap⟩

end Sys2Proof.Machine

/-! PROOF. O8, O9: the addresses of memory instructions and their checks (07 R243, R245), and what loads and stores leave. -/

namespace Sys2Proof.Machine

/-! ## Addresses and their checks -/

/-- The scaled offset of a memory form (02 R60), as a word. -/
theorem byteOffset_eq (f : FI) (n : Nat) : f.byteOffset n = f.off.signExtend 64 * BitVec.ofNat 64 n := by
  rw [FI.byteOffset, BitVec.ofInt_mul, BitVec.ofInt_natCast]
  rfl

/-- Where the access of `n` bytes that a memory form names lies, once its address is known and passes its checks (07 R245). -/
def State.addressed (s : State) (f : FI) (sp : SpaceName) (n : Nat) : Except Stop (Space × Word × Option Nat) :=
  s.effective f n >>= fun a => s.locate sp a n

section Addresses
variable {s : State} {f : FI} {a b : Word} {n : Nat}

theorem effective_misaligned (hb : s.source f.a b) (ha : b + f.off.signExtend 64 * BitVec.ofNat 64 n = a)
    (h : a.toNat % n ≠ 0) : s.effective f n = .error (.fault ALIGN a) := by
  simp only [State.effective, srcG_full hb, except_ok_bind, byteOffset_eq, ha, h, decide_false, need_false, except_error_bind]

theorem effective_full (hb : s.source f.a b) (ha : b + f.off.signExtend 64 * BitVec.ofNat 64 n = a)
    (h : a.toNat % n = 0) : s.effective f n = .ok a := by
  have hx : b + f.byteOffset n = a := by rw [byteOffset_eq, ha]
  rw [effective_aligned n hb (by rw [hx, h]), hx]

theorem addressed_misaligned (hb : s.source f.a b) (ha : b + f.off.signExtend 64 * BitVec.ofNat 64 n = a)
    (h : a.toNat % n ≠ 0) (sp : SpaceName) : s.addressed f sp n = .error (.fault ALIGN a) := by
  rw [State.addressed, effective_misaligned hb ha h, except_error_bind]

theorem addressed_aligned (hb : s.source f.a b) (ha : b + f.off.signExtend 64 * BitVec.ofNat 64 n = a)
    (h : a.toNat % n = 0) (sp : SpaceName) : s.addressed f sp n = s.locate sp a n := by
  rw [State.addressed, effective_full hb ha h, except_ok_bind]

/-! The space checks, one equation for each outcome. -/

theorem sSpace_inside {c : Crew} {core x : Nat} (hl : c.isLocal = true) (h : x + n ≤ 2 ^ 19) :
    c.sSpace core x n = some (.s core, x) := by
  rw [Crew.sSpace, if_pos (by simp only [hl, h, decide_true, Bool.and_self])]

theorem sSpace_outside {c : Crew} {core x : Nat} (h : c.isLocal = false ∨ 2 ^ 19 < x + n) : c.sSpace core x n = none := by
  refine if_neg fun hin => ?_
  obtain ⟨hl, hx⟩ := Bool.and_eq_true_iff.1 hin
  exact h.elim (fun hf => absurd hl (by simp [hf])) fun hlt => absurd (of_decide_eq_true hx) (Nat.not_le.2 hlt)

theorem cSpace_inside {c : Crew} {core x : Nat} (hl : c.isLocal = true) (h : x + n ≤ c.size * 2 ^ 20)
    (hc : c.cores[x / 2 ^ 20]? = some core) : c.cSpace x n = some (.c core, x % 2 ^ 20) := by
  simp only [Crew.cSpace, hc, hl, h, decide_true, Bool.and_self, if_true]

theorem cSpace_outside {c : Crew} {x : Nat} (h : c.isLocal = false ∨ c.size * 2 ^ 20 < x + n) : c.cSpace x n = none := by
  unfold Crew.cSpace
  split
  · refine if_neg fun hin => ?_
    obtain ⟨hl, hx⟩ := Bool.and_eq_true_iff.1 hin
    exact h.elim (fun hf => absurd hl (by simp [hf])) fun hlt => absurd (of_decide_eq_true hx) (Nat.not_le.2 hlt)
  · rfl

theorem locate_s (hl : s.crew.isLocal = true) (h : a.toNat + n ≤ 2 ^ 19) :
    s.locate .s a n = .ok (.s s.self.core, a, some (Place.s s.self.core a.toNat)) := by
  simp only [State.locate, sSpace_inside hl h]
  rfl

theorem locate_s_outside (h : s.crew.isLocal = false ∨ 2 ^ 19 < a.toNat + n) :
    s.locate .s a n = .error (.fault SPACE_RANGE a) := by
  simp only [State.locate, sSpace_outside h]

theorem locate_c {core : Nat} (hl : s.crew.isLocal = true) (h : a.toNat + n ≤ s.crew.size * 2 ^ 20)
    (hc : s.crew.cores[a.toNat / 2 ^ 20]? = some core) :
    s.locate .c a n = .ok (.c core, a, some (Place.c core (a.toNat % 2 ^ 20))) := by
  simp only [State.locate, cSpace_inside hl h hc]
  rfl

theorem locate_c_outside (h : s.crew.isLocal = false ∨ s.crew.size * 2 ^ 20 < a.toNat + n) :
    s.locate .c a n = .error (.fault SPACE_RANGE a) := by
  simp only [State.locate, cSpace_outside h]

theorem locate_t (h : a.toNat + n ≤ (s.tower s.self.tower).tUnits * 2 ^ 26) :
    s.locate .t a n = .ok (.t s.self.tower, a, some (Place.t s.self.tower a.toNat)) := by
  have inside : s.tSpace s.self.tower a.toNat n = some (.t s.self.tower, a.toNat) := if_pos h
  simp only [State.locate, inside]
  rfl

theorem locate_t_outside (h : (s.tower s.self.tower).tUnits * 2 ^ 26 < a.toNat + n) : s.locate .t a n =
    .error (.fault (if s.inResize s.self.tower a.toNat n then T_RESIZED else SPACE_RANGE) a) := by
  have outside : s.tSpace s.self.tower a.toNat n = none := if_neg (Nat.not_le.2 h)
  cases hr : s.inResize s.self.tower a.toNat n <;> simp [State.locate, outside, hr]

/-- The register window lies in the upper canonical half (17 R488). -/
theorem canonical_of_inWindow (h : inWindow a = true) : canonical a = true := by
  simp only [inWindow, canonical, Bool.and_eq_true, Bool.or_eq_true, decide_eq_true_eq] at *
  omega

theorem locate_g (hc : canonical a = true) (hw : inWindow a = false) : s.locate .g a n = .ok (.g, a, none) := by
  simp [State.locate, hc, hw]

theorem locate_g_noncanonical (h : canonical a = false) : s.locate .g a n = .error (.fault VA_NONCANON a) := by
  simp [State.locate, h]

theorem locate_window (hw : inWindow a = true) (hn : n = 8) (hp : s.self.priv = true) :
    s.locate .g a n = .ok (.win, a - 0xFF00000000000000, some 0) := by
  simp [State.locate, canonical_of_inWindow hw, hw, hn, hp]

theorem locate_window_size (hw : inWindow a = true) (hn : n ≠ 8) : s.locate .g a n = .error (.fault ALIGN a) := by
  simp [State.locate, canonical_of_inWindow hw, hw, hn]

theorem locate_window_user (hw : inWindow a = true) (hn : n = 8) (hp : s.self.priv = false) :
    s.locate .g a n = .error (.fault PAGE_PERM a) := by
  simp [State.locate, canonical_of_inWindow hw, hw, hn, hp]

end Addresses

/-! ## Loads and stores -/

/-- What ldq leaves: four accesses of 64 bits, of one group (04 R127), and its destination empty. -/
def State.loadsQ (s : State) (f : FI) (space : Space) (adr : Word) (place : Option Nat) : State :=
  ((List.range 4).foldl (fun t i => t.issue (.load 8 false) (f.kindOf false) space (adr + word (8 * i)) (place.map (· + 8 * i))
    (some (s.serial, 8 * i)) 0x30 (s.serial + 1)) (s.produce (.q f.d.toNat) (List.replicate 32 none)).1).advance 4

/-- What stq leaves. -/
def State.storesQ (s : State) (f : FI) (space : Space) (adr : Word) (place : Option Nat) : State :=
  ((List.range 4).foldl (fun t i => t.issue (.store (slice ((s.self.q[f.d.toNat]?).getD []) (8 * i) 8)) (f.kindOf true) space
    (adr + word (8 * i)) (place.map (· + 8 * i)) none 0x31 (s.serial + 1)) s).advance 4

section Accesses
variable {s : State} {f : FI} {sp : SpaceName} {len : Nat} {opc : BitVec 8}

/-! Each of them checks its address, then its register, and then issues. -/

theorem load_eq : s.load len f sp opc = (s.addressed f sp (2 ^ f.sz.toNat) >>= fun x => s.destFree (.g f.d.toNat) >>= fun _ =>
    .ok (s.loads len f opc x.1 x.2.1 x.2.2)) := by
  simp only [State.load, State.addressed, State.loads, bind_assoc, beq_iff_eq, except_pure, apply_ite Except.ok]
  rfl

theorem store_eq : s.store len f sp opc = (s.addressed f sp (2 ^ f.sz.toNat) >>= fun x => s.srcG f.d >>= fun v =>
    .ok (s.stores len f opc x.1 x.2.1 x.2.2 v)) := by
  simp only [State.store, State.addressed, State.stores, bind_assoc]
  rfl

theorem loadQ_eq : s.loadQ f = (s.addressed f .s 32 >>= fun x => s.destFree (.q f.d.toNat) >>= fun _ =>
    .ok (s.loadsQ f x.1 x.2.1 x.2.2)) := by
  simp only [State.loadQ, State.addressed, State.loadsQ, bind_assoc]
  rfl

theorem storeQ_eq : s.storeQ f = (s.addressed f .s 32 >>= fun x =>
    if s.self.qFull.getLsbD f.d.toNat then .ok (s.storesQ f x.1 x.2.1 x.2.2) else .error s.retry) := by
  simp only [State.storeQ, State.addressed, State.storesQ, bind_assoc]
  cases s.self.qFull.getLsbD f.d.toNat <;> rfl

/-- The check that a load and a store of one space fail, as the instructions end. -/
theorem access_faults {code : BitVec 8} {a : Word} {opcLd opcSt : BitVec 8}
    (h : s.addressed f sp (2 ^ f.sz.toNat) = .error (.fault code a)) :
    finish s (s.load len f sp opcLd) = .next (s.raise code a) ∧ finish s (s.store len f sp opcSt) = .next (s.raise code a) := by
  rw [load_eq, store_eq, h]
  exact ⟨rfl, rfl⟩

theorem quad_faults {code : BitVec 8} {a : Word} (h : s.addressed f .s 32 = .error (.fault code a)) :
    exec (.ldq f) s = .next (s.raise code a) ∧ exec (.stq f) s = .next (s.raise code a) := by
  rw [exec_ldq, exec_stq, execLdq, execStq, loadQ_eq, storeQ_eq, h]
  exact ⟨rfl, rfl⟩

end Accesses

/-! ## What issuing does (R246, 01 R34) -/

theorem keepsBytes_issue (s : State) (op : ReqOp) (k : Kind) (sp : Space) (a : Word) (p : Option Nat)
    (ret : Option (Nat × Nat)) (opc : BitVec 8) (group : Nat) : s.KeepsBytes (s.issue op k sp a p ret opc group) :=
  ⟨rfl, rfl, rfl, rfl, rfl, rfl⟩

theorem keepsBytes_produce (s : State) (d : Dest) (data : List (Option Byte)) (vector : Bool) :
    s.KeepsBytes (s.produce d data vector).1 := ⟨rfl, rfl, rfl, rfl, rfl, rfl⟩

theorem gIsFull_emptyG_self (st : Strand) {d : Nat} (h : 0 < d) : (st.emptyG d).gIsFull d = false := by
  simp [Strand.emptyG, Strand.gIsFull, Nat.pos_iff_ne_zero.1 h, BitVec.getLsbD_twoPow]

/-- Settles O9: each failing check, by the address and the space it belongs to; and what issue and the marking of a destination do. -/
theorem memoryAccessChecks : Obligations.MemoryAccessChecks := by
  refine ⟨fun s f b => ?_, fun s op k sp a p ret opc n data => ?_⟩
  · intro n a y both hb
    have aligned (sp : SpaceName) (h : a.toNat % n = 0) : s.addressed f sp n = s.locate sp a n := addressed_aligned hb rfl h sp
    refine ⟨fun h => ?_, fun h hr => access_faults ((aligned .s h).trans (locate_s_outside hr)),
      fun h hr => access_faults ((aligned .c h).trans (locate_c_outside hr)),
      fun h hr => access_faults ((aligned .t h).trans (locate_t_outside hr)),
      fun h hc => access_faults ((aligned .g h).trans (locate_g_noncanonical hc)),
      fun h hw hn => access_faults ((aligned .g h).trans (locate_window_size hw hn)),
      fun h hw hn hp => access_faults ((aligned .g h).trans (locate_window_user hw hn hp)),
      fun h => quad_faults (addressed_misaligned hb rfl h .s),
      fun h hr => quad_faults ((addressed_aligned hb rfl h .s).trans (locate_s_outside hr))⟩
    have misaligned (sp : SpaceName) (opcLd opcSt : BitVec 8) :=
      access_faults (len := 4) (opcLd := opcLd) (opcSt := opcSt) (addressed_misaligned hb rfl h sp)
    exact ⟨(misaligned .s 0x28 0x29).1, (misaligned .c 0x2A 0x2B).1, (misaligned .t 0x2C 0x2D).1, (misaligned .g 0x2E 0x2F).1,
      (misaligned .s 0x28 0x29).2, (misaligned .c 0x2A 0x2B).2, (misaligned .t 0x2C 0x2D).2, (misaligned .g 0x2E 0x2F).2⟩
  · exact ⟨rfl, (keepsBytes_issue ..).sameMemory, rfl, fun h0 _ => gIsFull_emptyG_self _ h0, fun m hm => gIsFull_emptyG_ne _ _ _ hm,
      strand_emptyG_g .., rfl, (keepsBytes_produce ..).sameMemory⟩

/-! ## Accesses that pass their checks -/

section Issues
variable {s : State} {f : FI} {sp : SpaceName} {len : Nat} {space : Space} {adr v : Word} {place : Option Nat}

/-- The load and the store of one space, as the instructions end. -/
theorem access_issues {opcLd opcSt : BitVec 8} (h : s.addressed f sp (2 ^ f.sz.toNat) = .ok (space, adr, place)) :
    (s.settled (.g f.d.toNat) → finish s (s.load len f sp opcLd) = .next (s.loads len f opcLd space adr place)) ∧
      (s.source f.d v → finish s (s.store len f sp opcSt) = .next (s.stores len f opcSt space adr place v)) :=
  ⟨fun hd => by rw [load_eq, h, except_ok_bind, destFree_settled hd, except_ok_bind, finish_ok],
    fun hv => by rw [store_eq, h, except_ok_bind, srcG_full hv, except_ok_bind, finish_ok]⟩

end Issues

/-- The offset and the width of the access that a compressed half stands for (02 R48). -/
theorem expandS_fields (c : CR) : (expandS c).off = c.x.setWidth 5 ∧ (expandS c).sz = 3 :=
  ⟨BitVec.extractLsb'_append_eq_left, BitVec.extractLsb'_append_eq_of_add_le (by decide)⟩

theorem addressed_expandS {s : State} {c : CR} {b : Word} (hb : s.source (c.a.setWidth 6) b) {y : Word}
    (hy : b + (c.x.setWidth 5 : BitVec 5).signExtend 64 * 8 = y) (h8 : y.toNat % 8 = 0) (hl : s.crew.isLocal = true)
    (h : y.toNat + 8 ≤ 2 ^ 19) : s.addressed (expandS c) .s (2 ^ (expandS c).sz.toNat) =
      .ok (.s s.self.core, y, some (Place.s s.self.core y.toNat)) := by
  obtain ⟨hoff, hsz⟩ := expandS_fields c
  have hn : 2 ^ (expandS c).sz.toNat = 8 := by rw [hsz]; rfl
  rw [hn, addressed_aligned (f := expandS c) hb (by rw [hoff]; exact hy) h8, locate_s hl h]

/-! ## Four accesses at once (04 R127) -/

/-- What accesses issued one after another add to the strand's accesses, as far as `pick` looks. -/
theorem map_reqs_foldl {α : Type} {step : State → Nat → State} {pick : Req → α} {x : Nat → α}
    (h : ∀ t i, (step t i).reqs.map pick = t.reqs.map pick ++ [x i]) (l : List Nat) (s : State) :
    (l.foldl step s).reqs.map pick = s.reqs.map pick ++ l.map x := by
  induction l generalizing s with
  | nil => simp
  | cons i l ih => rw [List.foldl_cons, ih, h, List.append_assoc]; rfl

/-- What each of them leaves as it was, all of them do. -/
theorem foldl_keeps {α : Type} {step : State → Nat → State} (get : State → α) (h : ∀ t i, get (step t i) = get t)
    (l : List Nat) (s : State) : get (l.foldl step s) = get s := by
  induction l generalizing s with
  | nil => rfl
  | cons i l ih => rw [List.foldl_cons, ih, h]

theorem keepsBytes_foldl {step : State → Nat → State} (h : ∀ (t : State) i, t.KeepsBytes (step t i)) (l : List Nat) (s : State) :
    s.KeepsBytes (l.foldl step s) := by
  induction l generalizing s with
  | nil => exact .refl s
  | cons i l ih => exact (h s i).trans (ih _)

section Quads
variable (s : State) (f : FI) (space : Space) (adr : Word) (p : Nat)

theorem loadsQ_leaves : let t := s.loadsQ f space adr (some p)
    t.self = (s.self.empty (.q f.d.toNat)).advance 4 ∧
      t.returns = s.returns ++
        [{ id := s.serial, crew := s.self.crew, idx := s.self.idx, dest := .q f.d.toNat, data := List.replicate 32 none }] ∧
      t.reqs.map (fun r => (r.op, r.addr, r.place, r.ret)) = s.reqs.map (fun r => (r.op, r.addr, r.place, r.ret)) ++
        (List.range 4).map (fun i =>
          (.load 8 false, adr + word (8 * i), some (p + 8 * i), some (s.serial, 8 * i))) ∧
      s.sameMemory t :=
  ⟨congrArg (·.advance 4) (foldl_keeps State.self (by intros; rfl) _ _),
    foldl_keeps State.returns (by intros; rfl) _ _, map_reqs_foldl (fun _ _ => List.map_append) _ _,
    ((keepsBytes_produce ..).trans (keepsBytes_foldl (fun _ _ => keepsBytes_issue ..) _ _)).sameMemory⟩

theorem storesQ_leaves : let t := s.storesQ f space adr (some p)
    t.self = s.self.advance 4 ∧
      t.reqs.map (fun r => (r.op, r.addr, r.place, r.kind)) = s.reqs.map (fun r => (r.op, r.addr, r.place, r.kind)) ++
        (List.range 4).map (fun i => (.store (slice ((s.self.q[f.d.toNat]?).getD []) (8 * i) 8), adr + word (8 * i),
          some (p + 8 * i), f.kindOf true)) ∧
      s.sameMemory t :=
  ⟨congrArg (·.advance 4) (foldl_keeps State.self (by intros; rfl) _ _),
    map_reqs_foldl (fun _ _ => List.map_append) _ _, (keepsBytes_foldl (fun _ _ => keepsBytes_issue ..) _ _).sameMemory⟩

end Quads

/-- Settles O8: each load and store once its address passes its checks, and the four accesses of ldq and stq. -/
theorem loadsAndStores : Obligations.LoadsAndStores := by
  refine ⟨fun s f c b v => ?_, fun s f b => ?_⟩
  · intro n a x ready ld st
    have issues {sp : SpaceName} {space : Space} {adr : Word} {place : Option Nat} {opcLd opcSt : BitVec 8} (hr : ready)
        (h : s.locate sp a n = .ok (space, adr, place)) :=
      access_issues (v := v) (len := 4) (opcLd := opcLd) (opcSt := opcSt) ((addressed_aligned hr.1 rfl hr.2 sp).trans h)
    refine ⟨fun hr hl h => issues hr (locate_s hl h), fun core hr hl h hc => issues hr (locate_c hl h hc),
      fun hr h => issues hr (locate_t h), fun hr hc hw => issues hr (locate_g hc hw),
      fun hr hw hn hp => issues hr (locate_window hw hn hp), ?_⟩
    intro y g hb h8 hl h
    obtain ⟨loads, stores⟩ := access_issues (f := g) (v := v) (len := 2) (opcLd := 0x28) (opcSt := 0x29)
      (addressed_expandS hb rfl h8 hl h)
    have hd : g.d.toNat = c.d.toNat := BitVec.toNat_setWidth_of_le (by decide)
    exact ⟨fun hs => loads (hd ▸ hs), stores⟩
  · intro a p hb h32
    have addressed (hl : s.crew.isLocal = true) (h : a.toNat + 32 ≤ 2 ^ 19) : s.addressed f .s 32 = .ok (.s s.self.core, a, some p) :=
      (addressed_aligned hb rfl h32 .s).trans (locate_s hl h)
    refine ⟨fun hl h hd => ?_, fun hl h hq => ?_, fun hl h hq => ?_⟩
    · rw [exec_ldq, execLdq, loadQ_eq, addressed hl h, except_ok_bind, destFree_settled hd]
      exact ⟨_, rfl, loadsQ_leaves ..⟩
    · rw [exec_stq, execStq, storeQ_eq, addressed hl h, except_ok_bind, if_pos hq]
      exact ⟨_, rfl, storesQ_leaves ..⟩
    · rw [exec_stq, execStq, storeQ_eq, addressed hl h, except_ok_bind, if_neg (by simp [hq]), finish_error]

end Sys2Proof.Machine

/-! PROOF. O59: what the issue of an access leaves as it was (07 R246, R254; 10 R330). An instruction that issues leaves its strand as
it was, but for the destination that awaits its value (`State.Issued`); one that stops is calm. -/

namespace Sys2Proof.Machine

/-- What lies outside the strand and the accesses it has issued stands as it was. -/
structure State.Elsewhere (s t : State) : Prop where
  bytes : s.KeepsBytes t
  peers : t.peers = s.peers
  saved : t.saved = s.saved
  chans : t.chans = s.chans

/-- The strand has issued its accesses, one destination is marked empty, and its instruction of `len` bytes has retired. -/
structure State.Issued (dest : Dest) (len : Nat) (s t : State) : Prop where
  elsewhere : s.Elsewhere t
  self : t.self = (s.self.empty dest).advance len

section States
variable {s t u : State}

theorem State.Elsewhere.trans (h : s.Elsewhere t) (g : t.Elsewhere u) : s.Elsewhere u :=
  ⟨h.bytes.trans g.bytes, g.peers.trans h.peers, g.saved.trans h.saved, g.chans.trans h.chans⟩

theorem State.Aside.elsewhere (h : s.Aside t) : s.Elsewhere t :=
  ⟨⟨h.mem, h.lineKey, h.dirty, h.empties, h.poison, h.unpub⟩, h.peers, h.saved, h.chans⟩

theorem elsewhere_mapSelf (s : State) (f : Strand → Strand) : s.Elsewhere (s.mapSelf f) := ((State.Aside.refl s).mapSelf f).elsewhere

theorem State.Elsewhere.advance (h : s.Elsewhere t) (len : Nat) : s.Elsewhere (t.advance len) := h.trans (elsewhere_mapSelf ..)

theorem elsewhere_issue (s : State) (op : ReqOp) (k : Kind) (sp : Space) (a : Word) (p : Option Nat)
    (ret : Option (Nat × Nat)) (opc : BitVec 8) (group : Nat) : s.Elsewhere (s.issue op k sp a p ret opc group) :=
  ⟨keepsBytes_issue .., rfl, rfl, rfl⟩

theorem elsewhere_produce (s : State) (d : Dest) (data : List (Option Byte)) (vector : Bool) :
    s.Elsewhere (s.produce d data vector).1 := ⟨keepsBytes_produce .., rfl, rfl, rfl⟩

theorem elsewhere_dropAtIssue (s : State) (a : Word) : s.Elsewhere (s.dropAtIssue a) :=
  ⟨⟨rfl, rfl, rfl, rfl, rfl, rfl⟩, rfl, rfl, rfl⟩

theorem empty_g_of_eq_zero {d : Reg} (h : d = 0) (st : Strand) : st.empty (.g d.toNat) = st := by
  rw [h]; rfl

theorem elsewhere_issueRmw (s : State) (d : Reg) (op : ReqOp) (sp : Space) (a : Word) (p : Option Nat) (opc : BitVec 8) :
    s.Elsewhere (s.issueRmw d op sp a p opc) := by
  unfold State.issueRmw
  split
  · exact elsewhere_issue ..
  · exact (elsewhere_produce ..).trans (elsewhere_issue ..)

theorem issueRmw_self (s : State) (d : Reg) (op : ReqOp) (sp : Space) (a : Word) (p : Option Nat) (opc : BitVec 8) :
    (s.issueRmw d op sp a p opc).self = s.self.empty (.g d.toNat) := by
  unfold State.issueRmw
  split
  · exact (empty_g_of_eq_zero (eq_of_beq ‹_›) _).symm
  · rfl

theorem issued_issueRmw (s : State) (d : Reg) (op : ReqOp) (sp : Space) (a : Word) (p : Option Nat) (opc : BitVec 8) (len : Nat) :
    s.Issued (.g d.toNat) len ((s.issueRmw d op sp a p opc).advance len) :=
  ⟨(elsewhere_issueRmw ..).advance len, congrArg (·.advance len) (issueRmw_self ..)⟩

/-- The home's instructions drop copies of the line first (10 R325), which touches neither strand nor memory. -/
theorem issued_dropAtIssue {d : Dest} {len : Nat} {a : Word} (h : (s.dropAtIssue a).Issued d len t) : s.Issued d len t :=
  ⟨(elsewhere_dropAtIssue s a).trans h.elsewhere, h.self⟩

theorem issued_issue (s : State) (op : ReqOp) (k : Kind) (sp : Space) (a : Word) (p : Option Nat) (opc : BitVec 8) (len : Nat) :
    s.Issued (.g 0) len ((s.issue op k sp a p none opc).advance len) :=
  ⟨(elsewhere_issue ..).advance len, rfl⟩

theorem issued_loads (s : State) (len : Nat) (f : FI) (opc : BitVec 8) (sp : Space) (a : Word) (p : Option Nat) :
    s.Issued (.g f.d.toNat) len (s.loads len f opc sp a p) := by
  unfold State.loads
  dsimp only
  split
  · exact ⟨(elsewhere_issue ..).advance len, congrArg (·.advance len) (empty_g_of_eq_zero ‹_› _).symm⟩
  · exact ⟨((elsewhere_produce ..).trans (elsewhere_issue ..)).advance len, rfl⟩

theorem elsewhere_foldl {step : State → Nat → State} (h : ∀ (t : State) i, t.Elsewhere (step t i)) (l : List Nat) (s : State) :
    s.Elsewhere (l.foldl step s) := by
  induction l generalizing s with
  | nil => exact (State.Aside.refl s).elsewhere
  | cons i l ih => exact (h s i).trans (ih _)

theorem issued_loadsQ (s : State) (f : FI) (sp : Space) (a : Word) (p : Option Nat) :
    s.Issued (.q f.d.toNat) 4 (s.loadsQ f sp a p) :=
  ⟨.advance ((elsewhere_produce ..).trans (elsewhere_foldl (fun _ _ => elsewhere_issue ..) _ _)) 4,
    congrArg (·.advance 4) (foldl_keeps State.self (by intros; rfl) _ _)⟩

theorem issued_storesQ (s : State) (f : FI) (sp : Space) (a : Word) (p : Option Nat) :
    s.Issued (.g 0) 4 (s.storesQ f sp a p) :=
  ⟨.advance (elsewhere_foldl (fun _ _ => elsewhere_issue ..) _ _) 4,
    congrArg (·.advance 4) (foldl_keeps State.self (by intros; rfl) _ _)⟩

end States

/-! ## The instructions' stops are calm -/

section Stops
variable {s : State} {trap : Bool}

theorem keeps_effective (f : FI) (n : Nat) : s.Keeps trap (fun _ => True) (s.effective f n) :=
  keeps_bind (keeps_srcG_calm ..) fun _ _ => keeps_bind (keeps_need _ _ _ _ _ (by decide)) fun _ _ => trivial

theorem keeps_locate (sp : SpaceName) (a : Word) (n : Nat) : s.Keeps trap (fun _ => True) (s.locate sp a n) := by
  have faults {code : BitVec 8} (h : code ≠ FE_EMPTY) :
      s.Keeps (α := Space × Word × Option Nat) trap (fun _ => True) (.error (.fault code a)) := calm_fault _ _ _ _ (.inr h)
  have inside (r : Option (Space × Nat)) : s.Keeps (α := Space × Word × Option Nat) trap (fun _ => True)
      (match r with
        | some p => .ok (p.1, a, some (Space.at p))
        | none => .error (.fault SPACE_RANGE a)) := by
    cases r
    · exact faults (by decide)
    · trivial
  cases sp
  case s => exact inside _
  case c => exact inside _
  case t =>
    unfold State.locate
    dsimp only
    split
    · exact faults (by decide)
    · exact inside _
  case g =>
    unfold State.locate
    dsimp only
    split_ifs
    · exact faults (by decide)
    · exact faults (by decide)
    · exact faults (by decide)
    · trivial
    · trivial

theorem keeps_addressed (f : FI) (sp : SpaceName) (n : Nat) : s.Keeps trap (fun _ => True) (s.addressed f sp n) :=
  keeps_bind (keeps_effective ..) fun _ _ => keeps_locate ..

theorem keeps_load (len : Nat) (f : FI) (sp : SpaceName) (opc : BitVec 8) :
    s.Keeps trap (s.Issued (.g f.d.toNat) len) (s.load len f sp opc) := by
  rw [load_eq]
  exact keeps_bind (keeps_addressed ..) fun _ _ => keeps_bind (keeps_destFree ..) fun _ _ => issued_loads ..

theorem keeps_store (len : Nat) (f : FI) (sp : SpaceName) (opc : BitVec 8) :
    s.Keeps trap (s.Issued (.g 0) len) (s.store len f sp opc) := by
  rw [store_eq]
  exact keeps_bind (keeps_addressed ..) fun _ _ => keeps_bind (keeps_srcG_calm ..) fun _ _ => issued_issue ..

theorem keeps_loadQ (f : FI) : s.Keeps trap (s.Issued (.q f.d.toNat) 4) (s.loadQ f) := by
  rw [loadQ_eq]
  exact keeps_bind (keeps_addressed ..) fun _ _ => keeps_bind (keeps_destFree ..) fun _ _ => issued_loadsQ ..

theorem keeps_storeQ (f : FI) : s.Keeps trap (s.Issued (.g 0) 4) (s.storeQ f) := by
  rw [storeQ_eq]
  refine keeps_bind (keeps_addressed ..) fun _ _ => ?_
  split
  · exact issued_storesQ ..
  · exact calm_retry ..

theorem keeps_casLocal (f : FA) : s.Keeps f.trap (s.Issued (.g f.d.toNat) 4) (s.casLocal f) :=
  keeps_bind (keeps_srcG ..) fun _ _ => keeps_bind (keeps_need _ _ _ _ _ (by decide)) fun _ _ =>
    keeps_bind (keeps_locate ..) fun _ _ => keeps_bind (keeps_srcG ..) fun _ _ => keeps_bind (keeps_srcG ..) fun _ _ =>
      issued_issueRmw ..

theorem keeps_amoLocal (f : FA) : s.Keeps f.trap (s.Issued (.g f.d.toNat) 4) (s.amoLocal f) :=
  keeps_bind (keeps_srcG ..) fun _ _ => keeps_bind (keeps_srcG ..) fun _ _ => keeps_bind (keeps_need _ _ _ _ _ (by decide)) fun _ _ =>
    keeps_bind (keeps_locate ..) fun _ _ => keeps_bind (keeps_destFree ..) fun _ _ => issued_issueRmw ..

/-- The checks of a home atomic's address (10 R330). -/
theorem keeps_atomicAddr (a : Word) (n : Nat) : s.Keeps trap (fun _ => True) (s.atomicAddr a n) :=
  keeps_bind (keeps_need _ _ _ _ _ (by decide)) fun _ _ => keeps_bind (keeps_need _ _ _ _ _ (by decide)) fun _ _ =>
    keeps_mono (keeps_need _ _ _ _ _ (by split <;> decide)) fun _ _ => trivial

theorem keeps_amoHome (f : FA) : s.Keeps f.trap (s.Issued (.g f.d.toNat) 4) (s.amoHome f) :=
  keeps_bind (keeps_srcG ..) fun _ _ => keeps_bind (keeps_srcG ..) fun _ _ => keeps_bind (keeps_atomicAddr ..) fun _ _ =>
    keeps_bind (keeps_destFree ..) fun _ _ => issued_dropAtIssue (issued_issueRmw ..)

theorem keeps_casHome (f : FA) : s.Keeps f.trap (s.Issued (.g f.d.toNat) 4) (s.casHome f) :=
  keeps_bind (keeps_srcG ..) fun _ _ => keeps_bind (keeps_srcG ..) fun _ _ => keeps_bind (keeps_srcG ..) fun _ _ =>
    keeps_bind (keeps_atomicAddr ..) fun _ _ => keeps_bind (keeps_destFree ..) fun _ _ => issued_dropAtIssue (issued_issueRmw ..)

theorem keeps_famoHome (f : FA) : s.Keeps f.trap (s.Issued (.g f.d.toNat) 4) (s.famoHome f) :=
  keeps_bind (keeps_srcG ..) fun _ _ => keeps_bind (keeps_srcG ..) fun _ _ => keeps_bind (keeps_atomicAddr ..) fun _ _ =>
    keeps_bind (keeps_destFree ..) fun _ _ => issued_dropAtIssue (issued_issueRmw ..)

theorem keeps_redHome (f : FA) : s.Keeps f.trap (s.Issued (.g 0) 4) (s.redHome f) :=
  keeps_bind (keeps_srcG ..) fun _ _ => keeps_bind (keeps_srcG ..) fun _ _ => keeps_bind (keeps_atomicAddr ..) fun _ _ =>
    issued_dropAtIssue (issued_issue ..)

theorem keeps_fredHome (f : FA) : s.Keeps f.trap (s.Issued (.g 0) 4) (s.fredHome f) :=
  keeps_bind (keeps_srcG ..) fun _ _ => keeps_bind (keeps_srcG ..) fun _ _ => keeps_bind (keeps_atomicAddr ..) fun _ _ =>
    issued_dropAtIssue (issued_issue ..)

end Stops

/-! ## From there to the frame of the instruction -/

/-- An instruction that ends as a computation does that issues, or stops calmly. -/
def State.Issuing (s : State) (trap : Bool) (dest : Dest) (n : Instr) : Prop :=
  ∃ r, exec n s = finish s r ∧ s.Keeps trap (s.Issued dest 4) r

/-- What it leaves, whatever it comes to: a strand like the one before, or like it with its destination empty, but for its program
counter, its loop stack, its bookkeeping and, after a trap, the trap registers. -/
structure State.IssueKept (trap : Bool) (dest : Dest) (s t : State) : Prop where
  elsewhere : s.Elsewhere t
  strand : ∃ st, (st = s.self ∨ st = s.self.empty dest) ∧ st.sameEngines t.self ∧ st.sameControl t.self ∧
    t.self.g = st.g ∧ t.self.gFull = st.gFull ∧ (trap = false → st.sameTrap t.self)

section Conclusions
variable {s t : State} {n : Instr} {trap : Bool}

theorem State.Issuing.kept {dest : Dest} (hn : s.Issuing trap dest n) (h : exec n s = .next t) : s.IssueKept trap dest t := by
  obtain ⟨r, hr, keeps⟩ := hn
  refine finish_keeps (hr ▸ h) keeps (fun u hu => ⟨hu.elsewhere, _, .inr rfl, ?_⟩) (fun e he =>
    ⟨he.aside.elsewhere, _, .inl rfl, he.near.engines, he.near.control, he.near.g, he.near.gFull, he.quiet⟩)
  obtain ⟨engines, control, quiet, -⟩ := frame_advance (fun _ => False) (s.self.empty dest) 4
  rw [hu.self]
  exact ⟨engines, control, rfl, rfl, fun _ => quiet⟩

/-- What of it does not depend on which destination the instruction has. -/
theorem State.IssueKept.rest {dest : Dest} (h : s.IssueKept trap dest t) : s.sameMemory t ∧ t.peers = s.peers ∧ t.saved = s.saved ∧
    t.chans = s.chans ∧ s.self.sameControl t.self ∧ t.self.m = s.self.m ∧ t.self.acc0 = s.self.acc0 ∧ t.self.acc1 = s.self.acc1 ∧
    t.self.sd = s.self.sd ∧ t.self.mq = s.self.mq ∧ t.self.cq = s.self.cq ∧ t.self.v = s.self.v ∧ t.self.q = s.self.q := by
  obtain ⟨elsewhere, st, hst, ⟨hq, -, hv, -, hm, h0, h1, hsd, -, -, hmq, hcq⟩, control, -⟩ := h
  refine ⟨elsewhere.bytes.sameMemory, elsewhere.peers, elsewhere.saved, elsewhere.chans, ?_⟩
  rw [hm, h0, h1, hsd, hmq, hcq, hv, hq]
  obtain rfl | rfl := hst
  · exact ⟨control, rfl, rfl, rfl, rfl, rfl, rfl, rfl, rfl⟩
  · cases dest <;> simpa [Strand.empty, Strand.sameControl] using control

/-- An instruction whose destination is g[d], or g0 where it has none. -/
theorem State.IssueKept.ofG {d : Nat} (h : s.IssueKept trap (.g d) t) :
    (∀ r, t.self.readG r = s.self.readG r ∧ (r ≠ d → t.self.gIsFull r = s.self.gIsFull r)) ∧ t.self.qFull = s.self.qFull ∧
      (trap = false → s.self.sameTrap t.self) := by
  obtain ⟨-, st, hst, ⟨-, hq, -⟩, -, hg, hf, quiet⟩ := h
  have sameG := Strand.sameG hg hf
  rw [hq]
  obtain rfl | rfl := hst
  · exact ⟨fun r => ⟨(sameG r).1, fun _ => (sameG r).2⟩, rfl, quiet⟩
  · obtain ⟨-, -, trapKept, others⟩ := frame_emptyG s.self d
    refine ⟨fun r => ⟨(sameG r).1.trans ?_, fun hr => (sameG r).2.trans (others r hr).2⟩, strand_emptyG_qFull .., fun ht => trapKept.trans (quiet ht)⟩
    rw [Strand.readG, Strand.empty, strand_emptyG_g, Strand.readG]

/-- An instruction whose destination is q[d]. -/
theorem State.IssueKept.ofQ {d : Nat} (h : s.IssueKept trap (.q d) t) :
    (∀ r, t.self.readG r = s.self.readG r ∧ (r ≠ 0 → t.self.gIsFull r = s.self.gIsFull r)) ∧
      ∀ r, r < 32 → r ≠ d → t.self.qFull.getLsbD r = s.self.qFull.getLsbD r := by
  obtain ⟨-, st, hst, ⟨-, hq, -⟩, -, hg, hf, -⟩ := h
  have sameG := Strand.sameG hg hf
  rw [hq]
  obtain rfl | rfl := hst
  · exact ⟨fun r => ⟨(sameG r).1, fun _ => (sameG r).2⟩, fun _ _ _ => rfl⟩
  · refine ⟨fun r => ⟨(sameG r).1, fun _ => (sameG r).2⟩, fun r hr hd => ?_⟩
    simp [Strand.empty, hr, hd]

end Conclusions

/-! ## The groups of instructions -/

theorem issuing_loads (s : State) (i : FI) : ∀ n ∈ [Instr.ldS i, .ldC i, .ldT i, .ldG i], s.Issuing false (.g i.d.toNat) n := by
  simp only [List.forall_mem_cons]
  exact ⟨⟨_, rfl, keeps_load ..⟩, ⟨_, rfl, keeps_load ..⟩, ⟨_, rfl, keeps_load ..⟩, ⟨_, rfl, keeps_load ..⟩, fun _ h => nomatch h⟩

theorem issuing_stores (s : State) (i : FI) : ∀ n ∈ [Instr.stS i, .stC i, .stT i, .stG i], s.Issuing false (.g 0) n := by
  simp only [List.forall_mem_cons]
  exact ⟨⟨_, rfl, keeps_store ..⟩, ⟨_, rfl, keeps_store ..⟩, ⟨_, rfl, keeps_store ..⟩, ⟨_, rfl, keeps_store ..⟩, fun _ h => nomatch h⟩

theorem issuing_atomics (s : State) (f : FA) : ∀ n ∈ [Instr.casS f, .amoS f, .amoG f, .casG f, .famoG f],
    s.Issuing f.trap (.g f.d.toNat) n := by
  simp only [List.forall_mem_cons]
  exact ⟨⟨_, rfl, keeps_casLocal f⟩, ⟨_, rfl, keeps_amoLocal f⟩, ⟨_, rfl, keeps_amoHome f⟩, ⟨_, rfl, keeps_casHome f⟩,
    ⟨_, rfl, keeps_famoHome f⟩, fun _ h => nomatch h⟩

theorem issuing_reductions (s : State) (f : FA) : ∀ n ∈ [Instr.redG f, .fredG f], s.Issuing f.trap (.g 0) n := by
  simp only [List.forall_mem_cons]
  exact ⟨⟨_, rfl, keeps_redHome f⟩, ⟨_, rfl, keeps_fredHome f⟩, fun _ h => nomatch h⟩

/-- Settles O59: each instruction issues or stops calmly. -/
theorem accessFrame : Obligations.AccessFrame := by
  intro s t f i n rest others h
  have toG (d : Nat) (trap : Bool) (hn : s.Issuing trap (.g d) n) :
      rest ∧ others d ∧ t.self.qFull = s.self.qFull ∧ (trap = false → s.self.sameTrap t.self) :=
    ⟨(hn.kept h).rest, (hn.kept h).ofG⟩
  have quiet {d : Nat} (hn : s.Issuing false (.g d) n) : rest ∧ others d ∧ t.self.qFull = s.self.qFull ∧ s.self.sameTrap t.self := by
    obtain ⟨same, gs, qs, trap⟩ := toG d false hn
    exact ⟨same, gs, qs, trap rfl⟩
  have traps {d : Nat} (hn : s.Issuing f.trap (.g d) n) :
      rest ∧ others d ∧ t.self.qFull = s.self.qFull ∧ (f.e = 0 → s.self.sameTrap t.self) := by
    obtain ⟨same, gs, qs, trap⟩ := toG d f.trap hn
    exact ⟨same, gs, qs, fun he => trap (FA.trap_eq_false he)⟩
  refine ⟨fun hn => quiet (issuing_loads s i n hn), fun hn => quiet (issuing_stores s i n hn), fun hn => ?_, fun hn => ?_,
    fun hn => traps (issuing_atomics s f n hn), fun hn => traps (issuing_reductions s f n hn)⟩
  · have issuing : s.Issuing false (.q i.d.toNat) n := hn ▸ ⟨_, rfl, keeps_loadQ i⟩
    have kept := issuing.kept h
    exact ⟨kept.rest, kept.ofQ⟩
  · obtain ⟨same, gs, qs, -⟩ := toG 0 false (hn ▸ ⟨_, rfl, keeps_storeQ i⟩)
    exact ⟨same, gs, qs⟩

end Sys2Proof.Machine

/-! PROOF. O11: fences and the atomics of S space issue their accesses (07 R253 to R255). -/

namespace Sys2Proof.Machine

section Atomics
variable {s : State} {f : FA} {a b c : Word}

/-- cas.s whose address passes its checks and whose sources are full. -/
theorem casLocal_issues {n : Nat} (hn : n = if f.fn = 1 then 4 else 8) (ha : s.source f.a a) (hb : s.source f.b b)
    (hc : s.source f.d c) (h : a.toNat % n = 0) {space : Space} {adr : Word} {place : Option Nat}
    (hl : s.locate .s a n = .ok (space, adr, place)) :
    s.casLocal f = .ok ((s.issueRmw f.d (.cas n c b) space adr place 0x40).advance 4) := by
  have width : (if f.fn == 1 then 4 else 8) = n := by rw [hn]; simp only [beq_iff_eq]
  simp only [State.casLocal, width, srcG_full ha, srcG_full hb, srcG_full hc, hl, h, decide_true, need_true, except_ok_bind, except_pure]

/-- amo.s whose address passes its checks and whose sources are full. -/
theorem amoLocal_issues (ha : s.source f.a a) (hb : s.source f.b b) (hd : s.settled (.g f.d.toNat)) (h : a.toNat % 8 = 0)
    {space : Space} {adr : Word} {place : Option Nat} (hl : s.locate .s a 8 = .ok (space, adr, place)) :
    s.amoLocal f = .ok ((s.issueRmw f.d (.amo f.fn.toNat 8 b) space adr place 0x41).advance 4) := by
  simp only [State.amoLocal, srcG_full ha, srcG_full hb, destFree_settled hd, hl, h, decide_true, need_true, except_ok_bind, except_pure]

end Atomics

/-- Marking a destination empty changes neither the strand's issuer nor its program counter. -/
theorem produce_g_issuer (s : State) (n : Nat) (data : List (Option Byte)) : (s.produce (.g n) data).1.issuer = s.issuer := by
  show State.issuerOf _ (s.self.emptyG n) = s.issuerOf s.self
  simp only [State.issuerOf, State.crewById, produce_crews, strand_emptyG_crew, strand_emptyG_idx, strand_emptyG_priv, strand_emptyG_slot]

/-- The access of a read-modify-write, which comes after the record of its producer where it has one. -/
theorem issueRmw_reqs (s : State) (d : Reg) (op : ReqOp) (sp : Space) (a : Word) (p : Option Nat) (opc : BitVec 8) :
    (s.issueRmw d op sp a p opc).reqs = s.reqs ++
      [{ id := if d = 0 then s.serial else s.serial + 1
         who := s.issuer, pc := s.self.pc, op, kind := .strong, space := sp, addr := a, place := p
         ret := if d = 0 then none else some (s.serial, 0), opc }] := by
  by_cases hd : d = 0
  · subst hd
    rfl
  · rw [if_neg hd, if_neg hd, ← produce_g_issuer s d.toNat (List.replicate 8 none), ← strand_emptyG_pc s.self d.toNat, State.issueRmw,
      if_neg (by simpa using hd)]
    rfl

/-- Settles O11. -/
theorem fencesAndLocalAtomics : Obligations.FencesAndLocalAtomics := by
  intro s f a b c
  refine ⟨rfl, fun n hn ha hb hc h hl hr => ?_, fun ha hb hd h hl hr => ?_, fun op sp ad pl opc => ?_⟩
  · rw [exec_casS, execCasS, casLocal_issues hn ha hb hc h (locate_s hl hr), finish_ok]
  · rw [exec_amoS, execAmoS, amoLocal_issues ha hb hd h (locate_s hl hr), finish_ok]
  · exact ⟨(elsewhere_issueRmw ..).bytes.sameMemory, issueRmw_reqs ..⟩

end Sys2Proof.Machine

/-! PROOF. O10, O13: the arrival queues of words and rings (07 R249 to R252, R257 to R260). One strand joins a queue that is empty:
its request is served at once, and the strand goes on, or it waits. -/

namespace Sys2Proof.Machine

/-- An instruction that retires leaves the state that its operation comes to. -/
theorem exec_retires {s : State} {i : Instr} {r : Except Stop State} {P : State → Prop} (hi : exec i s = finish s r)
    (h : ∃ t, r = .ok t ∧ P t) : ∃ t, exec i s = .next t ∧ P t := by
  obtain ⟨t, rfl, ht⟩ := h
  exact ⟨t, hi, ht⟩

/-! ## Joining a queue -/

/-- The request as which an ask joins the queue of its place. -/
def Ask.waiter (k : Ask) : Waiter :=
  { id := k.state.serial, crew := k.state.self.crew, idx := k.state.self.idx, place := k.place, need := k.need, event := k.event }

/-- The state in which the strand has joined the queue. -/
def Ask.queued (k : Ask) : State :=
  { (k.state.mapSelf (fun st => { st with wait := some (.queued k.state.serial false) })) with
    waiters := k.state.waiters ++ [k.waiter], serial := k.state.serial + 1 }

/-- The state in which the strand goes on, its request answered and gone from the queue. -/
def State.taken (t : State) (w : Waiter) : State :=
  { (t.mapSelf (fun st => { st with wait := none })) with waiters := t.waiters.filter (fun x => x.id != w.id) }

section Joining
variable {s t : State} {k : Ask} {ask : Except Stop Ask} {v : Word}

theorem myWaiter_of_waiters_nil (h : s.waiters = []) : s.myWaiter = none := by rw [State.myWaiter, h]; rfl

theorem queueFor_waits (hs : s.waiters = []) (hk : ask = .ok k) (hw : k.state.waiters = []) (h : k.serve k.queued = k.queued) :
    s.queueFor ask = .error (.wait k.queued) := by
  have own : k.queued.waiters.find? (fun x => x.id == k.state.serial) = some k.waiter := by
    simp [Ask.queued, Ask.waiter, hw]
  unfold Ask.queued Ask.waiter at h own
  simp only [State.queueFor, myWaiter_of_waiters_nil hs, hk, except_ok_bind, h, own]
  rfl

theorem queueFor_answered (hs : s.waiters = []) (hk : ask = .ok k) (h : k.serve k.queued = t)
    (ht : t.waiters = [{ k.waiter with served := some v }]) : s.queueFor ask = .ok (v, t.taken k.waiter) := by
  have own : t.waiters.find? (fun x => x.id == k.state.serial) = some { k.waiter with served := some v } := by
    simp [ht, Ask.waiter]
  unfold Ask.queued Ask.waiter at h
  simp only [State.queueFor, myWaiter_of_waiters_nil hs, hk, except_ok_bind, h, own]
  rfl

end Joining

/-! ## Answers -/

theorem answer_waiters {x : State} {w : Waiter} (hx : x.waiters = [w]) (v : Word) :
    (x.answer w v).waiters = [{ w with served := some v }] := by
  simp [State.answer, hx]

theorem answer_self (k : Ask) (v : Word) :
    (k.queued.answer k.waiter v).self = { k.state.self with wait := some (.queued k.state.serial true) } := by
  simp [State.answer, State.mapStrand, Ask.queued, Ask.waiter]

/-- The strand's request has been answered: it goes on, its request gone from the queue. -/
structure State.Served (s t : State) : Prop where
  self : t.self = { s.self with wait := none }
  waiters : t.waiters = []
  reqs : t.reqs = s.reqs
  returns : t.returns = s.returns
  serial : t.serial = s.serial + 1

/-- A request that is answered as it is made, whatever its service writes: the strand goes on. -/
theorem queueFor_served {s t : State} {k : Ask} {ask : Except Stop Ask} {v : Word} (hs : s.waiters = []) (hk : ask = .ok k)
    (hn : s.Notes k.state) (hserial : k.state.serial = s.serial) (hserve : k.serve k.queued = t)
    (hw : (k.queued.answer k.waiter v).Writes t) (ht : t.serial = k.queued.serial) :
    ∃ u, s.queueFor ask = .ok (v, u) ∧ s.Served u ∧ t.KeepsBytes u := by
  have joined : k.queued.waiters = [k.waiter] := by rw [Ask.queued, hn.waiters, hs]; rfl
  have answered := hw.waiters.trans (answer_waiters joined v)
  refine ⟨_, queueFor_answered hs hk hserve answered, ⟨?_, ?_, hw.reqs.trans hn.reqs, hw.returns.trans hn.returns, ?_⟩,
    ⟨rfl, rfl, rfl, rfl, rfl, rfl⟩⟩
  · show { t.self with wait := none } = _
    rw [hw.self, answer_self, hn.self]
  · show t.waiters.filter _ = []
    simp [answered]
  · exact ht.trans (congrArg (· + 1) hserial)

/-- The strand waits in the queue of a place, and nothing else has changed. -/
structure State.WaitsAt (p : Nat) (need : Need) (event : Event) (s t : State) : Prop where
  self : t.self = { s.self with wait := some (.queued s.serial false) }
  waiters : t.waiters = [{ id := s.serial, crew := s.self.crew, idx := s.self.idx, place := p, need, event }]
  bytes : s.KeepsBytes t
  returns : t.returns = s.returns
  reqs : t.reqs = s.reqs

theorem queued_waitsAt {s : State} {k : Ask} (hs : s.waiters = []) (hn : s.Notes k.state) (hserial : k.state.serial = s.serial) :
    s.WaitsAt k.place k.need k.event k.queued where
  self := by
    show ({ k.state.self with wait := some (.queued k.state.serial false) } : Strand) = _
    rw [hn.self, hserial]
  waiters := by
    rw [Ask.queued, hn.waiters, hs, Ask.waiter, hn.self, hserial]
    rfl
  bytes := ⟨hn.bytes.mem, hn.bytes.lineKey, hn.bytes.dirty, hn.bytes.empties, hn.bytes.poison, hn.bytes.unpub⟩
  returns := hn.returns
  reqs := hn.reqs

/-! ## What is served -/

section Serving
variable {x : State} {w : Waiter} {p : Nat}

/-- A word at which no request stands open is left alone. -/
theorem serveWord_served (h : ∀ y ∈ x.waiters, y.served.isSome = true) (n : Nat) : x.serveWord p n = x := by
  have none_ (P : Waiter → Bool) : x.waiters.find? (fun y => y.place == p && y.served.isNone && P y) = none := by
    simp only [List.find?_eq_none]
    intro y hy
    have := h y hy
    simp [Option.isSome_iff_ne_none.1 this]
  cases n with
  | zero => rfl
  | succ n => simp only [State.serveWord, none_, ite_self]

/-- So are the rings, where no request for a slot stands open. -/
theorem serveRings_idle (h : ∀ y ∈ x.waiters, y.served.isSome = true ∨ (y.need ≠ .claim ∧ y.need ≠ .take)) : x.serveRings = x := by
  have idle : x.waiters.filter (fun y => y.served.isNone && (y.need == .claim || y.need == .take)) = [] := by
    simp only [List.filter_eq_nil_iff]
    intro y hy
    obtain hs | ⟨hc, ht⟩ := h y hy
    · simp [Option.isSome_iff_ne_none.1 hs]
    · simp [hc, ht]
  rw [State.serveRings, idle]
  rfl

/-- A request that has been answered leaves nothing to be served. -/
theorem serve_of_step (hx : x.waiters = [w]) {y : State} {v : Word} (hy : y.waiters = [{ w with served := some v }])
    (h : x.serveWord p 4 = y.serveWord p 3) : x.serve p = y := by
  have served : ∀ z ∈ y.waiters, z.served.isSome = true := by simp [hy]
  rw [State.serve, hx]
  exact (congrArg State.serveRings (h.trans (serveWord_served served 3))).trans (serveRings_idle fun z hz => .inl (served z hz))

/-! A word whose queue holds one request, which is open. -/

section Word
variable (hx : x.waiters = [w]) (hp : w.place = p) (hw : w.served = none)
include hx hp hw

theorem serve_waits (hc : w.need ≠ .claim ∧ w.need ≠ .take) (h : w.need.onFull ≠ x.wordFull p) : x.serve p = x := by
  have stays : x.serveWord p 4 = x := by
    cases hf : x.wordFull p <;> simp [hf] at h <;> simp [State.serveWord, hf, hx, hp, hw, h]
  rw [State.serve, hx]
  exact (congrArg State.serveRings stays).trans (serveRings_idle (by simp [hx, hc]))

theorem serve_takes (hn : w.need = .takeFull) (h : x.wordFull p = true) :
    x.serve p = (x.answer w (x.word64 p)).setFull w.event p false :=
  serve_of_step hx (answer_waiters hx _) (by simp [State.serveWord, h, hx, hp, hw, hn, Need.onFull])

theorem serve_sees (hn : w.need = .seeFull) (h : x.wordFull p = true) : x.serve p = x.answer w 0 :=
  serve_of_step hx (answer_waiters hx _) (by simp [State.serveWord, h, hx, hp, hw, hn, Need.onFull])

theorem serve_puts {v : Word} (hn : w.need = .putEmpty v) (h : x.wordFull p = false) : x.serve p =
    (((x.answer w 0).putAt none p (leBytes 8 v.toNat)).clearPoison p 8).setFull w.event p true :=
  serve_of_step hx (((putAt_keeps ..).1.waiters).trans (answer_waiters hx 0))
    (by simp [State.serveWord, h, hx, hp, hw, hn, Need.onFull])

end Word
end Serving

/-! ## Receiving a value, and going on -/

theorem emptyG_advance_of_wait (st : Strand) (n len : Nat) (w : Option Wait) :
    (({ st with wait := w } : Strand).emptyG n).advance len = (st.emptyG n).advance len := by
  unfold Strand.emptyG
  split <;> rfl

/-- A strand whose request has been answered retires its instruction. -/
theorem State.Served.retires {s u : State} (h : s.Served u) (len : Nat) : (u.advance len).self = s.self.advance len := by
  show u.self.advance len = _
  rw [h.self]
  rfl

/-- It receives the value in g[d], whose record comes after the request's number (01 R34). -/
theorem State.Served.receives {s u : State} (h : s.Served u) (d : Reg) (v : Word) :
    (u.returnsTo d v).self = (if d = 0 then s.self else s.self.emptyG d.toNat).advance 4 ∧ u.KeepsBytes (u.returnsTo d v) ∧
      (u.returnsTo d v).waiters = [] ∧ (u.returnsTo d v).returns = s.returns ++ (if d = 0 then [] else
        [{ id := s.serial + 1, crew := s.self.crew, idx := s.self.idx, dest := .g d.toNat, data := (leBytes 8 v.toNat).map some }]) := by
  unfold State.returnsTo
  by_cases hd : d = 0
  · simp only [if_pos hd, List.append_nil]
    exact ⟨h.retires 4, ⟨rfl, rfl, rfl, rfl, rfl, rfl⟩, h.waiters, h.returns⟩
  · simp only [if_neg hd]
    refine ⟨?_, ⟨rfl, rfl, rfl, rfl, rfl, rfl⟩, h.waiters, ?_⟩
    · show (u.self.emptyG d.toNat).advance 4 = _
      rw [h.self, emptyG_advance_of_wait]
    · show u.returns ++ [{ id := u.serial, crew := u.self.crew, idx := u.self.idx, dest := _, data := _ }] = _
      rw [h.returns, h.serial, h.self]

/-! ## Full/empty words: the requests of ldfe, stfe and wfull -/

def State.takeAsk (s : State) (f : FI) (p : Nat) : Ask :=
  ⟨p, .takeFull, s.veil (s.ownReq (.cas 8 0 0) (f.kindOf false) 0 p) (wordsAt p 8), { s.ownEvent with acq := f.kindOf false == .acq },
    fun t => t.serve p⟩

def State.putAsk (s : State) (f : FI) (v : Word) (p : Nat) : Ask :=
  ⟨p, .putEmpty v, s.veil (s.ownReq (.store (leBytes 8 0)) (f.kindOf true) 0 p) (wordsAt p 8),
    { s.ownEvent with rel := f.kindOf true == .rel }, fun t => t.serve p⟩

def State.seeAsk (s : State) (p : Nat) : Ask := ⟨p, .seeFull, s, {}, fun t => t.serve p⟩

section Words
variable {s : State} {f : FI} {w : FA} {sp : SpaceName} {space : Space} {adr v r : Word} {p : Nat}

theorem takeWord_asks (h : s.addressed f sp 8 = .ok (space, adr, some p)) (hd : s.settled (.g f.d.toNat))
    (ht : s.touches (.cas 8 0 0) (f.kindOf false) p) (hp : s.poisonedAt p 8 = false) :
    s.takeWord f sp = (s.queueFor (.ok (s.takeAsk f p)) >>= fun x => .ok (x.2.returnsTo f.d x.1)) := by
  obtain ⟨a, ha, hl⟩ := except_bind_eq_ok h
  simp only [State.takeWord, ha, hl, destFree_settled hd, touch_goes ht, notPoisoned_clean hp, except_ok_bind, except_pure,
    Option.getD_some, State.returnsTo, beq_iff_eq, apply_ite Except.ok]
  rfl

theorem putWord_asks (h : s.addressed f sp 8 = .ok (space, adr, some p)) (hv : s.source f.d v)
    (ht : s.touches (.store (leBytes 8 0)) (f.kindOf true) p) :
    s.putWord f sp = (s.queueFor (.ok (s.putAsk f v p)) >>= fun x => .ok (x.2.advance 4)) := by
  obtain ⟨a, ha, hl⟩ := except_bind_eq_ok h
  simp only [State.putWord, ha, hl, srcG_full hv, touch_goes ht, except_ok_bind, except_pure, Option.getD_some]
  rfl

theorem waitFull_asks (hr : s.source w.a r) (hp : s.ref 8 8 r = .ok p) :
    s.waitFull w = (s.queueFor (.ok (s.seeAsk p)) >>= fun x => .ok (x.2.advance 4)) := by
  simp only [State.waitFull, srcG_full hr, hp, except_ok_bind, except_pure]
  rfl

theorem writes_setFull (s : State) (e : Event) (p : Nat) (full : Bool) : s.Writes (s.setFull e p full) :=
  ⟨rfl, rfl, rfl, rfl, rfl, rfl, rfl, rfl, rfl, rfl, rfl, rfl, rfl, rfl⟩

theorem writes_clearPoison (s : State) (p n : Nat) : s.Writes (s.clearPoison p n) :=
  ⟨rfl, rfl, rfl, rfl, rfl, rfl, rfl, rfl, rfl, rfl, rfl, rfl, rfl, rfl⟩

/-! Whether the word can serve them at once. -/

/-- A request made in the strand's state or in one that only notes something more. -/
theorem queued_waiters {s : State} {k : Ask} (hs : s.waiters = []) (hn : s.Notes k.state) : k.queued.waiters = [k.waiter] := by
  rw [Ask.queued, hn.waiters, hs]
  rfl

theorem wordFull_queued {s : State} {k : Ask} (hn : s.Notes k.state) (p : Nat) : k.queued.wordFull p = s.wordFull p := by
  show (!sget false k.state.empties (p / 8)) = _
  rw [hn.bytes.empties]
  rfl

/-- ldfe of a full word: it takes the word's value and empties it. -/
theorem takeAsk_served (f : FI) (hs : s.waiters = []) (hf : s.wordFull p = true) :
    ∃ u, s.queueFor (.ok (s.takeAsk f p)) = .ok (s.word64 p, u) ∧ s.Served u ∧ u.mem = s.mem ∧
      u.empties = sset false s.empties (p / 8) true := by
  have noted : s.Notes (s.takeAsk f p).state := notes_veil ..
  have joined := queued_waiters hs noted
  have value : (s.takeAsk f p).queued.word64 p = s.word64 p := congrArg leWord (State.KeepsBytes.bytesAt ⟨rfl, rfl, rfl, rfl, rfl, rfl⟩ ..)
  obtain ⟨u, hu, served, bytes⟩ := queueFor_served hs rfl noted rfl
    (serve_takes joined rfl rfl rfl ((wordFull_queued noted p).trans hf)) (writes_setFull ..) rfl
  exact ⟨u, value ▸ hu, served, bytes.mem, bytes.empties⟩

/-- What a place of a local space reads as after bytes are written there, and every other byte, under no key. -/
theorem byteAt_putAt_local (hi : s.Inv) (hp : Place.isG p = false) (bs : List Byte) (q : Nat) :
    (s.putAt none p bs).byteAt none q = if p ≤ q ∧ q < p + bs.length then (bs[q - p]?).getD 0 else s.byteAt none q := by
  rw [putAt_local hp]
  cases hq : Place.isG q with
  | false => rw [byteAt_local hq, byteAt_local hq, Memory.get_setBytes _ _ _ _ hi.1]
  | true =>
    have below (x : Nat) (hx : x / 128 = q / 128) : Memory.get (Memory.setBytes s.mem p bs) x = Memory.get s.mem x := by
      simp only [Place.isG, decide_eq_true_eq, decide_eq_false_iff_not] at hp hq
      rw [Memory.get_setBytes _ _ _ _ hi.1, if_neg (by omega)]
    have line : (List.range 128).map (fun i => Memory.get (Memory.setBytes s.mem p bs) (128 * (q / 128) + i)) =
        (List.range 128).map (fun i => Memory.get s.mem (128 * (q / 128) + i)) :=
      List.map_congr_left fun i hi => below _ (by have := List.mem_range.1 hi; omega)
    have outside : ¬ (p ≤ q ∧ q < p + bs.length) := by
      simp only [Place.isG, decide_eq_true_eq, decide_eq_false_iff_not] at hp hq
      omega
    rw [if_neg outside]
    simp only [State.byteAt, State.underKey, below q rfl, line]

/-- stfe of an empty word of a local space: it writes the word and marks it full. -/
theorem putAsk_served (f : FI) (v : Word) (hs : s.waiters = []) (hf : s.wordFull p = false) (hi : s.Inv) (hp : Place.isG p = false) :
    ∃ u, s.queueFor (.ok (s.putAsk f v p)) = .ok (0, u) ∧ s.Served u ∧ u.empties = sset false s.empties (p / 8) false ∧
      ∀ q, u.byteAt none q = if p ≤ q ∧ q < p + 8 then ((leBytes 8 v.toNat)[q - p]?).getD 0 else s.byteAt none q := by
  have noted : s.Notes (s.putAsk f v p).state := notes_veil ..
  have written := serve_puts (p := p) (queued_waiters hs noted) rfl rfl (v := v) rfl ((wordFull_queued noted p).trans hf)
  have put := (putAt_keeps ((s.putAsk f v p).queued.answer (s.putAsk f v p).waiter 0) none p (leBytes 8 v.toNat)).1
  rw [putAt_local hp] at written put
  obtain ⟨u, hu, served, bytes⟩ := queueFor_served hs rfl noted rfl written
    ((put.trans (writes_clearPoison ..)).trans (writes_setFull ..)) rfl
  refine ⟨u, hu, served, bytes.empties, fun q => ?_⟩
  have read := byteAt_putAt_local hi hp (leBytes 8 v.toNat) q
  rw [leBytes_length, putAt_local hp] at read
  exact ((byteAt_congr bytes.mem bytes.lineKey bytes.dirty none q).trans (byteAt_congr rfl rfl rfl none q)).trans read

/-- wfull of a full word. -/
theorem seeAsk_served (hs : s.waiters = []) (hf : s.wordFull p = true) :
    ∃ u, s.queueFor (.ok (s.seeAsk p)) = .ok (0, u) ∧ s.Served u ∧ s.KeepsBytes u := by
  have noted : s.Notes (s.seeAsk p).state := .refl s
  obtain ⟨u, hu, served, bytes⟩ := queueFor_served hs rfl noted rfl
    (serve_sees (queued_waiters hs noted) rfl rfl rfl ((wordFull_queued noted p).trans hf)) (.refl _) rfl
  exact ⟨u, hu, served, ⟨bytes.mem, bytes.lineKey, bytes.dirty, bytes.empties, bytes.poison, bytes.unpub⟩⟩

/-- A word that cannot serve the request: the strand waits. -/
theorem queueFor_word_waits {k : Ask} (hs : s.waiters = []) (hn : s.Notes k.state) (hserial : k.state.serial = s.serial)
    (hserve : k.serve = fun t => t.serve k.place) (hneed : k.need ≠ .claim ∧ k.need ≠ .take)
    (h : k.need.onFull ≠ s.wordFull k.place) :
    ∃ t, s.queueFor (.ok k) = .error (.wait t) ∧ s.WaitsAt k.place k.need k.event t :=
  ⟨k.queued, queueFor_waits hs rfl (hn.waiters.trans hs) (by
    rw [hserve]
    exact serve_waits (queued_waiters hs hn) rfl rfl hneed (by rwa [wordFull_queued hn])), queued_waitsAt hs hn hserial⟩

end Words

end Sys2Proof.Machine

/-! PROOF. O10: full/empty words (07 R249 to R252, 05 R181). -/

namespace Sys2Proof.Machine

/-! ## A strand that touches one local word after another: what it has touched before holds nothing back -/

/-- The strand has performed accesses of local words within its instruction: events are recorded, bits of words are set, and what it
veils it veils for other agents. -/
structure State.Touched (s t : State) : Prop where
  eq : ∃ vs es hs n k, t = { s with veils := vs, empties := es, history := hs, writes := n, serial := k }
  serial : s.serial ≤ t.serial
  veils : ∀ v ∈ t.veils, v ∈ s.veils ∨ v.who = s.issuer

section Touching
variable {s t : State} {op : ReqOp} {kind : Kind} {p : Nat}

theorem State.Touched.refl (s : State) : s.Touched s := ⟨⟨_, _, _, _, _, rfl⟩, le_rfl, fun _ => .inl⟩

theorem State.Touched.issuer (h : s.Touched t) : t.issuer = s.issuer := by
  obtain ⟨_, _, _, _, _, rfl⟩ := h.eq
  rfl

/-- Setting a word's bit, which the strand has touched, leaves the next word to be touched as before. -/
theorem State.Touched.set (h : s.Touched t) (r : Req) (hr : r.who = s.issuer) (words : List Nat) (e : Event) (full : Bool) :
    s.Touched (((t.veil r words).setFull e p full).pass) where
  eq := by
    obtain ⟨_, _, _, _, _, rfl⟩ := h.eq
    exact ⟨_, _, _, _, _, rfl⟩
  serial := Nat.le_succ_of_le h.serial
  veils := by
    intro v hv
    obtain hv | hv := List.mem_append.1 hv
    · exact h.veils v hv
    · obtain ⟨_, _, rfl⟩ := List.mem_map.1 hv
      exact .inr hr

theorem located_of_local {r : Req} (h : r.space ≠ .g) : s.located r = r := by simp [State.located, h]

theorem State.Touched.holds (ht : s.Touched t) {e r : Req} (hr : r.space ≠ .g) (home : Bool) (k : Nat) :
    t.holds home e { r with id := k } = s.holds home e r := by
  obtain ⟨_, _, _, _, _, rfl⟩ := ht.eq
  by_cases hs : e.space = r.space
  · have he : e.space ≠ .g := hs ▸ hr
    simp only [State.holds, State.sameWord, located_of_local he, located_of_local hr,
      located_of_local (r := { r with id := k }) hr, beq_false_of_ne hr, Bool.false_eq_true, if_false]
    rfl
  · simp only [State.holds, beq_false_of_ne hs]
    rfl

/-- Every access that the strand has issued before is older, whatever the number of the next. -/
theorem State.Touched.narrowFences (ht : s.Touched t) (hid : ∀ e ∈ s.reqs, e.id < s.serial) {r : Req} (hr : r.space ≠ .g)
    (hi : r.id = s.serial) : t.narrowFences { r with id := t.serial } = s.narrowFences r := by
  have reqs : t.reqs = s.reqs := by obtain ⟨_, _, _, _, _, rfl⟩ := ht.eq; rfl
  unfold State.narrowFences
  rw [reqs]
  congr 1
  apply List.filterMap_congr
  intro e he
  have older : e.id < r.id := hi ▸ hid e he
  have older' : e.id < t.serial := lt_of_lt_of_le (hid e he) ht.serial
  simp only [ht.holds hr, older, older']

theorem State.Touched.orderedPast (ht : s.Touched t) (hid : ∀ e ∈ s.reqs, e.id < s.serial) {r : Req} (hr : r.space ≠ .g)
    (hi : r.id = s.serial) (hk : r.kind ≠ .rel) (past : List Nat) :
    t.orderedPast true past { r with id := t.serial } = s.orderedPast true past r := by
  have reqs : t.reqs = s.reqs := by obtain ⟨_, _, _, _, _, rfl⟩ := ht.eq; rfl
  have crew : t.crewById r.who.crew = s.crewById r.who.crew := by obtain ⟨_, _, _, _, _, rfl⟩ := ht.eq; rfl
  simp only [State.orderedPast, ht.holds hr, reqs, crew, bne_iff_ne.2 hk, Bool.true_or]
  congr 2
  rw [Bool.eq_iff_iff, List.all_eq_true, List.all_eq_true]
  refine forall₂_congr fun e he => ?_
  rw [hi, decide_eq_true (hid e he), decide_eq_true (lt_of_lt_of_le (hid e he) ht.serial)]

theorem State.Touched.orderedFor (ht : s.Touched t) (hid : ∀ e ∈ s.reqs, e.id < s.serial) {r : Req} (hr : r.space ≠ .g)
    (hi : r.id = s.serial) (hk : r.kind ≠ .rel) : t.orderedFor true [] { r with id := t.serial } = s.orderedFor true [] r := by
  simp only [State.orderedFor, ht.narrowFences hid hr hi, ht.orderedPast hid hr hi hk]

/-- What the strand has veiled itself it may touch. -/
theorem State.Touched.veiled (ht : s.Touched t) {n : Nat} {w : Bool} (h : s.veiled s.issuer false p n w = false) :
    t.veiled s.issuer false p n w = false := by
  have fences (v : Veil) : (t.reqs.any fun e => e.id == v.fence && !t.fenceOver e) = s.reqs.any fun e => e.id == v.fence && !s.fenceOver e := by
    obtain ⟨_, _, _, _, _, rfl⟩ := ht.eq
    rfl
  have inside (v : Veil) : t.inInstance v.scope v.who s.issuer false = s.inInstance v.scope v.who s.issuer false := by
    obtain ⟨_, _, _, _, _, rfl⟩ := ht.eq
    rfl
  simp only [State.veiled, List.any_eq_false, fences, inside] at h ⊢
  intro v hv
  obtain hs | own := ht.veils v hv
  · exact h v hs
  · simp [State.inInstance, own, Issuer.same]

theorem State.Touched.touches (ht : s.Touched t) (hid : ∀ e ∈ s.reqs, e.id < s.serial) (hp : Place.space p ≠ .g) (hk : kind ≠ .rel)
    (h : s.touches op kind p) : t.touches op kind p := by
  obtain ⟨owned, may⟩ := h
  obtain ⟨ordered, seen⟩ := Bool.and_eq_true_iff.1 may
  have own : t.ownReq op kind 0 p = { s.ownReq op kind 0 p with id := t.serial } := by obtain ⟨_, _, _, _, _, rfl⟩ := ht.eq; rfl
  refine ⟨?_, Bool.and_eq_true_iff.2 ⟨?_, ?_⟩⟩
  · obtain ⟨_, _, _, _, _, rfl⟩ := ht.eq
    exact owned
  · rw [own, ht.orderedFor hid (r := s.ownReq op kind 0 p) hp rfl hk]
    exact ordered
  · rw [own]
    simp only [Bool.not_eq_true'] at seen ⊢
    exact ht.veiled seen

/-- fefill sets one word after another (R251). -/
theorem fillWords (full : Bool) (hs : s.waiters = []) (hid : ∀ e ∈ s.reqs, e.id < s.serial) (ps : List Nat) :
    ∀ t, s.Touched t → (∀ p ∈ ps, Place.space p ≠ .g ∧ s.touches (.cas 8 0 0) .strong p) →
      ∃ u, ps.foldlM (fun t p => t.fillWord full p) t = .ok u ∧ s.Touched u ∧
        u.empties = ps.foldl (fun m p => sset false m (p / 8) (!full)) t.empties := by
  induction ps with
  | nil => exact fun t ht _ => ⟨t, rfl, ht, rfl⟩
  | cons p ps ih =>
    intro t ht h
    obtain ⟨⟨hp, touches⟩, rest⟩ := List.forall_mem_cons.1 h
    let x := ((t.veil (t.ownReq (.cas 8 0 0) .strong 0 p) (wordsAt p 8)).setFull t.ownEvent p full).pass
    have set : s.Touched x := ht.set _ ht.issuer ..
    have idle : x.serve p = x := by
      have none_ : x.waiters = [] := by obtain ⟨_, _, _, _, _, hx⟩ := set.eq; rw [hx]; exact hs
      exact (congrArg State.serveRings (serveWord_served (by simp [none_]) _)).trans (serveRings_idle (by simp [none_]))
    have step : t.fillWord full p = .ok x := by
      simp only [State.fillWord, touch_goes (ht.touches hid hp (by decide) touches), except_ok_bind, except_pure]
      exact congrArg _ idle
    obtain ⟨u, hu, filled, empties⟩ := ih x set rest
    exact ⟨u, by rw [List.foldlM_cons, step]; exact hu, filled, empties⟩

end Touching
/-! ## One request at its place -/

section Requests
variable {s : State} {f : FI} {w : FA} {sp : SpaceName} {space : Space} {adr v : Word} {p : Nat}

/-- ldfe of a full word (R249). -/
theorem takeWord_takes (hs : s.waiters = []) (h : s.addressed f sp 8 = .ok (space, adr, some p)) (hd : s.settled (.g f.d.toNat))
    (ht : s.touches (.cas 8 0 0) (f.kindOf false) p) (hp : s.poisonedAt p 8 = false) (hf : s.wordFull p = true) :
    ∃ t, s.takeWord f sp = .ok t ∧ t.self = ((if f.d = 0 then s.self else s.self.emptyG f.d.toNat).advance 4) ∧
      t.empties = sset false s.empties (p / 8) true ∧ t.mem = s.mem ∧ t.waiters = [] ∧
      t.returns = s.returns ++ (if f.d = 0 then [] else
        [{ id := s.serial + 1, crew := s.self.crew, idx := s.self.idx, dest := .g f.d.toNat, data := (leBytes 8 (s.word64 p).toNat).map some }]) := by
  obtain ⟨u, hu, served, mem, empties⟩ := takeAsk_served f hs hf
  obtain ⟨self, bytes, waiters, returns⟩ := served.receives f.d (s.word64 p)
  exact ⟨_, by rw [takeWord_asks h hd ht hp, hu, except_ok_bind], self, bytes.empties.trans empties, bytes.mem.trans mem, waiters, returns⟩

/-- stfe of an empty word. -/
theorem putWord_puts (hs : s.waiters = []) (h : s.addressed f sp 8 = .ok (space, adr, some p)) (hv : s.source f.d v)
    (ht : s.touches (.store (leBytes 8 0)) (f.kindOf true) p) (hf : s.wordFull p = false) (hi : s.Inv) (hp : Place.isG p = false) :
    ∃ t, s.putWord f sp = .ok t ∧ t.self = s.self.advance 4 ∧ t.empties = sset false s.empties (p / 8) false ∧ t.waiters = [] ∧
      ∀ q, t.byteAt none q = if p ≤ q ∧ q < p + 8 then ((leBytes 8 v.toNat)[q - p]?).getD 0 else s.byteAt none q := by
  obtain ⟨u, hu, served, empties, bytes⟩ := putAsk_served f v hs hf hi hp
  exact ⟨_, by rw [putWord_asks h hv ht, hu, except_ok_bind], served.retires 4, empties, served.waiters,
    fun q => (byteAt_congr rfl rfl rfl none q).trans (bytes q)⟩

/-- ldfe of an empty word waits. -/
theorem takeWord_waits (hs : s.waiters = []) (h : s.addressed f sp 8 = .ok (space, adr, some p)) (hd : s.settled (.g f.d.toNat))
    (ht : s.touches (.cas 8 0 0) (f.kindOf false) p) (hp : s.poisonedAt p 8 = false) (hf : s.wordFull p = false) :
    ∃ t, s.takeWord f sp = .error (.wait t) ∧
      s.WaitsAt p .takeFull { s.ownEvent with acq := f.kindOf false == .acq } t := by
  obtain ⟨t, ht', waits⟩ := queueFor_word_waits (k := s.takeAsk f p) hs (notes_veil ..) rfl rfl ⟨nofun, nofun⟩ (hf ▸ nofun)
  exact ⟨t, by rw [takeWord_asks h hd ht hp, ht', except_error_bind], waits⟩

/-- So does stfe of a full one. -/
theorem putWord_waits (hs : s.waiters = []) (h : s.addressed f sp 8 = .ok (space, adr, some p)) (hv : s.source f.d v)
    (ht : s.touches (.store (leBytes 8 0)) (f.kindOf true) p) (hf : s.wordFull p = true) :
    ∃ t, s.putWord f sp = .error (.wait t) ∧
      s.WaitsAt p (.putEmpty v) { s.ownEvent with rel := f.kindOf true == .rel } t := by
  obtain ⟨t, ht', waits⟩ := queueFor_word_waits (k := s.putAsk f v p) hs (notes_veil ..) rfl rfl ⟨nofun, nofun⟩ (hf ▸ nofun)
  exact ⟨t, by rw [putWord_asks h hv ht, ht', except_error_bind], waits⟩

/-- An instruction whose request must wait leaves the strand waiting for it. -/
theorem exec_waits {need : Need} {event : Event} {i : Instr} {r : Except Stop State} (hi : exec i s = finish s r)
    (h : ∃ t, r = .error (.wait t) ∧ s.WaitsAt p need event t) :
    ∃ t, exec i s = .next t ∧ t.self = { s.self with wait := some (.queued s.serial false) } ∧
      t.waiters = [{ id := s.serial, crew := s.self.crew, idx := s.self.idx, place := p, need, event }] ∧
      t.mem = s.mem ∧ t.empties = s.empties ∧ t.returns = s.returns ∧ t.reqs = s.reqs := by
  obtain ⟨t, rfl, hw⟩ := h
  exact ⟨t, hi, hw.self, hw.waiters, hw.bytes.mem, hw.bytes.empties, hw.returns, hw.reqs⟩

end Requests

theorem isG_s (core x : Nat) : Place.isG (Place.s core x) = false := by
  exact decide_eq_false (by unfold Place.s; omega)

theorem isG_c (core x : Nat) : Place.isG (Place.c core x) = false := by
  exact decide_eq_false (by unfold Place.c; omega)

theorem space_ne_g {p : Nat} (h : Place.isG p = false) : Place.space p ≠ .g := by
  unfold Place.space
  rw [h]
  split <;> rename_i hg
  · cases hg
  · split
    · nofun
    · split <;> nofun

section Fefill
variable {s : State} {w : FA} {r n : Word}

theorem fefillWords_eq (hr : s.source w.a r) (hn : s.source w.b n) (ha : r.toNat % 8 = 0) (hl : s.crew.isLocal = true)
    (hlt : r.toNat < 2 ^ 19) (hin : r.toNat + 8 * n.toNat ≤ 2 ^ 19) :
    s.fefillWords w = .ok ((List.range n.toNat).map (fun i => Place.s s.self.core (r.toNat + 8 * i))) := by
  simp only [State.fefillWords, srcG_full hr, srcG_full hn, ha, hl, hlt, hin, decide_true, Bool.and_self, need_true, except_ok_bind,
    except_pure]

/-- fefill of words that nothing keeps from the strand (R251). -/
theorem fefill_fills (hs : s.waiters = []) (hid : ∀ e ∈ s.reqs, e.id < s.serial) (hc : s.self.cleared = [])
    (hw : s.fefillWords w = .ok ((List.range n.toNat).map (fun i => Place.s s.self.core (r.toNat + 8 * i))))
    (ht : ∀ i < n.toNat, s.touches (.cas 8 0 0) .strong (Place.s s.self.core (r.toNat + 8 * i))) :
    ∃ t, s.fefill w = .ok t ∧ t.self = s.self.advance 4 ∧ t.mem = s.mem ∧ t.waiters = [] ∧
      t.empties = (List.range n.toNat).foldl (fun m i => sset false m ((Place.s s.self.core r.toNat + 8 * i) / 8) (!(w.fn == 1))) s.empties := by
  obtain ⟨u, hu, touched, empties⟩ := fillWords (w.fn == 1) hs hid ((List.range n.toNat).map fun i => Place.s s.self.core (r.toNat + 8 * i))
    s (.refl s) (by
      simp only [List.forall_mem_map, List.mem_range]
      exact fun i hi => ⟨space_ne_g (isG_s ..), ht i hi⟩)
  have fills : s.fefill w = .ok ((u.mapSelf (fun st => { st with cleared := [] })).advance 4) := by
    simp only [State.fefill, hw, hc, List.length_nil, List.drop_zero, except_ok_bind, hu, except_pure]
  refine ⟨_, fills, ?_, ?_, ?_, ?_⟩
  · obtain ⟨_, _, _, _, _, rfl⟩ := touched.eq
    show ({ s.self with cleared := [] } : Strand).advance 4 = _
    rw [← hc]
  · obtain ⟨_, _, _, _, _, rfl⟩ := touched.eq
    rfl
  · obtain ⟨_, _, _, _, _, rfl⟩ := touched.eq
    exact hs
  · refine Eq.trans empties ?_
    rw [List.foldl_map]
    simp only [Place.s, Nat.add_assoc]

end Fefill

/-- FULL_EMPTY_WAKE ends the waits of the strands in the slot that it names (01 R35). -/
theorem fullEmptyWake_wakes (s : State) : ∃ t, exec .fullEmptyWake s = .next t ∧
    (∀ id, s.self.slot = s.args.unit → s.self.stopped = false → s.self.wait = some (.queued id true) →
      t.self = { s.self with wait := none }) ∧
    (s.self.slot ≠ s.args.unit → t.self = s.self) ∧ t.mem = s.mem ∧ t.peers.length = s.peers.length ∧
    (∀ q ∈ s.peers, q.slot = s.args.unit → q.stopped = false → (∃ id, q.wait = some (.queued id true)) →
      { q with wait := none } ∈ t.peers) := by
  refine ⟨_, rfl, fun id hslot hstop hwait => ?_, fun hslot => ?_, rfl, List.length_map .., fun q hq hslot hstop ⟨id, hwait⟩ => ?_⟩
  · simp only [hslot, hstop, hwait, beq_self_eq_true, Bool.not_false, Bool.and_self, if_true]
  · simp only [beq_false_of_ne hslot, Bool.false_and, Bool.false_eq_true, if_false]
  · refine List.mem_map.2 ⟨q, hq, ?_⟩
    simp only [hslot, hstop, hwait, beq_self_eq_true, Bool.not_false, Bool.and_self, if_true]

/-- Settles O10: at a place of S or C space the request is served at once, or it waits; fefill touches one word after another. -/
theorem fullEmptyWords : Obligations.FullEmptyWords := by
  constructor <;> intro s f
  · intro w b v r n p a take put hs
    refine ⟨fun hb ha hl hx hp => ?_, fun core hb ha hl hx hc hp => ?_, fun hr hp hf => ?_, fun hid hr hn ha hl hlt hin hc ht => ?_⟩
    · have h := hp ▸ (addressed_aligned hb rfl ha .s).trans (locate_s hl hx)
      exact ⟨fun hd ht hpo hf => exec_retires rfl (takeWord_takes hs h hd ht hpo hf),
        fun hv ht hf hi => exec_retires rfl (putWord_puts hs h hv ht hf hi (hp ▸ isG_s ..))⟩
    · have h := hp ▸ (addressed_aligned hb rfl ha .c).trans (locate_c hl hx hc)
      exact ⟨fun hd ht hpo hf => exec_retires rfl (takeWord_takes hs h hd ht hpo hf),
        fun hv ht hf hi => exec_retires rfl (putWord_puts hs h hv ht hf hi (hp ▸ isG_c ..))⟩
    · obtain ⟨u, hu, served, bytes⟩ := seeAsk_served hs hf
      have sees : s.waitFull w = .ok (u.advance 4) := by rw [waitFull_asks hr hp, hu, except_ok_bind]
      exact exec_retires rfl ⟨_, sees, served.retires 4, bytes.empties, bytes.mem, served.waiters⟩
    · exact exec_retires rfl (fefill_fills hs hid hc (fefillWords_eq hr hn ha hl hlt hin) ht)
  · intro p w b v r a waits take put
    refine ⟨fun hs hb ha hl hx hp => ?_, fun core hs hb ha hl hx hc hp => ?_, fun hs hr hp hf => ?_, fullEmptyWake_wakes s⟩
    · have h := hp ▸ (addressed_aligned hb rfl ha .s).trans (locate_s hl hx)
      exact ⟨fun hd ht hpo hf => exec_waits rfl (takeWord_waits hs h hd ht hpo hf),
        fun hv ht hf => exec_waits rfl (putWord_waits hs h hv ht hf)⟩
    · have h := hp ▸ (addressed_aligned hb rfl ha .c).trans (locate_c hl hx hc)
      exact ⟨fun hd ht hpo hf => exec_waits rfl (takeWord_waits hs h hd ht hpo hf),
        fun hv ht hf => exec_waits rfl (putWord_waits hs h hv ht hf)⟩
    · obtain ⟨t, ht, waiting⟩ := queueFor_word_waits (k := s.seeAsk p) hs (.refl s) rfl rfl ⟨nofun, nofun⟩ (hf ▸ nofun)
      exact exec_waits rfl ⟨t, by rw [waitFull_asks hr hp, ht, except_error_bind], waiting⟩

end Sys2Proof.Machine

/-! PROOF. O13: berth rings (07 R257 to R260). -/

namespace Sys2Proof.Machine

/-! ## Descriptors: their places, and what writing them does -/

section Descriptors
variable {s u x : State} {p align n : Nat} {r : Word} {w : Waiter}

/-- A reference names a place of S or C space. -/
theorem ref_local (h : s.ref align n r = .ok p) : Place.isG p = false := by
  simp only [State.ref, reference] at h
  split at h
  · next at_ found =>
    cases h
    split at found
    · cases found
    · split at found
      · cases found
      · split at found
        · next hsp =>
          cases found
          split at hsp
          · simp only [Crew.sSpace, Option.ite_none_right_eq_some, Option.some.injEq] at hsp
            exact hsp.2 ▸ isG_s ..
          · unfold Crew.cSpace at hsp
            split at hsp
            · simp only [Option.ite_none_right_eq_some, Option.some.injEq] at hsp
              exact hsp.2 ▸ isG_c ..
            · cases hsp
        · cases found
  · cases h

/-- A counter instruction that has its descriptor has noted that it touches it, and nothing more. -/
theorem ringAt_notes {kind : Kind} (h : s.ringAt r kind = .ok (p, u)) :
    Place.isG p = false ∧ s.Notes u ∧ u.serial = s.serial := by
  obtain ⟨q, hq, h⟩ := except_bind_eq_ok h
  obtain ⟨t, ht, h⟩ := except_bind_eq_ok h
  obtain ⟨_, _, h⟩ := except_bind_eq_ok h
  obtain ⟨_, _, h⟩ := except_bind_eq_ok h
  cases h
  refine ⟨ref_local hq, ?_⟩
  simp only [State.touch] at ht
  split at ht
  · cases ht
  · split at ht
    · cases ht
      exact ⟨notes_veil .., rfl⟩
    · cases ht

theorem ring_congr (h : s.KeepsBytes u) (p : Nat) : u.ring p = s.ring p := by
  simp only [State.ring, h.bytesAt]

/-- What a write of the strand at a place of a local space leaves. -/
theorem writeAs_local (hp : Place.isG p = false) (x : State) (e : Event) (bs : List Byte) :
    x.Writes (x.writeAs e none p bs) ∧ (x.writeAs e none p bs).mem = Memory.setBytes x.mem p bs ∧
      (x.writeAs e none p bs).empties = x.empties ∧ (x.writeAs e none p bs).serial = x.serial ∧
      (x.writeAs e none p bs).poison = x.poison := by
  have put := (putAt_keeps x none p bs).1
  rw [State.writeAs]
  rw [putAt_local hp] at put ⊢
  refine ⟨put.trans (notes_record ..).writes, ?_, ?_, ?_, ?_⟩ <;> simp only [State.record]

theorem setRing_local (hp : Place.isG p = false) (x : State) (e : Event) (g : Ring) :
    x.Writes (x.setRing e p g) ∧ (x.setRing e p g).mem = Memory.setBytes x.mem p g.bytes ∧
      (x.setRing e p g).empties = x.empties ∧ (x.setRing e p g).serial = x.serial := by
  obtain ⟨writes, mem, empties, serial, _⟩ := writeAs_local hp x { e with reads := true } g.bytes
  exact ⟨writes, mem, empties, serial⟩

/-! ## What a ring serves -/

/-- A ring at which no request for a slot stands open. -/
theorem serveRingN_idle (h : ∀ y ∈ x.waiters, y.served.isSome = true) (p n : Nat) : x.serveRingN p none n = x := by
  have none_ (k : Need) : x.waiters.find? (fun y => y.place == p && y.served.isNone && y.need == k) = none := by
    simp only [List.find?_eq_none]
    intro y hy
    simp [Option.isSome_iff_ne_none.1 (h y hy)]
  cases n with
  | zero => rfl
  | succ n => simp only [State.serveRingN, none_, Option.filter_none]

theorem serveRing_nil (h : x.waiters = []) (p : Nat) : x.serveRing p = x := serveRingN_idle (by simp [h]) p _

theorem all_served {v : Word} (h : x.waiters = [{ w with served := some v }]) : ∀ y ∈ x.waiters, y.served.isSome = true := by
  simp [h]

section Queue
variable (hx : x.waiters = [w]) (hp : w.place = p) (hw : w.served = none)
include hx hp hw

theorem find_open (k : Need) : x.waiters.find? (fun y => y.place == p && y.served.isNone && y.need == k) =
    if w.need = k then some w else none := by
  simp only [hx, List.find?_singleton, hp, hw, beq_self_eq_true, Option.isNone_none, Bool.and_self, Bool.true_and, beq_iff_eq]

theorem serveRing_claims (hn : w.need = .claim) (hc : w.crew ≠ 0)
    (h : ((x.ring p).claim - (x.ring p).free).toNat < (x.ring p).slots) (hl : Place.isG p = false) : x.serveRing p =
      (x.answer w ((x.ring p).slotRef (x.ring p).claim)).setRing w.event p { x.ring p with claim := (x.ring p).claim + 1 } := by
  have served := (setRing_local hl (x.answer w ((x.ring p).slotRef (x.ring p).claim)) w.event
    { x.ring p with claim := (x.ring p).claim + 1 }).1.waiters.trans (answer_waiters hx _)
  rw [State.serveRing, hx, List.length_singleton, State.serveRingN]
  simp only [find_open hx hp hw, hn, if_true, Option.filter_some, h, bne_iff_ne.2 hc, Bool.true_or, decide_true, Bool.and_self]
  exact serveRingN_idle (all_served served) p 1

theorem serveRing_takes (hn : w.need = .take) (hc : w.crew ≠ 0)
    (h : 0 < ((x.ring p).post - (x.ring p).take).toNat) (hl : Place.isG p = false) : x.serveRing p =
      (x.answer w ((x.ring p).slotRef (x.ring p).take)).setRing w.event p { x.ring p with take := (x.ring p).take + 1 } := by
  have served := (setRing_local hl (x.answer w ((x.ring p).slotRef (x.ring p).take)) w.event
    { x.ring p with take := (x.ring p).take + 1 }).1.waiters.trans (answer_waiters hx _)
  rw [State.serveRing, hx, List.length_singleton, State.serveRingN]
  simp only [find_open hx hp hw, hn, reduceCtorEq, if_true, if_false, Option.filter_some, Option.filter_none, h, bne_iff_ne.2 hc,
    Bool.true_or, decide_true, Bool.and_self]
  exact serveRingN_idle (all_served served) p 1

/-- A ring that has no slot of the kind asked for. -/
theorem serveRing_waits (hclaim : w.need = .claim → (x.ring p).slots ≤ ((x.ring p).claim - (x.ring p).free).toNat)
    (htake : w.need = .take → ((x.ring p).post - (x.ring p).take).toNat = 0) : x.serveRing p = x := by
  rw [State.serveRing, hx, List.length_singleton, State.serveRingN]
  simp only [find_open hx hp hw]
  by_cases hc : w.need = .claim
  · simp only [hc, if_true, reduceCtorEq, if_false, Option.filter_some, Option.filter_none, Nat.not_lt.2 (hclaim hc), decide_false,
      Bool.and_false, Bool.false_eq_true]
  · by_cases ht : w.need = .take
    · simp only [ht, if_true, reduceCtorEq, if_false, Option.filter_some, Option.filter_none, htake ht, lt_irrefl, decide_false,
        Bool.and_false, Bool.false_eq_true]
    · simp only [hc, ht, if_false, Option.filter_none]

end Queue
end Descriptors

/-! ## The counter instructions -/

/-- The request of rgclaim or rgtake, its descriptor found. -/
def State.slotAsk (s u : State) (need : Need) (p : Nat) : Ask :=
  ⟨p, need, u, { s.ownEvent with acq := true }, fun t => t.serveRing p⟩

/-- The strand receives a slot reference, and the descriptor holds the counters `g`. -/
def State.HandsSlot (s : State) (f : FA) (p : Nat) (v : Word) (g : Ring) (t : State) : Prop :=
  t.mem = Memory.setBytes s.mem p g.bytes ∧
    t.self = ((if f.d = 0 then s.self else s.self.emptyG f.d.toNat).advance 4) ∧ t.waiters = [] ∧
    t.returns = s.returns ++ (if f.d = 0 then [] else
      [{ id := s.serial + 1, crew := s.self.crew, idx := s.self.idx, dest := .g f.d.toNat, data := (leBytes 8 v.toNat).map some }])

section Counters
variable {s u : State} {f : FA} {r cfg : Word} {p : Nat} {n : Need} {g : Ring}

theorem ringSlot_asks (hr : s.source f.a r) (h : s.ringAt r .acq = .ok (p, u)) (hd : s.settled (.g f.d.toNat)) :
    s.ringSlot f n = (s.queueFor (.ok (s.slotAsk u n p)) >>= fun x => .ok (x.2.returnsTo f.d x.1)) := by
  simp only [State.ringSlot, srcG_full hr, h, destFree_settled hd, except_ok_bind, except_pure, State.returnsTo, beq_iff_eq,
    apply_ite Except.ok]
  rfl

theorem ring_queued {k : Ask} (hn : s.Notes k.state) (p : Nat) : k.queued.ring p = s.ring p :=
  (ring_congr (s := k.state) ⟨rfl, rfl, rfl, rfl, rfl, rfl⟩ p).trans (ring_congr hn.bytes p)

/-- A ring without such a slot: the strand waits in its queue. -/
theorem ringSlot_waits (hs : s.waiters = []) (hr : s.source f.a r) (h : s.ringAt r .acq = .ok (p, u)) (hd : s.settled (.g f.d.toNat))
    (hclaim : n = .claim → (s.ring p).slots ≤ ((s.ring p).claim - (s.ring p).free).toNat)
    (htake : n = .take → ((s.ring p).post - (s.ring p).take).toNat = 0) :
    ∃ t, s.ringSlot f n = .error (.wait t) ∧ s.WaitsAt p n { s.ownEvent with acq := true } t := by
  obtain ⟨_, noted, serial⟩ := ringAt_notes h
  have same := ring_queued (k := s.slotAsk u n p) noted p
  have stays : (s.slotAsk u n p).queued.serveRing p = (s.slotAsk u n p).queued :=
    serveRing_waits (queued_waiters (k := s.slotAsk u n p) hs noted) rfl rfl (by rwa [same]) (by rwa [same])
  exact ⟨_, by rw [ringSlot_asks hr h hd, queueFor_waits hs rfl (noted.waiters.trans hs) stays, except_error_bind],
    queued_waitsAt (k := s.slotAsk u n p) hs noted serial⟩

/-- A ring whose service answers the request with `v` and writes the counters `g`. -/
theorem ringSlot_served {v : Word} (hs : s.waiters = []) (hr : s.source f.a r) (h : s.ringAt r .acq = .ok (p, u))
    (hd : s.settled (.g f.d.toNat)) (hserve : (s.slotAsk u n p).queued.serveRing p =
      ((s.slotAsk u n p).queued.answer (s.slotAsk u n p).waiter v).setRing { s.ownEvent with acq := true } p g) :
    ∃ t, s.ringSlot f n = .ok t ∧ s.HandsSlot f p v g t := by
  obtain ⟨hl, noted, serial⟩ := ringAt_notes h
  obtain ⟨writes, mem, _, serial'⟩ := setRing_local hl ((s.slotAsk u n p).queued.answer (s.slotAsk u n p).waiter v)
    { s.ownEvent with acq := true } g
  obtain ⟨t, ht, served, bytes⟩ := queueFor_served hs rfl noted serial hserve writes serial'
  obtain ⟨self, kept, waiters, returns⟩ := served.receives f.d v
  exact ⟨_, by rw [ringSlot_asks hr h hd, ht, except_ok_bind],
    (kept.mem.trans bytes.mem).trans (mem.trans (congrArg (Memory.setBytes · p g.bytes) noted.bytes.mem)), self, waiters, returns⟩

/-- rgclaim of a ring that has a free slot (R259). -/
theorem ringSlot_claims (hs : s.waiters = []) (hr : s.source f.a r) (h : s.ringAt r .acq = .ok (p, u)) (hc : s.self.crew ≠ 0)
    (hd : s.settled (.g f.d.toNat)) (hroom : ((s.ring p).claim - (s.ring p).free).toNat < (s.ring p).slots) :
    ∃ t, s.ringSlot f .claim = .ok t ∧
      s.HandsSlot f p ((s.ring p).slotRef (s.ring p).claim) { s.ring p with claim := (s.ring p).claim + 1 } t := by
  obtain ⟨hl, noted, _⟩ := ringAt_notes h
  have same := ring_queued (k := s.slotAsk u .claim p) noted p
  have serves := serveRing_claims (p := p) (queued_waiters (k := s.slotAsk u .claim p) hs noted) rfl rfl rfl
    (fun e => hc (noted.self ▸ e)) (by rwa [same]) hl
  rw [same] at serves
  exact ringSlot_served hs hr h hd serves

/-- rgtake of a ring that has a posted slot. -/
theorem ringSlot_takes (hs : s.waiters = []) (hr : s.source f.a r) (h : s.ringAt r .acq = .ok (p, u)) (hc : s.self.crew ≠ 0)
    (hd : s.settled (.g f.d.toNat)) (hposted : 0 < ((s.ring p).post - (s.ring p).take).toNat) :
    ∃ t, s.ringSlot f .take = .ok t ∧
      s.HandsSlot f p ((s.ring p).slotRef (s.ring p).take) { s.ring p with take := (s.ring p).take + 1 } t := by
  obtain ⟨hl, noted, _⟩ := ringAt_notes h
  have same := ring_queued (k := s.slotAsk u .take p) noted p
  have serves := serveRing_takes (p := p) (queued_waiters (k := s.slotAsk u .take p) hs noted) rfl rfl rfl
    (fun e => hc (noted.self ▸ e)) (by rwa [same]) hl
  rw [same] at serves
  exact ringSlot_served hs hr h hd serves

/-- The counters that rgpost or rgfree leaves. -/
def Ring.moved (g : Ring) (post : Bool) : Ring := if post then { g with post := g.post + 1 } else { g with free := g.free + 1 }

/-- A counter that may move is written, and nothing waits to be served. -/
theorem ringMove_moves {post : Bool} (hs : s.waiters = []) (hr : s.source f.a r) (h : s.ringAt r .rel = .ok (p, u))
    (hm : (if post then (s.ring p).post != (s.ring p).claim else (s.ring p).free != (s.ring p).take) = true) :
    ∃ t, s.ringMove f post = .ok t ∧ t.mem = Memory.setBytes s.mem p ((s.ring p).moved post).bytes ∧ t.self = s.self.advance 4 ∧
      t.waiters = [] ∧ t.reqs = s.reqs ∧ t.returns = s.returns ∧ t.empties = s.empties := by
  obtain ⟨hl, noted, _⟩ := ringAt_notes h
  obtain ⟨writes, mem, empties, _⟩ := setRing_local hl u { s.ownEvent with rel := true } ((s.ring p).moved post)
  have all := (noted.writes.trans writes).trans (notes_pass _).writes
  have idle := serveRing_nil (all.waiters.trans hs) p
  have moves : s.ringMove f post = .ok ((u.setRing { s.ownEvent with rel := true } p ((s.ring p).moved post)).pass.advance 4) := by
    unfold Ring.moved at idle ⊢
    simp only [State.ringMove, srcG_full hr, h, hm, need_true, except_ok_bind, except_pure, idle]
  exact ⟨_, moves, mem.trans (congrArg (Memory.setBytes · p _) noted.bytes.mem), congrArg (Strand.advance · 4) all.self,
    all.waiters.trans hs, all.reqs, all.returns, empties.trans noted.bytes.empties⟩

theorem ringMove_faults {post : Bool} (hr : s.source f.a r) (h : s.ringAt r .rel = .ok (p, u))
    (hm : (if post then (s.ring p).post != (s.ring p).claim else (s.ring p).free != (s.ring p).take) = false) :
    s.ringMove f post = .error (.fault MODE r) := by
  simp only [State.ringMove, srcG_full hr, h, hm, need_false, except_ok_bind, except_error_bind]

theorem emptyRing_bytes (cfg : Word) : Ring.bytes ⟨cfg, 0, 0, 0, 0⟩ ++ leBytes 8 0 = leBytes 8 cfg.toNat ++ List.replicate 24 0 := by
  have zeros : leBytes 4 (0 : BitVec 32).toNat = List.replicate 4 0 := rfl
  simp only [Ring.bytes, zeros, List.append_assoc]
  rfl

/-- rginit writes the configuration and clears the counters (R258). -/
theorem rginit_clears (hs : s.waiters = []) (hr : s.source f.a r) (hc : s.source f.b cfg) (hp : s.ref 32 32 r = .ok p)
    (hok : s.ringOk s.crew s.self.core cfg = .ok ()) (ht : s.touches (.store (leBytes 32 0)) .strong p) :
    ∃ t, s.rginit f = .ok t ∧ t.self = s.self.advance 4 ∧
      t.mem = Memory.setBytes s.mem p (leBytes 8 cfg.toNat ++ List.replicate 24 0) ∧
      t.poison = (s.clearPoison p 32).poison ∧ t.empties = s.empties ∧ t.waiters = [] ∧ t.reqs = s.reqs ∧ t.returns = s.returns := by
  obtain ⟨u, goes, noted⟩ : ∃ u, s.touch (.store (leBytes 32 0)) .strong p = .ok u ∧ s.Notes u := ⟨_, touch_goes ht, notes_veil ..⟩
  obtain ⟨writes, mem, empties, _, poison⟩ :=
    writeAs_local (ref_local hp) u s.ownEvent (leBytes 8 cfg.toNat ++ List.replicate 24 0)
  generalize hx : u.writeAs s.ownEvent none p (leBytes 8 cfg.toNat ++ List.replicate 24 0) = x at writes mem empties poison
  have all := (noted.writes.trans writes).trans ((notes_pass _).writes.trans (writes_clearPoison _ p 32))
  have idle := serveRing_nil (all.waiters.trans hs) p
  have inits : s.rginit f = .ok ((x.pass.clearPoison p 32).advance 4) := by
    simp only [State.rginit, srcG_full hr, srcG_full hc, hp, hok, goes, except_ok_bind, except_pure, liftCode, emptyRing_bytes, hx, idle]
  exact ⟨_, inits, congrArg (Strand.advance · 4) all.self, mem.trans (congrArg (Memory.setBytes · p _) noted.bytes.mem),
    by simp only [advance_poison, State.clearPoison, State.pass, poison, noted.bytes.poison], empties.trans noted.bytes.empties,
    all.waiters.trans hs, all.reqs, all.returns⟩

end Counters

/-- Settles O13. -/
theorem berthRings : Obligations.BerthRings := by
  intro s u f r cfg p g moves waits hs hr
  have waiting {i : Instr} {n : Need} (hi : exec i s = finish s (s.ringSlot f n)) (h : s.ringAt r .acq = .ok (p, u))
      (hd : s.settled (.g f.d.toNat)) (hclaim : n = .claim → g.slots ≤ (g.claim - g.free).toNat)
      (htake : n = .take → (g.post - g.take).toNat = 0) : waits i n := by
    obtain ⟨t, next, self, waiters, mem, _, returns, reqs⟩ := exec_waits hi (ringSlot_waits hs hr h hd hclaim htake)
    exact ⟨t, next, self, mem, waiters, returns, reqs⟩
  refine ⟨fun hc hp hok ht => ?_, fun h => ⟨fun hm => ?_, fun hm => ?_, fun hm => ?_, fun hm => ?_⟩,
    fun h => ⟨fun hd hfull => ?_, fun hd hempty => ?_, fun hc hd hroom => ?_, fun hc hd hposted => ?_⟩⟩
  · exact exec_retires rfl (rginit_clears hs hr hc hp hok ht)
  · exact exec_retires rfl (ringMove_moves (post := true) hs hr h (bne_iff_ne.2 hm))
  · exact congrArg (finish s) (ringMove_faults (post := true) hr h (by simpa using hm))
  · exact exec_retires rfl (ringMove_moves (post := false) hs hr h (bne_iff_ne.2 hm))
  · exact congrArg (finish s) (ringMove_faults (post := false) hr h (by simpa using hm))
  · exact waiting rfl h hd (fun _ => hfull) nofun
  · exact waiting rfl h hd nofun (fun _ => by rw [hempty, BitVec.sub_self]; rfl)
  · exact exec_retires rfl (ringSlot_claims hs hr h hc hd hroom)
  · exact exec_retires rfl (ringSlot_takes hs hr h hc hd hposted)

end Sys2Proof.Machine

/-! PROOF. O12: prefetches, lease queries, the split of a tower's SRAM and lane exchanges (07 R242, R256, R261, R262). -/

namespace Sys2Proof.Machine

/-! ## A prefetch changes copies and leases only (R261) -/

/-- Copies have come or gone, leases are noted, and places of ranges are learnt: nothing else has changed. -/
def State.Fetches (s t : State) : Prop := ∃ cs le rs, t = { s with copies := cs, lexp := le, ranges := rs }

section Prefetch
variable {s t u : State}

theorem State.Fetches.refl (s : State) : s.Fetches s := ⟨_, _, _, rfl⟩

theorem State.Fetches.trans (h : s.Fetches t) (g : t.Fetches u) : s.Fetches u := by
  obtain ⟨_, _, _, rfl⟩ := h
  obtain ⟨_, _, _, rfl⟩ := g
  exact ⟨_, _, _, rfl⟩

theorem State.Fetches.withLexp (h : s.Fetches t) (m : Sparse Nat) : s.Fetches { t with lexp := m } := h.trans ⟨_, _, _, rfl⟩

/-- A slice that holds a copy has room without writing a line back. -/
theorem fetches_fitL2 {k : Nat} {c : Copy} (hc : c ∈ s.copies) (hk : c.inSlice k = true) : s.Fetches (s.fitL2 k) := by
  have found : (s.copies.findIdx? (fun c => c.inSlice k)).isSome = true := by
    rw [List.findIdx?_isSome, List.any_eq_true]
    exact ⟨c, hc, hk⟩
  obtain ⟨i, hi⟩ := Option.isSome_iff_exists.1 found
  simp only [State.fitL2, hi]
  split
  · exact .refl s
  · exact ⟨_, _, _, rfl⟩

theorem inSlice_slice {c : Copy} {n : Nat} (h : c.holder = .tower n) : c.inSlice (c.slice n) = true := by
  have tower : c.slice n / 64 = n := by
    unfold Copy.slice
    omega
  simp only [Copy.inSlice, tower, h, beq_self_eq_true, Bool.and_self]

theorem fetches_putCopy (s : State) (c : Copy) : s.Fetches (s.putCopy c) := by
  unfold State.putCopy
  split
  · next n h => exact .trans ⟨_, _, _, rfl⟩ (fetches_fitL2 (List.mem_append_right _ (List.mem_singleton_self c)) (inSlice_slice h))
  · exact ⟨_, _, _, rfl⟩

theorem fetches_learn (s : State) (asid : BitVec 16) (va : Word) (p : Nat) : s.Fetches (s.learn asid va p) := by
  unfold State.learn
  split
  · exact .refl s
  · exact ⟨_, _, _, rfl⟩

theorem fetches_grant (s : State) (h : Holder) (asid : BitVec 16) (va : Word) (t : Trans) : s.Fetches (s.grant h asid va t) := by
  refine (fetches_learn s asid va t.place).trans (State.Fetches.withLexp ?_ _)
  split
  · exact (fetches_putCopy ..).trans (fetches_putCopy ..)
  · exact fetches_putCopy ..

theorem prefetch_fetches {f : FI} {b : Word} (hb : s.source f.a b) : ∃ t, s.prefetch f = .ok t ∧ (s.advance 4).Fetches t := by
  simp only [State.prefetch, srcG_full hb, except_ok_bind, except_pure, ← apply_ite Except.ok]
  split
  · exact ⟨_, rfl, .refl _⟩
  · split
    · refine ⟨_, rfl, ?_⟩
      split_ifs
      · exact .refl _
      · exact fetches_grant ..
      · exact .refl _
      · exact fetches_grant ..
    · exact ⟨_, rfl, .refl _⟩

/-- Every byte, every access and every other strand stay as they were. -/
theorem pref_leaves {i : FI} {a : Word} (ha : s.source i.a a) : ∃ t, s.prefetch i = .ok t ∧ t.self = s.self.advance 4 ∧
    s.sameMemory t ∧ t.reqs = s.reqs ∧ t.returns = s.returns ∧ t.ctxs = s.ctxs ∧ t.pageFaults = s.pageFaults := by
  obtain ⟨t, e, fetches⟩ := prefetch_fetches ha
  refine ⟨t, e, ?_⟩
  obtain ⟨_, _, _, rfl⟩ := fetches
  exact ⟨rfl, State.KeepsBytes.sameMemory ⟨rfl, rfl, rfl, rfl, rfl, rfl⟩, rfl, rfl, rfl, rfl⟩

end Prefetch

/-! ## The lease query (R262) -/

/-- The expiry of the lease of this core's copy that serves an address, or 0. -/
def State.ownLease (s : State) (a : Word) : Word :=
  match s.copies.find? (fun c => c.holder == .l1 s.self.core && c.serves s s.crew.asid a) with
  | some c => word c.expiry
  | none => 0

section Leaseq
variable {s : State} {f : FA} {a : Word}

theorem leaseq_answers (ha : s.source f.a a) (hc : canonical a = true) (hd : s.settled (.g f.d.toNat)) :
    s.leaseq f = .ok (s.returnsTo f.d (s.ownLease a)) := by
  simp only [State.leaseq, srcG_full ha, hc, destFree_settled hd, need_true, except_ok_bind, except_pure, State.returnsTo, beq_iff_eq,
    apply_ite (fun t => State.advance t 4)]
  rfl

theorem leaseq_faults (ha : s.source f.a a) (hc : canonical a = false) : s.leaseq f = .error (.fault VA_NONCANON a) := by
  simp only [State.leaseq, srcG_full ha, hc, need_false, except_ok_bind, except_error_bind]

end Leaseq

/-! ## The split of a tower's SRAM (R242) -/

/-- What a canonical map reads as once the entries of some keys are dropped. -/
theorem sget_filter {α : Type} [DecidableEq α] (d : α) (drop : Nat → Bool) (m : Sparse α) (lo : Option Nat) (h : swfFrom d lo m = true)
    (k : Nat) : sget d (m.filter (fun c => !drop c.1)) k = if drop k = true then d else sget d m k := by
  induction m generalizing lo with
  | nil => simp [sget]
  | cons e m ih =>
    obtain ⟨j, v⟩ := e
    simp only [swfFrom, Bool.and_eq_true] at h
    have rest := ih (some j) h.2
    by_cases hj : drop j = true
    · simp only [List.filter_cons, hj, Bool.not_true, Bool.false_eq_true, if_false, rest, sget]
      by_cases hk : j = k
      · subst hk
        simp [hj]
      · by_cases hlt : k < j
        · simp [hk, hlt, sget_below h.2 (Nat.le_of_lt hlt)]
        · simp [hk, hlt]
    · simp only [List.filter_cons, hj, Bool.not_false, if_true, sget, rest]
      by_cases hk : j = k
      · subst hk
        simp [hj]
      · simp only [hk, if_false]
        split_ifs <;> rfl

section Tsplit
variable {s : State} {f : FA} {a : Word}

/-- The state at the End of a tsplit that a strand of tower `t` makes from `lo` to `hi`, having waited for `lines`. -/
def State.splitTo (u : State) (t n lo hi : Nat) (lines : List Nat) (grows : Prop) [Decidable grows] : State :=
  { ({ u.fenced 0 2 with
      dirty := lines.foldl (fun m l => sset false m l false) u.dirty
      copies := if grows then u.copies.filter (fun c => c.holder != .tower t) else u.copies } : State).setTower t
      (fun x => { x with tUnits := n, resizing := none }) with
    mem := u.mem.filter (fun c => !(lo ≤ c.1 && c.1 < hi))
    poison := u.poison.filter (fun c => !(lo ≤ 8 * c.1 && 8 * c.1 < hi)) }

theorem tower_setTower {t : Nat} (h : t < s.towers.length) (g : Tower → Tower) : (s.setTower t g).tower t = g (s.tower t) := by
  simp only [State.tower, State.setTower, List.getElem?_modify, if_true, List.getElem?_eq_getElem h, Option.map_eq_map, Option.map_some,
    Option.getD_some]

theorem tsplitReady_goes (hp : s.self.priv = true) (ha : s.source f.a a) (h8 : a.toNat ≤ 8) (hd : s.drained s.issuer = true)
    (hl : s.leasesOver s.issuer s.serial 2 = true) (hr : (s.tower s.self.tower).resizing = none ∨ s.self.cleared ≠ []) :
    s.tsplitReady f = .ok a.toNat := by
  have free : ((s.tower s.self.tower).resizing.isNone || !s.self.cleared.isEmpty) = true := by
    simpa only [Bool.or_eq_true, Option.isNone_iff_eq_none, Bool.not_eq_true', List.isEmpty_eq_false_iff] using hr
  simp only [State.tsplitReady, State.supervisor, hp, srcG_full ha, h8, hd, hl, free, decide_true, Bool.and_self, need_true,
    holdFor_true, except_ok_bind, except_pure]

theorem tsplit_user (hp : s.self.priv = false) : s.tsplit f = .error (.fault PRIV s.self.pc) := by
  simp only [State.tsplit, State.tsplitReady, State.supervisor, hp, need_false, except_error_bind]

theorem tsplit_above (hp : s.self.priv = true) (ha : s.source f.a a) (h : 8 < a.toNat) :
    s.tsplit f = .error (.fault ILL_FIELD a) := by
  simp only [State.tsplit, State.tsplitReady, State.supervisor, hp, srcG_full ha, Nat.not_le.2 h, decide_false, need_true, need_false,
    except_ok_bind, except_error_bind]

theorem holdUnits_over {units : List Nat} (h : ∀ u ∈ units, sget 0 s.lexp u ≤ s.tide) :
    s.holdUnits units = .ok (s.holdOff s.self.crew s.self.idx) := by
  simp only [State.holdUnits, List.all_eq_true, decide_eq_true_eq]
  rw [if_pos h]

/-- tsplit that waits for nothing (R242). -/
theorem tsplit_goes {n lo hi : Nat} (hready : s.tsplitReady f = .ok n)
    (hlo : Place.t s.self.tower (min (s.tsize s.self.tower) (n * 0x4000000)) = lo)
    (hhi : Place.t s.self.tower (max (s.tsize s.self.tower) (n * 0x4000000)) = hi)
    (hu : ¬ s.tsize s.self.tower ≤ n * 0x4000000 → s.usesT lo hi = false)
    (hl : s.tsize s.self.tower < n * 0x4000000 → ∀ l ∈ s.dirtyIn s.self.tower, sget 0 s.lexp l ≤ s.tide) :
    ∃ lines, s.tsplit f = .ok ((((s.holdOff s.self.crew s.self.idx).splitTo s.self.tower n lo hi lines
      (s.tsize s.self.tower < n * 0x4000000)).mapSelf (fun st => { st with cleared := [] })).advance 4) := by
  have idle : (decide (s.tsize s.self.tower ≤ n * 0x4000000) || !s.usesT lo hi) = true := by
    by_cases hle : s.tsize s.self.tower ≤ n * 0x4000000
    · rw [decide_eq_true hle, Bool.true_or]
    · rw [hu hle, Bool.not_false, Bool.or_true]
  have waited : ∀ l ∈ (if s.tsize s.self.tower < n * 0x4000000 then s.dirtyIn s.self.tower else []),
      sget 0 s.lexp l ≤ s.tide := by
    intro l hm
    split at hm
    · next h => exact hl h l hm
    · exact absurd hm List.not_mem_nil
  refine ⟨if s.tsize s.self.tower < n * 0x4000000 then s.dirtyIn s.self.tower else [], ?_⟩
  unfold State.tsplit
  rw [hready, except_ok_bind]
  dsimp only
  rw [hlo, hhi, idle, holdFor_true, except_ok_bind, holdUnits_over waited, except_ok_bind]
  rfl

/-- A place's byte, in the memory of which the bytes of some places have been cleared. -/
theorem get_cleared {m : Memory} (h : m.wf = true) (lo hi q : Nat) :
    Memory.get (m.filter (fun c => !(lo ≤ c.1 && c.1 < hi))) q = if lo ≤ q ∧ q < hi then 0 else Memory.get m q := by
  have filtered := sget_filter (0 : Byte) (fun k => decide (lo ≤ k) && decide (k < hi)) m none h q
  simpa only [Memory.get, Bool.and_eq_true, decide_eq_true_eq] using filtered

/-- What it leaves: the new size, no copy of the tower where T space grew, and the bytes between the sizes cleared. -/
theorem tsplit_leaves {n : Nat} (hready : s.tsplitReady f = .ok n) (ht : s.self.tower < s.towers.length)
    (hu : n < (s.tower s.self.tower).tUnits →
      s.usesT (Place.t s.self.tower (n * 2 ^ 26)) (Place.t s.self.tower ((s.tower s.self.tower).tUnits * 2 ^ 26)) = false)
    (hl : (s.tower s.self.tower).tUnits < n → ∀ l ∈ s.dirtyIn s.self.tower, sget 0 s.lexp l ≤ s.tide) :
    ∃ t, s.tsplit f = .ok t ∧ ((s.tower s.self.tower).tUnits < n → ∀ c ∈ t.copies, c.holder ≠ .tower s.self.tower) ∧
      (t.tower s.self.tower).tUnits = n ∧ (t.tower s.self.tower).resizing = none ∧
      t.self = { s.self with cleared := [] }.advance 4 ∧
      (s.Inv → ∀ q, Memory.get t.mem q = if Place.t s.self.tower (min ((s.tower s.self.tower).tUnits * 2 ^ 26) (n * 2 ^ 26)) ≤ q ∧
        q < Place.t s.self.tower (max ((s.tower s.self.tower).tUnits * 2 ^ 26) (n * 2 ^ 26)) then 0 else Memory.get s.mem q) := by
  have unit : (0x4000000 : Nat) = 2 ^ 26 := rfl
  have size : s.tsize s.self.tower = (s.tower s.self.tower).tUnits * 2 ^ 26 := by rw [State.tsize, unit]
  have grows : s.tsize s.self.tower < n * 0x4000000 ↔ (s.tower s.self.tower).tUnits < n := by
    rw [size, unit]
    exact Nat.mul_lt_mul_right (Nat.two_pow_pos 26)
  have shrinks : ¬ s.tsize s.self.tower ≤ n * 0x4000000 ↔ n < (s.tower s.self.tower).tUnits := by
    rw [size, unit, Nat.not_le]
    exact Nat.mul_lt_mul_right (Nat.two_pow_pos 26)
  obtain ⟨lines, e⟩ := tsplit_goes hready rfl rfl (fun h => by
      rw [min_eq_right (Nat.le_of_not_le h), max_eq_left (Nat.le_of_not_le h), size, unit]
      exact hu (shrinks.1 h)) fun h => hl (grows.1 h)
  refine ⟨_, e, fun h c hc => ?_, ?_, ?_, rfl, fun hi q => ?_⟩
  · replace hc : c ∈ if s.tsize s.self.tower < n * 0x4000000 then s.copies.filter (fun c => c.holder != .tower s.self.tower) else s.copies := hc
    rw [if_pos (grows.2 h), List.mem_filter, bne_iff_ne] at hc
    exact hc.2
  · exact congrArg Tower.tUnits (tower_setTower ht _)
  · exact congrArg Tower.resizing (tower_setTower ht _)
  · rw [← size, ← unit]
    exact get_cleared hi.1 ..

end Tsplit

/-! ## Lane exchanges (R256) -/

section Exchange
variable {s : State} {f : FA} {p : Word} {q : Strand} {pre post : List Strand}

theorem peerOk_goes (hp : p.toNat < s.crew.size) (h8 : s.crew.size ≤ 8)
    (h : p.toNat = s.self.idx ∨ ∃ q, s.strandAt s.self.crew p.toNat = some q ∧ q.retired = false) : s.peerOk p = .ok () := by
  have bits : wbits p 63 3 = 0 := by
    rw [wbits, bitsOf, Nat.div_eq_of_lt (by omega), Nat.zero_mod]
  have there : (decide (p.toNat = s.self.idx) || ((s.strandAt s.self.crew p.toNat).map (fun q => !q.retired)).getD false) = true := by
    obtain h | ⟨q, hq, hr⟩ := h
    · rw [decide_eq_true h, Bool.true_or]
    · rw [hq, Option.map_some, Option.getD_some, hr, Bool.not_false, Bool.or_true]
  simp only [State.peerOk, bits, hp, there, decide_true, Bool.and_self, need_true, except_ok_bind]

/-- An exchange whose operands may be looked at is its rendezvous. -/
theorem exchange_meets (hb : s.source f.b p) (hok : s.peerOk p = .ok ()) (hd : s.settled (.q f.d.toNat))
    (hq : s.self.qFull.getLsbD f.a.toNat = true) : s.exchange f = s.rendezvous p f.d.toNat f.fn.toNat f.a.toNat := by
  simp only [State.exchange, srcG_full hb, hok, destFree_settled hd, hq, Bool.not_true, Bool.false_eq_true, if_false, except_ok_bind]

/-- A strand of the crew is found among those placed, whatever stands behind it. -/
theorem strandAt_peer (hpeers : s.peers = pre ++ q :: post) (hne : p.toNat ≠ s.self.idx) (hc : q.crew = s.self.crew)
    (hi : q.idx = p.toNat) (hpre : ∀ x ∈ pre, ¬ (x.crew = s.self.crew ∧ x.idx = p.toNat)) :
    s.strandAt s.self.crew p.toNat = some q := by
  have notPre : pre.find? (fun st => st.crew == s.self.crew && st.idx == p.toNat) = none := by
    simpa only [List.find?_eq_none, Bool.and_eq_true, beq_iff_eq] using hpre
  simp only [State.strandAt, hpeers, List.cons_append, List.append_assoc, List.find?_cons, beq_self_eq_true, beq_false_of_ne (Ne.symm hne),
    Bool.and_false, List.find?_append, notPre, Option.none_or, hc, hi, Bool.and_self]

theorem rendezvous_self {d ty a : Nat} (h : p.toNat = s.self.idx) (hty : ty < 8) :
    s.rendezvous p d ty a = .ok (s.mapSelf (fun st => st.exchanged d ty 4 ((s.self.q[a]?).getD []))) := by
  simp only [State.rendezvous, h, hty, if_true, except_pure]
  rfl

/-- Both strands go at once when the peer waits for this one. -/
theorem rendezvous_both {d ty a d' a' ty' len : Nat} (h : p.toNat ≠ s.self.idx) (hty : ty < 8) (hty' : ty' < 8)
    (hq : s.strandAt s.self.crew p.toNat = some q) (hs : q.stopped = false) (hw : q.wait = some (.exchange s.self.idx d' a' ty' len)) :
    s.rendezvous p d ty a = .ok ((s.mapStrand s.self.crew p.toNat (fun st => st.exchanged d' ty' len ((s.self.q[a]?).getD []))).mapSelf
      (fun st => st.exchanged d ty 4 ((q.q[a']?).getD []))) := by
  simp only [State.rendezvous, h, if_false, hq, hw, hs, hty, hty', decide_true, Bool.not_false, Bool.and_self, beq_self_eq_true,
    if_true, except_pure]

/-- A peer that waits for nothing is waited for. -/
theorem rendezvous_waits {d ty a : Nat} (h : p.toNat ≠ s.self.idx) (hq : s.strandAt s.self.crew p.toNat = some q)
    (hw : q.wait = none) : s.rendezvous p d ty a =
      .error (.wait (s.mapSelf (fun st => { st with wait := some (.exchange p.toNat d a ty 4) }))) := by
  simp only [State.rendezvous, h, if_false, hq, hw]

theorem mapStrand_self_of_ne {n : Nat} (h : n ≠ s.self.idx) (g : Strand → Strand) :
    (s.mapStrand s.self.crew n g).self = s.self := by
  simp only [State.mapStrand, beq_false_of_ne (Ne.symm h), Bool.and_false, Bool.false_eq_true, if_false]

theorem mem_peers_mapStrand {n : Nat} (hm : q ∈ s.peers) (hc : q.crew = s.self.crew) (hi : q.idx = n) (g : Strand → Strand) :
    g q ∈ (s.mapStrand s.self.crew n g).peers :=
  List.mem_map.2 ⟨q, hm, by simp only [hc, hi, beq_self_eq_true, Bool.and_self, if_true]⟩

/-- The vector that an exchange leaves in q[d]: its elements merged under the strand's own mask. -/
theorem exchanged_q (st : Strand) {d ty : Nat} (len : Nat) (theirs : List Byte) (hd : d < st.q.length) (hty : ty < 8) :
    ((st.exchanged d ty len theirs).q[d]?).getD [] = mergeElems (tyBytes ty) (st.m.headD []) ((st.q[d]?).getD []) theirs := by
  rw [Strand.exchanged, if_pos hty]
  show ((setAt st.q d _)[d]?).getD [] = _
  rw [setAt, List.getElem?_set_self hd, Option.getD_some]

end Exchange

/-- Settles O12. -/
theorem prefetchLeaseAndSplit : Obligations.PrefetchLeaseAndSplit := by
  constructor
  · intro s i f a
    exact ⟨fun ha => exec_retires rfl (pref_leaves ha), fun ha hc hd => congrArg (finish s) (leaseq_answers ha hc hd),
      fun ha hc => congrArg (finish s) (leaseq_faults ha hc),
      fun hp ha h8 hd hl ht hr hu hw => exec_retires rfl (tsplit_leaves (tsplitReady_goes hp ha h8 hd hl hr) ht hu hw),
      fun hp => congrArg (finish s) (tsplit_user hp), fun hp ha h => congrArg (finish s) (tsplit_above hp ha h)⟩
  · intro s f p q pre post qa hb hd hq hp h8 hf
    have hty : f.fn.toNat < 8 := by omega
    refine ⟨fun h => ?_, fun hpeers h hc hi hpre hret hstop => ?_, fun st theirs hdst _ => exchanged_q st 4 theirs hdst hty⟩
    · exact congrArg (finish s) ((exchange_meets hb (peerOk_goes hp h8 (.inl h)) hd hq).trans (rendezvous_self h hty))
    · have peer := strandAt_peer hpeers h hc hi hpre
      have meets := exchange_meets hb (peerOk_goes hp h8 (.inr ⟨q, peer, hret⟩)) hd hq
      refine ⟨fun d a ty len ht hw => ?_, fun hw => congrArg (finish s) (meets.trans (rendezvous_waits h peer hw))⟩
      refine exec_retires rfl ⟨_, meets.trans (rendezvous_both h hty ht peer hstop hw), ?_, ?_, rfl⟩
      · exact congrArg (fun st => Strand.exchanged st f.d.toNat f.fn.toNat 4 ((q.q[a]?).getD [])) (mapStrand_self_of_ne h _)
      · exact mem_peers_mapStrand (hpeers ▸ List.mem_append_right _ (List.mem_cons_self ..)) hc hi _

end Sys2Proof.Machine

/-! PROOF. O14: publication, fences of fetched lines, and patches. -/

namespace Sys2Proof.Machine

/-! ## What a publish leaves (R268, R270) -/

section Publish
variable {s : State} {w : Issuer} {k : Nat} {lines : List Nat} {c : Copy}

/-- Copies of other lines stay. -/
theorem mem_copies_publish_of_unlisted (hc : c ∈ s.copies) (hl : c.line ∉ lines) : c ∈ (s.publish w k lines).copies :=
  List.mem_filterMap.2 ⟨c, hc, by rw [List.contains_eq_mem, decide_eq_false hl]; rfl⟩

/-- An instruction cache's copy of a published line that stays is out of the scope, or no strand is placed there and the
publish has overtaken it. -/
theorem icache_copies_publish {core : Nat} (hc : c ∈ (s.publish w k lines).copies) (hh : c.holder = .icache core)
    (hl : c.line ∈ lines) :
    s.holderIn w k (.icache core) = false ∨ (c.late = true ∧ ∀ st ∈ s.strands, st.core ≠ core) := by
  obtain ⟨old, -, kept⟩ := List.mem_filterMap.1 hc
  split at kept
  · next spared =>
    obtain rfl := Option.some.inj kept
    rw [List.contains_eq_mem, decide_eq_true hl, Bool.not_true, Bool.false_or, hh, Bool.not_eq_true'] at spared
    exact .inl spared
  · split at kept
    · next holder =>
      split at kept
      · exact nomatch kept
      · next unplaced =>
        obtain rfl := Option.some.inj kept
        obtain rfl : _ = core := Holder.icache.inj (holder.symm.trans hh)
        refine .inr ⟨rfl, fun st hst here => unplaced (List.any_eq_true.2 ⟨st, hst, beq_iff_eq.2 here⟩)⟩
    · next holder =>
      obtain rfl := Option.some.inj kept
      exact nomatch holder.symm.trans hh
    · next other _ =>
      obtain rfl := Option.some.inj kept
      exact absurd hh (other core)

end Publish

/-! ## The instructions (R274 to R277) -/

section Instructions
variable {s : State} {f : FA} {a n v : Word}

theorem publishRange_inside (hn : n.toNat ≤ 0x1000000) (ha : canonical a = true)
    (hend : n = 0 ∨ (a.toNat + n.toNat - 1 < 2 ^ 64 ∧ canonical (a + n - 1) = true)) : publishRange a n = .ok () := by
  have last : (n == 0 || (decide (a.toNat + n.toNat - 1 < 2 ^ 64) && canonical (a + n - 1))) = true := by
    simpa only [Bool.or_eq_true, beq_iff_eq, Bool.and_eq_true, decide_eq_true_eq] using hend
  simp only [publishRange, hn, ha, last, decide_true, need_true, except_ok_bind]

theorem publishRange_above (a : Word) (hn : 0x1000000 < n.toNat) : publishRange a n = .error (.fault ILL_FIELD n) := by
  simp only [publishRange, Nat.not_le.2 hn, decide_false, need_false, except_error_bind]

/-- A cpub of whose lines none is published yet publishes them all. -/
theorem cpub_publishes {ts : List Trans} (ha : s.source f.a a) (hb : s.source f.b n) (hrange : publishRange a n = .ok ())
    (hcl : s.self.cleared = []) (hts : (linesOf a n).mapM (fun va => s.xlate .wx va) = .ok ts)
    (hw : s.writesPending (ts.map (fun t => t.place / 128)) = false) :
    s.cpub f = .ok ((s.publish s.issuer f.fn.toNat (ts.map (fun t => t.place / 128))).advance 4) := by
  have lines : s.cpubLines f = .ok (ts.map (fun t => t.place / 128)) := by
    simp only [State.cpubLines, srcG_full ha, srcG_full hb, hrange, hts, hw, Bool.not_false, holdFor_true,
      except_ok_bind, except_pure]
  have all (l : List Nat) : l.filter (fun x => !s.self.cleared.contains x) = l := by
    simp [hcl]
  have forgets (u : State) (h : u.self = s.self) : u.mapSelf (fun st => { st with cleared := [] }) = u := by
    rw [State.mapSelf, h, ← hcl, ← h]
  rw [State.cpub, lines, except_ok_bind, all]
  exact congrArg (fun u => Except.ok (State.advance u 4)) (forgets _ rfl)

theorem cpub_above (ha : s.source f.a a) (hb : s.source f.b n) (hn : 0x1000000 < n.toNat) :
    s.cpub f = .error (.fault ILL_FIELD n) := by
  simp only [State.cpub, State.cpubLines, srcG_full ha, srcG_full hb, publishRange_above a hn, except_ok_bind, except_error_bind]

/-- The command that a cpubq places (R275). -/
def State.publishCmd (s : State) (f : FA) (a n : Word) : Cmd :=
  { seq := s.self.cq.issue + 1, pc := s.self.pc, who := s.issuer, op := .cpubq f, args := [a, n], born := s.serial
    scope := f.fn.toNat }

/-- The crane queue once a cpubq has taken its place in it. -/
def State.publishQueue (s : State) (f : FA) (a n : Word) : Queue :=
  { s.self.cq with issue := s.self.cq.issue + 1, cmds := s.self.cq.cmds ++ [s.publishCmd f a n] }

theorem setG_withCq (st : Strand) (q : Queue) (d : Nat) (x : Word) :
    Strand.setG { st with cq := q } d x = { st.setG d x with cq := q } := by
  unfold Strand.setG
  split <;> rfl

/-- A result leaves the level in progress and where the strand goes on. -/
theorem advance_setG_pc (st : Strand) (d len : Nat) (x : Word) : ((st.setG d x).advance len).pc = (st.advance len).pc := by
  unfold Strand.setG
  split <;> rfl

/-- A cpubq that finds a hardware entry. -/
theorem cpubq_queues (ha : s.source f.a a) (hb : s.source f.b n) (hrange : publishRange a n = .ok ())
    (hd : s.settled (.g f.d.toNat)) (hroom : s.self.cq.outstanding.length < 16) :
    ∃ t, s.cpubq f = .ok t ∧ s.KeepsBytes t ∧
      t.self = Strand.advance { s.self.setG f.d.toNat (word (s.self.cq.issue + 1)) with cq := s.publishQueue f a n } 4 := by
  have entry : s.self.cq.outstanding.length < entriesOf 1 := lt_of_lt_of_le hroom (le_max_left 16 _)
  have placed : s.accept 1 0x45 (.cpubq f) [a, n] [] none 0 f.fn.toNat =
      .ok (s.mapSelf (fun st => { st with cq := s.publishQueue f a n }), s.self.cq.issue + 1) := accept_room (kind := 1) entry
  refine ⟨((s.mapSelf (fun st => { st with cq := s.publishQueue f a n })).sequenceTo f.d (s.self.cq.issue + 1)).advance 4, ?_,
    ⟨rfl, rfl, rfl, rfl, rfl, rfl⟩, congrArg (Strand.advance · 4) (setG_withCq ..)⟩
  simp only [State.cpubq, srcG_full ha, srcG_full hb, hrange, destFree_settled hd, placed, except_ok_bind, except_pure]

theorem cpubq_above (ha : s.source f.a a) (hb : s.source f.b n) (hn : 0x1000000 < n.toNat) :
    s.cpubq f = .error (.fault ILL_FIELD n) := by
  simp only [State.cpubq, srcG_full ha, srcG_full hb, publishRange_above a hn, except_ok_bind, except_error_bind]

/-- An ifence of a strand with nothing outstanding (R276). -/
theorem ifence_forgets (hreqs : s.reqs.all (fun r => !r.who.same s.issuer) = true)
    (hreturns : s.returns.all (fun r => !(r.crew == s.self.crew && r.idx == s.self.idx)) = true) :
    s.ifence = .ok ((s.dropLate s.self.core).mapSelf (fun st => { st.advance 4 with ahead := [], looped := [] })) := by
  have performed : s.reqs.all (fun r =>
      !r.who.same s.issuer || !(r.op.reads || (r.op.isFence && !s.fenceOver r) || r.kind == .acq)) = true :=
    List.all_eq_true.2 fun r hr => by rw [List.all_eq_true.1 hreqs r hr, Bool.true_or]
  have returned : s.returns.all (fun r => !(r.crew == s.issuer.crew && r.idx == s.issuer.idx) || r.bytes.isNone) = true :=
    List.all_eq_true.2 fun r hr => Bool.or_eq_true_iff.2 (.inl (List.all_eq_true.1 hreturns r hr))
  simp only [State.ifence, performed, returned, Bool.and_self, holdFor_true, except_ok_bind, except_pure]

/-- The write of an ipatch of `v` at address `a`, which `t` translates. -/
def State.patchReq (s : State) (a v : Word) (t : Trans) : Req :=
  { id := s.serial, who := s.issuer, pc := s.self.pc, op := .store (leBytes 4 v.toNat), kind := .weak, space := .g, addr := a
    place := some t.place, key := t.key }

/-- An ipatch whose write nothing holds back (R277). -/
theorem ipatch_publishes {t : Trans} (ha : s.source f.a a) (hb : s.source f.b v) (hc : canonical a = true) (h4 : a.toNat % 4 = 0)
    (ht : s.xlate .w a = .ok t) (hw : s.writesPending [t.place / 128] = false) (hst : s.stuck t.place = false)
    (hp : s.poisonedAt t.place 4 = false) (hord : s.ordered (s.patchReq a v t) = true) (hown : s.ownedAt t.place 4 = false)
    (hhost : s.hostHeld t.place 4 = false) :
    s.ipatch f =
      let u := (s.wakeAt t.place).performWrite (s.patchReq a v t) t.place (leBytes 4 v.toNat)
      let e : Event := { s.eventOf (s.patchReq a v t) t.place s.writes with patch := some f.fn.toNat }
      .ok { (((u.record e).publish s.issuer f.fn.toNat [t.place / 128]).advance 4) with serial := s.serial + 1 } := by
  simp only [State.patchReq] at hord
  simp only [State.ipatch, srcG_full ha, srcG_full hb, hc, h4, ht, hw, hord, hown, hst, hhost, hp, decide_true, Bool.not_false,
    Bool.and_self, need_true, holdFor_true, except_ok_bind, except_pure]
  rfl

end Instructions

/-- Settles O14: each instruction once nothing holds it back, then what a publish makes of the copies. -/
theorem fetchUnit : Obligations.FetchUnit := by
  intro s f a n v ts t r inside
  refine ⟨fun ha hb hn hin hcl hts hw =>
      congrArg (finish s) (cpub_publishes ha hb (publishRange_inside hn hin.1 hin.2) hcl hts hw),
    fun ha hb hn hin hd hroom => ?_,
    fun ha hb hn => ⟨congrArg (finish s) (cpub_above ha hb hn), congrArg (finish s) (cpubq_above ha hb hn)⟩,
    fun hreqs hreturns => congrArg (finish s) (ifence_forgets hreqs hreturns),
    fun ha hb hc h4 ht hw hst hp hord hown hhost =>
      congrArg (finish s) (ipatch_publishes ha hb hc h4 ht hw hst hp hord hown hhost),
    fun k lines => ⟨rfl, rfl, fun c hc hl => mem_copies_publish_of_unlisted hc hl,
      fun c core hc hh hl => icache_copies_publish hc hh hl⟩⟩
  obtain ⟨t, placed, bytes, self⟩ := cpubq_queues ha hb (publishRange_inside hn hin.1 hin.2) hd hroom
  refine exec_retires rfl ⟨t, placed, ?_⟩
  rw [self]
  exact ⟨rfl, rfl, rfl, advance_setG_pc .., bytes.sameMemory⟩

end Sys2Proof.Machine

/-! PROOF. O24: the sort of pairs is an insertion sort, so it permutes its list and orders it; a pair is put in front of the pairs of
its own rank, which keeps their order (09 R306). -/

namespace Sys2Proof.Machine

theorem insertPair_eq_orderedInsert (le : Nat × Nat → Nat × Nat → Bool) (x : Nat × Nat) (l : List (Nat × Nat)) :
    insertPair le x l = l.orderedInsert (fun y z => le y z = true) x := by
  induction l with
  | nil => rfl
  | cons y l ih => rw [insertPair, List.orderedInsert, ih]

theorem sortPairs_eq_insertionSort (le : Nat × Nat → Nat × Nat → Bool) (l : List (Nat × Nat)) :
    sortPairs le l = l.insertionSort (fun x y => le x y = true) := by
  induction l with
  | nil => rfl
  | cons x l ih => rw [List.insertionSort_cons, ← insertPair_eq_orderedInsert, ← ih]; rfl

section Ranks
variable (rank : Nat × Nat → Int)

/-- The order of pairs by rank. -/
def rankLe (x y : Nat × Nat) : Bool := rank x ≤ rank y

/-- An inserted pair passes only pairs of lower ranks. -/
theorem filter_insertPair (k : Int) (x : Nat × Nat) (l : List (Nat × Nat)) :
    (insertPair (rankLe rank) x l).filter (fun y => rank y = k) = (x :: l).filter (fun y => rank y = k) := by
  induction l with
  | nil => rfl
  | cons y l ih =>
    rw [insertPair]
    split
    · rfl
    · rename_i h
      have lower : rank y < rank x := by simpa [rankLe] using h
      rw [List.filter_cons, ih]
      by_cases hx : rank x = k
      · have hy : ¬ rank y = k := by omega
        simp [hx, hy]
      · simp [List.filter_cons, hx]

theorem filter_sortPairs (k : Int) (l : List (Nat × Nat)) :
    (sortPairs (rankLe rank) l).filter (fun y => rank y = k) = l.filter (fun y => rank y = k) := by
  induction l with
  | nil => rfl
  | cons x l ih =>
    show (insertPair (rankLe rank) x (sortPairs (rankLe rank) l)).filter _ = _
    rw [filter_insertPair, List.filter_cons, List.filter_cons, ih]

theorem pairwise_sortPairs (l : List (Nat × Nat)) : (sortPairs (rankLe rank) l).Pairwise (fun x y => rankLe rank x y = true) := by
  have total : Std.Total (fun x y => rankLe rank x y = true) := ⟨fun x y => by simp only [rankLe, decide_eq_true_eq]; exact le_total ..⟩
  have trans : IsTrans (Nat × Nat) (fun x y => rankLe rank x y = true) :=
    ⟨fun x y z => by simpa only [rankLe, decide_eq_true_eq] using le_trans⟩
  rw [sortPairs_eq_insertionSort]
  exact List.pairwise_insertionSort ..

end Ranks

/-- Settles O24. -/
theorem sortIsStableAndOrdered : Obligations.SortIsStableAndOrdered := by
  intro ty l le
  have hle : le = rankLe (fun x => sortRank ty x.1) := rfl
  rw [hle]
  refine ⟨?_, pairwise_sortPairs .., fun k => filter_sortPairs ..⟩
  rw [sortPairs_eq_insertionSort]
  exact List.perm_insertionSort ..

end Sys2Proof.Machine

/-! PROOF. What a body of the vector engine comes to whose sources are full and whose destination no producer is pending on: for each
length, and under any fields of a first word (09 R286, R299; 02 R57). -/

namespace Sys2Proof.Machine

section Bodies
variable {s : State} {px : Prefix} {f : FA} {a b : List Byte} {r : Rnd}

theorem vresult_settled {d : Reg} (hd : s.settled (s.self.vdest d.toNat)) (len : Nat) (bs : List Byte) :
    s.vresult len d bs = .ok (s.yields d len bs) := by
  simp only [State.vresult, destFree_settled hd, except_ok_bind, except_pure, State.yields]

/-- The bytes of a destination whose active elements receive the values given. -/
def Strand.actively (st : Strand) (w : Nat) (old : List Byte) (x : Nat → Nat) : List Byte :=
  putElems w (st.count w) old (fun e => if st.active e then some (x e) else none)

theorem velem2_full (ha : s.sourceV f.a a) (hb : s.sourceV f.b b) (hr : s.vround px = .ok r)
    (hd : s.settled (s.self.vdest f.d.toNat)) (len w : Nat) (op : Rnd → Nat → Nat → Nat) :
    s.velem2 len px f w op = .ok (s.yields f.d len (s.self.actively w (s.self.vreg f.d.toNat) (fun e =>
      op (r.at e) (el (elems w (s.self.count w) a) e) (el (elems w (s.self.count w) b) e)))) := by
  simp only [State.velem2, srcV_full ha, srcV_full hb, hr, except_ok_bind, vresult_settled hd, Strand.actively]

theorem velem1_full (ha : s.sourceV f.a a) (hr : s.vround px = .ok r) (hd : s.settled (s.self.vdest f.d.toNat)) (len w : Nat)
    (op : Rnd → Nat → Nat) :
    s.velem1 len px f w op = .ok (s.yields f.d len (s.self.actively w (s.self.vreg f.d.toNat) (fun e =>
      op (r.at e) (el (elems w (s.self.count w) a) e)))) := by
  simp only [State.velem1, srcV_full ha, hr, except_ok_bind, vresult_settled hd, Strand.actively]

/-- A pair does what a body of 8 bytes does under the first word's fields; an unprefixed word, one of 4 bytes under none. -/
theorem exec_both {i : Instr} {body : Nat → Prefix → Except Stop State} {t t' : State} (hi : exec i s = finish s (body 4 {}))
    (hp : s.paired px i = body 8 px) (h : body 4 {} = .ok t) (h' : body 8 px = .ok t') :
    exec i s = .next t ∧ exec (.prefixedPair px i) s = .next t' :=
  ⟨hi.trans (congrArg (finish s) h), congrArg (finish s) (hp.trans h')⟩

end Bodies

end Sys2Proof.Machine

/-! PROOF. O20: element-wise arithmetic, each instruction by its body's operation on elements. -/

namespace Sys2Proof.Machine

section Selections
variable {ty : Nat} (x y : Nat)

/-- Minimum and maximum choose by one comparison (03 R87), of two equal integers the second and the first. -/
theorem ite_decide_beq {α : Type} (p : Prop) [Decidable p] (x y : α) :
    (if (decide p == false) = true then y else x) = (if p then x else y) ∧
      (if (decide p == true) = true then y else x) = if p then y else x := by
  by_cases p <;> simp [*]

theorem minMaxElem_min : minMaxElem ty false false x y =
    if isFloat ty then (fmtOf ty).round rne (((fmtOf ty).value x).minmax false ((fmtOf ty).value y))
    else if toSigned (8 * tyBytes ty) x < toSigned (8 * tyBytes ty) y then x else y :=
  ite_congr rfl (fun _ => rfl) fun _ => (ite_decide_beq _ x y).1

theorem minMaxElem_max : minMaxElem ty false true x y =
    if isFloat ty then (fmtOf ty).round rne (((fmtOf ty).value x).minmax true ((fmtOf ty).value y))
    else if toSigned (8 * tyBytes ty) x < toSigned (8 * tyBytes ty) y then y else x :=
  ite_congr rfl (fun _ => rfl) fun _ => (ite_decide_beq _ x y).2

theorem minMaxElem_unsigned (h : isFloat ty = false) : minMaxElem ty true false x y = (if x < y then x else y) ∧
    minMaxElem ty true true x y = if x < y then y else x := by
  have ints {α : Type} (u v : α) : (if isFloat ty = true then u else v) = v := if_neg (by rw [h]; decide)
  exact ⟨(ints ..).trans (ite_decide_beq _ x y).1, (ints ..).trans (ite_decide_beq _ x y).2⟩

end Selections

theorem vsel_full {s : State} {px : Prefix} {f : FA} {a b : List Byte} (ha : s.sourceV f.a a) (hb : s.sourceV f.b b)
    (hd : s.settled (s.self.vdest f.d.toNat)) (len : Nat) : s.vsel len px f =
      let w := tyBytes f.fn.toNat
      let n := s.self.count w
      .ok (s.yields f.d len (putElems w n (s.self.vreg f.d.toNat) (fun e =>
        some (if s.self.active e then el (elems w n a) e else el (elems w n b) e)))) := by
  simp only [State.vsel, srcV_full ha, srcV_full hb, except_ok_bind, vresult_settled hd]

theorem vfma_full {s : State} {px : Prefix} {f : FA} {a b c : List Byte} {r : Rnd} (ha : s.sourceV f.a a) (hb : s.sourceV f.b b)
    (hc : s.sourceV f.d c) (hr : s.vround px = .ok r) (hd : s.settled (s.self.vdest f.d.toNat)) (len : Nat) : s.vfma len px f =
      let ty := f.fn.toNat
      let w := tyBytes ty
      let n := s.self.count w
      let x := elems w n a
      let y := elems w n b
      let z := elems w n c
      let v (c : Nat) : FV := (fmtOf ty).value c
      .ok (s.yields f.d len (s.self.actively w c (fun e =>
        if isFloat ty then (fmtOf ty).round (r.at e) (((v (el x e)).mul (v (el y e))).add r.mode (v (el z e)))
        else intSat (8 * w) true r.sat
          (toSigned (8 * w) (el x e) * toSigned (8 * w) (el y e) + toSigned (8 * w) (el z e))))) := by
  simp only [State.vfma, srcV_full ha, srcV_full hb, srcV_full hc, hr, except_ok_bind, vresult_settled hd, Strand.actively]

/-- Settles O20: each instruction's body is that of two sources, or of three, with its operation. -/
theorem vectorArithmetic : Obligations.VectorArithmetic := by
  intro s px f a b c r ty w bits n fl v gives each does logic int si ha hb hd h0 hp
  have elementwise {op op' : Rnd → Nat → Nat → Nat} {i : Instr} (hi : exec i s = finish s (s.velem2 4 {} f w op))
      (hpair : s.paired px i = s.velem2 8 px f w op) (hop : op = op' := by rfl) : does i op' :=
    hop ▸ exec_both (body := fun len px => s.velem2 len px f w op) hi hpair (velem2_full ha hb h0 hd ..) (velem2_full ha hb hp hd ..)
  have logical {op : Word → Word → Word} {i : Instr} (hi : exec i s = finish s (s.vlogic 4 {} f op))
      (hpair : s.paired px i = s.vlogic 8 px f op) : logic i op :=
    exec_both (body := fun len px => s.vlogic len px f op) hi hpair (velem2_full ha hb h0 hd ..) (velem2_full ha hb hp hd ..)
  clear_value does logic
  refine ⟨?_, ?_, ?_, ?_, ?_, ?_, ?_, ?_, ?_, fun h => ⟨?_, ?_⟩, ?_, ?_, ?_, logical rfl rfl, logical rfl rfl, logical rfl rfl,
    logical rfl rfl, logical rfl rfl, logical rfl rfl, ?_, fun hc => ?_⟩
  · exact elementwise (op := fun r => arith ty r (FV.add r.mode) (· + ·)) rfl rfl
  · exact elementwise (op := fun r => arith ty r (fun x y => FV.add r.mode x y.negate) (· - ·)) rfl rfl
  · exact elementwise (op := fun r => arith ty r FV.mul (· * ·)) rfl rfl
  · exact elementwise (op := fun _ => productHigh bits true) rfl rfl (funext₃ fun _ _ _ => if_pos rfl)
  · exact elementwise (op := fun _ => productHigh bits false) rfl rfl (funext₃ fun _ _ _ => if_neg Bool.false_ne_true)
  · exact elementwise (op := fun r x y => if isFloat ty then arith ty r FV.div (fun a _ => a) x y else divSigned bits r.sat x y) rfl rfl
      (funext₃ fun _ _ _ => ite_congr rfl (fun h => if_pos h) fun _ => rfl)
  · exact elementwise (op := fun _ => divUnsigned bits) rfl rfl
  · exact elementwise (op := fun _ => minMaxElem ty false false) rfl rfl (funext₃ fun _ => minMaxElem_min)
  · exact elementwise (op := fun _ => minMaxElem ty false true) rfl rfl (funext₃ fun _ => minMaxElem_max)
  · exact elementwise (op := fun _ => minMaxElem ty true false) rfl rfl (funext₃ fun _ x y => (minMaxElem_unsigned x y h).1)
  · exact elementwise (op := fun _ => minMaxElem ty true true) rfl rfl (funext₃ fun _ x y => (minMaxElem_unsigned x y h).2)
  · exact elementwise (op := fun _ => shiftElem 0 bits) rfl rfl
  · exact elementwise (op := fun _ => shiftElem 1 bits) rfl rfl
  · exact elementwise (op := fun _ => shiftElem 2 bits) rfl rfl
  · exact exec_both (body := fun len px => s.vsel len px f) rfl rfl (vsel_full ha hb hd 4) (vsel_full ha hb hd 8)
  · exact exec_both (body := fun len px => s.vfma len px f) rfl rfl (vfma_full ha hb hc h0 hd 4) (vfma_full ha hb hc hp hd 8)

end Sys2Proof.Machine

/-! PROOF. O21: signs and rounded functions of elements. -/

namespace Sys2Proof.Machine

section Signs
variable {ty : Nat} (r : Rnd) (z : Nat)

theorem isFloat_iff : isFloat ty = true ↔ ty = 4 ∨ ty = 5 := by simp [isFloat]

theorem signElem_int (h : ty ≤ 3) :
    signElem ty true r z = intSat (8 * tyBytes ty) true r.sat (-toSigned (8 * tyBytes ty) z) ∧
    signElem ty false r z = intSat (8 * tyBytes ty) true r.sat ((toSigned (8 * tyBytes ty) z).natAbs : Int) := by
  have int : ¬ isFloat ty = true := by rw [isFloat_iff]; omega
  have abs (v : Int) : (if v < 0 then -v else v) = (v.natAbs : Int) := by split <;> omega
  simp only [signElem, int, Bool.false_eq_true, if_false, if_true, abs, and_self]

/-- The sign of a floating element is its highest bit, which vneg inverts and vabs clears. -/
theorem signElem_float (h : ty = 4 ∨ ty = 5) (hn : ((fmtOf ty).value z).isNan = false) (hz : z < 2 ^ (8 * tyBytes ty)) :
    signElem ty false r z = z % 2 ^ (8 * tyBytes ty - 1) ∧
    signElem ty true r z = if z < 2 ^ (8 * tyBytes ty - 1) then z + 2 ^ (8 * tyBytes ty - 1) else z - 2 ^ (8 * tyBytes ty - 1) := by
  have double : 2 ^ (8 * tyBytes ty) = 2 * 2 ^ (8 * tyBytes ty - 1) := by
    rw [← Nat.pow_succ', Nat.succ_eq_add_one]
    obtain rfl | rfl := h <;> rfl
  simp only [signElem, isFloat_iff.2 h, hn, Bool.false_eq_true, if_false, if_true, double, true_and]
  rw [double] at hz
  split
  · exact Nat.mod_eq_of_lt (by omega)
  · rw [Nat.mod_eq_sub_mod (by omega), Nat.mod_eq_of_lt (by omega)]
    omega

end Signs

/-- Settles O21: each instruction's body is that of one source, with its operation. -/
theorem vectorFunctions : Obligations.VectorFunctions := by
  intro s px f a r ty w n x gives each does fn ha hd h0 hp
  have elementwise {op : Rnd → Nat → Nat} {i : Instr} (hi : exec i s = finish s (s.velem1 4 {} f w op))
      (hpair : s.paired px i = s.velem1 8 px f w op) : does i op :=
    exec_both (body := fun len px => s.velem1 len px f w op) hi hpair (velem1_full ha h0 hd ..) (velem1_full ha hp hd ..)
  clear_value does
  have function {g : FV → FV} {i : Instr} (hi : exec i s = finish s (s.vfunc 4 {} f g)) (hpair : s.paired px i = s.vfunc 8 px f g) :
      does i (fn g) := elementwise (op := funcElem ty g) hi hpair
  have activation {b : Reg} {g : FV → FV} (hb : f.b = b) (hg : (if b == 1 then FV.sigmoid else FV.tanh) = g) : does (.vact f) (fn g) := by
    have body (len : Nat) (px : Prefix) : s.vfunc len px f (if f.b == 1 then FV.sigmoid else FV.tanh) = s.vfunc len px f g := by
      rw [hb, hg]
    exact function (congrArg (finish s) (body 4 {})) (body 8 px)
  exact ⟨elementwise rfl rfl, elementwise rfl rfl, function rfl rfl, function rfl rfl, function rfl rfl, function rfl rfl, function rfl rfl,
    fun hb => activation hb rfl, fun hb => activation hb rfl, signElem_int, signElem_float⟩

end Sys2Proof.Machine

/-! PROOF. O22: comparisons, masks, moves and permutes. -/

namespace Sys2Proof.Machine

/-- The low `n` bytes of a number hold no more of it than its residue. -/
theorem leBytes_mod (n x : Nat) : leBytes n (x % 256 ^ n) = leBytes n x := by
  induction n generalizing x with
  | zero => rfl
  | succ n ih =>
    have low : BitVec.ofNat 8 (x % 256 ^ (n + 1)) = BitVec.ofNat 8 x := by
      apply BitVec.eq_of_toNat_eq
      rw [BitVec.toNat_ofNat, BitVec.toNat_ofNat]
      exact Nat.mod_mod_of_dvd x ⟨256 ^ n, by rw [Nat.pow_succ, Nat.mul_comm]⟩
    have high : x % 256 ^ (n + 1) / 256 = x / 256 % 256 ^ n := by rw [Nat.pow_succ', Nat.mod_mul_right_div_self]
    rw [leBytes, leBytes, low, high, ih]

section Bodies
variable {s : State} {px : Prefix} {f : FA} {a b : List Byte} {x y : Word}

theorem vresultG_settled {d : Reg} (hd : s.settled (.g d.toNat)) (len : Nat) (v : Word) : s.vresultG len d v =
    .ok (if d = 0 then s.advance len else (s.produce (.g d.toNat) ((leBytes 8 v.toNat).map some) true).1.advance len) := by
  simp only [State.vresultG, destFree_settled hd, except_ok_bind, except_pure, beq_iff_eq]
  split <;> rfl

theorem vcmp_full (ha : s.sourceV f.a a) (hb : s.sourceV f.b b) (len : Nat) : s.vcmp len px f =
    let ty := f.fn.toNat
    let n := s.self.count (tyBytes ty)
    .ok (s.mapSelf (fun t => (t.setMask (f.d.toNat % 8) n (fun e => s.self.active e &&
      vcond ty (f.d.toNat / 8) (el (elems (tyBytes ty) n a) e) (el (elems (tyBytes ty) n b) e))).advance len)) := by
  simp only [State.vcmp, srcV_full ha, srcV_full hb, except_ok_bind, except_pure]

theorem mset_full (ha : s.source f.a x) (hb : s.source f.b y) : s.mset f =
    .ok (s.mapSelf (fun t => (t.setMask f.d.toNat (s.self.count (tyBytes f.fn.toNat))
      (fun e => x.toNat ≤ e && e < y.toNat)).advance 4)) := by
  simp only [State.mset, srcG_full ha, srcG_full hb, except_ok_bind, except_pure]

theorem vmov_full (ha : s.source f.a x) (hd : s.settled (s.self.vdest f.d.toNat)) (len : Nat) : s.vmov len px f =
    .ok (s.yields f.d len (s.self.actively (tyBytes f.fn.toNat) (s.self.vreg f.d.toNat) (fun _ => x.toNat))) := by
  simp only [State.vmov, srcG_full ha, except_ok_bind, vresult_settled hd, Strand.actively]

theorem vperm_full (ha : s.sourceV f.a a) (hb : s.sourceV f.b b) (hd : s.settled (s.self.vdest f.d.toNat)) (len : Nat) :
    s.vperm len px f =
      let w := tyBytes f.fn.toNat
      let n := s.self.count w
      .ok (s.yields f.d len (s.self.actively w (s.self.vreg f.d.toNat) (fun e => el (elems w n a) (el (elems w n b) e)))) := by
  simp only [State.vperm, srcV_full ha, srcV_full hb, except_ok_bind, vresult_settled hd, Strand.actively]

theorem vslide_full (ha : s.sourceV f.a a) (hb : s.source f.b y) (hd : s.settled (s.self.vdest f.d.toNat)) (len : Nat) :
    s.vslide len px f =
      let w := tyBytes f.fn.toNat
      let n := s.self.count w
      .ok (s.yields f.d len (s.self.actively w (s.self.vreg f.d.toNat) (fun e =>
        let k := (e : Int) + y.toInt
        if 0 ≤ k && k < n then el (elems w n a) k.toNat else 0))) := by
  simp only [State.vslide, srcV_full ha, srcG_full hb, except_ok_bind, vresult_settled hd, Strand.actively]

theorem vcompress_full (ha : s.sourceV f.a a) (hd : s.settled (s.self.vdest f.d.toNat)) (len : Nat) : s.vcompress len px f =
    let w := tyBytes f.fn.toNat
    let n := s.self.count w
    .ok (s.yields f.d len (putElems w n (s.self.vreg f.d.toNat) (fun e => ((s.self.actives n).map (el (elems w n a)))[e]?))) := by
  simp only [State.vcompress, srcV_full ha, except_ok_bind, vresult_settled hd]

theorem vexpand_full (ha : s.sourceV f.a a) (hd : s.settled (s.self.vdest f.d.toNat)) (len : Nat) : s.vexpand len px f =
    let w := tyBytes f.fn.toNat
    .ok (s.yields f.d len (s.self.actively w (s.self.vreg f.d.toNat) (fun e =>
      el (elems w (s.self.count w) a) ((List.range e).filter s.self.active).length))) := by
  simp only [State.vexpand, srcV_full ha, except_ok_bind, vresult_settled hd, Strand.actively]

end Bodies

/-- Settles O22. -/
theorem vectorMasksAndPermutes : Obligations.VectorMasksAndPermutes := by
  intro s px f a b x y ty w n ea eb gives each both act dest
  refine ⟨fun ha hb => ?_, fun ha hb => congrArg (finish s) (mset_full ha hb), fun hd => ?_,
    fun hd => congrArg (finish s) (vresult_settled hd ..), fun ha hd => ?_, fun ha hb hd => ?_, fun ha hb hd => ?_, fun ha hd => ⟨?_, ?_⟩⟩
  · exact exec_both (body := fun len px => s.vcmp len px f) rfl rfl (vcmp_full ha hb 4) (vcmp_full ha hb 8)
  · intro count
    have bytes : leBytes 8 (word count).toNat = leBytes 8 count := by
      rw [BitVec.toNat_ofNat]; exact leBytes_mod 8 count
    refine (congrArg (finish s) (vresultG_settled hd 4 (word count))).trans ?_
    rw [bytes, finish_ok]
  · exact exec_both (body := fun len px => s.vmov len px f) rfl rfl (vmov_full ha hd 4) (vmov_full ha hd 8)
  · exact exec_both (body := fun len px => s.vperm len px f) rfl rfl (vperm_full ha hb hd 4) (vperm_full ha hb hd 8)
  · exact exec_both (body := fun len px => s.vslide len px f) rfl rfl (vslide_full ha hb hd 4) (vslide_full ha hb hd 8)
  · exact exec_both (body := fun len px => s.vcompress len px f) rfl rfl (vcompress_full ha hd 4) (vcompress_full ha hd 8)
  · exact exec_both (body := fun len px => s.vexpand len px f) rfl rfl (vexpand_full ha hd 4) (vexpand_full ha hd 8)

end Sys2Proof.Machine

/-! PROOF. O23: reductions, scans, the sort of pairs and segment sums. -/

namespace Sys2Proof.Machine

/-- The selector b of vredmm: bit 1 for unsigned elements, bit 0 for the largest. -/
theorem minMax_selectors {b : Reg} (h : b.toNat ≤ 3) :
    decide (2 ≤ b.toNat) = (b = 2 || b = 3) ∧ decide (b.toNat % 2 = 1) = (b = 1 || b = 3) := by
  obtain rfl | rfl | rfl | rfl : b = 0 ∨ b = 1 ∨ b = 2 ∨ b = 3 := by bv_omega
  all_goals decide

section Bodies
variable {s : State} {px : Prefix} {f : FA} {a b c : List Byte} {r : Rnd}

theorem vredsum_full (ha : s.sourceV f.a a) (hr : s.vround px = .ok r) (hd : s.settled (s.self.vdest f.d.toNat)) (len : Nat)
    (ordered : Bool) : s.vredsum len px f ordered =
      let ty := f.fn.toNat
      let w := tyBytes ty
      let n := s.self.count w
      let x := elems w n a
      let terms := (List.range n).map (fun e => if s.self.active e then widen32 ty (el x e) else minusZero)
      .ok (s.yields f.d len (putElems w 1 (s.self.vreg f.d.toNat) (fun _ => some (if isFloat ty then
        (if ordered || px.ord == 1 then narrow16 ty r n (redSumOrdered r terms) else narrow16 ty r (n + 63) (redSum r terms))
        else ((s.self.actives n).foldl (fun t e => t + el x e) 0) % 2 ^ (8 * w))))) := by
  simp only [State.vredsum, srcV_full ha, hr, except_ok_bind, vresult_settled hd]

theorem vredmm_full (ha : s.sourceV f.a a) (hd : s.settled (s.self.vdest f.d.toNat)) {unsigned max : Bool}
    (hu : decide (2 ≤ f.b.toNat) = unsigned) (hm : decide (f.b.toNat % 2 = 1) = max) (len : Nat) : s.vredmm len px f =
      let ty := f.fn.toNat
      let w := tyBytes ty
      let n := s.self.count w
      .ok (s.yields f.d len (putElems w 1 (s.self.vreg f.d.toNat) (fun _ => some ((s.self.actives n).foldl
        (fun t e => minMaxElem ty unsigned max t (el (elems w n a) e)) (minMaxIdentity ty unsigned max))))) := by
  simp only [State.vredmm, srcV_full ha, hu, hm, except_ok_bind, vresult_settled hd]

theorem vscan_full (ha : s.sourceV f.a a) (hr : s.vround px = .ok r) (hd : s.settled (s.self.vdest f.d.toNat)) (len : Nat) :
    s.vscan len px f =
      let ty := f.fn.toNat
      let w := tyBytes ty
      let n := s.self.count w
      let out := scanFrom ty f.b.toNat n r s.self.active 0
        (if f.b = 0 then (if isFloat ty then minusZero else 0) else minMaxIdentity ty false (f.b = 2)) (elems w n a)
      .ok (s.yields f.d len (putElems w n (s.self.vreg f.d.toNat) (fun e => (out[e]?).getD none))) := by
  have zero : f.b.toNat = 0 ↔ f.b = 0 := (BitVec.toNat_eq (y := 0)).symm
  have two : f.b.toNat = 2 ↔ f.b = 2 := (BitVec.toNat_eq (y := 2)).symm
  simp only [State.vscan, srcV_full ha, hr, except_ok_bind, vresult_settled hd, zero, two]

theorem vsegred_full (ha : s.sourceV f.a a) (hb : s.sourceV f.b b) (hr : s.vround px = .ok r)
    (hd : s.settled (s.self.vdest f.d.toNat)) (len : Nat) : s.vsegred len px f =
      let ty := f.fn.toNat
      let w := tyBytes ty
      let n := s.self.count w
      let out := segSums ty n r s.self.active 0 (if isFloat ty then minusZero else 0) ((elems w n a).zip (elems w n b))
      .ok (s.yields f.d len (putElems w n (s.self.vreg f.d.toNat) (fun e => (out[e]?).getD none))) := by
  simp only [State.vsegred, srcV_full ha, srcV_full hb, hr, except_ok_bind, vresult_settled hd]

theorem vsortkv_full (ha : s.sourceV f.a a) (hc : s.sourceV (f.a + 1) c) (hd : s.settled (s.self.vdest f.d.toNat))
    (hd' : s.settled (s.self.vdest (f.d + 1).toNat)) (len : Nat) : s.vsortkv len px f =
      let ty := f.fn.toNat
      let w := tyBytes ty
      let n := s.self.count w
      let sorted := sortPairs (fun p q => if f.b = 1 then sortRank ty q.1 ≤ sortRank ty p.1 else sortRank ty p.1 ≤ sortRank ty q.1)
        ((s.self.actives n).map (fun e => (el (elems w n a) e, el (elems w n c) e)))
      let out (d : Reg) (g : Nat × Nat → Nat) : List (Option Byte) :=
        (putElems w n (s.self.vreg d.toNat) (fun e => (sorted[e]?).map g)).map some
      .ok ((((s.produce (s.self.vdest f.d.toNat) (out f.d Prod.fst) true).1.produce
        (s.self.vdest (f.d + 1).toNat) (out (f.d + 1) Prod.snd) true).1).advance len) := by
  simp only [State.vsortkv, srcV_full ha, srcV_full hc, except_ok_bind, except_pure, destFree_settled hd, destFree_settled hd', beq_iff_eq]

end Bodies

/-- Settles O23. -/
theorem vectorReductions : Obligations.VectorReductions := by
  intro s px f a b c r ty w n x fl act gives first terms isum sum mm scan ha h0 hp hd
  refine ⟨?_, ?_, fun hb => ?_, ?_, fun hb => ?_, fun hc hd' => ?_⟩
  · exact exec_both (body := fun len px => s.vredsum len px f false) rfl rfl (vredsum_full ha h0 hd 4 false) (vredsum_full ha hp hd 8 false)
  · exact exec_both (body := fun len px => s.vredsum len px f true) rfl rfl (vredsum_full ha h0 hd 4 true) (vredsum_full ha hp hd 8 true)
  · obtain ⟨hu, hm⟩ := minMax_selectors hb
    exact exec_both (body := fun len px => s.vredmm len px f) rfl rfl (vredmm_full ha hd hu hm 4) (vredmm_full ha hd hu hm 8)
  · exact exec_both (body := fun len px => s.vscan len px f) rfl rfl (vscan_full ha h0 hd 4) (vscan_full ha hp hd 8)
  · exact exec_both (body := fun len px => s.vsegred len px f) rfl rfl (vsegred_full ha hb h0 hd 4) (vsegred_full ha hb hp hd 8)
  · exact exec_both (body := fun len px => s.vsortkv len px f) rfl rfl (vsortkv_full ha hc hd hd' 4) (vsortkv_full ha hc hd hd' 8)

end Sys2Proof.Machine

/-! PROOF. O25: vector loads and stores, once their element addresses are known. -/

namespace Sys2Proof.Machine

theorem baseReg_eq (f : FA) : baseReg f = f.a &&& 31 := by
  apply BitVec.eq_of_toNat_eq
  have low : f.a.toNat &&& (31 : Reg).toNat = f.a.toNat % 32 := Nat.and_two_pow_sub_one_eq_mod _ 5
  rw [baseReg, BitVec.toNat_setWidth, BitVec.toNat_setWidth, BitVec.toNat_and, low]
  omega

section Addresses
variable {s : State} {f : FA} {b y : Word} {v : List Byte}

theorem unitAddr_full (hb : s.source (f.a &&& 31) b) : s.unitAddr f = .ok (fun e => b + word (e * tyBytes f.fn.toNat)) := by
  rw [← baseReg_eq] at hb
  simp only [State.unitAddr, srcG_full hb, except_ok_bind, except_pure]

theorem strideAddr_full (hb : s.source (f.a &&& 31) b) (hy : s.source f.b y) : s.strideAddr f = .ok (fun e => b + word e * y) := by
  rw [← baseReg_eq] at hb
  simp only [State.strideAddr, srcG_full hb, srcG_full hy, except_ok_bind, except_pure]

theorem indexAddr_full (hb : s.source (f.a &&& 31) b) (hv : s.sourceV f.b v) (w : Nat) :
    s.indexAddr f w = .ok (fun e => b + word (el (elems w (s.self.count w) v) e * w)) := by
  rw [← baseReg_eq] at hb
  simp only [State.indexAddr, srcG_full hb, srcV_full hv, except_ok_bind, except_pure]

end Addresses

section Elements
variable {s : State} {f : FA} {addr : Nat → Word} {lt : List (Nat × Word × Trans)} {d : List Byte}

/-- The elements that a memory form reads or writes, with their addresses. -/
def State.elements (s : State) (f : FA) (addr : Nat → Word) : List (Nat × Word) :=
  (s.self.actives (s.self.count (tyBytes f.fn.toNat))).map (fun e => (e, addr e))

theorem vload_checked (h : s.checkElems .r (tyBytes f.fn.toNat) (s.elements f addr) = .ok lt)
    (hd : s.settled (s.self.vdest f.d.toNat)) (opc : BitVec 8) : s.vload opc f addr =
      let w := tyBytes f.fn.toNat
      .ok ((State.issueElems (s.produce (s.self.vdest f.d.toNat) ((s.self.vreg f.d.toNat).zipIdx.map (fun b =>
          if (s.self.actives (s.self.count w)).contains (b.2 / w) then none else some b.1)) true).1 opc (f.a.getLsbD 5)
        (fun _ => .load w false) (some s.serial) w .weak lt).advance 4) := by
  rw [State.elements] at h
  simp only [State.vload, destFree_settled hd, h, State.emptyOnFault, except_ok_bind, except_pure]
  rfl

/-- A fault of a load that has emptied its destination (01 R34), also where no page can come. -/
theorem emptyOnFault_error {α : Type} {r : Except Stop α} {c : BitVec 8} {x : Word}
    (h : r = .error (.fault c x) ∨ r = .error (.endLaunch c x 0)) (t : State) (dest : Dest) :
    t.emptyOnFault dest r = .error (.faulted (t.mapSelf (fun st => st.empty dest)) c x) := by
  obtain rfl | rfl := h
  · rfl
  · rfl

theorem vload_fails {c : BitVec 8} {x : Word} (h : s.checkElems .r (tyBytes f.fn.toNat) (s.elements f addr) = .error (.fault c x) ∨
      s.checkElems .r (tyBytes f.fn.toNat) (s.elements f addr) = .error (.endLaunch c x 0))
    (hd : s.settled (s.self.vdest f.d.toNat)) (opc : BitVec 8) :
    s.vload opc f addr = .error (.faulted (s.mapSelf (fun st => st.empty (s.self.vdest f.d.toNat))) c x) := by
  rw [State.elements] at h
  simp only [State.vload, destFree_settled hd, emptyOnFault_error h, except_ok_bind, except_error_bind]

theorem vstore_checked (h : s.checkElems .w (tyBytes f.fn.toNat) (s.elements f addr) = .ok lt) (hd : s.sourceV f.d d) (opc : BitVec 8) :
    s.vstore opc f addr =
      let w := tyBytes f.fn.toNat
      .ok ((s.issueElems opc (f.a.getLsbD 5) (fun e => .store (slice d (w * e) w)) none w .weak lt).advance 4) := by
  rw [State.elements] at h
  simp only [State.vstore, srcV_full hd, h, except_ok_bind, except_pure]
  rfl

end Elements

/-- Settles O25: each form's addresses, then its load or store of the elements there. -/
theorem vectorMemory : Obligations.VectorMemory := by
  intro s f b y v d lt w n act base old unit stride index load fails store hb
  have loads {i : Instr} {opc : BitVec 8} {addr : Nat → Word} {ad : Except Stop (Nat → Word)} (had : ad = .ok addr)
      (hi : exec i s = finish s (ad >>= s.vload opc f)) : load i opc addr ∧ fails i addr := by
    subst had
    exact ⟨fun h hd => hi.trans (congrArg (finish s) (vload_checked h hd opc)),
      fun c x hd h => hi.trans (congrArg (finish s) (vload_fails h hd opc))⟩
  have stores {i : Instr} {opc : BitVec 8} {addr : Nat → Word} {ad : Except Stop (Nat → Word)} (had : ad = .ok addr)
      (hi : exec i s = finish s (ad >>= s.vstore opc f)) : store i opc addr := by
    subst had
    exact fun h hd => hi.trans (congrArg (finish s) (vstore_checked h hd opc))
  have atUnit := unitAddr_full hb
  have atStride (hy : s.source f.b y) := strideAddr_full hb hy
  have atIndex (hv : s.sourceV f.b v) := indexAddr_full hb hv w
  clear_value load fails store
  obtain ⟨ld, ldFails⟩ := loads (i := .vld f) (opc := 0x57) atUnit rfl
  refine ⟨ld, ldFails, stores atUnit rfl, fun hy => ?_, fun hv => ?_⟩
  · obtain ⟨ld, ldFails⟩ := loads (i := .vlds f) (opc := 0x59) (atStride hy) rfl
    exact ⟨ld, ldFails, stores (atStride hy) rfl⟩
  · obtain ⟨ld, ldFails⟩ := loads (i := .vldx f) (opc := 0x5B) (atIndex hv) rfl
    exact ⟨ld, ldFails, stores (atIndex hv) rfl⟩

end Sys2Proof.Machine

/-! PROOF. O26: long mode, vector length and vector exchange. A collective of a crew is its arrivals, and what it does to every
strand of the crew once all have arrived (09 R288 to R296). -/

namespace Sys2Proof.Machine

/-! ## Arrivals -/

/-- Another strand of the same crew that has not retired. -/
def State.mate (s : State) (x : Strand) : Prop := x ∈ s.peers ++ s.saved ∧ x.crew = s.self.crew ∧ x.retired = false

/-- The strand has arrived in a collective. -/
def State.joined (s : State) (kind : Nat) (r : Word) (d : Nat) : State :=
  s.mapSelf (fun st => { st with arrival := some (kind, r, d) })

theorem allArrived_iff (s : State) (id kind : Nat) : s.allArrived id kind = true ↔
    ∀ x ∈ s.self :: s.peers ++ s.saved, x.crew = id → x.retired = false → ∃ v d, x.arrival = some (kind, v, d) := by
  simp only [State.allArrived, State.liveOf, State.strandsOf, List.all_eq_true, List.mem_filter, beq_iff_eq, Bool.not_eq_true', and_imp]
  refine forall₄_congr fun x _ _ _ => ?_
  obtain _ | ⟨k, v, d⟩ := x.arrival
  · simp
  · simp

section Collectives
variable {s : State} {kind m : Nat} {r : Word} {d : Nat}

theorem joined_allArrived (s : State) (kind : Nat) (r : Word) (d : Nat) : (s.joined kind r d).allArrived s.self.crew kind = true ↔
    ∀ x, s.mate x → ∃ v d, x.arrival = some (kind, v, d) := by
  rw [allArrived_iff]
  constructor
  · intro h x ⟨hx, hcrew, hret⟩
    exact h x (List.mem_cons_of_mem _ hx) hcrew hret
  · intro h x hx hcrew hret
    obtain rfl | hx := List.mem_cons.1 hx
    · exact ⟨r, d, rfl⟩
    · exact h x ⟨hx, hcrew, hret⟩

theorem collect_goes (h : ∀ x, s.mate x → ∃ v d, x.arrival = some (kind, v, d)) : s.collect kind r d = .ok (s.joined kind r d) :=
  if_pos ((joined_allArrived s kind r d).2 h)

theorem collect_waits (h : ¬ ∀ x, s.mate x → ∃ v d, x.arrival = some (kind, v, d)) :
    s.collect kind r d = .error (s.joined kind r d).retry :=
  if_neg fun c => h ((joined_allArrived s kind r d).1 c)

/-- The operand with which a strand has arrived. -/
def Strand.operand (st : Strand) : Nat := (st.arrival.map (fun x => x.2.1.toNat)).getD 0

theorem arrivalMax_eq (s : State) (id : Nat) : s.arrivalMax id = ((s.liveOf id).map Strand.operand).foldr max ⊥ := by
  rw [← List.foldl_eq_foldr, List.foldl_map]
  rfl

/-- The largest operand of a collective that all have joined. -/
theorem joined_arrivalMax (hret : s.self.retired = false) (full : ∀ x, s.mate x → ∃ v d, x.arrival = some (kind, v, d))
    (most : r.toNat ≤ m ∧ (∀ x v d, s.mate x → x.arrival = some (kind, v, d) → v.toNat ≤ m) ∧
      (m = r.toNat ∨ ∃ x v d, s.mate x ∧ x.arrival = some (kind, v, d) ∧ v.toNat = m)) :
    (s.joined kind r d).arrivalMax s.self.crew = m := by
  obtain ⟨own, others, reached⟩ := most
  have live {x : Strand} : x ∈ (s.joined kind r d).liveOf s.self.crew ↔ x = (s.joined kind r d).self ∨ s.mate x := by
    simp only [State.liveOf, State.strandsOf, List.mem_filter, List.cons_append, List.mem_cons, beq_iff_eq, Bool.not_eq_true', State.mate]
    constructor
    · rintro ⟨⟨rfl | hx, hcrew⟩, hr⟩
      · exact .inl rfl
      · exact .inr ⟨hx, hcrew, hr⟩
    · rintro (rfl | ⟨hx, hcrew, hr⟩)
      · exact ⟨⟨.inl rfl, rfl⟩, hret⟩
      · exact ⟨⟨.inr hx, hcrew⟩, hr⟩
  rw [arrivalMax_eq]
  apply le_antisymm
  · refine List.max_le_of_forall_le _ _ fun n hn => ?_
    obtain ⟨x, hx, rfl⟩ := List.mem_map.1 hn
    obtain rfl | hmate := live.1 hx
    · exact own
    · obtain ⟨v, e, harr⟩ := full x hmate
      rw [Strand.operand, harr]
      exact others x v e hmate harr
  · obtain rfl | ⟨x, v, e, hmate, harr, rfl⟩ := reached
    · exact List.le_max_of_le (List.mem_map_of_mem (live.2 (.inl rfl))) le_rfl
    · refine List.le_max_of_le (List.mem_map_of_mem (live.2 (.inr hmate))) ?_
      rw [Strand.operand, harr]
      exact le_rfl

end Collectives

/-! ## What a collective does -/

/-- A strand that goes on after a collective. -/
def Strand.departs (x : Strand) : Strand := { x.advance 4 with arrival := none }

section Release
variable {s : State} {id : Nat} {f : Strand → Strand} {x : Strand}

theorem release_self (hcrew : s.self.crew = id) (hret : s.self.retired = false) : (s.release id f).self = (f s.self).departs := by
  simp only [State.release, State.mapCrew, hcrew, hret, beq_self_eq_true, if_true, Bool.false_eq_true, if_false, Strand.departs]

theorem mem_peers_release (hx : x ∈ s.peers) (hcrew : x.crew = id) (hret : x.retired = false) :
    (f x).departs ∈ (s.release id f).peers :=
  List.mem_map.2 ⟨x, hx, by simp only [hcrew, hret, beq_self_eq_true, if_true, Bool.false_eq_true, if_false, Strand.departs]⟩

theorem mem_peers_release_other (hx : x ∈ s.peers) (hcrew : x.crew ≠ id) : x ∈ (s.release id f).peers :=
  List.mem_map.2 ⟨x, hx, by simp only [beq_false_of_ne hcrew, Bool.false_eq_true, if_false]⟩

end Release

/-! ## vlong, vshort and setvl -/

/-- A strand in short mode (R295). -/
def Strand.shortens (x : Strand) : Strand :=
  { x with long := false, vl := 0, v := [], vFull := BitVec.allOnes 64, m := shortMasks }

/-- A strand in long mode with vectors of `n` elements (R289). -/
def Strand.lengthens (n : Nat) (x : Strand) : Strand :=
  { x with
    long := true, vl := n, v := List.replicate 64 (List.replicate (8 * n) 0), vFull := BitVec.allOnes 64
    m := List.replicate n true :: List.replicate 7 (List.replicate n false) }

/-- A strand whose vectors have `n` elements, which g[d] tells it (R296). -/
def Strand.sized (n d : Nat) (x : Strand) : Strand := { x.setG d (word n) with vl := n }

/-- The same, of a strand that has arrived with its destination. -/
def Strand.sizedAsAsked (n : Nat) (x : Strand) : Strand := x.sized n ((x.arrival.map (fun a => a.2.2)).getD 0)

theorem sizedAsAsked_of_arrival {k d : Nat} {v : Word} {x : Strand} (h : x.arrival = some (k, v, d)) (n : Nat) :
    x.sizedAsAsked n = x.sized n d := by
  rw [Strand.sizedAsAsked, h]
  rfl

theorem departs_sized_withArrival (n d : Nat) (x : Strand) (a : Option (Nat × Word × Nat)) :
    (Strand.sized n d { x with arrival := a }).departs = (x.sized n d).departs := by
  unfold Strand.sized Strand.setG
  split <;> rfl

section Modes
variable {s : State} {f : FA} {r : Word} {c : Crew} {m : Nat}

theorem vlong_collects (hl : s.self.long = false) (ha : s.source f.a r) (h0 : r ≠ 0) : s.vlong f = (s.collect 0 r 0 >>= fun t =>
    if t.crew.vlAsked.isSome then .error t.retry
    else .error (State.retry { (t.setCrew s.self.crew (fun c =>
      { c with vlAsked := some (maxvlFor t.crew.size (t.arrivalMax s.self.crew)), vlAskedAt := t.serial })) with serial := t.serial + 1 })) := by
  simp only [State.vlong, hl, srcG_full ha, bne_iff_ne.2 h0, Bool.not_false, need_true, except_ok_bind]

theorem vshort_collects (hl : s.self.long = true) : s.vshort = (s.collect 1 0 0 >>= fun t =>
    if t.vectorBusy s.self.crew then .error t.retry
    else .ok ((t.setCrew s.self.crew (fun c => { c with vlGrant := 0 })).release s.self.crew Strand.shortens)) := by
  simp only [State.vshort, hl, Bool.not_true, Bool.false_eq_true, if_false, except_pure]
  rfl

theorem setvl_collects (hl : s.self.long = true) (ha : s.source f.a r) (hd : s.settled (.g f.d.toNat)) :
    s.setvl f = (s.collect 2 r f.d.toNat >>= fun t =>
      .ok (t.release s.self.crew (Strand.sizedAsAsked (min (t.arrivalMax s.self.crew) t.crew.vlGrant)))) := by
  simp only [State.setvl, hl, srcG_full ha, destFree_settled hd, need_true, except_ok_bind, except_pure]
  rfl

theorem vlong_inLongMode (hl : s.self.long = true) : s.vlong f = .error (.fault MODE s.self.pc) := by
  simp only [State.vlong, hl, Bool.not_true, need_false, except_error_bind]

theorem vlong_zero (hl : s.self.long = false) (ha : s.source f.a 0) : s.vlong f = .error (.fault ILL_FIELD 0) := by
  simp only [State.vlong, hl, srcG_full ha, bne_self_eq_false, Bool.not_false, need_true, need_false, except_ok_bind, except_error_bind]

theorem vshort_inShortMode (hl : s.self.long = false) : s.vshort = .ok (s.advance 4) := by
  simp only [State.vshort, hl, Bool.not_false, if_true]

theorem setvl_inShortMode (hl : s.self.long = false) : s.setvl f = .error (.fault MODE s.self.pc) := by
  simp only [State.setvl, hl, need_false, except_error_bind]

theorem vxch_inShortMode (hl : s.self.long = false) : s.vxch f = .error (.fault MODE s.self.pc) := by
  simp only [State.vxch, hl, need_false, except_error_bind]

/-- A strand that is not the last to arrive waits. -/
theorem collect_stops {k : Nat} {v : Word} {d : Nat} {body : State → Except Stop State} {r : Except Stop State}
    (h : ¬ ∀ x, s.mate x → ∃ v d, x.arrival = some (k, v, d)) (hr : r = (s.collect k v d >>= body)) :
    finish s r = .next (s.mapSelf (fun st => { st with arrival := some (k, v, d), wait := some .retry })) := by
  rw [hr, collect_waits h]
  rfl

/-- The crew of the strand, after a change of what it asks for or has been granted. -/
theorem crew_setCrew (hc : s.crews.find? (fun x => x.id == s.self.crew) = some c) {g : Crew → Crew} (hg : ∀ x, (g x).id = x.id) :
    (s.setCrew s.self.crew g).crew = g c :=
  crewById_of_find (find_setCrew hc fun x hx => (hg x).trans hx)

section Crews
variable (hc : s.crews.find? (fun x => x.id == s.self.crew) = some c) (hret : s.self.retired = false)
include hc

theorem vlong_asks (hl : s.self.long = false) (ha : s.source f.a r) (h0 : r ≠ 0)
    (full : ∀ x, s.mate x → ∃ v d, x.arrival = some (0, v, d)) (hmax : (s.joined 0 r 0).arrivalMax s.self.crew = m) (hasked : c.vlAsked = none) :
    ∃ t, exec (.vlong f) s = .next t ∧ t.crew.vlAsked = some (min (64 * ((m + 63) / 64)) (64 * (128 / c.size))) ∧
      t.crew.vlGrant = c.vlGrant ∧ t.self = { s.self with arrival := some (0, r, 0), wait := some .retry } ∧ t.peers = s.peers := by
  have crew : (s.joined 0 r 0).crew = c := crewById_of_find hc
  have body := vlong_collects hl ha h0
  rw [collect_goes full, except_ok_bind, crew, hasked, Option.isSome_none, if_neg Bool.false_ne_true, hmax] at body
  have asks := crew_setCrew hc (g := fun c' => { c' with vlAsked := some (maxvlFor c.size m), vlAskedAt := s.serial }) fun _ => rfl
  have asked := congrArg Crew.vlAsked asks
  have granted := congrArg Crew.vlGrant asks
  exact ⟨_, congrArg (finish s) body, asked, granted, rfl, rfl⟩

include hret

theorem vshort_releases (hl : s.self.long = true) (full : ∀ x, s.mate x → ∃ v d, x.arrival = some (1, v, d))
    (hb : s.vectorBusy s.self.crew = false) :
    ∃ t, exec (.vshort f) s = .next t ∧ t.crew.vlGrant = 0 ∧ t.self = s.self.shortens.departs ∧
      (∀ x ∈ s.peers, x.crew = s.self.crew → x.retired = false → x.shortens.departs ∈ t.peers) ∧
      (∀ x ∈ s.peers, x.crew ≠ s.self.crew → x ∈ t.peers) := by
  have idle : (s.joined 1 0 0).vectorBusy s.self.crew = false := hb
  have body := vshort_collects hl
  rw [collect_goes full, except_ok_bind, idle, if_neg Bool.false_ne_true] at body
  have self := release_self (s := (s.joined 1 0 0).setCrew s.self.crew (fun c => { c with vlGrant := 0 })) (id := s.self.crew)
    (f := Strand.shortens) rfl hret
  have crew := congrArg Crew.vlGrant (crew_setCrew hc (g := fun c => { c with vlGrant := 0 }) fun _ => rfl)
  refine ⟨_, congrArg (finish s) body, ?_, self, fun x hx hcrew hlive => mem_peers_release hx hcrew hlive,
    fun x hx hcrew => mem_peers_release_other hx hcrew⟩
  rw [State.crew, self]
  exact crew

theorem setvl_releases (hl : s.self.long = true) (ha : s.source f.a r) (hd : s.settled (.g f.d.toNat))
    (full : ∀ x, s.mate x → ∃ v d, x.arrival = some (2, v, d)) (hmax : (s.joined 2 r f.d.toNat).arrivalMax s.self.crew = m) :
    let n := min m c.vlGrant
    ∃ t, exec (.setvl f) s = .next t ∧ t.self = (s.self.sized n f.d.toNat).departs ∧ t.crews = s.crews ∧
      (∀ x v d, x ∈ s.peers → x.crew = s.self.crew → x.retired = false → x.arrival = some (2, v, d) → (x.sized n d).departs ∈ t.peers) ∧
      (∀ x ∈ s.peers, x.crew ≠ s.self.crew → x ∈ t.peers) := by
  have crew : (s.joined 2 r f.d.toNat).crew = c := crewById_of_find hc
  have body := setvl_collects hl ha hd
  rw [collect_goes full, except_ok_bind, crew, hmax] at body
  refine ⟨_, congrArg (finish s) body, ?_, rfl, fun x v d hx hcrew hlive harr => ?_, fun x hx hcrew => mem_peers_release_other hx hcrew⟩
  · refine (release_self (s := s.joined 2 r f.d.toNat) rfl hret).trans ?_
    rw [sizedAsAsked_of_arrival rfl]
    exact departs_sized_withArrival ..
  · rw [← sizedAsAsked_of_arrival harr]
    exact mem_peers_release hx hcrew hlive

end Crews

end Modes

/-! ## The grant of capacity -/

section Grant
variable {s : State} {c : Crew} {m : Nat} (hc : s.crews.find? (fun x => x.id == s.args.unit) = some c) (hm : c.vlAsked = some m)
  (hs : c.saved = false)
include hc

/-- What the grant leaves: the crew has its capacity, and its strands long vectors (R289). -/
theorem granted_leaves {t : State} (ht : t = (s.setCrew c.id (fun c => { c with vlGrant := m, vlAsked := none })).release c.id (Strand.lengthens m)) :
    (t.crewById c.id).vlGrant = m ∧ (t.crewById c.id).vlAsked = none ∧
      (s.self.crew = c.id → s.self.retired = false → t.self = (s.self.lengthens m).departs) ∧
      (∀ x ∈ s.peers, x.crew = c.id → x.retired = false → (x.lengthens m).departs ∈ t.peers) := by
  have hid : c.id = s.args.unit := by simpa using List.find?_some hc
  have found := crewById_of_find (find_setCrew (f := fun c => { c with vlGrant := m, vlAsked := none }) (hid ▸ hc) fun _ hx => hx)
  subst ht
  exact ⟨congrArg Crew.vlGrant found, congrArg Crew.vlAsked found, fun hcrew hret => release_self hcrew hret,
    fun x hx hcrew hret => mem_peers_release hx hcrew hret⟩

include hm hs

/-- The cluster's vectors leave the crew no room. -/
theorem vectorCapacityGrant_waits (h : ¬ s.capacityUsed (clusterOfCore (c.cores.headD 0)) + 512 * c.size * m ≤ 4194304) :
    exec .vectorCapacityGrant s = .next s := by
  show execVectorCapacityGrant s = _
  simp only [execVectorCapacityGrant, crewById_of_find hc, hm, hs, decide_eq_false h, Bool.not_false, Bool.or_true, Bool.true_or, if_true]

theorem vectorCapacityGrant_grants (h : s.capacityUsed (clusterOfCore (c.cores.headD 0)) + 512 * c.size * m ≤ 4194304)
    (first : ∀ x ∈ s.crews, x.id = c.id ∨ x.vlAsked = none ∨ clusterOfCore (x.cores.headD 0) ≠ clusterOfCore (c.cores.headD 0) ∨
      c.vlAskedAt < x.vlAskedAt)
    (arrived : ∀ x ∈ s.self :: s.peers ++ s.saved, x.crew = c.id → x.retired = false → ∃ v d, x.arrival = some (0, v, d)) :
    exec .vectorCapacityGrant s = .next
      ((s.setCrew c.id (fun c => { c with vlGrant := m, vlAsked := none })).release c.id (Strand.lengthens m)) := by
  have ahead : s.crews.all (fun x => x.id == c.id || x.vlAsked.isNone ||
      clusterOfCore (x.cores.headD 0) != clusterOfCore (c.cores.headD 0) || c.vlAskedAt < x.vlAskedAt) = true :=
    by simpa only [List.all_eq_true, Bool.or_eq_true, beq_iff_eq, Option.isNone_iff_eq_none, bne_iff_ne, decide_eq_true_eq, or_assoc]
      using first
  show execVectorCapacityGrant s = _
  simp only [execVectorCapacityGrant, crewById_of_find hc, hm, hs, ahead, decide_eq_true h, (allArrived_iff s c.id 0).2 arrived,
    Bool.not_true, Bool.or_self, Bool.false_eq_true, if_false]
  rfl

end Grant

/-! ## vxch -/

section Exchange
variable {s : State} {f : FA} {p : Word} {q : Strand} {d a ty : Nat}

theorem vxch_meets (hl : s.self.long = true) (hb : s.source f.b p) (hok : s.peerOk p = .ok ()) (hd : s.settled (.v f.d.toNat))
    (hv : s.self.vFull.getLsbD f.a.toNat = true) : s.vxch f = s.rendezvous p f.d.toNat (f.fn.toNat + 8) f.a.toNat := by
  have full : s.sourceV f.a (s.self.vreg f.a.toNat) := ⟨by rw [Strand.vIsFull, hl, if_pos rfl, hv], rfl⟩
  simp only [State.vxch, hl, need_true, srcG_full hb, hok, destFree_settled hd, srcV_full full, except_ok_bind]

theorem rendezvous_self_long (h : p.toNat = s.self.idx) (hty : 8 ≤ ty) :
    s.rendezvous p d ty a = .ok (s.mapSelf (fun st => st.exchanged d ty 4 ((s.self.v[a]?).getD []))) := by
  simp only [State.rendezvous, h, Nat.not_lt.2 hty, if_true, if_false, except_pure]
  rfl

/-- Both strands go at once when the peer waits for this one with a long vector. -/
theorem rendezvous_both_long {d' a' ty' len : Nat} (h : p.toNat ≠ s.self.idx) (hty : 8 ≤ ty) (hty' : 8 ≤ ty')
    (hq : s.strandAt s.self.crew p.toNat = some q) (hs : q.stopped = false) (hw : q.wait = some (.exchange s.self.idx d' a' ty' len)) :
    s.rendezvous p d ty a = .ok ((s.mapStrand s.self.crew p.toNat (fun st => st.exchanged d' ty' len ((s.self.v[a]?).getD []))).mapSelf
      (fun st => st.exchanged d ty 4 ((q.v[a']?).getD []))) := by
  simp only [State.rendezvous, h, if_false, hq, hw, hs, Nat.not_lt.2 hty, Nat.not_lt.2 hty', decide_true, decide_false, Bool.not_false,
    Bool.and_self, beq_self_eq_true, if_true, except_pure]

end Exchange

/-- Settles O26: the collectives by whether all have arrived, the grant by whether there is room, and vxch by its peer. -/
theorem vectorModeAndLength : Obligations.VectorModeAndLength := by
  intro s f r p c m q pre post mate full most waits granted short n sized
  refine ⟨fun hc hret => ⟨fun hl ha h0 hn => collect_stops hn (vlong_collects hl ha h0), fun hl ha h0 hf hm hasked =>
      vlong_asks hc hl ha h0 hf (joined_arrivalMax hret hf hm) hasked, fun hl hn => collect_stops hn (vshort_collects hl),
      fun hl hf hb => vshort_releases hc hret hl hf hb, fun hl ha hd hn => collect_stops hn (setvl_collects hl ha hd),
      fun hl ha hd hf hm => setvl_releases hc hret hl ha hd hf (joined_arrivalMax hret hf hm)⟩,
    fun hc hm hs => ⟨vectorCapacityGrant_waits hc hm hs, fun h first arrived =>
      ⟨_, vectorCapacityGrant_grants hc hm hs h first arrived, granted_leaves hc rfl⟩⟩, fun hl => congrArg (finish s) (vlong_inLongMode hl),
    fun hl ha => congrArg (finish s) (vlong_zero hl ha), fun hl => congrArg (finish s) (vshort_inShortMode hl), fun hl => ⟨congrArg (finish s) (setvl_inShortMode hl), congrArg (finish s) (vxch_inShortMode hl)⟩, ?_⟩
  intro va hl hb hd hv hp h8
  have hty : 8 ≤ f.fn.toNat + 8 := Nat.le_add_left ..
  refine ⟨fun h => ?_, fun hpeers h hcrew hi hpre hret hstop => ?_⟩
  · exact congrArg (finish s) ((vxch_meets hl hb (peerOk_goes hp h8 (.inl h)) hd hv).trans (rendezvous_self_long h hty))
  · have peer := strandAt_peer hpeers h hcrew hi hpre
    have meets := vxch_meets hl hb (peerOk_goes hp h8 (.inr ⟨q, peer, hret⟩)) hd hv
    refine ⟨fun d a ty len ht hw => ?_, fun hw => congrArg (finish s) (meets.trans (rendezvous_waits h peer hw))⟩
    refine exec_retires rfl ⟨_, meets.trans (rendezvous_both_long h hty ht peer hstop hw), ?_, ?_, rfl⟩
    · exact congrArg (fun st => Strand.exchanged st f.d.toNat (f.fn.toNat + 8) 4 ((q.v[a]?).getD [])) (mapStrand_self_of_ne h _)
    · exact mem_peers_mapStrand (hpeers ▸ List.mem_append_right _ (List.mem_cons_self ..)) hcrew hi _

end Sys2Proof.Machine

/-! PROOF. O60 fails: a vector load that wakes a bank changes its channel's queue where the list of channels names the
channel twice. -/

namespace Sys2Proof.Machine

section Wakes
variable {s : State} {f : FA} {addr : Nat → Word} {acc : Access} {w e p : Nat} {a : Word} {l : List (Nat × Word)}

theorem checkElems_first_error {x : Stop} (ha : a.toNat % w = 0) (hc : s.elemCopy acc a = none) (hx : s.xlate acc a = .error x) :
    s.checkElems acc w ((e, a) :: l) = .error x := by
  simp only [State.checkElems, need, ha, hc, hx, decide_true, if_true, except_ok_bind, except_error_bind]

theorem walkFrom_last_asleep {policy pa key : Nat} (hp : s.placeOf policy 0 pa (8 * wbits a 20 16) = p)
    (hr : s.readable p = false) : s.walkFrom a 1 policy pa key = .waits p := by
  simp [State.walkFrom, hp, hr]

theorem lookup_walked {t : Nat} {asid : BitVec 16} {x : Walked} (hn : s.tlb = []) (hw : s.walkedFor t asid a = some x) :
    s.lookup t asid a = s.walkFrom a x.level x.policy x.pa x.key := by
  simp [State.lookup, hn, hw]

theorem xlate_waits (hw : inWindow a = false) (ha : canonical a = true) (h : s.lookup s.self.tower s.crew.asid a = .waits p) :
    s.xlate acc a = .error (.wake p) := by
  simp [State.xlate, State.xlateAs, State.translate, hw, ha, h, untranslated]

/-- A load whose check finds a bank asleep changes no register, and is tried again (14 R438). -/
theorem vload_wakes (h : s.checkElems .r (tyBytes f.fn.toNat) (s.elements f addr) = .error (.wake p))
    (hd : s.settled (s.self.vdest f.d.toNat)) (opc : BitVec 8) : s.vload opc f addr = .error (.wake p) := by
  rw [State.elements] at h
  simp only [State.vload, destFree_settled hd, h, State.emptyOnFault, except_ok_bind, except_error_bind]

end Wakes

/-- The last table of a walk, in the first row of stacked DRAM. -/
def heldTable : Walked := { tower := 0, asid := 0, level := 1, region := 0, policy := 1, pa := 0, key := 0 }

/-- Channel 0 listed twice, asleep in bank 0 by its first entry; the walkers hold the last table, which lies in that bank. -/
def asleepTwice : State :=
  { chans := [(0, { power := 1 :: List.replicate 15 0 }), (0, { queue := { issue := 1 } })]
    walked := [heldTable] }

theorem asleepTwice_xlate : asleepTwice.xlate .r 0 = .error (.wake 0) := by
  have held : asleepTwice.lookup 0 0 0 = asleepTwice.walkFrom 0 1 1 0 0 := lookup_walked (x := heldTable) rfl (by decide)
  exact xlate_waits (by decide) (by decide) (held.trans (walkFrom_last_asleep (by decide) (by decide)))

/-- What waking the bank drops is the first entry, which now holds the default. -/
theorem asleepTwice_woken : ((asleepTwice.onStop (.wake 0)).chan 0).queue.issue = 1 := by decide

theorem exec_vld_asleepTwice : exec (.vld {}) asleepTwice = .next (asleepTwice.onStop (.wake 0)) := by
  have hb : asleepTwice.source (({} : FA).a &&& 31) 0 := by decide
  have hl : asleepTwice.elements {} (fun e => 0 + word (e * tyBytes (({} : FA).fn.toNat))) =
      (0, 0) :: (List.range 31).map (fun e => (e + 1, word (e + 1))) := by decide
  have hc : asleepTwice.checkElems .r 1 ((0, 0) :: (List.range 31).map (fun e => (e + 1, word (e + 1)))) = .error (.wake 0) :=
    checkElems_first_error (by decide) rfl asleepTwice_xlate
  rw [← hl] at hc
  rw [exec_vld, execVld, unitAddr_full hb, except_ok_bind, vload_wakes hc (by decide)]
  rfl

/-- Refutes O60: a vector load that wakes the bank of a page table shows the queue of a second entry for its channel, since
the entry that a wake leaves with the default is dropped from the list. The statement lacks the hypothesis that the channels
are listed in canonical form (`swf {} s.chans`), as `Obligations.MatrixIssue` has it of the cores. -/
theorem not_engineFrame : ¬ Obligations.EngineFrame := by
  intro h
  obtain ⟨-, -, -, -, -, loads, -⟩ := h asleepTwice _ {} (.vld {}) exec_vld_asleepTwice
  obtain ⟨⟨-, -, -, -, -, sameChans⟩, -⟩ := loads (by simp)
  have queue := congrArg (fun q => q.issue) (sameChans 0).2
  rw [asleepTwice_woken] at queue
  cases queue

end Sys2Proof.Machine

/-! PROOF. What a computation of the model ends with (O55): a property of every answer and of every stop, and the rules by which
the form of memory passes through the model's `do` blocks, branches and folds. -/
namespace Sys2Proof.Machine
/-- A computation of which every error has a property, and every answer another. -/
def Ends {ε α : Type} (E : ε → Prop) (P : α → Prop) : Except ε α → Prop
  | .ok a => P a
  | .error e => E e

/-- The form of memory in the state that a stop holds. -/
def Stop.Inv : Stop → Prop
  | .wait t => t.Inv
  | .faulted t _ _ => t.Inv
  | _ => True

/-- The form of memory in the state that a command which goes on later leaves. -/
def CmdStop.Inv : CmdStop → Prop
  | .keep t => t.Inv
  | _ => True

/-- A step that goes on leaves a state of the form. -/
def Leaves (o : Host.Outcome State Fault Refusal) : Prop := ∀ t, o = .next t → t.Inv

section
variable {ε α β : Type} {E : ε → Prop} {P : α → Prop} {Q : β → Prop}

theorem Ends.ok {r : Except ε α} {a : α} (h : Ends E P r) (e : r = .ok a) : P a := by
  subst e; exact h

theorem Ends.error {r : Except ε α} {e' : ε} (h : Ends E P r) (e : r = .error e') : E e' := by
  subst e; exact h

theorem Ends.weaken {r : Except ε α} (h : Ends E P r) : Ends E (fun _ => True) r := by
  cases r with
  | ok a => trivial
  | error e => exact h

theorem ends_ok {a : α} (h : P a) : Ends E P (.ok a) := h

theorem ends_pure {a : α} (h : P a) : Ends E P (pure a) := h

theorem ends_error {e : ε} (h : E e) : Ends E P (.error e) := h

theorem ends_wait {t : State} (h : t.Inv) : Ends Stop.Inv P (.error (.wait t)) := h

theorem ends_keep {t : State} (h : t.Inv) : Ends CmdStop.Inv P (.error (.keep t)) := h

theorem ends_bind {x : Except ε α} {f : α → Except ε β} (hx : Ends E P x) (hf : ∀ a, P a → Ends E Q (f a)) :
    Ends E Q (x >>= f) := by
  cases x with
  | ok a => exact hf a hx
  | error e => exact hx

theorem ends_ok_bind {a : α} {f : α → Except ε β} (h : Ends E Q (f a)) : Ends E Q (Except.ok a >>= f) := h

theorem ends_ite {c : Prop} [Decidable c] {x y : Except ε α} (hx : Ends E P x) (hy : Ends E P y) :
    Ends E P (if c then x else y) := by
  split <;> assumption

theorem ends_map {f : α → β} {x : Except ε α} (hx : Ends E (fun _ => True) x) : Ends E (fun _ => True) (x.map f) := by
  cases x with
  | ok a => trivial
  | error e => exact hx

theorem ends_mapM_mem {f : α → Except ε β} {l : List α} (hf : ∀ a ∈ l, Ends E (fun _ => True) (f a)) :
    Ends E (fun _ => True) (l.mapM f) := by
  induction l with
  | nil => exact ends_pure trivial
  | cons a l ih =>
    rw [List.mapM_cons]
    exact ends_bind (hf a (by simp)) fun _ _ => ends_bind (ih fun b hb => hf b (by simp [hb])) fun _ _ => ends_pure trivial

theorem ends_mapM {f : α → Except ε β} (hf : ∀ a, Ends E (fun _ => True) (f a)) (l : List α) :
    Ends E (fun _ => True) (l.mapM f) := ends_mapM_mem fun a _ => hf a

theorem ends_foldlM {f : β → α → Except ε β} (hf : ∀ b a, Q b → Ends E Q (f b a)) (l : List α) {b : β} (hb : Q b) :
    Ends E Q (l.foldlM f b) := by
  induction l generalizing b with
  | nil => exact ends_pure hb
  | cons a l ih =>
    rw [List.foldlM_cons]
    exact ends_bind (hf b a hb) fun _ hc => ih hc

theorem ends_forIn {f : α → β → Except ε (ForInStep β)} (hf : ∀ a b, Ends E (fun _ => True) (f a b)) (l : List α) (b : β) :
    Ends E (fun _ => True) (forIn l b f) := by
  induction l generalizing b with
  | nil => exact ends_pure trivial
  | cons a l ih =>
    rw [List.forIn_cons]
    refine ends_bind (hf a b) fun x _ => ?_
    cases x with
    | done b => exact ends_pure trivial
    | yield b => exact ih b

theorem inv_of_fst {x : State × α} {t : State} {a : α} (h : x.1.Inv) (e : x = (t, a)) : t.Inv := by
  subst e; exact h

theorem inv_ite {c : Prop} [Decidable c] {s t : State} (hs : s.Inv) (ht : t.Inv) : (if c then s else t).Inv := by
  split <;> assumption

theorem inv_foldl {f : State → α → State} {l : List α} {s : State} (hf : ∀ t a, t.Inv → (f t a).Inv) (h : s.Inv) :
    (l.foldl f s).Inv := foldl_inv f hf l s h

theorem inv_foldr {f : α → State → State} {l : List α} {s : State} (hf : ∀ a t, t.Inv → (f a t).Inv) (h : s.Inv) :
    (l.foldr f s).Inv := by
  induction l with
  | nil => exact h
  | cons a l ih => exact hf a _ ih

/-- A fold that may fail, of changes each of which keeps the form, keeps it. -/
theorem some_foldl {f : Option State → α → Option State}
    (hf : ∀ r a, (∀ t, r = some t → t.Inv) → ∀ t, f r a = some t → t.Inv) (l : List α) {r : Option State}
    (h : ∀ t, r = some t → t.Inv) : ∀ t, l.foldl f r = some t → t.Inv := by
  induction l generalizing r with
  | nil => exact h
  | cons a l ih => exact ih (hf r a h)

theorem getD_inv {r : Option State} {s : State} (hr : ∀ t, r = some t → t.Inv) (h : s.Inv) : (r.getD s).Inv := by
  cases r with
  | none => exact h
  | some t => exact hr t rfl

theorem leaves_next {t : State} (h : t.Inv) : Leaves (.next t) := fun _ e => by cases e; exact h

theorem leaves_ite {c : Prop} [Decidable c] {a b : Host.Outcome State Fault Refusal} (ha : Leaves a) (hb : Leaves b) :
    Leaves (if c then a else b) := by
  split <;> assumption

end
end Sys2Proof.Machine

/-! PROOF. The form of memory (O55): state, faults, translation, homes and lines. -/
namespace Sys2Proof.Machine
section
variable {s : State}
theorem setTower_inv {t f} (h : s.Inv) : (s.setTower t f).Inv := h.congr rfl rfl
theorem writeAs_inv {e key p bs} (h : s.Inv) : (s.writeAs e key p bs).Inv := (putAt_inv h ..).congr rfl rfl
theorem clearPoison_inv {p n} (h : s.Inv) : (s.clearPoison p n).Inv := h.congr rfl rfl
theorem freeWord_inv (h : s.Inv) : (s.freeWord).2.Inv := h.congr rfl rfl
theorem setCrew_inv {id f} (h : s.Inv) : (s.setCrew id f).Inv := h.congr rfl rfl
theorem mapCrew_inv {id f} (h : s.Inv) : (s.mapCrew id f).Inv := h.congr rfl rfl
theorem mapStrand_inv {crew idx f} (h : s.Inv) : (s.mapStrand crew idx f).Inv := h.congr rfl rfl
theorem pass_inv (h : s.Inv) : (s.pass).Inv := h.congr rfl rfl
theorem meets_inv {e} (h : s.Inv) : (s.meets e).Inv := h.congr rfl rfl
theorem setCtx_inv {k f} (h : s.Inv) : (s.setCtx k f).Inv := h.congr rfl rfl
theorem machineCheck_inv {code tower asid addr} (h : s.Inv) : (s.machineCheck code tower asid addr).Inv :=
  h.congr rfl rfl
theorem recordFault_inv {k f} (h : s.Inv) : (s.recordFault k f).Inv := setCtx_inv (inv_ite (h.congr rfl rfl) h)
theorem endLaunch_inv {code addr user} (h : s.Inv) : (s.endLaunch code addr user).Inv :=
  mapSelf_inv (recordFault_inv h) ..
theorem setChan_inv {k f} (h : s.Inv) : (s.setChan k f).Inv := h.congr rfl rfl
theorem wakeBank_inv {k n} (h : s.Inv) : (s.wakeBank k n).Inv := inv_ite h (setChan_inv (inv_ite (h.congr rfl rfl) h))
theorem wakeAt_inv {p} (h : s.Inv) : (s.wakeAt p).Inv := inv_ite (wakeBank_inv h) h
theorem trapEntry_inv {kind code tpc taddr target} (h : s.Inv) : (s.trapEntry kind code tpc taddr target).Inv :=
  inv_ite (endLaunch_inv h) (inv_ite (inv_ite (endLaunch_inv h) (endLaunch_inv h)) (h.congr rfl rfl))
theorem pageFault_inv {asid addr tower info} (h : s.Inv) : (s.pageFault asid addr tower info).Inv :=
  inv_ite h (h.congr rfl rfl)
theorem raisePage_inv {addr access} (h : s.Inv) : (s.raisePage addr access).Inv :=
  inv_ite (endLaunch_inv h) ((pageFault_inv h).congr rfl rfl)
theorem raise_inv {code addr} (h : s.Inv) : (s.raise code addr).Inv := inv_ite (trapEntry_inv h) (endLaunch_inv h)

theorem onStop_inv {e : Stop} (h : s.Inv) (he : e.Inv) : (s.onStop e).Inv := by
  cases e with
  | wait t => exact he
  | fault code addr => exact raise_inv h
  | page addr access => exact raisePage_inv h
  | wake p => exact (wakeAt_inv h).congr rfl rfl
  | faulted t code addr => exact raise_inv he
  | chainPage addr => exact (raisePage_inv h).congr rfl rfl
  | endLaunch code addr user => exact endLaunch_inv h

theorem finish_inv {r : Except Stop State} (h : s.Inv) (hr : Ends Stop.Inv State.Inv r) : Leaves (finish s r) := by
  cases r with
  | ok t => exact leaves_next hr
  | error e => exact leaves_next (onStop_inv h hr)

theorem need_inv {ok code addr} : Ends Stop.Inv (fun _ => True) (need ok code addr) :=
  ends_ite (ends_ok trivial) (ends_error trivial)

theorem emptyOnFault_inv {α : Type} {P : α → Prop} {d} {r : Except Stop α} (h : s.Inv) (hr : Ends Stop.Inv P r) :
    Ends Stop.Inv P (s.emptyOnFault d r) := by
  unfold State.emptyOnFault
  dsimp only
  split
  · exact h.congr rfl rfl
  · exact h.congr rfl rfl
  · exact ends_ite (ends_error (h.congr rfl rfl)) (ends_error trivial)
  · exact hr

theorem holdFor_inv {ok} (h : s.Inv) : Ends Stop.Inv (fun _ => True) (s.holdFor ok) :=
  ends_ite (ends_ok trivial) (ends_error (h.congr rfl rfl))
theorem await_inv {ok} (h : s.Inv) : Ends Stop.Inv (fun _ => True) (s.await ok) :=
  ends_ite (ends_ok trivial) (ends_error (h.congr rfl rfl))

theorem emptySource_inv {r trap} (h : s.Inv) : (s.emptySource r trap).Inv := by
  unfold State.emptySource
  split
  · trivial
  · exact h.congr rfl rfl

theorem srcG_inv {r trap} (h : s.Inv) : Ends Stop.Inv (fun _ => True) (s.srcG r trap) :=
  ends_ite (ends_ok trivial) (ends_error (emptySource_inv h))
theorem srcV_inv {r trap} (h : s.Inv) : Ends Stop.Inv (fun _ => True) (s.srcV r trap) :=
  ends_ite (ends_ok trivial) (ends_error (emptySource_inv h))
theorem destFree_inv {d} (h : s.Inv) : Ends Stop.Inv (fun _ => True) (s.destFree d) := await_inv h
theorem result_inv {d len v} (h : s.Inv) : Ends Stop.Inv State.Inv (s.result d len v) :=
  ends_bind (destFree_inv h) fun _ _ => ends_pure (h.congr rfl rfl)
theorem supervisor_inv : Ends Stop.Inv (fun _ => True) (s.supervisor) := need_inv
theorem untranslated_inv {e va acc} : (untranslated e va acc).Inv := by
  cases e <;> trivial

theorem xlateAs_inv {user acc va} : Ends Stop.Inv (fun _ => True) (s.xlateAs user acc va) := by
  unfold State.xlateAs
  split
  · exact ends_error trivial
  · split
    · exact ends_ok trivial
    · exact ends_error untranslated_inv

theorem xlate_inv {acc va} : Ends Stop.Inv (fun _ => True) (s.xlate acc va) := xlateAs_inv

theorem ref_inv {align n r} : Ends Stop.Inv (fun _ => True) (s.ref align n r) := by
  unfold State.ref
  split
  · exact ends_ok trivial
  · exact ends_error trivial

theorem setRowState_inv {k n sub row x} (h : s.Inv) : (s.setRowState k n sub row x).Inv := h.congr rfl rfl
theorem setLock_inv {k n sub row key} (h : s.Inv) : (s.setLock k n sub row key).Inv := h.congr rfl rfl
theorem setRows_inv {k n sub rows x} (h : s.Inv) : (s.setRows k n sub rows x).Inv :=
  inv_foldl (fun _ _ ht => ht.congr rfl rfl) h

theorem windowRead_inv {off} (h : s.Inv) : (s.windowRead off).2.Inv := by
  unfold State.windowRead
  split
  · dsimp only
    split
    · exact h
    · exact h.congr rfl rfl
  · exact h

theorem regWrite_inv {off v} (h : s.Inv) : (s.regWrite off v).Inv :=
  inv_ite (h.congr rfl rfl) (inv_ite (h.congr rfl rfl) (inv_ite (h.congr rfl rfl) (inv_ite (h.congr rfl rfl)
    (inv_ite (h.congr rfl rfl) h))))

theorem answer_inv {w v} (h : s.Inv) : (s.answer w v).Inv := h.congr rfl rfl
theorem setRing_inv {e p r} (h : s.Inv) : (s.setRing e p r).Inv := (putAt_inv h ..).congr rfl rfl

theorem serveRingN_inv {p cmd n} (h : s.Inv) : (s.serveRingN p cmd n).Inv := by
  induction n generalizing s with
  | zero => exact h
  | succ n ih =>
    unfold State.serveRingN
    dsimp only
    split
    · exact ih (setRing_inv (answer_inv h))
    · exact ih (setRing_inv (answer_inv h))
    · exact h

theorem serveRing_inv {p cmd} (h : s.Inv) : (s.serveRing p cmd).Inv := serveRingN_inv h
theorem serveRings_inv (h : s.Inv) : (s.serveRings).Inv := inv_foldl (fun _ _ ht => serveRing_inv ht) h
theorem dropReq_inv {id} (h : s.Inv) : (s.dropReq id).Inv := h.congr rfl rfl
theorem setReq_inv {id f} (h : s.Inv) : (s.setReq id f).Inv := h.congr rfl rfl
theorem tidy_inv (h : s.Inv) : (s.tidy).Inv := h.congr rfl rfl

theorem putCopy_inv {c} (h : s.Inv) : (s.putCopy c).Inv := by
  unfold State.putCopy
  dsimp only
  split
  · refine fitL2_inv ?_ ..
    exact h.congr rfl rfl
  · exact h.congr rfl rfl

theorem learn_inv {asid va place} (h : s.Inv) : (s.learn asid va place).Inv := inv_ite h (h.congr rfl rfl)
theorem grant_inv {y asid va t} (h : s.Inv) : (s.grant y asid va t).Inv :=
  (inv_ite (putCopy_inv (putCopy_inv (learn_inv h))) (putCopy_inv (learn_inv h))).congr rfl rfl
theorem subLease_inv {y c} (h : s.Inv) : (s.subLease y c).Inv := inv_ite h (putCopy_inv h)

theorem deliver_inv {ret bs} (h : s.Inv) : (s.deliver ret bs).Inv := by
  unfold State.deliver
  split
  · exact h
  · exact h.congr rfl rfl

theorem reqFault_inv {r code addr} (h : s.Inv) : (s.reqFault r code addr).Inv :=
  (recordFault_inv h).congr rfl rfl
theorem performWrite_inv {r p bs} (h : s.Inv) : (s.performWrite r p bs).Inv :=
  inv_ite ((putAt_inv h ..).congr rfl rfl) ((putAt_inv h ..).congr rfl rfl)

theorem arrive_inv {p f} (h : s.Inv) : (s.arrive p f).Inv := by
  unfold State.arrive
  dsimp only
  split
  · exact h
  · split
    · exact (putAt_inv h ..).congr rfl rfl
    · exact inv_ite ((putAt_inv h ..).congr rfl rfl) (putAt_inv h ..)

theorem performed_inv {r p stamp} (h : s.Inv) : (s.performed r p stamp).Inv := h.congr rfl rfl

theorem perform_inv {r p} (h : s.Inv) : (s.perform r p).Inv := by
  unfold State.perform
  extract_lets t n gone old u v
  have hw : t.Inv := wakeAt_inv h
  have hu : u.Inv := inv_ite hw (performWrite_inv hw)
  have hv : v.Inv := deliver_inv (performed_inv hu)
  refine inv_ite (reqFault_inv hw) (inv_ite (reqFault_inv hw) (inv_ite (reqFault_inv hw) (inv_ite ?_ ?_)))
  · exact (serveRings_inv (performed_inv (arrive_inv hw))).congr rfl rfl
  · exact tidy_inv (dropReq_inv (inv_ite (serveRings_inv hv) hv))

theorem performStore_inv {r p} (h : s.Inv) : (s.performStore r p).Inv :=
  inv_ite h (inv_foldl (fun _ _ ht => perform_inv ht) h)

theorem copyRead_inv {r c} (h : s.Inv) : (s.copyRead r c).Inv := by
  unfold State.copyRead
  dsimp only
  split
  · refine tidy_inv (dropReq_inv ?_ ..) ..
    exact deliver_inv (subLease_inv (h.congr rfl rfl))
  · exact h

theorem laneTurn_inv {r} (h : s.Inv) : (s.laneTurn r).Inv := by
  unfold State.laneTurn
  dsimp only
  split
  · split
    · exact h
    · split
      · exact h
      · exact reqFault_inv h
      · refine tidy_inv ?_ ..
        exact (deliver_inv (wakeBank_inv h)).congr rfl rfl
  · split
    · exact h
    · split
      · exact h
      · exact reqFault_inv h
      · refine tidy_inv ?_ ..
        exact (putBead_inv (wakeBank_inv h) ..).congr rfl rfl
  · exact h

theorem arriveAt_inv {r p t} (h : s.Inv) (ht : s.arriveAt r p = .recorded t) : t.Inv := by
  unfold State.arriveAt at ht
  split at ht
  · split at ht
    · split at ht <;> cases ht
    · split at ht <;> cases ht
      exact h.congr rfl rfl
  · split at ht
    · cases ht
    · split at ht
      · split at ht <;> cases ht
        exact h.congr rfl rfl
      · split at ht <;> cases ht

theorem homeRead_inv {r serve} (h : s.Inv) : (s.homeRead r serve).Inv := by
  unfold State.homeRead
  refine inv_ite h (inv_ite (laneTurn_inv h) ?_)
  split
  · exact inv_ite h ((deliver_inv (windowRead_inv h)).congr rfl rfl)
  · split
    · split
      · exact copyRead_inv h
      · exact h
    · exact h
    · split
      · exact h
      · next e => exact arriveAt_inv h e
      · exact inv_ite (h.congr rfl rfl) (inv_ite (grant_inv (perform_inv h)) (perform_inv h))

theorem homeWeak_inv {r} (h : s.Inv) : (s.homeWeak r).Inv := by
  unfold State.homeWeak
  split
  · split
    · split
      · exact h
      · next e => exact arriveAt_inv h e
      · exact performStore_inv h
    · exact h
  · exact h

theorem queueAt_inv {r held} (h : s.Inv) : (s.queueAt r held).Inv := inv_ite (h.congr rfl rfl) (h.congr rfl rfl)
theorem holdOn_inv {crew idx units} (h : s.Inv) : (s.holdOn crew idx units).Inv := h.congr rfl rfl
theorem holdOff_inv {crew idx} (h : s.Inv) : (s.holdOff crew idx).Inv := h.congr rfl rfl
theorem moduleWrite_inv {idx p n} (h : s.Inv) : Ends State.Inv State.Inv (s.moduleWrite idx p n) :=
  ends_ite (ends_error h) (ends_ite (ends_error (h.congr rfl rfl)) (ends_ok (h.congr rfl rfl)))

theorem homeStrong_inv {r} (h : s.Inv) : (s.homeStrong r).Inv := by
  unfold State.homeStrong
  split
  · exact h
  · refine inv_ite h (inv_ite (laneTurn_inv h) ?_)
    split
    · exact h
    · next e => exact arriveAt_inv h e
    · exact inv_ite (queueAt_inv h) (inv_ite (queueAt_inv h) (performStore_inv h))

theorem serveRecorded_inv {ids} (h : s.Inv) : (s.serveRecorded ids).Inv := by
  unfold State.serveRecorded
  refine inv_foldl (fun t _ ht => ?_) ?_
  · split
    · exact inv_ite (homeRead_inv ht) (inv_ite (homeWeak_inv ht) (homeStrong_inv ht))
    · exact ht
  · exact h

theorem pageWalk_inv {r keep} (h : s.Inv) : (s.pageWalk r keep).Inv := by
  unfold State.pageWalk
  extract_lets acc t port mine u
  have hu : u.Inv := inv_ite h (h.congr rfl rfl)
  clear_value u
  refine inv_ite hu ?_
  split
  · extract_lets v
    have hv : v.Inv := setReq_inv (learn_inv hu)
    clear_value v
    split
    · exact hv.congr rfl rfl
    · exact hv
  · exact inv_ite (reqFault_inv hu) ((pageFault_inv hu).congr rfl rfl)
  · exact reqFault_inv hu
  · exact reqFault_inv hu
  · exact wakeAt_inv hu
  · exact reqFault_inv hu
  · exact reqFault_inv hu

theorem keepWalk_inv {t asid va how} (h : s.Inv) : (s.keepWalk t asid va how).Inv := by
  unfold State.keepWalk
  split
  · exact h
  · split
    · split
      · exact h.congr rfl rfl
      · exact h
    · split
      · exact h.congr rfl rfl
      · exact h

theorem dropWalk_inv {leaf n} (h : s.Inv) : (s.dropWalk leaf n).Inv := inv_ite (h.congr rfl rfl) (h.congr rfl rfl)
theorem touch_inv {op kind p} (h : s.Inv) : Ends Stop.Inv State.Inv (s.touch op kind p) :=
  ends_ite (ends_error (h.congr rfl rfl)) (ends_ite (ends_ok (h.congr rfl rfl)) (ends_error (h.congr rfl rfl)))

theorem strongRead_inv {va n} (h : s.Inv) : Ends Stop.Inv (fun _ => True) (s.strongRead va n) :=
  ends_bind xlate_inv fun _ _ =>
    ends_ite (ends_error (h.congr rfl rfl)) (ends_ite (ends_error trivial) (ends_ite (ends_error (h.congr rfl rfl))
    (ends_ite (ends_error trivial) (ends_ok trivial))))

theorem lookedAt_inv {va n} (h : s.Inv) : (s.lookedAt va n).Inv := by
  unfold State.lookedAt
  split
  · exact h.congr rfl rfl
  · exact h

theorem lookAhead_inv {va} (h : s.Inv) : (s.lookAhead va).Inv := by
  unfold State.lookAhead
  split
  · exact inv_ite ((lookedAt_inv h).congr rfl rfl) h
  · exact h

end
end Sys2Proof.Machine

/-! PROOF. The form of memory (O55): scalar memory, words and rings, commands and queues. -/
namespace Sys2Proof.Machine
section
variable {s : State}

theorem locate_inv {sp a n} : Ends Stop.Inv (fun _ => True) (s.locate sp a n) := by
  unfold State.locate
  dsimp only
  split
  · split
    · exact ends_ok trivial
    · exact ends_error trivial
  · split
    · exact ends_ok trivial
    · exact ends_error trivial
  · split
    · exact ends_error trivial
    · split
      · exact ends_ok trivial
      · exact ends_error trivial
  · exact ends_ite (ends_error trivial) (ends_ite (ends_ite (ends_error trivial) (ends_ite (ends_error trivial)
      (ends_ok trivial))) (ends_ok trivial))

theorem effective_inv {f unit} (h : s.Inv) : Ends Stop.Inv (fun _ => True) (s.effective f unit) :=
  ends_bind (srcG_inv h) fun _ _ => ends_bind need_inv fun _ _ => ends_pure trivial

theorem load_inv {len f sp opc} (h : s.Inv) : Ends Stop.Inv State.Inv (s.load len f sp opc) := by
  unfold State.load
  dsimp only
  exact ends_bind (effective_inv h) fun _ _ => ends_bind locate_inv fun _ _ => ends_bind (destFree_inv h) fun _ _ =>
    ends_ite (ends_pure (h.congr rfl rfl)) (ends_pure (h.congr rfl rfl))

theorem store_inv {len f sp opc} (h : s.Inv) : Ends Stop.Inv State.Inv (s.store len f sp opc) :=
  ends_bind (effective_inv h) fun _ _ => ends_bind locate_inv fun _ _ => ends_bind (srcG_inv h) fun _ _ =>
    ends_pure (h.congr rfl rfl)

theorem loadQ_inv {f} (h : s.Inv) : Ends Stop.Inv State.Inv (s.loadQ f) := by
  refine ends_bind (effective_inv h) fun _ _ => ends_bind locate_inv fun _ _ => ends_bind (destFree_inv h) fun _ _ =>
    ends_pure (advance_inv ?_ _)
  exact inv_foldl (fun _ _ ht => ht.congr rfl rfl) (produce_inv h ..)

theorem storeQ_inv {f} (h : s.Inv) : Ends Stop.Inv State.Inv (s.storeQ f) := by
  unfold State.storeQ
  refine ends_bind (effective_inv h) fun _ _ => ends_bind locate_inv fun _ _ => ?_
  split
  split
  · exact ends_error (h.congr rfl rfl)
  · dsimp only
    refine ends_pure (advance_inv ?_ ..)
    exact inv_foldl (fun _ _ ht => ht.congr rfl rfl) h

theorem setFull_inv {e p full} (h : s.Inv) : (s.setFull e p full).Inv := h.congr rfl rfl

theorem serveWord_inv {p n} (h : s.Inv) : (s.serveWord p n).Inv := by
  induction n generalizing s with
  | zero => exact h
  | succ n ih =>
    unfold State.serveWord
    dsimp only
    split
    · split
      · split
        · exact ih (answer_inv h)
        · exact ih (setFull_inv (answer_inv h))
      · exact h
    · split
      · split
        · exact ih (setFull_inv (clearPoison_inv (putAt_inv (answer_inv h) ..)))
        · exact h
      · exact h

theorem serve_inv {p} (h : s.Inv) : (s.serve p).Inv := serveRings_inv (serveWord_inv h)

/-- The state in which a request for a word or ring is made has the form, and so has what serving its place makes of a state
that has it. -/
def Ask.Inv (k : Ask) : Prop := k.state.Inv ∧ ∀ t, t.Inv → (k.serve t).Inv

theorem queueFor_inv {ask} (h : s.Inv) (hask : Ends Stop.Inv Ask.Inv ask) :
    Ends Stop.Inv (fun x => x.2.Inv) (s.queueFor ask) := by
  unfold State.queueFor
  dsimp only
  split
  · split
    · exact ends_ok (h.congr rfl rfl)
    · exact ends_error h
  · refine ends_bind hask fun k hk => ?_
    generalize hu : k.serve _ = u
    have hs : u.Inv := hu ▸ hk.2 _ (hk.1.congr rfl rfl)
    split
    · split
      · exact ends_ok (hs.congr rfl rfl)
      · exact ends_error hs
    · exact ends_error hs

theorem notPoisoned_inv {p n a} : Ends Stop.Inv (fun _ => True) (s.notPoisoned p n a) := need_inv

theorem takeWord_inv {f sp} (h : s.Inv) : Ends Stop.Inv State.Inv (s.takeWord f sp) :=
  ends_bind (queueFor_inv h (ends_bind (effective_inv h) fun _ _ => ends_bind (locate_inv) fun _ _ =>
    ends_bind (destFree_inv h) fun _ _ => ends_bind (touch_inv h) fun _ hu => ends_bind (notPoisoned_inv) fun _ _ =>
    ends_pure ⟨hu, fun _ ht => serve_inv ht⟩)) fun _ ht =>
  ends_ite (ends_pure (advance_inv ht _)) (ends_pure (advance_inv (produce_inv ht ..) _))

theorem putWord_inv {f sp} (h : s.Inv) : Ends Stop.Inv State.Inv (s.putWord f sp) :=
  ends_bind (queueFor_inv h (ends_bind (effective_inv h) fun _ _ => ends_bind (locate_inv) fun _ _ =>
    ends_bind (srcG_inv h) fun _ _ => ends_bind (touch_inv h) fun _ hu =>
    ends_pure ⟨hu, fun _ ht => serve_inv ht⟩)) fun _ ht => ends_pure (advance_inv ht _)

theorem fefillWords_inv {f} (h : s.Inv) : Ends Stop.Inv (fun _ => True) (s.fefillWords f) :=
  ends_bind (srcG_inv h) fun _ _ => ends_bind (srcG_inv h) fun _ _ => ends_bind need_inv fun _ _ =>
    ends_bind need_inv fun _ _ => ends_pure trivial

theorem fillWord_inv {full p} (h : s.Inv) : Ends Stop.Inv State.Inv (s.fillWord full p) :=
  ends_bind (touch_inv h) fun _ ht => ends_pure (serve_inv (pass_inv (setFull_inv ht)))

theorem fefill_inv {f} (h : s.Inv) : Ends Stop.Inv State.Inv (s.fefill f) :=
  ends_bind (fefillWords_inv h) fun _ _ => ends_bind (ends_foldlM (fun _ _ ht => fillWord_inv ht) _ h) fun _ ht =>
    ends_pure (ht.congr rfl rfl)

theorem fillNext_inv {f} (h : s.Inv) : (s.fillNext f).Inv := by
  unfold State.fillNext
  split
  · split
    · split
      · next e => exact ((fillWord_inv h).ok e).congr rfl rfl
      · exact h
    · exact h
  · exact h

theorem waitFull_inv {f} (h : s.Inv) : Ends Stop.Inv State.Inv (s.waitFull f) :=
  ends_bind (queueFor_inv h (ends_bind (srcG_inv h) fun _ _ => ends_bind (ref_inv) fun _ _ =>
    ends_pure ⟨h, fun _ ht => serve_inv ht⟩)) fun _ ht => ends_pure (advance_inv ht _)

theorem fence_inv {fn scope} (h : s.Inv) : (s.fence fn scope).Inv := by
  unfold State.fence
  refine advance_inv (tidy_inv ?_ ..) ..
  exact h.congr rfl rfl

theorem issueRmw_inv {d op space adr place opc} (h : s.Inv) : (s.issueRmw d op space adr place opc).Inv := by
  unfold State.issueRmw
  split <;> exact h.congr rfl rfl

theorem casLocal_inv {f} (h : s.Inv) : Ends Stop.Inv State.Inv (s.casLocal f) :=
  ends_bind (srcG_inv h) fun _ _ => ends_bind need_inv fun _ _ => ends_bind locate_inv fun _ _ =>
    ends_bind (srcG_inv h) fun _ _ => ends_bind (srcG_inv h) fun _ _ => ends_pure ((issueRmw_inv h).congr rfl rfl)

theorem amoLocal_inv {f} (h : s.Inv) : Ends Stop.Inv State.Inv (s.amoLocal f) :=
  ends_bind (srcG_inv h) fun _ _ => ends_bind (srcG_inv h) fun _ _ => ends_bind need_inv fun _ _ =>
    ends_bind locate_inv fun _ _ => ends_bind (destFree_inv h) fun _ _ => ends_pure ((issueRmw_inv h).congr rfl rfl)

theorem peerOk_inv {p} : Ends Stop.Inv (fun _ => True) (s.peerOk p) := ends_bind need_inv fun _ _ => need_inv

theorem rendezvous_inv {p d ty a} (h : s.Inv) : Ends Stop.Inv State.Inv (s.rendezvous p d ty a) := by
  unfold State.rendezvous
  dsimp only
  split
  · exact ends_pure (h.congr rfl rfl)
  · split
    · exact ends_error trivial
    · split
      · exact ends_ite (ends_pure (h.congr rfl rfl)) (ends_wait (h.congr rfl rfl))
      · exact ends_wait (h.congr rfl rfl)

theorem exchange_inv {f} (h : s.Inv) : Ends Stop.Inv State.Inv (s.exchange f) :=
  ends_bind (srcG_inv h) fun _ _ => ends_bind peerOk_inv fun _ _ => ends_bind (destFree_inv h) fun _ _ =>
    ends_ite (ends_error (emptySource_inv h)) (rendezvous_inv h)

theorem liftCode_inv {v r} : Ends Stop.Inv (fun _ => True) (liftCode v r) := by
  unfold liftCode
  split
  · exact ends_ok trivial
  · exact ends_error trivial

theorem ringAt_inv {r kind} (h : s.Inv) : Ends Stop.Inv (fun x => x.2.Inv) (s.ringAt r kind) :=
  ends_bind ref_inv fun _ _ => ends_bind (touch_inv h) fun _ ht => ends_bind notPoisoned_inv fun _ _ =>
    ends_bind liftCode_inv fun _ _ => ends_pure ht

theorem rginit_inv {f} (h : s.Inv) : Ends Stop.Inv State.Inv (s.rginit f) := by
  unfold State.rginit
  refine ends_bind (srcG_inv h) fun _ _ => ends_bind (srcG_inv h) fun _ _ => ends_bind ref_inv fun _ _ =>
    ends_bind liftCode_inv fun _ _ => ends_bind (touch_inv h) fun _ ht => ?_
  refine ends_pure (advance_inv (serveRing_inv ?_ ..) ..)
  refine clearPoison_inv ?_ ..
  exact (putAt_inv ht ..).congr rfl rfl

theorem ringSlot_inv {f n} (h : s.Inv) : Ends Stop.Inv State.Inv (s.ringSlot f n) :=
  ends_bind (queueFor_inv h (ends_bind (srcG_inv h) fun _ _ => ends_bind (ringAt_inv h) fun _ hu =>
    ends_bind (destFree_inv h) fun _ _ => ends_pure ⟨hu, fun _ ht => serveRing_inv ht⟩)) fun _ ht =>
  ends_ite (ends_pure (advance_inv ht _)) (ends_pure (advance_inv (produce_inv ht ..) _))

theorem ringMove_inv {f post} (h : s.Inv) : Ends Stop.Inv State.Inv (s.ringMove f post) :=
  ends_bind (srcG_inv h) fun _ _ => ends_bind (ringAt_inv h) fun _ ht => ends_bind need_inv fun _ _ =>
    ends_pure (advance_inv (serveRing_inv (pass_inv (setRing_inv ht))) _)

theorem prefetch_inv {f} (h : s.Inv) : Ends Stop.Inv State.Inv (s.prefetch f) := by
  unfold State.prefetch
  refine ends_bind (srcG_inv h) fun _ _ => ?_
  dsimp only
  split
  · exact ends_pure (h.congr rfl rfl)
  · split
    · exact ends_ite (ends_pure (h.congr rfl rfl)) (ends_ite (ends_pure (grant_inv (h.congr rfl rfl)))
        (ends_ite (ends_pure (h.congr rfl rfl)) (ends_pure (grant_inv (h.congr rfl rfl)))))
    · exact ends_pure (h.congr rfl rfl)

theorem leaseq_inv {f} (h : s.Inv) : Ends Stop.Inv State.Inv (s.leaseq f) := by
  unfold State.leaseq
  refine ends_bind (srcG_inv h) fun _ _ => ends_bind need_inv fun _ _ => ends_bind (destFree_inv h) fun _ _ => ?_
  dsimp only
  refine ends_pure (advance_inv ?_ ..)
  exact inv_ite h (h.congr rfl rfl)

theorem holdUnits_inv {units} (h : s.Inv) : Ends Stop.Inv State.Inv (s.holdUnits units) :=
  ends_ite (ends_ok (h.congr rfl rfl)) (ends_error ((h.congr rfl rfl).congr rfl rfl))

theorem tsplitReady_inv {f} (h : s.Inv) : Ends Stop.Inv (fun _ => True) (s.tsplitReady f) :=
  ends_bind supervisor_inv fun _ _ => ends_bind (srcG_inv h) fun _ _ => ends_bind need_inv fun _ _ =>
    ends_bind (holdFor_inv h) fun _ _ => ends_bind (holdFor_inv h) fun _ _ => ends_pure trivial

theorem tsplitBegin_inv {f} (h : s.Inv) : (s.tsplitBegin f).Inv := by
  unfold State.tsplitBegin
  split
  · exact inv_ite h (h.congr rfl rfl)
  · exact h

theorem tsplit_inv {f} (h : s.Inv) : Ends Stop.Inv State.Inv (s.tsplit f) :=
  ends_bind (tsplitReady_inv h) fun _ _ => ends_bind (holdFor_inv h) fun _ _ => ends_bind (holdUnits_inv h) fun _ hu =>
    ends_pure ((filterMem_inv hu _).congr rfl rfl)

theorem setQueue_inv {q f} (h : s.Inv) : (s.setQueue q f).Inv := by
  unfold State.setQueue
  split
  · exact h.congr rfl rfl
  · exact h.congr rfl rfl
  · exact h.congr rfl rfl

theorem payChains_inv (h : s.Inv) : (s.payChains).Inv := by
  refine foldl_inv _ (fun t b ht => ?_) _ _ h
  split
  · refine inv_ite (wakeAt_inv ht) ?_
    split
    · next e => exact (moduleWrite_inv ht).error e
    · next e => exact (writeAt_inv ((moduleWrite_inv ht).ok e) ..).congr rfl rfl
  · exact ht

theorem tidyChains_inv (h : s.Inv) : (s.tidyChains).Inv := payChains_inv (h.congr rfl rfl)

theorem chainPlace_inv {block a} (h : s.Inv) : Ends Stop.Inv (fun _ => True) (s.chainPlace block a) := by
  unfold State.chainPlace
  split
  · exact ends_ite (ends_error trivial) (ends_ite (ends_error (h.congr rfl rfl)) (ends_ok trivial))
  · exact ends_error trivial
  · exact ends_error trivial
  · exact ends_error trivial
  · exact ends_error trivial

theorem freeBlock_inv {ctx} : Ends Stop.Inv (fun _ => True) (s.freeBlock ctx) := by
  unfold State.freeBlock
  dsimp only
  split
  · exact ends_error trivial
  · exact ends_ok trivial

theorem spill_inv {kind crew idx c entry} (h : s.Inv) : Ends Stop.Inv State.Inv (s.spill kind crew idx c entry) := by
  unfold State.spill
  dsimp only
  split
  · split
    all_goals refine ends_bind (P := fun _ => True) ?_ fun _ _ => ends_bind (ends_mapM (fun _ =>
      chainPlace_inv h) _) fun _ _ =>
      ends_ite (ends_error (h.congr rfl rfl)) (ends_pure (inv_foldl (fun _ _ ht =>
        writeAt_inv ht ..) (h.congr rfl rfl)))
    · exact ends_pure trivial
    · exact ends_map freeBlock_inv
  · exact ends_bind (ends_map freeBlock_inv) fun _ _ => ends_bind (ends_mapM (fun _ => chainPlace_inv h) _) fun _ _ =>
      ends_ite (ends_error (h.congr rfl rfl)) (ends_pure (inv_foldl (fun _ _ ht => writeAt_inv ht ..) (h.congr rfl rfl)))

theorem accept_inv {kind opc op args bytes bar after scope entry} (h : s.Inv) : Ends Stop.Inv (fun x =>
  x.1.Inv) (s.accept kind opc op args bytes bar after scope entry) :=
  ends_ite (ends_bind (ends_ok h) fun _ ht => ends_pure (ht.congr rfl rfl)) (ends_bind (spill_inv h) fun _ ht =>
    ends_pure (ht.congr rfl rfl))

theorem arriveFor_inv {q c f} (h : s.Inv) : (s.arriveFor q c f).Inv := by
  unfold State.arriveFor
  split
  · exact serveRings_inv ((arrive_inv h).congr rfl rfl)
  · exact h

theorem followEnd_inv {q c f} (h : s.Inv) : (s.followEnd q c f).Inv := by
  unfold State.followEnd
  split
  · dsimp only
    split
    · exact (setQueue_inv h).congr rfl rfl
    · exact setQueue_inv h
  · exact h

theorem complete_inv {q c arrival latched} (h : s.Inv) : (s.complete q c arrival latched).Inv :=
  tidyChains_inv (followEnd_inv (setQueue_inv (arriveFor_inv (h.congr rfl rfl))))

theorem endCommand_inv {q c f} (h : s.Inv) : (s.endCommand q c f).Inv := by
  unfold State.endCommand
  dsimp only
  split
  · exact recordFault_inv (complete_inv h)
  · exact complete_inv h

theorem lapse_inv {q c f} (h : s.Inv) : (s.lapse q c f).Inv := complete_inv h
theorem parcelSound_inv {line va} : Ends Stop.Inv (fun _ => True) (s.parcelSound line va) := need_inv

theorem fetchCopy_inv {user va vb} (h : s.Inv) : Ends Stop.Inv (fun x => x.2.Inv) (s.fetchCopy user va vb) := by
  unfold State.fetchCopy
  dsimp only
  split
  · exact ends_pure (subLease_inv h)
  · exact ends_bind xlateAs_inv fun _ _ =>
      ends_ite (ends_error (h.congr rfl rfl)) (ends_ite (ends_error trivial) (ends_bind (holdFor_inv h) fun _ _ =>
      ends_bind need_inv fun _ _ => ends_bind parcelSound_inv fun _ _ => ends_bind parcelSound_inv fun _ _ =>
      ends_ite (ends_pure (grant_inv h)) (ends_pure h)))

theorem fetchLine_inv {va ahead} (h : s.Inv) : Ends Stop.Inv (fun x => x.2.Inv) (s.fetchLine va ahead) := by
  unfold State.fetchLine
  split
  · exact ends_ok h
  · exact fetchCopy_inv h

theorem fetchAhead_inv {va} (h : s.Inv) : (s.fetchAhead va).Inv := by
  unfold State.fetchAhead
  split
  · next e => exact ((fetchCopy_inv h).ok e).congr rfl rfl
  · exact h

theorem fetchFirst_inv {ahead} (h : s.Inv) : Ends Stop.Inv (fun x => x.2.Inv) (s.fetchFirst ahead) :=
  ends_bind (fetchLine_inv h) fun _ ht => ends_ite (fetchCopy_inv ht) (ends_pure ht)

theorem fetchInstr_inv {ahead} (h : s.Inv) : Ends Stop.Inv (fun x => x.2.Inv) (s.fetchInstr ahead) :=
  ends_bind (fetchFirst_inv h) fun _ ht => ends_bind need_inv fun _ _ =>
    ends_ite (ends_pure ht) (ends_ite (ends_bind (fetchLine_inv ht) fun _ hu => ends_pure hu) (ends_pure ht))

theorem publishRange_inv {a n} : Ends Stop.Inv (fun _ => True) (publishRange a n) :=
  ends_bind need_inv fun _ _ => ends_bind need_inv fun _ _ => need_inv
theorem publish_inv {w scope lines} (h : s.Inv) : (s.publish w scope lines).Inv := h.congr rfl rfl

theorem cpubLines_inv {f} (h : s.Inv) : Ends Stop.Inv (fun _ => True) (s.cpubLines f) :=
  ends_bind (srcG_inv h) fun _ _ => ends_bind (srcG_inv h) fun _ _ => ends_bind publishRange_inv fun _ _ =>
    ends_bind (ends_mapM (fun _ => xlate_inv) _) fun _ _ => ends_bind (holdFor_inv h) fun _ _ => ends_pure trivial

theorem cpub_inv {f} (h : s.Inv) : Ends Stop.Inv State.Inv (s.cpub f) :=
  ends_bind (cpubLines_inv h) fun _ _ => ends_pure (h.congr rfl rfl)

theorem publishEarly_inv {f line} (h : s.Inv) : (s.publishEarly f line).Inv := by
  unfold State.publishEarly
  split
  · exact inv_ite (h.congr rfl rfl) h
  · exact h

theorem cpubq_inv {f} (h : s.Inv) : Ends Stop.Inv State.Inv (s.cpubq f) :=
  ends_bind (srcG_inv h) fun _ _ => ends_bind (srcG_inv h) fun _ _ => ends_bind publishRange_inv fun _ _ =>
    ends_bind (destFree_inv h) fun _ _ => ends_bind (accept_inv h) fun _ ht => ends_pure (ht.congr rfl rfl)

theorem ifence_inv (h : s.Inv) : Ends Stop.Inv State.Inv (s.ifence) :=
  ends_bind (holdFor_inv h) fun _ _ => ends_pure (h.congr rfl rfl)
theorem serial_inv {n} (h : s.Inv) : State.Inv { s with serial := n } := h.congr rfl rfl

theorem ipatch_inv {f} (h : s.Inv) : Ends Stop.Inv State.Inv (s.ipatch f) :=
  ends_bind (srcG_inv h) fun _ _ => ends_bind (srcG_inv h) fun _ _ => ends_bind need_inv fun _ _ =>
    ends_bind need_inv fun _ _ =>
    ends_bind xlate_inv fun _ _ => ends_bind (holdFor_inv h) fun _ _ => ends_bind need_inv fun _ _ =>
    ends_pure (serial_inv (advance_inv (publish_inv (record_inv (performWrite_inv (wakeAt_inv h)) _)) _))

theorem cmdXlate_inv {w acc va} (h : s.Inv) : Ends CmdStop.Inv (fun _ => True) (s.cmdXlate w acc va) := by
  unfold State.cmdXlate
  split
  · exact ends_error trivial
  · split
    · exact ends_ok trivial
    · exact ends_error trivial
    · exact ends_error trivial
    · exact ends_error trivial
    · exact ends_keep (wakeAt_inv h)
    · exact ends_error trivial
    · exact ends_error trivial

theorem setCmd_inv {q seq f} (h : s.Inv) : (s.setCmd q seq f).Inv := setQueue_inv h
theorem cmdPage_inv {q c addr access} (h : s.Inv) : (s.cmdPage q c addr access).Inv := setCmd_inv (pageFault_inv h)

theorem finishCommand_inv {q c} {r : Except CmdStop State} (h : s.Inv) (hr : Ends CmdStop.Inv State.Inv r) :
    (s.finishCommand q c r).Inv := by
  unfold State.finishCommand
  split
  · exact endCommand_inv hr
  · exact h
  · exact hr
  · exact inv_ite (endCommand_inv h) (cmdPage_inv h)
  · exact endCommand_inv h

theorem commandTurn_inv {at_ want} {body} (h : s.Inv)
  (hb : ∀ q c, (body q c).Inv) : (s.commandTurn at_ want body).Inv := by
  unfold State.commandTurn
  split
  · refine inv_ite h (inv_ite (hb ..) ?_)
    split
    · exact lapse_inv h
    · exact inv_ite (lapse_inv h) (hb ..)
  · exact h

theorem publishCommand_inv {q c} (h : s.Inv) : Ends CmdStop.Inv State.Inv (s.publishCommand q c) := by
  unfold State.publishCommand
  split
  · refine ends_bind (ends_mapM (fun _ => cmdXlate_inv h) _) fun _ _ => ?_
    split
    · exact ends_pure (h.congr rfl rfl)
    · exact ends_keep (setCmd_inv h)
    · dsimp only
      split
      · exact ends_ite (ends_error h) (ends_keep (setCmd_inv (h.congr rfl rfl)))
      · exact ends_error trivial
  · exact ends_error trivial

end
end Sys2Proof.Machine

/-! PROOF. The form of memory (O55): engines, manifests, the pilot, frames and launches. -/
namespace Sys2Proof.Machine
section
variable {s : State}

theorem spot_inv {w space acc n a} (h : s.Inv) : Ends CmdStop.Inv (fun _ => True) (s.spot w space acc n a) := by
  unfold State.spot
  dsimp only
  split
  · exact ends_bind (cmdXlate_inv h) fun _ _ => ends_pure trivial
  · split
    · exact ends_ok trivial
    · exact ends_error trivial
  · split
    · exact ends_ok trivial
    · exact ends_error trivial
  · split
    · exact ends_error trivial
    · split
      · exact ends_ok trivial
      · exact ends_error trivial

theorem engineRead_inv {c n x} (h : s.Inv) : Ends CmdStop.Inv (fun _ => True) (s.engineRead c n x) :=
  ends_ite (ends_keep (wakeAt_inv h)) (ends_ite (ends_error trivial) (ends_ite (ends_error trivial) (ends_ok trivial)))

theorem sourceRead_inv {c n x} (h : s.Inv) : Ends CmdStop.Inv (fun _ => True) (s.sourceRead c n x) := by
  unfold State.sourceRead
  split
  · exact ends_ok trivial
  · exact engineRead_inv h

theorem sourced_inv {q c n xs} (h : s.Inv) : (s.sourced q c n xs).Inv := h.congr rfl rfl
theorem readAhead_inv {q c n x} (h : s.Inv) : Ends CmdStop.Inv State.Inv (s.readAhead q c n x) :=
  ends_bind (sourceRead_inv h) fun _ _ => ends_ite (ends_keep h) (ends_keep (setCmd_inv (h.congr rfl rfl)))
theorem pin_inv {c xs} (h : s.Inv) : (s.pin c xs).Inv :=
  inv_foldr (fun _ _ ht => inv_ite (grant_inv ht) ht) h
theorem unpin_inv {core} (h : s.Inv) : (s.unpin core).Inv := h.congr rfl rfl
theorem repin_inv {core} (h : s.Inv) : (s.repin core).Inv := inv_foldl (fun _ _ ht => inv_ite (grant_inv ht) ht) h
theorem repinned_inv (h : s.Inv) : (s.repinned).Inv := inv_foldl (fun _ _ ht => repin_inv ht) h

theorem sample_inv {q c xs} (h : s.Inv) : Ends CmdStop.Inv (fun _ => True) (s.sample q c xs) := by
  unfold State.sample
  split
  · exact ends_ok trivial
  · exact ends_keep h
  · split
    · exact ends_map (readAhead_inv (pin_inv h)).weaken
    · exact ends_keep h

theorem passT_inv {q c spans} (h : s.Inv) : (s.passT q c spans).Inv := inv_ite h (setCmd_inv h)

theorem passing_inv {α : Type} {P : α → Prop} {q c spans} {r : Except CmdStop α} (h : s.Inv)
  (hr : Ends CmdStop.Inv P r) :
    Ends CmdStop.Inv P (s.passing q c spans r) := by
  unfold State.passing
  split
  · exact ends_keep (finishCommand_inv (passT_inv h) trivial)
  · exact hr

theorem putClaim_inv {x} (h : s.Inv) : (s.putClaim x).Inv := by
  unfold State.putClaim
  split
  · exact h.congr rfl rfl
  · exact h.congr rfl rfl

theorem claim_inv {q c n cells m src rows} (h : s.Inv) : Ends CmdStop.Inv State.Inv (s.claim q c n cells m src rows) := by
  unfold State.claim
  split
  · exact ends_ok h
  · split
    · exact ends_error trivial
    · split
      · exact ends_error trivial
      · exact ends_ite (ends_keep (putClaim_inv h)) (ends_ok (setCmd_inv (putClaim_inv h)))

theorem operands_inv {q c check} (hc : Ends CmdStop.Inv (fun _ => True) check) :
    Ends CmdStop.Inv (fun _ => True) (s.operands q c check) := by
  unfold State.operands
  split
  · exact ends_ok trivial
  · exact hc

theorem engineWrite_inv {q c x bs} (h : s.Inv) : (s.engineWrite q c x bs).Inv :=
  serveRings_inv ((putAt_inv (wakeAt_inv h) ..).congr rfl rfl)

theorem engineWrites_inv {q c l} (h : s.Inv) : (s.engineWrites q c l).Inv := by
  induction l generalizing s with
  | nil => exact h
  | cons x xs ih => exact ih (engineWrite_inv h)

theorem moveOn_inv {q c n src} {elems : List (Spot × Except CmdStop (List Byte))} (h : s.Inv)
    (he : ∀ x ∈ elems, Ends CmdStop.Inv (fun _ =>
      True) x.2) : Ends CmdStop.Inv State.Inv (s.moveOn q c elems n src) := by
  unfold State.moveOn
  split
  · refine ends_bind (ends_mapM_mem (fun x hx => ends_map (he _ ?_))) fun _ _ =>
      ends_pure (engineWrites_inv (sourced_inv h))
    exact List.fst_mem_of_mem_zipIdx (List.mem_of_mem_filter hx)
  · exact ends_keep h
  · split
    · next x r e =>
      exact ends_ite (ends_keep h) (ends_bind (he _ (List.mem_of_getElem? e)) fun _ _ =>
        ends_keep (setCmd_inv (engineWrite_inv (sourced_inv h))))
    · exact ends_keep h

theorem descAhead_inv {q c ds} (h : s.Inv) : Ends CmdStop.Inv (fun _ => True) (s.descAhead q c ds) := by
  unfold State.descAhead
  split
  · refine ends_ite (ends_ok trivial) ?_
    split
    · split
      · exact ends_ite (ends_map (readAhead_inv h).weaken) (ends_keep h)
      · exact ends_keep h
    · exact ends_keep h
  · exact ends_ok trivial

theorem readDesc_inv {q c align n a} (h : s.Inv) : Ends CmdStop.Inv (fun x => x.2.Inv) (s.readDesc q c align n a) := by
  unfold State.readDesc
  split
  · exact ends_error trivial
  · split
    · exact ends_error trivial
    · split
      · exact ends_ok h
      · exact ends_bind (spot_inv h) fun _ _ => ends_bind (ends_mapM (fun _ => sourceRead_inv h) _) fun _ _ =>
          ends_pure (setCmd_inv (h.congr rfl rfl))

theorem needCmd_inv {ok code a} : Ends CmdStop.Inv (fun _ => True) (needCmd ok code a) :=
  ends_ite (ends_ok trivial) (ends_error trivial)
theorem setManifest_inv {mid f} (h : s.Inv) : (s.setManifest mid f).Inv := h.congr rfl rfl
theorem newMid_inv (h : s.Inv) : (s.newMid).2.Inv := freeWord_inv h

theorem observe_inv {m} (h : s.Inv) : (s.observe m).Inv := by
  unfold State.observe
  split
  · exact h
  · exact deliver_inv (h.congr rfl rfl)

theorem settle_inv {n mid} (h : s.Inv) : (State.settle n mid s).Inv := by
  induction n generalizing mid s with
  | zero => exact h
  | succ n ih =>
    unfold State.settle
    split
    · exact h
    · refine inv_ite h (inv_ite (h.congr rfl rfl) ?_)
      dsimp only
      have h' : State.Inv { s with manifests := s.manifests.filter (fun x => x.mid != mid) } := h.congr rfl rfl
      split
      · exact h.congr rfl rfl
      · exact ih (setManifest_inv (observe_inv (record_inv h' _)))

theorem settleFrom_inv {mid} (h : s.Inv) : (s.settleFrom mid).Inv := settle_inv h

theorem pilotWrite_inv {t asid va bs} (h : s.Inv) : ∀ u, s.pilotWrite t asid va bs = some u → u.Inv := by
  refine some_foldl (fun r x hr u e => ?_) _ fun u e => by cases e; exact h
  split at e
  · cases e
  · next v =>
    split at e <;> cases e
    exact clearPoison_inv (writeAt_inv (wakeAt_inv (hr v rfl)) ..)

theorem pilotWrite_getD_inv {t asid va bs} (h : s.Inv) : ((s.pilotWrite t asid va bs).getD s).Inv :=
  getD_inv (pilotWrite_inv h) h

theorem wakeFor_inv {t asid va} (h : s.Inv) : (s.wakeFor t asid va).Inv := by
  unfold State.wakeFor
  split
  · exact wakeAt_inv h
  · exact wakeAt_inv h
  · exact h

theorem pilotReadWaits_inv {t asid va u} (h : s.Inv) (e : s.pilotReadWaits t asid va = some u) : u.Inv := by
  unfold State.pilotReadWaits at e
  split at e
  · cases e; exact wakeAt_inv h
  · split at e
    · cases e; exact wakeAt_inv h
    · split at e <;> cases e
      exact h
  · cases e

theorem pilotWaits_inv {t asid va n crew idx u} (h : s.Inv)
  (e : s.pilotWaits t asid va n crew idx = some u) : u.Inv := by
  unfold State.pilotWaits at e
  dsimp only at e
  split at e
  · next w e' =>
    cases e
    obtain ⟨_, _, hx⟩ := List.exists_of_findSome?_eq_some e'
    exact pilotReadWaits_inv h hx
  · split at e
    · cases e; exact h
    · split at e <;> cases e
      exact h.congr rfl rfl

theorem freeBytes_inv {n} (h : s.Inv) : (State.freeBytes n s).2.Inv := by
  induction n generalizing s with
  | zero => exact h
  | succ n ih => exact ih (freeWord_inv h)

theorem lighterFault_inv {k code t a} (h : s.Inv) : (s.lighterFault k code t a).Inv := recordFault_inv h

theorem TErr_pilot_inv {e t asid a acc} {hold : Word → State → State} {fail : BitVec 8 → Word → State → State} (h : s.Inv)
    (hh : ∀ a t, t.Inv → (hold a t).Inv) (hf : ∀ c a t, t.Inv → (fail c a t).Inv) :
    (TErr.pilot e s t asid a acc hold fail).Inv := by
  cases e with
  | absent => exact hh _ _ (pageFault_inv h)
  | waits p => exact wakeAt_inv h
  | _ => exact hf _ _ _ h

theorem pilotFetch_inv {t asid a n} {hold : Word → State → State} {fail : BitVec 8 → Word → State → State} (h : s.Inv)
    (hh : ∀ a t, t.Inv → (hold a t).Inv) (hf : ∀ c a t, t.Inv → (fail c a t).Inv) :
    Ends State.Inv (fun _ => True) (s.pilotFetch t asid a n hold fail) := by
  unfold State.pilotFetch
  split
  · exact ends_error (TErr_pilot_inv h hh hf)
  · split
    · next e => exact ends_error (pilotReadWaits_inv h e)
    · exact ends_ite (ends_error (hf _ _ _ h)) (ends_ok trivial)

theorem lighterHold_inv {k a} (h : s.Inv) : (State.lighterHold k a s).Inv := h.congr rfl rfl

theorem lighterRead_inv {k t a} (h : s.Inv) : Ends State.Inv (fun _ => True) (s.lighterRead k t a) := by
  have hf {x} : Ends State.Inv (fun _ => True) (s.pilotFetch t (s.ctx k).asid x 128 (State.lighterHold k)
      (fun code y u => u.lighterFault k code t y)) :=
    pilotFetch_inv h (fun _ _ ht => lighterHold_inv ht) fun _ _ _ ht => lighterFault_inv ht
  exact ends_bind hf fun _ _ => ends_bind hf fun _ _ => ends_pure trivial

theorem lighterWait_inv {k t a crew idx} (h : s.Inv) : Ends State.Inv (fun _ =>
  True) (s.lighterWait k t a crew idx) := by
  refine ends_bind (ends_forIn (fun _ _ => ?_) _ _) fun _ _ => ?_
  · split
    · exact ends_error (TErr_pilot_inv h (fun _ _ ht => lighterHold_inv ht) fun _ _ _ ht => lighterFault_inv ht)
    · exact ends_pure trivial
  · split
    · next e => exact ends_error (pilotWaits_inv h e)
    · exact ends_ok trivial

theorem writeLighter_inv {m pos} (h : s.Inv) : (s.writeLighter m pos).Inv :=
  pilotWrite_getD_inv (s := (State.freeBytes 16 (State.freeBytes 2 s).2).2) (freeBytes_inv (freeBytes_inv h))

theorem childRoom_inv {k t p} (h : s.Inv) : Ends Stop.Inv (fun _ => True) (s.childRoom k t p) := by
  unfold State.childRoom
  dsimp only
  split
  · exact ends_ok trivial
  · split
    · split
      · exact ends_ite (ends_error trivial) (ends_error (h.congr rfl rfl))
      · exact ends_error ((h.congr rfl rfl).congr rfl rfl)
    · exact ends_error trivial

theorem admitChild_inv {m} (h : s.Inv) : (s.admitChild m).Inv :=
  inv_ite (h.congr rfl rfl) (writeLighter_inv (h.congr rfl rfl))

theorem lighterReady_inv {k t} (h : s.Inv) : Ends Stop.Inv (fun _ => True) (s.lighterReady k t) := by
  unfold State.lighterReady
  refine ends_ite (ends_pure trivial) (ends_bind (ends_forIn (fun _ _ => ?_) _ _) fun _ _ => ?_)
  · split
    · exact ends_error untranslated_inv
    · exact ends_pure trivial
  · split
    · next e => exact ends_error (show State.Inv _ from (pilotWaits_inv h e).congr rfl rfl)
    · exact ends_ok trivial

theorem roomFound_inv (h : s.Inv) : (s.roomFound).Inv := h.congr rfl rfl

theorem spawnCommon_inv {f waits} (h : s.Inv) : Ends Stop.Inv State.Inv (s.spawnCommon f waits) := by
  refine ends_bind need_inv fun _ _ => ends_bind need_inv fun _ _ => ends_bind (srcG_inv h) fun p _ =>
    ends_bind need_inv fun _ _ => ends_bind need_inv fun _ _ => ends_bind (destFree_inv h) fun _ _ =>
    ends_bind (strongRead_inv h) fun _ _ => ?_
  have hu : (s.lookedAt p 128).Inv := lookedAt_inv h
  dsimp only
  split
  · exact ends_error trivial
  · refine ends_bind (childRoom_inv hu) fun _ _ => ends_bind (lighterReady_inv hu) fun _ _ => ?_
    have ht (a b : Nat) (e : Event) : State.Inv (((s.lookedAt p 128).roomFound.holdOff a b).newMid.2.meets e) :=
      meets_inv (newMid_inv (holdOff_inv (roomFound_inv hu)))
    exact ends_ite (ends_pure (advance_inv (admitChild_inv (produce_inv (ht ..) ..)) _))
      (ends_pure (mapSelf_inv (admitChild_inv (ht ..)) ..))

theorem setCore_inv {k f} (h : s.Inv) : (s.setCore k f).Inv := h.congr rfl rfl
theorem ownCore_inv {asid k} (h : s.Inv) : (s.ownCore asid k).Inv :=
  inv_ite h ((wipe_inv (wipe_inv h ..) ..).congr rfl rfl)
theorem addStrands_inv {l} (h : s.Inv) : (s.addStrands l).Inv := h.congr rfl rfl
theorem freshSlots_inv {slots} (h : s.Inv) : (s.freshSlots slots).Inv := h.congr rfl rfl

theorem placeIteration_inv {m slots} (h : s.Inv) : (s.placeIteration m slots).Inv :=
  inv_foldl (fun _ _ ht => ht.congr rfl rfl) (addStrands_inv (freshSlots_inv (inv_ite (inv_foldl (fun _ _ ht =>
    ownCore_inv ht) (h.congr rfl rfl)) (h.congr rfl rfl))))

theorem placeBoot_inv {entry data} (h : s.Inv) : (s.placeBoot entry data).Inv := by
  unfold State.placeBoot
  extract_lets id c _ st t u
  have ht : t.Inv := h.congr rfl rfl
  have hu : u.Inv := setCtx_inv (ownCore_inv ht)
  exact inv_ite (hu.congr rfl rfl) (hu.congr rfl rfl)

theorem removeCrew_inv {id} (h : s.Inv) : (s.removeCrew id).Inv := h.congr rfl rfl
theorem endIteration_inv {id} (h : s.Inv) : (s.endIteration id).Inv :=
  inv_ite (h.congr rfl rfl) (settleFrom_inv (h.congr rfl rfl))
theorem barrierCheck_inv {id} (h : s.Inv) : (s.barrierCheck id).Inv := inv_ite (h.congr rfl rfl) h

theorem crewBarrier_inv (h : s.Inv) : Ends Stop.Inv State.Inv (s.crewBarrier) := by
  unfold State.crewBarrier
  dsimp only
  split
  · exact ends_bind (await_inv h) fun _ _ => ends_pure (h.congr rfl rfl)
  · refine ends_bind (await_inv h) fun _ _ => ?_
    generalize hu : State.barrierCheck _ _ = u
    have hi : u.Inv := hu ▸ barrierCheck_inv (h.congr rfl rfl)
    exact ends_ite (ends_pure (hi.congr rfl rfl)) (ends_error (hi.congr rfl rfl))

theorem cbar_inv {f} (h : s.Inv) : Ends Stop.Inv State.Inv (s.cbar f) :=
  ends_ite (crewBarrier_inv h) (ends_bind (srcG_inv h) fun _ _ => ends_bind ref_inv fun _ _ =>
    ends_bind notPoisoned_inv fun _ _ => ends_pure (h.congr rfl rfl))

theorem cbarq_inv {f} (h : s.Inv) : Ends Stop.Inv State.Inv (s.cbarq f) :=
  ends_bind need_inv fun _ _ => ends_bind (srcG_inv h) fun _ _ => ends_bind (srcG_inv h) fun _ _ =>
    ends_bind ref_inv fun _ _ => ends_bind notPoisoned_inv fun _ _ => ends_bind (touch_inv h) fun _ ht =>
    ends_ite (result_inv (ht.congr rfl rfl)) (ends_wait (h.congr rfl rfl))

theorem wseq_inv {f} (h : s.Inv) : Ends Stop.Inv State.Inv (s.wseq f) := by
  unfold State.wseq
  refine ends_bind (srcG_inv h) fun _ _ => ends_bind (srcG_inv h) fun _ _ => ?_
  split
  · exact ends_error trivial
  · exact ends_bind need_inv fun _ _ => ends_bind (await_inv h) fun _ _ => result_inv (h.congr rfl rfl)

theorem yieldPoint_inv {len} (h : s.Inv) : (s.yieldPoint len).Inv := h.congr rfl rfl

theorem retire_inv (h : s.Inv) : Ends Stop.Inv State.Inv (s.retire) :=
  ends_bind (await_inv h) fun _ _ => ends_bind (await_inv h) fun _ _ =>
    ends_ite (ends_pure (endIteration_inv (barrierCheck_inv (h.congr rfl rfl))))
    (ends_pure (barrierCheck_inv (h.congr rfl rfl)))

theorem abort_inv {user} (h : s.Inv) : Ends Stop.Inv State.Inv (s.abort user) :=
  ends_bind (holdFor_inv h) fun _ _ => ends_error trivial
theorem askStop_inv {id} (h : s.Inv) : (s.askStop id).Inv := inv_ite h (h.congr rfl rfl)
theorem withdraw_inv {crew idx} (h : s.Inv) : (s.withdraw crew idx).Inv := h.congr rfl rfl

theorem frameWaits_inv {c midStop} (h : s.Inv) : ∀ u, s.frameWaits c midStop = some u → u.Inv := by
  intro u e
  obtain ⟨_, _, e⟩ := Option.bind_eq_some_iff.mp e
  exact pilotWaits_inv h e

theorem saveCrew_inv {id midStop} (h : s.Inv) : ∀ u, s.saveCrew id midStop = some u → u.Inv := by
  intro u e
  unfold State.saveCrew at e
  dsimp only at e
  split at e
  · cases e
  · split at e
    · cases e
    · next t e' =>
      cases e
      have ht := pilotWrite_inv h t e'
      refine State.Inv.congr (inv_foldl (fun _ _ hu => inv_ite (setCore_inv hu) hu) ht) rfl rfl

theorem awaitFrame_inv {id a} (h : s.Inv) : (State.awaitFrame id a s).Inv := h.congr rfl rfl
theorem frameFault_inv {c t code a} (h : s.Inv) : (State.frameFault c t code a s).Inv := recordFault_inv h

theorem frameReady_inv {id} (h : s.Inv) : Ends State.Inv (fun _ => True) (s.frameReady id) := by
  refine ends_ite (ends_pure trivial) (ends_ite (ends_error h) (ends_bind (ends_forIn (fun _ _ => ?_) _ _) fun _ _ => ?_))
  · split
    · exact ends_error (TErr_pilot_inv h (fun _ _ ht => awaitFrame_inv ht) fun _ _ _ ht => frameFault_inv ht)
    · exact ends_pure trivial
  · split
    · next e => exact ends_error (pilotWaits_inv h e)
    · exact ends_ok trivial

theorem refreshFrame_inv {id old} (h : s.Inv) : (s.refreshFrame id old).Inv :=
  inv_ite (holdOff_inv (inv_foldl (fun _ _ ht => inv_ite ht (pilotWrite_getD_inv ht)) h)) h

theorem frameRead_inv {c t} (h : s.Inv) : Ends State.Inv (fun _ => True) (s.frameRead c t) :=
  ends_bind (ends_mapM (fun _ => pilotFetch_inv h (fun _ _ ht => awaitFrame_inv ht) fun _ _ _ ht =>
    frameFault_inv ht) _)
    fun _ _ => ends_pure trivial

theorem resumeCrew_inv {c takes slots fr} (h : s.Inv) : (s.resumeCrew c takes slots fr).Inv :=
  State.Inv.congr (inv_foldl (fun _ _ hu => setCore_inv hu) h) rfl rfl
theorem refuse_inv {k code mid tag addr} (h : s.Inv) : (s.refuse k code mid tag addr).Inv := h.congr rfl rfl
theorem interrupt_inv {n} (h : s.Inv) : (s.interrupt n).Inv := h.congr rfl rfl

end
end Sys2Proof.Machine

/-! PROOF. The form of memory (O55): the sequencer, vector, rotator and matrix units. -/
namespace Sys2Proof.Machine
section
variable {s : State}
theorem binary_inv {len f op} (h : s.Inv) : Ends Stop.Inv State.Inv (s.binary len f op) :=
  ends_bind (srcG_inv h) fun _ _ => ends_bind (srcG_inv h) fun _ _ => result_inv h
theorem immediate_inv {len a d op} (h : s.Inv) : Ends Stop.Inv State.Inv (s.immediate len a d op) :=
  ends_bind (srcG_inv h) fun _ _ => result_inv h
theorem select_inv {f} (h : s.Inv) : Ends Stop.Inv State.Inv (s.select f) :=
  ends_bind (srcG_inv h) fun _ _ => ends_bind (srcG_inv h) fun _ _ => ends_bind (srcG_inv h) fun _ _ => result_inv h
theorem scalarFma_inv {f} (h : s.Inv) : Ends Stop.Inv State.Inv (s.scalarFma f) :=
  ends_bind (srcG_inv h) fun _ _ => ends_bind (srcG_inv h) fun _ _ => ends_bind (srcG_inv h) fun _ _ => result_inv h
theorem fcvt_inv {f} (h : s.Inv) : Ends Stop.Inv State.Inv (s.fcvt f) :=
  ends_bind (srcG_inv h) fun _ _ => result_inv h
theorem branchIf_inv {len taken t} (h : s.Inv) : (s.branchIf len taken t).Inv :=
  inv_ite (h.congr rfl rfl) (h.congr rfl rfl)

theorem br_inv {len a cond t} (h : s.Inv) : Ends Stop.Inv State.Inv (s.br len a cond t) :=
  ends_ite (ends_ok (branchIf_inv h)) (ends_ite (ends_ok (branchIf_inv h)) (ends_bind (srcG_inv h) fun _ _ =>
    ends_pure (branchIf_inv h)))

theorem brb_inv {len a gtz t} (h : s.Inv) : Ends Stop.Inv State.Inv (s.brb len a gtz t) :=
  ends_bind (srcG_inv h) fun _ _ => ends_pure (branchIf_inv (h.congr rfl rfl))
theorem jal_inv {t} (h : s.Inv) : Ends Stop.Inv State.Inv (s.jal t) :=
  ends_bind (destFree_inv h) fun _ _ => ends_pure (h.congr rfl rfl)

theorem jr_inv {len d a trap} (h : s.Inv) : Ends Stop.Inv State.Inv (s.jr len d a trap) :=
  ends_bind (srcG_inv h) fun _ _ => ends_bind need_inv fun _ _ => ends_bind (destFree_inv h) fun _ _ =>
    ends_pure (h.congr rfl rfl)

theorem pushLoop_inv {c f} (h : s.Inv) : Ends Stop.Inv State.Inv (s.pushLoop c f) :=
  ends_ite (ends_ite (ends_pure (h.congr rfl rfl)) (ends_error trivial)) (ends_bind need_inv fun _ _ =>
    ends_bind need_inv fun _ _ => ends_pure (h.congr rfl rfl))

theorem loop_inv {f} (h : s.Inv) : Ends Stop.Inv State.Inv (s.loop f) :=
  ends_bind (srcG_inv h) fun _ _ => pushLoop_inv h
theorem loopi_inv {f} (h : s.Inv) : Ends Stop.Inv State.Inv (s.loopi f) :=
  ends_bind need_inv fun _ _ => pushLoop_inv h

theorem lexit_inv {n} (h : s.Inv) : Ends Stop.Inv State.Inv (s.lexit n) := by
  unfold State.lexit
  dsimp only
  refine ends_bind need_inv fun _ _ => ?_
  split
  · exact ends_pure (h.congr rfl rfl)
  · exact ends_error trivial

theorem lidx_inv {len d level} (h : s.Inv) : Ends Stop.Inv State.Inv (s.lidx len d level) := by
  unfold State.lidx
  split
  · exact result_inv h
  · exact ends_error trivial

theorem fe_inv {f} (h : s.Inv) : Ends Stop.Inv State.Inv (s.fe f) :=
  ends_ite (result_inv h) (ends_bind (destFree_inv h) fun _ _ => ends_pure (h.congr rfl rfl))
theorem controlAllowed_inv {sel} : Ends Stop.Inv (fun _ => True) (s.controlAllowed sel) := need_inv
theorem getc_inv {f} (h : s.Inv) : Ends Stop.Inv State.Inv (s.getc f) :=
  ends_bind controlAllowed_inv fun _ _ => result_inv h

theorem setc_inv {f} (h : s.Inv) : Ends Stop.Inv State.Inv (s.setc f) :=
  ends_bind controlAllowed_inv fun _ _ => ends_bind (srcG_inv h) fun _ _ => ends_bind need_inv fun _ _ =>
    ends_pure (h.congr rfl rfl)

theorem enter_inv {kind code taddr handler} (h : s.Inv) : (s.enter kind code taddr handler).Inv :=
  (trapEntry_inv h).congr rfl rfl
theorem sys_inv {service} (h : s.Inv) : Ends Stop.Inv State.Inv (s.sys service) :=
  ends_bind need_inv fun _ _ => ends_pure ((trapEntry_inv h).congr rfl rfl)
theorem tret_inv (h : s.Inv) : Ends Stop.Inv State.Inv (s.tret) :=
  ends_bind need_inv fun _ _ => ends_bind need_inv fun _ _ => ends_pure (h.congr rfl rfl)
theorem vround_inv {px} (h : s.Inv) : Ends Stop.Inv (fun _ => True) (s.vround px) :=
  ends_ite trivial (ends_bind (srcG_inv h) fun _ _ => ends_pure trivial)
theorem vresult_inv {len d bs} (h : s.Inv) : Ends Stop.Inv State.Inv (s.vresult len d bs) :=
  ends_bind (destFree_inv h) fun _ _ => ends_pure (h.congr rfl rfl)
theorem vresultG_inv {len d v} (h : s.Inv) : Ends Stop.Inv State.Inv (s.vresultG len d v) :=
  ends_bind (destFree_inv h) fun _ _ => ends_ite (ends_pure (h.congr rfl rfl)) (ends_pure (h.congr rfl rfl))
theorem velem2_inv {len px f w op} (h : s.Inv) : Ends Stop.Inv State.Inv (s.velem2 len px f w op) :=
  ends_bind (srcV_inv h) fun _ _ => ends_bind (srcV_inv h) fun _ _ => ends_bind (vround_inv h) fun _ _ => vresult_inv h
theorem velem1_inv {len px f w op} (h : s.Inv) : Ends Stop.Inv State.Inv (s.velem1 len px f w op) :=
  ends_bind (srcV_inv h) fun _ _ => ends_bind (vround_inv h) fun _ _ => vresult_inv h
theorem vadd_inv {len px f} (h : s.Inv) : Ends Stop.Inv State.Inv (s.vadd len px f) := velem2_inv h
theorem vsub_inv {len px f} (h : s.Inv) : Ends Stop.Inv State.Inv (s.vsub len px f) := velem2_inv h
theorem vmul_inv {len px f} (h : s.Inv) : Ends Stop.Inv State.Inv (s.vmul len px f) := velem2_inv h
theorem vmulh_inv {len px f signed} (h : s.Inv) : Ends Stop.Inv State.Inv (s.vmulh len px f signed) := by
  unfold State.vmulh; exact velem2_inv h

theorem vfma_inv {len px f} (h : s.Inv) : Ends Stop.Inv State.Inv (s.vfma len px f) := by
  unfold State.vfma
  exact ends_bind (srcV_inv h) fun _ _ => ends_bind (srcV_inv h) fun _ _ => ends_bind (srcV_inv h) fun _ _ =>
    ends_bind (vround_inv h) fun _ _ => vresult_inv h

theorem vdiv_inv {len px f} (h : s.Inv) : Ends Stop.Inv State.Inv (s.vdiv len px f) := by
  unfold State.vdiv; exact velem2_inv h
theorem vdivN_inv {len px f} (h : s.Inv) : Ends Stop.Inv State.Inv (s.vdivN len px f) := by
  unfold State.vdivN; exact velem2_inv h
theorem vminmax_inv {len px f unsigned max} (h : s.Inv) : Ends Stop.Inv State.Inv (s.vminmax len px f unsigned max) :=
  velem2_inv h
theorem vlogic_inv {len px f op} (h : s.Inv) : Ends Stop.Inv State.Inv (s.vlogic len px f op) := velem2_inv h
theorem vshift_inv {len px f kind} (h : s.Inv) : Ends Stop.Inv State.Inv (s.vshift len px f kind) := by
  unfold State.vshift; exact velem2_inv h
theorem vsign_inv {len px f neg} (h : s.Inv) : Ends Stop.Inv State.Inv (s.vsign len px f neg) := velem1_inv h
theorem vcmp_inv {len px f} (h : s.Inv) : Ends Stop.Inv State.Inv (s.vcmp len px f) :=
  ends_bind (srcV_inv h) fun _ _ => ends_bind (srcV_inv h) fun _ _ => ends_pure (h.congr rfl rfl)
theorem mset_inv {f} (h : s.Inv) : Ends Stop.Inv State.Inv (s.mset f) :=
  ends_bind (srcG_inv h) fun _ _ => ends_bind (srcG_inv h) fun _ _ => ends_pure (h.congr rfl rfl)
theorem mpop_inv {f} (h : s.Inv) : Ends Stop.Inv State.Inv (s.mpop f) := vresultG_inv h
theorem vidx_inv {f} (h : s.Inv) : Ends Stop.Inv State.Inv (s.vidx f) := vresult_inv h
theorem vsel_inv {len px f} (h : s.Inv) : Ends Stop.Inv State.Inv (s.vsel len px f) :=
  ends_bind (srcV_inv h) fun _ _ => ends_bind (srcV_inv h) fun _ _ => vresult_inv h
theorem vmov_inv {len px f} (h : s.Inv) : Ends Stop.Inv State.Inv (s.vmov len px f) :=
  ends_bind (srcG_inv h) fun _ _ => vresult_inv h
theorem vfunc_inv {len px f fn} (h : s.Inv) : Ends Stop.Inv State.Inv (s.vfunc len px f fn) := velem1_inv h
theorem vperm_inv {len px f} (h : s.Inv) : Ends Stop.Inv State.Inv (s.vperm len px f) :=
  ends_bind (srcV_inv h) fun _ _ => ends_bind (srcV_inv h) fun _ _ => vresult_inv h
theorem vslide_inv {len px f} (h : s.Inv) : Ends Stop.Inv State.Inv (s.vslide len px f) :=
  ends_bind (srcV_inv h) fun _ _ => ends_bind (srcG_inv h) fun _ _ => vresult_inv h
theorem vcompress_inv {len px f} (h : s.Inv) : Ends Stop.Inv State.Inv (s.vcompress len px f) :=
  ends_bind (srcV_inv h) fun _ _ => vresult_inv h
theorem vexpand_inv {len px f} (h : s.Inv) : Ends Stop.Inv State.Inv (s.vexpand len px f) :=
  ends_bind (srcV_inv h) fun _ _ => vresult_inv h
theorem vredsum_inv {len px f ordered} (h : s.Inv) : Ends Stop.Inv State.Inv (s.vredsum len px f ordered) :=
  ends_bind (srcV_inv h) fun _ _ => ends_bind (vround_inv h) fun _ _ => vresult_inv h
theorem vredmm_inv {len px f} (h : s.Inv) : Ends Stop.Inv State.Inv (s.vredmm len px f) :=
  ends_bind (srcV_inv h) fun _ _ => vresult_inv h
theorem vscan_inv {len px f} (h : s.Inv) : Ends Stop.Inv State.Inv (s.vscan len px f) :=
  ends_bind (srcV_inv h) fun _ _ => ends_bind (vround_inv h) fun _ _ => vresult_inv h

theorem vsortkv_inv {len px f} (h : s.Inv) : Ends Stop.Inv State.Inv (s.vsortkv len px f) :=
  ends_bind (srcV_inv h) fun _ _ => ends_bind (srcV_inv h) fun _ _ => ends_bind (destFree_inv h) fun _ _ =>
    ends_bind (destFree_inv h) fun _ _ => ends_pure (h.congr rfl rfl)

theorem vsegred_inv {len px f} (h : s.Inv) : Ends Stop.Inv State.Inv (s.vsegred len px f) :=
  ends_bind (srcV_inv h) fun _ _ => ends_bind (srcV_inv h) fun _ _ => ends_bind (vround_inv h) fun _ _ => vresult_inv h

theorem checkElems_inv {acc w l} : Ends Stop.Inv (fun _ => True) (s.checkElems acc w l) := by
  induction l with
  | nil => exact ends_ok trivial
  | cons x l ih =>
    refine ends_bind need_inv fun _ _ => ?_
    extract_lets rest
    have hr t : Ends Stop.Inv (fun _ => True) (rest t) := ends_bind ih fun _ _ => ends_pure trivial
    split
    · exact hr _
    · exact ends_bind xlate_inv fun _ _ => hr _

theorem useReport_inv {t} (h : s.Inv) : (s.useReport t).Inv := by
  unfold State.useReport
  split
  · exact h
  · dsimp only
    split
    · exact wakeAt_inv h
    · split
      · next e => exact (moduleWrite_inv h).error e
      · next e =>
        have hu := (moduleWrite_inv h).ok e
        exact inv_ite (setTower_inv hu) (setTower_inv (writeAt_inv hu ..))
    · exact setTower_inv h

theorem reportUse_inv {asid reused page} (h : s.Inv) : (s.reportUse asid reused page).Inv := by
  unfold State.reportUse
  refine inv_foldl (fun t _ ht => ?_) ?_
  · split
    · exact ht
    · exact inv_ite ht (ht.congr rfl rfl)
  · exact h

theorem issueElems_inv {opc ordered op ret w kind l} (h : s.Inv) : (s.issueElems opc ordered op ret w kind l).Inv :=
  inv_foldl (fun _ _ ht => ht.congr rfl rfl) ((inv_foldl (fun _ _ ht => reportUse_inv ht) h).congr rfl rfl)

theorem vload_inv {opc f addr} (h : s.Inv) : Ends Stop.Inv State.Inv (s.vload opc f addr) := by
  have hp {d x b} : (s.produce d x b).1.Inv := h.congr rfl rfl
  exact ends_bind (destFree_inv h) fun _ _ => ends_bind (emptyOnFault_inv h checkElems_inv) fun _ _ =>
    ends_pure (advance_inv (issueElems_inv hp) _)

theorem vstore_inv {opc f addr} (h : s.Inv) : Ends Stop.Inv State.Inv (s.vstore opc f addr) :=
  ends_bind (srcV_inv h) fun _ _ => ends_bind checkElems_inv fun _ _ => ends_pure ((issueElems_inv h).congr rfl rfl)
theorem unitAddr_inv {f} (h : s.Inv) : Ends Stop.Inv (fun _ => True) (s.unitAddr f) :=
  ends_bind (srcG_inv h) fun _ _ => ends_pure trivial
theorem strideAddr_inv {f} (h : s.Inv) : Ends Stop.Inv (fun _ => True) (s.strideAddr f) :=
  ends_bind (srcG_inv h) fun _ _ => ends_bind (srcG_inv h) fun _ _ => ends_pure trivial
theorem indexAddr_inv {f w} (h : s.Inv) : Ends Stop.Inv (fun _ => True) (s.indexAddr f w) :=
  ends_bind (srcG_inv h) fun _ _ => ends_bind (srcV_inv h) fun _ _ => ends_pure trivial
theorem collect_inv {kind r d} (h : s.Inv) : Ends Stop.Inv State.Inv (s.collect kind r d) :=
  ends_ite (ends_ok (h.congr rfl rfl)) (ends_error ((h.congr rfl rfl).congr rfl rfl))

theorem vlong_inv {f} (h : s.Inv) : Ends Stop.Inv State.Inv (s.vlong f) :=
  ends_bind need_inv fun _ _ => ends_bind (srcG_inv h) fun _ _ => ends_bind need_inv fun _ _ =>
    ends_bind (collect_inv h) fun _ ht =>
    ends_ite (ends_error (ht.congr rfl rfl)) (ends_error ((ht.congr rfl rfl).congr rfl rfl))

theorem vshort_inv (h : s.Inv) : Ends Stop.Inv State.Inv (s.vshort) :=
  ends_ite (ends_ok (h.congr rfl rfl)) (ends_bind (collect_inv h) fun _ ht =>
    ends_ite (ends_error (ht.congr rfl rfl)) (ends_pure (ht.congr rfl rfl)))

theorem setvl_inv {f} (h : s.Inv) : Ends Stop.Inv State.Inv (s.setvl f) :=
  ends_bind need_inv fun _ _ => ends_bind (srcG_inv h) fun _ _ => ends_bind (destFree_inv h) fun _ _ =>
    ends_bind (collect_inv h) fun _ ht => ends_pure (ht.congr rfl rfl)

theorem vxch_inv {f} (h : s.Inv) : Ends Stop.Inv State.Inv (s.vxch f) :=
  ends_bind need_inv fun _ _ => ends_bind (srcG_inv h) fun _ _ => ends_bind peerOk_inv fun _ _ =>
    ends_bind (destFree_inv h) fun _ _ => ends_bind (srcV_inv h) fun _ _ => rendezvous_inv h

theorem rround_inv {px} (h : s.Inv) : Ends Stop.Inv (fun _ => True) (s.rround px) :=
  ends_bind (vround_inv h) fun _ _ => ends_pure trivial

theorem convert_inv {len px f sw dw u g} (h : s.Inv) : Ends Stop.Inv State.Inv (s.convert len px f sw dw u g) := by
  have ht {d x y} : (State.advance (if u.writes = 0 then (s.produce d x).1 else ((s.produce d x).1.produce (.v 63) y).1) len).Inv :=
    advance_inv (inv_ite (produce_inv h ..) (produce_inv (produce_inv h ..) ..)) _
  unfold State.convert
  refine ends_bind need_inv fun _ _ => ends_bind (srcV_inv h) fun _ _ => ?_
  extract_lets _ _ _ _ rest
  have hr v : Ends Stop.Inv State.Inv (rest v) := by
    refine ends_bind (rround_inv h) fun _ _ => ?_
    dsimp only
    split
    · trivial
    · exact ends_ok_bind (ends_bind (destFree_inv h) fun _ _ =>
        ends_ite (ends_ok_bind (ends_pure ht)) (ends_bind (destFree_inv h) fun _ _ => ends_pure ht))
  exact ends_ite (ends_bind (srcV_inv h) fun _ _ => hr _) (hr _)

theorem convertEach_inv {len px f sw dw n op} (h : s.Inv) : Ends Stop.Inv State.Inv (s.convertEach len px f sw dw n op) :=
  ends_bind (srcV_inv h) fun _ _ => ends_bind (rround_inv h) fun _ _ => vresult_inv h
theorem seedSet_inv {f} (h : s.Inv) : Ends Stop.Inv State.Inv (s.seedSet f) :=
  ends_bind (srcG_inv h) fun _ _ => ends_pure (h.congr rfl rfl)
theorem srseed_inv {f} (h : s.Inv) : Ends Stop.Inv State.Inv (s.srseed f) :=
  ends_bind (srcG_inv h) fun _ _ => ends_pure (h.congr rfl rfl)
theorem rtag_inv {f} (h : s.Inv) : Ends Stop.Inv State.Inv (s.rtag f) :=
  ends_bind (srcG_inv h) fun _ _ => ends_bind (srcG_inv h) fun _ _ => ends_bind need_inv fun _ _ => result_inv h
theorem cvtn_inv {len px f} (h : s.Inv) : Ends Stop.Inv State.Inv (s.cvtn len px f) :=
  ends_ite (convertEach_inv h) (ends_ite (convert_inv h) (convert_inv h))
theorem cvtnF_inv {len px f} (h : s.Inv) : Ends Stop.Inv State.Inv (s.cvtnF len px f) := convert_inv h
theorem cvtw_inv {len px f} (h : s.Inv) : Ends Stop.Inv State.Inv (s.cvtw len px f) :=
  ends_ite (convertEach_inv h) (ends_ite (convert_inv h) (convert_inv h))
theorem cvtwF_inv {len px f} (h : s.Inv) : Ends Stop.Inv State.Inv (s.cvtwF len px f) := convert_inv h
theorem qscale_inv {len px f} (h : s.Inv) : Ends Stop.Inv State.Inv (s.qscale len px f) :=
  ends_bind need_inv fun _ _ => ends_bind (srcV_inv h) fun _ _ => ends_bind (vround_inv h) fun _ _ => vresult_inv h
theorem rotv_inv {len px f inverse} (h : s.Inv) : Ends Stop.Inv State.Inv (s.rotv len px f inverse) := by
  unfold State.rotv; exact convert_inv h

theorem cvti_inv {len px f} (h : s.Inv) : Ends Stop.Inv State.Inv (s.cvti len px f) := by
  unfold State.cvti
  split
  · exact convertEach_inv h
  · exact convert_inv h
  · exact convert_inv h
  · exact convertEach_inv h
  · exact convert_inv h
  · exact ends_bind need_inv fun _ _ => convertEach_inv h

theorem setAcc_inv {w n f} (h : s.Inv) : (s.setAcc w n f).Inv := h.congr rfl rfl
theorem tileSpots_inv {w acc t} (h : s.Inv) : Ends CmdStop.Inv (fun _ => True) (s.tileSpots w acc t) :=
  ends_mapM (fun _ => spot_inv h) _
theorem tileCodes_inv {c t xs} (h : s.Inv) : Ends CmdStop.Inv (fun _ => True) (s.tileCodes c t xs) :=
  ends_bind (ends_mapM (fun _ => sourceRead_inv h) _) fun _ _ => ends_pure trivial

theorem takeUnit_inv {c} (h : s.Inv) : Ends State.Inv State.Inv (s.takeUnit c) := by
  unfold State.takeUnit
  dsimp only
  split
  · exact ends_ite (ends_ok h) (ends_error (askStop_inv h))
  · exact ends_ok (h.congr rfl rfl)

theorem stageCmd_inv {q c n} (h : s.Inv) : (s.stageCmd q c n).Inv := setQueue_inv h

theorem matrixTurn_inv {want} {body} (h : s.Inv) (hb : ∀ t q c, t.Inv → Ends CmdStop.Inv State.Inv (body t q c)) :
    (s.matrixTurn want body).Inv := by
  refine commandTurn_inv h fun q c => ?_
  split
  · next e => exact (takeUnit_inv h).error e
  · next t e =>
    have hu : (t.stageCmd q c 1).Inv := stageCmd_inv ((takeUnit_inv h).ok e)
    exact finishCommand_inv hu (hb _ _ _ hu)

theorem productChecks_inv {a b coop scaled} : Ends CmdStop.Inv (fun _ => True) (productChecks a b coop scaled) :=
  ends_bind needCmd_inv fun _ _ => ends_bind needCmd_inv fun _ _ => ends_bind needCmd_inv fun _ _ =>
    ends_bind needCmd_inv fun _ _ => ends_bind needCmd_inv fun _ _ => ends_bind needCmd_inv fun _ _ =>
    ends_bind needCmd_inv fun _ _ => ends_bind needCmd_inv fun _ _ => needCmd_inv

theorem product_inv {q c f coop scaled} (h : s.Inv) :
    Ends CmdStop.Inv (fun x => x.1.Inv ∧ x.2.1.Inv) (s.product q c f coop scaled) := by
  unfold State.product
  refine ends_bind (descAhead_inv h) fun _ _ => ends_bind (readDesc_inv h) fun _ h =>
    ends_bind (readDesc_inv h) fun x h => ends_bind productChecks_inv fun _ _ => ?_
  have ht {l} : (x.2.passT q c l).Inv := passT_inv h
  dsimp only
  generalize scaleFault _ _ _ = r
  cases r with
  | some r => trivial
  | none =>
    refine ends_ok_bind (ends_bind (tileSpots_inv h) fun _ _ => ends_bind (passing_inv h (tileSpots_inv h)) fun _ _ =>
      ends_bind (sample_inv ht) fun _ _ => ends_bind (tileCodes_inv ht) fun _ _ => ends_bind (tileCodes_inv ht) fun _ _ =>
      ends_pure ?_)
    refine ⟨ht, ?_⟩
    dsimp only
    exact setAcc_inv (sourced_inv (sourced_inv (pin_inv (unpin_inv ht))))

theorem startProduct_inv {q c t steps} (h : s.Inv) (ht : t.Inv) : (s.startProduct q c t steps).Inv :=
  inv_ite (stageCmd_inv (setCore_inv ht)) (setCore_inv h)

theorem productTurn_inv {q c} (h : s.Inv) : (s.productTurn q c).Inv := by
  unfold State.productTurn
  refine inv_ite (inv_ite (finishCommand_inv h h) h) (inv_ite h ?_)
  split
  · exact complete_inv h
  · split
    · next e => exact (takeUnit_inv h).error e
    · next t _ _ _ e _ =>
      have hu : (t.stageCmd q c 1).Inv := stageCmd_inv ((takeUnit_inv h).ok e)
      dsimp only
      split
      · next e =>
        obtain ⟨hv, hw⟩ := (product_inv hu).ok e
        exact startProduct_inv hv hw
      · next e => exact finishCommand_inv hu (ends_error ((product_inv hu).error e))
    · next e _ => exact (takeUnit_inv h).ok e

theorem accTile_inv {q c dest fits} (h : s.Inv) : Ends CmdStop.Inv (fun x => x.2.Inv) (s.accTile q c dest fits) :=
  ends_bind (descAhead_inv h) fun _ _ => ends_bind (readDesc_inv h) fun _ ht => ends_bind needCmd_inv fun _ _ =>
    ends_bind needCmd_inv fun _ _ => ends_bind needCmd_inv fun _ _ => ends_pure ht

theorem mldCommand_inv {q c f} (h : s.Inv) : Ends CmdStop.Inv State.Inv (s.mldCommand q c f) :=
  ends_bind (accTile_inv h) fun _ ht => ends_bind (tileSpots_inv ht) fun _ _ =>
    ends_bind (sample_inv (passT_inv ht)) fun _ _ => ends_bind (tileCodes_inv (passT_inv ht)) fun _ _ =>
    ends_pure ((pin_inv (passT_inv ht)).congr rfl rfl)

theorem mstCommand_inv {q c f} (h : s.Inv) : Ends CmdStop.Inv State.Inv (s.mstCommand q c f) := by
  refine ends_bind (accTile_inv h) fun _ h => ends_bind (operands_inv (ends_map (tileSpots_inv h))) fun _ _ =>
    ends_bind (claim_inv (passT_inv h)) fun _ h => moveOn_inv h fun x hx => ?_
  obtain ⟨_, _, rfl⟩ := List.mem_map.mp hx
  trivial

theorem mtrCommand_inv {q c} (h : s.Inv) : Ends CmdStop.Inv State.Inv (s.mtrCommand q c) := by
  have hd {r} (hr : Ends CmdStop.Inv (fun x : List Byte × State => x.2.Inv) r) : Ends CmdStop.Inv (fun x => x.2.Inv)
      (match (motive := _ → Except CmdStop (List Byte × State)) r with
        | .error (.fault code _) => .error (.fault code (c.args.getD 0 0 + 32))
        | x => x) := by
    split
    · exact ends_error trivial
    · exact hr
  exact ends_bind (descAhead_inv h) fun _ _ => ends_bind (hd (readDesc_inv h)) fun _ h =>
    ends_bind (hd (readDesc_inv h)) fun _ h => ends_bind needCmd_inv fun _ _ => ends_bind needCmd_inv fun _ _ =>
    ends_bind needCmd_inv fun _ _ => ends_bind needCmd_inv fun _ _ =>
    ends_bind (operands_inv (ends_bind (tileSpots_inv h) fun _ _ => ends_bind (passing_inv h (tileSpots_inv h)) fun _ _ =>
    ends_pure trivial)) fun _ _ => ends_bind (claim_inv (passT_inv h)) fun _ h => ends_bind (sample_inv h) fun _ _ =>
    ends_bind (ends_mapM (fun _ => sourceRead_inv h) _) fun _ _ => ends_pure (engineWrites_inv (sourced_inv (pin_inv h)))

theorem fillNow_inv {id bs} (h : s.Inv) : (s.fillNow id bs).Inv := by
  unfold State.fillNow
  dsimp only
  split
  · split
    · exact (deliver_inv h).congr rfl rfl
    · exact deliver_inv h
  · exact deliver_inv h

theorem mcvtCommand_inv {c f} (h : s.Inv) : Ends CmdStop.Inv State.Inv (s.mcvtCommand c f) := by
  unfold State.mcvtCommand
  dsimp only
  split
  · trivial
  · exact ends_pure (inv_foldl (fun _ _ ht => fillNow_inv ht) h)

theorem coreCycle_inv (h : s.Inv) : (s.coreCycle).Inv := inv_ite h (h.congr rfl rfl)
theorem dropCopy_inv {k} (h : s.Inv) : (s.dropCopy k).Inv := inv_ite h (h.congr rfl rfl)

theorem matrixIssue_inv {len opc op args bytes entry} (h : s.Inv) :
    Ends Stop.Inv State.Inv (s.matrixIssue len opc op args bytes entry) :=
  ends_bind (accept_inv h) fun _ ht => ends_pure (ht.congr rfl rfl)

theorem matrixOne_inv {opc op f} (h : s.Inv) : Ends Stop.Inv State.Inv (s.matrixOne opc op f) :=
  ends_bind (srcG_inv h) fun _ _ => matrixIssue_inv h

theorem mbar_inv {f} (h : s.Inv) : Ends Stop.Inv State.Inv (s.mbar f) :=
  ends_bind (srcG_inv h) fun _ _ => ends_bind ref_inv fun _ _ => ends_bind (accept_inv h) fun _ ht =>
    ends_pure (ht.congr rfl rfl)

theorem mwait_inv {f} (h : s.Inv) : Ends Stop.Inv State.Inv (s.mwait f) :=
  ends_bind (srcG_inv h) fun _ _ => ends_bind need_inv fun _ _ => ends_bind (await_inv h) fun _ _ =>
    ends_pure (h.congr rfl rfl)

theorem mrow_inv {f} (h : s.Inv) : Ends Stop.Inv State.Inv (s.mrow f) :=
  ends_bind need_inv fun _ _ => ends_bind (srcG_inv h) fun _ _ => ends_bind need_inv fun _ _ =>
    ends_bind (destFree_inv h) fun _ _ => matrixIssue_inv (h.congr rfl rfl)

theorem mramp_inv {f} (h : s.Inv) : Ends Stop.Inv State.Inv (s.mramp f) :=
  ends_bind (srcG_inv h) fun _ _ => ends_bind need_inv fun _ _ => ends_pure (h.congr rfl rfl)

theorem mtag_inv {f} (h : s.Inv) : Ends Stop.Inv State.Inv (s.mtag f) :=
  ends_bind (srcG_inv h) fun _ _ => ends_bind (srcG_inv h) fun _ _ => ends_bind need_inv fun _ _ =>
    ends_bind need_inv fun _ _ => result_inv h

theorem mscl_inv {f} (h : s.Inv) : Ends Stop.Inv State.Inv (s.mscl f) :=
  ends_bind (srcG_inv h) fun _ _ => ends_bind need_inv fun _ _ => ends_bind need_inv fun _ _ => matrixIssue_inv h
theorem productMode_inv {coop scaled} : Ends Stop.Inv (fun _ => True) (s.productMode coop scaled) :=
  need_inv
theorem captureScales_inv {scaled trap} (h : s.Inv) : Ends Stop.Inv (fun _ => True) (s.captureScales scaled trap) :=
  ends_ite (srcV_inv h) (ends_ok trivial)

theorem productIssue_inv {len px opc op f coop scaled} (h : s.Inv) :
    Ends Stop.Inv State.Inv (s.productIssue len px opc op f coop scaled) :=
  ends_bind productMode_inv fun _ _ => ends_bind (srcG_inv h) fun _ _ => ends_bind (srcG_inv h) fun _ _ =>
    ends_bind (captureScales_inv h) fun _ _ => matrixIssue_inv h

theorem mma_inv {len px f} (h : s.Inv) : Ends Stop.Inv State.Inv (s.mma len px f) := productIssue_inv h
theorem mmaC_inv {len px f} (h : s.Inv) : Ends Stop.Inv State.Inv (s.mmaC len px f) := productIssue_inv h
theorem mmas_inv {len px f} (h : s.Inv) : Ends Stop.Inv State.Inv (s.mmas len px f) := productIssue_inv h
theorem mmax_inv {len px f} (h : s.Inv) : Ends Stop.Inv State.Inv (s.mmax len px f) := productIssue_inv h
theorem macc_inv {len f} (h : s.Inv) : Ends Stop.Inv State.Inv (s.macc len f) := matrixIssue_inv h

theorem produceGroup_inv {size l n} (h : s.Inv) : (s.produceGroup size l n).1.Inv := by
  induction l generalizing s n with
  | nil => exact h
  | cons r rs ih => exact ih (produce_inv h ..)

theorem mcvt_inv {len px f} (h : s.Inv) : Ends Stop.Inv State.Inv (s.mcvt len px f) :=
  ends_bind need_inv fun _ _ => ends_bind (rround_inv h) fun _ _ => ends_bind (captureScales_inv h) fun _ _ =>
    ends_bind need_inv fun _ _ => ends_bind need_inv fun _ _ => ends_bind (await_inv h) fun _ _ =>
    matrixIssue_inv (produceGroup_inv h)

end
end Sys2Proof.Machine

/-! PROOF. The form of memory (O55): cranes, bead channels and the resolver. -/
namespace Sys2Proof.Machine
section
variable {s : State}

theorem CopyDesc_check_inv {d k at_} : Ends Stop.Inv (fun _ => True) (CopyDesc.check d k at_) :=
  ends_bind need_inv fun _ _ => ends_bind need_inv fun _ _ => ends_bind need_inv fun _ _ =>
    ends_ite (ends_bind need_inv fun _ _ => need_inv) (ends_ok trivial)

theorem extentsOk_inv {d k} : Ends Stop.Inv (fun _ => True) (s.extentsOk d k) :=
  ends_bind need_inv fun _ _ => need_inv

theorem issueRead_inv {a n} (h : s.Inv) : Ends Stop.Inv (fun x => x.2.Inv) (s.issueRead a n) :=
  ends_bind need_inv fun _ _ => ends_bind need_inv fun _ _ => ends_bind (strongRead_inv h) fun _ _ =>
    ends_pure (lookedAt_inv h)

theorem barrierOf_inv {on r} : Ends Stop.Inv (fun _ => True) (s.barrierOf on r) :=
  ends_ite (ends_bind ref_inv fun _ _ => ends_pure trivial) (ends_ok trivial)

theorem craneIssue_inv {opc op f k} (h : s.Inv) : Ends Stop.Inv State.Inv (s.craneIssue opc op f k) :=
  ends_bind (srcG_inv h) fun _ _ => ends_bind (issueRead_inv h) fun _ ht => ends_bind CopyDesc_check_inv fun _ _ =>
    ends_bind barrierOf_inv fun _ _ => ends_bind extentsOk_inv fun _ _ =>
    ends_bind (destFree_inv ht) fun _ _ => ends_bind (accept_inv ht) fun _ hu => ends_pure (hu.congr rfl rfl)

theorem crnR_inv {f} (h : s.Inv) : Ends Stop.Inv State.Inv (s.crnR f) :=
  ends_bind (srcG_inv h) fun _ _ => ends_bind (srcG_inv h) fun _ _ => ends_bind (issueRead_inv h) fun _ ht =>
    ends_bind ref_inv fun _ _ => ends_bind CopyDesc_check_inv fun _ _ => ends_bind barrierOf_inv fun _ _ =>
    ends_bind extentsOk_inv fun _ _ => ends_bind (destFree_inv ht) fun _ _ =>
    ends_bind (accept_inv ht) fun _ hu => ends_pure (hu.congr rfl rfl)

theorem crnF_inv {f} (h : s.Inv) : Ends Stop.Inv State.Inv (s.crnF f) := by
  unfold State.crnF
  refine ends_bind (srcG_inv h) fun _ _ => ends_bind (srcG_inv h) fun _ _ => ends_bind (issueRead_inv h) fun _ h =>
    ends_bind (issueRead_inv h) fun _ h => ends_bind CopyDesc_check_inv fun _ _ => ?_
  split
  · exact ends_error trivial
  · exact ends_bind productMode_inv fun _ _ => ends_bind (captureScales_inv h) fun _ _ =>
      ends_bind barrierOf_inv fun _ _ => ends_bind barrierOf_inv fun _ _ => ends_bind extentsOk_inv fun _ _ =>
      ends_bind (destFree_inv h) fun _ _ => ends_bind (accept_inv h) fun _ h => ends_bind (accept_inv h) fun _ h =>
      ends_pure (h.congr rfl rfl)

theorem crnq_inv {f} (h : s.Inv) : Ends Stop.Inv State.Inv (s.crnq f) :=
  ends_bind (srcG_inv h) fun _ _ => ends_bind need_inv fun _ _ => result_inv h

theorem crnw_inv {f} (h : s.Inv) : Ends Stop.Inv State.Inv (s.crnw f) := by
  unfold State.crnw
  refine ends_bind (srcG_inv h) fun _ _ => ends_bind (srcG_inv h) fun _ _ => ?_
  split
  · exact ends_error trivial
  · exact ends_bind need_inv fun _ _ => ends_bind (accept_inv h) fun _ ht => ends_pure (ht.congr rfl rfl)

theorem crnX_inv {f} (h : s.Inv) : Ends Stop.Inv State.Inv (s.crnX f) :=
  ends_bind (srcG_inv h) fun _ _ => ends_pure (advance_inv (inv_foldl (fun _ _ ht =>
    lapse_inv ht) (inv_ite h (setQueue_inv h))) ..)

theorem copySpots_inv {w d fill} (h : s.Inv) : Ends CmdStop.Inv (fun _ => True) (s.copySpots w d fill) := by
  have hs {acc n l} : Ends CmdStop.Inv (fun _ => True) (List.mapM (s.spot w n acc d.esize) l) := ends_mapM (fun _ =>
    spot_inv h) _
  have hf {n l} : Ends CmdStop.Inv (fun _ =>
    True) (if fill then Except.ok [] else List.mapM (s.spot w n .r d.esize) l) :=
    ends_ite (ends_ok trivial) hs
  have hlast {n l n' l'} : Ends CmdStop.Inv (fun _ => True) (do
      let xs ← (if fill then Except.ok [] else List.mapM (s.spot w n .r d.esize) l)
      let ys ← List.mapM (s.spot w n' .w d.esize) l'
      pure (xs, ys)) := ends_bind hf fun _ _ => ends_bind hs fun _ _ => ends_pure trivial
  have hto {n l n' l'} : Ends CmdStop.Inv (fun _ => True) (if d.dsp = 3 then (do
        let _ ← List.mapM (s.spot w n' .w d.esize) l'
        let xs ← (if fill then Except.ok [] else List.mapM (s.spot w n .r d.esize) l)
        let ys ← List.mapM (s.spot w n' .w d.esize) l'
        pure (xs, ys))
      else (do
        let xs ← (if fill then Except.ok [] else List.mapM (s.spot w n .r d.esize) l)
        let ys ← List.mapM (s.spot w n' .w d.esize) l'
        pure (xs, ys))) := ends_ite (ends_bind hs fun _ _ => hlast) hlast
  exact ends_ite (ends_bind hf fun _ _ => hto) hto

theorem moveData_inv {q c d fill} (h : s.Inv) : Ends CmdStop.Inv State.Inv (s.moveData q c d fill) := by
  refine ends_bind (operands_inv (passing_inv h (copySpots_inv h))) fun _ _ =>
    ends_bind (claim_inv (passT_inv h)) fun _ h => moveOn_inv h fun x hx => ?_
  split at hx
  · obtain ⟨_, _, rfl⟩ := List.mem_map.mp hx
    trivial
  · obtain ⟨_, _, rfl⟩ := List.mem_map.mp hx
    exact sourceRead_inv h

theorem craneTurn_inv {want} {body} (h : s.Inv) (hb : ∀ q c, Ends CmdStop.Inv State.Inv (body q c)) :
    (s.craneTurn want body).Inv := commandTurn_inv h fun _ _ => finishCommand_inv h (hb _ _)

theorem takeSlot_inv {q c p need} (h : s.Inv) : (s.takeSlot q c p need).1.Inv := by
  unfold State.takeSlot
  split
  · exact h
  · dsimp only
    generalize hu : State.serveRing _ p _ = u
    have hi : u.Inv := hu ▸ serveRing_inv (inv_ite h ((setCmd_inv h).congr rfl rfl))
    split
    · exact (setCmd_inv hi).congr rfl rfl
    · exact hi

theorem passSlot_inv {q c p drain ref} (h : s.Inv) : Ends CmdStop.Inv State.Inv (s.passSlot q c p drain ref) :=
  ends_bind needCmd_inv fun _ _ => ends_pure (serveRing_inv ((putAt_inv h ..).congr rfl rfl))

theorem ringChecks_inv {c d ref p} : Ends CmdStop.Inv (fun _ => True) (s.ringChecks c d ref p) := by
  refine ends_ite (ends_ok trivial) (ends_bind needCmd_inv fun _ _ => ?_)
  dsimp only
  generalize s.ringOk _ _ _ = r
  cases r with
  | error code => trivial
  | ok r => exact needCmd_inv

theorem ringCopy_inv {q c} (h : s.Inv) : Ends CmdStop.Inv State.Inv (s.ringCopy q c) := by
  unfold State.ringCopy
  refine ends_bind ringChecks_inv fun _ _ => ?_
  split
  · next e => exact ends_keep (inv_of_fst (takeSlot_inv h) e)
  · next e =>
    have hu := inv_of_fst (takeSlot_inv h) e
    refine ends_bind needCmd_inv fun _ _ => ?_
    split
    · next e => exact ends_keep (finishCommand_inv hu ((moveData_inv hu).error e))
    · next e =>
      have ht := (moveData_inv hu).ok e
      split
      · next e => exact (passSlot_inv ht).ok e
      · next e => exact ends_keep (finishCommand_inv ht ((passSlot_inv ht).error e))

theorem laneCheck_inv {p j els reads} (h : s.Inv) : Ends Stop.Inv State.Inv (s.laneCheck p j els reads) := by
  unfold State.laneCheck
  split
  · exact ends_ok (wakeBank_inv h)
  · exact ends_error (h.congr rfl rfl)
  · exact ends_error trivial

theorem issueLanes_inv {opc p op ret els} (h : s.Inv) : (s.issueLanes opc p op ret els).Inv :=
  inv_foldl (fun _ _ ht => ht.congr rfl rfl) (h.congr rfl rfl)

theorem ldB_inv {f} (h : s.Inv) : Ends Stop.Inv State.Inv (s.ldB f) :=
  ends_bind (srcG_inv h) fun _ _ => ends_bind (srcG_inv h) fun _ _ => ends_bind (destFree_inv h) fun _ _ =>
    ends_bind (emptyOnFault_inv h (laneCheck_inv h)) fun _ ht =>
      ends_pure (advance_inv (issueLanes_inv (produce_inv ht ..)) _)

theorem stB_inv {f} (h : s.Inv) : Ends Stop.Inv State.Inv (s.stB f) :=
  ends_bind (srcG_inv h) fun _ _ => ends_bind (srcG_inv h) fun _ _ => ends_bind (srcV_inv h) fun _ _ =>
    ends_bind (laneCheck_inv h) fun _ ht => ends_pure ((issueLanes_inv ht).congr rfl rfl)

theorem turnCheck_inv {q c inT p els reads} (h : s.Inv) : Ends CmdStop.Inv (fun _ =>
  True) (s.turnCheck q c inT p els reads) := by
  unfold State.turnCheck
  split
  · exact ends_ok trivial
  · exact ends_keep (passT_inv h)
  · exact ends_error trivial

theorem cornerTurn_inv {q c} (h : s.Inv) : Ends CmdStop.Inv State.Inv (s.cornerTurn q c) := by
  refine ends_ite ?_ ?_
  · refine ends_bind (operands_inv (ends_bind (ends_mapM (fun _ => spot_inv h) _) fun _ _ =>
      ends_bind (turnCheck_inv h) fun _ _ => ends_pure trivial)) fun _ _ => ends_bind (claim_inv (passT_inv h)) fun _ h =>
      ends_bind (sample_inv h) fun _ _ => ends_bind (ends_mapM (fun _ => sourceRead_inv h) _) fun _ _ =>
      ends_ite h (ends_pure ?_)
    exact inv_foldl (fun _ _ ht => record_inv (putBead_inv ht ..) _) (wakeBank_inv (sourced_inv h))
  · refine ends_bind (operands_inv (ends_bind (ends_mapM (fun _ => spot_inv h) _) fun _ _ =>
      ends_bind (turnCheck_inv h) fun _ _ => ends_pure trivial)) fun _ _ => ends_bind (claim_inv (passT_inv h)) fun _ h =>
      ends_ite h ?_
    refine moveOn_inv (record_inv (wakeBank_inv h) _) fun x hx => ?_
    obtain ⟨_, _, rfl⟩ := List.mem_map.mp hx
    exact ends_bind (turnCheck_inv (record_inv (wakeBank_inv h) _)) fun _ _ => ends_pure trivial

theorem beadEnd_inv {k c f} (h : s.Inv) : (s.beadEnd k c f).Inv := by
  unfold State.beadEnd
  dsimp only
  split
  · exact inv_ite (recordFault_inv (tidyChains_inv (setQueue_inv (h.congr rfl rfl))))
      (tidyChains_inv (setQueue_inv (h.congr rfl rfl)))
  · exact tidyChains_inv (setQueue_inv (h.congr rfl rfl))

theorem rowClaim_inv {k c} (h : s.Inv) : Ends State.Inv State.Inv (s.rowClaim k c) :=
  ends_ite (ends_ok h) (ends_ite (ends_error (putClaim_inv h)) (ends_ok (putClaim_inv h)))

theorem beadTurn_inv {want} {body} (h : s.Inv) (hb : ∀ k c, Ends (fun _ =>
  True) State.Inv (body k c)) : (s.beadTurn want body).Inv := by
  unfold State.beadTurn
  dsimp only
  split
  · split
    · split
      · next e => exact (rowClaim_inv h).error e
      · next e => exact beadEnd_inv ((hb _ _).ok e)
      · exact beadEnd_inv h
    · exact h
  · exact h

theorem startEntry_inv {k c} (h : s.Inv) : Ends (fun _ => True) State.Inv (s.startEntry k c) := by
  unfold State.startEntry
  dsimp only
  split
  · exact ends_error trivial
  · refine ends_ite (ends_error trivial) (ends_ite (ends_error trivial) ?_)
    split
    · next e => exact ends_ok ((rowClaim_inv h).error e)
    · exact ends_error trivial
    · next e _ => exact ends_ok (setChan_inv ((rowClaim_inv h).ok e))

theorem endEntry_inv {k c f} (h : s.Inv) : (s.endEntry k c f).Inv := beadEnd_inv (h.congr rfl rfl)
theorem parkEntry_inv {k why e} (h : s.Inv) : (s.parkEntry k why e).Inv :=
  setChan_inv (inv_foldl (fun _ _ ht => ht.congr rfl rfl) h)
theorem unparkEntry_inv {k e} (h : s.Inv) : (s.unparkEntry k e).Inv :=
  setChan_inv (inv_foldl (fun _ _ ht => ht.congr rfl rfl) h)

theorem writeRef_inv {k n sub v r} (h : s.Inv) : (s.writeRef k n sub v r).Inv := by
  unfold State.writeRef
  split
  · refine setRowState_inv ?_ ..
    exact putRow_inv h ..
  · exact h.congr rfl rfl
  · exact h

theorem readRef_inv {k n sub r} : Ends (fun _ => True) (fun _ => True) (s.readRef k n sub r) := by
  cases s.readRef k n sub r <;> trivial

theorem wordIn_inv {k n sub m a b c latch} (h : s.Inv) : Ends (fun _ => True) (fun x =>
  x.1.Inv) (s.wordIn k n sub m a b c latch) := by
  unfold State.wordIn
  split
  · exact ends_bind readRef_inv fun _ _ => ends_pure h
  · exact ends_bind readRef_inv fun _ _ => ends_pure (writeRef_inv h)
  · exact ends_bind readRef_inv fun _ _ => ends_bind readRef_inv fun _ _ => ends_bind readRef_inv fun _ _ =>
      ends_pure (writeRef_inv (writeRef_inv (writeRef_inv h)))
  · exact ends_pure (writeRef_inv h)
  · exact ends_pure (writeRef_inv h)

theorem rowEvents_inv {k n sub c read written stamp} (h : s.Inv) : (s.rowEvents k n sub c read written stamp).Inv :=
  inv_foldl (fun _ _ ht => ht.congr rfl rfl) (inv_ite h (h.congr rfl rfl))

theorem bankWord_inv {k sub m a b c read written wset n} {x : State × Entry × List (Nat × Nat)} (h : x.1.Inv) :
    (State.bankWord k sub m a b c read written wset x n).1.Inv := by
  unfold State.bankWord
  dsimp only
  split
  · next e => exact rowEvents_inv ((wordIn_inv h).ok e)
  · exact h
  · exact setRows_inv (setRowState_inv h)

theorem microTurn_inv {op} {body} (h : s.Inv) (hb : ∀ k e m, (body k e m).Inv) : (s.microTurn op body).Inv := by
  unfold State.microTurn
  dsimp only
  split
  · exact inv_ite (hb ..) h
  · exact h

theorem rowWord_inv {k e m} (h : s.Inv) : (s.rowWord k e m).Inv := by
  unfold State.rowWord
  dsimp only
  split
  · generalize hx : List.foldl _ _ _ = x
    have ht : x.1.Inv := hx ▸ List.foldlRecOn (motive := fun x : State × Entry × List (Nat × Nat) =>
      x.1.Inv) e.banks _ h fun _ hx _ _ => bankWord_inv hx
    obtain ⟨t, e', stops⟩ := x
    cases stops with
    | cons x l => exact endEntry_inv ht
    | nil => exact inv_ite (endEntry_inv ht) (setChan_inv ht)
  · exact endEntry_inv h

theorem repeatWord_inv {k e m} (h : s.Inv) : (s.repeatWord k e m).Inv := inv_ite (h.congr rfl rfl) (parkEntry_inv h)
theorem branchWord_inv {k e m} (h : s.Inv) : (s.branchWord k e m).Inv := h.congr rfl rfl
theorem finishWord_inv {k e m} (h : s.Inv) : (s.finishWord k e m).Inv :=
  endEntry_inv (inv_ite (inv_foldl (fun _ _ ht => ht.congr rfl rfl) h) h)
theorem watchdogNotice_inv {k} (h : s.Inv) : (s.watchdogNotice k).Inv := h.congr rfl rfl
theorem bankDown_inv {k n} (h : s.Inv) : (s.bankDown k n).Inv :=
  inv_ite h (inv_ite (h.congr rfl rfl) (h.congr rfl rfl))

theorem tripChan_inv {k} (h : s.Inv) : ∀ u, s.tripChan k = some u → u.Inv := by
  have hd {t : State} {l : List Nat} (ht : t.Inv) : (l.foldl (fun t n => t.bankDown k n) t).Inv :=
    inv_foldl (fun _ _ ht => bankDown_inv ht) ht
  intro u e
  unfold State.tripChan at e
  split at e
  · split at e
    · rw [← Option.some.inj e]; exact hd h
    · split at e
      · rw [← Option.some.inj e]; exact hd (parkEntry_inv h)
      · exact nomatch e
  · rw [← Option.some.inj e]; exact hd h

theorem returnChan_inv {k} (h : s.Inv) : (s.returnChan k).Inv := by
  unfold State.returnChan
  dsimp only
  split
  · exact inv_ite (unparkEntry_inv (inv_foldl (fun _ _ ht => wakeBank_inv ht) h)) (inv_foldl (fun _ _ ht =>
      wakeBank_inv ht) h)
  · exact inv_foldl (fun _ _ ht => wakeBank_inv ht) h

theorem acceptBead_inv {k opc op args bytes} (h : s.Inv) : Ends Stop.Inv (fun x =>
  x.1.Inv) (s.acceptBead k opc op args bytes) :=
  ends_ite (ends_bind (ends_ok h) fun _ ht => ends_pure (ht.congr rfl rfl)) (ends_bind (spill_inv h) fun _ ht =>
    ends_pure (ht.congr rfl rfl))

theorem beadQueue_inv {q id partition} : Ends Stop.Inv (fun _ => True) (s.beadQueue q id partition) :=
  ends_bind need_inv fun _ _ => ends_bind need_inv fun _ _ => ends_pure trivial

theorem bcall_inv {f} (h : s.Inv) : Ends Stop.Inv State.Inv (s.bcall f) := by
  unfold State.bcall
  refine ends_bind (srcG_inv h) fun _ _ => ends_bind (srcG_inv h) fun _ _ => ends_bind need_inv fun _ _ =>
    ends_bind (issueRead_inv h) fun _ h => ends_bind need_inv fun _ _ => ?_
  dsimp only
  split
  · trivial
  · exact ends_ok_bind (ends_bind need_inv fun _ _ => ends_bind need_inv fun _ _ => ends_bind need_inv fun _ _ =>
      ends_bind (destFree_inv h) fun _ _ => ends_bind (acceptBead_inv h) fun _ h => ends_pure (h.congr rfl rfl))

theorem bfence_inv {f} (h : s.Inv) : Ends Stop.Inv State.Inv (s.bfence f) :=
  ends_bind (srcG_inv h) fun _ _ => ends_bind (srcG_inv h) fun _ _ => ends_bind beadQueue_inv fun _ _ =>
    ends_bind (await_inv h) fun _ _ => ends_pure (h.congr rfl rfl)

theorem runIssue_inv {opc op f keyed partition} (h : s.Inv) :
    Ends Stop.Inv State.Inv (s.runIssue opc op f keyed partition) :=
  ends_bind (srcG_inv h) fun _ _ => ends_bind (srcG_inv h) fun _ _ => ends_bind need_inv fun _ _ =>
    ends_bind need_inv fun _ _ => ends_bind (acceptBead_inv h) fun _ ht => ends_pure (ht.congr rfl rfl)

theorem bstat_inv {f} (h : s.Inv) : Ends Stop.Inv State.Inv (s.bstat f) :=
  ends_bind (srcG_inv h) fun _ _ => ends_bind need_inv fun _ _ => ends_bind beadQueue_inv fun _ _ =>
    ends_bind need_inv fun _ _ => ends_bind need_inv fun _ _ => ends_bind (destFree_inv h) fun _ _ =>
    result_inv (inv_ite (h.congr rfl rfl) h)

theorem bcsl_inv {f} (h : s.Inv) : Ends Stop.Inv State.Inv (s.bcsl f) := by
  unfold State.bcsl
  refine ends_bind (srcG_inv h) fun _ _ => ends_bind (srcG_inv h) fun _ _ => ends_bind need_inv fun _ _ =>
    ends_bind need_inv fun _ _ => ends_bind need_inv fun _ _ => ends_bind beadQueue_inv fun _ _ =>
    ends_bind (ends_mapM (fun _ => strongRead_inv h) _) fun _ _ => ?_
  split
  · exact ends_error trivial
  · exact ends_bind (acceptBead_inv (inv_foldl (fun _ _ ht => lookedAt_inv ht) h)) fun _ ht => ends_pure (ht.congr rfl rfl)

theorem bsave_inv {f} (h : s.Inv) : Ends Stop.Inv State.Inv (s.bsave f) := by
  unfold State.bsave
  refine ends_bind (srcG_inv h) fun _ _ => ends_bind beadQueue_inv fun _ _ => ?_
  dsimp only
  split
  · exact ends_pure (h.congr rfl rfl)
  · split
    · split
      · exact ends_pure (h.congr rfl rfl)
      · split
        · exact ends_pure (advance_inv (parkEntry_inv h) ..)
        · split
          · exact ends_error (h.congr rfl rfl)
          · exact ends_error ((h.congr rfl rfl).congr rfl rfl)
    · exact ends_pure (h.congr rfl rfl)

theorem brest_inv {f} (h : s.Inv) : Ends Stop.Inv State.Inv (s.brest f) := by
  unfold State.brest
  refine ends_bind (srcG_inv h) fun _ _ => ends_bind beadQueue_inv fun _ _ => ?_
  dsimp only
  refine ends_bind (await_inv h) fun _ _ => ?_
  split
  · split
    · exact ends_pure (advance_inv (unparkEntry_inv (inv_foldl (fun _ _ ht => wakeBank_inv ht) h)) ..)
    · refine ends_pure (advance_inv ?_ ..)
      exact inv_foldl (fun _ _ ht => ht.congr rfl rfl) (inv_foldl (fun _ _ ht => wakeBank_inv ht) h)
  · refine ends_pure (advance_inv ?_ ..)
    exact inv_foldl (fun _ _ ht => ht.congr rfl rfl) (inv_foldl (fun _ _ ht => wakeBank_inv ht) h)

theorem bwdog_inv {f} (h : s.Inv) : Ends Stop.Inv State.Inv (s.bwdog f) :=
  ends_bind (srcG_inv h) fun _ _ => ends_bind (srcG_inv h) fun _ _ => ends_bind beadQueue_inv fun _ _ =>
    ends_bind need_inv fun _ _ => ends_pure (h.congr rfl rfl)

theorem bmode_inv {f} (h : s.Inv) : Ends Stop.Inv State.Inv (s.bmode f) :=
  ends_bind (srcG_inv h) fun _ _ => ends_bind (acceptBead_inv h) fun _ ht => ends_pure (ht.congr rfl rfl)

theorem bpart_inv {f} (h : s.Inv) : Ends Stop.Inv State.Inv (s.bpart f) :=
  ends_bind (srcG_inv h) fun _ _ => ends_bind (srcG_inv h) fun _ _ => ends_bind need_inv fun _ _ =>
    ends_bind (acceptBead_inv h) fun _ ht => ends_pure (ht.congr rfl rfl)

theorem regEvent_inv {off f} (h : s.Inv) (hf : ∀ t v, t.Inv → (f t v).Inv) : Leaves (s.regEvent off f) := by
  unfold State.regEvent
  split
  · exact leaves_next (hf _ _ (tidy_inv (dropReq_inv h)))
  · exact leaves_ite (leaves_next (hf _ _ h)) (leaves_next h)

theorem loadKey_inv {slot key} (h : s.Inv) : (s.loadKey slot key).Inv := by
  refine ⟨h.1, ?_⟩
  show swf none (if _ then _ else _) = true
  split
  · exact h.2
  · exact List.foldlRecOn (motive := fun m => swf none m = true) _ _ h.2 fun m hm e _ =>
      swfFrom_sset none none m e.1 _ hm (by simp)

theorem shoot_inv {asid size base} (h : s.Inv) : (s.shoot asid size base).Inv := h.congr rfl rfl
theorem retryHeld_inv {asid} (h : s.Inv) : (s.retryHeld asid).Inv := h.congr rfl rfl
theorem relocate_inv {t asid hit} (h : s.Inv) : (s.relocate t asid hit).Inv := h.congr rfl rfl

theorem endRanges_inv {t asid} (h : s.Inv) : (s.endRanges t asid).Inv := by
  unfold State.endRanges
  split
  · exact h.congr rfl rfl
  · exact h

theorem copyLine_inv {key x} (h : s.Inv) : (s.copyLine key x).Inv :=
  (putAt_inv (wakeAt_inv (wakeAt_inv h)) ..).congr rfl rfl
theorem holdMoving_inv {lines} (h : s.Inv) : (s.holdMoving lines).Inv := inv_ite h (h.congr rfl rfl)

theorem drain_inv {places} (h : s.Inv) : (s.drain places).1.Inv := by
  unfold State.drain
  dsimp only
  split
  · exact holdMoving_inv h
  · split
    · exact holdMoving_inv (h.congr rfl rfl)
    · exact h

theorem land_inv {places} (h : s.Inv) : (s.land places).Inv := by
  unfold State.land
  dsimp only
  split
  · exact serveRecorded_inv (h.congr rfl rfl)
  · exact h

theorem moveLines_inv {key pairs} (h : s.Inv) : (s.moveLines key pairs).Inv :=
  State.Inv.congr (inv_foldl (fun _ _ ht => copyLine_inv ht) h) rfl rfl

theorem movePage_inv {asid l page old new entry} (h : s.Inv) : (s.movePage asid l page old new entry).Inv := by
  unfold State.movePage
  dsimp only
  refine retryHeld_inv ?_ ..
  exact land_inv ((putAt_inv (wakeAt_inv (moveLines_inv h)) ..).congr rfl rfl)

theorem migrate_inv {n asid va found dst} (h : s.Inv) : (s.migrate n asid va found dst).1.Inv := by
  unfold State.migrate
  dsimp only
  split
  · exact h
  · next l e =>
    have ht : (s.drain (s.leafLines l)).1.Inv := drain_inv h
    split
    · exact land_inv h
    · split
      · exact ht
      · split
        · next e => exact (moduleWrite_inv ht).error e
        · next e =>
          have hu := (moduleWrite_inv ht).ok e
          split
          · exact land_inv hu
          · exact movePage_inv hu

theorem beginMigration_inv {t v} (h : s.Inv) : (s.beginMigration t v).Inv := by
  unfold State.beginMigration
  dsimp only
  split
  · exact h.congr rfl rfl
  · split
    · exact h.congr rfl rfl
    · split
      · exact h.congr rfl rfl
      · exact h.congr rfl rfl
      · exact h.congr rfl rfl

theorem failQueue_inv {hit q} (h : s.Inv) : (s.failQueue hit q).Inv := by
  unfold State.failQueue
  refine inv_foldl (fun t _ ht => ?_) ?_
  · split
    · exact inv_ite (endCommand_inv ht) ht
    · exact ht
  · exact h

theorem pageFailed_inv {asid addr} (h : s.Inv) : (s.pageFailed asid addr).Inv :=
  inv_foldl (fun _ _ ht => inv_ite (ht.congr rfl rfl) (ht.congr rfl rfl)) (inv_foldl (fun _ _ ht =>
    setCtx_inv (lighterFault_inv ht)) (inv_foldl (fun _ _ ht =>
    failQueue_inv (failQueue_inv ht)) (inv_foldl (fun _ _ ht =>
    mapStrand_inv (recordFault_inv ht)) (inv_foldl (fun _ _ ht => reqFault_inv ht) h))))

theorem endPageFault_inv {f resolved} (h : s.Inv) : (s.endPageFault f resolved).Inv :=
  inv_ite (h.congr rfl rfl) (pageFailed_inv (h.congr rfl rfl))
theorem leaveSource_inv {f} (h : s.Inv) : (s.leaveSource f).Inv := inv_ite h (land_inv h)
theorem toHost_inv {f level} (h : s.Inv) : (s.toHost f level).Inv := (leaveSource_inv h).congr rfl rfl
theorem resolved_inv {f place key e pa} (h : s.Inv) : (s.resolved f place key e pa).Inv :=
  endPageFault_inv ((putAt_inv (wakeAt_inv h) ..).congr rfl rfl)

theorem spillReady_inv {id frame} (h : s.Inv) : Ends State.Inv State.Inv (s.spillReady id frame) := by
  unfold State.spillReady
  split
  · exact moduleWrite_inv h
  · exact ends_ok h

theorem returnFrame_inv {frame} (h : s.Inv) : (s.returnFrame frame).Inv := by
  unfold State.returnFrame
  split
  · exact h
  · exact (putAt_inv (wakeAt_inv h) ..).congr rfl rfl

theorem fillFrame_inv {f place key e pa source} (h : s.Inv) : (s.fillFrame f place key e pa source).Inv := by
  unfold State.fillFrame
  dsimp only
  split
  · refine resolved_inv ?_ ..
    refine inv_foldl (fun t _ ht => ?_) ?_
    · refine clearPoison_inv ?_ ..
      exact (putAt_inv (wakeAt_inv ht) ..).congr rfl rfl
    · exact h
  · exact resolved_inv (returnFrame_inv (land_inv (moveLines_inv h)))

theorem dropEviction_inv {t} (h : s.Inv) : (s.dropEviction t).Inv := by
  unfold State.dropEviction
  split
  · exact inv_ite h ((land_inv h).congr rfl rfl)
  · exact h

/-- The state that a frame is taken in has the form. -/
def Frame.Inv : Frame → Prop
  | .ok s _ => s.Inv
  | .host => True
  | .waits s => s.Inv

theorem frame_ok {pa} (h : s.Inv) : (Frame.ok s pa).Inv := h
theorem frame_waits (h : s.Inv) : (Frame.waits s).Inv := h
theorem frame_ite {c : Prop} [Decidable c] {x y : Frame} (hx : x.Inv) (hy : y.Inv) : (if c then x else y).Inv := by
  split <;> assumption

theorem evict_inv {t asid page l e spill} (h : s.Inv) : (s.evict t asid page l e spill).Inv := by
  unfold State.evict
  extract_lets old policy pa forget stay
  have ht : (s.drain old).1.Inv := drain_inv h
  have hf {u : State} (hu : u.Inv) : (forget u).Inv := setTower_inv hu
  have hs {u : State} (hu : u.Inv) : (stay u).Inv := frame_waits (setTower_inv hu)
  generalize s.drain old = x at ht
  obtain ⟨u, ready⟩ := x
  refine frame_ite trivial (frame_ite (hs ht) ?_)
  split
  · next e => exact hs ((moduleWrite_inv ht).error e)
  · next e =>
    have hu := (moduleWrite_inv ht).ok e
    refine frame_ite ?_ ?_
    · exact frame_waits (hf (land_inv hu))
    · exact frame_ok ((hf (u := State.movePage _ asid l page old _ _) (movePage_inv hu)).congr rfl rfl)

theorem takeFrame_inv {t} (h : s.Inv) : (s.takeFrame t).Inv := by
  unfold State.takeFrame
  dsimp only
  split
  · split
    · exact setTower_inv h
    · exact wakeAt_inv h
  · split
    · trivial
    · split
      · exact wakeAt_inv h
      · split
        · exact evict_inv h
        · split
          · trivial
          · exact wakeAt_inv h
          · exact evict_inv h

theorem fillPage_inv {f level e place key} (h : s.Inv) : (s.fillPage f level e place key).Inv := by
  unfold State.fillPage
  extract_lets kind source u
  have hs : u.Inv := inv_ite h (leaveSource_inv h)
  clear_value u
  refine inv_ite (toHost_inv hs) ?_
  generalize hx : (if kind = 2 then u.drain source else (u, true)) = x
  have ht : x.1.Inv := by
    subst hx
    split
    · exact drain_inv hs
    · exact hs
  obtain ⟨t, ready⟩ := x
  dsimp only
  have ht' {g : PageFault} : State.Inv { t with pageFaults := t.pageFaults.map (fun x =>
    if x.id == f.id then g else x) } :=
    ht.congr rfl rfl
  refine inv_ite ht' ?_
  have hw {g : PageFault} := ends_bind (moduleWrite_inv (idx := 2 ^ 33 + f.id) (p := place) (n := 8)
    (ht' (g := g))) fun u hu =>
    ends_ite (c := kind = 2) (spillReady_inv (id := f.id) (frame := frameOfEntry e) hu) (ends_ok hu)
  split
  · next e => exact hw.error e
  · next e =>
    have hu := hw.ok e
    split
    · exact toHost_inv hu
    · next e => exact (e ▸ takeFrame_inv hu : (Frame.waits _).Inv)
    · next e =>
      have hv := (e ▸ takeFrame_inv hu : (Frame.ok _ _).Inv)
      exact inv_ite (toHost_inv hu) (inv_ite hu (fillFrame_inv hv))

theorem resolve_inv {f} (h : s.Inv) : (s.resolve f).Inv := by
  unfold State.resolve
  split
  · dsimp only
    split
    · refine toHost_inv ?_ ..
      exact h
    · split
      · exact endPageFault_inv (leaveSource_inv h)
      · split
        · refine toHost_inv ?_ ..
          exact h
        · exact fillPage_inv h
  · exact wakeAt_inv h
  · exact endPageFault_inv (leaveSource_inv h)

end
end Sys2Proof.Machine

/-! PROOF. The form of memory (O55): the host, boot, ends of launches, home atomics, range units and the turns. -/
namespace Sys2Proof.Machine
section
variable {s : State}

theorem logWrite_inv {idx va bs} (h : s.Inv) : Ends State.Inv State.Inv (s.logWrite idx va bs) := by
  unfold State.logWrite
  split
  · split
    · next e => exact ends_error (wakeAt_inv ((moduleWrite_inv h).error e))
    · next e => exact ends_ok (clearPoison_inv (writeAt_inv (wakeAt_inv ((moduleWrite_inv h).ok e)) ..))
  · exact ends_error (wakeFor_inv h)

theorem growLighter_inv {f} (h : s.Inv) : (s.growLighter f).Inv := by
  unfold State.growLighter
  extract_lets k c first d from_ to_ all look
  have hl : Ends State.Inv (fun _ => True) look :=
    ends_mapM (fun _ => ends_bind (lighterRead_inv h) fun _ _ => ends_bind (lighterWait_inv h) fun _ _ =>
      ends_pure trivial) _
  clear_value look
  refine inv_ite h ?_
  cases look with
  | error t => exact hl
  | ok l => exact State.Inv.congr (inv_foldl (fun _ _ ht => pilotWrite_getD_inv ht) h) rfl rfl

theorem growLighters_inv (h : s.Inv) : (s.growLighters).Inv := inv_foldl (fun _ _ ht => growLighter_inv ht) h
theorem hostDrop_inv {line} (h : s.Inv) : (s.hostDrop line).Inv := h.congr rfl rfl

theorem putTower_inv {n w bs} (h : s.Inv) : (State.putTower n s w bs).Inv := by
  induction n generalizing s w bs with
  | zero => exact h
  | succ n ih => exact inv_ite h (ih (writeAt_inv h ..))

theorem verifyImage_inv (h : s.Inv) : (s.verifyImage).Inv :=
  inv_ite (h.congr rfl rfl) (inv_ite (h.congr rfl rfl) (h.congr rfl rfl))
theorem resetRegisters_inv (h : s.Inv) : (s.resetRegisters).Inv := h.congr rfl rfl
theorem doeAnswer_inv {x} (h : s.Inv) : (s.doeAnswer x).Inv := h.congr rfl rfl

theorem lapseQueue_inv {q f} (h : s.Inv) : (s.lapseQueue q f).Inv := by
  unfold State.lapseQueue
  split
  · exact h
  · exact inv_foldl (fun _ _ ht => lapse_inv ht) h

theorem beginEnd_inv {k l f} (h : s.Inv) : (s.beginEnd k l f).Inv :=
  setCtx_inv (inv_foldl (fun _ _ ht => lapseQueue_inv (lapseQueue_inv ht)) (h.congr rfl rfl))

theorem finishEnd_inv {k l f} (h : s.Inv) : (s.finishEnd k l f).Inv := by
  have ht {ids : List Nat} : (ids.foldl (fun t id => t.removeCrew id) s).Inv := inv_foldl (fun _ _ ht =>
    removeCrew_inv ht) h
  unfold State.finishEnd
  extract_lets ids t u
  have hu : u.Inv := ht.congr rfl rfl
  exact inv_ite (setCtx_inv (hu.congr rfl rfl)) (setCtx_inv hu)

theorem paired_inv {px inner} (h : s.Inv) : Ends Stop.Inv State.Inv (s.paired px inner) := by
  unfold State.paired
  split
  · exact vadd_inv h
  · exact vsub_inv h
  · exact vmul_inv h
  · exact vmulh_inv h
  · exact vmulh_inv h
  · exact vfma_inv h
  · exact vdiv_inv h
  · exact vdivN_inv h
  · exact vminmax_inv h
  · exact vminmax_inv h
  · exact vminmax_inv h
  · exact vminmax_inv h
  · exact vlogic_inv h
  · exact vlogic_inv h
  · exact vlogic_inv h
  · exact vlogic_inv h
  · exact vlogic_inv h
  · exact vlogic_inv h
  · exact vshift_inv h
  · exact vshift_inv h
  · exact vshift_inv h
  · exact vcmp_inv h
  · exact vsel_inv h
  · exact vmov_inv h
  · exact vsign_inv h
  · exact vsign_inv h
  · exact vfunc_inv h
  · exact vfunc_inv h
  · exact vfunc_inv h
  · exact vfunc_inv h
  · exact vfunc_inv h
  · exact vfunc_inv h
  · exact vperm_inv h
  · exact vslide_inv h
  · exact vcompress_inv h
  · exact vexpand_inv h
  · exact vredsum_inv h
  · exact vredsum_inv h
  · exact vredmm_inv h
  · exact vscan_inv h
  · exact vsortkv_inv h
  · exact vsegred_inv h
  · exact cvtn_inv h
  · exact cvtnF_inv h
  · exact cvtw_inv h
  · exact cvtwF_inv h
  · exact qscale_inv h
  · exact rotv_inv h
  · exact rotv_inv h
  · exact cvti_inv h
  · exact mma_inv h
  · exact mmaC_inv h
  · exact mmas_inv h
  · exact mmax_inv h
  · exact macc_inv h
  · exact mcvt_inv h
  · exact ends_error trivial

theorem atomicAddr_inv {a n} : Ends Stop.Inv (fun _ => True) (s.atomicAddr a n) :=
  ends_bind need_inv fun _ _ => ends_bind need_inv fun _ _ => need_inv

theorem amoHome_inv {f} (h : s.Inv) : Ends Stop.Inv State.Inv (s.amoHome f) := by
  unfold State.amoHome
  dsimp only
  refine ends_bind (srcG_inv h) fun _ _ => ends_bind (srcG_inv h) fun _ _ => ends_bind atomicAddr_inv fun _ _ =>
    ends_bind (destFree_inv h) fun _ _ => ?_
  refine ends_pure (advance_inv ?_ ..)
  exact issueRmw_inv (h.congr rfl rfl)

theorem casHome_inv {f} (h : s.Inv) : Ends Stop.Inv State.Inv (s.casHome f) := by
  unfold State.casHome
  dsimp only
  refine ends_bind (srcG_inv h) fun _ _ => ends_bind (srcG_inv h) fun _ _ => ends_bind (srcG_inv h) fun _ _ =>
    ends_bind atomicAddr_inv fun _ _ => ends_bind (destFree_inv h) fun _ _ => ?_
  refine ends_pure (advance_inv ?_ ..)
  exact issueRmw_inv (h.congr rfl rfl)

theorem redHome_inv {f} (h : s.Inv) : Ends Stop.Inv State.Inv (s.redHome f) :=
  ends_bind (srcG_inv h) fun _ _ => ends_bind (srcG_inv h) fun _ _ => ends_bind atomicAddr_inv fun _ _ =>
    ends_pure (h.congr rfl rfl)

theorem fredHome_inv {f} (h : s.Inv) : Ends Stop.Inv State.Inv (s.fredHome f) :=
  ends_bind (srcG_inv h) fun _ _ => ends_bind (srcG_inv h) fun _ _ => ends_bind atomicAddr_inv fun _ _ =>
    ends_pure (h.congr rfl rfl)

theorem famoHome_inv {f} (h : s.Inv) : Ends Stop.Inv State.Inv (s.famoHome f) := by
  unfold State.famoHome
  refine ends_bind (srcG_inv h) fun _ _ => ends_bind (srcG_inv h) fun _ _ => ends_bind atomicAddr_inv fun _ _ =>
    ends_bind (destFree_inv h) fun _ _ => ?_
  refine ends_pure (advance_inv ?_ ..)
  exact issueRmw_inv (h.congr rfl rfl)

theorem scatter_inv {opc f w op} (h : s.Inv) : Ends Stop.Inv State.Inv (s.scatter opc f w op) := by
  unfold State.scatter
  refine ends_bind (srcG_inv h) fun _ _ => ends_bind (srcV_inv h) fun _ _ => ends_bind (srcV_inv h) fun _ _ => ?_
  dsimp only
  refine ends_bind checkElems_inv fun _ _ => ?_
  refine ends_pure (advance_inv ?_ ..)
  exact issueElems_inv (inv_foldl (fun _ _ ht => ht.congr rfl rfl) h)

theorem rfence_inv {scope} (h : s.Inv) : Ends Stop.Inv State.Inv (s.rfence scope) :=
  ends_bind (holdFor_inv h) fun _ _ => ends_pure (h.congr rfl rfl)

theorem wordPlaces_inv {l} : Ends Stop.Inv (fun _ => True) (s.wordPlaces l) := by
  induction l with
  | nil => exact ends_ok trivial
  | cons a as ih =>
    unfold State.wordPlaces
    split
    · exact ends_bind ih fun _ _ => ends_pure trivial
    · exact ends_error trivial
    · exact ih

theorem rgrain_inv {f} (h : s.Inv) : Ends Stop.Inv State.Inv (s.rgrain f) := by
  unfold State.rgrain
  refine ends_bind (srcG_inv h) fun _ _ => ends_bind need_inv fun _ _ => ends_bind need_inv fun _ _ =>
    ends_bind (strongRead_inv h) fun _ _ => ?_
  dsimp only
  split
  · exact ends_error trivial
  · exact ends_ite (ends_pure ((lookedAt_inv h).congr rfl rfl)) (ends_bind wordPlaces_inv fun _ _ =>
      ends_bind (holdUnits_inv (lookedAt_inv h)) fun _ ht => ends_pure (ht.congr rfl rfl))

theorem rdrop_inv {f} (h : s.Inv) : Ends Stop.Inv State.Inv (s.rdrop f) := by
  unfold State.rdrop
  refine ends_bind (srcG_inv h) fun _ _ => ends_bind need_inv fun _ _ => ?_
  split
  · exact ends_pure (h.congr rfl rfl)
  · exact ends_bind (holdUnits_inv h) fun _ ht => ends_pure (ht.congr rfl rfl)

theorem writeBack_inv {l} (h : s.Inv) : (s.writeBack l).Inv := inv_ite (h.congr rfl rfl) h

theorem gflush_inv {f} (h : s.Inv) : Ends Stop.Inv State.Inv (s.gflush f) := by
  unfold State.gflush
  refine ends_bind (srcG_inv h) fun _ _ => ends_bind (srcG_inv h) fun _ _ => ends_bind publishRange_inv fun _ _ =>
    ends_bind wordPlaces_inv fun _ _ => ?_
  dsimp only
  refine ends_bind (holdFor_inv h) fun _ _ => ?_
  refine ends_pure (advance_inv ?_ ..)
  exact inv_ite (h.congr rfl rfl) (h.congr rfl rfl)

theorem homeSlice_inv {p} (h : s.Inv) : (s.homeSlice p).2.Inv := by
  unfold State.homeSlice
  split
  · exact h
  · split
    · exact h
    · exact freeWord_inv h

theorem gquery_inv {f} (h : s.Inv) : Ends Stop.Inv State.Inv (s.gquery f) := by
  unfold State.gquery
  refine ends_bind (srcG_inv h) fun a _ => ends_bind need_inv fun _ _ => ends_bind (destFree_inv h) fun _ _ => ?_
  dsimp only
  generalize s.lookup s.self.tower s.crew.asid a = found
  have hr {t : State} {v : Word} (ht : t.Inv) : Ends Stop.Inv State.Inv (pure
      (State.advance (if f.d == 0 then t else (t.produce (.g f.d.toNat) ((leBytes 8 v.toNat).map some)).1) 4)) :=
    ends_pure (advance_inv (inv_ite ht (produce_inv ht ..)) _)
  cases found with
  | waits p => trivial
  | leaf l level =>
    refine ends_ok_bind ?_
    dsimp only
    by_cases hw : inWindow a
    · simp only [hw, if_true]
      exact hr h
    · simp only [hw]
      exact hr (homeSlice_inv h)
  | _ => exact ends_ok_bind (hr h)

theorem checkStrand_inv {strand code tower addr} (h : s.Inv) : (s.checkStrand strand code tower addr).Inv := by
  unfold State.checkStrand
  split
  · exact mapStrand_inv (recordFault_inv h)
  · exact h.congr rfl rfl

theorem endCrewsIn_inv {t code addr} (h : s.Inv) : (s.endCrewsIn t code addr).Inv :=
  inv_foldl (fun _ _ ht => ht.congr rfl rfl) (h.congr rfl rfl)
theorem towerTrip_inv {t code} (h : s.Inv) : (s.towerTrip t code).Inv :=
  setTower_inv (inv_foldl (fun _ _ ht => ht.congr rfl rfl) (endCrewsIn_inv (h.congr rfl rfl)))
theorem accessDeps_inv {fl old n} (h : s.Inv) : (s.accessDeps fl old n).Inv := inv_ite h (h.congr rfl rfl)
theorem noteIssue_inv {slot} (h : s.Inv) : (s.noteIssue slot).Inv := inv_ite (h.congr rfl rfl) (h.congr rfl rfl)
theorem keep_inv {i len} (h : s.Inv) : (s.keep i len).Inv := h.congr rfl rfl

theorem afterInstr_inv {i len old n} (h : s.Inv) : (s.afterInstr i len old n).Inv := by
  unfold State.afterInstr
  dsimp only
  split
  · exact inv_ite (noteIssue_inv ((accessDeps_inv h).congr rfl rfl))
      (inv_ite (noteIssue_inv ((accessDeps_inv h).congr rfl rfl)) ((accessDeps_inv h).congr rfl rfl))
  · split
    · refine noteIssue_inv (mapSelf_inv ?_ ..) ..
      exact accessDeps_inv h
    · split
      · exact noteIssue_inv ((accessDeps_inv h).congr rfl rfl)
      · refine mapSelf_inv ?_ ..
        exact (accessDeps_inv h).congr rfl rfl

theorem nextTurn_inv (h : s.Inv) : (s.nextTurn).2.Inv := by
  unfold State.nextTurn
  split
  · exact h.congr rfl rfl
  · exact h.congr rfl rfl

theorem focus_inv {slot t} (h : s.Inv) (e : s.focus slot = some t) : t.Inv := by
  unfold State.focus at e
  split at e
  · cases e; exact h
  · split at e <;> cases e
    exact h.congr rfl rfl

theorem aheadTurn_inv {slot a} (h : s.Inv) : (s.aheadTurn slot a).Inv := by
  unfold State.aheadTurn
  split
  · next e => exact fetchAhead_inv (focus_inv h e)
  · exact h

/-- The state in which an instruction runs, or in which a turn is over, has the form. -/
def Ready.Inv : Ready → Prop
  | .empty => True
  | .over s => s.Inv
  | .run _ _ s => s.Inv

theorem admitInstr_inv {i len} (h : s.Inv) : (s.admitInstr i len).Inv := by
  unfold State.admitInstr
  split
  · exact raise_inv h
  · split
    · exact raise_inv h
    · split
      · exact raise_inv h
      · extract_lets marked t
        have ht : t.Inv := inv_ite (mapSelf_inv h _) h
        clear_value t
        split
        · exact ht
        · split <;> exact ht

theorem nextInstr_inv {ahead} (h : s.Inv) : (s.nextInstr ahead).Inv := by
  unfold State.nextInstr
  split
  · exact h
  · split
    · next e => exact onStop_inv h ((fetchInstr_inv h).error e)
    · next e => exact ((fetchInstr_inv h).ok e).congr rfl rfl
    · next e => exact raise_inv ((fetchInstr_inv h).ok e)
    · next e => exact raise_inv ((fetchInstr_inv h).ok e)
    · next e => exact admitInstr_inv ((fetchInstr_inv h).ok e)

theorem strandTurn_inv {slot ahead} (h : s.Inv) : (s.strandTurn slot ahead).Inv := by
  unfold State.strandTurn
  split
  · trivial
  · next e =>
    have ht := focus_inv h e
    split
    · exact ht
    · exact nextInstr_inv ht

theorem partTurn_inv {slot line} (h : s.Inv) : (s.partTurn slot line).Inv := by
  unfold State.partTurn
  split
  · exact h
  · next e =>
    have ht := focus_inv h e
    refine inv_ite h ?_
    split
    · next i _ v e =>
      have hv : v.Inv := (e ▸ nextInstr_inv ht : (Ready.run ..).Inv)
      refine inv_ite (keep_inv (accessDeps_inv ?_)) h
      split
      · exact publishEarly_inv hv
      · exact fillNext_inv hv
      · exact tsplitBegin_inv hv
      · exact inv_ite (lookAhead_inv hv) hv
    · exact h

end
end Sys2Proof.Machine

/-! PROOF. The form of memory (O55): every instruction and every event. -/
namespace Sys2Proof.Machine
section
variable {s : State}

theorem execFence_inv {f} (h : s.Inv) : Leaves (execFence f s) := by
  unfold execFence
  refine finish_inv h ?_
  refine ends_ok ?_
  refine fence_inv ?_ ..
  exact h

theorem execTowerStart_inv (h : s.Inv) : Leaves (execTowerStart s) := by
  unfold execTowerStart
  split
  · exact leaves_ite (leaves_next h) (leaves_ite (leaves_next (h.congr rfl rfl)) (leaves_next (h.congr rfl rfl)))
  · exact leaves_next h

theorem execShootDownDone_inv (h : s.Inv) : Leaves (execShootDownDone s) := by
  unfold execShootDownDone
  dsimp only
  split
  · exact leaves_next h
  · refine leaves_next (retryHeld_inv (setTower_inv ?_ ..) ..)
    refine relocate_inv ?_ ..
    exact endRanges_inv (h.congr rfl rfl)

theorem execMigration_inv (h : s.Inv) : Leaves (execMigration s) := by
  unfold execMigration
  dsimp only
  split
  · split
    · exact leaves_next (h.congr rfl rfl)
    · split
      · exact leaves_next (wakeAt_inv h)
      · exact leaves_next (beginMigration_inv (h.congr rfl rfl))
  · split
    · exact leaves_next h
    · split
      · exact leaves_next ((migrate_inv h).congr rfl rfl)
      · exact leaves_next (migrate_inv h)

theorem execLaunchFetch_inv (h : s.Inv) : Leaves (execLaunchFetch s) := by
  unfold execLaunchFetch
  dsimp only
  split
  · exact leaves_next h
  · split
    · exact leaves_next (refuse_inv (inv_ite (h.congr rfl rfl) h))
    · exact leaves_next (setCtx_inv (pageFault_inv (inv_ite (h.congr rfl rfl) h)))
    · exact leaves_next (refuse_inv (inv_ite (h.congr rfl rfl) h))
    · exact leaves_next (wakeAt_inv (inv_ite (h.congr rfl rfl) h))
    · exact leaves_next (refuse_inv (machineCheck_inv (inv_ite (h.congr rfl rfl) h)))
    · exact leaves_next (refuse_inv (inv_ite (h.congr rfl rfl) h))
    · split
      · split
        · exact leaves_next (wakeAt_inv (h.congr rfl rfl))
        · split
          · exact leaves_next (h.congr rfl rfl)
          · split
            · exact leaves_next (h.congr rfl rfl)
            · split
              · exact leaves_next ((newMid_inv (h.congr rfl rfl)).congr rfl rfl)
              · exact leaves_next ((newMid_inv (h.congr rfl rfl)).congr rfl rfl)
      · split
        · exact leaves_next (wakeAt_inv h)
        · split
          · exact leaves_next h
          · split
            · exact leaves_next (h.congr rfl rfl)
            · split
              · exact leaves_next ((newMid_inv h).congr rfl rfl)
              · refine leaves_next (setCtx_inv ?_ ..)
                exact (newMid_inv h).congr rfl rfl

theorem execManifestAdmit_inv (h : s.Inv) : Leaves (execManifestAdmit s) := by
  unfold execManifestAdmit
  dsimp only
  split
  · split
    · exact leaves_ite (leaves_next h) (leaves_next (h.congr rfl rfl))
    · exact leaves_next h
  · exact leaves_next h

theorem execManifestReady_inv (h : s.Inv) : Leaves (execManifestReady s) := by
  unfold execManifestReady
  split
  · exact leaves_next (inv_ite (settleFrom_inv (h.congr rfl rfl)) h)
  · exact leaves_next h

theorem execIterationPlace_inv (h : s.Inv) : Leaves (execIterationPlace s) := by
  unfold execIterationPlace
  split
  · exact leaves_next (inv_ite (placeIteration_inv h) h)
  · exact leaves_next h

theorem execAgingTick_inv (h : s.Inv) : Leaves (execAgingTick s) := by
  unfold execAgingTick
  split
  · exact leaves_next (inv_ite (h.congr rfl rfl) h)
  · exact leaves_next h

theorem execStrandStop_inv (h : s.Inv) : Leaves (execStrandStop s) := by
  unfold execStrandStop
  split
  · exact leaves_ite (leaves_next (h.congr rfl rfl)) (leaves_next h)
  · exact leaves_next h

theorem execLaunchEnd_inv (h : s.Inv) : Leaves (execLaunchEnd s) := by
  unfold execLaunchEnd
  dsimp only
  split
  · exact leaves_next h
  · exact leaves_ite (leaves_next h) (leaves_next (inv_ite (finishEnd_inv (inv_ite h (beginEnd_inv h)))
      (inv_ite h (beginEnd_inv h))))

theorem execVectorCapacityGrant_inv (h : s.Inv) : Leaves (execVectorCapacityGrant s) := by
  unfold execVectorCapacityGrant
  dsimp only
  split
  · exact leaves_next h
  · exact leaves_ite (leaves_next h) (leaves_next (h.congr rfl rfl))

theorem execLeaseExpiry_inv (h : s.Inv) : Leaves (execLeaseExpiry s) := by
  unfold execLeaseExpiry
  split
  · exact leaves_next (inv_ite (homeStrong_inv h) h)
  · exact leaves_next h

theorem execHomeReadRequest_inv (h : s.Inv) : Leaves (execHomeReadRequest s) := by
  unfold execHomeReadRequest
  split
  · exact leaves_next (homeRead_inv h)
  · exact leaves_next h

theorem execHomeWeakStore_inv (h : s.Inv) : Leaves (execHomeWeakStore s) := by
  unfold execHomeWeakStore
  split
  · exact leaves_next (homeWeak_inv h)
  · exact leaves_next h

theorem execHomeStrongWrite_inv (h : s.Inv) : Leaves (execHomeStrongWrite s) := by
  unfold execHomeStrongWrite
  split
  · exact leaves_next (inv_ite (homeStrong_inv h) h)
  · exact leaves_next h

theorem execHomeAtomic_inv (h : s.Inv) : Leaves (execHomeAtomic s) := by
  unfold execHomeAtomic
  split
  · exact leaves_next (inv_ite (homeStrong_inv h) h)
  · exact leaves_next h

theorem execLineFillDone_inv (h : s.Inv) : Leaves (execLineFillDone s) := by
  unfold execLineFillDone
  split
  · exact leaves_ite (leaves_next h) (leaves_next (serveRecorded_inv ((wakeAt_inv h).congr rfl rfl)))
  · exact leaves_next h

theorem execPageWalk_inv (h : s.Inv) : Leaves (execPageWalk s) := by
  unfold execPageWalk
  split
  · exact leaves_next (pageWalk_inv h)
  · exact leaves_next h

theorem execHwFaultResolve_inv (h : s.Inv) : Leaves (execHwFaultResolve s) := by
  unfold execHwFaultResolve
  split
  · exact leaves_next (dropEviction_inv (resolve_inv h))
  · exact leaves_next h

theorem execHostMemRead_inv (h : s.Inv) : Leaves (execHostMemRead s) := by
  unfold execHostMemRead
  dsimp only
  split
  · exact leaves_next h
  · split
    · exact leaves_next (wakeAt_inv h)
    · exact leaves_next (h.congr rfl rfl)

theorem execSramUe_inv (h : s.Inv) : Leaves (execSramUe s) := by
  unfold execSramUe
  dsimp only
  split
  · exact leaves_next (checkStrand_inv (h.congr rfl rfl))
  · exact leaves_next (checkStrand_inv h)
  · split
    · split
      · exact leaves_next (inv_ite (recordFault_inv h) (h.congr rfl rfl))
      · exact leaves_next (h.congr rfl rfl)
    · exact leaves_next (h.congr rfl rfl)

theorem execCacheParityError_inv (h : s.Inv) : Leaves (execCacheParityError s) := by
  unfold execCacheParityError
  split
  · split
    · exact leaves_next (h.congr rfl rfl)
    · exact leaves_next h
  · exact leaves_next (h.congr rfl rfl)

theorem execMatrixGrant_inv (h : s.Inv) : Leaves (execMatrixGrant s) := by
  unfold execMatrixGrant
  dsimp only
  split
  · exact leaves_next (inv_ite (h.congr rfl rfl) h)
  · exact leaves_next h

theorem execMatrixRelease_inv (h : s.Inv) : Leaves (execMatrixRelease s) := by
  unfold execMatrixRelease
  dsimp only
  split
  · exact leaves_next (inv_ite (h.congr rfl rfl) h)
  · exact leaves_next h

theorem execBeadWatchdogExpire_inv (h : s.Inv) : Leaves (execBeadWatchdogExpire s) := by
  unfold execBeadWatchdogExpire
  dsimp only
  split
  · exact leaves_ite (leaves_next h) (leaves_next (watchdogNotice_inv (endEntry_inv (setChan_inv (inv_foldl (fun _ _ ht =>
      ht.congr rfl rfl) (inv_foldl (fun _ _ ht => ht.congr rfl rfl) h))))))
  · exact leaves_next h

theorem execModuleReset_inv : Leaves (execModuleReset s) := leaves_next ⟨State.reset_mem_wf, rfl⟩

theorem execResetRelease_inv (h : s.Inv) : Leaves (execResetRelease s) := by
  have ht {n w bs} : (State.putTower n s.resetRegisters w bs).Inv := putTower_inv (resetRegisters_inv h)
  exact leaves_ite (leaves_next h) (leaves_ite (leaves_next (verifyImage_inv ht)) (leaves_next (ht.congr rfl rfl)))

theorem execBootLaunchStart_inv (h : s.Inv) : Leaves (execBootLaunchStart s) := by
  unfold execBootLaunchStart
  refine leaves_ite (leaves_next h) ?_
  extract_lets header d code data t lines u
  have ht : t.Inv := putTower_inv (putTower_inv h)
  have hu : u.Inv := by
    clear_value t
    exact ht.congr rfl rfl
  exact leaves_next (placeBoot_inv hu)

theorem execReadyWrite_inv (h : s.Inv) : Leaves (execReadyWrite s) :=
  regEvent_inv h fun _ _ ht => inv_ite (ht.congr rfl rfl) ht
theorem execAttestStart_inv (h : s.Inv) : Leaves (execAttestStart s) :=
  regEvent_inv h fun _ _ ht => inv_ite (ht.congr rfl rfl) ht

theorem execAttestReportDone_inv (h : s.Inv) : Leaves (execAttestReportDone s) := by
  unfold execAttestReportDone
  extract_lets bs a done
  have hd : Ends State.Inv State.Inv done :=
    ends_bind (logWrite_inv h) fun _ _ => ends_bind (logWrite_inv h) fun _ ht => logWrite_inv ht
  split
  · next e => exact leaves_next ((hd.ok e).congr rfl rfl)
  · next e => exact leaves_next (hd.error e)
  · exact leaves_next h

theorem execFusesvnWrite_inv (h : s.Inv) : Leaves (execFusesvnWrite s) :=
  regEvent_inv h fun _ _ ht => inv_ite ht (ht.congr rfl rfl)

theorem execKeyLoad_inv (h : s.Inv) : Leaves (execKeyLoad s) := by
  unfold execKeyLoad
  refine regEvent_inv h fun _ _ ht => ?_
  exact inv_ite (setTower_inv ht) (loadKey_inv (setTower_inv ht))

theorem execShootDown_inv (h : s.Inv) : Leaves (execShootDown s) := by
  unfold execShootDown
  refine regEvent_inv h fun _ _ ht => ?_
  exact inv_ite ht (inv_ite (setTower_inv (shoot_inv (setTower_inv ht))) (setTower_inv ht))

theorem execDutyWrite_inv (h : s.Inv) : Leaves (execDutyWrite s) :=
  regEvent_inv h fun _ _ ht => inv_ite ht (ht.congr rfl rfl)

theorem execContextEnable_inv (h : s.Inv) : Leaves (execContextEnable s) := by
  unfold execContextEnable
  refine regEvent_inv h fun _ _ ht => ?_
  exact setCtx_inv ht

theorem execLaunchDoorbell_inv (h : s.Inv) : Leaves (execLaunchDoorbell s) := by
  refine leaves_ite (leaves_next h) (regEvent_inv h fun t v ht => ?_)
  exact inv_ite (setCtx_inv ht) (record_inv (setCtx_inv ht) _)

theorem execCrheadWrite_inv (h : s.Inv) : Leaves (execCrheadWrite s) := by
  unfold execCrheadWrite
  refine regEvent_inv h fun _ _ ht => ?_
  exact setCtx_inv ht

theorem execCompletionRingRetarget_inv (h : s.Inv) : Leaves (execCompletionRingRetarget s) := by
  unfold execCompletionRingRetarget
  refine regEvent_inv h fun _ _ ht => ?_
  exact setCtx_inv ht

theorem execFrheadWrite_inv (h : s.Inv) : Leaves (execFrheadWrite s) := regEvent_inv h fun _ _ ht => ht.congr rfl rfl

theorem execFaultAnswer_inv (h : s.Inv) : Leaves (execFaultAnswer s) := by
  refine leaves_ite (leaves_next h) (regEvent_inv h fun t v ht => ?_)
  split
  · exact ht
  · dsimp only
    split
    · exact ht
    · split
      · exact endPageFault_inv ht
      · split
        · exact growLighters_inv (ht.congr rfl rfl)
        · exact ht.congr rfl rfl

theorem execCslLoadCommand_inv (h : s.Inv) : Leaves (execCslLoadCommand s) :=
  regEvent_inv h fun _ _ ht => inv_ite ht (setChan_inv ht)
theorem execRegisterWrite_inv (h : s.Inv) : Leaves (execRegisterWrite s) :=
  leaves_ite (leaves_next h) (regEvent_inv h fun _ _ ht => regWrite_inv ht)
theorem execLogheadWrite_inv (h : s.Inv) : Leaves (execLogheadWrite s) := regEvent_inv h fun _ _ ht => ht.congr rfl rfl

theorem execLighterFetchBack_inv (h : s.Inv) : Leaves (execLighterFetchBack s) := by
  unfold execLighterFetchBack
  dsimp only
  split
  · split
    · refine leaves_ite (leaves_next h) ?_
      split
      · next e => exact leaves_next ((lighterRead_inv h).error e)
      · exact leaves_next (setCtx_inv (setManifest_inv h))
    · exact leaves_next h
  · exact leaves_next h

theorem execCompletionRecordWrite_inv (h : s.Inv) : Leaves (execCompletionRecordWrite s) := by
  unfold execCompletionRecordWrite
  extract_lets k c
  split
  · exact leaves_next h
  · refine leaves_ite (leaves_next h) ?_
    extract_lets
    split
    · exact leaves_next (setCtx_inv (pageFault_inv h))
    · exact leaves_next (wakeAt_inv h)
    · exact leaves_next (setCtx_inv (holdOff_inv h))
    · split
      · next e => exact leaves_next ((moduleWrite_inv h).error e)
      · next e =>
        extract_lets u v
        have hv : v.Inv := setCtx_inv (clearPoison_inv (writeAs_inv (wakeAt_inv ((moduleWrite_inv h).ok e))))
        exact leaves_next (inv_ite (interrupt_inv hv) hv)

theorem execFrameWrite_inv (h : s.Inv) : Leaves (execFrameWrite s) := by
  unfold execFrameWrite
  extract_lets c mine fine resume
  have hr : resume.Inv := mapCrew_inv (setCrew_inv (holdOff_inv h))
  refine leaves_ite (leaves_next h) (leaves_ite (leaves_next hr) (leaves_ite ?_ (leaves_next h)))
  split
  · next e => exact leaves_next (frameWaits_inv h _ e)
  · next e => exact leaves_next (saveCrew_inv h _ e)
  · exact leaves_next hr

theorem execCrewSuspend_inv (h : s.Inv) : Leaves (execCrewSuspend s) := by
  unfold execCrewSuspend
  extract_lets c mine t
  have ht : t.Inv := inv_foldl (fun _ _ ht => withdraw_inv ht) (setCrew_inv h)
  clear_value t
  refine leaves_ite (leaves_next h) (leaves_ite (leaves_next (setCrew_inv (holdOff_inv h))) (leaves_ite (leaves_next ?_)
    (leaves_next ht)))
  exact getD_inv (frameWaits_inv ht) (getD_inv (saveCrew_inv ht) ht)

theorem execCrewResume_inv (h : s.Inv) : Leaves (execCrewResume s) := by
  refine leaves_ite (leaves_next h) ?_
  split
  · next e => exact leaves_next ((frameRead_inv h).error e)
  · exact leaves_next (resumeCrew_inv h)

theorem execFaultRecordPost_inv (h : s.Inv) : Leaves (execFaultRecordPost s) := by
  unfold execFaultRecordPost
  split
  · exact leaves_next h
  · refine leaves_ite (leaves_ite (leaves_next h) ?_) (leaves_ite (leaves_next h) ?_)
    · split
      · next e => exact leaves_next (((logWrite_inv h).ok e).congr rfl rfl)
      · next e => exact leaves_next ((logWrite_inv h).error e)
    · split
      · next e => exact leaves_next ((moduleWrite_inv h).error e)
      · next e => exact leaves_next (State.Inv.congr (writeAt_inv ((moduleWrite_inv h).ok e) ..) rfl rfl)

theorem execHostMemWrite_inv (h : s.Inv) : Leaves (execHostMemWrite s) := by
  unfold execHostMemWrite
  split
  · exact leaves_next h
  · refine leaves_ite (leaves_next h) (leaves_next (homeStrong_inv ?_))
    exact h.congr rfl rfl

theorem execHostSnoop_inv (h : s.Inv) : Leaves (execHostSnoop s) := by
  unfold execHostSnoop
  extract_lets line p _ t u
  have ht : t.Inv := h.congr rfl rfl
  have hu : u.Inv := inv_ite ht (writeAs_inv ht)
  exact leaves_ite (leaves_next h) (leaves_ite (leaves_next (holdOn_inv h)) (leaves_next (hu.congr rfl rfl)))

theorem execDramLayerTrip_inv (h : s.Inv) : Leaves (execDramLayerTrip s) := by
  have hf {l : List Nat} {t u : State} (ht : t.Inv) (e : l.foldlM (fun (u : State) k =>
      u.tripChan k) t = some u) : u.Inv := by
    induction l generalizing t with
    | nil => cases e; exact ht
    | cons k l ih =>
      rw [List.foldlM_cons] at e
      obtain ⟨v, hv, e⟩ := Option.bind_eq_some_iff.mp e
      exact ih (tripChan_inv ht v hv) e
  refine leaves_ite (leaves_next h) ?_
  split
  · next e => exact leaves_next (setTower_inv ((hf h e).congr rfl rfl))
  · exact leaves_next h

theorem execDramLayerReturn_inv (h : s.Inv) : Leaves (execDramLayerReturn s) := by
  unfold execDramLayerReturn
  refine leaves_ite (leaves_next h) ?_
  extract_lets lines u v w
  have hu : u.Inv := h.congr rfl rfl
  have hw : w.Inv := inv_foldl (fun _ _ ht => returnChan_inv ht) (setTower_inv hu)
  exact leaves_next (serveRecorded_inv (s := { w with inflight := _ }) (hw.congr rfl rfl))

theorem execMatrixProductExec_inv (h : s.Inv) : Leaves (execMatrixProductExec s) :=
  leaves_next (commandTurn_inv h fun _ _ => productTurn_inv h)

theorem execMzeroExec_inv (h : s.Inv) : Leaves (execMzeroExec s) := by
  refine leaves_next (matrixTurn_inv h fun t q c ht => ?_)
  split
  · exact ends_ok (setAcc_inv ht)
  · exact ends_error trivial

theorem execMldExec_inv (h : s.Inv) : Leaves (execMldExec s) := by
  refine leaves_next (matrixTurn_inv h fun t q c ht => ?_)
  split
  · exact mldCommand_inv ht
  · exact ends_error trivial

theorem execMstExec_inv (h : s.Inv) : Leaves (execMstExec s) := by
  refine leaves_next (matrixTurn_inv h fun t q c ht => ?_)
  split
  · exact mstCommand_inv ht
  · exact ends_error trivial

theorem execMbarArrive_inv (h : s.Inv) : Leaves (execMbarArrive s) := leaves_next (matrixTurn_inv h fun _ _ _ ht =>
    ends_ok ht)
theorem execMtrExec_inv (h : s.Inv) : Leaves (execMtrExec s) := leaves_next (matrixTurn_inv h fun _ _ _ ht =>
    mtrCommand_inv ht)

theorem execMrowExec_inv (h : s.Inv) : Leaves (execMrowExec s) := by
  refine leaves_next (matrixTurn_inv h fun t q c ht => ?_)
  split
  · exact ends_ok (fillNow_inv ht)
  · exact ends_error trivial

theorem execMsclExec_inv (h : s.Inv) : Leaves (execMsclExec s) :=
  leaves_next (matrixTurn_inv h fun _ _ _ ht => ends_ok (setAcc_inv ht))

theorem execMaccExec_inv (h : s.Inv) : Leaves (execMaccExec s) := by
  refine leaves_next (matrixTurn_inv h fun t q c ht => ?_)
  split
  · exact ends_ok (setAcc_inv ht)
  · exact ends_error trivial

theorem execMcvtExec_inv (h : s.Inv) : Leaves (execMcvtExec s) := by
  refine leaves_next (matrixTurn_inv h fun t q c ht => ?_)
  split
  · exact mcvtCommand_inv ht
  · exact ends_error trivial

theorem execCopyExec_inv (h : s.Inv) : Leaves (execCopyExec s) := leaves_next (craneTurn_inv h fun _ _ =>
    moveData_inv h)
theorem execFillExec_inv (h : s.Inv) : Leaves (execFillExec s) := leaves_next (craneTurn_inv h fun _ _ =>
    moveData_inv h)
theorem execCornerTurnExec_inv (h : s.Inv) : Leaves (execCornerTurnExec s) :=
  leaves_next (craneTurn_inv h fun _ _ => cornerTurn_inv h)
theorem execRingCopyExec_inv (h : s.Inv) : Leaves (execRingCopyExec s) := leaves_next (craneTurn_inv h fun _ _ =>
    ringCopy_inv h)
theorem execCraneWaitDone_inv (h : s.Inv) : Leaves (execCraneWaitDone s) :=
  leaves_next (craneTurn_inv h fun _ _ => ends_ite (ends_ok (record_inv h _)) (ends_error trivial))
theorem execPublishCommandExec_inv (h : s.Inv) : Leaves (execPublishCommandExec s) :=
  leaves_next (commandTurn_inv h fun _ _ => finishCommand_inv h (publishCommand_inv h))

theorem execBeadEntryRun_inv (h : s.Inv) : Leaves (execBeadEntryRun s) := by
  unfold execBeadEntryRun
  dsimp only
  split
  · refine leaves_ite ?_ (leaves_next h)
    split
    · next e => exact leaves_next ((startEntry_inv h).ok e)
    · exact leaves_next (beadEnd_inv h)
  · exact leaves_next h

theorem rowMicro_inv {op} (h : s.Inv) :
    Leaves (.next (s.microTurn op s.rowWord)) := leaves_next (microTurn_inv h fun _ _ _ => rowWord_inv h)
theorem execRepWord_inv (h : s.Inv) : Leaves (execRepWord s) := leaves_next (microTurn_inv h fun _ _ _ =>
    repeatWord_inv h)
theorem execBrfWord_inv (h : s.Inv) : Leaves (execBrfWord s) := leaves_next (microTurn_inv h fun _ _ _ =>
    branchWord_inv h)
theorem execWaitWord_inv (h : s.Inv) : Leaves (execWaitWord s) := leaves_next (microTurn_inv h fun _ _ _ =>
    setChan_inv h)
theorem execEndWord_inv (h : s.Inv) : Leaves (execEndWord s) := leaves_next (microTurn_inv h fun _ _ _ =>
    finishWord_inv h)

theorem execBlockExec_inv (h : s.Inv) : Leaves (execBlockExec s) := by
  refine leaves_next (beadTurn_inv h fun k c => ?_)
  dsimp only
  split
  · exact ends_error trivial
  · exact ends_ok (inv_foldl (fun _ _ ht => setLock_inv ht) h)

theorem execBunlkExec_inv (h : s.Inv) : Leaves (execBunlkExec s) :=
  leaves_next (beadTurn_inv h fun _ _ => ends_ok (inv_foldl (fun _ _ ht => setLock_inv ht) h))

theorem execBsealExec_inv (h : s.Inv) : Leaves (execBsealExec s) := by
  refine leaves_next (beadTurn_inv h fun k c => ?_)
  dsimp only
  split
  · exact ends_error trivial
  · exact ends_ok (setRows_inv (wakeBank_inv h))

theorem execBcslExec_inv (h : s.Inv) : Leaves (execBcslExec s) := leaves_next (beadTurn_inv h fun _ _ =>
    ends_ok (setChan_inv h))

theorem execBmodeExec_inv (h : s.Inv) : Leaves (execBmodeExec s) :=
  leaves_next (beadTurn_inv h fun _ _ =>
      ends_ite (ends_error trivial) (ends_ok (setChan_inv (inv_ite h (wakeBank_inv h)))))

theorem execBpartExec_inv (h : s.Inv) : Leaves (execBpartExec s) := by
  refine leaves_next (beadTurn_inv h fun _ _ => ends_ite (ends_error trivial) (ends_ok ?_))
  exact State.Inv.congr (clearSub_inv (wakeBank_inv h) ..) rfl rfl

theorem execBscrubExec_inv (h : s.Inv) : Leaves (execBscrubExec s) :=
  leaves_next (beadTurn_inv h fun _ _ =>
      ends_ite (ends_ok (machineCheck_inv (setRowState_inv (wakeBank_inv h)))) (ends_ok (wakeBank_inv h)))

theorem execDataReturn_inv (h : s.Inv) : Leaves (execDataReturn s) := by
  unfold execDataReturn
  split
  · split
    · split
      · next e => exact leaves_next ((frameReady_inv h).error e)
      · exact leaves_next (refreshFrame_inv (h.congr rfl rfl))
    · exact leaves_next h
  · exact leaves_next h

theorem exec_inv {i : Instr} (h : s.Inv) : Leaves (exec i s) := by
  cases i with
  | prefixedPair _ _ => exact finish_inv h (paired_inv h)
  | cMv _ => exact finish_inv h (binary_inv h)
  | cAdd _ => exact finish_inv h (binary_inv h)
  | cSub _ => exact finish_inv h (binary_inv h)
  | cAnd _ => exact finish_inv h (binary_inv h)
  | cOr _ => exact finish_inv h (binary_inv h)
  | cXor _ => exact finish_inv h (binary_inv h)
  | cLds _ => exact finish_inv h (load_inv h)
  | cSts _ => exact finish_inv h (store_inv h)
  | cAddi _ => exact finish_inv h (immediate_inv h)
  | cLi _ => exact finish_inv h (immediate_inv h)
  | cShli _ => exact finish_inv h (immediate_inv h)
  | cShri _ => exact finish_inv h (immediate_inv h)
  | cBeqz _ => exact finish_inv h (br_inv h)
  | cBnez _ => exact finish_inv h (br_inv h)
  | cBrb _ => exact finish_inv h (brb_inv h)
  | cJmp _ => exact finish_inv h (ends_ok (mapSelf_inv h _))
  | cJr _ => exact finish_inv h (jr_inv h)
  | cNop _ => exact finish_inv h (ends_ok (advance_inv h _))
  | cYield _ => exact finish_inv h (ends_ok (yieldPoint_inv h))
  | cLidx _ => exact finish_inv h (lidx_inv h)
  | add _ => exact finish_inv h (binary_inv h)
  | sub _ => exact finish_inv h (binary_inv h)
  | addi _ => exact finish_inv h (immediate_inv h)
  | andR _ => exact finish_inv h (binary_inv h)
  | orR _ => exact finish_inv h (binary_inv h)
  | xorR _ => exact finish_inv h (binary_inv h)
  | logi _ => exact finish_inv h (immediate_inv h)
  | shl _ => exact finish_inv h (binary_inv h)
  | shr _ => exact finish_inv h (binary_inv h)
  | sar _ => exact finish_inv h (binary_inv h)
  | shi _ => exact finish_inv h (immediate_inv h)
  | mul _ => exact finish_inv h (binary_inv h)
  | mulh _ => exact finish_inv h (binary_inv h)
  | div _ => exact finish_inv h (binary_inv h)
  | rem _ => exact finish_inv h (binary_inv h)
  | minmax _ => exact finish_inv h (binary_inv h)
  | cmp _ => exact finish_inv h (binary_inv h)
  | sel _ => exact finish_inv h (select_inv h)
  | lui _ => exact finish_inv h (result_inv h)
  | addpc _ => exact finish_inv h (result_inv h)
  | fops _ => exact finish_inv h (binary_inv h)
  | ffma _ => exact finish_inv h (scalarFma_inv h)
  | fcmp _ => exact finish_inv h (binary_inv h)
  | fcvt _ => exact finish_inv h (fcvt_inv h)
  | br _ => exact finish_inv h (br_inv h)
  | brb _ => exact finish_inv h (brb_inv h)
  | jmp _ => exact finish_inv h (ends_ok (mapSelf_inv h _))
  | jal _ => exact finish_inv h (jal_inv h)
  | jr _ => exact finish_inv h (jr_inv h)
  | loopR _ => exact finish_inv h (loop_inv h)
  | loopi _ => exact finish_inv h (loopi_inv h)
  | lexit _ => exact finish_inv h (lexit_inv h)
  | lidx _ => exact finish_inv h (lidx_inv h)
  | fe _ => exact finish_inv h (fe_inv h)
  | getc _ => exact finish_inv h (getc_inv h)
  | setc _ => exact finish_inv h (setc_inv h)
  | trap _ => exact finish_inv h (ends_ok (enter_inv h))
  | tret _ => exact finish_inv h (tret_inv h)
  | sys _ => exact finish_inv h (sys_inv h)
  | brk _ => exact finish_inv h (ends_ok (enter_inv h))
  | ldS _ => exact finish_inv h (load_inv h)
  | stS _ => exact finish_inv h (store_inv h)
  | ldC _ => exact finish_inv h (load_inv h)
  | stC _ => exact finish_inv h (store_inv h)
  | ldT _ => exact finish_inv h (load_inv h)
  | stT _ => exact finish_inv h (store_inv h)
  | ldG _ => exact finish_inv h (load_inv h)
  | stG _ => exact finish_inv h (store_inv h)
  | ldq _ => exact finish_inv h (loadQ_inv h)
  | stq _ => exact finish_inv h (storeQ_inv h)
  | ldfe _ => exact finish_inv h (takeWord_inv h)
  | stfe _ => exact finish_inv h (putWord_inv h)
  | fefill _ => exact finish_inv h (fefill_inv h)
  | ldfeC _ => exact finish_inv h (takeWord_inv h)
  | stfeC _ => exact finish_inv h (putWord_inv h)
  | fence _ => exact execFence_inv h
  | xch _ => exact finish_inv h (exchange_inv h)
  | rgclaim _ => exact finish_inv h (ringSlot_inv h)
  | rgpost _ => exact finish_inv h (ringMove_inv h)
  | rgtake _ => exact finish_inv h (ringSlot_inv h)
  | rgfree _ => exact finish_inv h (ringMove_inv h)
  | rginit _ => exact finish_inv h (rginit_inv h)
  | pref _ => exact finish_inv h (prefetch_inv h)
  | tsplit _ => exact finish_inv h (tsplit_inv h)
  | casS _ => exact finish_inv h (casLocal_inv h)
  | amoS _ => exact finish_inv h (amoLocal_inv h)
  | leaseq _ => exact finish_inv h (leaseq_inv h)
  | wfull _ => exact finish_inv h (waitFull_inv h)
  | cpub _ => exact finish_inv h (cpub_inv h)
  | cpubq _ => exact finish_inv h (cpubq_inv h)
  | ifence _ => exact finish_inv h (ifence_inv h)
  | ipatch _ => exact finish_inv h (ipatch_inv h)
  | spawn _ => exact finish_inv h (spawnCommon_inv h)
  | spawnw _ => exact finish_inv h (spawnCommon_inv h)
  | yield _ => exact finish_inv h (ends_ok (yieldPoint_inv h))
  | retire _ => exact finish_inv h (retire_inv h)
  | cbar _ => exact finish_inv h (cbar_inv h)
  | cbarq _ => exact finish_inv h (cbarq_inv h)
  | wseq _ => exact finish_inv h (wseq_inv h)
  | abort _ => exact finish_inv h (abort_inv h)
  | vlong _ => exact finish_inv h (vlong_inv h)
  | vshort _ => exact finish_inv h (vshort_inv h)
  | setvl _ => exact finish_inv h (setvl_inv h)
  | mset _ => exact finish_inv h (mset_inv h)
  | mpop _ => exact finish_inv h (mpop_inv h)
  | vxch _ => exact finish_inv h (vxch_inv h)
  | vidx _ => exact finish_inv h (vidx_inv h)
  | vld _ => exact finish_inv h (ends_bind (unitAddr_inv h) fun _ _ => vload_inv h)
  | vst _ => exact finish_inv h (ends_bind (unitAddr_inv h) fun _ _ => vstore_inv h)
  | vlds _ => exact finish_inv h (ends_bind (strideAddr_inv h) fun _ _ => vload_inv h)
  | vsts _ => exact finish_inv h (ends_bind (strideAddr_inv h) fun _ _ => vstore_inv h)
  | vldx _ => exact finish_inv h (ends_bind (indexAddr_inv h) fun _ _ => vload_inv h)
  | vstx _ => exact finish_inv h (ends_bind (indexAddr_inv h) fun _ _ => vstore_inv h)
  | vadd _ => exact finish_inv h (vadd_inv h)
  | vsub _ => exact finish_inv h (vsub_inv h)
  | vmul _ => exact finish_inv h (vmul_inv h)
  | vmulhI _ => exact finish_inv h (vmulh_inv h)
  | vmulhN _ => exact finish_inv h (vmulh_inv h)
  | vfma _ => exact finish_inv h (vfma_inv h)
  | vdiv _ => exact finish_inv h (vdiv_inv h)
  | vdivN _ => exact finish_inv h (vdivN_inv h)
  | vmin _ => exact finish_inv h (vminmax_inv h)
  | vminN _ => exact finish_inv h (vminmax_inv h)
  | vmax _ => exact finish_inv h (vminmax_inv h)
  | vmaxN _ => exact finish_inv h (vminmax_inv h)
  | vand _ => exact finish_inv h (vlogic_inv h)
  | vor _ => exact finish_inv h (vlogic_inv h)
  | vxor _ => exact finish_inv h (vlogic_inv h)
  | vandn _ => exact finish_inv h (vlogic_inv h)
  | vorn _ => exact finish_inv h (vlogic_inv h)
  | vxnor _ => exact finish_inv h (vlogic_inv h)
  | vshl _ => exact finish_inv h (vshift_inv h)
  | vshr _ => exact finish_inv h (vshift_inv h)
  | vsar _ => exact finish_inv h (vshift_inv h)
  | vcmp _ => exact finish_inv h (vcmp_inv h)
  | vsel _ => exact finish_inv h (vsel_inv h)
  | vmov _ => exact finish_inv h (vmov_inv h)
  | vabs _ => exact finish_inv h (vsign_inv h)
  | vneg _ => exact finish_inv h (vsign_inv h)
  | vexp2 _ => exact finish_inv h (vfunc_inv h)
  | vlog2 _ => exact finish_inv h (vfunc_inv h)
  | vrecip _ => exact finish_inv h (vfunc_inv h)
  | vsqrt _ => exact finish_inv h (vfunc_inv h)
  | vrsqrt _ => exact finish_inv h (vfunc_inv h)
  | vact _ => exact finish_inv h (vfunc_inv h)
  | vperm _ => exact finish_inv h (vperm_inv h)
  | vslide _ => exact finish_inv h (vslide_inv h)
  | vcompress _ => exact finish_inv h (vcompress_inv h)
  | vexpand _ => exact finish_inv h (vexpand_inv h)
  | vredsum _ => exact finish_inv h (vredsum_inv h)
  | vredsumO _ => exact finish_inv h (vredsum_inv h)
  | vredmm _ => exact finish_inv h (vredmm_inv h)
  | vscan _ => exact finish_inv h (vscan_inv h)
  | vsortkv _ => exact finish_inv h (vsortkv_inv h)
  | vsegred _ => exact finish_inv h (vsegred_inv h)
  | amoG _ => exact finish_inv h (amoHome_inv h)
  | casG _ => exact finish_inv h (casHome_inv h)
  | redG _ => exact finish_inv h (redHome_inv h)
  | fredG _ => exact finish_inv h (fredHome_inv h)
  | famoG _ => exact finish_inv h (famoHome_inv h)
  | vredG _ => exact finish_inv h (scatter_inv h)
  | vfredG _ => exact finish_inv h (scatter_inv h)
  | rfence _ => exact finish_inv h (rfence_inv h)
  | rgrain _ => exact finish_inv h (rgrain_inv h)
  | rdrop _ => exact finish_inv h (rdrop_inv h)
  | gflush _ => exact finish_inv h (gflush_inv h)
  | gquery _ => exact finish_inv h (gquery_inv h)
  | seed _ => exact finish_inv h (seedSet_inv h)
  | seedq _ => exact finish_inv h (result_inv h)
  | srseed _ => exact finish_inv h (srseed_inv h)
  | rtag _ => exact finish_inv h (rtag_inv h)
  | cvtn _ => exact finish_inv h (cvtn_inv h)
  | cvtnF _ => exact finish_inv h (cvtnF_inv h)
  | cvtw _ => exact finish_inv h (cvtw_inv h)
  | cvtwF _ => exact finish_inv h (cvtwF_inv h)
  | qscale _ => exact finish_inv h (qscale_inv h)
  | rotv _ => exact finish_inv h (rotv_inv h)
  | unrotv _ => exact finish_inv h (rotv_inv h)
  | cvti _ => exact finish_inv h (cvti_inv h)
  | mzero _ => exact finish_inv h (matrixIssue_inv h)
  | mld _ => exact finish_inv h (matrixOne_inv h)
  | mst _ => exact finish_inv h (matrixOne_inv h)
  | mbar _ => exact finish_inv h (mbar_inv h)
  | mwait _ => exact finish_inv h (mwait_inv h)
  | mtr _ => exact finish_inv h (matrixOne_inv h)
  | mrow _ => exact finish_inv h (mrow_inv h)
  | mramp _ => exact finish_inv h (mramp_inv h)
  | mtag _ => exact finish_inv h (mtag_inv h)
  | mscl _ => exact finish_inv h (mscl_inv h)
  | mma _ => exact finish_inv h (mma_inv h)
  | mmaC _ => exact finish_inv h (mmaC_inv h)
  | mmas _ => exact finish_inv h (mmas_inv h)
  | mmax _ => exact finish_inv h (mmax_inv h)
  | macc _ => exact finish_inv h (macc_inv h)
  | mcvt _ => exact finish_inv h (mcvt_inv h)
  | crn _ => exact finish_inv h (craneIssue_inv h)
  | crnF _ => exact finish_inv h (crnF_inv h)
  | crnT _ => exact finish_inv h (craneIssue_inv h)
  | crnR _ => exact finish_inv h (crnR_inv h)
  | crnq _ => exact finish_inv h (crnq_inv h)
  | crnw _ => exact finish_inv h (crnw_inv h)
  | crnX _ => exact finish_inv h (crnX_inv h)
  | crnC _ => exact finish_inv h (craneIssue_inv h)
  | ldB _ => exact finish_inv h (ldB_inv h)
  | stB _ => exact finish_inv h (stB_inv h)
  | bcall _ => exact finish_inv h (bcall_inv h)
  | bfence _ => exact finish_inv h (bfence_inv h)
  | block _ => exact finish_inv h (runIssue_inv h)
  | bunlk _ => exact finish_inv h (runIssue_inv h)
  | bseal _ => exact finish_inv h (runIssue_inv h)
  | bstat _ => exact finish_inv h (bstat_inv h)
  | bcsl _ => exact finish_inv h (bcsl_inv h)
  | bsave _ => exact finish_inv h (bsave_inv h)
  | brest _ => exact finish_inv h (brest_inv h)
  | bwdog _ => exact finish_inv h (bwdog_inv h)
  | bmode _ => exact finish_inv h (bmode_inv h)
  | bpart _ => exact finish_inv h (bpart_inv h)
  | bscrub _ => exact finish_inv h (runIssue_inv h)
  | moduleReset => exact execModuleReset_inv
  | resetRelease => exact execResetRelease_inv h
  | towerStart => exact execTowerStart_inv h
  | bootLaunchStart => exact execBootLaunchStart_inv h
  | doeAttestRequest => exact leaves_next (inv_ite h (h.congr rfl rfl))
  | doeCertChain => exact leaves_next (inv_ite h (h.congr rfl rfl))
  | doeImageChunk =>
      exact leaves_ite (leaves_next h) (leaves_ite (leaves_next (h.congr rfl rfl))
      (leaves_next (doeAnswer_inv (inv_foldl (fun _ _ ht => (putAt_inv ht ..).congr rfl rfl) h))))
  | doeImageDone =>
      exact leaves_ite (leaves_next h) (leaves_ite (leaves_next (h.congr rfl rfl))
      (leaves_next ((verifyImage_inv h).congr rfl rfl)))
  | readyWrite => exact execReadyWrite_inv h
  | attestStart => exact execAttestStart_inv h
  | attestReportDone => exact execAttestReportDone_inv h
  | fusesvnWrite => exact execFusesvnWrite_inv h
  | keyLoad => exact execKeyLoad_inv h
  | shootDown => exact execShootDown_inv h
  | shootDownDone => exact execShootDownDone_inv h
  | migration => exact execMigration_inv h
  | dutyWrite => exact execDutyWrite_inv h
  | contextEnable => exact execContextEnable_inv h
  | launchDoorbell => exact execLaunchDoorbell_inv h
  | crheadWrite => exact execCrheadWrite_inv h
  | completionRingRetarget => exact execCompletionRingRetarget_inv h
  | frheadWrite => exact execFrheadWrite_inv h
  | faultAnswer => exact execFaultAnswer_inv h
  | cslLoadCommand => exact execCslLoadCommand_inv h
  | registerWrite => exact execRegisterWrite_inv h
  | launchFetch => exact execLaunchFetch_inv h
  | manifestAdmit => exact execManifestAdmit_inv h
  | manifestReady => exact execManifestReady_inv h
  | iterationPlace => exact execIterationPlace_inv h
  | lighterFetchBack => exact execLighterFetchBack_inv h
  | completionRecordWrite => exact execCompletionRecordWrite_inv h
  | agingTick => exact execAgingTick_inv h
  | preemptRequest => exact leaves_next (askStop_inv h)
  | strandStop => exact execStrandStop_inv h
  | frameWrite => exact execFrameWrite_inv h
  | crewSuspend => exact execCrewSuspend_inv h
  | crewResume => exact execCrewResume_inv h
  | launchEnd => exact execLaunchEnd_inv h
  | preemptLimit => exact leaves_next (raise_inv h)
  | fullEmptyWake => exact leaves_next (h.congr rfl rfl)
  | barrierWake => exact leaves_next (h.congr rfl rfl)
  | vectorCapacityGrant => exact execVectorCapacityGrant_inv h
  | tideTick => exact leaves_next (inv_ite (growLighters_inv (payChains_inv (repinned_inv (h.congr rfl rfl)))) h)
  | leaseExpiry => exact execLeaseExpiry_inv h
  | homeReadRequest => exact execHomeReadRequest_inv h
  | homeWeakStore => exact execHomeWeakStore_inv h
  | homeStrongWrite => exact execHomeStrongWrite_inv h
  | homeAtomic => exact execHomeAtomic_inv h
  | lineFillDone => exact execLineFillDone_inv h
  | pageWalk => exact execPageWalk_inv h
  | hwFaultResolve => exact execHwFaultResolve_inv h
  | faultRecordPost => exact execFaultRecordPost_inv h
  | hostMemRead => exact execHostMemRead_inv h
  | hostMemWrite => exact execHostMemWrite_inv h
  | hostSnoop => exact execHostSnoop_inv h
  | cxlPortTrain => exact leaves_next (h.congr rfl rfl)
  | powerCapExceed => exact leaves_next (h.congr rfl rfl)
  | thermalWarning => exact leaves_next (h.congr rfl rfl)
  | laneDieTrip => exact leaves_next ((endCrewsIn_inv h).congr rfl rfl)
  | laneDieRestart => exact leaves_next (h.congr rfl rfl)
  | rcDieTrip => exact leaves_next (towerTrip_inv h)
  | baseDieTrip => exact leaves_next (towerTrip_inv h)
  | dramLayerTrip => exact execDramLayerTrip_inv h
  | dramLayerReturn => exact execDramLayerReturn_inv h
  | outerMemoryTrip => exact leaves_next (inv_ite h (h.congr rfl rfl))
  | ioChipletTrip => exact leaves_next (h.congr rfl rfl)
  | dramUe =>
      exact leaves_ite (leaves_next h) (leaves_ite (leaves_next (inv_ite (h.congr rfl rfl) h))
      (leaves_next (checkStrand_inv (h.congr rfl rfl))))
  | sramUe => exact execSramUe_inv h
  | cacheParityError => exact execCacheParityError_inv h
  | linkFail => exact leaves_next (checkStrand_inv h)
  | patrolScrub => exact leaves_ite (leaves_next h) (leaves_next (h.congr rfl rfl))
  | matrixGrant => exact execMatrixGrant_inv h
  | matrixReleaseRequest => exact leaves_next (inv_ite (h.congr rfl rfl) h)
  | matrixRelease => exact execMatrixRelease_inv h
  | matrixProductExec => exact execMatrixProductExec_inv h
  | mzeroExec => exact execMzeroExec_inv h
  | mldExec => exact execMldExec_inv h
  | mstExec => exact execMstExec_inv h
  | mbarArrive => exact execMbarArrive_inv h
  | mtrExec => exact execMtrExec_inv h
  | mrowExec => exact execMrowExec_inv h
  | msclExec => exact execMsclExec_inv h
  | maccExec => exact execMaccExec_inv h
  | mcvtExec => exact execMcvtExec_inv h
  | copyExec => exact execCopyExec_inv h
  | fillExec => exact execFillExec_inv h
  | cornerTurnExec => exact execCornerTurnExec_inv h
  | ringCopyExec => exact execRingCopyExec_inv h
  | craneWaitDone => exact execCraneWaitDone_inv h
  | publishCommandExec => exact execPublishCommandExec_inv h
  | beadEntryRun => exact execBeadEntryRun_inv h
  | actWord => exact rowMicro_inv h
  | aapWord => exact rowMicro_inv h
  | traWord => exact rowMicro_inv h
  | cslWord => exact rowMicro_inv h
  | csrWord => exact rowMicro_inv h
  | repWord => exact execRepWord_inv h
  | brfWord => exact execBrfWord_inv h
  | waitWord => exact execWaitWord_inv h
  | endWord => exact execEndWord_inv h
  | beadRefresh => exact leaves_next h
  | beadWatchdogExpire => exact execBeadWatchdogExpire_inv h
  | bankPowerDown => exact leaves_next (inv_ite (bankDown_inv h) h)
  | blockExec => exact execBlockExec_inv h
  | bunlkExec => exact execBunlkExec_inv h
  | bsealExec => exact execBsealExec_inv h
  | bcslExec => exact execBcslExec_inv h
  | bmodeExec => exact execBmodeExec_inv h
  | bpartExec => exact execBpartExec_inv h
  | bscrubExec => exact execBscrubExec_inv h
  | paddingHalf => exact finish_inv h (ends_ok (advance_inv h _))
  | illOpc => exact leaves_next (raise_inv h)
  | dataReturn => exact execDataReturn_inv h
  | logheadWrite => exact execLogheadWrite_inv h
  | outerMemoryReturn => exact leaves_next (h.congr rfl rfl)

end
end Sys2Proof.Machine

/-! PROOF. Every step keeps the form of memory (O55). -/
namespace Sys2Proof.Machine

/-- Settles O55: the stronger claim that a step, whichever agent's turn it is, leaves a state of the form. -/
theorem everyStepKeepsMemoryForm : Obligations.EveryStepKeepsMemoryForm := by
  unfold Obligations.EveryStepKeepsMemoryForm
  intro s t h
  suffices hs : Leaves (step s) from hs t
  have ht : s.nextTurn.2.Inv := nextTurn_inv h
  unfold step
  generalize s.nextTurn = x at ht
  obtain ⟨turn, u⟩ := x
  cases turn with
  | cycle => exact leaves_next (coreCycle_inv ht)
  | fetchAhead slot a => exact leaves_next (aheadTurn_inv ht)
  | evict k => exact leaves_next (dropCopy_inv ht)
  | writeBack l => exact leaves_next (writeBack_inv ht)
  | publish slot line => exact leaves_next (partTurn_inv ht)
  | useReport n => exact leaves_next (useReport_inv ht)
  | hostDrop l => exact leaves_next (hostDrop_inv ht)
  | keepWalk n asid va how => exact leaves_next (keepWalk_inv ht)
  | dropWalk leaf n => exact leaves_next (dropWalk_inv ht)
  | event i args => exact leaves_ite (exec_inv (ht.congr rfl rfl)) (leaves_next ht)
  | strand slot ahead =>
    have hr := strandTurn_inv (slot := slot) (ahead := ahead) ht
    dsimp only
    split
    · exact fun _ e => nomatch e
    · next e => exact leaves_next (e ▸ hr : (Ready.over _).Inv)
    · next i len v e =>
      have hv : Leaves (exec i v) := exec_inv (e ▸ hr : (Ready.run ..).Inv)
      split
      · next w e => exact leaves_next (afterInstr_inv (hv w e))
      · exact hv

end Sys2Proof.Machine

/-! PROOF. O37: lines that arrive, page walks, results that fill registers, and tide ticks (R321, R461, R467; 01 R34; 04 R140). -/

namespace Sys2Proof.Machine
section
variable {s : State} {r : Req} {x : Trans} {l : Return} {f : InFlight}

/-! ## A line that arrives (R321) -/

theorem lineFillDone_serves (hf : s.inflight = [f]) (hl : f.lines = [s.args.unit]) (hm : f.moving = false)
    (hu : s.unreachable (128 * s.args.unit) = false) :
    exec .lineFillDone s = .next (State.serveRecorded { s.wakeAt (128 * s.args.unit) with inflight := [] } f.recorded) := by
  rw [exec_lineFillDone, execLineFillDone]
  simp [hf, hl, hm, hu]

theorem serveRecorded_one (h : s.req r.id = some r) :
    s.serveRecorded [r.id] = if r.op.isLoad then s.homeRead r .home
      else if r.op.isStore && r.kind == .weak then s.homeWeak r else s.homeStrong r := by
  simp only [State.serveRecorded, List.foldl_cons, List.foldl_nil, h]

theorem req_wakeAt (p id : Nat) : (s.wakeAt p).req id = s.req id := by
  unfold State.req
  rw [(notes_wakeAt s p).reqs]

theorem lineFillDone_serves_one (hf : s.inflight = [f]) (hl : f.lines = [s.args.unit]) (hm : f.moving = false)
    (hr : f.reqs = [r.id]) (hsp : f.spilled = []) (h : s.req r.id = some r) (hu : s.unreachable (128 * s.args.unit) = false) :
    let u : State := { s.wakeAt (128 * s.args.unit) with inflight := [] }
    exec .lineFillDone s = .next (if r.op.isLoad then u.homeRead r .home
      else if r.op.isStore && r.kind == .weak then u.homeWeak r else u.homeStrong r) := by
  intro u
  have hq : u.req r.id = some r := (req_wakeAt ..).trans h
  rw [lineFillDone_serves hf hl hm hu, InFlight.recorded, hr, hsp, List.append_nil, serveRecorded_one hq]

theorem lineFillDone_unreachable (hf : s.inflight = [f]) (hl : f.lines = [s.args.unit])
    (hu : s.unreachable (128 * s.args.unit) = true) : exec .lineFillDone s = .next s := by
  rw [exec_lineFillDone, execLineFillDone]
  simp [hf, hl, hu]

theorem lineFillDone_none (hf : s.inflight = []) : exec .lineFillDone s = .next s := by
  rw [exec_lineFillDone, execLineFillDone, hf]
  rfl

theorem not_isLoad_of_isStore {o : ReqOp} (h : o.isStore = true) : o.isLoad = false := by
  cases o with
  | store | laneStore => rfl
  | _ => cases h

theorem not_isStore_of_isRmw {o : ReqOp} (h : o.isRmw = true) : o.isLoad = false ∧ o.isStore = false := by
  simp only [ReqOp.isRmw, Bool.and_eq_true, Bool.not_eq_true'] at h
  exact h.1

/-! ## A page walk (R461, R467) -/

section Walk
variable (hs : r.space = .g) (hp : r.place = none) (hf : r.op.isFence = false) (hc : (s.crewById r.who.crew).saved = false)
include hs hp hf hc

/-- A walk whose translation the TLB keeps, of a request that is still to be translated, finds what the translation finds. -/
theorem pageWalk_translated
    (hw : s.translate (towerOfSlot (s.slotOf r.who)) r.who.asid r.who.user (if r.op.isLoad then .r else .w) r.addr = .ok x) :
    s.KeepsBytes (s.pageWalk r true) ∧ (s.pageWalk r true).self = s.self ∧ (s.pageWalk r true).reqs = s.reqs.map (fun e =>
      if e.id == r.id then { e with place := some x.place, key := x.key, pageUser := x.user,
                                    pageRead := x.read, pageFetch := x.fetch, fault := false }
      else e) := by
  obtain ⟨cs, le, rs, hl⟩ := fetches_learn s r.who.asid r.addr x.place
  simp only [State.pageWalk, hs, hp, hf, hc, hw, hl, if_true, bne_self_eq_false, Option.isSome_none, Bool.or_false,
    Bool.false_eq_true, if_false]
  split <;> exact ⟨⟨rfl, rfl, rfl, rfl, rfl, rfl⟩, rfl, rfl⟩

theorem pageWalk_fails {e : TErr}
    (hw : s.translate (towerOfSlot (s.slotOf r.who)) r.who.asid r.who.user (if r.op.isLoad then .r else .w) r.addr = .error e) :
    s.pageWalk r true = match e with
      | .absent => if r.who.ctx == bootCtx then s.reqFault r PAGE_NOT_PRESENT
        else ((s.pageFault r.who.asid r.addr (towerOfSlot (s.slotOf r.who))
          ((if r.op.isLoad then Access.r else .w).code + 32 * b2n r.who.user)).setReq r.id
            (fun r => { r with fault := true })).mapStrand r.who.crew r.who.idx
            (fun st => { st with pageWait := some r.addr, pageCode := PAGE_NOT_PRESENT })
      | .noSpace => s.reqFault r PAGE_NOT_PRESENT
      | .noncanon => s.reqFault r VA_NONCANON
      | .waits p => s.wakeAt p
      | .poisoned => s.reqFault r MC_POISON
      | .perm => s.reqFault r PAGE_PERM
      | .nox => s.reqFault r PAGE_PERM := by
  simp only [State.pageWalk, hs, hp, hf, hc, hw, if_true, bne_self_eq_false, Option.isSome_none, Bool.or_false,
    Bool.false_eq_true, if_false]
  cases e <;> rfl
end Walk

theorem exec_pageWalk_found (h : s.req s.args.unit = some r) (hk : s.args.flag = true) :
    exec .pageWalk s = .next (s.pageWalk r true) := by
  rw [exec_pageWalk, execPageWalk, h, hk]

theorem pageFault_noted (asid : BitVec 16) (a : Word) (t info : Nat) : ∃ f ∈ (s.pageFault asid a t info).pageFaults,
    f.kind = 1 ∧ f.asid = asid ∧ f.addr.toNat / 65536 = a.toNat / 65536 := by
  unfold State.pageFault
  split
  · next h =>
    obtain ⟨f, hf, hk⟩ := List.any_eq_true.mp h
    simp only [Bool.and_eq_true, beq_iff_eq] at hk
    exact ⟨f, hf, hk.1.1, hk.1.2, hk.2⟩
  · exact ⟨_, List.mem_append_right _ (List.mem_singleton_self _), rfl, rfl, rfl⟩

theorem pageFault_self (asid : BitVec 16) (a : Word) (t info : Nat) : (s.pageFault asid a t info).self = s.self := by
  unfold State.pageFault
  split <;> rfl

theorem mapStrand_self {g : Strand → Strand} {i j : Nat} (hi : i = s.self.crew) (hj : j = s.self.idx) :
    (s.mapStrand i j g).self = g s.self := by
  rw [hi, hj]
  exact if_pos (by simp)

/-- What a walk that finds no leaf comes to: the page fault is noted, and the strand that issued the access waits for the page. -/
theorem absent_waits (asid : BitVec 16) (a : Word) (t info id : Nat) {f : Req → Req} {g : Strand → Strand} {i j : Nat}
    (hi : i = s.self.crew) (hj : j = s.self.idx) :
    let u := ((s.pageFault asid a t info).setReq id f).mapStrand i j g
    s.sameMemory u ∧ u.self = g s.self ∧ ∃ f ∈ u.pageFaults, f.kind = 1 ∧ f.asid = asid ∧ f.addr.toNat / 65536 = a.toNat / 65536 := by
  have hs := pageFault_self (s := s) asid a t info
  refine ⟨?_, ?_, pageFault_noted ..⟩
  · unfold State.pageFault
    split <;> exact ⟨fun _ _ => rfl, rfl, rfl, rfl⟩
  · refine (mapStrand_self ?_ ?_).trans (congrArg g hs)
    · exact hi.trans (congrArg Strand.crew hs.symm)
    · exact hj.trans (congrArg Strand.idx hs.symm)

/-! ## A result that fills a register (01 R34) -/

theorem mapM_map_some {α : Type} (l : List α) : (l.map some).mapM (fun x => x) = some l := by
  induction l with
  | nil => rfl
  | cons a l ih => simp [ih]

theorem mapM_none_mem {α : Type} {l : List (Option α)} (h : none ∈ l) : l.mapM (fun x => x) = none := by
  induction l with
  | nil => cases h
  | cons a l ih =>
    cases a with
    | none => rfl
    | some a => simp [ih (by simpa using h)]

theorem dataReturn_fills {bs : List Byte} (h : s.returns.find? (fun e => e.id == s.args.unit) = some l)
    (hd : l.data = bs.map some) (hc : (s.crewById l.crew).saved = false) :
    exec .dataReturn s = .next { (s.mapStrand l.crew l.idx (fun st => st.fill l.dest bs)) with
      returns := s.returns.filter (fun e => e.id != l.id) } := by
  have hb : l.bytes = some bs := by rw [Return.bytes, hd, mapM_map_some]
  have hr : s.frameReady l.crew = .ok () := by
    simp only [State.frameReady, hc]
    rfl
  rw [exec_dataReturn, execDataReturn]
  simp only [h, hb, hr, State.refreshFrame]
  exact congrArg _ (if_neg (show ¬ (s.crewById l.crew).saved = true from Bool.eq_false_iff.mp hc))

theorem dataReturn_waits (h : s.returns.find? (fun e => e.id == s.args.unit) = some l) (hn : none ∈ l.data) :
    exec .dataReturn s = .next s := by
  have hb : l.bytes = none := mapM_none_mem hn
  rw [exec_dataReturn, execDataReturn]
  simp only [h, hb]

/-! ## The tide (04 R140; 12 R385) -/

/-- Every copy is one of a list, or of a tile fetch unit or a tower's L2. -/
def State.CopiesOf (s : State) (l : List Copy) : Prop :=
  ∀ c ∈ s.copies, c ∈ l ∨ (∃ k, c.holder = .tile k) ∨ ∃ k, c.holder = .tower k

theorem makeRoom_subset (h : Holder) (l : List Copy) : makeRoom h l ⊆ l := by
  unfold makeRoom
  split
  · split
    · exact List.eraseIdx_subset
    · exact List.Subset.refl _
  · exact List.Subset.refl _

theorem fitL2_copies (k : Nat) : (s.fitL2 k).copies ⊆ s.copies := by
  unfold State.fitL2
  split
  · exact List.Subset.refl _
  · split
    · exact List.eraseIdx_subset
    · split <;> exact List.Subset.refl _

theorem putCopy_copies (c : Copy) : ∀ e ∈ (s.putCopy c).copies, e ∈ s.copies ∨ e = c := by
  have h : ∀ e ∈ makeRoom c.holder (s.copies.filter (fun x =>
      !(x.holder == c.holder && x.line == c.line && x.asid == c.asid && x.vline == c.vline && x.unit == c.unit))) ++ [c],
      e ∈ s.copies ∨ e = c := by
    intro e he
    rcases List.mem_append.mp he with he | he
    · exact .inl (List.mem_of_mem_filter (makeRoom_subset _ _ he))
    · exact .inr (List.mem_singleton.mp he)
  intro e he
  unfold State.putCopy at he
  split at he
  · exact h e (fitL2_copies _ he)
  · exact h e he

theorem copiesOf_putCopy {m : List Copy} {c : Copy} (h : s.CopiesOf m) (hc : (∃ k, c.holder = .tile k) ∨ ∃ k, c.holder = .tower k) :
    (s.putCopy c).CopiesOf m := by
  intro e he
  rcases putCopy_copies c e he with he | rfl
  · exact h e he
  · exact .inr hc

theorem copiesOf_grant {m : List Copy} {k : Nat} (asid : BitVec 16) (va : Word) (h : s.CopiesOf m) :
    (s.grant (.tile k) asid va x).CopiesOf m := by
  have hl : (s.learn asid va x.place).CopiesOf m := by
    unfold State.learn
    split <;> exact h
  unfold State.grant
  dsimp only
  split
  · exact copiesOf_putCopy (copiesOf_putCopy hl (.inr ⟨_, rfl⟩)) (.inl ⟨_, rfl⟩)
  · exact copiesOf_putCopy hl (.inl ⟨_, rfl⟩)

theorem repin_renews {m : List Copy} (k : Nat) (h : s.CopiesOf m) : s.Fetches (s.repin k) ∧ (s.repin k).CopiesOf m := by
  refine List.foldlRecOn (motive := fun t => s.Fetches t ∧ t.CopiesOf m) _ _ ⟨.refl s, h⟩ fun t ht c _ => ?_
  obtain ⟨hf, hm⟩ := ht
  dsimp only
  split
  · exact ⟨hf.trans (fetches_grant ..), copiesOf_grant _ _ hm⟩
  · exact ⟨hf, hm⟩

theorem repinned_renews {m : List Copy} (h : s.CopiesOf m) : s.Fetches s.repinned ∧ s.repinned.CopiesOf m := by
  refine List.foldlRecOn (motive := fun t => s.Fetches t ∧ t.CopiesOf m) _ _ ⟨.refl s, h⟩ fun t ht c _ => ?_
  obtain ⟨hf, hm⟩ := ht
  obtain ⟨hg, hn⟩ := repin_renews c.1 hm
  exact ⟨hf.trans hg, hn⟩

theorem payChains_quiet (h : ∀ b ∈ s.chains, b.owed = false) : s.payChains = s := by
  have : s.chains.filter (·.owed) = [] := List.filter_eq_nil_iff.mpr fun b hb => by simp [h b hb]
  simp only [State.payChains, this, List.foldl_nil]

theorem growLighters_quiet (h : ∀ f ∈ s.pageFaults, f.kind ≠ 2 ∨ f.state ≠ 4) : s.growLighters = s := by
  have : s.pageFaults.filter (fun f => f.kind == 2 && f.state == 4) = [] :=
    List.filter_eq_nil_iff.mpr fun f hf => by
      have := h f hf
      simp only [Bool.and_eq_true, beq_iff_eq]
      tauto
  simp only [State.growLighters, this, List.foldl_nil]

theorem repinned_idle (h : ∀ e ∈ s.cores, e.2.work = 0) : s.repinned = s := by
  have : s.cores.filter (fun x => 0 < x.2.work) = [] := List.filter_eq_nil_iff.mpr fun e he => by simp [h e he]
  simp only [State.repinned, this, List.foldl_nil]

theorem tideTick_quiet (ht : s.tideOn = true) (hc : ∀ b ∈ s.chains, b.owed = false) (hf : ∀ f ∈ s.pageFaults, f.kind ≠ 2 ∨ f.state ≠ 4) :
    exec .tideTick s = .next ({ s with tide := s.tide + 1 } : State).repinned := by
  obtain ⟨hr, -⟩ := repinned_renews (s := { s with tide := s.tide + 1 }) (m := s.copies) fun c hc => .inl hc
  rw [exec_tideTick, execTideTick, if_pos ht]
  generalize ({ s with tide := s.tide + 1 } : State).repinned = t at hr
  have hc' : ∀ b ∈ t.chains, b.owed = false := by
    obtain ⟨_, _, _, rfl⟩ := hr
    exact hc
  have hf' : ∀ f ∈ t.pageFaults, f.kind ≠ 2 ∨ f.state ≠ 4 := by
    obtain ⟨_, _, _, rfl⟩ := hr
    exact hf
  rw [payChains_quiet hc', growLighters_quiet hf']

end

/-- Settles O37, event by event: the walk by what the translation finds, the tick by what each renewal of a pinned line leaves. -/
theorem fillsWalksAndReturns : Obligations.FillsWalksAndReturns := by
  unfold Obligations.FillsWalksAndReturns
  intro s r x l bs
  refine ⟨?_, ?_, ?_, ?_, ?_, ?_, ?_⟩
  · intro f hf hl hm hr hsp h hu
    have done := lineFillDone_serves_one hf hl hm hr hsp h hu
    refine ⟨fun ho => ?_, fun ho hk => ?_, fun ho => ?_⟩
    · rw [done, if_pos ho]
    · rw [done, not_isLoad_of_isStore ho, ho, hk]
      rfl
    · rcases ho with ho | ⟨ho, hk⟩
      · obtain ⟨hl, hst⟩ := not_isStore_of_isRmw ho
        rw [done, hl, hst]
        rfl
      · rw [done, not_isLoad_of_isStore ho, ho, beq_false_of_ne hk]
        rfl
  · exact fun f hf hl hu => lineFillDone_unreachable hf hl hu
  · exact lineFillDone_none
  · intro h hs hp hf hk hc t walk
    have found := exec_pageWalk_found h hk
    refine ⟨fun hw => ?_, fun hw hb hi hj => ?_, fun hw => ?_, fun hw => ?_, fun p hw => ?_, fun hw => ?_, fun hw => ?_⟩
    · obtain ⟨hb, hself, hreqs⟩ := pageWalk_translated hs hp hf hc hw
      exact ⟨_, found, hb.sameMemory, hself, hreqs⟩
    · rw [found, pageWalk_fails hs hp hf hc hw]
      exact ⟨_, congrArg _ (if_neg (by simpa using hb)), absent_waits _ _ _ _ _ hi hj⟩
    · rw [found, pageWalk_fails hs hp hf hc hw]
    · rw [found, pageWalk_fails hs hp hf hc hw]
    · rw [found, pageWalk_fails hs hp hf hc hw]
    · rw [found, pageWalk_fails hs hp hf hc hw]
    · rw [found, pageWalk_fails hs hp hf hc hw]
  · exact dataReturn_fills
  · exact dataReturn_waits
  · intro quiet
    refine ⟨fun ht hq hw => ?_, fun ht hq => ?_, fun ht => ?_⟩
    · exact (tideTick_quiet ht hq.1 hq.2).trans (congrArg _ (repinned_idle (s := { s with tide := s.tide + 1 }) hw))
    · obtain ⟨hr, hc⟩ := repinned_renews (s := { s with tide := s.tide + 1 }) (m := s.copies) fun c hc => .inl hc
      refine ⟨_, tideTick_quiet ht hq.1 hq.2, ?_⟩
      generalize ({ s with tide := s.tide + 1 } : State).repinned = t at hr hc
      obtain ⟨_, _, _, rfl⟩ := hr
      exact ⟨rfl, rfl, rfl, rfl, rfl, rfl, hc⟩
    · rw [exec_tideTick, execTideTick, ht]
      rfl

end Sys2Proof.Machine

/-! PROOF. O18: the atomics and reductions of the home slices (10 R330 to R334), and what a read-modify-write writes (R319, R324, R331, R332). -/

namespace Sys2Proof.Machine
section
variable {s : State} {f : FA} {a b c : Word} {n : Nat}

/-! ## The checks of an address (R330) -/

theorem atomicAddr_good (ha : a.toNat % n = 0) (hc : canonical a = true) (hw : inWindow a = false) : s.atomicAddr a n = .ok () := by
  simp [State.atomicAddr, ha, hc, hw]

theorem atomicAddr_misaligned (h : a.toNat % n ≠ 0) : s.atomicAddr a n = .error (.fault ALIGN a) := by
  simp [State.atomicAddr, h]

theorem atomicAddr_noncanonical (ha : a.toNat % n = 0) (hc : canonical a = false) :
    s.atomicAddr a n = .error (.fault VA_NONCANON a) := by
  simp [State.atomicAddr, ha, hc]

/-! ## The scalar forms (R330 to R332) -/

theorem amoHome_full (ha : s.source (f.a &&& 31) a) (hb : s.source f.b b) : s.amoHome f =
    (s.atomicAddr a (widthOf f) >>= fun _ => s.destFree (.g f.d.toNat) >>= fun _ =>
      .ok (((s.dropAtIssue a).issueRmw f.d (.amo f.fn.toNat (widthOf f) b) .g a none 0x80).advance 4)) := by
  rw [← baseReg_eq] at ha
  simp only [State.amoHome, srcG_full ha, srcG_full hb, except_ok_bind, except_pure]

theorem redHome_full (ha : s.source (f.a &&& 31) a) (hb : s.source f.b b) : s.redHome f =
    (s.atomicAddr a (widthOf f) >>= fun _ =>
      .ok (((s.dropAtIssue a).issue (.amo f.fn.toNat (widthOf f) b) .strong .g a none none 0x82).advance 4)) := by
  rw [← baseReg_eq] at ha
  simp only [State.redHome, srcG_full ha, srcG_full hb, except_ok_bind, except_pure]

theorem casHome_full (hn : n = if f.fn = 1 then 4 else 8) (ha : s.source f.a a) (hb : s.source f.b b) (hc : s.source f.d c) :
    s.casHome f = (s.atomicAddr a n >>= fun _ => s.destFree (.g f.d.toNat) >>= fun _ =>
      .ok (((s.dropAtIssue a).issueRmw f.d (.cas n c b) .g a none 0x81).advance 4)) := by
  have width : (if f.fn == 1 then 4 else 8) = n := by rw [hn]; simp only [beq_iff_eq]
  simp only [State.casHome, width, srcG_full ha, srcG_full hb, srcG_full hc, except_ok_bind, except_pure]

theorem fredHome_full (ha : s.source f.a a) (hb : s.source f.b b) : s.fredHome f =
    (s.atomicAddr a 4 >>= fun _ =>
      .ok (((s.dropAtIssue a).issue (.famo f.fn.toNat b) .strong .g a none none 0x83).advance 4)) := by
  simp only [State.fredHome, srcG_full ha, srcG_full hb, except_ok_bind, except_pure]

theorem famoHome_full (ha : s.source f.a a) (hb : s.source f.b b) : s.famoHome f =
    (s.atomicAddr a 4 >>= fun _ => s.destFree (.g f.d.toNat) >>= fun _ =>
      .ok (((s.dropAtIssue a).issueRmw f.d (.famo f.fn.toNat b) .g a none 0x84).advance 4)) := by
  simp only [State.famoHome, srcG_full ha, srcG_full hb, except_ok_bind, except_pure]

/-- An instruction that checks its address before anything else it does raises the fault that the check finds. -/
theorem atomic_traps {i : Instr} {r : Except Stop State} {g : Unit → Except Stop State} (hi : exec i s = finish s r)
    (h : r = (s.atomicAddr a n >>= g)) : (a.toNat % n ≠ 0 → exec i s = .next (s.raise ALIGN a)) ∧
      (a.toNat % n = 0 → canonical a = false → exec i s = .next (s.raise VA_NONCANON a)) := by
  refine ⟨fun ha => ?_, fun ha hc => ?_⟩
  · rw [hi, h, atomicAddr_misaligned ha]
    rfl
  · rw [hi, h, atomicAddr_noncanonical ha hc]
    rfl

/-- One whose address passes its checks does the rest. -/
theorem atomic_goes {i : Instr} {t : State} {r : Except Stop State} {g : Unit → Except Stop State} (hi : exec i s = finish s r)
    (h : r = (s.atomicAddr a n >>= g)) (ha : a.toNat % n = 0 ∧ canonical a = true ∧ inWindow a = false) (hg : g () = .ok t) :
    exec i s = .next t := by
  obtain ⟨hal, hcan, hwin⟩ := ha
  rw [hi, h, atomicAddr_good hal hcan hwin, except_ok_bind, hg, finish_ok]

theorem settled_goes (hd : s.settled (.g f.d.toNat)) (t : State) : (s.destFree (.g f.d.toNat) >>= fun _ => Except.ok t) = .ok t := by
  rw [destFree_settled hd, except_ok_bind]

/-! ## The vector forms (R333, R334) -/

theorem scatter_goes {v d : List Byte} {lt : List (Nat × Word × Trans)} {w : Nat} {op : Nat → ReqOp} (opc : BitVec 8)
    (ha : s.source (f.a &&& 31) a) (hv : s.sourceV f.b v) (hd : s.sourceV f.d d)
    (hl : s.checkElems .w w ((s.self.actives (s.self.count w)).map (fun e => (e, a + word (el (elems w (s.self.count w) v) e * w)))) = .ok lt) :
    s.scatter opc f w op = .ok (((lt.foldl (fun t e => t.dropAtIssue e.2.1) s).issueElems opc false
      (fun e => op (el (elems w (s.self.count w) d) e)) none w .strong lt).advance 4) := by
  rw [← baseReg_eq] at ha
  simp only [State.scatter, srcG_full ha, srcV_full hv, srcV_full hd, hl, except_ok_bind, except_pure]

/-! ## What a read-modify-write writes (R319, R324, R331, R332) -/

theorem toSigned_toNat {w : Nat} (x : BitVec w) : toSigned w x.toNat = x.toInt := by
  rw [toSigned, BitVec.ofNat_toNat, BitVec.setWidth_eq]

theorem leNat_word (x : Word) : leNat (leBytes 8 x.toNat) = x.toNat := by
  rw [leNat_leBytes]
  exact Nat.mod_eq_of_lt x.isLt

theorem leNat_half (x : BitVec 32) : leNat (leBytes 4 x.toNat) = x.toNat := by
  rw [leNat_leBytes]
  exact Nat.mod_eq_of_lt x.isLt

theorem half_of_word (y : BitVec 32) : (y.setWidth 64).toNat % 2 ^ 32 = y.toNat := by
  rw [BitVec.toNat_setWidth]
  omega

/-- The atomic operation on words of whole bytes, in the terms of bit vectors. -/
theorem atomicOp_toNat (fn n : Nat) (x y : BitVec (8 * n)) : atomicOp fn n x.toNat y.toNat = (match fn with
    | 0 => x + y
    | 1 => x &&& y
    | 2 => x ||| y
    | 3 => x ^^^ y
    | 4 => if y.toInt < x.toInt then y else x
    | 5 => if x.toInt < y.toInt then y else x
    | 6 => if x.toNat ≤ y.toNat then x else y
    | _ => if x.toNat ≤ y.toNat then y else x).toNat := by
  unfold atomicOp
  split
  · exact (BitVec.toNat_add ..).symm
  · exact (BitVec.toNat_and ..).symm
  · exact (BitVec.toNat_or ..).symm
  · exact (BitVec.toNat_xor ..).symm
  · simp only [toSigned_toNat, apply_ite BitVec.toNat]
  · simp only [toSigned_toNat, apply_ite BitVec.toNat]
  · simp only [apply_ite BitVec.toNat, min_def]
  · simp only [apply_ite BitVec.toNat, max_def]

theorem amo_word (fn : Nat) (a b : Word) : (ReqOp.amo fn 8 b).apply (leBytes 8 a.toNat) = leBytes 8 (atomicOp fn 8 a.toNat b.toNat) := by
  rw [ReqOp.apply, leNat_word, Nat.mod_eq_of_lt b.isLt]

theorem amo_half (fn : Nat) (x y : BitVec 32) :
    (ReqOp.amo fn 4 (y.setWidth 64)).apply (leBytes 4 x.toNat) = leBytes 4 (atomicOp fn 4 x.toNat y.toNat) := by
  rw [ReqOp.apply, leNat_half, half_of_word]

theorem famo_half (fn : Nat) (x y : BitVec 32) :
    (ReqOp.famo fn (y.setWidth 64)).apply (leBytes 4 x.toNat) = leBytes 4 (floatOp fn x.toNat y.toNat) := by
  rw [ReqOp.apply, leNat_half, half_of_word]

theorem cas_word (a c v : Word) : (ReqOp.cas 8 c v).apply (leBytes 8 a.toNat) = leBytes 8 (if a = c then v else a).toNat := by
  rw [ReqOp.apply, leNat_word, Nat.mod_eq_of_lt c.isLt]
  by_cases h : a = c
  · rw [if_pos h, if_pos (congrArg _ h)]
  · rw [if_neg h, if_neg fun e => h (BitVec.eq_of_toNat_eq e)]

end

/-- Settles O18: each form checks its address and issues one strong access; each operation is its own on numbers of so many bytes. -/
theorem homeAtomics : Obligations.HomeAtomics := by
  unfold Obligations.HomeAtomics
  refine ⟨?_, ?_⟩
  · intro s f a b c v d lt base n m good
    refine ⟨?_, ?_, ?_, ?_, ?_, ?_, ?_, ?_⟩
    · exact fun ha hb hg hd => atomic_goes (exec_amoG ..) (amoHome_full ha hb) hg (settled_goes hd _)
    · exact fun ha hb hg => atomic_goes (exec_redG ..) (redHome_full ha hb) hg rfl
    · exact fun ha hb hc hg hd => atomic_goes (exec_casG ..) (casHome_full rfl ha hb hc) hg (settled_goes hd _)
    · exact fun ha hb hg => atomic_goes (exec_fredG ..) (fredHome_full ha hb) hg rfl
    · exact fun ha hb hg hd => atomic_goes (exec_famoG ..) (famoHome_full ha hb) hg (settled_goes hd _)
    · refine ⟨fun ha hb => ⟨?_, ?_⟩, fun ha hb => ⟨?_, ?_, fun hc => ?_⟩⟩
      · exact atomic_traps (exec_amoG ..) (amoHome_full ha hb)
      · exact atomic_traps (exec_redG ..) (redHome_full ha hb)
      · exact atomic_traps (exec_fredG ..) (fredHome_full ha hb)
      · exact atomic_traps (exec_famoG ..) (famoHome_full ha hb)
      · exact atomic_traps (exec_casG ..) (casHome_full rfl ha hb hc)
    · intro l ha hv hd hl
      exact congrArg (finish s) (scatter_goes (w := n) (op := fun x => .amo f.fn.toNat n (word x)) 0x85 ha hv hd hl)
    · intro l ha hv hd hl
      exact congrArg (finish s) (scatter_goes (op := fun x => .famo f.fn.toNat (word x)) 0x86 ha hv hd hl)
  · intro a b c v x y old
    refine ⟨?_, fun fn => ?_, fun h => ?_, fun h => ?_, famo_half 0 x y, famo_half 1 x y, famo_half 2 x y, fun _ _ => rfl, rfl⟩
    · rintro fn _ rfl
      exact (amo_word fn a b).trans (congrArg _ (atomicOp_toNat fn 8 a b))
    · exact (amo_half fn x y).trans (congrArg _ (atomicOp_toNat fn 4 x y))
    · rw [cas_word, if_pos h]
    · rw [cas_word, if_neg h]

end Sys2Proof.Machine

/-! PROOF. O19: release fences, range declarations, flushes and leaf queries (10 R322 to R324, R335 to R337). -/

namespace Sys2Proof.Machine
section
variable {s : State} {f : FA} {a n : Word} {d : List Byte} {r : Range} {ps : List (Nat × Nat)}

/-! ## Release fences (R335) -/

theorem rfence_passes {scope : Nat} (hd : s.drained s.issuer = true) (hl : s.leasesOver s.issuer s.serial scope = true) :
    s.rfence scope = .ok ((s.fenced 0 scope).advance 4) := by
  simp only [State.rfence, hd, hl, Bool.and_self, holdFor_true, except_ok_bind, except_pure]

/-! ## Ranges (R322 to R324) -/

/-- A declaration in the state that has noted the read of its descriptor: what a range, or none, comes to. -/
def State.declare (s : State) (a : Word) : Option Range → Except Stop State
  | none => .error (.fault ILL_FIELD a)
  | some r =>
    let mine := s.ranges.filter (fun x => x.asid == r.asid)
    if 256 ≤ mine.length || r.words.any (fun w => mine.any (fun x => x.has w)) then
      .ok ((s.holdOff s.self.crew s.self.idx).advance 4)
    else do
      let places ← s.wordPlaces r.words
      let t ← s.holdUnits ((places.map (·.2 / 16)).eraseDups)
      .ok (({ t with ranges := t.ranges ++ [{ r with places }] } : State).advance 4)

theorem rgrain_declares (ha : s.source f.a a) (hc : canonical a = true) (hal : a.toNat % 32 = 0)
    (hr : s.strongRead a 32 = .ok d) : s.rgrain f = (s.lookedAt a 32).declare a (rangeOf (s.lookedAt a 32).crew.asid d) := by
  simp only [State.rgrain, srcG_full ha, hc, hal, hr, decide_true, need_true, except_ok_bind, except_pure]
  generalize rangeOf (s.lookedAt a 32).crew.asid d = o
  cases o <;> rfl

theorem lookedAt_ranges (va : Word) (k : Nat) :
    (s.lookedAt va k).ranges = s.ranges ∧ (s.lookedAt va k).lexp = s.lexp := by
  unfold State.lookedAt
  split <;> exact ⟨rfl, rfl⟩

theorem holdUnits_free {l : List Nat} (h : ∀ u ∈ l, sget 0 s.lexp u ≤ s.tide) :
    s.holdUnits l = .ok (s.holdOff s.self.crew s.self.idx) :=
  if_pos (List.all_eq_true.mpr fun u hu => decide_eq_true (h u hu))

theorem declare_full (h : 256 ≤ (s.ranges.filter (fun x => x.asid == r.asid)).length ∨
      r.words.any (fun w => (s.ranges.filter (fun x => x.asid == r.asid)).any (fun x => x.has w)) = true) :
    s.declare a (some r) = .ok ((s.holdOff s.self.crew s.self.idx).advance 4) := by
  exact if_pos (by simpa using h)

theorem declare_adds (hlen : (s.ranges.filter (fun x => x.asid == r.asid)).length < 256)
    (hw : r.words.any (fun w => (s.ranges.filter (fun x => x.asid == r.asid)).any (fun x => x.has w)) = false)
    (hp : s.wordPlaces r.words = .ok ps) (hl : ∀ p ∈ ps, sget 0 s.lexp (p.2 / 16) ≤ s.tide) :
    s.declare a (some r) = .ok (({ s.holdOff s.self.crew s.self.idx with ranges := s.ranges ++ [{ r with places := ps }] } : State).advance 4) := by
  have hu : ∀ u ∈ (ps.map (·.2 / 16)).eraseDups, sget 0 s.lexp u ≤ s.tide := by
    intro u hu
    obtain ⟨p, hp, rfl⟩ := List.mem_map.mp (List.mem_eraseDups.mp hu)
    exact hl p hp
  simp only [State.declare, hw, Nat.not_le.mpr hlen, decide_false, Bool.or_self, Bool.false_eq_true, if_false, hp, except_ok_bind,
    holdUnits_free hu]
  rfl

theorem rdrop_none (ha : s.source f.a a) (hc : canonical a = true)
    (h : s.ranges.find? (fun r => r.asid == s.crew.asid && r.base == a) = none) :
    s.rdrop f = .ok ((s.holdOff s.self.crew s.self.idx).advance 4) := by
  simp only [State.rdrop, srcG_full ha, hc, need_true, except_ok_bind, h, except_pure]

theorem rdrop_drops (ha : s.source f.a a) (hc : canonical a = true)
    (h : s.ranges.find? (fun r => r.asid == s.crew.asid && r.base == a) = some r) (hl : sget 0 s.lexp r.unit ≤ s.tide) :
    s.rdrop f = .ok (({ s.holdOff s.self.crew s.self.idx with
      ranges := s.ranges.filter (fun x => x.asid != s.crew.asid || x.base != a) } : State).advance 4) := by
  have hr := List.find?_some h
  simp only [Bool.and_eq_true, beq_iff_eq] at hr
  have hu : s.holdUnits [r.unit] = .ok (s.holdOff s.self.crew s.self.idx) := holdUnits_free (by simpa using hl)
  simp only [State.rdrop, srcG_full ha, hc, need_true, except_ok_bind, h, hu, except_pure, hr]
  rfl

/-! ## Flushes (R336) -/

theorem publishRange_ok (hn : n.toNat ≤ 0x1000000) (hc : canonical a = true)
    (h : n = 0 ∨ (a.toNat + n.toNat - 1 < 2 ^ 64 ∧ canonical (a + n - 1) = true)) : publishRange a n = .ok () := by
  have hr : (n == 0 || (a.toNat + n.toNat - 1 < 2 ^ 64 && canonical (a + n - 1))) = true := by simpa using h
  simp only [publishRange, hn, hc, hr, decide_true, need_true, except_ok_bind]

theorem gflush_flushes (ha : s.source f.a a) (hb : s.source f.b n) (hr : publishRange a n = .ok ())
    (hp : s.wordPlaces ((linesOf a n).filterMap (fun va => if inWindow va then none else some va.toNat)) = .ok ps)
    {lines : List Nat} (hlines : lines = ((ps.map (·.2 / 16)).eraseDups).filter (fun l =>
      !sget false s.stranded l && !(s.tower (homeTower (128 * l))).rcDown))
    (hfree : ∀ l ∈ lines, s.ownedAt (128 * l) 128 = false ∧ (sget false s.dirty l = true → s.flightOf (128 * l) = none)) :
    s.gflush f = .ok (State.advance (if f.fn == 1 then (s.writeLines (lines.filter (fun l => sget false s.dirty l))).dropLines s.self.tower lines
      else s.writeLines (lines.filter (fun l => sget false s.dirty l))) 4) := by
  have hall : lines.all (fun l => !s.ownedAt (128 * l) 128 && (!sget false s.dirty l || (s.flightOf (128 * l)).isNone)) = true := by
    refine List.all_eq_true.mpr fun l hl => ?_
    obtain ⟨ho, hfl⟩ := hfree l hl
    cases hd : sget false s.dirty l with
    | false => simp [ho]
    | true => simp [ho, hfl hd]
  simp only [State.gflush, srcG_full ha, srcG_full hb, hr, hp, except_ok_bind, ← hlines, hall, holdFor_true, except_pure]

/-- The loop buffer of the strand whose tower drops lines holds none of them beyond what it has fetched. -/
theorem dropLines_ahead (lines : List Nat) :
    ∀ l ∈ (s.dropLines s.self.tower lines).self.ahead, l.line ∈ lines → l.expiry = 0 := by
  intro l hl hm
  have hself : (s.dropLines s.self.tower lines).self.ahead =
      s.self.ahead.map (fun l => if lines.contains l.line then { l with expiry := 0 } else l) := by
    simp [State.dropLines]
  rw [hself] at hl
  obtain ⟨e, -, rfl⟩ := List.mem_map.mp hl
  by_cases h : lines.contains e.line = true
  · rw [if_pos h]
  · rw [if_neg h] at hm
    exact absurd (List.contains_iff_mem.mpr hm) h

/-! ## Leaf queries (R337) -/

section Query
variable (ha : s.source f.a a) (hc : canonical a = true) (hd : s.settled (.g f.d.toNat)) (hw : inWindow a = false)
include ha hc hd

theorem gquery_absent (h : s.lookup s.self.tower s.crew.asid a = .noSpace) : s.gquery f = .ok (s.returnsTo f.d 0) := by
  simp only [State.gquery, srcG_full ha, hc, need_true, destFree_settled hd, h, except_ok_bind, except_pure, State.returnsTo,
    beq_iff_eq]
  split <;> rfl

include hw
theorem gquery_leaf {l : Leaf} {k : Nat} (h : s.lookup s.self.tower s.crew.asid a = .leaf l k)
    (hp : Place.isDram (s.leafPlace l (a.toNat % l.size)) = true) :
    let p := s.leafPlace l (a.toNat % l.size)
    s.gquery f = .ok (s.returnsTo f.d
      (word (sget 0 s.lexp (s.unitOf s.crew.asid a p) % 2 ^ 32 * 2 ^ 32 + l.policy * 2 ^ 18 +
        (2 * (Place.bankOf p % 32) + Place.bankOf p / 32 % 2) * 2 ^ 12 + Place.towerOf p * 2 ^ 8 +
        16 * b2n (s.isOwned (s.unitOf s.crew.asid a p)) + 8 * b2n (sget false s.stranded (p / 128)) + 4 * b2n (sget false s.unpub (p / 128)) +
        2 * b2n (s.rangeAt s.crew.asid a p).isSome + 1))) := by
  have ht : homeTower (s.leafPlace l (a.toNat % l.size)) = Place.towerOf (s.leafPlace l (a.toNat % l.size)) := if_pos hp
  have hs : s.homeSlice (s.leafPlace l (a.toNat % l.size)) = (2 * (Place.bankOf (s.leafPlace l (a.toNat % l.size)) % 32) +
    Place.bankOf (s.leafPlace l (a.toNat % l.size)) / 32 % 2, s) := if_pos hp
  simp only [State.gquery, srcG_full ha, hc, need_true, destFree_settled hd, h, hw, hs, ht, except_ok_bind, except_pure, State.returnsTo,
    beq_iff_eq, Bool.false_eq_true, if_false]
  split <;> rfl
end Query

end

/-- Settles O19, instruction by instruction. -/
theorem rangeUnitsAndMaintenance : Obligations.RangeUnitsAndMaintenance := by
  unfold Obligations.RangeUnitsAndMaintenance
  intro s f a n d r ps u quiet
  refine ⟨fun hd hl => ?_, fun ha hc hal hread => ?_, fun ha hc => ⟨fun h => ?_, fun h hl => ?_⟩, ?_, fun ha hc hd hw => ⟨?_, fun h => ?_⟩⟩
  · exact congrArg (finish s) (rfence_passes hd hl)
  · obtain ⟨notes, -⟩ := notes_lookedAt hread (u := u) rfl
    obtain ⟨hranges, hlexp⟩ : u.ranges = s.ranges ∧ u.lexp = s.lexp := lookedAt_ranges a 32
    have hasid : u.crew.asid = s.crew.asid := by rw [State.crew, State.crewById, notes.self, notes.crews]; rfl
    have hquiet : (u.holdOff u.self.crew u.self.idx).advance 4 = quiet u := by rw [notes.self]
    have declares : exec (.rgrain f) s = finish s (u.declare a (rangeOf u.crew.asid d)) := congrArg (finish s) (rgrain_declares ha hc hal hread)
    rw [← hasid, ← hquiet, ← hranges, ← hlexp, ← notes.tide]
    refine ⟨fun h => ?_, fun h => ⟨fun hlen => ?_, fun hw => ?_, fun hlen hw hp hl => ?_⟩⟩
    · rw [declares, h]
      rfl
    · rw [declares, h, declare_full (.inl hlen), finish_ok]
    · rw [declares, h, declare_full (.inr hw), finish_ok]
    · rw [declares, h, declare_adds hlen hw hp hl]
      refine ⟨_, rfl, rfl, congrArg (Strand.advance · 4) notes.self, ?_⟩
      exact notes.bytes.sameMemory
  · exact congrArg (finish s) (rdrop_none ha hc h)
  · exact ⟨_, congrArg (finish s) (rdrop_drops ha hc h hl), rfl, rfl, fun _ _ => rfl, rfl, rfl, rfl⟩
  · intro ha hb hn hc hr hp lines back hfree
    have flushes := congrArg (finish s) (gflush_flushes ha hb (publishRange_ok hn hc hr) hp (lines := lines) rfl hfree)
    refine ⟨fun hf => ?_, fun hf => ⟨?_, rfl, dropLines_ahead (s := s.writeLines back) lines⟩⟩
    · rw [hf] at flushes
      exact flushes
    · rw [hf] at flushes
      exact flushes
  · intro l k h _ hp
    exact congrArg (finish s) (gquery_leaf ha hc hd hw h hp)
  · exact congrArg (finish s) (gquery_absent ha hc hd h)

end Sys2Proof.Machine

/-! PROOF. O36: what an access does where it is performed (10 R317 to R319, R325, R326; 04 R134, R139, R142, R143). -/

namespace Sys2Proof.Machine

/-! ## Maps in any form -/

/-- What was set to a value that is listed is found, wherever its entry stands in the map. -/
theorem sget_sset_listed {α : Type} [DecidableEq α] (d : α) (m : Sparse α) (k : Nat) {v : α} (hv : v ≠ d) :
    sget d (sset d m k v) k = v := by
  induction m with
  | nil => simp [sset, sput, sget, hv]
  | cons e m ih =>
    simp only [sset, if_neg hv, sput] at ih ⊢
    split_ifs with h h' <;> simp_all [sget]

/-- Every other key finds what it found. -/
theorem sget_sset_listed_other {α : Type} [DecidableEq α] (d : α) (m : Sparse α) {k i : Nat} {v : α} (hv : v ≠ d) (h : i ≠ k) :
    sget d (sset d m k v) i = sget d m i := by
  induction m with
  | nil => simp [sset, sput, sget, hv, h.symm]
  | cons e m ih =>
    simp only [sset, if_neg hv, sput] at ih ⊢
    split_ifs with hj hk
    · simp [sget, hj, h.symm]
    · have hi : i < k → e.1 ≠ i ∧ i < e.1 := by omega
      by_cases hik : i < k
      · simp [sget, h.symm, hik, hi hik]
      · simp [sget, h.symm, hik]
    · simp [sget, ih]

/-- To set a key lists one entry more at most. -/
theorem sset_count {α : Type} [DecidableEq α] (d : α) (m : Sparse α) (k : Nat) (v : α) (f : Nat × α → Bool) :
    ((sset d m k v).filter f).length ≤ (m.filter f).length + 1 := by
  unfold sset
  generalize (if v = d then none else some v) = o
  induction m with
  | nil =>
    cases o with
    | none => exact Nat.zero_le _
    | some w => exact List.length_filter_le f [(k, w)]
  | cons e m ih =>
    have one (w : α) (l : Sparse α) : (((k, w) :: l).filter f).length ≤ (l.filter f).length + 1 := by
      rw [List.filter_cons]
      split <;> simp
    have more : (m.filter f).length ≤ ((e :: m).filter f).length := by
      rw [List.filter_cons]
      split <;> simp
    unfold sput
    split_ifs
    · cases o with
      | none => exact more.trans (Nat.le_succ _)
      | some w => exact (one w m).trans (Nat.succ_le_succ more)
    · cases o with
      | none => exact Nat.le_succ _
      | some w => exact one w (e :: m)
    · rw [List.filter_cons, List.filter_cons]
      split
      · exact Nat.succ_le_succ ih
      · exact ih

/-! ## A request at its home -/

section
variable {s t : State} {r : Req} {p : Nat} {bs : List Byte}

/-- What holds an access back from a copy holds it back at its home. -/
theorem holds_home {home : Bool} {e : Req} (h : s.holds home e r = true) : s.holds true e r = true := by
  cases home with
  | true => exact h
  | false =>
    revert h
    unfold State.holds
    split
    · exact id
    · simp only [Bool.and_eq_true, Bool.or_eq_true]
      split_ifs
      · simp only [Bool.and_eq_true, Bool.or_eq_true, Bool.false_eq_true, false_and, or_false]
        tauto
      · exact id

/-- An access in order at its home is in order past any fences, and at a copy. -/
theorem ordered_orderedFor (h : s.ordered r = true) (home : Bool) (past : List Nat) : s.orderedFor home past r = true := by
  simp only [State.ordered, State.orderedPast, Bool.and_eq_true] at h
  obtain ⟨⟨hsaved, hall⟩, hrel⟩ := h
  simp only [State.orderedFor, State.orderedPast, Bool.and_eq_true]
  refine ⟨⟨hsaved, List.all_eq_true.mpr fun e he => ?_⟩, hrel⟩
  have free := List.all_eq_true.mp hall e he
  simp only [List.contains_nil, Bool.or_false, Bool.or_eq_true, Bool.not_eq_true'] at free ⊢
  rcases free with hw | hh
  · exact .inl (.inl hw)
  · refine .inr (Bool.eq_false_iff.mpr fun hn => ?_)
    rw [holds_home hn] at hh
    cases hh

theorem arriveAt_goes (ho : s.ordered r = true) (hs : s.stuck p = false) (hown : s.ownedAt p r.op.size = false)
    (hv : s.veiled r.who false p r.op.size r.op.writes = false)
    (hh : r.op.writes = true → r.who.crew ≠ 0 → s.hostHeld p r.op.size = false) : s.arriveAt r p = .go := by
  simp only [State.stuck, Bool.or_eq_false_iff, Option.isSome_eq_false_iff, Option.isNone_iff_eq_none] at hs
  obtain ⟨hflight, hreach⟩ := hs
  have hb : s.barred r p = false := by
    simp only [State.barred, hown, hv, Bool.false_or, Bool.or_false]
    cases hw : r.op.writes with
    | false => rfl
    | true =>
      by_cases hc : r.who.crew = 0
      · simp [hc]
      · simp [hh hw hc]
  simp only [State.arriveAt, hflight, ordered_orderedFor ho, hreach, hb, Bool.not_true, Bool.false_eq_true, if_false]

/-! ## What is left when an access has been performed -/

/-- The end of an access whose bytes stand: its event, the answer to its strand, and its request gone. -/
def State.completes (s : State) (r : Req) (p stamp : Nat) (res : List Byte) : State :=
  (((s.performed r p stamp).deliver r.ret res).dropReq r.id).tidy

/-- A state that differs from another at most in an access having been answered. -/
structure State.Answers (s t : State) (r : Req) (res : List Byte) : Prop where
  mem : t.mem = s.mem
  lineKey : t.lineKey = s.lineKey
  dirty : t.dirty = s.dirty
  self : t.self = s.self
  peers : t.peers = s.peers
  tide : t.tide = s.tide
  lexp : t.lexp = s.lexp
  ranges : t.ranges = s.ranges
  returns : t.returns = (s.deliver r.ret res).returns
  reqs : ∀ e ∈ t.reqs, e ∈ s.reqs ∧ e.id ≠ r.id
  leases : ∀ l ∈ s.leaseWaits, s.tide < l.expiry → l ∈ t.leaseWaits

theorem notes_performed (stamp : Nat) : s.Notes (s.performed r p stamp) := (notes_veil ..).trans (notes_record ..)

theorem deliver_returns (ret : Option (Nat × Nat)) (res : List Byte) (h : t.returns = s.returns) :
    (t.deliver ret res).returns = (s.deliver ret res).returns := by
  cases ret with
  | none => exact h
  | some x => exact congrArg (List.map _) h

theorem deliver_eq (s : State) (ret : Option (Nat × Nat)) (res : List Byte) : ∃ l, s.deliver ret res = { s with returns := l } := by
  cases ret <;> exact ⟨_, rfl⟩

theorem answers_completes (stamp : Nat) (res : List Byte) : s.Answers (s.completes r p stamp res) r res := by
  have notes := notes_performed (s := s) (r := r) (p := p) stamp
  have lexp : (s.performed r p stamp).lexp = s.lexp := rfl
  have ranges : (s.performed r p stamp).ranges = s.ranges := rfl
  have returns := deliver_returns r.ret res notes.returns
  unfold State.completes
  generalize s.performed r p stamp = u at *
  obtain ⟨l, he⟩ := deliver_eq u r.ret res
  rw [he] at returns ⊢
  refine ⟨notes.bytes.mem, notes.bytes.lineKey, notes.bytes.dirty, notes.self, notes.peers, notes.tide, lexp, ranges, returns,
    fun e hm => ?_, fun l hl ht => ?_⟩
  · obtain ⟨hm, hi⟩ := List.mem_filter.mp (List.mem_filter.mp hm).1
    exact ⟨notes.reqs ▸ hm, by simpa using hi⟩
  · rw [← notes.leaseWaits] at hl
    rw [← notes.tide] at ht
    exact List.mem_filter.mpr ⟨hl, decide_eq_true ht⟩

theorem wakeAt_eq (s : State) (p : Nat) : ∃ c w, s.wakeAt p = { s with chans := c, workRows := w } := by
  dsimp only [State.wakeAt, State.wakeBank]
  split_ifs <;> exact ⟨_, _, rfl⟩

/-- The checks that an access meets once more where it is performed (07 R243; 10 R340). -/
def State.clearFor (s : State) (r : Req) (p : Nat) : Prop :=
  (∀ t, r.space = .t t → r.addr.toNat + r.op.size ≤ s.tsize t ∧ s.inResize t r.addr.toNat r.op.size = false) ∧
    s.poisonHits r p = false

/-- Bytes that `s` reads for an access, and the state in which it stands written. -/
def State.oldBytes (s : State) (r : Req) (p : Nat) : List Byte := s.bytesAt (s.keyOf r.key) p r.op.size
def State.written (s : State) (r : Req) (p : Nat) : State := (s.wakeAt p).performWrite r p (r.op.apply (s.oldBytes r p))

/-- A bank that wakes changes nothing that an access finds. -/
theorem wakeAt_finds (s : State) (r : Req) (p : Nat) :
    (s.wakeAt p).bytesAt ((s.wakeAt p).keyOf r.key) p r.op.size = s.oldBytes r p ∧ (s.wakeAt p).writes = s.writes ∧
    (s.wakeAt p).poisonHits r p = s.poisonHits r p ∧ (∀ t, (s.wakeAt p).tsize t = s.tsize t) ∧
    ∀ t a n, (s.wakeAt p).inResize t a n = s.inResize t a n := by
  obtain ⟨c, w, he⟩ := wakeAt_eq s p
  rw [he]
  exact ⟨rfl, rfl, rfl, fun _ => rfl, fun _ _ _ => rfl⟩

theorem perform_clear (hc : s.clearFor r p) (ha : r.op ≠ .arrive) : s.perform r p =
    (let t := if r.op.isLoad then s.wakeAt p else s.written r p
     let t := (t.performed r p s.writes).deliver r.ret (r.op.result r.vector (s.oldBytes r p))
     ((if r.op.writes then t.serveRings else t).dropReq r.id).tidy) := by
  obtain ⟨hspace, hpoison⟩ := hc
  obtain ⟨hreads, hwrites, hchecked, hsizes, hresizes⟩ := wakeAt_finds s r p
  rw [hpoison] at hchecked
  unfold State.perform State.written
  simp only [hreads, hwrites, hchecked, hsizes, hresizes, ha, Bool.false_eq_true, if_false]
  cases hsp : r.space with
  | t k =>
    obtain ⟨hsize, hres⟩ := hspace k hsp
    simp only [hres, Nat.not_lt.mpr hsize, decide_false, Bool.false_eq_true, if_false]
  | _ => rfl

theorem perform_load (hc : s.clearFor r p) {n : Nat} {sg : Bool} (ho : r.op = .load n sg) :
    s.perform r p = (s.wakeAt p).completes r p s.writes (r.op.result r.vector (s.oldBytes r p)) := by
  rw [perform_clear hc (by simp [ho])]
  simp only [ho]
  rfl

/-! ## A write -/

theorem performWrite_lines (bs : List Byte) : (s.performWrite r p bs).mem = (s.putAt (s.keyOf r.key) p bs).mem ∧
    (s.performWrite r p bs).lineKey = (s.putAt (s.keyOf r.key) p bs).lineKey ∧
    (s.performWrite r p bs).dirty = (s.putAt (s.keyOf r.key) p bs).dirty := by
  unfold State.performWrite
  dsimp only
  split <;> exact ⟨rfl, rfl, rfl⟩

/-- What a write leaves of the rest, and the leases that a weak store waits for (04 R143). -/
theorem performWrite_keeps (bs : List Byte) :
    (s.performWrite r p bs).self = s.self ∧ (s.performWrite r p bs).peers = s.peers ∧ (s.performWrite r p bs).reqs = s.reqs ∧
    (s.performWrite r p bs).returns = s.returns ∧ (s.performWrite r p bs).tide = s.tide ∧ (s.performWrite r p bs).waiters = s.waiters ∧
    (Place.isG p = true → r.kind = .weak → r.op.isStore = true →
      (s.performWrite r p bs).leaseWaits = s.leaseWaits ++ s.storeLeases r) := by
  obtain ⟨kept, -, -⟩ := putAt_keeps s (s.keyOf r.key) p bs
  unfold State.performWrite
  dsimp only
  split
  · next h =>
    refine ⟨kept.self, kept.peers, kept.reqs, kept.returns, kept.tide, kept.waiters, fun _ hk hs => ?_⟩
    simp only [h, hk, hs, beq_self_eq_true, Bool.and_self, if_true]
  · next h => exact ⟨kept.self, kept.peers, kept.reqs, kept.returns, kept.tide, kept.waiters, fun hg => absurd hg h⟩

/-- A byte reads the same while its line's bytes, key and place in L2 do. -/
theorem byteAt_congr_line {q : Nat} (hm : ∀ x, x / 128 = q / 128 → Memory.get t.mem x = Memory.get s.mem x)
    (hk : sget none t.lineKey (q / 128) = sget none s.lineKey (q / 128)) (hd : sget false t.dirty (q / 128) = sget false s.dirty (q / 128))
    (key : Option (BitVec 512)) : t.byteAt key q = s.byteAt key q := by
  have line : (List.range 128).map (fun i => Memory.get t.mem (128 * (q / 128) + i)) =
      (List.range 128).map (fun i => Memory.get s.mem (128 * (q / 128) + i)) := by
    refine List.map_congr_left fun i hi => hm _ ?_
    have := List.mem_range.mp hi
    omega
  simp only [State.byteAt, State.underKey, hk, hd, hm q rfl, line]

theorem rekey_eq (s : State) (key : Option (BitVec 512)) (p : Nat) : ∃ m k, s.rekey key p = { s with mem := m, lineKey := k } := by
  dsimp only [State.rekey]
  split_ifs <;> exact ⟨_, _, rfl⟩

theorem lineKey_putAt_other (h : s.Inv) (key : Option (BitVec 512)) (bs : List Byte) {l : Nat} (hl : l ≠ p / 128) :
    sget none (s.putAt key p bs).lineKey l = sget none s.lineKey l := by
  rw [(putAt_keeps s key p bs).2.2]
  dsimp only [State.rekey]
  split_ifs
  · exact sget_sset_other none s.lineKey _ _ _ hl none h.2
  · rfl

theorem fitL2_fits {k : Nat} (h : s.sliceUsed k ≤ s.sliceLines k) : s.fitL2 k = s :=
  if_pos (Bool.or_eq_true_iff.mpr (.inr (decide_eq_true h)))

/-- A slice with room for one more line writes none back. -/
theorem dirty_putAt_other (key : Option (BitVec 512)) (bs : List Byte) {l : Nat} (hl : l ≠ p / 128)
    (room : Place.isG p = true → s.sliceUsed (sliceOf p) < s.sliceLines (sliceOf p)) :
    sget false (s.putAt key p bs).dirty l = sget false s.dirty l := by
  obtain ⟨m, k, he⟩ := rekey_eq s key p
  unfold State.putAt
  rw [he]
  dsimp only
  split
  · next hg =>
    have hg : Place.isG p = true := (Bool.and_eq_true _ _ ▸ hg).1
    have used := sset_count false s.dirty (p / 128) true (fun e => sliceOf (128 * e.1) == sliceOf p)
    have fits : State.sliceUsed { s with dirty := sset false s.dirty (p / 128) true } (sliceOf p) ≤ s.sliceLines (sliceOf p) := by
      have := room hg
      simp only [State.sliceUsed] at this ⊢
      omega
    refine (congrArg (fun t : State => sget false t.dirty l) (fitL2_fits ?_)).trans (sget_sset_listed_other false s.dirty (by decide) hl)
    exact fits
  · rfl

theorem apply_length (hw : r.op.writes = true) (ha : r.op ≠ .arrive) {old : List Byte} (ho : old.length = r.op.size) :
    (r.op.apply old).length = r.op.size := by
  cases hop : r.op with
  | load n sg => simp [hop, ReqOp.writes, ReqOp.isStore, ReqOp.isRmw, ReqOp.isLoad] at hw
  | store bs => rfl
  | amo fn n v => exact leBytes_length ..
  | famo fn v => exact leBytes_length ..
  | cas n c v =>
    rw [hop] at ho
    simp only [ReqOp.apply, ReqOp.size]
    split
    · exact leBytes_length ..
    · exact ho
  | arrive => exact absurd hop ha
  | fence fn sc => simp [hop, ReqOp.writes, ReqOp.isStore, ReqOp.isRmw, ReqOp.isLoad, ReqOp.isFence] at hw
  | laneLoad a b c => simp [hop, ReqOp.writes, ReqOp.isStore, ReqOp.isRmw, ReqOp.isLoad] at hw
  | laneStore a b c => rw [hop] at ho; simpa [ReqOp.apply] using ho

/-- What a write of `bs` at a place leaves when it has been performed. -/
structure State.Performs (s t : State) (r : Req) (p : Nat) (bs res : List Byte) : Prop where
  line : ∀ q, q / 128 = p / 128 → t.byteAt (s.keyOf r.key) q =
    if p ≤ q ∧ q < p + bs.length then (bs[q - p]?).getD 0 else s.byteAt (s.keyOf r.key) q
  others : ∀ q, q / 128 ≠ p / 128 → Memory.get t.mem q = Memory.get s.mem q ∧
    sget none t.lineKey (q / 128) = sget none s.lineKey (q / 128)
  bytes : (Place.isG p = true → s.sliceUsed (sliceOf p) < s.sliceLines (sliceOf p)) →
    ∀ j q, q / 128 ≠ p / 128 → t.byteAt j q = s.byteAt j q
  self : t.self = s.self
  peers : t.peers = s.peers
  returns : t.returns = (s.deliver r.ret res).returns
  reqs : ∀ e ∈ t.reqs, e ∈ s.reqs ∧ e.id ≠ r.id

theorem performs_write (hi : s.Inv) (hfit : p % 128 + bs.length ≤ 128) {stamp : Nat} {res : List Byte} :
    s.Performs (((s.wakeAt p).performWrite r p bs).completes r p stamp res) r p bs res := by
  obtain ⟨c, w, he⟩ := wakeAt_eq s p
  rw [he]
  generalize hu : ({ s with chans := c, workRows := w } : State) = u
  have hmem : u.mem = s.mem := by rw [← hu]
  have hkey : u.lineKey = s.lineKey := by rw [← hu]
  have hdirty : u.dirty = s.dirty := by rw [← hu]
  have hinv : u.Inv := hi.congr hmem hkey
  obtain ⟨hm, hk, hd⟩ := performWrite_lines (s := u) (r := r) (p := p) bs
  obtain ⟨hself, hpeers, hreqs, hreturns, -, -, -⟩ := performWrite_keeps (s := u) (r := r) (p := p) bs
  have ended := answers_completes (s := u.performWrite r p bs) (r := r) (p := p) stamp res
  generalize u.performWrite r p bs = v at *
  have keys : u.keyOf r.key = s.keyOf r.key := by rw [← hu]; rfl
  rw [keys] at hm hk hd
  have get_other : ∀ q, q / 128 ≠ p / 128 → Memory.get (v.completes r p stamp res).mem q = Memory.get s.mem q := fun q hq => by
    rw [ended.mem, hm, get_putAt_other hinv _ hfit hq, hmem]
  have key_other : ∀ q, q / 128 ≠ p / 128 → sget none (v.completes r p stamp res).lineKey (q / 128) = sget none s.lineKey (q / 128) :=
    fun q hq => by rw [ended.lineKey, hk, lineKey_putAt_other hinv _ _ hq, hkey]
  refine ⟨fun q hq => ?_, fun q hq => ⟨get_other q hq, key_other q hq⟩, fun room j q hq => ?_, ?_, ?_, ?_, fun e he => ?_⟩
  · rw [byteAt_congr (ended.mem.trans hm) (ended.lineKey.trans hk) (ended.dirty.trans hd), byteAt_putAt hinv _ _ hq,
      byteAt_congr hmem hkey hdirty]
  · have room' : Place.isG p = true → u.sliceUsed (sliceOf p) < u.sliceLines (sliceOf p) := by
      rw [← hu]
      exact room
    refine byteAt_congr_line (fun x hx => get_other x (by omega)) (key_other q hq) ?_ j
    rw [ended.dirty, hd, dirty_putAt_other _ _ hq room', hdirty]
  · rw [ended.self, hself, ← hu]
  · rw [ended.peers, hpeers, ← hu]
  · rw [ended.returns]
    exact deliver_returns _ _ (by rw [hreturns, ← hu])
  · have := ended.reqs e he
    rw [hreqs, ← hu] at this
    exact this

/-- A write whose bytes stand serves no ring while no slot is asked for. -/
theorem perform_write (hc : s.clearFor r p) (ha : r.op ≠ .arrive) (hw : r.op.writes = true)
    (idle : ∀ w ∈ s.waiters, w.served.isSome = true ∨ (w.need ≠ .claim ∧ w.need ≠ .take)) :
    s.perform r p = (s.written r p).completes r p s.writes (r.op.result r.vector (s.oldBytes r p)) := by
  have hl : r.op.isLoad = false := by
    simp only [ReqOp.writes, Bool.or_eq_true] at hw
    rcases hw with h | h
    · exact not_isLoad_of_isStore h
    · exact (not_isStore_of_isRmw h).1
  have waiters : (s.written r p).waiters = s.waiters := by
    obtain ⟨-, -, -, -, -, hwait, -⟩ := performWrite_keeps (s := s.wakeAt p) (r := r) (p := p) (r.op.apply (s.oldBytes r p))
    exact hwait.trans (notes_wakeAt s p).waiters
  have calm : (((s.written r p).performed r p s.writes).deliver r.ret (r.op.result r.vector (s.oldBytes r p))).waiters = s.waiters := by
    obtain ⟨l, he⟩ := deliver_eq ((s.written r p).performed r p s.writes) r.ret (r.op.result r.vector (s.oldBytes r p))
    rw [he]
    have notes := notes_performed (s := s.written r p) (r := r) (p := p) s.writes
    exact notes.waiters.trans waiters
  rw [perform_clear hc ha, State.completes]
  simp only [hl, hw, Bool.false_eq_true, if_false, if_true]
  rw [serveRings_idle (by rw [calm]; exact idle)]

theorem performStore_single (h : s.elementsWith r = [r]) (hp : r.place = some p) : s.performStore r p = s.perform r p := by
  have named : ∀ x ∈ s.args.slots.filterMap (fun id => [r].find? (fun e => e.id == id)), x = r := by
    intro x hx
    obtain ⟨id, -, hid⟩ := List.mem_filterMap.mp hx
    exact List.mem_singleton.mp (List.mem_of_find?_eq_some hid)
  unfold State.performStore
  simp only [h, List.any_cons, List.any_nil, hp, Option.isNone_some, Bool.or_self, Bool.false_eq_true, if_false]
  generalize s.args.slots.filterMap (fun id => [r].find? (fun e => e.id == id)) = l at named
  have all : ∀ x ∈ l ++ [r].filter (fun e => !l.contains e), x = r := by
    intro x hx
    rcases List.mem_append.mp hx with hx | hx
    · exact named x hx
    · exact List.mem_singleton.mp (List.mem_of_mem_filter hx)
  have some_ : l ++ [r].filter (fun e => !l.contains e) ≠ [] := by
    cases l with
    | nil => simp
    | cons x l => simp
  rw [eraseDups_of_all_eq some_ all]
  simp

/-! ## The home's events -/

/-- The request that an event names is in order and within reach at its place, and nothing keeps it there (10 R319). -/
structure State.Admits (s : State) (r : Req) (p : Nat) : Prop where
  inv : s.Inv
  found : s.req s.args.unit = some r
  ordered : s.ordered r = true
  placed : r.place = some p
  reached : s.stuck p = false
  unowned : s.ownedAt p r.op.size = false
  notWin : r.space ≠ .win
  notBead : r.space ≠ .b
  notArrival : r.op ≠ .arrive
  fits : p % 128 + r.op.size ≤ 128
  clear : s.clearFor r p
  alone : s.elementsWith r = [r]
  unveiled : s.veiled r.who false p r.op.size r.op.writes = false
  noHost : r.op.writes = true → r.who.crew ≠ 0 → s.hostHeld p r.op.size = false
  idle : ∀ w ∈ s.waiters, w.served.isSome = true ∨ (w.need ≠ .claim ∧ w.need ≠ .take)

section Home
variable (h : s.Admits r p)
include h

theorem State.Admits.goes : s.arriveAt r p = .go := arriveAt_goes h.ordered h.reached h.unowned h.unveiled h.noHost

theorem performs_admitted (hw : r.op.writes = true) :
    s.Performs (s.perform r p) r p (r.op.apply (s.oldBytes r p)) (r.op.result r.vector (s.oldBytes r p)) := by
  have size : (r.op.apply (s.oldBytes r p)).length = r.op.size := apply_length hw h.notArrival (State.bytesAt_length ..)
  rw [perform_write h.clear h.notArrival hw h.idle]
  exact performs_write h.inv (size ▸ h.fits)

theorem homeWeak_performs (hs : r.op.isStore = true) (hk : r.kind = .weak) : s.homeWeak r = s.perform r p := by
  simp only [State.homeWeak, h.placed, hs, hk, bne_iff_ne.mpr h.notWin, h.goes, beq_self_eq_true, Bool.and_self, if_true]
  exact performStore_single h.alone h.placed

/-- A weak store leaves its strand to wait for the leases that stand (04 R143). -/
theorem weak_leaseWaits (hs : r.op.isStore = true) (hk : r.kind = .weak) (hg : Place.isG p = true) :
    ∀ l ∈ s.storeLeases r, s.tide < l.expiry → l ∈ (s.perform r p).leaseWaits := by
  have hw : r.op.writes = true := by rw [ReqOp.writes, hs, Bool.true_or]
  obtain ⟨-, -, -, -, htide, -, hleases⟩ := performWrite_keeps (s := s.wakeAt p) (r := r) (p := p) (r.op.apply (s.oldBytes r p))
  have ended := answers_completes (s := s.written r p) (r := r) (p := p) s.writes (r.op.result r.vector (s.oldBytes r p))
  have same : (s.wakeAt p).storeLeases r = s.storeLeases r := by
    obtain ⟨c, w, he⟩ := wakeAt_eq s p
    rw [he]
    rfl
  rw [perform_write h.clear h.notArrival hw h.idle]
  intro l hl ht
  refine ended.leases l ?_ ?_
  · rw [State.written, hleases hg hk hs, same]
    exact List.mem_append_right _ hl
  · rw [State.written, htide, (notes_wakeAt s p).tide]
    exact ht

theorem homeStrong_free (hb : s.behind r = false) :
    s.homeStrong r = if s.leased r p then s.queueAt r true else s.perform r p := by
  simp only [State.homeStrong, h.placed, beq_false_of_ne h.notWin, beq_false_of_ne h.notBead, h.goes, hb, Bool.false_eq_true, if_false,
    performStore_single h.alone h.placed]

theorem homeRead_serves {n : Nat} {sg : Bool} (ho : r.op = .load n sg) {serve : Serve} (hs : ∀ k, serve ≠ .copy k) :
    s.homeRead r serve = if serve == .miss && Place.isG p then s.beginFlight r p false
      else if Place.isG p && s.mayLease (r.unit s) then
        (s.perform r p).grant (r.holder s) r.who.asid r.addr ⟨p, r.key, r.pageUser, r.pageRead, r.pageFetch⟩
      else s.perform r p := by
  have load : r.op.isLoad = true := by rw [ho]; rfl
  have hpoison := h.clear.2
  simp only [State.homeRead, load, beq_false_of_ne h.notWin, beq_false_of_ne h.notBead, Bool.not_true, Bool.false_eq_true, if_false]
  split
  · exact absurd rfl (hs _)
  · next hp => exact absurd (hp.symm.trans h.placed) (by simp)
  · next q _ hp =>
    obtain rfl : p = q := Option.some.inj (h.placed.symm.trans hp)
    simp only [h.goes, hpoison, Bool.not_false, Bool.and_true]

end Home

/-- An operation that waits at its home for a lease: its HOLD is set, and nothing else changes (R319). -/
theorem queueAt_waits : (s.queueAt r true).mem = s.mem ∧ (s.queueAt r true).self = s.self ∧ (s.queueAt r true).reqs = s.reqs.map (fun e =>
    if e.id == r.id then { e with arrived := if e.arrived = 0 then s.serial else e.arrived, held := true } else e) := by
  unfold State.queueAt State.setReq
  simp only [Bool.or_true]
  split <;> exact ⟨rfl, rfl, rfl⟩

/-! ## A load (R317, R318) -/

theorem unitOf_congr (h : t.ranges = s.ranges) (asid : BitVec 16) (va : Word) (q : Nat) : t.unitOf asid va q = s.unitOf asid va q := by
  simp only [State.unitOf, State.rangeAt, h]

theorem learn_ranges_congr (h : t.ranges = s.ranges) (asid : BitVec 16) (va : Word) (q : Nat) :
    (t.learn asid va q).ranges = (s.learn asid va q).ranges := by
  simp only [State.learn, h]
  split
  · exact h
  · rfl

theorem learn_tide (asid : BitVec 16) (va : Word) (q : Nat) : (s.learn asid va q).tide = s.tide := by
  unfold State.learn
  split <;> rfl

/-- A lease that a home grants stands, on the unit as its address shows it, for the holder's length at least. -/
theorem grant_lexp (k : Holder) (asid : BitVec 16) (va : Word) (x : Trans) :
    s.tide + k.llen ≤ sget 0 (s.grant k asid va x).lexp ((s.learn asid va x.place).unitOf asid va x.place) := by
  have len : 0 < k.llen ∧ k.llen ≤ 1024 := by cases k <;> simp [Holder.llen]
  have tide : (s.learn asid va x.place).tide = s.tide := learn_tide ..
  have found (m : Sparse Nat) (u old new : Nat) (hn : s.tide + k.llen ≤ new) : s.tide + k.llen ≤ sget 0 (sset 0 m u (max old new)) u := by
    rw [sget_sset_listed 0 m u (by omega)]
    omega
  unfold State.grant
  refine found _ _ _ _ ?_
  split <;> omega

theorem load_answers (hc : s.clearFor r p) {n : Nat} {sg : Bool} (ho : r.op = .load n sg) :
    s.Answers (s.perform r p) r (r.op.result r.vector (s.oldBytes r p)) := by
  have woken := notes_wakeAt s p
  have rest : (s.wakeAt p).lexp = s.lexp ∧ (s.wakeAt p).ranges = s.ranges := by
    obtain ⟨c, w, he⟩ := wakeAt_eq s p
    rw [he]
    exact ⟨rfl, rfl⟩
  have ended := answers_completes (s := s.wakeAt p) (r := r) (p := p) s.writes (r.op.result r.vector (s.oldBytes r p))
  rw [perform_load hc ho]
  exact ⟨ended.mem.trans woken.bytes.mem, ended.lineKey.trans woken.bytes.lineKey, ended.dirty.trans woken.bytes.dirty,
    ended.self.trans woken.self, ended.peers.trans woken.peers, ended.tide.trans woken.tide, ended.lexp.trans rest.1,
    ended.ranges.trans rest.2, ended.returns.trans (deliver_returns _ _ woken.returns), woken.reqs ▸ ended.reqs,
    fun l hl ht => ended.leases l (woken.leaseWaits ▸ hl) (woken.tide ▸ ht)⟩

/-- A load's line in flight begins with its request, in the slice's table or, where that is full, in its queue. -/
theorem beginFlight_eq : s.beginFlight r p false = { s with inflight := s.inflight ++
    [if s.missRoom p then { lines := [p / 128], reqs := [r.id] } else { lines := [p / 128], spilled := [r.id] }] } := by
  unfold State.beginFlight
  cases s.missRoom p <;> rfl

/-! ## A load from a copy (04 R134) -/

theorem coherent_weak {c : Copy} (hk : r.kind = .weak) (hh : ∀ x ∈ s.history, x.patch = none) : s.coherent c r = true := by
  refine List.all_eq_true.mpr fun x hx => ?_
  simp [hk, hh x hx]

theorem homeRead_copy {n k : Nat} {sg : Bool} {c : Copy} (ho : r.op = .load n sg) (hwin : r.space ≠ .win) (hb : r.space ≠ .b)
    (hc : s.copies[k]? = some c) : s.homeRead r (.copy k) = s.copyRead r c := by
  have load : r.op.isLoad = true := by rw [ho]; rfl
  simp only [State.homeRead, load, beq_false_of_ne hwin, beq_false_of_ne hb, hc, Bool.not_true, Bool.false_eq_true, if_false]

theorem copyRead_refused {c : Copy} (h : s.coherent c r = false) : s.copyRead r c = s := by
  simp [State.copyRead, h]

theorem copyRead_serves {c : Copy} (hg : r.space = .g) (ho : s.ordered r = true)
    (hv : s.veiled r.who false (128 * c.line + r.addr.toNat % 128) r.op.size false = false) (hco : s.coherent c r = true)
    (hs : c.serves s r.who.asid r.addr = true) (hr : c.read = true) (hu : c.user = true ∨ r.who.user = false) (hh : c.holder = r.holder s) :
    s.copyRead r c = s.completes r (128 * c.line + r.addr.toNat % 128) c.stamp
      (r.op.result r.vector (slice c.data (r.addr.toNat % 128) r.op.size)) := by
  have user : (c.user || !r.who.user) = true := by simpa using hu
  simp only [State.copyRead, State.subLease, hg, ordered_orderedFor ho, hv, hco, hs, hr, user, hh, beq_self_eq_true, Bool.not_false,
    Bool.and_self, Bool.true_or, if_true]
  rfl

end

/-- Settles O36: what keeps an access from its home is excluded, and what is left is one access performed, a request that waits
under HOLD, a line in flight, or a copy read. -/
theorem homePerforms : Obligations.HomePerforms := by
  unfold Obligations.HomePerforms
  intro s r p n k sg bs key answered holds new clear waits inv found ordered placed reached unowned notWin notBead notArrival
    fits hclear alone unveiled noHost idle
  have h : s.Admits r p :=
    ⟨inv, found, ordered, placed, reached, unowned, notWin, notBead, notArrival, fits, hclear, alone, unveiled, noHost, idle⟩
  have answer : (s.deliver r.ret (r.op.result r.vector (s.oldBytes r p))).returns = answered := by
    simp only [answered, State.deliver]
    cases r.ret with
    | none => rfl
    | some x => simp only [List.length_map]; rfl
  have stored (hw : r.op.writes = true) (out : List Byte) (ho : r.op.apply (s.oldBytes r p) = out) : holds (s.perform r p) out := by
    have performed := performs_admitted h hw
    rw [ho] at performed
    exact ⟨performed.line, performed.others, performed.bytes, performed.self, performed.peers, performed.returns.trans answer, performed.reqs⟩
  have reads (serve : Serve) (hs : s.args.serve = serve) : exec .homeReadRequest s = .next (s.homeRead r serve) := by
    rw [exec_homeReadRequest, execHomeReadRequest, found, hs]
  have strong (hb : s.behind r = false) (hl : s.leased r p = false) : s.homeStrong r = s.perform r p := by
    rw [homeStrong_free h hb, if_neg (by simp [hl])]
  have held (hb : s.behind r = false) (hl : s.leased r p = true) : s.homeStrong r = s.queueAt r true := by
    rw [homeStrong_free h hb, if_pos hl]
  have strongStore (ho : r.op = .store bs) (hk : r.kind ≠ .weak) : exec .homeStrongWrite s = .next (s.homeStrong r) := by
    simp only [exec_homeStrongWrite, execHomeStrongWrite, found, ho, ReqOp.isStore, bne_iff_ne.mpr hk, Bool.and_self, if_true]
  have atomic (ho : r.op.isRmw = true) : exec .homeAtomic s = .next (s.homeStrong r) := by
    simp only [exec_homeAtomic, execHomeAtomic, found, ho, if_true]
  have expiry (hheld : r.held = true) : exec .leaseExpiry s = .next (s.homeStrong r) := by
    simp only [exec_leaseExpiry, execLeaseExpiry, found, hheld, if_true]
  have storeDone (ho : r.op = .store bs) : holds (s.perform r p) bs := stored (by rw [ho]; rfl) bs (by rw [ho]; rfl)
  have rmwDone (ho : r.op.isRmw = true) : holds (s.perform r p) new := stored (by rw [ReqOp.writes, ho, Bool.or_true]) new rfl
  refine ⟨fun ho hs => ?_, fun ho hk => ?_, fun hk hb => ⟨fun hl => ⟨fun ho => ?_, fun ho => ?_⟩, fun hl => ⟨fun ho => ?_, fun ho => ?_⟩⟩,
    fun hheld hb hl => ⟨fun ho => ?_, fun ho => ?_⟩, fun ho hg hs => ?_, fun c ho hs hc hco => ?_, fun c ho hg hs hc hv hco hserves hr hu hh => ?_⟩
  · have ended := load_answers hclear ho
    have serves := homeRead_serves h ho (serve := .home) (by simp)
    rw [if_neg (by simp)] at serves
    rw [reads .home hs, serves]
    split
    · next hlease =>
      obtain ⟨hg, hmay⟩ := Bool.and_eq_true_iff.mp hlease
      have granted := grant_lexp (s := s.perform r p) (r.holder s) r.who.asid r.addr ⟨p, r.key, r.pageUser, r.pageRead, r.pageFetch⟩
      rw [ended.tide, unitOf_congr (learn_ranges_congr ended.ranges ..)] at granted
      have fetched := fetches_grant (s.perform r p) (r.holder s) r.who.asid r.addr ⟨p, r.key, r.pageUser, r.pageRead, r.pageFetch⟩
      generalize (s.perform r p).grant _ _ _ _ = t at granted fetched
      refine ⟨t, rfl, ?_⟩
      obtain ⟨_, _, _, rfl⟩ := fetched
      exact ⟨ended.mem, ended.self, ended.returns.trans answer, ended.reqs, fun _ _ => granted, fun _ hn => absurd (hmay.symm.trans hn) (by simp)⟩
    · next hlease =>
      exact ⟨_, rfl, ended.mem, ended.self, ended.returns.trans answer, ended.reqs,
        fun hg hm => absurd (by rw [hg, hm]; rfl) hlease, fun _ _ => ended.lexp⟩
  · have hst : r.op.isStore = true := by rw [ho]; rfl
    refine ⟨s.perform r p, ?_, storeDone ho, fun hg c hc hu ht => ?_⟩
    · simp only [exec_homeWeakStore, execHomeWeakStore, found, homeWeak_performs h hst hk]
    · refine weak_leaseWaits h hst hk hg _ (List.mem_append_left _ (List.mem_map.mpr ⟨c, ?_, rfl⟩)) ht
      exact List.mem_filter.mpr ⟨hc, by simp [hu, ht]⟩
  · exact ⟨_, (strongStore ho hk).trans (congrArg _ (held hb hl)), queueAt_waits⟩
  · exact ⟨_, (atomic ho).trans (congrArg _ (held hb hl)), queueAt_waits⟩
  · exact ⟨_, (strongStore ho hk).trans (congrArg _ (strong hb hl)), storeDone ho⟩
  · exact ⟨_, (atomic ho).trans (congrArg _ (strong hb hl)), rmwDone ho⟩
  · exact ⟨_, (expiry hheld).trans (congrArg _ (strong hb hl)), storeDone ho⟩
  · exact ⟨_, (expiry hheld).trans (congrArg _ (strong hb hl)), rmwDone ho⟩
  · rw [reads .miss hs, homeRead_serves h ho (by simp), if_pos (by simp [hg]), beginFlight_eq]
  · rw [reads (.copy k) hs, homeRead_copy ho notWin notBead hc, copyRead_refused hco]
  · have size : r.op.size = n := by rw [ho]; rfl
    have coherent : s.coherent c r = true := hco.elim id fun hw => coherent_weak hw.1 hw.2
    have ended := answers_completes (s := s) (r := r) (p := 128 * c.line + r.addr.toNat % 128) c.stamp
      (r.op.result r.vector (slice c.data (r.addr.toNat % 128) r.op.size))
    rw [reads (.copy k) hs, homeRead_copy ho notWin notBead hc,
      copyRead_serves hg ordered (by rw [size]; exact hv) coherent hserves hr hu hh]
    exact ⟨_, rfl, ended.mem, ended.lexp, ended.returns⟩

end Sys2Proof.Machine

/-! PROOF. What the bodies of the rotator come to whose sources are full and whose destinations no producer is pending on (11 R343 to
R361), and the tags of descriptors as replaced fields of a word (11 R352, 12 R384). -/

namespace Sys2Proof.Machine

section Bodies
variable {s : State} {px : Prefix} {f : FA} {a v63 : List Byte} {r : Rnd} {len sw dw : Nat} {u : ScaleUse}
  {g : BlockCtx → List Byte → Nat → List Nat → List Nat × Nat}

/-- The blocks that a block-based form processes under a rounding. -/
def State.processed (s : State) (r : Rnd) : List Block := blocksOf (r.idx.toNat % 32) s.self.vl s.self.active

/-- A block's scale in v63 is one that a form with checked scales refuses. -/
def ScaleUse.refuses (u : ScaleUse) (v63 : List Byte) (b : Block) : Bool := u.checked && !sigmaOk (sigmaAt v63 b.j)

/-- A form refuses no block where the scales are valid, if it checks them. -/
theorem refuses_not {bs : List Block} (h : u.checked = true → ∀ b ∈ bs, sigmaOk (sigmaAt v63 b.j) = true) :
    ∀ b ∈ bs, u.refuses v63 b = false := by
  intro b hb
  cases hc : u.checked
  · rw [ScaleUse.refuses, hc, Bool.false_and]
  · rw [ScaleUse.refuses, h hc b hb, Bool.not_true, Bool.and_false]

theorem convert_short (hl : s.self.long = false) : s.convert len px f sw dw u g = .error (.fault MODE s.self.pc) := by
  rw [State.convert, hl, need_false, except_error_bind]

theorem convert_full (hl : s.self.long = true) (ha : s.sourceV f.a a) (h63 : s.sourceV scaleReg v63) (hr : s.rround px = .ok r)
    (hd : s.settled (.v f.d.toNat)) (hd63 : s.settled (.v 63)) (hs : ∀ b ∈ s.processed r, u.refuses v63 b = false) :
    s.convert len px f sw dw u g = .ok (s.converts len px f.d r a v63 sw dw u.writes (fun c => g c v63)) := by
  have old : s.self.vreg 63 = v63 := h63.2
  have valid : (blocksOf (r.idx.toNat % 32) s.self.vl s.self.active).find? (fun b => u.checked && !sigmaOk (sigmaAt v63 b.j)) = none :=
    List.find?_eq_none.mpr fun b hb => Bool.eq_false_iff.mp (hs b hb)
  simp only [State.convert, hl, need_true, except_ok_bind, srcV_full ha, srcV_full h63, old, hr, valid, destFree_settled hd,
    destFree_settled hd63, ite_self, except_pure]
  rfl

theorem convert_invalidScale {b : Block} (hl : s.self.long = true) (ha : s.sourceV f.a a) (h63 : s.sourceV scaleReg v63)
    (hr : s.rround px = .ok r) (hb : (s.processed r).find? (u.refuses v63) = some b) :
    s.convert len px f sw dw u g = .error (.fault SCALE_INVALID (word b.j)) := by
  have old : s.self.vreg 63 = v63 := h63.2
  have found : (blocksOf (r.idx.toNat % 32) s.self.vl s.self.active).find? (fun b => u.checked && !sigmaOk (sigmaAt v63 b.j)) =
    some b := hb
  simp only [State.convert, hl, need_true, except_ok_bind, srcV_full ha, srcV_full h63, old, hr, found, except_error_bind, ite_self]

theorem convertEach_full (ha : s.sourceV f.a a) (hr : s.rround px = .ok r) (hd : s.settled (s.self.vdest f.d.toNat)) (n : Nat)
    (op : Rnd → Nat → Nat) : s.convertEach len px f sw dw n op = .ok (s.yields f.d len
      (putCodes dw n (s.self.vreg f.d.toNat) (fun e => if s.self.active e then some (op (r.at e) (el (codes sw n a) e)) else none))) := by
  simp only [State.convertEach, srcV_full ha, hr, except_ok_bind, vresult_settled hd]

theorem qscale_short (hl : s.self.long = false) : s.qscale len px f = .error (.fault MODE s.self.pc) := by
  rw [State.qscale, hl, need_false, except_error_bind]

theorem qscale_full (hl : s.self.long = true) (ha : s.sourceV f.a a) (hr : s.vround px = .ok r)
    (hd : s.settled (s.self.vdest f.d.toNat)) : s.qscale len px f =
      let mx : Bool := f.fn = 3
      let w := if mx then 1 else 4
      let off := r.idx.toNat % 32
      let t := s.self.tag px
      .ok (s.yields f.d len ((s.processed r).foldl (fun v b =>
        let c : BlockCtx := ⟨r, t, s.self.seed t, r.idx - word off + word (32 * b.j)⟩
        let x := b.source (codes (if mx then 32 else 16) s.self.vl a)
        splice v (w * b.j) (leBytes w (if mx then (narrowE2m1 c (x.map fp32.value)).2
          else scaleFor c (if f.fn = 1 then 448 else 57344) (x.map bf16.value)))) (s.self.vreg f.d.toNat))) := by
  simp only [State.qscale, hl, need_true, except_ok_bind, srcV_full ha, hr, vresult_settled hd, beq_iff_eq, State.processed,
    decide_eq_true_eq]

/-- What an instruction and its pair come to whose bodies are one block-based form. -/
theorem converts_both {i : Instr} {body : Nat → Prefix → Except Stop State} {r0 : Rnd} (hl : s.self.long = true)
    (ha : s.sourceV f.a a) (h63 : s.sourceV scaleReg v63) (h0 : s.rround {} = .ok r0) (hr : s.rround px = .ok r)
    (hd : s.settled (.v f.d.toNat)) (hd63 : s.settled (.v 63)) (hs0 : ∀ b ∈ s.processed r0, u.refuses v63 b = false)
    (hs : ∀ b ∈ s.processed r, u.refuses v63 b = false) (hi : exec i s = finish s (body 4 {})) (hp : s.paired px i = body 8 px)
    (hb : ∀ len px, body len px = s.convert len px f sw dw u g) :
    exec i s = .next (s.converts 4 {} f.d r0 a v63 sw dw u.writes (fun c => g c v63)) ∧
      exec (.prefixedPair px i) s = .next (s.converts 8 px f.d r a v63 sw dw u.writes (fun c => g c v63)) :=
  exec_both hi hp ((hb ..).trans (convert_full hl ha h63 h0 hd hd63 hs0)) ((hb ..).trans (convert_full hl ha h63 hr hd hd63 hs))

end Bodies

/-! ## The block-based forms that the selectors choose -/

section Forms
variable {s : State} {len : Nat} {px : Prefix} {f : FA}

theorem fp8Of_eq (fn : BitVec 3) : fp8Of fn = if fn = 1 then e4m3 else e5m2 := by simp only [fp8Of, beq_iff_eq]

theorem fp8_unlisted {fn : BitVec 3} (h : fn = 1 ∨ fn = 2) : (fn == 0) = false ∧ (fn == 3) = false := by
  obtain rfl | rfl := h
  · decide
  · decide

theorem cvtn_fp8 (hf : f.fn = 1 ∨ f.fn = 2) : s.cvtn len px f = s.convert len px f 16 8 { reads := true, checked := true }
    (fun c v63 j x => (narrowFp8 (fp8Of f.fn) c (fp32.value (sigmaAt v63 j)) (x.map bf16.value), 0)) := by
  obtain ⟨bf, mx⟩ := fp8_unlisted hf
  simp only [State.cvtn, bf, mx, Bool.false_eq_true, if_false]

theorem cvtw_fp8 (hf : f.fn = 1 ∨ f.fn = 2) : s.cvtw len px f = s.convert len px f 8 16 { reads := true, checked := true }
    (fun c v63 j x => (widenBlock bf16 c (fp32.value (sigmaAt v63 j)) (x.map (fp8Of f.fn).value), 0)) := by
  obtain ⟨bf, mx⟩ := fp8_unlisted hf
  simp only [State.cvtw, bf, mx, Bool.false_eq_true, if_false]

theorem cvtn_mx (hf : f.fn = 3) : s.cvtn len px f = s.convert len px f 8 4 { reads := true, checked := true, writes := 1 }
    (fun c v63 j x => narrowE2m1 { c with tag := 0 } (x.map (fun q => (e4m3.value q).mul (fp32.value (sigmaAt v63 j))))) := by
  rw [State.cvtn, hf]
  rfl

theorem cvtw_mx (hf : f.fn = 3) : s.cvtw len px f = s.convert len px f 4 8 { reads := true, writes := 4 }
    (fun _ v63 j x => match e8m0 (codeAt v63 j) with
      | none => (allCodes 0x7F, fp32.round rne (.ofInt 1))
      | some k => (x.map (fun q => e4m3.round rne (e2m1.value q)), fp32.round rne (.fin ⟨1, 1, k⟩))) := by
  rw [State.cvtw, hf]
  rfl

theorem cvti_i8 (hf : f.fn = 1) : s.cvti len px f = s.convert len px f 16 8 { writes := 1 }
    (fun c _ _ x => narrowI8 c (x.map (toSigned 16))) := by
  rw [State.cvti, hf]
  rfl

theorem cvti_t2 (hf : f.fn = 2) : s.cvti len px f = s.convert len px f 8 2 { reads := true, writes := 1 }
    (fun c v63 j x => narrowT2 c (codeAt v63 j) (x.map (toSigned 8))) := by
  rw [State.cvti, hf]
  rfl

theorem cvti_i16 (hf : f.fn = 5) : s.cvti len px f = s.convert len px f 8 16 { reads := true }
    (fun c v63 j x => (widenI16 c (codeAt v63 j) (x.map (toSigned 8)), 0)) := by
  rw [State.cvti, hf]
  rfl

/-- rotv and unrotv keep the format of their source, FP32 or BF16 (R360). -/
theorem rotv_format (hf : f.fn = 4 ∨ f.fn = 5) (inverse : Bool) :
    let w := if f.fn = 4 then 32 else 16
    s.rotv len px f inverse = s.convert len px f w w {}
      (fun c _ _ x => (rotateSame (if f.fn = 4 then fp32 else bf16) inverse c x, 0)) := by
  rw [State.rotv]
  obtain single | half := hf
  · rw [single]
    rfl
  · rw [half]
    rfl

end Forms

theorem rotv_short {s : State} (hl : s.self.long = false) (len : Nat) (px : Prefix) (f : FA) (inverse : Bool) :
    s.rotv len px f inverse = .error (.fault MODE s.self.pc) := by
  rw [State.rotv, convert_short hl]

theorem invalidScale_stops {s : State} {px : Prefix} {f : FA} {a v63 : List Byte} {r : Rnd} {len : Nat} {b : Block}
    (hf : f.fn = 1 ∨ f.fn = 2) (hl : s.self.long = true) (ha : s.sourceV f.a a) (h63 : s.sourceV scaleReg v63)
    (hr : s.rround px = .ok r) (hb : (s.processed r).find? (fun b => !sigmaOk (sigmaAt v63 b.j)) = some b) :
    s.cvtn len px f = .error (.fault SCALE_INVALID (word b.j)) ∧ s.cvtw len px f = .error (.fault SCALE_INVALID (word b.j)) := by
  rw [cvtn_fp8 hf, cvtw_fp8 hf]
  exact ⟨convert_invalidScale hl ha h63 hr hb, convert_invalidScale hl ha h63 hr hb⟩

/-! ## Seeds and tags (R342, R352, R384) -/

/-- A word whose field of `w` bits from bit 56 on gives way to a number of that width. -/
theorem getLsbD_tagged {a b : Word} {w : Nat} (hb : b.toNat < 2 ^ w) (i : Nat) (hi : i < 64) :
    (a &&& ~~~(BitVec.ofNat 64 (2 ^ w - 1) <<< 56) ||| b <<< 56).getLsbD i =
      if 56 ≤ i ∧ i < 56 + w then b.getLsbD (i - 56) else a.getLsbD i := by
  have field : (BitVec.ofNat 64 (2 ^ w - 1)).getLsbD (i - 56) = decide (i - 56 < w) := by
    rw [BitVec.getLsbD_ofNat, Nat.testBit_two_pow_sub_one, decide_eq_true (by omega : i - 56 < 64), Bool.true_and]
  have high (h : w ≤ i - 56) : b.getLsbD (i - 56) = false := Nat.testBit_lt_two_pow (hb.trans_le (Nat.pow_le_pow_right two_pos h))
  simp only [BitVec.getLsbD_or, BitVec.getLsbD_and, BitVec.getLsbD_not, BitVec.getLsbD_shiftLeft, field, hi, decide_true, Bool.true_and]
  by_cases low : i < 56
  · simp [low, Nat.not_le.mpr low]
  · by_cases inside : i - 56 < w
    · have : i < 56 + w := by omega
      simp [low, inside, this, Nat.le_of_not_lt low]
    · have : ¬ i < 56 + w := by omega
      simp [low, inside, this, high (Nat.le_of_not_lt inside)]

theorem rotation_tagged {a b : Word} (hb : b.toNat ≤ 15) : a &&& ~~~((0xF : Word) <<< 56) ||| b <<< 56 =
    (a.extractLsb' 60 4 ++ b.extractLsb' 0 4 ++ a.extractLsb' 0 56 : BitVec 64) := by
  refine BitVec.eq_of_getLsbD_eq fun i hi => (getLsbD_tagged (w := 4) (by omega) i hi).trans ?_
  simp only [BitVec.getLsbD_append, BitVec.getLsbD_extractLsb']
  grind

theorem format_tagged {a b : Word} (hb : b.toNat ≤ 255) : a &&& ~~~((0xFF : Word) <<< 56) ||| b <<< 56 =
    (b.extractLsb' 0 8 ++ a.extractLsb' 0 56 : BitVec 64) := by
  refine BitVec.eq_of_getLsbD_eq fun i hi => (getLsbD_tagged (w := 8) (by omega) i hi).trans ?_
  simp only [BitVec.getLsbD_append, BitVec.getLsbD_extractLsb']
  grind

section Seeds
variable {s : State} {f : FA} {a b : Word}

theorem seedSet_full (ha : s.source f.a a) :
    s.seedSet f = .ok (s.mapSelf (fun st => Strand.advance { st with sd := st.sd.setIfInBounds f.d.toNat a } 4)) := by
  simp only [State.seedSet, srcG_full ha, except_ok_bind, except_pure]

theorem srseed_full (ha : s.source f.a a) :
    s.srseed f = .ok (s.mapSelf (fun st => Strand.advance { st with srs := mix64 a, eidx := 0 } 4)) := by
  simp only [State.srseed, srcG_full ha, except_ok_bind, except_pure]

theorem seed_setIfInBounds (st : Strand) {n : Nat} (h1 : 1 ≤ n) (h16 : n < 16) (k : Nat) :
    Strand.seed { st with sd := st.sd.setIfInBounds n a } k = if k = n then a else st.seed k := by
  by_cases hk : k = n
  · subst hk
    simp [Strand.seed, Nat.ne_of_gt h1, h16]
  · simp [Strand.seed, hk, Vector.getElem?_setIfInBounds_ne (Ne.symm hk)]

theorem exec_seed_full (ha : s.source f.a a) (h1 : 1 ≤ f.d.toNat) (h16 : f.d.toNat < 16) :
    ∃ t, exec (.seed f) s = .next t ∧ t.self.seed f.d.toNat = a ∧
      (∀ k, k ≠ f.d.toNat → t.self.seed k = s.self.seed k) ∧ t.self.g = s.self.g ∧ t.self.pc = (s.self.advance 4).pc := by
  have reads := seed_setIfInBounds (a := a) s.self h1 h16
  exact ⟨_, congrArg (finish s) (seedSet_full ha), (reads _).trans (if_pos rfl), fun k hk => (reads k).trans (if_neg hk), rfl, rfl⟩

theorem seed_eq (st : Strand) (r : Reg) : st.seed r.toNat = if r = 0 then 0 else (st.sd[r.toNat]?).getD 0 :=
  ite_congr (propext (BitVec.toNat_inj (y := 0))) (fun _ => rfl) fun _ => rfl

theorem rtag_full (ha : s.source f.a a) (hb : s.source f.b b) (hd : s.settled (.g f.d.toNat)) (h : b.toNat ≤ 15) :
    s.rtag f = .ok (s.gains f.d 4 ((a.extractLsb' 60 4 ++ b.extractLsb' 0 4 ++ a.extractLsb' 0 56 : BitVec 64))) := by
  simp only [State.rtag, srcG_full ha, srcG_full hb, except_ok_bind, h, decide_true, need_true, result_settled hd, rotation_tagged h]

theorem rtag_wide (ha : s.source f.a a) (hb : s.source f.b b) (h : 15 < b.toNat) : s.rtag f = .error (.fault ILL_FIELD b) := by
  simp only [State.rtag, srcG_full ha, srcG_full hb, except_ok_bind, decide_eq_false (Nat.not_le.mpr h), need_false, except_error_bind]

/-- The format codes that R384 lists. -/
theorem tileFormat_iff (code : Nat) :
    (code = 0 || code = 1 || (4 ≤ code && code ≤ 8)) = decide (code ∈ [0, 1, 4, 5, 6, 7, 8]) := by
  rw [Bool.eq_iff_iff]
  simp only [Bool.or_eq_true, Bool.and_eq_true, decide_eq_true_eq, List.mem_cons, List.not_mem_nil, or_false]
  omega

theorem mtag_full (ha : s.source f.a a) (hb : s.source f.b b) (h : b.toNat ≤ 255) (hd : s.settled (.g f.d.toNat))
    (hf : b.toNat / 16 ∈ [0, 1, 4, 5, 6, 7, 8]) :
    s.mtag f = .ok (s.gains f.d 4 ((b.extractLsb' 0 8 ++ a.extractLsb' 0 56 : BitVec 64))) := by
  simp only [State.mtag, srcG_full ha, srcG_full hb, except_ok_bind, h, decide_true, need_true, tileFormat_iff, hf,
    result_settled hd, format_tagged h]

theorem mtag_unlisted (ha : s.source f.a a) (hb : s.source f.b b) (h : b.toNat ≤ 255)
    (hf : b.toNat / 16 ∉ [0, 1, 4, 5, 6, 7, 8]) : s.mtag f = .error (.fault FMT_MISMATCH b) := by
  simp only [State.mtag, srcG_full ha, srcG_full hb, except_ok_bind, h, decide_true, need_true, tileFormat_iff, hf, decide_false,
    need_false, except_error_bind]

end Seeds

/-- Settles O27: each block-based form is one conversion of blocks, whose scales are valid or of which the first is refused. -/
theorem rotatorConversions : Obligations.RotatorConversions := by
  refine ⟨?_, fun s f a b => ⟨exec_seed_full, fun hd => ?_, fun ha => congrArg (finish s) (srseed_full ha),
    fun ha hb h hd => congrArg (finish s) (rtag_full ha hb hd h), fun ha hb h => congrArg (finish s) (rtag_wide ha hb h),
    fun ha hb h hd => ⟨fun hf => congrArg (finish s) (mtag_full ha hb h hd hf), fun hf => congrArg (finish s) (mtag_unlisted ha hb h hf)⟩⟩⟩
  · intro s px f a v63 r q n good conv each fp8 ha h0 hp hd
    have elementwise {i : Instr} {sw dw n : Nat} {op : Rnd → Nat → Nat} (body : Nat → Prefix → Except Stop State)
        (hi : exec i s = finish s (body 4 {})) (hpair : s.paired px i = body 8 px)
        (hb : ∀ len px, body len px = s.convertEach len px f sw dw n op) : each i sw dw n op :=
      exec_both hi hpair ((hb ..).trans (convertEach_full ha h0 hd ..)) ((hb ..).trans (convertEach_full ha hp hd ..))
    clear_value each
    refine ⟨fun hf => ⟨?_, ?_, ?_⟩, fun hf => ?_, fun hl hf => ?_, fun hl h63 hd63 => ?_, fun hl => ?_, fun hl hq hqp => ⟨?_, ?_⟩⟩
    · exact elementwise (fun len px => s.cvtn len px f) rfl rfl fun _ _ => if_pos (beq_iff_eq.mpr hf)
    · exact elementwise (fun len px => s.cvtw len px f) rfl rfl fun _ _ => if_pos (beq_iff_eq.mpr hf)
    · exact elementwise (fun len px => s.cvti len px f) rfl rfl fun _ _ => by rw [State.cvti, hf]; rfl
    · exact elementwise (fun len px => s.cvti len px f) rfl rfl fun _ _ => by rw [State.cvti, hf]; rfl
    · exact elementwise (fun len px => s.cvti len px f) rfl rfl fun _ _ => by rw [State.cvti, hf, hl]; rfl
    · have hv : s.settled (.v f.d.toNat) := by rwa [Strand.vdest, if_pos hl] at hd
      have blockwise {sw dw : Nat} {u : ScaleUse} {g : BlockCtx → List Byte → Nat → List Nat → List Nat × Nat} (i : Instr)
          (body : Nat → Prefix → Except Stop State) (hi : exec i s = finish s (body 4 {})) (hpair : s.paired px i = body 8 px)
          (hb : ∀ len px, body len px = s.convert len px f sw dw u g)
          (valid : u.checked = true → good (r {}) ∧ good (r px)) : conv i sw dw u.writes (fun c => g c v63) :=
        converts_both hl ha h63 h0 hp hv hd63 (refuses_not fun h => (valid h).1) (refuses_not fun h => (valid h).2) hi hpair hb
      have fp8_eq : fp8Of f.fn = fp8 := fp8Of_eq f.fn
      clear_value conv fp8
      subst fp8_eq
      refine ⟨fun hg hgp => ⟨fun hf => ⟨?_, ?_⟩, fun hf => ?_⟩, fun hf => ?_, ?_, ?_, fun hf => ⟨?_, ?_⟩, fun hf => ?_, fun hf => ?_,
        fun hf => ?_, fun hf b hb => ?_⟩
      · exact blockwise (.cvtn f) (fun len px => s.cvtn len px f) rfl rfl (fun _ _ => cvtn_fp8 hf) fun _ => ⟨hg, hgp⟩
      · exact blockwise (.cvtw f) (fun len px => s.cvtw len px f) rfl rfl (fun _ _ => cvtw_fp8 hf) fun _ => ⟨hg, hgp⟩
      · exact blockwise (.cvtn f) (fun len px => s.cvtn len px f) rfl rfl (fun _ _ => cvtn_mx hf) fun _ => ⟨hg, hgp⟩
      · exact blockwise (.cvtw f) (fun len px => s.cvtw len px f) rfl rfl (fun _ _ => cvtw_mx hf) nofun
      · exact blockwise (.cvtnF f) (fun len px => s.cvtnF len px f) rfl rfl (fun _ _ => rfl) nofun
      · exact blockwise (.cvtwF f) (fun len px => s.cvtwF len px f) rfl rfl (fun _ _ => rfl) nofun
      · exact blockwise (.rotv f) (fun len px => s.rotv len px f false) rfl rfl (fun _ _ => rotv_format hf false) nofun
      · exact blockwise (.unrotv f) (fun len px => s.rotv len px f true) rfl rfl (fun _ _ => rotv_format hf true) nofun
      · exact blockwise (.cvti f) (fun len px => s.cvti len px f) rfl rfl (fun _ _ => cvti_i8 hf) nofun
      · exact blockwise (.cvti f) (fun len px => s.cvti len px f) rfl rfl (fun _ _ => cvti_t2 hf) nofun
      · exact blockwise (.cvti f) (fun len px => s.cvti len px f) rfl rfl (fun _ _ => cvti_i16 hf) nofun
      · obtain ⟨narrowing, widening⟩ := invalidScale_stops (len := 4) hf hl ha h63 h0 hb
        exact ⟨congrArg (finish s) narrowing, congrArg (finish s) widening⟩
    · have stops {body : Except Stop State} (h : body = .error (.fault MODE s.self.pc)) : finish s body = .next (s.raise MODE s.self.pc) :=
        congrArg (finish s) h
      exact ⟨stops (convert_short hl), stops (convert_short hl), stops (rotv_short hl ..), stops (rotv_short hl ..), stops (qscale_short hl)⟩
    · exact congrArg (finish s) (qscale_full hl ha hq hd)
    · exact congrArg (finish s) (qscale_full hl ha hqp hd)
  · exact finish_result_settled hd (seed_eq ..)

end Sys2Proof.Machine

/-! PROOF. O44: an accumulator as it was set (12 R363), and one group of a product (R375, R376). -/

namespace Sys2Proof.Machine

section Tables
variable {α : Type} [DecidableEq α] (d : α) (v : Nat → α)

/-- What is listed of a function from `lo` on, the default left out. -/
def tableFrom (lo n : Nat) : Sparse α := (List.range' lo n).filterMap (fun e => if v e = d then none else some (e, v e))

theorem sget_tableFrom_below {lo k : Nat} (n : Nat) (h : k < lo) : sget d (tableFrom d v lo n) k = d := by
  induction n generalizing lo with
  | zero => rfl
  | succ n ih =>
    have rest := ih (lo := lo + 1) (by omega)
    by_cases hv : v lo = d
    · simpa [tableFrom, List.range'_succ, hv] using rest
    · simp [tableFrom, List.range'_succ, hv, sget, h, Nat.ne_of_gt h]

/-- A function is read back from its list. -/
theorem sget_tableFrom {lo n k : Nat} (hlo : lo ≤ k) (hk : k < lo + n) : sget d (tableFrom d v lo n) k = v k := by
  induction n generalizing lo with
  | zero => omega
  | succ n ih =>
    rcases Nat.eq_or_lt_of_le hlo with rfl | hlt
    · by_cases hv : v lo = d
      · simpa [tableFrom, List.range'_succ, hv] using sget_tableFrom_below d v n (Nat.lt_succ_self lo)
      · simp [tableFrom, List.range'_succ, hv, sget]
    · have rest := ih (lo := lo + 1) hlt (by omega)
      by_cases hv : v lo = d
      · simpa [tableFrom, List.range'_succ, hv] using rest
      · simpa [tableFrom, List.range'_succ, hv, sget, Nat.ne_of_lt hlt, Nat.lt_asymm hlt] using rest

end Tables

section Accumulators
variable {s : State} {w : Issuer} {st : Strand}

/-- A strand that a change leaves under its number is found with it. -/
theorem strandAt_mapStrand {f : Strand → Strand} {c i : Nat} (hc : ∀ x, (f x).crew = x.crew) (hi : ∀ x, (f x).idx = x.idx)
    (h : s.strandAt c i = some st) : (s.mapStrand c i f).strandAt c i = some (f st) := by
  have named := List.find?_some h
  have same : (fun x : Strand => (if x.crew == c && x.idx == i then f x else x).crew == c &&
      (if x.crew == c && x.idx == i then f x else x).idx == i) = fun x => x.crew == c && x.idx == i := by
    funext x
    split <;> simp only [hc, hi]
  have mapped : (s.mapStrand c i f).strandAt c i = ((s.self :: s.peers ++ s.saved).map
      (fun x => if x.crew == c && x.idx == i then f x else x)).find? (fun x => x.crew == c && x.idx == i) := by
    rw [List.map_append]
    rfl
  rw [State.strandAt] at h
  rw [mapped, List.find?_map, Function.comp_def, same, h, Option.map_some, if_pos named]

variable (g : Nat → Nat → Nat)

/-- The elements of an accumulator that is set, as a strand holds them. -/
def accTable : Sparse (BitVec 32) := tableFrom 0 (fun e => BitVec.ofNat 32 (g (e / 128) (e % 128))) 0 16384

theorem setAcc_eq (n : Nat) : s.setAcc w n g = s.mapStrand w.crew w.idx (fun st =>
    if n = 0 then { st with acc0 := accTable g } else { st with acc1 := accTable g }) := by
  rw [accTable, tableFrom, ← List.range_eq_range']
  rfl

theorem sget_accTable {i j : Nat} (hi : i < 128) (hj : j < 128) : (sget 0 (accTable g) (128 * i + j)).toNat = g i j % 2 ^ 32 := by
  have row : (128 * i + j) / 128 = i := by omega
  have column : (128 * i + j) % 128 = j := by omega
  rw [accTable, sget_tableFrom 0 _ (Nat.zero_le _) (by omega), row, column, BitVec.toNat_ofNat]

/-- The strand of an accumulator that is set, afterwards. -/
theorem strandAt_setAcc (h : s.strandAt w.crew w.idx = some st) (n : Nat) : (s.setAcc w n g).strandAt w.crew w.idx =
    some (if n = 0 then { st with acc0 := accTable g } else { st with acc1 := accTable g }) := by
  rw [setAcc_eq]
  exact strandAt_mapStrand (by intro; split <;> rfl) (by intro; split <;> rfl) h

theorem accAt_setAcc_same (h : s.strandAt w.crew w.idx = some st) {i j : Nat} (hi : i < 128) (hj : j < 128) (n : Nat) :
    (s.setAcc w n g).accAt w n i j = g i j % 2 ^ 32 := by
  rw [State.accAt, strandAt_setAcc g h, ← sget_accTable g hi hj]
  by_cases hn : n = 0 <;> simp [Strand.acc, hn]

theorem accAt_setAcc_other (h : s.strandAt w.crew w.idx = some st) {n m : Nat} (hnm : n = 0 ↔ m ≠ 0) (i j : Nat) :
    (s.setAcc w n g).accAt w m i j = s.accAt w m i j := by
  rw [State.accAt, State.accAt, strandAt_setAcc g h, h]
  by_cases hn : n = 0
  · simp [Strand.acc, hn, hnm.mp hn]
  · simp [Strand.acc, hn, Decidable.not_not.mp (mt hnm.mpr hn)]

end Accumulators

section Groups
variable {p : Product}

theorem sum_products (f : Nat → Int) (a b : List Nat) (t : Int) :
    (a.zip b).foldl (fun t x => t + f x.1 * f x.2) t = t + (List.zipWith (fun x y => f x * f y) a b).sum := by
  induction a generalizing b t with
  | nil => simp
  | cons x a ih =>
    cases b with
    | nil => simp
    | cons y b => simp [ih, Int.add_assoc]

/-- The exact sum of the products of one group of an integer product. -/
def Product.groupSum (p : Product) (m n q : Nat) : Int :=
  (List.zipWith (fun x y => toSigned 8 x * toSigned 8 y) (p.group p.a m q) (p.group p.b n q)).sum

theorem step_integer (h : p.fmtA = 0) (m n acc q : Nat) : p.step m n acc q =
    (((if p.ov && q = 0 then 0 else toSigned 32 acc) + p.groupSum m n q) % 2 ^ 32).toNat := by
  simp only [Product.step, h, if_true, sum_products, Int.zero_add, ofSigned, BitVec.toNat_ofInt, Product.groupSum]
  rfl

theorem step_floating (h : p.fmtA ≠ 0) (m n acc q : Nat) : p.step m n acc q =
    fp32.round rne ((if p.ov && q = 0 then .zero false else fp32.value acc).add 1 (fp32.value
      (promoteGroup ((p.group p.a m q).map (tileFmt p.fmtA).value) ((p.group p.b n q).map (tileFmt p.fmtB).value)
        (p.scale q m n) p.fold))) := by
  simp only [Product.step, h, if_false]

end Groups

/-- Settles O44. -/
theorem accumulatorArithmetic : Obligations.AccumulatorArithmetic := by
  unfold Obligations.AccumulatorArithmetic
  intro s w g st p m n acc q i j
  refine ⟨fun hst hi hj k hk => ⟨accAt_setAcc_same g hst hi hj k, accAt_setAcc_other g hst (by omega) i j⟩,
    ⟨fun h hov => ?_, fun h hov => ?_, fun h hov => ?_⟩, fun h hk => ?_, fun h hk => ?_⟩
  · rw [step_integer h, hov]
    rfl
  · rw [step_integer h, hov]
    simp only [Product.groupSum, decide_true, Bool.and_self, if_true, Int.zero_add]
  · rw [step_floating h, hov]
    rfl
  · simp only [Product.group, groupSize, h, hk]
    rfl
  · have groups : p.groups = 2 := by simp only [Product.groups, groupSize, h, hk]; rfl
    rw [Product.element, groups]
    rfl

end Sys2Proof.Machine

/-! PROOF. O45: the slew limiter (12 R387 to R391). -/

namespace Sys2Proof.Machine

section Rank
variable {s : State} {k : Nat}

/-- The better of two units: the second only where it ranks strictly first. -/
def State.firstOf (s : State) : Option Nat → Nat → Option Nat
  | none, k => some k
  | some j, k => if s.unitRank k < s.unitRank j then some k else some j

theorem firstUnit_eq (ks : List Nat) : s.firstUnit ks = ks.foldl s.firstOf none := by
  rw [State.firstUnit]
  congr 1
  funext b k
  cases b <;> rfl

/-- What a search that begins at a unit finds: that unit or one it meets, and none of these ranks before it. -/
theorem firstOf_finds {ks : List Nat} {j : Nat} (h : ks.foldl s.firstOf (some j) = some k) :
    k ∈ j :: ks ∧ ∀ i ∈ j :: ks, s.unitRank k ≤ s.unitRank i := by
  induction ks generalizing j with
  | nil =>
    obtain rfl : j = k := Option.some.inj h
    exact ⟨List.mem_cons_self, by simp⟩
  | cons a ks ih =>
    rw [List.foldl_cons, State.firstOf] at h
    split at h
    · next before =>
      obtain ⟨mem, least⟩ := ih h
      have first := least a List.mem_cons_self
      exact ⟨List.mem_cons_of_mem _ mem, List.forall_mem_cons.mpr ⟨by omega, least⟩⟩
    · next after =>
      obtain ⟨mem, least⟩ := ih h
      obtain ⟨first, rest⟩ := List.forall_mem_cons.mp least
      refine ⟨?_, List.forall_mem_cons.mpr ⟨first, List.forall_mem_cons.mpr ⟨by omega, rest⟩⟩⟩
      rcases List.mem_cons.mp mem with rfl | later
      · exact List.mem_cons_self
      · exact List.mem_cons_of_mem _ (List.mem_cons_of_mem _ later)

/-- The unit found is one of those in question, and none of them ranks before it. -/
theorem firstUnit_finds {ks : List Nat} (h : s.firstUnit ks = some k) :
    k ∈ ks ∧ ∀ j ∈ ks, s.unitRank k ≤ s.unitRank j := by
  rw [firstUnit_eq] at h
  cases ks with
  | nil => cases h
  | cons j ks => exact firstOf_finds h

end Rank

section Changes
variable {s : State} {k : Nat}

/-- A change of a cluster's grants, which bars another for four cycles. -/
theorem changed_setCore (cl : Nat) (f : Core → Core) :
    (s.setCore k f).changed cl = { (s.setCore k f) with grantCycle := sset 0 s.grantCycle cl (s.cycle + 4) } := rfl

theorem matrixGrant_first (h : s.firstUnit (s.readyUnits s.args.unit) = some k) : exec .matrixGrant s =
    .next (if s.mayChange s.args.unit then (s.setCore k (fun x =>
      { x with granted := true, ready := false, waiting := false, filler := 0 })).changed s.args.unit else s) := by
  rw [exec_matrixGrant, execMatrixGrant, h]

theorem matrixGrant_idle (h : s.readyUnits s.args.unit = []) : exec .matrixGrant s = .next s := by
  rw [exec_matrixGrant, execMatrixGrant, h]
  rfl

theorem matrixReleaseRequest_eq : exec .matrixReleaseRequest s =
    .next (if (s.core s.args.unit).asks then s.setCore s.args.unit (fun x => { x with waiting := true }) else s) :=
  exec_matrixReleaseRequest s

theorem asks_iff (c : Core) : c.asks = true ↔ c.granted = true ∧ c.waiting = false ∧ c.work = 0 ∧ c.hold ≤ c.filler := by
  simp only [Core.asks, Bool.and_eq_true, Bool.not_eq_true', beq_iff_eq, decide_eq_true_eq, and_assoc]

theorem matrixRelease_first (h : s.firstUnit (s.waitingUnits s.args.unit) = some k) : exec .matrixRelease s =
    .next (if s.mayChange s.args.unit && (s.readyUnits s.args.unit).isEmpty then (s.setCore k (fun x =>
      { x with granted := false, waiting := false, filler := 0 })).changed s.args.unit else s) := by
  rw [exec_matrixRelease, execMatrixRelease, h]

theorem mayChange_iff (cl : Nat) : s.mayChange cl = true ↔ sget 0 s.grantCycle cl ≤ s.cycle := by
  rw [State.mayChange, decide_eq_true_eq]

end Changes

/-- Settles O45: what the limiter does with the first unit in rank, and that it is the first. -/
theorem slewLimiter : Obligations.SlewLimiter := by
  unfold Obligations.SlewLimiter
  rintro s k cl set may
  refine ⟨?_, ?_, ?_, ?_, fun ks j h => (firstUnit_finds h).2 j, fun ks h => (firstUnit_finds h).1, fun c => ⟨?_, ?_, ?_⟩⟩
  · rintro rfl first
    rw [matrixGrant_first first]
    exact ⟨fun h => by rw [if_pos ((mayChange_iff _).mpr h), changed_setCore], fun h => by rw [if_neg (mt (mayChange_iff _).mp h)]⟩
  · rintro rfl idle
    exact matrixGrant_idle idle
  · rintro rfl
    rw [matrixReleaseRequest_eq]
    refine ⟨fun granted waiting work hold => by rw [if_pos ((asks_iff _).mpr ⟨granted, waiting, work, hold⟩)], fun h => ?_⟩
    refine congrArg _ (if_neg fun asks => ?_)
    obtain ⟨granted, -, work, hold⟩ := (asks_iff _).mp asks
    rcases h with h | h | h
    · exact absurd (granted.symm.trans h) (by decide)
    · exact h work
    · exact absurd hold (Nat.not_le_of_lt h)
  · rintro rfl first
    rw [matrixRelease_first first]
    refine ⟨fun h none => ?_, fun some => ?_⟩
    · rw [none, (mayChange_iff _).mpr h, changed_setCore]
      rfl
    · rw [List.isEmpty_eq_false_iff.mpr some, Bool.and_false]
      rfl
  · intro h
    rw [Core.cycle, h]
    rfl
  · intro h work
    rw [Core.cycle, h, if_pos work]
    rfl
  · intro h work
    rw [Core.cycle, h, if_neg (Nat.not_lt_of_le (Nat.le_of_eq work))]
    rfl

end Sys2Proof.Machine

/-! PROOF. O29: the matrix engine's instructions at issue (12 R370 to R383, R390). -/

namespace Sys2Proof.Machine

section Issue
variable {s : State} {px : Prefix} {f : FA} {a b : Word} {v : List Byte} {len opc : Nat} {op : Instr} {args : List Word}
  {bytes entry : List Byte}

/-! ## The queue -/

/-- The strand's matrix queue once a command has taken its place in it. -/
def State.matrixQueue (s : State) (op : Instr) (args : List Word) (bytes : List Byte) (bar : Option Nat) : Queue :=
  { s.self.mq with
    issue := s.self.mq.issue + 1
    cmds := s.self.mq.cmds ++ [{ seq := s.self.mq.issue + 1, pc := s.self.pc, who := s.issuer, op, args, bytes, born := s.serial, bar }] }

theorem queues_eq (s : State) (len : Nat) (op : Instr) (args : List Word) (bytes : List Byte) (bar : Option Nat) :
    s.queues len op args bytes bar = (s.mapSelf (fun st => { st with mq := s.matrixQueue op args bytes bar })).advance len := rfl

/-- A command that finds a hardware entry, of which there are at least 16, is placed there (01 R24). -/
theorem accept_matrix (h : s.self.mq.outstanding.length < 16) (bar : Option Nat) :
    s.accept 2 opc op args bytes bar 0 3 entry =
      .ok (s.mapSelf (fun st => { st with mq := s.matrixQueue op args bytes bar }), s.self.mq.issue + 1) := by
  have room : s.self.mq.outstanding.length < entriesOf 2 := lt_of_lt_of_le h (le_max_left 16 _)
  simp only [State.accept, if_neg (show ¬ (2 : Nat) = 1 by decide)]
  rw [if_pos room]
  rfl

theorem matrixIssue_room (h : s.self.mq.outstanding.length < 16) :
    s.matrixIssue len opc op args bytes entry = .ok (s.queues len op args bytes) := by
  rw [State.matrixIssue, accept_matrix h]
  rfl

theorem matrixOne_full (h : s.self.mq.outstanding.length < 16) (ha : s.source f.a a) :
    s.matrixOne opc op f = .ok (s.queues 4 op [a]) := by
  rw [State.matrixOne, srcG_full ha, except_ok_bind, matrixIssue_room h]

/-! ## Barriers, waits, scales -/

theorem mbar_full {p : Nat} (h : s.self.mq.outstanding.length < 16) (ha : s.source f.a a) (hp : s.ref 16 16 a = .ok p) :
    s.mbar f = .ok (s.queues 4 (.mbar f) [a] [] (some p)) := by
  rw [State.mbar, srcG_full ha, except_ok_bind, hp, except_ok_bind, accept_matrix h]
  rfl

theorem mscl_valid (h : s.self.mq.outstanding.length < 16) (ha : s.source f.a a) (hlt : a.toNat < 2 ^ 33)
    (hs : sigmaOk (a.toNat % 2 ^ 32) = true) : s.mscl f = .ok (s.queues 4 (.mscl f) [a]) := by
  rw [State.mscl, srcG_full ha, except_ok_bind, decide_eq_true hlt, need_true, except_ok_bind, hs, need_true, except_ok_bind,
    matrixIssue_room h]

theorem mscl_above (ha : s.source f.a a) (h : 2 ^ 33 ≤ a.toNat) : s.mscl f = .error (.fault ILL_FIELD a) := by
  rw [State.mscl, srcG_full ha, except_ok_bind, decide_eq_false (Nat.not_lt_of_le h), need_false, except_error_bind]

theorem mscl_invalid (ha : s.source f.a a) (hlt : a.toNat < 2 ^ 33) (hs : sigmaOk (a.toNat % 2 ^ 32) = false) :
    s.mscl f = .error (.fault SCALE_INVALID a) := by
  rw [State.mscl, srcG_full ha, except_ok_bind, decide_eq_true hlt, need_true, except_ok_bind, hs, need_false, except_error_bind]

theorem sigmaOk_iff (c : Nat) : sigmaOk c = true ↔ 0 < c ∧ c < 0x7F800000 := by
  simp only [sigmaOk, Bool.and_eq_true, decide_eq_true_eq]

theorem sigmaOk_eq_false {c : Nat} (h : c = 0 ∨ 0x7F800000 ≤ c) : sigmaOk c = false := by
  rw [Bool.eq_false_iff, Ne, sigmaOk_iff]
  omega

theorem mwait_reached (ha : s.source f.a a) (hc : a.toNat ≤ s.self.mq.completion) (hi : s.self.mq.completion ≤ s.self.mq.issue) :
    s.mwait f = .ok ((s.meets { after := [(s.ownQueue 2, a.toNat)] }).advance 4) := by
  rw [State.mwait, srcG_full ha, except_ok_bind, decide_eq_true (hc.trans hi), need_true, except_ok_bind, decide_eq_true hc, await_true,
    except_ok_bind]
  rfl

theorem mwait_above (ha : s.source f.a a) (h : s.self.mq.issue < a.toNat) : s.mwait f = .error (.fault ILL_FIELD a) := by
  rw [State.mwait, srcG_full ha, except_ok_bind, decide_eq_false (Nat.not_le_of_lt h), need_false, except_error_bind]

/-! ## Ramps -/

/-- What mramp makes of a core (R390). -/
def Core.ramp (a : Word) (c : Core) : Core :=
  if c.granted then { c with hold := a.toNat, waiting := c.waiting || (a == 0 && c.work == 0) }
  else if a == 0 then c
  else { c with ready := true, hold := a.toNat }

theorem mramp_full (ha : s.source f.a a) (h : a.toNat ≤ 65535) :
    s.mramp f = .ok ((s.setCore s.self.core (Core.ramp a)).advance 4) := by
  rw [State.mramp, srcG_full ha, except_ok_bind, decide_eq_true h, need_true, except_ok_bind]
  rfl

theorem mramp_above (ha : s.source f.a a) (h : 65535 < a.toNat) : s.mramp f = .error (.fault ILL_FIELD a) := by
  rw [State.mramp, srcG_full ha, except_ok_bind, decide_eq_false (Nat.not_le_of_lt h), need_false, except_error_bind]

theorem core_setCore_same (h : swf {} s.cores = true) (k : Nat) (g : Core → Core) : (s.setCore k g).core k = g (s.core k) :=
  sget_sset_same _ none s.cores k _ h

theorem ramp_idle {c : Core} (hg : c.granted = false) (h0 : a ≠ 0) : c.ramp a = { c with ready := true, hold := a.toNat } := by
  rw [Core.ramp, hg, if_neg Bool.false_ne_true, if_neg (by simpa using h0)]

theorem ramp_granted {c : Core} (hg : c.granted = true) :
    c.ramp a = { c with hold := a.toNat, waiting := c.waiting || (a == 0 && c.work == 0) } := by
  rw [Core.ramp, if_pos hg]

/-! ## Products (R372, R404) -/

theorem captureScales_full (scaled trap : Bool) (h : scaled = true → s.sourceV 63 v) :
    s.captureScales scaled trap = .ok (if scaled then v else []) := by
  cases scaled with
  | false => rfl
  | true => exact srcV_full (h rfl) trap

theorem productIssue_full {coop scaled : Bool} (h : s.self.mq.outstanding.length < 16) (ha : s.source f.a a) (hb : s.source f.b b)
    (hs : scaled = true → s.self.long = true ∧ s.sourceV 63 v) (hc : coop = true → s.crew.size = 8) (px : Prefix) :
    s.productIssue len px opc op f coop scaled = .ok (s.queues len op [a, b] (if scaled then v else [])) := by
  have admitted : ((!scaled || s.self.long) && (!coop || decide (s.crew.size = 8))) = true := by
    cases scaled <;> cases coop <;> simp_all
  rw [State.productIssue, State.productMode, admitted, need_true, except_ok_bind, srcG_full ha, except_ok_bind, srcG_full hb, except_ok_bind,
    captureScales_full scaled _ fun h => (hs h).2, except_ok_bind, matrixIssue_room h]

theorem productIssue_short {coop : Bool} (h : s.self.long = false) (px : Prefix) :
    s.productIssue len px opc op f coop true = .error (.fault MODE s.self.pc) := by
  rw [State.productIssue, State.productMode, h]
  rfl

theorem productIssue_crew {scaled : Bool} (h : s.crew.size ≠ 8) (px : Prefix) :
    s.productIssue len px opc op f true scaled = .error (.fault MODE s.self.pc) := by
  rw [State.productIssue, State.productMode, decide_eq_false h, Bool.not_true, Bool.or_false, Bool.and_false, need_false, except_error_bind]

/-! ## Commands that write v registers (R379, R380) -/

/-- mrow marks its destination empty, all but the bytes that its 128 results leave as they were, and then takes its place. -/
theorem mrow_full (h : s.self.mq.outstanding.length < 16) (hl : s.self.long = true) (hg : 128 ≤ s.crew.vlGrant) (ha : s.source f.a a)
    (hle : a.toNat ≤ 127) (hd : s.settled (.v f.d.toNat)) : s.mrow f = .ok (State.queues
      (s.produce (.v f.d.toNat) (List.replicate 512 none ++ ((s.self.vreg f.d.toNat).drop 512).map some)).1
      4 (.mrow f) [a, word s.serial]) := by
  have room : ((s.produce (.v f.d.toNat) (List.replicate 512 none ++ ((s.self.vreg f.d.toNat).drop 512).map some)).1).self.mq.outstanding.length
    < 16 := h
  rw [State.mrow, hl, Bool.true_and, decide_eq_true hg, need_true, except_ok_bind, srcG_full ha, except_ok_bind, decide_eq_true hle, need_true,
    except_ok_bind, destFree_settled hd, except_ok_bind]
  exact matrixIssue_room room

/-- What marking v registers empty leaves: their producers are numbered in order. -/
structure State.Produces (s : State) (l : List Nat) (t : State) : Prop where
  mq : t.self.mq = s.self.mq
  v : t.self.v = s.self.v
  pc : ∀ len, (t.self.advance len).pc = (s.self.advance len).pc
  returns : t.returns.map (fun x => (x.id, x.dest)) = s.returns.map (fun x => (x.id, x.dest)) ++
    (l.zipIdx s.serial).map (fun x => (x.2, .v x.1))
  bytes : s.KeepsBytes t

theorem produceGroup_produces (s : State) (size : Nat) (l : List Nat) (n : Nat) : s.Produces l (s.produceGroup size l n).1 := by
  induction l generalizing s n with
  | nil => exact ⟨rfl, rfl, fun _ => rfl, (List.append_nil _).symm, .refl s⟩
  | cons r l ih =>
    let first := (s.produce (.v r) (List.replicate (min size n) none ++ ((s.self.vreg r).drop (min size n)).map some)).1
    have kept : s.KeepsBytes first := ⟨rfl, rfl, rfl, rfl, rfl, rfl⟩
    obtain ⟨mq, v, pc, returns, bytes⟩ := ih first (n - min size n)
    refine ⟨mq, v, pc, returns.trans ?_, kept.trans bytes⟩
    simp only [first, State.produce, List.map_append, List.map_cons, List.map_nil, List.zipIdx_cons, List.append_assoc,
      List.singleton_append]

/-- The numbers of these producers. -/
theorem produceGroup_ids (s : State) (size : Nat) (l : List Nat) (n : Nat) :
    (s.produceGroup size l n).2 = List.range' s.serial l.length := by
  induction l generalizing s n with
  | nil => rfl
  | cons r l ih => exact congrArg (s.serial :: ·) (ih _ _)

/-- What a command leaves that joins the queue once its destinations have been marked empty. -/
theorem queues_produced {l : List Nat} {u : State} (h : s.Produces l u) (len : Nat) (op : Instr) (args : List Word) (bytes : List Byte) :
    let t := u.queues len op args bytes
    t.self.mq.issue = s.self.mq.issue + 1 ∧
      t.self.mq.cmds.map (fun c => (c.seq, c.op, c.args, c.bytes)) =
        s.self.mq.cmds.map (fun c => (c.seq, c.op, c.args, c.bytes)) ++ [(s.self.mq.issue + 1, op, args, bytes)] ∧
      t.returns.map (fun x => (x.id, x.dest)) = s.returns.map (fun x => (x.id, x.dest)) ++
        (l.zipIdx s.serial).map (fun x => (x.2, .v x.1)) ∧
      t.self.pc = (s.self.advance len).pc ∧ t.self.v = s.self.v ∧ s.sameMemory t := by
  obtain ⟨mq, v, pc, returns, kept⟩ := h
  have joined : u.KeepsBytes (u.queues len op args bytes) := ⟨rfl, rfl, rfl, rfl, rfl, rfl⟩
  refine ⟨congrArg (fun x : Queue => x.issue + 1) mq, ?_, returns, pc len, v, (kept.trans joined).sameMemory⟩
  have cmds : (u.queues len op args bytes).self.mq.cmds = (u.matrixQueue op args bytes none).cmds := rfl
  rw [cmds, State.matrixQueue, mq, List.map_append]
  rfl

/-- The bytes of mcvt's result, and the registers it fills (R380). -/
def narrowBytes (f : FA) : Nat := if f.fn.toNat / 2 != 0 then 16384 else 32768
def State.narrowCount (s : State) (f : FA) : Nat := (narrowBytes f + 8 * s.crew.vlGrant - 1) / (8 * s.crew.vlGrant)
def State.narrowRegs (s : State) (f : FA) : List Nat := (List.range (s.narrowCount f)).map (· + f.d.toNat)

/-- What mcvt captures besides the results' numbers. -/
def State.narrowArgs (s : State) (px : Prefix) (r : Rnd) : List Word :=
  [r.idx, r.srs, word r.mode, word r.sat, word (s.self.tag px), s.self.seed (s.self.tag px), word (8 * s.crew.vlGrant)]

/-- The numbers of mcvt's results. -/
theorem narrowIds (s : State) (f : FA) : ((s.produceGroup (8 * s.crew.vlGrant) (s.narrowRegs f) (narrowBytes f)).2).map word =
    (List.range (s.narrowCount f)).map (fun k => word (s.serial + k)) := by
  rw [produceGroup_ids, State.narrowRegs, List.length_map, List.length_range, List.range'_eq_map_range, List.map_map]
  rfl

theorem narrowRegs_zipIdx (s : State) (f : FA) : ((s.narrowRegs f).zipIdx s.serial).map (fun x => (x.2, Dest.v x.1)) =
    (List.range (s.narrowCount f)).map (fun k => (s.serial + k, .v (f.d.toNat + k))) := by
  refine List.ext_getElem (by simp [State.narrowRegs]) fun k _ _ => ?_
  simp [State.narrowRegs, Nat.add_comm]

theorem mcvt_short (h : s.self.long = false) : s.mcvt len px f = .error (.fault MODE s.self.pc) := by
  rw [State.mcvt, h, need_false, except_error_bind]

theorem mcvt_past (hl : s.self.long = true) (h63 : s.sourceV 63 v) {r : Rnd} (hr : s.rround px = .ok r)
    (hpast : 62 < f.d.toNat + s.narrowCount f - 1) : s.mcvt len px f = .error (.fault ILL_FIELD (f.d.setWidth 64)) := by
  have past : decide (f.d.toNat + s.narrowCount f - 1 ≤ 62) = false := decide_eq_false (Nat.not_le_of_lt hpast)
  rw [State.narrowCount, narrowBytes] at past
  simp only [State.mcvt, hl, need_true, except_ok_bind, hr, captureScales_full true _ fun _ => h63, past, need_false, except_error_bind,
    word, BitVec.ofNat_toNat]

theorem mcvt_full (h : s.self.mq.outstanding.length < 16) (hl : s.self.long = true) (h63 : s.sourceV 63 v) {r : Rnd}
    (hr : s.rround px = .ok r) (hfits : f.d.toNat + s.narrowCount f - 1 ≤ 62)
    (hsize : (f.fn.toNat / 2 != 0) = true → 2052 ≤ 8 * s.crew.vlGrant) (hd : ∀ k ∈ s.narrowRegs f, s.settled (.v k)) :
    s.mcvt len px f = .ok ((s.produceGroup (8 * s.crew.vlGrant) (s.narrowRegs f) (narrowBytes f)).1.queues len (.mcvt f)
      (s.narrowArgs px r ++ (List.range (s.narrowCount f)).map (fun k => word (s.serial + k))) v) := by
  have fits : decide (f.d.toNat + s.narrowCount f - 1 ≤ 62) = true := decide_eq_true hfits
  have wide : (!(f.fn.toNat / 2 != 0) || decide (2052 ≤ 8 * s.crew.vlGrant)) = true := by
    cases hn : f.fn.toNat / 2 != 0
    · rfl
    · rw [decide_eq_true (hsize hn), Bool.or_true]
  have free : (s.narrowRegs f).all (fun k => !s.pendingOn s.self.crew s.self.idx (.v k)) = true :=
    List.all_eq_true.mpr fun k hk => by rw [hd k hk]; rfl
  have room : (s.produceGroup (8 * s.crew.vlGrant) (s.narrowRegs f) (narrowBytes f)).1.self.mq.outstanding.length < 16 := by
    rw [(produceGroup_produces ..).mq]
    exact h
  rw [← narrowIds]
  rw [State.narrowCount, narrowBytes] at fits
  rw [State.narrowRegs, State.narrowCount, narrowBytes] at free room ⊢
  simp only [State.mcvt, hl, need_true, except_ok_bind, hr, captureScales_full true _ fun _ => h63, fits, wide, free, await_true]
  exact matrixIssue_room room

end Issue

/-- Settles O29: each instruction once its operands are full and nothing holds it back, and the checks it fails. -/
theorem matrixIssue : Obligations.MatrixIssue := by
  unfold Obligations.MatrixIssue
  refine ⟨?_, ?_⟩
  · intro s px f a b v p product room
    have queued {i : Instr} {body : Except Stop State} {t : State} (hi : exec i s = finish s body) (h : body = .ok t) :
        exec i s = .next t := hi.trans (congrArg (finish s) h)
    have stops {i : Instr} {body : Except Stop State} {code : BitVec 8} {addr : Word} (hi : exec i s = finish s body)
        (h : body = .error (.fault code addr)) : exec i s = .next (s.raise code addr) := hi.trans (congrArg (finish s) h)
    have products {i : Instr} {opc : Nat} (coop scaled : Bool) (hi : exec i s = finish s (s.productIssue 4 {} opc i f coop scaled))
        (hpair : s.paired px i = s.productIssue 8 px opc i f coop scaled)
        (hs : scaled = true → s.self.long = true ∧ s.sourceV 63 v) (hc : coop = true → s.crew.size = 8) :
        product i (if scaled then v else []) := fun ha hb =>
      exec_both (body := fun len px => s.productIssue len px opc i f coop scaled) hi hpair (productIssue_full room ha hb hs hc {})
        (productIssue_full room ha hb hs hc px)
    clear_value product
    refine ⟨queued rfl (matrixIssue_room room), queued rfl (matrixIssue_room room), queued rfl (matrixIssue_room room),
      fun ha => ⟨queued rfl (matrixOne_full room ha), queued rfl (matrixOne_full room ha), queued rfl (matrixOne_full room ha),
        fun h => queued rfl (mbar_full room ha h), fun h lo hi => queued rfl (mscl_valid room ha h ((sigmaOk_iff _).mpr ⟨lo, hi⟩)),
        fun h => stops rfl (mscl_above ha h), fun h bad => stops rfl (mscl_invalid ha h (sigmaOk_eq_false bad)),
        fun hc hi => queued rfl (mwait_reached ha hc hi), fun h => stops rfl (mwait_above ha h), fun hl hg hle hd => ?_, fun h => ?_,
        fun h => stops rfl (mramp_above ha h)⟩,
      products false false rfl rfl nofun nofun, fun hc => products true false rfl rfl nofun fun _ => hc,
      fun hl h63 => products false true rfl rfl (fun _ => ⟨hl, h63⟩) nofun,
      fun hl hc h63 => products true true rfl rfl (fun _ => ⟨hl, h63⟩) fun _ => hc,
      fun hl => ⟨stops rfl (productIssue_short hl {}), stops rfl (productIssue_short hl {}), stops rfl (mcvt_short hl)⟩,
      fun hc => stops rfl (productIssue_crew hc {})⟩
    · refine ⟨_, queued rfl (mrow_full room hl hg ha hle hd), rfl, ?_, rfl, rfl, rfl⟩
      rw [queues_eq]
      exact List.map_append
    · refine ⟨_, queued rfl (mramp_full ha h), rfl, fun canon idle h0 => ?_, fun canon granted => ?_⟩
      · have core : ((s.setCore s.self.core (Core.ramp a)).advance 4).core s.self.core = _ := core_setCore_same canon ..
        rw [core, ramp_idle idle h0]
        exact ⟨rfl, rfl⟩
      · have core : ((s.setCore s.self.core (Core.ramp a)).advance 4).core s.self.core = _ := core_setCore_same canon ..
        rw [core, ramp_granted granted]
        exact ⟨granted, rfl⟩
  · intro s px f v r narrow size bytes n regs done hl h63 h0 hp
    have narrow_eq : narrow = (f.fn.toNat / 2 != 0) := Bool.eq_iff_iff.mpr (by simp [narrow])
    clear_value narrow
    subst narrow_eq
    refine ⟨?_, ?_⟩
    · intro hfits hsize _ room hd
      have joins (len : Nat) (px : Prefix) (hr : s.rround px = .ok (r px)) (i : Instr) (hi : exec i s = finish s (s.mcvt len px f)) :
          done len px i := by
        have produced := produceGroup_produces s (8 * s.crew.vlGrant) (s.narrowRegs f) (narrowBytes f)
        have left := queues_produced produced len (.mcvt f)
          (s.narrowArgs px (r px) ++ (List.range (s.narrowCount f)).map (fun k => word (s.serial + k))) v
        rw [narrowRegs_zipIdx] at left
        exact ⟨_, hi.trans (congrArg (finish s) (mcvt_full room hl h63 hr hfits hsize hd)), left⟩
      exact ⟨joins 4 {} h0 _ rfl, joins 8 px hp _ rfl⟩
    · intro past
      exact congrArg (finish s) (mcvt_past (len := 4) hl h63 h0 past)

end Sys2Proof.Machine

/-! PROOF. O43 fails: what a step of mld does that reads one word of its descriptor ahead (04 R127, R147). -/

namespace Sys2Proof.Machine

/-- An mld at the head of its queue, the address of whose descriptor is not aligned. -/
def misaligned : Cmd := { seq := 1, pc := 0, who := { crew := 1 }, op := .mld {}, args := [1] }

/-- A strand with that command, and an event that names a word of the descriptor to be read ahead. -/
def readsAhead : State := { self := { crew := 1, mq := { issue := 1, cmds := [misaligned] } }, args := { part := some 1 } }

/-- That state with the command's strand the holder of its unit (12 R364). -/
def heldAhead : State := readsAhead.setCore 0 (fun x => { x with holder := 257 })

/-- That state with the command begun. -/
def begunAhead : State := heldAhead.stageCmd (.matrix 1 0) misaligned 1

/-- How far the matrix queue of the strand whose turn it is has come after an event. -/
def completed (o : Host.Outcome State Fault Refusal) : Option Nat :=
  match o with
  | .next t => some t.self.mq.completion
  | _ => none

/-- The step reads no word, and the command stays in its queue. -/
theorem completed_mldExec_readsAhead : completed (exec .mldExec readsAhead) = some 0 := by
  rw [exec_mldExec]
  decide

/-- What the statement says that it leaves has the command completed with the fault of its descriptor. -/
theorem completed_faulted : completed (.next (begunAhead.endCommand (.matrix 1 0) misaligned (some (ALIGN, 1)))) = some 1 := by
  decide

/-- Refutes O43: a step of mld for which the event names one word of the descriptor to be read ahead ends no command, where the
statement has it end at once with the fault of the descriptor. That clause lacks the hypothesis that the event names no part
(`s.args.part = none`): the statement has it of the state `z` alone, which does not stand in the clause. -/
theorem not_matrixCommands : ¬ Obligations.MatrixCommands := by
  intro h
  obtain ⟨-, -, -, -, -, faults, -⟩ := h readsAhead heldAhead {} {} {} (.matrix 1 0)
    readsAhead.self.mq misaligned {} (tileOf 0 []) (tileOf 0 []) [] [] [] {} 0 ALIGN 1 (by decide) rfl (by decide) rfl rfl rfl rfl rfl
  have stated := congrArg completed (faults rfl rfl)
  rw [completed_mldExec_readsAhead] at stated
  exact absurd (stated.trans completed_faulted) (by decide)

end Sys2Proof.Machine

/-! PROOF. O47: a strong write of an engine (13 R400; 10 R317). -/

namespace Sys2Proof.Machine

/-- A write in G space makes its line unpublished, whatever a full L2 then lets go of. -/
theorem unpub_putAt (s : State) (key : Option (BitVec 512)) {p : Nat} {bs : List Byte} (hb : bs ≠ []) :
    (s.putAt key p bs).unpub = if Place.isG p = true then sset false s.unpub (p / 128) true else s.unpub := by
  have fitted (u : State) (k : Nat) : (u.fitL2 k).unpub = u.unpub := by
    unfold State.fitL2
    split
    · rfl
    · split
      · rfl
      · split <;> rfl
  obtain ⟨m, k, he⟩ := rekey_eq s key p
  unfold State.putAt
  rw [he]
  cases hg : Place.isG p with
  | true => simp [hb, fitted]
  | false => simp

/-- A slice with room for one more line keeps the line that is written dirty. -/
theorem dirty_putAt_same {s : State} (key : Option (BitVec 512)) {p : Nat} {bs : List Byte} (hb : bs ≠ []) (hg : Place.isG p = true)
    (room : s.sliceUsed (sliceOf p) < s.sliceLines (sliceOf p)) : sget false (s.putAt key p bs).dirty (p / 128) = true := by
  obtain ⟨m, k, he⟩ := rekey_eq s key p
  have used := sset_count false s.dirty (p / 128) true (fun e => sliceOf (128 * e.1) == sliceOf p)
  have fits : State.sliceUsed { s with dirty := sset false s.dirty (p / 128) true } (sliceOf p) ≤ s.sliceLines (sliceOf p) := by
    simp only [State.sliceUsed] at room ⊢
    omega
  unfold State.putAt
  rw [he]
  simp only [hg, Bool.true_and, bne_iff_ne, ne_eq, hb, not_false_eq_true, if_true]
  refine (congrArg (fun t : State => sget false t.dirty (p / 128)) (fitL2_fits ?_)).trans (sget_sset_listed false s.dirty _ (by decide))
  exact fits

/-- An engine's write is the write of its bytes, in a bank that is awake, while no slot of a ring is asked for (07 R259). -/
theorem engineWrite_idle {s : State} (q : QueueRef) (c : Cmd) (x : Spot) (bs : List Byte)
    (idle : ∀ w ∈ s.waiters, w.served.isSome = true ∨ (w.need ≠ .claim ∧ w.need ≠ .take)) :
    s.engineWrite q c x bs =
      ((s.wakeAt x.place).writeAs (s.eventFor q c) (s.keyOf x.key) x.place bs).clearPoison x.place bs.length := by
  have woken := notes_wakeAt s x.place
  obtain ⟨put, -, -⟩ := putAt_keeps (s.wakeAt x.place) (s.keyOf x.key) x.place bs
  refine serveRings_idle ?_
  show ∀ w ∈ ((s.wakeAt x.place).putAt (s.keyOf x.key) x.place bs).waiters, _
  rw [put.waiters, woken.waiters]
  exact idle

/-- Settles O47: the write is one of `putAt`, after a bank may have woken, which leaves every byte. -/
theorem engineWrites : Obligations.EngineWrites := by
  unfold Obligations.EngineWrites
  intro s q c x bs t hi hfit hb idle room
  have ht : t = _ := engineWrite_idle q c x bs idle
  clear_value t
  subst ht
  obtain ⟨ch, w, he⟩ := wakeAt_eq s x.place
  rw [he]
  generalize hu : ({ s with chans := ch, workRows := w } : State) = u
  have hmem : u.mem = s.mem := by rw [← hu]
  have hkey : u.lineKey = s.lineKey := by rw [← hu]
  have hdirty : u.dirty = s.dirty := by rw [← hu]
  have hunpub : u.unpub = s.unpub := by rw [← hu]
  have hroom : room → Place.isG x.place = true → u.sliceUsed (sliceOf x.place) < u.sliceLines (sliceOf x.place) := by
    rw [← hu]
    exact id
  have hinv : u.Inv := hi.congr hmem hkey
  have hself : u.self = s.self ∧ u.reqs = s.reqs := by rw [← hu]; exact ⟨rfl, rfl⟩
  clear he hu
  obtain ⟨put, -, -⟩ := putAt_keeps u (s.keyOf x.key) x.place bs
  have unpub := unpub_putAt u (s.keyOf x.key) (p := x.place) hb
  have written (key : Option (BitVec 512)) (p : Nat) :
      State.byteAt ((u.writeAs (s.eventFor q c) (s.keyOf x.key) x.place bs).clearPoison x.place bs.length) key p =
        (u.putAt (s.keyOf x.key) x.place bs).byteAt key p := byteAt_congr rfl rfl rfl key p
  have get_other (p : Nat) (hp : p / 128 ≠ x.place / 128) :
      Memory.get (u.putAt (s.keyOf x.key) x.place bs).mem p = Memory.get s.mem p := by
    rw [get_putAt_other hinv _ hfit hp, hmem]
  have key_other (p : Nat) (hp : p / 128 ≠ x.place / 128) :
      sget none (u.putAt (s.keyOf x.key) x.place bs).lineKey (p / 128) = sget none s.lineKey (p / 128) := by
    rw [lineKey_putAt_other hinv _ _ hp, hkey]
  refine ⟨fun p hp => ?_, fun p hp => ⟨get_other p hp, key_other p hp⟩, fun hr key p hp => ?_, fun hg => ?_, fun hg hr => ?_,
    fun hg => ?_, put.self.trans hself.1, put.reqs.trans hself.2, ?_⟩
  · rw [written, byteAt_putAt hinv _ _ hp, byteAt_congr hmem hkey hdirty]
  · rw [written]
    refine byteAt_congr_line (fun y hy => get_other y (by omega)) (key_other p hp) ?_ key
    rw [dirty_putAt_other _ _ hp (hroom hr), hdirty]
  · refine (congrArg (sget false · _) unpub).trans ?_
    rw [if_pos hg]
    exact sget_sset_listed false _ _ (by decide)
  · exact dirty_putAt_same _ hb hg (hroom hr hg)
  · refine unpub.trans ?_
    rw [hg, hunpub]
    rfl
  · exact (putAt_inv hinv (s.keyOf x.key) x.place bs).congr rfl rfl

end Sys2Proof.Machine

/-! PROOF. O49 fails: a trip of a tower, in a state that lists its dirty lines out of order. -/

namespace Sys2Proof.Machine

/-! ## A line of zeros under a key of zeros

What AES makes of the line's address, and makes of that again, a few rounds at a time. -/

/-- The round keys of a key of zeros. -/
def zeroRounds : List (List Byte) := [
  0x0, 0x0,
  0x63636362636363626363636263636362, 0xfbfbfbaafbfbfbaafbfbfbaafbfbfbaa,
  0xac0f0f0dcf6c6c6fac0f0f0dcf6c6c6f, 0x917676d76a8d8d7d917676d76a8d8d7d,
  0xe81383ca28e37316de25b5ec1ed5453, 0xab0c07eb3a7a713c50f7fc41c1818a96,
  0xe962fecde7e3c6f1456df1c0288faa9e, 0x1eaabbbdb5a6bc568fdccd6adf2b312b,
  0x1911cf98f07331551790f7a452fd0664, 0x2f7971ec31d3ca51847576070ba9bb6d,
  0x621ab98e7b0b76168b7847439ce8b0e7, 0x3bd420ce14ad5122257e9b73a10bed74,
  0x856370cbe779c9459c72bf53170af810].map (leBytes 16)

theorem roundKey_zeros : (List.range 15).map (roundKey (expandKey (leBytes 32 0))) = zeroRounds := by decide +kernel

/-- A round of encryption, and one of decryption, under a key of zeros. -/
def encryptRound (b : List Byte) (r : Nat) : List Byte :=
  xorBytes (mixColumns [2, 3, 1, 1] (shiftRows 1 (b.map subByte))) (zeroRounds.getD (r + 1) [])
def decryptRound (b : List Byte) (r : Nat) : List Byte :=
  mixColumns [14, 11, 13, 9] (xorBytes ((shiftRows 3 b).map unsubByte) (zeroRounds.getD (13 - r) []))

theorem roundKey_zero {r : Nat} (h : r < 15) : roundKey (expandKey (leBytes 32 0)) r = zeroRounds.getD r [] := by
  rw [← roundKey_zeros]
  simp [h]

theorem aesEncrypt_zeroKey (b : List Byte) : aesEncrypt (leBytes 32 0) b = xorBytes (shiftRows 1
    (((List.range 13).foldl encryptRound (xorBytes b (zeroRounds.getD 0 []))).map subByte)) (zeroRounds.getD 14 []) := by
  have rounds (c : List Byte) : (List.range 13).foldl (fun b r =>
      xorBytes (mixColumns [2, 3, 1, 1] (shiftRows 1 (b.map subByte))) (roundKey (expandKey (leBytes 32 0)) (r + 1))) c =
      (List.range 13).foldl encryptRound c :=
    List.foldl_ext _ _ _ fun b r hr => by rw [roundKey_zero (by have := List.mem_range.mp hr; omega), encryptRound]
  rw [aesEncrypt, roundKey_zero (by decide), roundKey_zero (by decide), rounds]

theorem aesDecrypt_zeroKey (b : List Byte) : aesDecrypt (leBytes 32 0) b = xorBytes ((shiftRows 3
    ((List.range 13).foldl decryptRound (xorBytes b (zeroRounds.getD 14 [])))).map unsubByte) (zeroRounds.getD 0 []) := by
  have rounds (c : List Byte) : (List.range 13).foldl (fun b r =>
      mixColumns [14, 11, 13, 9] (xorBytes ((shiftRows 3 b).map unsubByte) (roundKey (expandKey (leBytes 32 0)) (13 - r)))) c =
      (List.range 13).foldl decryptRound c :=
    List.foldl_ext _ _ _ fun b r _ => by rw [roundKey_zero (by omega), decryptRound]
  rw [aesDecrypt, roundKey_zero (by decide), roundKey_zero (by decide), rounds]

theorem encrypt_firstRounds : [0, 1, 2, 3].foldl encryptRound (leBytes 16 0x10000000000000) = leBytes 16 0x40a8980e08b9b6657e70b36aa4360acc := by decide +kernel
theorem encrypt_secondRounds : [4, 5, 6].foldl encryptRound (leBytes 16 0x40a8980e08b9b6657e70b36aa4360acc) = leBytes 16 0xe8325ba578b4c7256896a9325a7811ad := by decide +kernel
theorem encrypt_thirdRounds : [7, 8, 9].foldl encryptRound (leBytes 16 0xe8325ba578b4c7256896a9325a7811ad) = leBytes 16 0xca4aca8ca3f8678d6cdce50dd55db343 := by decide +kernel
theorem encrypt_lastRounds : [10, 11, 12].foldl encryptRound (leBytes 16 0xca4aca8ca3f8678d6cdce50dd55db343) = leBytes 16 0xe262b851ccd3fdc65ace989e48983409 := by decide +kernel

theorem decrypt_firstRounds : [0, 1, 2, 3].foldl decryptRound (leBytes 16 0x4b8b18d1be466cb452aa540b98664601) = leBytes 16 0xe4af12c9aa73358fb1b91fd7eae3d58 := by decide +kernel
theorem decrypt_secondRounds : [4, 5, 6].foldl decryptRound (leBytes 16 0xe4af12c9aa73358fb1b91fd7eae3d58) = leBytes 16 0x1f25de8b299c9b0dab3138dd4890d7cd := by decide +kernel
theorem decrypt_thirdRounds : [7, 8, 9].foldl decryptRound (leBytes 16 0x1f25de8b299c9b0dab3138dd4890d7cd) = leBytes 16 0xa3ea7debba283868ebb56941c1e43fee := by decide +kernel
theorem decrypt_lastRounds : [10, 11, 12].foldl decryptRound (leBytes 16 0xa3ea7debba283868ebb56941c1e43fee) = leBytes 16 0x63ca6363636363636363636363636363 := by decide +kernel

/-- What the address of line 0 encrypts to. -/
def tweakCipher : List Byte := leBytes 16 0xcee8681a593fa5f1ced8eb588f6cbe11

theorem aesEncrypt_tweak : aesEncrypt (leBytes 32 0) (leBytes 16 0x10000000000000) = tweakCipher := by
  have rounds : (List.range 13).foldl encryptRound (leBytes 16 0x10000000000000) = leBytes 16 0xe262b851ccd3fdc65ace989e48983409 := by
    rw [show List.range 13 = [0, 1, 2, 3] ++ ([4, 5, 6] ++ ([7, 8, 9] ++ [10, 11, 12])) from rfl, List.foldl_append, encrypt_firstRounds,
      List.foldl_append, encrypt_secondRounds, List.foldl_append, encrypt_thirdRounds, encrypt_lastRounds]
  rw [aesEncrypt_zeroKey, show xorBytes (leBytes 16 0x10000000000000) (zeroRounds.getD 0 []) = leBytes 16 0x10000000000000 by decide +kernel, rounds]
  decide +kernel

theorem aesDecrypt_tweakCipher : aesDecrypt (leBytes 32 0) tweakCipher = leBytes 16 0x10000000000000 := by
  have rounds : (List.range 13).foldl decryptRound (leBytes 16 0x4b8b18d1be466cb452aa540b98664601) = leBytes 16 0x63ca6363636363636363636363636363 := by
    rw [show List.range 13 = [0, 1, 2, 3] ++ ([4, 5, 6] ++ ([7, 8, 9] ++ [10, 11, 12])) from rfl, List.foldl_append, decrypt_firstRounds,
      List.foldl_append, decrypt_secondRounds, List.foldl_append, decrypt_thirdRounds, decrypt_lastRounds]
  rw [aesDecrypt_zeroKey, show xorBytes tweakCipher (zeroRounds.getD 14 []) = leBytes 16 0x4b8b18d1be466cb452aa540b98664601 by decide +kernel, rounds]
  decide +kernel

/-- The first byte of a line of zeros, read under that key. -/
theorem xts_zeros : (xts true 0 0x10000000000000 (List.replicate 128 0))[0]? = tweakCipher[0]? := by
  have key : (leBytes 64 (0 : BitVec 512).toNat).take 32 = leBytes 32 0 ∧ (leBytes 64 (0 : BitVec 512).toNat).drop 32 = leBytes 32 0 := by decide +kernel
  have masks : ∃ rest, xtsMasks (leBytes 32 0) 0x10000000000000 8 = tweakCipher :: rest := by
    rw [xtsMasks, show leBytes 16 (0x10000000000000 : Word).toNat = leBytes 16 0x10000000000000 from rfl, aesEncrypt_tweak]
    exact ⟨_, rfl⟩
  obtain ⟨rest, masks⟩ := masks
  have block : xorBytes (slice (List.replicate 128 0) (16 * 0) 16) tweakCipher = tweakCipher := by decide +kernel
  rw [xts, key.1, key.2, show (List.replicate 128 (0 : Byte)).length / 16 = 8 by rw [List.length_replicate], masks]
  simp only [if_true, List.zipIdx_cons, List.flatMap_cons, block, aesDecrypt_tweakCipher]
  rw [List.getElem?_append_left (by decide)]
  decide

/-! ## The trip -/

/-- A state whose map of dirty lines names a line of tower 1 before line 0, of tower 0: line 0 is then not found dirty, since the keys
of a map rise. The event is a trip of tower 1. -/
def outOfOrder : State := { dirty := [(2 ^ 28, true), (0, true)], args := { unit := 1 } }

/-- The first byte of line 0, stored in plaintext, is not 0 where it is read under a key. -/
theorem byteAt_outOfOrder : outOfOrder.byteAt (some 0) 0 ≠ 0 := by
  have line : (List.range 128).map (fun i => Memory.get outOfOrder.mem (128 * 0 + i)) = List.replicate 128 0 := by decide
  have read : outOfOrder.byteAt (some 0) 0 = ((xts true 0 0x10000000000000 (List.replicate 128 0))[0]?).getD 0 := by
    have stored : ¬ (!Place.isG 0 || decide (sget none outOfOrder.lineKey (0 / 128) = some 0) || sget false outOfOrder.dirty (0 / 128)) = true := by
      decide +kernel
    have address : placeAddr (128 * (0 / 128)) = 0x10000000000000 := by decide +kernel
    rw [State.byteAt, State.underKey, if_neg stored, address, ← line]
    rfl
  rw [read, xts_zeros]
  decide

/-- The trip takes the dirty line of tower 1 from the map, so that line 0 is found dirty and reads as plaintext. -/
theorem byteAt_towerTrip_outOfOrder : (outOfOrder.towerTrip 1 MC_THERM_RC).byteAt (some 0) 0 = 0 := by decide +kernel

/-- Refutes O49: a trip of tower 1 changes what a byte homed in tower 0 reads as. The statement has it of every state; it
lacks the hypothesis that the map of dirty lines is in its canonical form. -/
theorem not_powerTripsAndErrors : ¬ Obligations.PowerTripsAndErrors := by
  intro h
  obtain ⟨-, -, -, -, -, -, -, -, -, -, -, trips, -⟩ := h outOfOrder {}
  obtain ⟨-, -, shed, -⟩ := trips (by decide) rfl
  obtain ⟨⟨t, ht, -, -, -, keeps, -⟩, -⟩ := shed rfl
  obtain rfl : outOfOrder.towerTrip 1 MC_THERM_RC = t := Host.Outcome.next.inj ht
  exact byteAt_outOfOrder ((keeps (some 0) 0 (by decide)).symm.trans byteAt_towerTrip_outOfOrder)

end Sys2Proof.Machine

/-! PROOF. O30: the crane's instructions at issue (13 R396 to R406). -/

namespace Sys2Proof.Machine

/-! ## Descriptors, records and references -/

section Notes
variable {s u : State} (h : s.Notes u)
include h

theorem State.Notes.ref (align n : Nat) (r : Word) : u.ref align n r = s.ref align n r := by
  rw [State.ref, State.ref, h.crew, h.self]

theorem State.Notes.barrierOf (on : Bool) (r : Word) : u.barrierOf on r = s.barrierOf on r := by
  rw [State.barrierOf, State.barrierOf, h.ref]

theorem State.Notes.extentsOk (d : CopyDesc) (k : CopyForm) : u.extentsOk d k = s.extentsOk d k := by
  rw [State.extentsOk, State.extentsOk, h.crew, h.self]

theorem State.Notes.destFree (d : Dest) : s.settled d → u.destFree d = .ok () := fun hd =>
  destFree_settled (by rwa [State.settled, State.pendingOn, h.returns, h.self])

end Notes

/-- What an instruction has read of its descriptor leaves its strand and memory as they were. -/
theorem issueRead_reads {s u : State} {a : Word} {n : Nat} {bs : List Byte} (h : s.issueRead a n = .ok (bs, u)) :
    s.Notes u ∧ u.serial = s.serial + 1 := by
  obtain ⟨-, -, h⟩ := except_bind_eq_ok h
  obtain ⟨-, -, h⟩ := except_bind_eq_ok h
  obtain ⟨r, hr, h⟩ := except_bind_eq_ok h
  exact notes_lookedAt hr (Prod.mk.inj (Except.ok.inj h)).2

/-! ## The crane queue at issue (R399) -/

/-- The strand with one command more in its crane queue. -/
def State.craneQueued (s : State) (op : Instr) (args : List Word) (bytes : List Byte) (bar : Option Nat) (scope : Nat) : Strand :=
  { s.self with cq := { s.self.cq with issue := s.self.cq.issue + 1, cmds := s.self.cq.cmds ++
    [{ seq := s.self.cq.issue + 1, pc := s.self.pc, who := s.issuer, op, args, bytes, born := s.serial, bar, scope }] } }

theorem accept_crane {s : State} {opc : Nat} {op : Instr} {args : List Word} {bytes entry : List Byte} {bar : Option Nat} {scope : Nat}
    (h : s.self.cq.outstanding.length < 16) : s.accept 1 opc op args bytes bar 0 scope entry =
      .ok (s.mapSelf (fun _ => s.craneQueued op args bytes bar scope), s.self.cq.issue + 1) := by
  have room : s.self.cq.outstanding.length < entriesOf 1 := lt_of_lt_of_le h (le_max_left 16 _)
  simp only [State.accept, if_true]
  rw [if_pos room]
  rfl

/-- The strand once its crane instruction has joined the queue, answered its number in g[d] and retired. -/
def State.craneIssued (s : State) (d : Reg) (st : Strand) : State :=
  { s with self := (st.setG d.toNat (word (s.self.cq.issue + 1))).advance 4 }

section Issue
variable {s u w : State} {f : FA} {a b : Word} {bs r : List Byte} {bar fbar : Option Nat} {k : CopyForm} {op i : Instr} {p opc : Nat}
  (ha : s.source f.a a) (hr : s.issueRead a 64 = .ok (bs, u))
include ha hr

theorem craneIssue_check : s.craneIssue opc op f k = (do
    (copyDesc bs).check k a
    let bar ← s.barrierOf (copyDesc bs).baren (copyDesc bs).bar
    s.extentsOk (copyDesc bs) k
    u.destFree (.g f.d.toNat)
    let (t, seq) ← u.accept 1 opc op [] bs bar 0 (copyDesc bs).scope
    return (t.sequenceTo f.d seq).advance 4) := by
  obtain ⟨notes, -⟩ := issueRead_reads hr
  rw [State.craneIssue, srcG_full ha, except_ok_bind, hr, except_ok_bind]
  simp only [notes.barrierOf, notes.extentsOk]

theorem craneIssue_joins (hc : (copyDesc bs).check k a = .ok ()) (hb : s.barrierOf (copyDesc bs).baren (copyDesc bs).bar = .ok bar)
    (he : s.extentsOk (copyDesc bs) k = .ok ()) (hd : s.settled (.g f.d.toNat)) (room : s.self.cq.outstanding.length < 16) :
    s.craneIssue opc op f k = .ok (u.craneIssued f.d (u.craneQueued op [] bs bar (copyDesc bs).scope)) := by
  obtain ⟨notes, -⟩ := issueRead_reads hr
  rw [craneIssue_check ha hr, hc, except_ok_bind, hb, except_ok_bind, he, except_ok_bind, notes.destFree _ hd, except_ok_bind,
    accept_crane (by rwa [notes.self])]
  rfl

theorem craneIssue_fault {code : BitVec 8} {x : Word} (hc : (copyDesc bs).check k a = .error (.fault code x)) :
    s.craneIssue opc op f k = .error (.fault code x) := by
  rw [craneIssue_check ha hr, hc, except_error_bind]

theorem crnR_joins (hsb : s.source f.b b) (hp : s.ref 32 32 b = .ok p) (hc : (copyDesc bs).check .ring a = .ok ())
    (hb : s.barrierOf (copyDesc bs).baren (copyDesc bs).bar = .ok bar) (he : s.extentsOk (copyDesc bs) .ring = .ok ())
    (hd : s.settled (.g f.d.toNat)) (room : s.self.cq.outstanding.length < 16) :
    s.crnR f = .ok (u.craneIssued f.d (u.craneQueued (.crnR f) [b, word p] bs bar (copyDesc bs).scope)) := by
  obtain ⟨notes, -⟩ := issueRead_reads hr
  simp only [State.crnR, srcG_full ha, srcG_full hsb, hr, notes.ref, hp, hc, notes.barrierOf, hb, notes.extentsOk, he,
    notes.destFree _ hd, except_ok_bind]
  rw [accept_crane (by rwa [notes.self])]
  rfl

theorem crnF_refused (hsb : s.source f.b b) (hrb : u.issueRead b 32 = .ok (r, w)) (hc : (copyDesc bs).check .copy a = .ok ())
    (hf : followOn r = none) : s.crnF f = .error (.fault ILL_FIELD b) := by
  simp only [State.crnF, srcG_full ha, srcG_full hsb, hr, hrb, hc, hf, except_ok_bind]

end Issue

/-- The strand's matrix queue with a follow-on, behind a copy of its crane queue (R403, R404). -/
def State.followOnQueue (s : State) (op : Instr) (args : List Word) (bar : Option Nat) (after : Nat) : Queue :=
  { s.self.mq with
    issue := s.self.mq.issue + 1
    cmds := s.self.mq.cmds ++
      [{ seq := s.self.mq.issue + 1, pc := s.self.pc, who := s.issuer, op, args, born := s.serial, bar, after }] }

theorem accept_followOn {s : State} {opc : Nat} {op : Instr} {args : List Word} {entry : List Byte} {bar : Option Nat}
    (h : s.self.mq.outstanding.length < 16) (after : Nat) : s.accept 2 opc op args [] bar after 3 entry =
      .ok (s.mapSelf (fun st => { st with mq := s.followOnQueue op args bar after }), s.self.mq.issue + 1) := by
  have room : s.self.mq.outstanding.length < entriesOf 2 := lt_of_lt_of_le h (le_max_left 16 _)
  simp only [State.accept, if_neg (show ¬ (2 : Nat) = 1 by decide)]
  rw [if_pos room]
  rfl

/-- A copy whose follow-on record keeps its map, and reads no scales, joins the crane queue, and its follow-on the matrix queue. -/
theorem crnF_joins {s u w : State} {f g : FA} {a b : Word} {bs r : List Byte} {bar fbar : Option Nat} {i : Instr} {coop : Bool}
    (ha : s.source f.a a) (hr : s.issueRead a 64 = .ok (bs, u)) (hsb : s.source f.b b) (hrb : u.issueRead b 32 = .ok (r, w))
    (hc : (copyDesc bs).check .copy a = .ok ()) (hf : followOn r = some (i, g, coop, false)) (hcoop : coop = true → s.crew.size = 8)
    (hb : s.barrierOf (copyDesc bs).baren (copyDesc bs).bar = .ok bar)
    (hfb : s.barrierOf ((field r 4 4).testBit 0) (leWord (slice r 0x18 8)) = .ok fbar)
    (he : s.extentsOk (copyDesc bs) .copy = .ok ()) (hd : s.settled (.g f.d.toNat)) (room : s.self.cq.outstanding.length < 16)
    (mroom : s.self.mq.outstanding.length < 16) :
    s.crnF f = .ok (w.craneIssued f.d { w.craneQueued (.crnF f) [] bs bar (copyDesc bs).scope with
      mq := w.followOnQueue i [leWord (slice r 8 8), leWord (slice r 0x10 8)] fbar (w.self.cq.issue + 1) }) := by
  have notes : s.Notes w := (issueRead_reads hr).1.trans (issueRead_reads hrb).1
  have mode : w.productMode coop false = .ok () := by
    rw [State.productMode, notes.crew]
    cases coop with
    | false => rfl
    | true => rw [decide_eq_true (hcoop rfl)]; rfl
  simp only [State.crnF, srcG_full ha, srcG_full hsb, hr, hrb, hc, hf, mode, State.captureScales, notes.barrierOf, hb, hfb, notes.extentsOk, he, notes.destFree _ hd, except_ok_bind,
    Bool.false_eq_true, if_false]
  rw [accept_crane (by rwa [notes.self]), except_ok_bind]
  have joined : (w.mapSelf fun _ => w.craneQueued (.crnF f) [] bs bar (copyDesc bs).scope).self.mq.outstanding.length < 16 := by
    rwa [← notes.self] at mroom
  have followed := accept_followOn (opc := bitsOf (field r 0 4) 9 2) (op := i) (entry := r) (bar := fbar)
    (args := [leWord (slice r 8 8), leWord (slice r 0x10 8)]) joined (w.self.cq.issue + 1)
  simp only [followed, except_ok_bind]
  rfl

/-! ## crnq, crnw (R402) -/

/-- What crnq answers for a selector. -/
def Queue.craneStatus (q : Queue) : Nat → Word
  | 0 => word q.issue
  | 1 => word q.completion
  | 2 => word q.latched
  | _ => word (Config.cqEnt - q.outstanding.length)

theorem crnq_answers {s : State} {f : FA} {a : Word} (ha : s.source f.a a) (hd : s.settled (.g f.d.toNat)) (h : a.toNat ≤ 3) :
    s.crnq f = .ok (s.gains f.d 4 (s.self.cq.craneStatus a.toNat)) := by
  rw [State.crnq, srcG_full ha, except_ok_bind, decide_eq_true h, need_true, except_ok_bind, result_settled hd]
  rfl

theorem crnq_above {s : State} {f : FA} {a : Word} (ha : s.source f.a a) (h : 3 < a.toNat) :
    s.crnq f = .error (.fault ILL_FIELD a) := by
  rw [State.crnq, srcG_full ha, except_ok_bind, decide_eq_false (Nat.not_le_of_lt h), need_false, except_error_bind]

section Wait
variable {s : State} {f : FA} {a b : Word} {q : QueueRef} (ha : s.source f.a a) (hb : s.source f.b b)
  (hq : s.resolveQueue s.issuer s.crew.size b.toNat = .ok q)
include ha hb hq

theorem crnw_joins (hc : q ≠ s.ownQueue 1) (hm : q = s.ownQueue 2 → a.toNat ≤ s.self.mq.issue)
    (room : s.self.cq.outstanding.length < 16) :
    s.crnw f = .ok ((s.mapSelf (fun _ => s.craneQueued (.crnw f) (a :: queueWords q) [] none 3)).advance 4) := by
  have ok : (q != s.ownQueue 1 && !(q == s.ownQueue 2 && decide (s.self.mq.issue < a.toNat))) = true := by
    simp only [Bool.and_eq_true, bne_iff_ne, Bool.not_eq_true', Bool.and_eq_false_imp, beq_iff_eq, decide_eq_false_iff_not, Nat.not_lt]
    exact ⟨hc, hm⟩
  rw [State.crnw, srcG_full ha, except_ok_bind, srcG_full hb, except_ok_bind]
  simp only [hq, ok, need_true, except_ok_bind]
  rw [accept_crane room]
  rfl

theorem crnw_own (hc : q = s.ownQueue 1) : s.crnw f = .error (.fault ILL_FIELD b) := by
  rw [State.crnw, srcG_full ha, except_ok_bind, srcG_full hb, except_ok_bind]
  simp only [hq, hc, bne_self_eq_false, Bool.false_and, need_false, except_error_bind]

end Wait

/-! ## Queues whose commands complete without effect -/

section Settle
variable {q : Queue} {e : Cmd}

/-- What is left of a queue while its completion number rises: nothing new, its issue number and its latch. -/
theorem settle_keeps (n : Nat) (q : Queue) :
    (Queue.settle n q).issue = q.issue ∧ (Queue.settle n q).latch = q.latch ∧ (Queue.settle n q).cmds ⊆ q.cmds := by
  induction n generalizing q with
  | zero => exact ⟨rfl, rfl, fun _ h => h⟩
  | succ n ih =>
    unfold Queue.settle
    split
    · split
      · obtain ⟨issue, latch, cmds⟩ := ih { q with completion := q.completion + 1, cmds := q.cmds.filter (fun x => x.seq != _) }
        exact ⟨issue, latch, fun _ h => List.mem_of_mem_filter (cmds h)⟩
      · exact ⟨rfl, rfl, fun _ h => h⟩
    · exact ⟨rfl, rfl, fun _ h => h⟩

/-- A command that is not done stays, where no other has its number. -/
theorem mem_settle (n : Nat) {q : Queue} (hn : (q.cmds.map (·.seq)).Nodup) (he : e ∈ q.cmds) (hd : e.done = false) :
    e ∈ (Queue.settle n q).cmds := by
  induction n generalizing q with
  | zero => exact he
  | succ n ih =>
    unfold Queue.settle
    split
    · next c hc =>
      split
      · next done =>
        have other : e.seq ≠ c.seq := fun h => by
          rw [List.inj_on_of_nodup_map hn he (List.mem_of_find?_eq_some hc) h, done] at hd
          cases hd
        exact ih (hn.sublist (List.filter_sublist.map _)) (List.mem_filter.mpr ⟨he, bne_iff_ne.mpr other⟩)
      · exact he
    · exact he

end Settle

/-- The queue with the commands of a number marked done. -/
def Queue.markDone (q : Queue) (n : Nat) : Queue := { q with cmds := q.cmds.map (fun c => if c.seq == n then { c with done := true } else c) }

theorem complete_quiet (q : Queue) (n : Nat) : q.complete n none = Queue.settle (q.markDone n).cmds.length (q.markDone n) := rfl

theorem markDone_seqs (q : Queue) (n : Nat) : (q.markDone n).cmds.map (·.seq) = q.cmds.map (·.seq) := by
  rw [Queue.markDone, List.map_map]
  refine List.map_congr_left fun c _ => ?_
  simp only [Function.comp_apply]
  split <;> rfl

section Complete
variable {q : Queue} {n : Nat} {e : Cmd}

theorem complete_keeps (q : Queue) (n : Nat) : (q.complete n none).issue = q.issue ∧ (q.complete n none).latch = q.latch := by
  obtain ⟨issue, latch, -⟩ := settle_keeps (q.markDone n).cmds.length (q.markDone n)
  exact ⟨issue, latch⟩

/-- Every command that stays was there, done or not, and is done if it has the number. -/
theorem of_mem_complete (h : e ∈ (q.complete n none).cmds) :
    (e.seq = n → e.done = true) ∧ ∃ c ∈ q.cmds, c.seq = e.seq ∧ (c.done = true → e.done = true) := by
  obtain ⟨-, -, cmds⟩ := settle_keeps (q.markDone n).cmds.length (q.markDone n)
  obtain ⟨c, hc, rfl⟩ := List.mem_map.mp (cmds h)
  by_cases hn : c.seq = n
  · rw [if_pos (beq_iff_eq.mpr hn)]
    exact ⟨fun _ => rfl, c, hc, rfl, fun _ => rfl⟩
  · rw [if_neg (by simpa using hn)]
    exact ⟨fun h => absurd h hn, c, hc, rfl, id⟩

theorem mem_complete (hn : (q.cmds.map (·.seq)).Nodup) (he : e ∈ q.cmds) (hd : e.done = false) (h : e.seq ≠ n) :
    e ∈ (q.complete n none).cmds := by
  rw [complete_quiet]
  exact mem_settle _ (by rwa [markDone_seqs]) (List.mem_map.mpr ⟨e, he, if_neg (by simpa using h)⟩) hd

theorem complete_nodup (hn : (q.cmds.map (·.seq)).Nodup) : ((q.complete n none).cmds.map (·.seq)).Nodup := by
  have sublist (m : Nat) (q : Queue) : List.Sublist (Queue.settle m q).cmds q.cmds := by
    induction m generalizing q with
    | zero => exact .refl _
    | succ m ih =>
      unfold Queue.settle
      split
      · split
        · exact (ih _).trans List.filter_sublist
        · exact .refl _
      · exact .refl _
  refine List.Nodup.sublist ((sublist _ (q.markDone n)).map _) ?_
  rwa [markDone_seqs]

end Complete

/-! ## The follow-ons of such commands (R403, R404) -/

/-- The follow-ons of a copy that has ended wait for it no more, and know the fault that spoiled it. -/
def Queue.follow (q : Queue) (n : Nat) (f : Option (BitVec 8 × Word)) : Queue :=
  { q with cmds := q.cmds.map (fun e => if e.after == n then { e with after := 0, spoiled := f } else e) }

/-- A strand whose crane command of a number has completed without effect. -/
def Strand.lapsed (f : Option (BitVec 8 × Word)) (st : Strand) (n : Nat) : Strand :=
  { st with cq := st.cq.complete n none, mq := st.mq.follow n f }

/-- Commands of its queue, by their numbers, complete one after the other. -/
def Strand.lapsedAll (f : Option (BitVec 8 × Word)) (st : Strand) (ns : List Nat) : Strand := ns.foldl (Strand.lapsed f) st

section Lapsed
variable {f : Option (BitVec 8 × Word)} {st : Strand} {ns : List Nat} {e : Cmd} {n : Nat}

theorem lapsedAll_keeps (st : Strand) (ns : List Nat) :
    (st.lapsedAll f ns).cq.issue = st.cq.issue ∧ (st.lapsedAll f ns).cq.latch = st.cq.latch ∧
      ∀ k, ((st.lapsedAll f ns).advance k).pc = (st.advance k).pc := by
  induction ns generalizing st with
  | nil => exact ⟨rfl, rfl, fun _ => rfl⟩
  | cons n ns ih =>
    obtain ⟨issue, latch, pc⟩ := ih (st.lapsed f n)
    obtain ⟨issue', latch'⟩ := complete_keeps st.cq n
    exact ⟨issue.trans issue', latch.trans latch', fun k => (pc k).trans rfl⟩

theorem of_mem_lapsedAll (h : e ∈ (st.lapsedAll f ns).cq.cmds) :
    (e.seq ∈ ns → e.done = true) ∧ ∃ c ∈ st.cq.cmds, c.seq = e.seq ∧ (c.done = true → e.done = true) := by
  induction ns generalizing st with
  | nil => exact ⟨nofun, e, h, rfl, id⟩
  | cons n ns ih =>
    obtain ⟨rest, c, hc, hs, hd⟩ := ih h
    obtain ⟨first, c', hc', hs', hd'⟩ := of_mem_complete hc
    refine ⟨fun hm => ?_, c', hc', hs'.trans hs, hd ∘ hd'⟩
    rcases List.mem_cons.mp hm with rfl | hm
    · exact hd (first hs)
    · exact rest hm

theorem mem_lapsedAll (hn : (st.cq.cmds.map (·.seq)).Nodup) (he : e ∈ st.cq.cmds) (hd : e.done = false) (h : e.seq ∉ ns) :
    e ∈ (st.lapsedAll f ns).cq.cmds := by
  induction ns generalizing st with
  | nil => exact he
  | cons n ns ih =>
    obtain ⟨hne, h⟩ := not_or.mp (mt List.mem_cons.mpr h)
    exact ih (complete_nodup hn) (mem_complete hn he hd hne) h

/-- A command that follows none of the copies stays as it is. -/
theorem free_mem_lapsedAll (h0 : 0 ∉ ns) (he : e ∈ st.mq.cmds) (ha : e.after = 0) : e ∈ (st.lapsedAll f ns).mq.cmds := by
  induction ns generalizing st with
  | nil => exact he
  | cons n ns ih =>
    obtain ⟨hne, h0⟩ := not_or.mp (mt List.mem_cons.mpr h0)
    refine ih h0 (List.mem_map.mpr ⟨e, he, if_neg ?_⟩)
    rw [ha]
    simpa using hne

theorem follower_mem_lapsedAll (h0 : 0 ∉ ns) (he : e ∈ st.mq.cmds) (ha : e.after ∈ ns) :
    { e with after := 0, spoiled := f } ∈ (st.lapsedAll f ns).mq.cmds := by
  induction ns generalizing st with
  | nil => cases ha
  | cons n ns ih =>
    have h0' := (not_or.mp (mt List.mem_cons.mpr h0)).2
    by_cases hn : e.after = n
    · exact free_mem_lapsedAll (st := st.lapsed f n) h0' (List.mem_map.mpr ⟨e, he, if_pos (beq_iff_eq.mpr hn)⟩) rfl
    · exact ih h0' (List.mem_map.mpr ⟨e, he, if_neg (by simpa using hn)⟩) ((List.mem_cons.mp ha).resolve_left hn)

end Lapsed

/-! ## The state in which they complete -/

/-- A state whose strand has changed in its queues only, with the memory of another and no chain. -/
structure State.Lapses (s : State) (st : Strand) (t : State) : Prop where
  self : t.self = st
  bytes : s.KeepsBytes t
  chains : t.chains = []

theorem tidyChains_none {s : State} (h : s.chains = []) : s.tidyChains = s := by
  simp only [State.tidyChains, State.payChains, h, List.filter_nil, List.map_nil, List.foldl_nil, List.any_nil, Bool.and_false,
    Bool.not_false, List.filter_true]
  exact congrArg (fun c => { s with chains := c }) h.symm

theorem followEnd_own {s : State} (c : Cmd) (f : Option (BitVec 8 × Word)) :
    (s.followEnd (s.ownQueue 1) c f).self = { s.self with mq := s.self.mq.follow c.seq f } ∧
      s.KeepsBytes (s.followEnd (s.ownQueue 1) c f) ∧ (s.followEnd (s.ownQueue 1) c f).chains = s.chains := by
  have own : (s.followEnd (s.ownQueue 1) c f).self = (s.mapStrand s.self.crew s.self.idx (fun st => { st with mq := st.mq.follow c.seq f })).self := by
    simp only [State.followEnd, State.ownQueue, if_true]
    split <;> rfl
  refine ⟨own.trans (mapStrand_self rfl rfl), ?_⟩
  simp only [State.followEnd, State.ownQueue, if_true]
  split <;> exact ⟨⟨rfl, rfl, rfl, rfl, rfl, rfl⟩, rfl⟩

theorem lapse_own {s : State} {c : Cmd} (f : Option (BitVec 8 × Word)) (hc : s.chains = []) (hb : c.bar = none) :
    s.Lapses (s.self.lapsed f c.seq) (s.lapse (s.ownQueue 1) c f) := by
  have quiet : (s.disown (s.ownQueue 1) c).arriveFor (s.ownQueue 1) c f = s.disown (s.ownQueue 1) c := by
    rw [State.arriveFor, hb]
  let t := (s.disown (s.ownQueue 1) c).setQueue (s.ownQueue 1) (fun x => x.complete c.seq none)
  have own : t.self = { s.self with cq := s.self.cq.complete c.seq none } := mapStrand_self (s := s.disown (s.ownQueue 1) c) rfl rfl
  have queue : s.ownQueue 1 = t.ownQueue 1 := by rw [State.ownQueue, State.ownQueue, own]
  have result : s.lapse (s.ownQueue 1) c f = (t.followEnd (t.ownQueue 1) c f).tidyChains := by
    rw [State.lapse, State.complete, quiet, ← queue]
  obtain ⟨self, bytes, chains⟩ := followEnd_own (s := t) c f
  have none_left : (t.followEnd (t.ownQueue 1) c f).chains = [] := chains.trans hc
  rw [result, tidyChains_none none_left]
  exact ⟨by rw [self, own]; rfl, .trans (t := t) ⟨rfl, rfl, rfl, rfl, rfl, rfl⟩ bytes, none_left⟩

theorem lapses_all {s : State} {q : QueueRef} (f : Option (BitVec 8 × Word)) (cs : List Cmd) (hq : q = s.ownQueue 1) (hc : s.chains = [])
    (hb : ∀ c ∈ cs, c.bar = none) : s.Lapses (s.self.lapsedAll f (cs.map (·.seq))) (cs.foldl (fun t c => t.lapse q c f) s) := by
  induction cs generalizing s with
  | nil => exact ⟨rfl, .refl s, hc⟩
  | cons c cs ih =>
    obtain ⟨self, bytes, chains⟩ := lapse_own f hc (hb c (List.mem_cons_self ..))
    subst hq
    obtain ⟨self', bytes', chains'⟩ := ih (s := s.lapse (s.ownQueue 1) c f) (congrArg (fun st : Strand => QueueRef.crane st.crew st.idx) self).symm chains
      fun c hc => hb c (List.mem_cons_of_mem _ hc)
    exact ⟨self'.trans (by rw [self]; rfl), bytes.trans bytes', chains'⟩

/-! ## crn.x (R402) -/

/-- The commands that crn.x completes without effect. -/
def Queue.behind (q : Queue) (a : Word) : List Cmd := q.cmds.filter (fun c => !c.done && c.stage = 0 && a.toNat < c.seq && !c.isWait)

theorem mem_behind {q : Queue} {a : Word} {c : Cmd} :
    c ∈ q.behind a ↔ c ∈ q.cmds ∧ c.done = false ∧ c.stage = 0 ∧ a.toNat < c.seq ∧ c.isWait = false := by
  simp only [Queue.behind, List.mem_filter, Bool.and_eq_true, Bool.not_eq_true', decide_eq_true_eq, and_assoc]

/-- The queue with the follow-ons of some copies cancelled. -/
def Queue.cancel (q : Queue) (gone : List Cmd) : Queue :=
  { q with cmds := q.cmds.map (fun c => if c.after != 0 && gone.any (fun g => g.seq == c.after) then { c with cancelled := true } else c) }

/-- The state in which they are cancelled, which they are where no fault has been latched. -/
def State.cancels (s : State) (gone : List Cmd) : State :=
  if s.self.cq.latch.isSome then s else s.setQueue (s.ownQueue 2) (fun x => x.cancel gone)

theorem cancels_keeps (s : State) (gone : List Cmd) : s.KeepsBytes (s.cancels gone) ∧ (s.cancels gone).chains = s.chains := by
  unfold State.cancels
  split <;> exact ⟨⟨rfl, rfl, rfl, rfl, rfl, rfl⟩, rfl⟩

theorem cancels_self (s : State) (gone : List Cmd) :
    (s.cancels gone).self = { s.self with mq := if s.self.cq.latch.isSome then s.self.mq else s.self.mq.cancel gone } := by
  unfold State.cancels
  split
  · rfl
  · exact mapStrand_self rfl rfl

/-- The fault that the follow-ons know. -/
def Queue.spoils (q : Queue) : Option (BitVec 8 × Word) := q.latch.map (fun l => (l.code, l.addr))

theorem crnX_lapses {s : State} {f : FA} {a : Word} (ha : s.source f.a a) (h : s.self.cq.behind a = [] ∨ s.chains = [])
    (hb : ∀ c ∈ s.self.cq.behind a, c.bar = none) :
    ∃ t, exec (.crnX f) s = .next t ∧ s.sameMemory t ∧ t.self =
      ((s.cancels (s.self.cq.behind a)).self.lapsedAll s.self.cq.spoils ((s.self.cq.behind a).map (·.seq))).advance 4 := by
  obtain ⟨bytes, chains⟩ := cancels_keeps s (s.self.cq.behind a)
  have own : s.ownQueue 1 = (s.cancels (s.self.cq.behind a)).ownQueue 1 := by
    rw [State.ownQueue, State.ownQueue, cancels_self]
  have ran : exec (.crnX f) s = .next (((s.self.cq.behind a).foldl (fun t c => t.lapse (s.ownQueue 1) c s.self.cq.spoils)
      (s.cancels (s.self.cq.behind a))).advance 4) := by
    show finish s (s.crnX f) = _
    rw [State.crnX, srcG_full ha, except_ok_bind, State.cancels, ← Option.isSome_map (f := fun l : Latch => (l.code, l.addr))]
    rfl
  refine ⟨_, ran, ?_⟩
  rcases h with h | h
  · rw [h] at bytes ⊢
    exact ⟨bytes.sameMemory, rfl⟩
  · obtain ⟨self, bytes', -⟩ := lapses_all s.self.cq.spoils (s.self.cq.behind a) own (chains.trans h) hb
    exact ⟨(bytes.trans bytes').sameMemory, congrArg (Strand.advance · 4) self⟩

section Behind
variable {s : State} {f : FA} {a : Word} (ha : s.source f.a a)
include ha

theorem crnX_idle (h : ∀ c ∈ s.self.cq.cmds, c.done = true ∨ c.stage ≠ 0 ∨ c.seq ≤ a.toNat ∨ c.isWait = true) :
    ∃ t, exec (.crnX f) s = .next t ∧ t.self.pc = (s.self.advance 4).pc ∧ t.self.cq = s.self.cq ∧ s.sameMemory t := by
  have gone : s.self.cq.behind a = [] := List.eq_nil_iff_forall_not_mem.mpr fun c hc => by
    obtain ⟨mem, done, stage, after, wait⟩ := mem_behind.mp hc
    rcases h c mem with h | h | h | h
    · exact absurd (h.symm.trans done) (by decide)
    · exact h stage
    · exact Nat.not_lt_of_le h after
    · exact absurd (h.symm.trans wait) (by decide)
  obtain ⟨t, ran, memory, self⟩ := crnX_lapses ha (.inl gone) (by rw [gone]; nofun)
  rw [gone, cancels_self] at self
  exact ⟨t, ran, by rw [self]; rfl, by rw [self]; rfl, memory⟩

theorem crnX_ends (hc : s.chains = []) (hn : (s.self.cq.cmds.map (·.seq)).Nodup) (hb : ∀ c ∈ s.self.cq.behind a, c.bar = none) :
    ∃ t, exec (.crnX f) s = .next t ∧ t.self.pc = (s.self.advance 4).pc ∧ t.self.cq.issue = s.self.cq.issue ∧
      t.self.cq.latch = s.self.cq.latch ∧ s.sameMemory t ∧
      (∀ c ∈ s.self.cq.behind a, ∀ e ∈ t.self.cq.cmds, e.seq = c.seq → e.done = true) ∧
      (∀ c ∈ s.self.cq.cmds, c.done = false → c ∉ s.self.cq.behind a → c ∈ t.self.cq.cmds) ∧
      (s.self.cq.latch = none → ∀ c ∈ s.self.cq.behind a, ∀ e ∈ s.self.mq.cmds, e.after = c.seq →
        { e with cancelled := true, after := 0, spoiled := none } ∈ t.self.mq.cmds) := by
  obtain ⟨t, ran, memory, self⟩ := crnX_lapses ha (.inr hc) hb
  obtain ⟨issue, latch, pc⟩ := lapsedAll_keeps (f := s.self.cq.spoils) (s.cancels (s.self.cq.behind a)).self ((s.self.cq.behind a).map (·.seq))
  have cq : (s.cancels (s.self.cq.behind a)).self.cq = s.self.cq := by rw [cancels_self]
  rw [cq] at issue latch
  refine ⟨t, ran, ?_, by rw [self]; exact issue, by rw [self]; exact latch, memory, fun c hc e he hs => ?_, fun c hc hd hg => ?_,
    fun quiet c hc e he ha => ?_⟩
  · rw [self, pc, cancels_self]
    rfl
  · rw [self] at he
    exact (of_mem_lapsedAll he).1 (hs ▸ List.mem_map_of_mem hc)
  · rw [self]
    refine mem_lapsedAll (by rwa [cq]) (by rwa [cq]) hd fun h => hg ?_
    obtain ⟨c', hc', hs⟩ := List.mem_map.mp h
    exact List.inj_on_of_nodup_map hn (mem_behind.mp hc').1 hc hs ▸ hc'
  · have nonzero : ∀ c ∈ s.self.cq.behind a, c.seq ≠ 0 := fun c hc => Nat.ne_zero_of_lt (mem_behind.mp hc).2.2.2.1
    have cancelled : { e with cancelled := true } ∈ (s.cancels (s.self.cq.behind a)).self.mq.cmds := by
      rw [cancels_self, quiet]
      refine List.mem_map.mpr ⟨e, he, if_pos ?_⟩
      rw [Bool.and_eq_true, List.any_eq_true]
      exact ⟨bne_iff_ne.mpr (ha ▸ nonzero c hc), c, hc, beq_iff_eq.mpr ha.symm⟩
    have spoils : s.self.cq.spoils = none := by rw [Queue.spoils, quiet]; rfl
    rw [self, ← spoils]
    refine follower_mem_lapsedAll (fun h => ?_) cancelled (ha ▸ List.mem_map_of_mem hc)
    obtain ⟨c', hc', hs⟩ := List.mem_map.mp h
    exact nonzero c' hc' hs

/-- The only command of the queue, and the next to complete, takes the completion number along. -/
theorem crnX_last {c : Cmd} (hs : s.self.cq.cmds = [c]) (hd : c.done = false) (hac : a.toNat < c.seq) (hw : c.isWait = false)
    (hb : c.bar = none) (h0 : c.stage = 0) (hc : s.chains = []) (hn : c.seq = s.self.cq.completion + 1) :
    ∃ t, exec (.crnX f) s = .next t ∧ t.self.pc = (s.self.advance 4).pc ∧ t.self.cq.completion = c.seq ∧
      t.self.cq.cmds = [] ∧ t.self.cq.latch = s.self.cq.latch ∧ s.sameMemory t := by
  have gone : s.self.cq.behind a = [c] := by
    simp only [Queue.behind, hs, List.filter, hd, h0, hac, hw, Bool.not_false, decide_true, Bool.and_self]
  obtain ⟨t, ran, memory, self⟩ := crnX_lapses ha (.inr hc) (by
    rw [gone]
    exact fun _ h => List.mem_singleton.mp h ▸ hb)
  rw [gone, cancels_self] at self
  have settled : s.self.cq.complete c.seq none = { s.self.cq with completion := c.seq, cmds := [] } := by
    rw [complete_quiet, Queue.markDone, hs]
    simp [Queue.settle, hn]
  have cq : t.self.cq = s.self.cq.complete c.seq none := by rw [self]; rfl
  rw [settled] at cq
  exact ⟨t, ran, by rw [self]; rfl, by rw [cq], by rw [cq], by rw [cq], memory⟩

end Behind

/-- Settles O30: the joining of the queue for each form, and crn.x by what becomes of the commands that it ends. -/
theorem craneIssue : Obligations.CraneIssue := by
  intro s f a b bs r bar fbar p q u w d n room queued copies ha
  refine ⟨fun hr => ?_, fun hd => ?_, fun h => congrArg (finish s) (crnq_above ha h),
    fun hb hq hc hm room => congrArg (finish s) (crnw_joins ha hb hq hc hm room), fun hb hq hc => congrArg (finish s) (crnw_own ha hb hq hc), crnX_idle ha, ?_, ?_⟩
  · obtain ⟨notes, serial⟩ := issueRead_reads hr
    have wrote (u : State) (hn : s.Notes u) (op : Instr) (args : List Word) (bytes : List Byte) (bar : Option Nat) (scope : Nat) :
        u.craneQueued op args bytes bar scope = queued u op args bytes bar scope := by
      simp only [State.craneQueued, hn.self, hn.issuer, queued, n]
    have joins {opc : Nat} {i : Instr} {k : CopyForm} (hi : exec i s = finish s (s.craneIssue opc i f k)) : copies i k := by
      refine ⟨fun hc hb he hd room => ?_, fun code x hc => ?_⟩
      · rw [hi, craneIssue_joins ha hr hc hb he hd room, finish_ok, wrote u notes, State.craneIssued, notes.self]
      · rw [hi, craneIssue_fault ha hr hc]
        rfl
    refine ⟨notes.self, notes.bytes.sameMemory, serial, joins rfl, joins rfl, joins rfl, fun hb hp hc hbar he hd room => ?_,
      fun i g coop scaled hb hrb hc hf hs hcoop hbar hfb he hd room mroom => ?_, fun hb hrb hc hf => congrArg (finish s) (crnF_refused ha hr hb hrb hc hf)⟩
    · show finish s (s.crnR f) = _
      rw [crnR_joins ha hr hb hp hc hbar he hd room, finish_ok, wrote u notes, State.craneIssued, notes.self]
    · have notes' : s.Notes w := notes.trans (issueRead_reads hrb).1
      subst hs
      show finish s (s.crnF f) = _
      rw [crnF_joins ha hr hb hrb hc hf hcoop hbar hfb he hd room mroom, finish_ok, wrote w notes', State.craneIssued,
        State.followOnQueue, notes'.issuer, notes'.self]
  · have answers (k : Nat) {v : Word} (hk : k ≤ 3) (h : a.toNat = k) (hv : s.self.cq.craneStatus k = v) :
        exec (.crnq f) s = .next (s.gains f.d 4 v) :=
      (congrArg (finish s) (crnq_answers ha hd (h ▸ hk))).trans (by rw [h, hv, finish_ok])
    exact ⟨fun h => answers 0 (by decide) (h ▸ rfl) rfl, fun h => answers 1 (by decide) (h ▸ rfl) rfl,
      fun h => answers 2 (by decide) (h ▸ rfl) (by cases hl : s.self.cq.latch <;> rw [Queue.craneStatus, Queue.latched, hl] <;> rfl),
      fun h => answers 3 (by decide) (h ▸ rfl) rfl⟩
  · intro hc hn gone hb
    obtain ⟨t, ran, pc, issue, latch, memory, ended, kept, cancelled⟩ := crnX_ends ha hc hn fun c hc => hb c (mem_behind.mp hc)
    exact ⟨t, ran, pc, issue, latch, memory, fun c hc => ended c (mem_behind.mpr hc), fun c hc hd hg => kept c hc hd (mt mem_behind.mp hg),
      fun hl c hc => cancelled hl c (mem_behind.mpr hc)⟩
  · exact fun c hs hd hac hw hb h0 hc hn _ _ => crnX_last ha hs hd hac hw hb h0 hc hn

end Sys2Proof.Machine

/-! PROOF. O56: what reset leaves, and the strand an iteration starts with (17 R489, R490; 05 R171). -/

namespace Sys2Proof.Machine

/-- The registers a strand starts with: what the constructor of R171 lists, and zeros after it. -/
def freshRegs (idx : Nat) (arg : Word) (mid : BitVec 32) (indices : List (BitVec 32)) : List Word :=
  (0 : Word) :: (List.range 6).map (fun l => ((indices[l]?).getD 0).setWidth 64) ++ [arg, word idx, mid.setWidth 64]

section Fresh
variable (slot crew idx : Nat) (entry arg : Word) (mid : BitVec 32) (indices : List (BitVec 32))

theorem readG_freshStrand {r : Nat} (h0 : r ≠ 0) (h : r < 32) :
    (freshStrand slot crew idx entry arg mid indices).readG r = ((freshRegs idx arg mid indices)[r]?).getD 0 := by
  simp only [Strand.readG, freshStrand, if_neg h0, freshRegs, Vector.getElem?_ofFn, dif_pos h, Option.getD_some]

theorem readG_freshStrand_index {l : Nat} (h : l < 6) :
    (freshStrand slot crew idx entry arg mid indices).readG (l + 1) = ((indices[l]?).getD 0).setWidth 64 := by
  rw [readG_freshStrand _ _ _ _ _ _ _ (Nat.succ_ne_zero l) (by omega), freshRegs, List.cons_append, List.getElem?_cons_succ,
    List.getElem?_append_left (by simpa using h), List.getElem?_map, List.getElem?_range h]
  rfl

theorem readG_freshStrand_rest {r : Nat} (h : 10 ≤ r) (hr : r < 32) : (freshStrand slot crew idx entry arg mid indices).readG r = 0 := by
  rw [readG_freshStrand _ _ _ _ _ _ _ (by omega) hr, List.getElem?_eq_none (by simpa [freshRegs] using h)]
  rfl

theorem gIsFull_freshStrand {r : Nat} (h : r < 32) : (freshStrand slot crew idx entry arg mid indices).gIsFull r = true := by
  show (decide (r = 0) || (BitVec.allOnes 32).getLsbD r) = true
  rw [BitVec.getLsbD_allOnes, decide_eq_true h, Bool.or_true]

end Fresh

/-- Settles O56: each field by the value its declaration gives it. -/
theorem resetState : Obligations.ResetState := by
  refine ⟨⟨State.reset_mem_wf, rfl⟩, rfl, rfl, rfl, rfl, rfl, rfl, rfl, rfl, rfl, rfl, rfl, rfl, fun k c h => ?_, fun k => ⟨rfl, rfl⟩,
    fun k n sub r => ⟨rfl, rfl⟩, fun k n sub w => rfl, fun slot crew idx entry arg mid indices => ?_⟩
  · have : c = {} := List.eq_of_mem_replicate (List.mem_of_getElem? h)
    subst this
    exact ⟨rfl, rfl, rfl⟩
  · refine ⟨rfl, rfl, rfl, rfl, fun l hl => readG_freshStrand_index _ _ _ _ _ _ _ hl, ?_, ?_, ?_,
      fun r h hr => readG_freshStrand_rest _ _ _ _ _ _ _ h hr, fun r hr => gIsFull_freshStrand _ _ _ _ _ _ _ hr,
      fun r x h => List.eq_of_mem_replicate (List.mem_of_getElem? h), rfl, fun i => Vector.getElem_replicate _, rfl, fun k h1 h8 => ?_,
      rfl, rfl, rfl, rfl, rfl, rfl, rfl, rfl, rfl, rfl, rfl, rfl, rfl, rfl, rfl, rfl, rfl⟩
    · exact readG_freshStrand _ _ _ _ _ _ _ (by decide) (by decide)
    · exact readG_freshStrand _ _ _ _ _ _ _ (by decide) (by decide)
    · exact readG_freshStrand _ _ _ _ _ _ _ (by decide) (by decide)
    · obtain ⟨j, rfl⟩ := Nat.exists_eq_add_of_le' h1
      exact (List.getElem?_cons_succ ..).trans (List.getElem?_replicate_of_lt (by omega))

end Sys2Proof.Machine

/-! PROOF. The bead engine's state: maps in any form, the keys of a bank, channels, and the joining of a channel's queue. -/

namespace Sys2Proof.Machine

/-! ## Parts of maps, in any form -/

section Maps
variable {α : Type} {d : α} {a b m x : Sparse α} {k lo hi : Nat}

theorem sget_append_below (h : ∀ e ∈ a, e.1 < k) : sget d (a ++ b) k = sget d b k := by
  induction a with
  | nil => rfl
  | cons e a ih =>
    obtain ⟨he, ha⟩ := List.forall_mem_cons.mp h
    rw [List.cons_append, sget, if_neg (Nat.ne_of_lt he), if_neg (Nat.lt_asymm he), ih ha]

/-- A value that is found is found before what follows. -/
theorem sget_append_listed (h : sget d a k ≠ d) : sget d (a ++ b) k = sget d a k := by
  induction a with
  | nil => exact absurd rfl h
  | cons e a ih =>
    rw [List.cons_append, sget, sget]
    rw [sget] at h
    split_ifs at h ⊢ with he hk
    · rfl
    · exact absurd rfl h
    · exact ih h

/-- And in any part that keeps its key. -/
theorem sget_filter_listed {p : Nat → Bool} (hp : p k = true) (h : sget d m k ≠ d) : sget d (m.filter (fun e => p e.1)) k = sget d m k := by
  induction m with
  | nil => rfl
  | cons e m ih =>
    rw [sget] at h ⊢
    split_ifs at h ⊢ with he hk
    · rw [List.filter_cons_of_pos (by rwa [he]), sget, if_pos he]
    · exact absurd rfl h
    · by_cases keeps : p e.1 = true
      · rw [List.filter_cons_of_pos (p := fun e : Nat × α => p e.1) keeps, sget, if_neg he, if_neg hk, ih h]
      · rw [List.filter_cons_of_neg (p := fun e : Nat × α => p e.1) keeps, ih h]

/-- A key that no entry has is not found. -/
theorem sget_unlisted (h : ∀ e ∈ m, e.1 ≠ k) : sget d m k = d := by
  induction m with
  | nil => rfl
  | cons e m ih =>
    obtain ⟨he, hm⟩ := List.forall_mem_cons.mp h
    rw [sget, if_neg he, ih hm, ite_self]

theorem sget_keyRange_inside (hlo : lo ≤ k) (hhi : k < hi) (h : sget d x k ≠ d) : sget d (keyRange m lo hi x) k = sget d x k := by
  have found := sget_filter_listed (p := fun e => decide (lo ≤ e) && decide (e < hi)) (by simp [hlo, hhi]) h
  rw [keyRange, List.append_assoc, sget_append_below fun e he => Nat.lt_of_lt_of_le (of_decide_eq_true (List.mem_filter.mp he).2) hlo,
    sget_append_listed (by rwa [found]), found]

theorem sget_keyRange_outside (hlh : lo ≤ hi) (hk : k < lo ∨ hi ≤ k) (h : sget d m k ≠ d) : sget d (keyRange m lo hi x) k = sget d m k := by
  rcases hk with hk | hk
  · have found := sget_filter_listed (p := fun e => decide (e < lo)) (decide_eq_true hk) h
    rw [keyRange, List.append_assoc, sget_append_listed (by rwa [found]), found]
  · have below : ∀ e ∈ m.filter (fun e => decide (e.1 < lo)) ++ x.filter (fun e => decide (lo ≤ e.1) && decide (e.1 < hi)), e.1 < k := by
      intro e he
      rcases List.mem_append.mp he with he | he
      · exact Nat.lt_of_lt_of_le (of_decide_eq_true (List.mem_filter.mp he).2) (Nat.le_trans hlh hk)
      · exact Nat.lt_of_lt_of_le (of_decide_eq_true (Bool.and_eq_true .. ▸ (List.mem_filter.mp he).2).2) hk
    rw [keyRange, sget_append_below below, sget_filter_listed (p := fun e => decide (hi ≤ e)) (decide_eq_true hk) h]

/-- A part that is cleared lists nothing. -/
theorem sget_keyRange_cleared (hlo : lo ≤ k) (hhi : k < hi) : sget d (keyRange m lo hi []) k = d := by
  refine sget_unlisted fun e he => ?_
  simp only [keyRange, List.filter_nil, List.append_nil, List.mem_append, List.mem_filter, decide_eq_true_eq] at he
  omega

end Maps

/-! ## The keys of a bank (R418) -/

theorem subId_between {k n sub : Nat} (hs : sub < 64) : subId k n 0 ≤ subId k n sub ∧ subId k n sub < subId k n 64 := by
  unfold subId
  omega

theorem subId_bank (k n : Nat) : subId k n 64 = subId k n 0 + 64 := rfl

/-! ## Channels -/

theorem chan_setChan {s : State} {k : Nat} {f : Chan → Chan} (h : f (s.chan k) ≠ {}) : (s.setChan k f).chan k = f (s.chan k) :=
  sget_sset_listed _ s.chans k h

/-- A channel with an entry is listed. -/
theorem chan_ne_default {c : Chan} {e : Entry} (h : c.entry = some e) : c ≠ {} := by
  rintro rfl
  cases h

/-- The state with one command more in a channel's queue (R440). -/
def State.beadQueued (s : State) (k : Nat) (op : Instr) (args : List Word) (bytes : List Byte) : State :=
  s.setChan k (fun ch => { ch with queue := { ch.queue with
    issue := ch.queue.issue + 1
    cmds := ch.queue.cmds ++ [{ seq := ch.queue.issue + 1, pc := s.self.pc, who := s.issuer, op, args, bytes, born := s.serial }] } })

theorem acceptBead_joins {s : State} {k opc : Nat} {op : Instr} {args : List Word} {bytes : List Byte}
    (h : (s.chan k).queue.outstanding.length < Config.bqEnt) :
    s.acceptBead k opc op args bytes = .ok (s.beadQueued k op args bytes, (s.chan k).queue.issue + 1) := by
  have room : (s.chan k).queue.outstanding.length < entriesOf 3 := h
  simp only [State.acceptBead]
  rw [if_pos room]
  rfl

/-- An identifier that names a channel. -/
theorem beadQueue_named {s : State} {x q : Word} {k : Nat} (hx : x.toNat = 3 * 2 ^ 28 + k / 32 * 2 ^ 24 + k % 32) (hk : k < 512) :
    s.beadQueue q x.toNat false = .ok k := by
  have tower : k / 32 < 16 := by omega
  have index : k % 32 < 32 := by omega
  have parts : k = k / 32 * 32 + k % 32 := by omega
  generalize k / 32 = t at *
  generalize k % 32 = i at *
  have kind : (3 * 2 ^ 28 + t * 2 ^ 24 + i) / 2 ^ 28 = 3 := by omega
  have ok : (decide (x.toNat < 2 ^ 32) && bitsOf x.toNat 31 28 == 3 && bitsOf x.toNat 23 8 == 0 && decide (bitsOf x.toNat 7 0 < 32)) = true := by
    simp only [Bool.and_eq_true, decide_eq_true_eq, beq_iff_eq, bitsOf, hx, kind]
    omega
  have chan : bitsOf x.toNat 27 24 * 32 + bitsOf x.toNat 7 0 = k := by
    simp only [bitsOf, hx]
    omega
  rw [State.beadQueue, ok, need_true, except_ok_bind]
  simp only [Bool.not_false, Bool.true_or, need_true, except_ok_bind, chan]
  rfl

/-! ## What an instruction has read -/

/-- What the instruction notes down of its reading touches no channel and no subarray either. -/
structure State.Looks (s u : State) : Prop where
  notes : s.Notes u
  chans : u.chans = s.chans
  subOwner : u.subOwner = s.subOwner

theorem State.Looks.trans {s t u : State} (h : s.Looks t) (g : t.Looks u) : s.Looks u :=
  ⟨h.notes.trans g.notes, g.chans.trans h.chans, g.subOwner.trans h.subOwner⟩

theorem looks_lookedAt (s : State) (va : Word) (n : Nat) : s.Looks (s.lookedAt va n) := by
  unfold State.lookedAt
  split
  · exact ⟨(notes_veil ..).trans (notes_meets ..), rfl, rfl⟩
  · exact ⟨.refl s, rfl, rfl⟩

theorem looks_foldl (l : List Nat) (va : Nat → Word) (n : Nat) (s : State) : s.Looks (l.foldl (fun t i => t.lookedAt (va i) n) s) := by
  induction l generalizing s with
  | nil => exact ⟨.refl s, rfl, rfl⟩
  | cons i l ih => exact (looks_lookedAt s (va i) n).trans (ih _)

theorem State.Looks.chan {s u : State} (h : s.Looks u) (k : Nat) : u.chan k = s.chan k := congrArg (sget _ · k) h.chans

/-! ## Banks that wake (R437, R438) -/

theorem wakeBank_eq (s : State) (k n : Nat) : ∃ c w, s.wakeBank k n = { s with chans := c, workRows := w } := by
  dsimp only [State.wakeBank]
  split_ifs <;> exact ⟨_, _, rfl⟩

theorem wakeBanks_eq (l : List Nat) (s : State) (k : Nat) :
    ∃ c w, l.foldl (fun t n => t.wakeBank k n) s = { s with chans := c, workRows := w } := by
  induction l generalizing s with
  | nil => exact ⟨_, _, rfl⟩
  | cons n l ih =>
    obtain ⟨c, w, first⟩ := wakeBank_eq s k n
    obtain ⟨c', w', rest⟩ := ih (s.wakeBank k n)
    exact ⟨c', w', rest.trans (by rw [first])⟩

theorem wakeBanks_keeps (l : List Nat) (s : State) (k : Nat) : s.KeepsBytes (l.foldl (fun t n => t.wakeBank k n) s) ∧
    (l.foldl (fun t n => t.wakeBank k n) s).self = s.self ∧ (l.foldl (fun t n => t.wakeBank k n) s).saveRows = s.saveRows ∧
    (l.foldl (fun t n => t.wakeBank k n) s).tide = s.tide := by
  obtain ⟨c, w, woken⟩ := wakeBanks_eq l s k
  rw [woken]
  exact ⟨⟨rfl, rfl, rfl, rfl, rfl, rfl⟩, rfl, rfl, rfl⟩

end Sys2Proof.Machine

/-! PROOF. O33: the supervisor's bead instructions at issue (14 R446 to R450). -/

namespace Sys2Proof.Machine

/-! ## bcsl -/

section Store
variable {s : State} {f : FA} {a b : Word} {k : Nat} {bs : List (List Byte)} (ha : s.source f.a a) (hb : s.source f.b b)
  (duty : s.mod.duty.getLsbD 2 = false)
include ha hb duty

/-- What the channel, the addresses and the control store's image come to. -/
theorem bcsl_checked (hk : s.beadQueue b b.toNat false = .ok k) (hc : canonical a = true) (h64 : a.toNat % 64 = 0)
    (hr : (List.range 66).mapM (fun i => s.strongRead (a + word (64 * i)) 64) = .ok bs) :
    (∀ o, imageFault bs.flatten = some o → s.bcsl f = .error (.fault BEAD_ENTRY (a + word o))) ∧
      (imageFault bs.flatten = none → s.bcsl f = (do
        let (t, _) ← ((List.range 66).foldl (fun t i => t.lookedAt (a + word (64 * i)) 64) s).acceptBead k 0xB8 (.bcsl f) [a] bs.flatten
        return t.advance 4)) := by
  rw [State.bcsl, srcG_full ha, except_ok_bind, srcG_full hb, except_ok_bind, duty, Bool.not_false, need_true, except_ok_bind, hc,
    need_true, except_ok_bind, decide_eq_true h64, need_true, except_ok_bind, hk, except_ok_bind, hr, except_ok_bind]
  constructor
  · intro o hi
    rw [hi]
  · intro hi
    rw [hi]

theorem bcsl_joins (hk : s.beadQueue b b.toNat false = .ok k) (hc : canonical a = true) (h64 : a.toNat % 64 = 0)
    (hr : (List.range 66).mapM (fun i => s.strongRead (a + word (64 * i)) 64) = .ok bs) (hi : imageFault bs.flatten = none)
    (room : (s.chan k).queue.outstanding.length < Config.bqEnt) : s.bcsl f =
      .ok ((((List.range 66).foldl (fun t i => t.lookedAt (a + word (64 * i)) 64) s).beadQueued k (.bcsl f) [a] bs.flatten).advance 4) := by
  have looks := looks_foldl (List.range 66) (fun i => a + word (64 * i)) 64 s
  rw [(bcsl_checked ha hb duty hk hc h64 hr).2 hi, acceptBead_joins (by rwa [looks.chan])]
  rfl

theorem bcsl_refused {o : Nat} (hk : s.beadQueue b b.toNat false = .ok k) (hc : canonical a = true) (h64 : a.toNat % 64 = 0)
    (hr : (List.range 66).mapM (fun i => s.strongRead (a + word (64 * i)) 64) = .ok bs) (hi : imageFault bs.flatten = some o) :
    s.bcsl f = .error (.fault BEAD_ENTRY (a + word o)) := (bcsl_checked ha hb duty hk hc h64 hr).1 o hi

theorem bcsl_noncanonical (hc : canonical a = false) : s.bcsl f = .error (.fault VA_NONCANON a) := by
  rw [State.bcsl, srcG_full ha, except_ok_bind, srcG_full hb, except_ok_bind, duty, Bool.not_false, need_true, except_ok_bind, hc,
    need_false, except_error_bind]

theorem bcsl_misaligned (hc : canonical a = true) (h64 : a.toNat % 64 ≠ 0) : s.bcsl f = .error (.fault ALIGN a) := by
  rw [State.bcsl, srcG_full ha, except_ok_bind, srcG_full hb, except_ok_bind, duty, Bool.not_false, need_true, except_ok_bind, hc,
    need_true, except_ok_bind, decide_eq_false h64, need_false, except_error_bind]

end Store

/-! ## bsave -/

section Save
variable {s : State} {f : FA} {a : Word} {k : Nat} (ha : s.source f.a a) (hk : s.beadQueue a a.toNat false = .ok k)
  (fresh : (s.chan k).parkersDone = [])
include ha hk fresh

theorem bsave_copies (he : (s.chan k).entry = none) : s.bsave f = .ok (State.advance { s with
    saveRows := ((List.range 16).flatMap (fun n => s.workRows.filter (fun x =>
      subId k n 0 * 8 ≤ x.1 && x.1 < subId k n 64 * 8))).foldl (fun m x => sset none m x.1 x.2) s.saveRows } 4) := by
  rw [State.bsave, srcG_full ha, except_ok_bind, hk, except_ok_bind]
  simp only [fresh, he]
  rfl

theorem bsave_parked {e : Entry} (he : (s.chan k).entry = some e) (hp : (s.chan k).parked ≠ 0) : s.bsave f = .ok (s.advance 4) := by
  rw [State.bsave, srcG_full ha, except_ok_bind, hk, except_ok_bind]
  simp only [fresh, he, bne_iff_ne.mpr hp]
  rfl

theorem bsave_parks {e : Entry} (he : (s.chan k).entry = some e) (hp : (s.chan k).parked = 0) (hr : e.atRep = true) :
    s.bsave f = .ok ((s.parkEntry k 1 e).advance 4) := by
  rw [State.bsave, srcG_full ha, except_ok_bind, hk, except_ok_bind]
  simp only [fresh, he, hp, hr]
  rfl

theorem bsave_waits {e : Entry} (he : (s.chan k).entry = some e) (hp : (s.chan k).parked = 0) (hr : e.atRep = false)
    (hq : (s.chan k).parkers = []) : s.bsave f =
      .error (State.retry (s.setChan k (fun c => { c with parkers := [(s.self.crew, s.self.idx)] }))) := by
  have joined : s.setChan k (fun c => { c with parkers := c.parkers ++ [(s.self.crew, s.self.idx)] }) =
      s.setChan k (fun c => { c with parkers := [(s.self.crew, s.self.idx)] }) := by
    simp only [State.setChan, hq, List.nil_append]
  rw [State.bsave, srcG_full ha, except_ok_bind, hk, except_ok_bind]
  simp only [fresh, he, hp, hr, hq]
  exact congrArg (fun t => Except.error (State.retry t)) joined

end Save

theorem saveBanks_eq (l : List Nat) (s : State) (k : Nat) : ∃ r, l.foldl (fun t n => t.saveBank k n) s = { s with saveRows := r } := by
  induction l generalizing s with
  | nil => exact ⟨_, rfl⟩
  | cons n l ih =>
    obtain ⟨r, rest⟩ := ih (s.saveBank k n)
    exact ⟨r, rest⟩

theorem parkEntry_parks (s : State) (k why : Nat) (e : Entry) :
    (s.parkEntry k why e).self = s.self ∧ s.KeepsBytes (s.parkEntry k why e) ∧ (s.parkEntry k why e).chan k = { s.chan k with
      entry := some { e with count := e.count + (s.tide - e.since), since := s.tide }
      parked := why, parkers := [], parkersDone := (s.chan k).parkersDone ++ (s.chan k).parkers } := by
  obtain ⟨r, saved⟩ := saveBanks_eq (blockBanks e.cmd.bytes) s k
  rw [State.parkEntry, saved]
  exact ⟨rfl, ⟨rfl, rfl, rfl, rfl, rfl, rfl⟩, chan_setChan (chan_ne_default rfl)⟩

/-! ## brest -/

/-- Work rows of the banks, with those that are put in their place. -/
theorem restoreBanks_eq (l : List Nat) (s : State) (k : Nat) : l.foldl (fun t n => t.restoreBank k n) s =
    { s with workRows := l.foldl (fun m n => keyRange m (subId k n 0 * 8) (subId k n 64 * 8) s.saveRows) s.workRows } := by
  induction l generalizing s with
  | nil => rfl
  | cons n l ih => exact ih (s.restoreBank k n)

theorem unparkEntry_resumes (s : State) (k : Nat) (e : Entry) :
    (s.unparkEntry k e).self = s.self ∧ (s.unparkEntry k e).chan k = { s.chan k with entry := some { e with since := s.tide }, parked := 0 } ∧
      (s.unparkEntry k e).workRows =
        (blockBanks e.cmd.bytes).foldl (fun m n => keyRange m (subId k n 0 * 8) (subId k n 64 * 8) s.saveRows) s.workRows := by
  rw [State.unparkEntry, restoreBanks_eq]
  exact ⟨rfl, chan_setChan (chan_ne_default rfl), rfl⟩

/-- The work rows of a bank that brest writes: its save rows, and zeros for those never written. -/
def savedRow (save : Sparse (Option Row)) (e : Nat) : Option Row := some ((sget none save e).getD 0)

/-- Work rows with those of a bank in their place. -/
def restoredRows (save : Sparse (Option Row)) (k : Nat) (m : Sparse (Option Row)) (n : Nat) : Sparse (Option Row) :=
  keyRange m (bankRows k n).1 (bankRows k n).2
    ((List.range 512).map (fun i => ((bankRows k n).1 + i, some ((sget none save ((bankRows k n).1 + i)).getD 0))))

section Rows
variable {save m : Sparse (Option Row)} {k n sub w : Nat}

theorem savedRows_table (lo : Nat) : (List.range 512).map (fun i => (lo + i, some ((sget none save (lo + i)).getD 0))) =
    tableFrom none (savedRow save) lo 512 := by
  rw [tableFrom, List.range'_eq_map_range, List.filterMap_map, ← List.filterMap_eq_map]
  refine List.filterMap_congr fun i _ => ?_
  simp only [Function.comp_apply, savedRow, reduceCtorEq, if_false]

theorem sget_restoredRows_own (hs : sub < 64) (hw : w < 8) :
    sget none (restoredRows save k m n) (subId k n sub * 8 + w) = savedRow save (subId k n sub * 8 + w) := by
  have bank := subId_bank k n
  obtain ⟨first, last⟩ := subId_between (k := k) (n := n) hs
  have row : sget none (tableFrom none (savedRow save) (bankRows k n).1 512) (subId k n sub * 8 + w) = savedRow save (subId k n sub * 8 + w) :=
    sget_tableFrom _ _ (by simp only [bankRows]; omega) (by simp only [bankRows]; omega)
  rw [restoredRows, savedRows_table, sget_keyRange_inside (by simp only [bankRows]; omega) (by simp only [bankRows]; omega) (by rw [row]; nofun), row]

theorem sget_restoredRows_other {n' : Nat} (hs : sub < 64) (hw : w < 8) (hn : n' ≠ n)
    (found : sget none m (subId k n sub * 8 + w) ≠ none) :
    sget none (restoredRows save k m n') (subId k n sub * 8 + w) = sget none m (subId k n sub * 8 + w) := by
  refine sget_keyRange_outside ?_ ?_ found
  · simp only [bankRows, subId_bank]
    omega
  · simp only [bankRows]
    rcases Nat.lt_or_gt_of_ne hn with h | h
    · exact .inr (by have := subId_between (k := k) (n := n) hs; unfold subId at *; omega)
    · exact .inl (by unfold subId; omega)

/-- Once written, a row stands while those of other banks are. -/
theorem sget_restored_kept (l : List Nat) (hs : sub < 64) (hw : w < 8)
    (found : sget none m (subId k n sub * 8 + w) = savedRow save (subId k n sub * 8 + w)) :
    sget none (l.foldl (restoredRows save k) m) (subId k n sub * 8 + w) = savedRow save (subId k n sub * 8 + w) := by
  induction l generalizing m with
  | nil => exact found
  | cons n' l ih =>
    refine ih ?_
    by_cases hn : n' = n
    · rw [hn]
      exact sget_restoredRows_own hs hw
    · rw [sget_restoredRows_other hs hw hn (by rw [found]; nofun), found]

theorem sget_restored (l : List Nat) (hn : n ∈ l) (hs : sub < 64) (hw : w < 8) :
    sget none (l.foldl (restoredRows save k) m) (subId k n sub * 8 + w) = savedRow save (subId k n sub * 8 + w) := by
  induction l generalizing m with
  | nil => cases hn
  | cons n' l ih =>
    rcases List.mem_cons.mp hn with rfl | hn
    · exact sget_restored_kept l hs hw (sget_restoredRows_own hs hw)
    · exact ih hn

end Rows

/-- The state in which the save rows of every bank of a channel are restored. -/
def State.restored (s : State) (save : Sparse (Option Row)) (k : Nat) : State :=
  { s with workRows := (List.range 16).foldl (restoredRows save k) s.workRows }

theorem restored_eq (save : Sparse (Option Row)) (k : Nat) (l : List Nat) (s : State) :
    l.foldl (fun t n => { t with workRows := restoredRows save k t.workRows n }) s =
      { s with workRows := l.foldl (restoredRows save k) s.workRows } := by
  induction l generalizing s with
  | nil => rfl
  | cons n l ih => exact ih _

/-- What work rows alone leave as it was. -/
theorem workRows_keep (s : State) (rows : Sparse (Option Row)) : s.KeepsBytes (State.advance { s with workRows := rows } 4) ∧
    (State.advance { s with workRows := rows } 4).self = s.self.advance 4 ∧ (State.advance { s with workRows := rows } 4).chans = s.chans ∧
    (State.advance { s with workRows := rows } 4).workRows = rows :=
  ⟨⟨rfl, rfl, rfl, rfl, rfl, rfl⟩, rfl, rfl, rfl⟩

theorem restored_keeps (s : State) (save : Sparse (Option Row)) (k : Nat) : s.KeepsBytes ((s.restored save k).advance 4) ∧
    ((s.restored save k).advance 4).self = s.self.advance 4 ∧ ((s.restored save k).advance 4).chans = s.chans ∧
    ((s.restored save k).advance 4).workRows = (List.range 16).foldl (restoredRows save k) s.workRows :=
  workRows_keep s _

section Restore
variable {s : State} {f : FA} {a : Word} {k : Nat} (ha : s.source f.a a) (hk : s.beadQueue a a.toNat false = .ok k)
  (up : s.chanDown k = false)
include ha hk up

theorem brest_resumes {e : Entry} (he : (s.chan k).entry = some e) (hp : (s.chan k).parked ≠ 0) :
    s.brest f = .ok ((((List.range 16).foldl (fun t n => t.wakeBank k n) s).unparkEntry k e).advance 4) := by
  rw [State.brest, srcG_full ha, except_ok_bind, hk, except_ok_bind]
  simp only [up, Bool.not_false, await_true, except_ok_bind, he, bne_iff_ne.mpr hp]
  rfl

theorem brest_restores (he : (s.chan k).entry = none) :
    s.brest f = .ok ((((List.range 16).foldl (fun t n => t.wakeBank k n) s).restored s.saveRows k).advance 4) := by
  rw [State.brest, srcG_full ha, except_ok_bind, hk, except_ok_bind]
  simp only [up, Bool.not_false, await_true, except_ok_bind, he]
  exact congrArg (fun t => Except.ok (State.advance t 4)) (restored_eq ..)

end Restore

/-! ## bwdog, bmode, bpart -/

section Settings
variable {s : State} {f : FA} {a b : Word} (ha : s.source f.a a) (hb : s.source f.b b)
include ha hb

theorem bwdog_sets {k : Nat} (hk : s.beadQueue a a.toNat false = .ok k) (h : b.toNat < 2 ^ 32) :
    s.bwdog f = .ok ((s.setChan k (fun c => { c with wd := b.setWidth 32 })).advance 4) := by
  rw [State.bwdog, srcG_full ha, except_ok_bind, srcG_full hb, except_ok_bind, hk, except_ok_bind, decide_eq_true h, need_true]
  rfl

theorem bwdog_refused {k : Nat} (hk : s.beadQueue a a.toNat false = .ok k) (h : 2 ^ 32 ≤ b.toNat) :
    s.bwdog f = .error (.fault ILL_FIELD b) := by
  rw [State.bwdog, srcG_full ha, except_ok_bind, srcG_full hb, except_ok_bind, hk, except_ok_bind, decide_eq_false (Nat.not_lt_of_le h),
    need_false, except_error_bind]

theorem bpart_joins (room : (s.chan (ptrChan a)).queue.outstanding.length < Config.bqEnt) (h : wbits b 63 17 = 0) :
    s.bpart f = .ok ((s.beadQueued (ptrChan a) (.bpart f) [a, b] []).advance 4) := by
  rw [State.bpart, srcG_full ha, except_ok_bind, srcG_full hb, except_ok_bind, h, beq_self_eq_true, need_true, except_ok_bind,
    acceptBead_joins room]
  rfl

theorem bpart_refused (h : wbits b 63 17 ≠ 0) : s.bpart f = .error (.fault ILL_FIELD b) := by
  rw [State.bpart, srcG_full ha, except_ok_bind, srcG_full hb, except_ok_bind, beq_false_of_ne h, need_false, except_error_bind]

omit hb in
theorem bmode_joins (room : (s.chan (ptrChan a)).queue.outstanding.length < Config.bqEnt) :
    s.bmode f = .ok ((s.beadQueued (ptrChan a) (.bmode f) [a] []).advance 4) := by
  rw [State.bmode, srcG_full ha, except_ok_bind, acceptBead_joins room]
  rfl

end Settings

/-- Settles O33. -/
theorem beadSupervisorIssue : Obligations.BeadSupervisorIssue := by
  intro s f a b bs room queued chanOf named ha hb
  have next {g : FA → State → Except Stop State} {t : State} (h : g f s = .ok t) : finish s (g f s) = .next t := by rw [h, finish_ok]
  have names {x : Word} {k : Nat} (hx : named x k) : s.beadQueue x x.toNat false = .ok k := beadQueue_named hx.1 hx.2
  refine ⟨fun k hk duty hc h64 hr => ⟨fun hi room => ?_, fun o hi => congrArg (finish s) (bcsl_refused ha hb duty (names hk) hc h64 hr hi)⟩,
    fun duty hc => congrArg (finish s) (bcsl_noncanonical ha hb duty hc),
    fun duty hc h64 => congrArg (finish s) (bcsl_misaligned ha hb duty hc h64), fun k hk fresh =>
      ⟨fun he => congrArg (finish s) (bsave_copies ha (names hk) fresh he), fun e he =>
        ⟨fun hp => congrArg (finish s) (bsave_parked ha (names hk) fresh he hp), fun hp hr => ?_,
          fun hp hr hq => congrArg (finish s) (bsave_waits ha (names hk) fresh he hp hr hq)⟩⟩,
    fun k hk up => ?_, fun k hk => ⟨fun h => congrArg (finish s) (bwdog_sets ha hb (names hk) h),
      fun h => congrArg (finish s) (bwdog_refused ha hb (names hk) h)⟩,
    fun room => congrArg (finish s) (bmode_joins ha room), fun room h => congrArg (finish s) (bpart_joins ha hb room h),
    fun h => congrArg (finish s) (bpart_refused ha hb h)⟩
  · have looks := looks_foldl (List.range 66) (fun i => a + word (64 * i)) 64 s
    refine ⟨looks.notes.bytes.sameMemory, (congrArg (finish s) (bcsl_joins ha hb duty (names hk) hc h64 hr hi room)).trans ?_⟩
    rw [finish_ok, State.beadQueued, looks.notes.self, looks.notes.issuer]
  · obtain ⟨self, bytes, chan⟩ := parkEntry_parks s k 1 e
    refine ⟨_, congrArg (finish s) (bsave_parks ha (names hk) fresh he hp hr), congrArg (Strand.advance · 4) self, ?_, bytes.sameMemory⟩
    rw [fresh, List.nil_append] at chan
    exact chan
  · obtain ⟨bytes, uself, usave, utide⟩ := wakeBanks_keeps (List.range 16) s k
    intro u
    refine ⟨fun e he hp => ⟨_, congrArg (finish s) (brest_resumes ha (names hk) up he hp), ?_⟩,
      fun he => ⟨_, congrArg (finish s) (brest_restores ha (names hk) up he), ?_⟩⟩
    · obtain ⟨self, chan, rows⟩ := unparkEntry_resumes u k e
      rw [utide] at chan
      rw [usave] at rows
      exact ⟨congrArg (Strand.advance · 4) (self.trans uself), chan, rows⟩
    · obtain ⟨kept, self, chans, rows⟩ := restored_keeps u s.saveRows k
      refine ⟨self.trans (congrArg (Strand.advance · 4) uself), chans, (bytes.trans kept).sameMemory, fun n sub w hn hs hw => ?_⟩
      rw [rows]
      exact sget_restored (List.range 16) (List.mem_range.mpr hn) hs hw

end Sys2Proof.Machine

/-! PROOF. O32: bead instructions at issue (14 R440 to R445), and lane accesses (R441, R452). -/

namespace Sys2Proof.Machine

/-! ## bcall -/

theorem looks_issueRead {s u : State} {a : Word} {n : Nat} {bs : List Byte} (h : s.issueRead a n = .ok (bs, u)) : s.Looks u := by
  obtain ⟨-, -, h⟩ := except_bind_eq_ok h
  obtain ⟨-, -, h⟩ := except_bind_eq_ok h
  obtain ⟨r, -, h⟩ := except_bind_eq_ok h
  exact (Prod.mk.inj (Except.ok.inj h)).2 ▸ looks_lookedAt s a n

/-- The fields of a run command that meet their checks. -/
def goodRun (a b : Word) : Prop := wbits b 10 0 ≠ 0 ∧ wbits a 31 22 + wbits b 10 0 ≤ 1024 ∧ wbits b 63 32 = 0 ∧ wbits b 15 11 = 0

theorem runKey_ne {b : Word} (h : wbits b 31 16 ≠ 0) : (runKey b != 0) = true := by
  have below : wbits b 31 16 < 2 ^ 16 := Nat.mod_lt _ (by decide)
  rw [bne_iff_ne]
  intro zero
  have same := congrArg BitVec.toNat zero
  rw [runKey, BitVec.toNat_ofNat, Nat.mod_eq_of_lt below] at same
  exact h same

theorem runFields {a b : Word} {keyed : Bool} (good : goodRun a b) (hk : keyed = true → wbits b 31 16 ≠ 0) : (runCount b != 0 && ptrRow a + runCount b ≤ 1024 &&
    wbits b 63 32 == 0 && wbits b 15 11 == 0 && (!keyed || runKey b != 0)) = true := by
  obtain ⟨count, last, high, mid⟩ := good
  have key : (!keyed || runKey b != 0) = true := by
    cases keyed
    · rfl
    · exact runKey_ne (hk rfl)
  simp only [Bool.and_eq_true, bne_iff_ne, decide_eq_true_eq, beq_iff_eq]
  exact ⟨⟨⟨⟨count, last⟩, high⟩, mid⟩, key⟩

section Call
variable {s u : State} {f : FA} {a b : Word} {bs : List Byte} (ha : s.source f.a a) (hb : s.source f.b b)
include ha hb

/-- An argument block that meets every check, and whose entry joins the channel's queue. -/
theorem bcall_joins (hn : b.toNat ≤ 63) (hr : s.issueRead a 128 = .ok (bs, u)) (banks : (blockBanks bs).isEmpty = false)
    (h0 : bitsOf (field bs 0 8) 32 16 = 0) (h10 : field bs 0x10 16 = 0) (h60 : field bs 0x60 32 = 0)
    (slots : (List.range 8).filterMap (slotFault bs) = [])
    (owned : ∀ n ∈ blockBanks bs, sget none s.subOwner (subId (blockChan bs) n (blockSub bs)) = some s.crew.asid)
    (args : blockArg bs 0 ≠ 0 → blockArg bs 1 ≠ 0 → ptrFmt (blockArg bs 0) = ptrFmt (blockArg bs 1) ∧
      ptrTag (blockArg bs 0) = ptrTag (blockArg bs 1)) (hd : s.settled (.g f.d.toNat))
    (room : (s.chan (blockChan bs)).queue.outstanding.length < Config.bqEnt) :
    s.bcall f = .ok ((State.sequenceTo (u.beadQueued (blockChan bs) (.bcall f) [b] bs) f.d ((s.chan (blockChan bs)).queue.issue + 1)).advance 4) := by
  have looks := looks_issueRead hr
  have fields : (!(blockBanks bs).isEmpty && bitsOf (field bs 0 8) 32 16 == 0 && field bs 0x10 16 == 0 && field bs 0x60 32 == 0) = true := by
    rw [banks, h0, h10, h60]
    rfl
  have mine : (blockBanks bs).all (fun n => sget none u.subOwner (subId (blockChan bs) n (blockSub bs)) == some u.crew.asid) = true := by
    rw [looks.subOwner, looks.notes.crew, List.all_eq_true]
    exact fun n hn => beq_iff_eq.mpr (owned n hn)
  have agree (g : Word → Nat) (h : blockArg bs 0 ≠ 0 → blockArg bs 1 ≠ 0 → g (blockArg bs 0) = g (blockArg bs 1)) :
      (blockArg bs 0 == 0 || blockArg bs 1 == 0 || g (blockArg bs 0) == g (blockArg bs 1)) = true := by
    simp only [Bool.or_eq_true, beq_iff_eq]
    tauto
  rw [State.bcall, srcG_full ha, except_ok_bind, srcG_full hb, except_ok_bind, decide_eq_true hn, need_true, except_ok_bind, hr,
    except_ok_bind]
  simp only [fields, slots, mine, agree ptrFmt fun h h' => (args h h').1, agree ptrTag fun h h' => (args h h').2, need_true,
    except_ok_bind, looks.notes.destFree _ hd]
  rw [acceptBead_joins (by rwa [looks.chan]), looks.chan]
  rfl

theorem bcall_above (h : 63 < b.toNat) : s.bcall f = .error (.fault ILL_FIELD b) := by
  rw [State.bcall, srcG_full ha, except_ok_bind, srcG_full hb, except_ok_bind, decide_eq_false (Nat.not_le_of_lt h), need_false,
    except_error_bind]

/-! ## bfence -/

section Fence
variable {k : Nat} (hk : s.beadQueue a a.toNat true = .ok k)
include hk

theorem bfence_passes (h : b.toNat ≤ (s.chan k).queue.completion) :
    s.bfence f = .ok ((s.meets { after := [(.bead k, b.toNat)] }).advance 4) := by
  have reached : s.reached (.bead k) b.toNat = true := decide_eq_true h
  rw [State.bfence, srcG_full ha, except_ok_bind, srcG_full hb, except_ok_bind, hk, except_ok_bind, reached, await_true]
  rfl

theorem bfence_waits (h : (s.chan k).queue.completion < b.toNat) : s.bfence f = .error s.retry := by
  have reached : s.reached (.bead k) b.toNat = false := decide_eq_false (Nat.not_le_of_lt h)
  rw [State.bfence, srcG_full ha, except_ok_bind, srcG_full hb, except_ok_bind, hk, except_ok_bind, reached, await_false, except_error_bind]

end Fence

/-! ## Commands that name a run of rows -/

section Run
variable {opc : Nat} {op : Instr} {keyed partition : Bool}

theorem runIssue_joins (good : goodRun a b) (hk : keyed = true → wbits b 31 16 ≠ 0)
    (hp : partition = true → sget none s.subOwner (subId (ptrChan a) (ptrBank a) (ptrSub a)) = some s.crew.asid)
    (room : (s.chan (ptrChan a)).queue.outstanding.length < Config.bqEnt) :
    s.runIssue opc op f keyed partition = .ok ((s.beadQueued (ptrChan a) op [a, b] []).advance 4) := by
  have owned : (!partition || sget none s.subOwner (subId (ptrChan a) (ptrBank a) (ptrSub a)) == some s.crew.asid) = true := by
    cases partition
    · rfl
    · exact beq_iff_eq.mpr (hp rfl)
  rw [State.runIssue, srcG_full ha, except_ok_bind, srcG_full hb, except_ok_bind, runFields good hk, need_true, except_ok_bind, owned,
    need_true, except_ok_bind, acceptBead_joins room]
  rfl

theorem runIssue_outside (good : goodRun a b) (hk : keyed = true → wbits b 31 16 ≠ 0)
    (hp : sget none s.subOwner (subId (ptrChan a) (ptrBank a) (ptrSub a)) ≠ some s.crew.asid) :
    s.runIssue opc op f keyed true = .error (.fault SPACE_RANGE a) := by
  rw [State.runIssue, srcG_full ha, except_ok_bind, srcG_full hb, except_ok_bind, runFields good hk, need_true, except_ok_bind,
    beq_false_of_ne hp, Bool.not_true, Bool.or_false, need_false, except_error_bind]

theorem runIssue_refused (h : runCount b = 0 ∨ keyed = true ∧ wbits b 31 16 = 0) :
    s.runIssue opc op f keyed partition = .error (.fault ILL_FIELD b) := by
  have bad : (runCount b != 0 && ptrRow a + runCount b ≤ 1024 && wbits b 63 32 == 0 && wbits b 15 11 == 0 && (!keyed || runKey b != 0)) = false := by
    rcases h with count | ⟨rfl, key⟩
    · simp [count]
    · simp [runKey, key]
  rw [State.runIssue, srcG_full ha, except_ok_bind, srcG_full hb, except_ok_bind, bad, need_false, except_error_bind]

end Run

end Call

/-! ## bstat (R445) -/

section Status
variable {s : State} {f : FA} {a : Word} {k : Nat} (ha : s.source f.a a) (h36 : wbits a 63 36 = 0)
  (hk : s.beadQueue a (wbits a 31 0) true = .ok k) (hd : s.settled (.g f.d.toNat))
include ha h36 hk

/-- The modes of a channel's banks, a bit each. -/
def Chan.modes (c : Chan) (x : Nat) : Nat := (List.range 16).foldl (fun v n => if (c.mode[n]?).getD 0 = x then v + 2 ^ n else v) 0

/-- What bstat answers for a selector. -/
def Chan.status (c : Chan) : Nat → Word
  | 0 => word c.queue.issue
  | 1 => word c.queue.completion
  | 3 => word (c.modes 1 + 2 ^ 16 * c.modes 2 + 2 ^ 32 * b2n (c.entry.isSome && c.parked == 0) + 2 ^ 33 * b2n (c.parked != 0))
  | 4 => word c.wd.toNat
  | 5 => (c.queue.latch.map (·.addr)).getD 0
  | _ => word c.queue.latched

include hd in
theorem bstat_answers (h : wbits a 35 32 < 6) : s.bstat f = .ok (s.gains f.d 4 ((s.chan k).status (wbits a 35 32))) := by
  rw [State.bstat, srcG_full ha, except_ok_bind, h36, beq_self_eq_true, need_true, except_ok_bind, hk, except_ok_bind]
  simp only [decide_eq_true (Nat.le_of_lt h), bne_iff_ne.mpr (Nat.ne_of_lt h), Bool.true_or, need_true, except_ok_bind,
    destFree_settled hd, Nat.ne_of_lt h, if_false, result_settled hd]
  rfl

include hd in
theorem bstat_clears (h : wbits a 35 32 = 6) (hp : s.self.priv = true) : s.bstat f =
    .ok (State.gains (s.setChan k (fun c => { c with queue := { c.queue with latch := none } })) f.d 4 (word (s.chan k).queue.latched)) := by
  have hd' : (s.setChan k (fun c => { c with queue := { c.queue with latch := none } })).settled (.g f.d.toNat) := hd
  rw [State.bstat, srcG_full ha, except_ok_bind, h36, beq_self_eq_true, need_true, except_ok_bind, hk, except_ok_bind, h]
  simp only [hp, decide_true, need_true, except_ok_bind, destFree_settled hd, if_true, Bool.or_true, Nat.le_refl]
  rw [result_settled hd']

theorem bstat_above (h : 6 < wbits a 35 32) : s.bstat f = .error (.fault ILL_FIELD a) := by
  rw [State.bstat, srcG_full ha, except_ok_bind, h36, beq_self_eq_true, need_true, except_ok_bind, hk, except_ok_bind]
  simp only [decide_eq_false (Nat.not_le_of_lt h), need_false, except_error_bind]

theorem bstat_user (h : wbits a 35 32 = 6) (hp : s.self.priv = false) : s.bstat f = .error (.fault PRIV s.self.pc) := by
  rw [State.bstat, srcG_full ha, except_ok_bind, h36, beq_self_eq_true, need_true, except_ok_bind, hk, except_ok_bind, h, hp]
  rfl

end Status

/-! ## ld.b and st.b (R441) -/

section Lanes
variable {s : State} {f : FA} {a b : Word} (ha : s.source f.a a) (hb : s.source f.b b)
include ha hb

theorem ldB_issues {els : List Nat} (he : els = (List.range (s.self.count (container a))).filter s.self.active)
    (hc : s.checkBead s.crew.asid a b.toNat els true = .ok ()) (hd : s.settled (s.self.vdest f.d.toNat)) :
    s.ldB f = .ok ((State.issueLanes ((s.wakeBank (ptrChan a) (ptrBank a)).produce (s.self.vdest f.d.toNat)
      ((s.self.vreg f.d.toNat).zipIdx.map (fun x => if els.contains (x.2 / container a) then none else some x.1))).1
      0xB0 a (fun e => .laneLoad a (ptrCol a + b.toNat + e) (container a)) (fun e => some (s.serial, container a * e)) els).advance 4) := by
  have serial : (s.wakeBank (ptrChan a) (ptrBank a)).serial = s.serial := by
    obtain ⟨c, w, woken⟩ := wakeBank_eq s (ptrChan a) (ptrBank a)
    rw [woken]
  subst he
  rw [State.ldB, srcG_full ha, except_ok_bind, srcG_full hb, except_ok_bind]
  simp only [destFree_settled hd, except_ok_bind, State.laneCheck, hc, State.emptyOnFault, State.produce, serial]
  rfl

theorem stB_issues {els : List Nat} {v : List Byte} (he : els = (List.range (s.self.count (container a))).filter s.self.active)
    (hv : s.sourceV f.d v) (hc : s.checkBead s.crew.asid a b.toNat els false = .ok ()) :
    s.stB f = .ok ((State.issueLanes (s.wakeBank (ptrChan a) (ptrBank a)) 0xB1 a (fun e =>
      .laneStore a (ptrCol a + b.toNat + e) (toSigned (8 * container a) (el (elems (container a) (s.self.count (container a)) v) e)))
        (fun _ => none) els).advance 4) := by
  subst he
  rw [State.stB, srcG_full ha, except_ok_bind, srcG_full hb, except_ok_bind, srcV_full hv, except_ok_bind]
  simp only [State.laneCheck, hc, except_ok_bind]
  rfl

end Lanes

/-! ## Cells (03 R90) -/

/-- The cell of a plane, in the byte that holds it. -/
def putCell (b : Byte) (rod : Nat) (on : Bool) : Byte := if on then b ||| BitVec.twoPow 8 (rod % 8) else b &&& ~~~BitVec.twoPow 8 (rod % 8)

theorem getLsbD_putCell (b : Byte) (rod : Nat) (on : Bool) : (putCell b rod on).getLsbD (rod % 8) = on := by
  have h : rod % 8 < 8 := Nat.mod_lt _ (by decide)
  cases on <;> simp [putCell, h]

theorem getLsbD_putCell_other (b : Byte) {rod i : Nat} (on : Bool) (hi : i < 8) (h : i ≠ rod % 8) :
    (putCell b rod on).getLsbD i = b.getLsbD i := by
  cases on <;> simp [putCell, hi, h]

theorem cellPlace_inj {p : Word} {i j x y : Nat} (hx : x < 8192) (hy : y < 8192) (h : cellPlace p i x = cellPlace p j y) :
    i = j ∧ x / 8 = y / 8 := by
  unfold cellPlace rowPlace rowId at h
  omega

/-- An element's planes, put one after the other. -/
def State.putPlanes (s : State) (p : Word) (rod bits n : Nat) : State :=
  (List.range n).foldl (fun t i => { t with
    mem := Memory.set t.mem (cellPlace p i rod) (putCell (Memory.get t.mem (cellPlace p i rod)) rod (bits.testBit i)) }) s

section Planes
variable {s : State} {p : Word} {rod bits : Nat} (hr : rod < 8192) (hs : Memory.wf s.mem = true)
include hr hs

theorem putPlanes_mem (n : Nat) : Memory.wf (s.putPlanes p rod bits n).mem = true ∧
    (∀ i < n, Memory.get (s.putPlanes p rod bits n).mem (cellPlace p i rod) = putCell (Memory.get s.mem (cellPlace p i rod)) rod (bits.testBit i)) ∧
    ∀ q, (∀ i < n, q ≠ cellPlace p i rod) → Memory.get (s.putPlanes p rod bits n).mem q = Memory.get s.mem q := by
  induction n with
  | zero => exact ⟨hs, nofun, fun _ _ => rfl⟩
  | succ n ih =>
    obtain ⟨wf, put, kept⟩ := ih
    have other {i : Nat} (h : i ≠ n) : cellPlace p i rod ≠ cellPlace p n rod := fun e => h (cellPlace_inj hr hr e).1
    have last : (s.putPlanes p rod bits (n + 1)).mem = Memory.set (s.putPlanes p rod bits n).mem (cellPlace p n rod)
        (putCell (Memory.get (s.putPlanes p rod bits n).mem (cellPlace p n rod)) rod (bits.testBit n)) := by
      rw [State.putPlanes, List.range_succ, List.foldl_append]
      rfl
    rw [last]
    refine ⟨Memory.wf_set _ _ _ wf, fun i hi => ?_, fun q hq => ?_⟩
    · rcases Nat.eq_or_lt_of_le (Nat.le_of_lt_succ hi) with rfl | hi
      · rw [Memory.get_set_same _ _ _ wf, kept _ fun j hj => (other (Nat.ne_of_lt hj)).symm]
      · rw [Memory.get_set_other _ _ _ _ (other (Nat.ne_of_lt hi)) wf, put i hi]
    · rw [Memory.get_set_other _ _ _ _ (hq n (Nat.lt_succ_self n)) wf, kept q fun i hi => hq i (Nat.lt_succ_of_lt hi)]

end Planes

/-- The bits of an element as they stand in its cells. -/
def beadBits (p : Word) (v : Int) : Nat := if ptrFmt p = 2 then (if v = 0 then 0 else if 0 < v then 1 else 3) else ofSigned (ptrWidth p) v

theorem putBead_eq (s : State) (p : Word) (rod : Nat) (v : Int) : s.putBead p rod v = s.putPlanes p rod (beadBits p v) (ptrWidth p) := rfl

section PutBead
variable {s : State} {p : Word} {rod : Nat} {v : Int} (hr : rod < 8192) (hs : Memory.wf s.mem = true)
include hr hs

theorem cell_putBead {i : Nat} (hi : i < ptrWidth p) : (s.putBead p rod v).cell p i rod = (beadBits p v).testBit i := by
  obtain ⟨-, put, -⟩ := putPlanes_mem (p := p) (bits := beadBits p v) hr hs (ptrWidth p)
  rw [putBead_eq, State.cell, put i hi, getLsbD_putCell]

theorem cell_putBead_other {i x : Nat} (hi : i < ptrWidth p) (hx : x < 8192) (h : x ≠ rod) :
    (s.putBead p rod v).cell p i x = s.cell p i x := by
  obtain ⟨-, put, kept⟩ := putPlanes_mem (p := p) (bits := beadBits p v) hr hs (ptrWidth p)
  rw [putBead_eq, State.cell, State.cell]
  by_cases same : x / 8 = rod / 8
  · have place : cellPlace p i x = cellPlace p i rod := congrArg (rowPlace _ _ _ _ + ·) same
    rw [place, put i hi, getLsbD_putCell_other _ _ (Nat.mod_lt _ (by decide)) (by omega)]
  · rw [kept _ fun j _ e => same (cellPlace_inj hx hr e).2]

theorem get_putBead_other {q : Nat} (h : ∀ i < ptrWidth p, q ≠ cellPlace p i rod) :
    Memory.get (s.putBead p rod v).mem q = Memory.get s.mem q := (putPlanes_mem hr hs _).2.2 q h

end PutBead

/-! ## Lane accesses at the reckoner (R441, R452) -/

theorem checkBead_free {s : State} {asid : BitVec 16} {p : Word} {j : Nat} {els : List Nat} {reads : Bool}
    (h : s.checkBead asid p j els reads = .ok ()) : s.laneWaits (ptrChan p) (ptrBank p) (ptrSub p) (ptrRows p) = false := by
  by_contra waits
  rw [Bool.not_eq_false] at waits
  simp only [State.checkBead, waits, if_true] at h
  split at h
  · cases h
  · split at h
    · cases h
    · split at h
      · cases h
      · split at h <;> cases h

/-- A lane access that has been performed: it is recorded, and asks for nothing more. -/
def State.laneDone (s t : State) (r : Req) (p : Word) (rod : Nat) : State :=
  ((t.record { s.eventOf r 0 s.writes with strong := true, words := cellsOf p rod }).dropReq r.id).tidy

theorem laneDone_mem (s t : State) (r : Req) (p : Word) (rod : Nat) : (s.laneDone t r p rod).mem = t.mem := rfl

section LaneTurn
variable {s : State} {r : Req} {p : Word} {rod w : Nat} {v : Int} (ho : s.ordered r = true)
include ho

theorem laneTurn_load (hop : r.op = .laneLoad p rod w) (hc : s.checkBead r.who.asid p (rod - ptrCol p) [0] true = .ok ()) :
    s.laneTurn r = s.laneDone ((s.wakeBank (ptrChan p) (ptrBank p)).deliver r.ret (leBytes w (ofSigned (8 * w) (s.beadElem p rod)))) r p rod := by
  have same : (s.wakeBank (ptrChan p) (ptrBank p)).beadElem p rod = s.beadElem p rod := by
    obtain ⟨c, m, woken⟩ := wakeBank_eq s (ptrChan p) (ptrBank p)
    rw [woken]
    rfl
  have load : r.op.isLoad = true := by rw [hop]; rfl
  simp only [State.laneTurn, hop, ho, Bool.not_true, Bool.false_eq_true, if_false]
  rw [← hop]
  simp only [load, Bool.true_or, if_true, hc, same]
  rfl

theorem laneTurn_load_fault {code : BitVec 8} {x : Word} (hop : r.op = .laneLoad p rod w)
    (hc : s.checkBead r.who.asid p (rod - ptrCol p) [0] true = .error (.fault code x)) : s.laneTurn r = s.reqFault r code x := by
  have load : r.op.isLoad = true := by rw [hop]; rfl
  simp only [State.laneTurn, hop, ho, Bool.not_true, Bool.false_eq_true, if_false]
  rw [← hop]
  simp only [load, Bool.true_or, if_true, hc]

theorem laneTurn_store_waits (hop : r.op = .laneStore p rod v) (hn : r.again = false)
    (hw : s.laneWaits (ptrChan p) (ptrBank p) (ptrSub p) (ptrRows p) = true) : s.laneTurn r = s := by
  have store : r.op.isLoad = false := by rw [hop]; rfl
  simp only [State.laneTurn, hop, ho, Bool.not_true, Bool.false_eq_true, if_false]
  rw [← hop]
  simp only [store, hn, Bool.or_self, Bool.false_eq_true, if_false, hw, if_true]

theorem laneTurn_store (hop : r.op = .laneStore p rod v)
    (h : r.again = false ∧ s.laneWaits (ptrChan p) (ptrBank p) (ptrSub p) (ptrRows p) = false ∨
      s.checkBead r.who.asid p (rod - ptrCol p) [0] false = .ok ()) :
    s.laneTurn r = s.laneDone ((s.wakeBank (ptrChan p) (ptrBank p)).putBead p rod v) r p rod := by
  have store : r.op.isLoad = false := by rw [hop]; rfl
  have free : r.again = false → s.laneWaits (ptrChan p) (ptrBank p) (ptrSub p) (ptrRows p) = false := fun hn => h.elim (·.2) checkBead_free
  simp only [State.laneTurn, hop, ho, Bool.not_true, Bool.false_eq_true, if_false]
  rw [← hop]
  by_cases again : r.again = true
  · have checks := h.resolve_left fun h => absurd (h.1.symm.trans again) (by decide)
    simp only [store, again, Bool.or_true, if_true, checks]
    rfl
  · rw [Bool.not_eq_true] at again
    simp only [store, again, Bool.or_self, Bool.false_eq_true, if_false, free again]
    rfl

end LaneTurn

/-- Settles O32: the issue of each form, and the cells that a lane store writes. -/
theorem beadIssue : Obligations.BeadIssue := by
  intro s f a b bs u room queued chanOf mine ha hb
  refine ⟨fun hn hr banks h0 h10 h60 slots owned args hd hroom => ?_, fun h => congrArg (finish s) (bcall_above ha hb h),
    fun k hk h => congrArg (finish s) (bfence_passes ha hb hk h), fun k hk h => congrArg (finish s) (bfence_waits ha hb hk h),
    ?_, fun k h36 hk hd => ?_, fun hc hd => congrArg (finish s) (ldB_issues ha hb rfl hc hd),
    fun v hv hc => congrArg (finish s) (stB_issues ha hb rfl hv hc), fun r rod ho => ?_,
    fun r rod w code x ho hop hc => laneTurn_load_fault ho hop hc⟩
  · have looks := looks_issueRead hr
    have some_bank : (blockBanks bs).isEmpty = false := by
      obtain ⟨n, hn, bit⟩ := banks
      exact List.isEmpty_eq_false_iff_exists_mem.mpr ⟨n, List.mem_filter.mpr ⟨List.mem_range.mpr hn, bit⟩⟩
    have quiet : (List.range 8).filterMap (slotFault bs) = [] :=
      List.filterMap_eq_nil_iff.mpr fun n hn => slots n (List.mem_range.mp hn)
    refine (congrArg (finish s) (bcall_joins ha hb hn hr some_bank h0 h10 h60 quiet owned args hd hroom)).trans ?_
    rw [finish_ok, State.beadQueued, looks.notes.self, looks.notes.issuer]
    rfl
  · have unkeyed {P : Prop} (h : false = true) : P := Bool.noConfusion h
    have key {g : Bool} (h : wbits b 31 16 ≠ 0) : g = true → wbits b 31 16 ≠ 0 := fun _ => h
    refine ⟨fun good hroom owned => ⟨congrArg (finish s) (runIssue_joins ha hb good unkeyed (fun _ => owned) hroom), fun h =>
        ⟨congrArg (finish s) (runIssue_joins ha hb good (key h) (fun _ => owned) hroom),
          congrArg (finish s) (runIssue_joins ha hb good (key h) (fun _ => owned) hroom)⟩⟩,
      fun good hroom => congrArg (finish s) (runIssue_joins ha hb good unkeyed unkeyed hroom),
      fun good out => ⟨congrArg (finish s) (runIssue_outside ha hb good unkeyed out), fun h =>
        ⟨congrArg (finish s) (runIssue_outside ha hb good (key h) out), congrArg (finish s) (runIssue_outside ha hb good (key h) out)⟩⟩,
      fun h => ⟨congrArg (finish s) (runIssue_refused ha hb (.inr ⟨rfl, h⟩)), congrArg (finish s) (runIssue_refused ha hb (.inr ⟨rfl, h⟩))⟩,
      fun h => ⟨congrArg (finish s) (runIssue_refused ha hb (.inl h)), congrArg (finish s) (runIssue_refused ha hb (.inl h))⟩⟩
  · intro sel
    have answers (n : Nat) (hn : n < 6) (h : wbits a 35 32 = n) : exec (.bstat f) s = .next (s.gains f.d 4 ((s.chan k).status n)) := by
      subst h
      exact congrArg (finish s) (bstat_answers ha h36 hk hd hn)
    exact ⟨answers 0 (by decide), answers 1 (by decide), answers 2 (by decide), answers 3 (by decide),
      fun h => congrArg (finish s) (bstat_above ha h36 hk h), answers 4 (by decide), answers 5 (by decide),
      fun h hp => congrArg (finish s) (bstat_user ha h36 hk h hp), fun h hp => congrArg (finish s) (bstat_clears ha h36 hk hd h hp)⟩
  · intro checks waits
    refine ⟨fun w hop hc => laneTurn_load ho hop ?_, fun v hop hn hw => laneTurn_store_waits ho hop hn hw, fun v hop h inv hr => ?_⟩
    · have load : r.op.isLoad = true := by rw [hop]; rfl
      exact load ▸ hc
    · have store : r.op.isLoad = false := by rw [hop]; rfl
      intro t
      have ht : t = s.laneDone ((s.wakeBank (ptrChan a) (ptrBank a)).putBead a rod v) r a rod := by
        refine laneTurn_store ho hop ?_
        rcases h with ⟨hn, hw⟩ | hc
        · exact .inl ⟨hn, Bool.eq_false_iff.mpr hw⟩
        · exact .inr (store ▸ hc)
      have mem : t.mem = ((s.wakeBank (ptrChan a) (ptrBank a)).putBead a rod v).mem := by rw [ht, laneDone_mem]
      have woken : (s.wakeBank (ptrChan a) (ptrBank a)).mem = s.mem := (wakeBanks_keeps [ptrBank a] s (ptrChan a)).1.mem
      have wf : Memory.wf (s.wakeBank (ptrChan a) (ptrBank a)).mem = true := by rw [woken]; exact inv.1
      refine ⟨fun fmt i hi => ?_, fun i x hi hx hne => ?_, fun p hp => ?_⟩
      · have bits : beadBits a v = ofSigned (wbits a 55 51) v := if_neg (by unfold ptrFmt; omega)
        rw [← bits, ← cell_putBead (v := v) hr wf hi, State.cell, State.cell, mem]
      · have put := cell_putBead_other (v := v) hr wf hi hx hne
        rw [State.cell, State.cell, woken] at put
        rw [State.cell, State.cell, mem, put]
      · rw [mem, get_putBead_other hr wf hp, woken]

end Sys2Proof.Machine

/-! PROOF. O46: crane commands at the head of their queue (13 R394, R400, R401, R405, R406; 08 R275). -/

namespace Sys2Proof.Machine

/-! ## The turn of a command -/

section Turn
variable {s : State} {q : QueueRef} {x : Queue} {c : Cmd} (hc : s.craneCmd s.args.unit s.args.sub = some (q, x, c))
  (page : c.pageWait = none) (ready : s.cmdReady c = true) (latch : x.latch = none) (live : c.cancelled = false)
include hc page ready latch live

theorem commandTurn_runs {want : Cmd → Bool} {body : QueueRef → Cmd → State} (hw : want c = true) :
    s.commandTurn (s.craneCmd s.args.unit s.args.sub) want body = body q c := by
  simp only [State.commandTurn, hc, hw, page, ready, latch, live, Bool.not_true, Option.isSome_none, Bool.or_self, Bool.false_eq_true, if_false,
    ite_self]

theorem craneTurn_runs {want : Instr → Bool} {body : QueueRef → Cmd → Except CmdStop State} (hw : want c.op = true) :
    s.craneTurn want body = s.finishCommand q c (body q c) :=
  commandTurn_runs (want := fun c => want c.op) hc page ready latch live hw

end Turn

/-! ## The moves of a copy, all at once -/

section Moves
variable {α β : Type} {m : α → Except CmdStop β}

/-- Elements paired with what is read for them. -/
theorem mapM_zip {xs : List α} {bs : List β} (ys : List Spot) (h : xs.mapM m = .ok bs) :
    ((ys.zip xs).map (fun y => (y.1, m y.2))).mapM (fun x => x.2.map (fun b => (x.1, b))) = .ok (ys.zip bs) := by
  induction xs generalizing bs ys with
  | nil =>
    cases h
    cases ys <;> rfl
  | cons x xs ih =>
    rw [List.mapM_cons] at h
    obtain ⟨b, hb, h⟩ := except_bind_eq_ok h
    obtain ⟨bs', hbs, h⟩ := except_bind_eq_ok h
    cases h
    cases ys with
    | nil => rfl
    | cons y ys =>
      rw [List.zip_cons_cons, List.map_cons, List.mapM_cons, ih ys hbs, hb]
      rfl

theorem mapM_oks {γ : Type} (l : List γ) (g : γ → Spot) (v : γ → β) {r : γ → Except CmdStop β} (h : ∀ y ∈ l, r y = .ok (v y)) :
    (l.map (fun y => (g y, r y))).mapM (fun x => x.2.map (fun b => (x.1, b))) = .ok (l.map (fun y => (g y, v y))) := by
  induction l with
  | nil => rfl
  | cons y l ih =>
    obtain ⟨hy, hl⟩ := List.forall_mem_cons.mp h
    rw [List.map_cons, List.mapM_cons, ih hl, hy]
    rfl

end Moves

/-- A command that has moved nothing yet moves everything, where the event names no part. -/
theorem moveOn_all {t : State} {q : QueueRef} {c : Cmd} {elems : List (Spot × Except CmdStop (List Byte))} {n : Nat} {src : List Spot}
    {ws : List (Spot × List Byte)} (part : t.args.part = none) (fresh : c.moved = [])
    (h : elems.mapM (fun x => x.2.map (fun bs => (x.1, bs))) = .ok ws) :
    t.moveOn q c elems n src = .ok ((t.sourced q c n src).engineWrites q c ws) := by
  have moves : (elems.zipIdx.filter (fun x => !c.moved.contains x.2)).mapM (fun x => x.1.2.map (fun bs => (x.1.1, bs))) = .ok ws := by
    rw [← h, ← List.zipIdx_map_fst 0 elems, List.mapM_map]
    simp [fresh]
    rfl
  simp only [State.moveOn, part, moves, except_ok_bind]
  simp [fresh]

section Data
variable {s t u : State} {q : QueueRef} {c : Cmd} {d : CopyDesc} {fill : Bool} {xs ys : List Spot} {bs : List (List Byte)}

theorem moveData_claims (hf : s.operands q c (s.passing q c (s.copyT c.who d) (s.copySpots c.who d fill)) = .ok (xs, ys))
    {r : Except CmdStop State} (hr : (s.passT q c (s.copyT c.who d)).claim q c d.esize ys d.esize xs = r) :
    s.moveData q c d fill = (do
      let t ← r
      t.moveOn q c (if fill then ys.map (fun y => (y, .ok (leBytes d.esize d.src.toNat)))
        else (ys.zip xs).map (fun y => (y.1, t.sourceRead c d.esize y.2))) d.esize xs) := by
  subst hr
  rw [State.moveData, hf, except_ok_bind]

theorem moveData_copies (hf : s.operands q c (s.passing q c (s.copyT c.who d) (s.copySpots c.who d false)) = .ok (xs, ys))
    (hc : (s.passT q c (s.copyT c.who d)).claim q c d.esize ys d.esize xs = .ok t) (part : t.args.part = none) (fresh : c.moved = [])
    (hb : xs.mapM (t.sourceRead c d.esize) = .ok bs) :
    s.moveData q c d false = .ok ((t.sourced q c d.esize xs).engineWrites q c (ys.zip bs)) := by
  rw [moveData_claims hf hc, except_ok_bind]
  exact moveOn_all part fresh (mapM_zip ys hb)

theorem moveData_fills (hf : s.operands q c (s.passing q c (s.copyT c.who d) (s.copySpots c.who d true)) = .ok (xs, ys))
    (hc : (s.passT q c (s.copyT c.who d)).claim q c d.esize ys d.esize xs = .ok t) (part : t.args.part = none) (fresh : c.moved = []) :
    s.moveData q c d true =
      .ok ((t.sourced q c d.esize xs).engineWrites q c (ys.map (fun y => (y, leBytes d.esize d.src.toNat)))) := by
  rw [moveData_claims hf hc, except_ok_bind]
  exact moveOn_all part fresh (mapM_oks ys id (fun _ => leBytes d.esize d.src.toNat) fun _ _ => rfl)

theorem moveData_waits (hf : s.operands q c (s.passing q c (s.copyT c.who d) (s.copySpots c.who d fill)) = .ok (xs, ys))
    (hc : (s.passT q c (s.copyT c.who d)).claim q c d.esize ys d.esize xs = .error (.keep u)) :
    s.moveData q c d fill = .error (.keep u) := by
  rw [moveData_claims hf hc, except_error_bind]

theorem moveData_stops {e : CmdStop} (hf : s.operands q c (s.passing q c (s.copyT c.who d) (s.copySpots c.who d fill)) = .error e) :
    s.moveData q c d fill = .error e := by
  rw [State.moveData, hf, except_error_bind]

/-- A page that is absent is waited for, with the operands in T space checked. -/
theorem operands_page {addr : Word} (hn : s.claimOf q c = none) (hp : s.copySpots c.who d fill = .error (.page addr 0))
    (boot : c.who.ctx ≠ bootCtx) : s.operands q c (s.passing q c (s.copyT c.who d) (s.copySpots c.who d fill)) =
      .error (.keep ((s.passT q c (s.copyT c.who d)).cmdPage q c addr 0)) := by
  simp only [State.operands, hn, hp, State.passing, State.finishCommand, beq_false_of_ne boot, Bool.false_eq_true, if_false]

end Data

/-! ## Corner turns (R406) -/

theorem sample_all {s : State} {q : QueueRef} {c : Cmd} {xs : List (Nat × Spot)} (part : s.args.part = none) : s.sample q c xs = .ok () := by
  rw [State.sample, part]

section CornerTurn
variable {s t u : State} {q : QueueRef} {c : Cmd} {xs ys : List Spot} {bs : List (List Byte)} {d : CopyDesc} (hd : d = copyDesc c.bytes)
include hd

theorem cornerTurn_toBead (h4 : d.dsp = 4) (hf : s.operands q c (do
      let xs ← (d.addrs d.src d.spitch).mapM (s.spot c.who d.ssp .r d.esize)
      s.turnCheck q c (s.copyT c.who d) d.dst (List.range (d.width / d.esize)) false
      return (xs, [])) = .ok (xs, ys))
    (hc : (s.passT q c (s.copyT c.who d)).claim q c d.esize [] d.esize xs
      ((ptrRows d.dst).map (rowId (ptrChan d.dst) (ptrBank d.dst) (ptrSub d.dst))) = .ok t)
    (part : t.args.part = none) (hb : xs.mapM (t.sourceRead c d.esize) = .ok bs)
    (free : t.bankWaits (ptrChan d.dst) (ptrBank d.dst) = false) :
    s.cornerTurn q c = .ok (bs.zipIdx.foldl (fun t y =>
      (t.putBead d.dst (ptrCol d.dst + y.2) (toSigned (8 * d.esize) (leNat y.1))).record
        { t.eventFor q c with writes := true, strong := true, words := cellsOf d.dst (ptrCol d.dst + y.2), stamp := t.writes })
        ((t.sourced q c d.esize xs).wakeBank (ptrChan d.dst) (ptrBank d.dst))) := by
  subst hd
  simp only [State.cornerTurn, h4, if_true, hf, except_ok_bind, hc, sample_all part, hb, free]
  rfl

theorem cornerTurn_fromBead (h4 : d.dsp ≠ 4) (hf : s.operands q c (do
      let ys ← (d.addrs d.dst d.dpitch).mapM (s.spot c.who d.dsp .w d.esize)
      s.turnCheck q c (s.copyT c.who d) d.src (List.range (d.width / d.esize)) true
      return ([], ys)) = .ok (xs, ys))
    (hc : (s.passT q c (s.copyT c.who d)).claim q c d.esize ys d.esize [] = .ok u)
    (free : u.laneWaits (ptrChan d.src) (ptrBank d.src) (ptrSub d.src) (ptrRows d.src) = false)
    (ht : t = State.record (u.wakeBank (ptrChan d.src) (ptrBank d.src)) { u.eventFor q c with
      reads := true, strong := true, words := (List.range (d.width / d.esize)).flatMap (fun i => cellsOf d.src (ptrCol d.src + i)), stamp := u.writes })
    (part : t.args.part = none) (fresh : c.moved = [])
    (checked : ∀ i, i < ys.length → t.checkBead c.who.asid d.src 0 [i] true = .ok ()) :
    s.cornerTurn q c = .ok ((t.sourced q c 0 []).engineWrites q c (ys.zipIdx.map (fun y =>
      (y.1, leBytes d.esize (ofSigned (8 * d.esize) (t.beadElem d.src (ptrCol d.src + y.2))))))) := by
  have upart : u.args.part = none := by
    obtain ⟨w, m, woken⟩ := wakeBank_eq u (ptrChan d.src) (ptrBank d.src)
    rw [ht, woken] at part
    exact part
  have all : (List.range (d.width / d.esize)).filter (fun i => !c.moved.contains i) =
      List.range (d.width / d.esize) := by simp [fresh]
  subst hd
  simp only [State.cornerTurn, h4, if_false, hf, except_ok_bind, hc, free, upart, all, Bool.false_eq_true]
  rw [← ht]
  refine moveOn_all part fresh (mapM_oks ys.zipIdx Prod.fst _ fun y hy => ?_)
  have within : y.2 < ys.length := by
    have := List.snd_lt_of_mem_zipIdx hy
    omega
  rw [State.turnCheck, checked _ within]
  rfl

end CornerTurn

/-! ## Ring commands (R405) -/

section Ring
variable {s u : State} {q : QueueRef} {c : Cmd} {v ref : Word} {p : Nat} {d : CopyDesc} (hd : d = copyDesc c.bytes)
include hd

/-- The copy that a ring command makes, once it has its slot. -/
def CopyDesc.atSlot (d : CopyDesc) (v : Word) : CopyDesc :=
  if d.dir then { d with src := word (wbits v 29 0), ctrl := d.ctrl + (wbits v 63 62 + 1) }
  else { d with dst := word (wbits v 29 0), ctrl := d.ctrl + 16 * (wbits v 63 62 + 1) }

theorem ringCopy_slotted (hp : p = (c.args.getD 1 0).toNat) (hv : c.slot = some v) (apart : (d.atSlot v).apart = true)
    (hm : s.moveData q c (d.atSlot v) false = .ok u) (open_ : if d.dir = true then (u.ring p).free ≠ (u.ring p).take else (u.ring p).post ≠ (u.ring p).claim) :
    s.ringCopy q c = .ok ((u.setRing { u.eventFor q c with rel := true } p
      (if d.dir then { u.ring p with free := (u.ring p).free + 1 } else { u.ring p with post := (u.ring p).post + 1 })).serveRing p) := by
  have passes : (if d.dir then (u.ring p).free != (u.ring p).take else (u.ring p).post != (u.ring p).claim) = true := by
    split_ifs at open_ ⊢ <;> exact bne_iff_ne.mpr open_
  have slot : (if d.dir = true then { d with src := word (wbits v 29 0), ctrl := d.ctrl + slotSpace (wbits v 63 62) }
      else { d with dst := word (wbits v 29 0), ctrl := d.ctrl + 16 * slotSpace (wbits v 63 62) }) = d.atSlot v := rfl
  subst hd hp
  simp only [State.ringCopy, State.ringChecks, hv, Option.isSome_some, if_true, except_ok_bind, State.takeSlot]
  rw [slot]
  simp only [apart, needCmd, if_true, except_ok_bind, hm, State.passSlot, passes]
  rfl

end Ring

/-- A ring serves no command while it has no slot of the kind asked for. -/
theorem serveRing_cmd_waits {x : State} {w : Waiter} {p : Nat} (cmd : Option Nat) (hx : x.waiters = [w]) (hp : w.place = p)
    (hw : w.served = none) (hclaim : w.need = .claim → (x.ring p).slots ≤ ((x.ring p).claim - (x.ring p).free).toNat)
    (htake : w.need = .take → ((x.ring p).post - (x.ring p).take).toNat = 0) : x.serveRing p cmd = x := by
  have noClaim : ((if w.need = .claim then some w else none).filter fun w =>
      (w.crew != 0 || cmd == some w.id) && decide (((x.ring p).claim - (x.ring p).free).toNat < (x.ring p).slots)) = none := by
    split_ifs with h
    · rw [Option.filter_some, decide_eq_false (Nat.not_lt_of_le (hclaim h)), Bool.and_false, if_neg Bool.false_ne_true]
    · rfl
  have noTake : ((if w.need = .take then some w else none).filter fun w =>
      (w.crew != 0 || cmd == some w.id) && decide (0 < ((x.ring p).post - (x.ring p).take).toNat)) = none := by
    split_ifs with h
    · rw [Option.filter_some, htake h, decide_eq_false (Nat.lt_irrefl 0), Bool.and_false, if_neg Bool.false_ne_true]
    · rfl
  rw [State.serveRing, hx, List.length_singleton, State.serveRingN]
  simp only [find_open hx hp hw, noClaim, noTake]

section RingWaits
variable {s : State} {q : QueueRef} {c : Cmd} {p : Nat} {d : CopyDesc}

/-- A ring command that waits for its slot. -/
def State.asksSlot (s : State) (q : QueueRef) (c : Cmd) (p : Nat) (need : Need) : State :=
  { (s.setCmd q c.seq (fun e => { e with ticket := s.serial })) with
    waiters := [{ id := s.serial, crew := 0, idx := 0, place := p, need, event := { s.eventFor q c with acq := true } }]
    serial := s.serial + 1 }

theorem keepsBytes_asksSlot (s : State) (q : QueueRef) (c : Cmd) (p : Nat) (need : Need) : s.KeepsBytes (s.asksSlot q c p need) := by
  have same (f : Queue → Queue) : s.KeepsBytes (s.setQueue q f) := by cases q <;> exact ⟨rfl, rfl, rfl, rfl, rfl, rfl⟩
  exact (same _).trans (t := s.setCmd q c.seq _) ⟨rfl, rfl, rfl, rfl, rfl, rfl⟩

theorem takeSlot_waits {need : Need} (hs : c.slot = none) (hw : s.waiters = []) (ht : c.ticket = 0)
    (hclaim : need = .claim → (s.ring p).slots ≤ ((s.ring p).claim - (s.ring p).free).toNat)
    (htake : need = .take → ((s.ring p).post - (s.ring p).take).toNat = 0) : s.takeSlot q c p need = (s.asksSlot q c p need, none) := by
  have ring := ring_congr (keepsBytes_asksSlot s q c p need) p
  have stays : (s.asksSlot q c p need).serveRing p (some s.serial) = s.asksSlot q c p need :=
    serveRing_cmd_waits _ rfl rfl rfl (by rwa [ring]) (by rwa [ring])
  have unserved : ((s.asksSlot q c p need).waiters.find? (fun w => w.id == s.serial)).bind (·.served) = none := by
    simp only [State.asksSlot, List.find?_singleton, beq_self_eq_true, if_true, Option.bind_some]
  simp only [State.takeSlot, hs, ht, hw]
  split
  · next v served =>
    change (((s.asksSlot q c p need).serveRing p (some s.serial)).waiters.find? (fun w => w.id == s.serial)).bind (·.served) = some v at served
    rw [stays, unserved] at served
    cases served
  · exact congrArg (·, none) stays

theorem ringCopy_waits (hd : d = copyDesc c.bytes) (hp : p = (c.args.getD 1 0).toNat) (hs : c.slot = none) (clean : s.poisonedAt p 32 = false)
    (ok : s.ringOk (s.crewById c.who.crew) (coreOfSlot (s.slotOf c.who)) (s.ring p).cfg = .ok ()) (hw : s.waiters = []) (ht : c.ticket = 0)
    (fits : d.extent (if d.dir then d.spitch else d.dpitch) ≤ 2 ^ (s.ring p).logSize)
    (none_ : if d.dir = true then ((s.ring p).post - (s.ring p).take).toNat = 0 else (s.ring p).slots ≤ ((s.ring p).claim - (s.ring p).free).toNat) :
    s.ringCopy q c = .error (.keep (s.asksSlot q c p (if d.dir then .take else .claim))) := by
  have checks (ref : Word) : s.ringChecks c d ref p = .ok () := by
    simp only [State.ringChecks, hs, Option.isSome_none, Bool.false_eq_true, if_false, clean, needCmd, Bool.not_false, if_true, except_ok_bind, ok,
      decide_eq_true fits]
  have waits : s.takeSlot q c p (if d.dir then .take else .claim) = (s.asksSlot q c p (if d.dir then .take else .claim), none) := by
    refine takeSlot_waits hs hw ht (fun h => ?_) fun h => ?_
    all_goals
      split_ifs at none_ h
      exact none_
  subst hd hp
  simp only [State.ringCopy, checks, except_ok_bind, waits]

end RingWaits

/-! ## crnw and cpubq at the head of the queue -/

theorem publishCommand_all {s : State} {q : QueueRef} {c : Cmd} {f : FA} {a n : Word} {ts : List Trans} (hop : c.op = .cpubq f)
    (hargs : c.args = [a, n]) (part : s.args.part = none) (fresh : c.moved = [])
    (ht : (linesOf a n).mapM (fun va => s.cmdXlate c.who .wx va) = .ok ts) :
    s.publishCommand q c = .ok (s.publish c.who f.fn.toNat (ts.map (fun t => t.place / 128))) := by
  have all (l : List Nat) : l.filter (fun l => !c.moved.contains l) = l := by simp [fresh]
  simp only [State.publishCommand, hop, hargs, ht, except_ok_bind, part, all]
  rfl

/-- Settles O46: each command runs its body, and the body's steps are those of a copy, a corner turn, a ring, a wait or a publish. -/
theorem craneCommands : Obligations.CraneCommands := by
  intro s t u q x c f xs ys bs code addr a n ts done d inT checked found hc page ready latch live fresh part
  have run {want : Instr → Bool} {body : QueueRef → Cmd → Except CmdStop State} (hw : want c.op = true) :
      (Host.Outcome.next (s.craneTurn want body) : Host.Outcome State Fault Refusal) = .next (s.finishCommand q c (body q c)) :=
    congrArg (Host.Outcome.next (ρ := Refusal) (φ := Fault)) (craneTurn_runs hc page ready latch live hw)
  have ends {want : Instr → Bool} {body : QueueRef → Cmd → Except CmdStop State} {w : State} (hw : want c.op = true) (hb : body q c = .ok w) :
      Host.Outcome.next (s.craneTurn want body) = done w := (run hw).trans (by rw [hb]; rfl)
  have stops {want : Instr → Bool} {body : QueueRef → Cmd → Except CmdStop State} {e : CmdStop} {w : State} (hw : want c.op = true)
      (he : s.finishCommand q c (.error e) = w) (hb : body q c = .error e) :
      (Host.Outcome.next (s.craneTurn want body) : Host.Outcome State Fault Refusal) = .next w := (run hw).trans (by rw [hb, he])
  refine ⟨fun hop => ?_, fun hop hf hcl => ends (by rw [hop]) (moveData_fills hf hcl part fresh), ?_, ?_, ?_, ?_, ?_⟩
  · have want : (match c.op with
        | .crn _ => true
        | .crnF _ => true
        | _ => false) = true := by rcases hop with hop | hop <;> rw [hop]
    exact ⟨fun hf hcl hb => ends want (moveData_copies hf hcl part fresh hb), fun hf hcl => stops want rfl (moveData_waits hf hcl),
      fun hf => stops want rfl (moveData_stops hf), fun hn hp boot => stops want rfl (moveData_stops (operands_page hn hp boot))⟩
  · exact fun hop h4 hf hcl hb free => ends (by rw [hop]) (cornerTurn_toBead rfl h4 hf hcl part hb free)
  · exact fun hop h4 hf hcl free ht checked => ends (by rw [hop]) (cornerTurn_fromBead rfl h4 hf hcl free ht part fresh checked)
  · intro p r release hop
    refine ⟨fun v dir hv => ?_, fun v dir hv => ?_, fun hs clean ok hw ht fits none_ => ?_⟩
    · intro d' apart hm open_
      have slot : d.atSlot v = d' := if_pos dir
      have slotted := ringCopy_slotted (d := d) (p := p) rfl rfl hv (by rwa [slot]) (by rwa [slot]) (by rwa [if_pos dir])
      rw [if_pos dir] at slotted
      exact ends (by rw [hop]) slotted
    · intro d' apart hm open_
      have drain : ¬ d.dir = true := by rw [dir]; decide
      have slot : d.atSlot v = d' := if_neg drain
      have slotted := ringCopy_slotted (d := d) (p := p) rfl rfl hv (by rwa [slot]) (by rwa [slot]) (by rwa [if_neg drain])
      rw [if_neg drain] at slotted
      exact ends (by rw [hop]) slotted
    · exact stops (by rw [hop]) rfl (ringCopy_waits (d := d) rfl rfl hs clean ok hw ht fits none_)
  · intro hop k hargs hk
    have named : queueOf (c.args.drop 1) = .bead k := by
      rw [hargs]
      exact congrArg QueueRef.bead (Nat.mod_eq_of_lt (by omega))
    have number : (c.args.getD 0 0).toNat = a.toNat := by rw [hargs]; rfl
    refine ⟨fun h => ends (by rw [hop]) ?_, fun h => stops (e := .wait) (by rw [hop]) rfl ?_⟩
    all_goals dsimp only
    · have reached : s.reached (.bead k) a.toNat = true := decide_eq_true h
      rw [named, number, if_pos reached]
    · have reached : s.reached (.bead k) a.toNat = false := decide_eq_false (Nat.not_le_of_lt h)
      rw [named, number, if_neg (Bool.eq_false_iff.mp reached)]
  · intro hop hargs spart ht
    have turn := commandTurn_runs hc page ready latch live (want := Cmd.isPublish) (body := fun q c => s.finishCommand q c (s.publishCommand q c))
      (by rw [Cmd.isPublish, hop])
    refine (congrArg (Host.Outcome.next (ρ := Refusal) (φ := Fault)) turn).trans ?_
    rw [publishCommand_all hop hargs spart fresh ht]
    rfl

end Sys2Proof.Machine

/-! PROOF. O35: the rows of a bank, and what the micro-words do to them (14 R420, R422 to R424, R428, R429). -/

namespace Sys2Proof.Machine

/-! ## Where rows stand -/

section Places
variable {k i j sub w x : Nat}

theorem rowId_other (h : i ≠ j) (hw : w < 1024) (hx : x < 1024) : rowId k i sub w ≠ rowId k j sub x := by
  unfold rowId subId
  omega

theorem rowId_row (h : w ≠ x) : rowId k i sub w ≠ rowId k i sub x := by
  unfold rowId
  omega

theorem workKey_other (h : i ≠ j) (hw : w < 8) (hx : x < 8) : workKey k i sub w ≠ workKey k j sub x := by
  unfold workKey subId
  omega

theorem workKey_row (h : w ≠ x) : workKey k i sub w ≠ workKey k i sub x := by
  unfold workKey
  omega

end Places

/-! ## The operations of rows -/

section Rows
variable {s : State} {k n sub r p : Nat} {x : RowState} {v : Row}

theorem stateOfRow_set (hx : x ≠ .isSealed) : (s.setRowState k n sub r x).stateOfRow k n sub r = x := sget_sset_listed _ _ _ hx

theorem stateOfRow_set_other {j w : Nat} (hx : x ≠ .isSealed) (h : rowId k j sub w ≠ rowId k n sub r) :
    (s.setRowState k n sub r x).stateOfRow k j sub w = s.stateOfRow k j sub w := sget_sset_listed_other _ _ hx h

/-- What memory alone leaves as it was. -/
theorem mem_keeps_rows (s : State) (m : Memory) : (∀ k n sub r, State.stateOfRow { s with mem := m } k n sub r = s.stateOfRow k n sub r) ∧
    State.workRows { s with mem := m } = s.workRows := ⟨fun _ _ _ _ => rfl, rfl⟩

theorem putRow_keeps (s : State) (k n sub r : Nat) (v : Row) : (∀ j u t w, (s.putRow k n sub r v).stateOfRow j u t w = s.stateOfRow j u t w) ∧
    (s.putRow k n sub r v).workRows = s.workRows := mem_keeps_rows s _

theorem setRowState_mem : (s.setRowState k n sub r x).mem = s.mem := rfl

theorem putRow_mem (s : State) (k n sub r : Nat) (v : Row) :
    (s.putRow k n sub r v).mem = Memory.setBytes s.mem (rowPlace k n sub r) (leBytes 1024 v.toNat) := by
  rw [State.putRow]

theorem putRow_wf (hs : Memory.wf s.mem = true) : Memory.wf (s.putRow k n sub r v).mem = true := by
  have wf := Memory.wf_setBytes (leBytes 1024 v.toNat) s.mem (rowPlace k n sub r) hs
  exact (congrArg Memory.wf (putRow_mem s k n sub r v)).trans wf

/-- The bytes of a row that was put. -/
theorem get_putRow (hs : Memory.wf s.mem = true) : Memory.get (s.putRow k n sub r v).mem p =
    if rowPlace k n sub r ≤ p ∧ p < rowPlace k n sub r + 1024 then ((leBytes 1024 v.toNat)[p - rowPlace k n sub r]?).getD 0 else Memory.get s.mem p := by
  rw [State.putRow, Memory.get_setBytes _ _ _ _ hs, leBytes_length]

theorem rowBits_congr {t : State} {u j w : Nat}
    (h : ∀ i < 1024, Memory.get t.mem (rowPlace k j u w + i) = Memory.get s.mem (rowPlace k j u w + i)) :
    t.rowBits k j u w = s.rowBits k j u w := by
  rw [State.rowBits, State.rowBits]
  exact congrArg (fun l => BitVec.ofNat 8192 (leNat l)) (List.map_congr_left fun i hi => h i (List.mem_range.mp hi))

theorem rowBits_setRowState {u j w : Nat} : (s.setRowState k n sub r x).rowBits k j u w = s.rowBits k j u w := rowBits_congr fun _ _ => rfl

theorem rowBits_putRow (hs : Memory.wf s.mem = true) : (s.putRow k n sub r v).rowBits k n sub r = v := by
  have bytes : (List.range 1024).map (fun i => Memory.get (s.putRow k n sub r v).mem (rowPlace k n sub r + i)) = leBytes 1024 v.toNat := by
    refine List.ext_getElem (by rw [List.length_map, List.length_range, leBytes_length]) fun i hi hi' => ?_
    rw [List.length_map, List.length_range] at hi
    rw [List.getElem_map, List.getElem_range, get_putRow hs, if_pos ⟨Nat.le_add_right .., Nat.add_lt_add_left hi _⟩, Nat.add_sub_cancel_left,
      List.getElem?_eq_getElem hi', Option.getD_some]
  have size : (256 : Nat) ^ 1024 = 2 ^ 8192 := by rw [show (256 : Nat) = 2 ^ 8 from rfl, ← pow_mul]
  rw [State.rowBits, bytes, leNat_leBytes, size, Nat.mod_eq_of_lt v.isLt, BitVec.ofNat_toNat, BitVec.setWidth_eq]

theorem rowBits_putRow_other {j w : Nat} (hs : Memory.wf s.mem = true) (h : rowId k j sub w ≠ rowId k n sub r) :
    (s.putRow k n sub r v).rowBits k j sub w = s.rowBits k j sub w := by
  refine rowBits_congr fun i hi => ?_
  rw [get_putRow hs, if_neg]
  unfold rowPlace
  omega

end Rows

/-! ## What a word finds in a bank -/

/-- A row that an operand may name. -/
def RowRef.Named : RowRef → Prop
  | .data r => r < 1024
  | .work w => w < 8
  | .const _ => True

theorem rowRef_named {e : Entry} {m : Micro} {v : Nat} {x : RowRef} (h : e.rowRef m v = some x) (hx : ∀ r, x = .data r → r < 1024) : x.Named := by
  cases x with
  | data r => exact hx r rfl
  | const one => trivial
  | work w =>
    show w < 8
    rw [Entry.rowRef] at h
    split at h
    · cases h
    · obtain ⟨-, h⟩ := Option.ite_none_right_eq_some.mp h
      cases h
    · cases h
      exact Nat.mod_lt _ (by decide)
    · cases h

/-- Two states agree on the rows of a subarray in a bank. -/
structure State.SameBank (s t : State) (k n sub : Nat) : Prop where
  state : ∀ w < 1024, t.stateOfRow k n sub w = s.stateOfRow k n sub w
  bits : ∀ w < 1024, t.rowBits k n sub w = s.rowBits k n sub w
  work : ∀ w < 8, sget none t.workRows (workKey k n sub w) = sget none s.workRows (workKey k n sub w)

section Same
variable {s t u : State} {k n sub : Nat}

theorem State.SameBank.refl (s : State) : s.SameBank s k n sub := ⟨fun _ _ => rfl, fun _ _ => rfl, fun _ _ => rfl⟩
theorem State.SameBank.trans (h : s.SameBank t k n sub) (g : t.SameBank u k n sub) : s.SameBank u k n sub :=
  ⟨fun w hw => (g.state w hw).trans (h.state w hw), fun w hw => (g.bits w hw).trans (h.bits w hw),
    fun w hw => (g.work w hw).trans (h.work w hw)⟩

/-- A change that touches no row. -/
theorem sameBank_rfl (hs : t.rowState = s.rowState) (hm : t.mem = s.mem) (hw : t.workRows = s.workRows) : s.SameBank t k n sub :=
  ⟨fun _ _ => congrArg (sget _ · _) hs, fun _ _ => rowBits_congr fun _ _ => by rw [hm], fun _ _ => congrArg (sget _ · _) hw⟩

theorem readRef_same {x : RowRef} (h : s.SameBank t k n sub) (hx : x.Named) : t.readRef k n sub x = s.readRef k n sub x := by
  cases x with
  | data r => simp only [State.readRef, h.state r hx, h.bits r hx]
  | work w => simp only [State.readRef, h.work w hx]
  | const one => rfl

/-- Only a data row is poisoned. -/
theorem readRef_poison {x : RowRef} {p : Nat} (hx : x.Named) (h : s.readRef k n sub x = .error (.poison p)) : p < 1024 := by
  cases x with
  | data r =>
    rw [State.readRef] at h
    split at h <;> cases h
    exact hx
  | work w =>
    rw [State.readRef] at h
    split at h <;> cases h
  | const one => cases h

section Write
variable {v : Row} {x : RowRef} (hx : x.Named) (hs : Memory.wf s.mem = true)
include hs

omit hs in
theorem setRowState_same {w : Nat} {y : RowState} (hy : y ≠ .isSealed) (h : s.SameBank t k n sub) :
    (s.setRowState k n sub w y).SameBank (t.setRowState k n sub w y) k n sub := by
  refine ⟨fun r hr => ?_, fun r hr => ?_, h.work⟩
  swap
  · rw [rowBits_setRowState, rowBits_setRowState, h.bits r hr]
  by_cases same : r = w
  · rw [same, stateOfRow_set hy, stateOfRow_set hy]
  · rw [stateOfRow_set_other hy (rowId_row same), stateOfRow_set_other hy (rowId_row same), h.state r hr]

omit hs in
theorem setRowState_other {i w : Nat} {y : RowState} (hy : y ≠ .isSealed) (hw : w < 1024) (h : i ≠ n) :
    s.SameBank (s.setRowState k i sub w y) k n sub :=
  ⟨fun _ hr => stateOfRow_set_other hy (rowId_other h.symm hr hw), fun _ _ => rowBits_setRowState, fun _ _ => rfl⟩

theorem writeRef_wf : Memory.wf (s.writeRef k n sub v x).mem = true := by
  cases x with
  | data r =>
    rw [State.writeRef, setRowState_mem]
    exact putRow_wf hs
  | work w => exact hs
  | const one => exact hs

include hx

theorem writeRef_same (ht : Memory.wf t.mem = true) (h : s.SameBank t k n sub) :
    (s.writeRef k n sub v x).SameBank (t.writeRef k n sub v x) k n sub := by
  cases x with
  | const one => exact h
  | work w =>
    refine ⟨h.state, fun r hr => ?_, fun r hr => ?_⟩
    · exact (rowBits_congr fun _ _ => rfl).trans ((h.bits r hr).trans (rowBits_congr fun _ _ => rfl))
    by_cases same : r = w
    · rw [same]
      exact (sget_sset_listed _ _ _ (Option.some_ne_none v)).trans (sget_sset_listed _ _ _ (Option.some_ne_none v)).symm
    · exact (sget_sset_listed_other _ _ (Option.some_ne_none v) (workKey_row same)).trans
        ((h.work r hr).trans (sget_sset_listed_other _ _ (Option.some_ne_none v) (workKey_row same)).symm)
  | data w =>
    obtain ⟨state, work⟩ := putRow_keeps s k n sub w v
    obtain ⟨state', work'⟩ := putRow_keeps t k n sub w v
    refine setRowState_same (by decide) (s := s.putRow k n sub w v) (t := t.putRow k n sub w v) ⟨fun r hr => ?_, fun r hr => ?_, fun r hr => ?_⟩
    · rw [state, state', h.state r hr]
    rotate_left
    · rw [work, work', h.work r hr]
    by_cases same : r = w
    · rw [same, rowBits_putRow hs, rowBits_putRow ht]
    · rw [rowBits_putRow_other hs (rowId_row same), rowBits_putRow_other ht (rowId_row same), h.bits r hr]

theorem writeRef_other {i : Nat} (h : i ≠ n) : s.SameBank (s.writeRef k i sub v x) k n sub := by
  cases x with
  | const one => exact .refl s
  | work w =>
    exact ⟨fun _ _ => rfl, fun _ _ => rowBits_congr fun _ _ => rfl, fun r hr => sget_sset_listed_other _ _ (Option.some_ne_none v) (workKey_other h.symm hr hx)⟩
  | data w =>
    obtain ⟨state, work⟩ := putRow_keeps s k i sub w v
    exact State.SameBank.trans (t := s.putRow k i sub w v)
      ⟨fun _ _ => state .., fun _ hr => rowBits_putRow_other hs (rowId_other h.symm hr hx), fun _ _ => by rw [work]⟩ (setRowState_other (by decide) hx h)

end Write

end Same

/-! ## A row word in one bank (R423) -/

/-- What a word comes to in two states that agree on the bank. -/
inductive WordMatches (k n sub : Nat) : Except WordStop (State × Row) → Except WordStop (State × Row) → Prop where
  | stops (f : WordStop) : WordMatches k n sub (.error f) (.error f)
  | goes {u u' : State} (v : Row) (h : u.SameBank u' k n sub) : WordMatches k n sub (.ok (u, v)) (.ok (u', v))

section Word
variable {s t : State} {k n sub : Nat} {m : Micro} {a b c : RowRef} {latch : Row} (ha : a.Named) (hb : b.Named) (hc : c.Named)
  (hs : Memory.wf s.mem = true)
include ha hb hc hs

theorem wordIn_same (ht : Memory.wf t.mem = true) (h : s.SameBank t k n sub) :
    WordMatches k n sub (s.wordIn k n sub m a b c latch) (t.wordIn k n sub m a b c latch) := by
  unfold State.wordIn
  simp only [readRef_same h ha, readRef_same h hb, readRef_same h hc]
  split
  · cases s.readRef k n sub a with
    | error f => exact .stops f
    | ok v => exact .goes v h
  · cases s.readRef k n sub a with
    | error f => exact .stops f
    | ok v => exact .goes v (writeRef_same hb hs ht h)
  · cases s.readRef k n sub a with
    | error f => exact .stops f
    | ok x => cases s.readRef k n sub b with
      | error f => exact .stops f
      | ok y => cases s.readRef k n sub c with
        | error f => exact .stops f
        | ok z =>
          refine .goes _ (writeRef_same hc (writeRef_wf (writeRef_wf hs)) (writeRef_wf (writeRef_wf ht)) ?_)
          exact writeRef_same hb (writeRef_wf hs) (writeRef_wf ht) (writeRef_same ha hs ht h)
  · exact .goes _ (writeRef_same hb hs ht h)
  · exact .goes _ (writeRef_same hb hs ht h)

theorem wordIn_keeps {u : State} {v : Row} (h : s.wordIn k n sub m a b c latch = .ok (u, v)) :
    Memory.wf u.mem = true ∧ ∀ j, n ≠ j → s.SameBank u k j sub := by
  unfold State.wordIn at h
  split at h
  · obtain ⟨v, -, h⟩ := except_bind_eq_ok h
    cases h
    exact ⟨hs, fun _ _ => .refl s⟩
  · obtain ⟨v, -, h⟩ := except_bind_eq_ok h
    cases h
    exact ⟨writeRef_wf hs, fun j hj => writeRef_other hb hs hj⟩
  · obtain ⟨x, -, h⟩ := except_bind_eq_ok h
    obtain ⟨y, -, h⟩ := except_bind_eq_ok h
    obtain ⟨z, -, h⟩ := except_bind_eq_ok h
    cases h
    exact ⟨writeRef_wf (writeRef_wf (writeRef_wf hs)), fun j hj =>
      ((writeRef_other ha hs hj).trans (writeRef_other hb (writeRef_wf hs) hj)).trans (writeRef_other hc (writeRef_wf (writeRef_wf hs)) hj)⟩
  · cases h
    exact ⟨writeRef_wf hs, fun j hj => writeRef_other hb hs hj⟩
  · cases h
    exact ⟨writeRef_wf hs, fun j hj => writeRef_other hb hs hj⟩

omit hs in
theorem wordIn_poison {p : Nat} (h : s.wordIn k n sub m a b c latch = .error (.poison p)) : p < 1024 := by
  have read {x : RowRef} (hx : x.Named) {g : Row → Except WordStop (State × Row)} (hg : (s.readRef k n sub x >>= g) = .error (.poison p)) :
      p < 1024 ∨ ∃ v, g v = .error (.poison p) := by
    cases hr : s.readRef k n sub x with
    | error f =>
      rw [hr] at hg
      cases hg
      exact .inl (readRef_poison hx hr)
    | ok v =>
      rw [hr] at hg
      exact .inr ⟨v, hg⟩
  unfold State.wordIn at h
  split at h
  · rcases read ha h with h | ⟨v, h⟩
    · exact h
    · cases h
  · rcases read ha h with h | ⟨v, h⟩
    · exact h
    · cases h
  · rcases read ha h with h | ⟨x, h⟩
    · exact h
    · rcases read hb h with h | ⟨y, h⟩
      · exact h
      · rcases read hc h with h | ⟨z, h⟩
        · exact h
        · cases h
  · cases h
  · cases h

end Word

/-! ## A row word in every running bank (R423, R429) -/

theorem rowEvents_keep (s : State) (k n sub : Nat) (c : Cmd) (read written : List Nat) (stamp : Nat) :
    ∃ h w, s.rowEvents k n sub c read written stamp = { s with history := h, writes := w } := by
  have wrote (l : List Nat) (t : State) (g : State → Nat → Event) (ht : ∃ h w, t = { s with history := h, writes := w }) :
      ∃ h w, l.foldl (fun t r => t.record (g t r)) t = { s with history := h, writes := w } := by
    induction l generalizing t with
    | nil => exact ht
    | cons r l ih =>
      obtain ⟨h, w, rfl⟩ := ht
      exact ih _ ⟨_, _, rfl⟩
  refine wrote written _ _ ?_
  split
  · exact ⟨_, _, rfl⟩
  · exact ⟨_, _, rfl⟩

theorem setRows_wf {s : State} {k n sub : Nat} {x : RowState} (l : List Nat) : (s.setRows k n sub l x).mem = s.mem := by
  induction l generalizing s with
  | nil => rfl
  | cons r l ih => exact ih (s := s.setRowState k n sub r x)

section SetRows
variable {s t : State} {k n sub : Nat} {x : RowState} (hx : x ≠ .isSealed)
include hx

theorem setRows_same (l : List Nat) (h : s.SameBank t k n sub) : (s.setRows k n sub l x).SameBank (t.setRows k n sub l x) k n sub := by
  induction l generalizing s t with
  | nil => exact h
  | cons r l ih => exact ih (setRowState_same hx h)

theorem setRows_other {i : Nat} (l : List Nat) (hl : ∀ r ∈ l, r < 1024) (h : i ≠ n) : s.SameBank (s.setRows k i sub l x) k n sub := by
  induction l generalizing s with
  | nil => exact .refl s
  | cons r l ih =>
    obtain ⟨hr, hl⟩ := List.forall_mem_cons.mp hl
    exact (setRowState_other hx hr h).trans (ih (s := s.setRowState k i sub r x) hl)

theorem stateOfRow_setRows (l : List Nat) (w : Nat) :
    (s.setRows k n sub l x).stateOfRow k n sub w = if w ∈ l then x else s.stateOfRow k n sub w := by
  induction l generalizing s with
  | nil => rfl
  | cons r l ih =>
    rw [State.setRows, List.foldl_cons]
    refine (ih (s := s.setRowState k n sub r x)).trans ?_
    by_cases same : w = r
    · rw [same, stateOfRow_set hx]
      simp
    · rw [stateOfRow_set_other hx (rowId_row same)]
      simp [same]

end SetRows

theorem setRows_keep {s : State} {k n sub : Nat} {x : RowState} (l : List Nat) :
    (∀ w, (s.setRows k n sub l x).rowBits k n sub w = s.rowBits k n sub w) ∧ (s.setRows k n sub l x).workRows = s.workRows := by
  induction l generalizing s with
  | nil => exact ⟨fun _ => rowBits_congr fun _ _ => rfl, rfl⟩
  | cons r l ih =>
    obtain ⟨bits, work⟩ := ih (s := s.setRowState k n sub r x)
    exact ⟨fun w => (bits w).trans rowBits_setRowState, work⟩

theorem writeSet_rows {c : Chan} {e : Entry} : ∀ r ∈ c.writeSet e, r < 1024 := by
  unfold Chan.writeSet
  split
  · intro r hr
    simp only [rowsOf, List.mem_filter, List.mem_range] at hr
    exact hr.1
  · nofun

/-- The latch that an entry holds for a bank. -/
def Entry.held (e : Entry) (n : Nat) : Row := ((e.latch.find? (fun l => l.1 == n)).map (·.2)).getD 0

/-- A row word as it runs in the banks of an entry: its operands, what it reads and writes, the entry's write set. -/
structure RowRun where
  k : Nat
  sub : Nat
  m : Micro
  a : RowRef
  b : RowRef
  c : RowRef
  read : List Nat
  written : List Nat
  wset : List Nat

/-- Its rows are rows. -/
structure RowRun.Named (g : RowRun) : Prop where
  a : g.a.Named
  b : g.b.Named
  c : g.c.Named
  wset : ∀ r ∈ g.wset, r < 1024

/-- What the word comes to in a bank. -/
def RowRun.fate (g : RowRun) (s : State) (e : Entry) (n : Nat) : Except WordStop (State × Row) :=
  s.wordIn g.k n g.sub g.m g.a g.b g.c (e.held n)
/-- The state that it leaves the bank in. -/
def RowRun.after (g : RowRun) (s : State) (e : Entry) (n : Nat) : State :=
  match g.fate s e n with
  | .ok (u, _) => u
  | .error (.watchdog _) => s
  | .error (.poison p) => (s.setRowState g.k n g.sub p .poisoned).setRows g.k n g.sub g.wset .poisoned

def RowRun.step (g : RowRun) : State × Entry × List (Nat × Nat) → Nat → State × Entry × List (Nat × Nat) :=
  State.bankWord g.k g.sub g.m g.a g.b g.c g.read g.written g.wset

/-- A word fails at a poisoned row; it fails at an expired or invalid one. -/
def poisons (r : Except WordStop (State × Row)) : Bool :=
  match r with
  | .error (.poison _) => true
  | _ => false
def expires (r : Except WordStop (State × Row)) : Bool :=
  match r with
  | .error (.watchdog _) => true
  | _ => false

/-- The entry once a bank has gone on with its latch, and once one has failed at a poisoned row (R429). -/
def Entry.latches (x : Entry) (written : List Nat) (n : Nat) (v : Row) : Entry := { x with
  latch := x.latch.filter (fun l => l.1 != n) ++ [(n, v)]
  wrote := x.wrote ++ (written.map (fun r => (n, r))).filter (fun w => !x.wrote.contains w) }
def Entry.fails (x : Entry) (n p : Nat) : Entry := { x with
  banks := x.banks.filter (fun i => i != n), failed := x.failed ++ [n]
  failRow := if x.failed.isEmpty then p else x.failRow
  failWord := if x.failed.isEmpty then x.upc else x.failWord }

section Step
variable {g : RowRun} {s t : State} {e x : Entry} {stops : List (Nat × Nat)} {n : Nat}

theorem step_of_ok {u : State} {v : Row} (h : t.wordIn g.k n g.sub g.m g.a g.b g.c (x.held n) = .ok (u, v)) :
    g.step (t, x, stops) n = (u.rowEvents g.k n g.sub x.cmd g.read g.written t.writes, x.latches g.written n v, stops) := by
  rw [Entry.held] at h
  simp only [RowRun.step, State.bankWord, h]
  rfl

theorem step_of_watchdog {p : Nat} (h : t.wordIn g.k n g.sub g.m g.a g.b g.c (x.held n) = .error (.watchdog p)) :
    g.step (t, x, stops) n = (t, x, stops ++ [(n, p)]) := by
  rw [Entry.held] at h
  simp only [RowRun.step, State.bankWord, h]

theorem step_of_poison {p : Nat} (h : t.wordIn g.k n g.sub g.m g.a g.b g.c (x.held n) = .error (.poison p)) :
    g.step (t, x, stops) n = ((t.setRowState g.k n g.sub p .poisoned).setRows g.k n g.sub g.wset .poisoned, x.fails n p, stops) := by
  rw [Entry.held] at h
  simp only [RowRun.step, State.bankWord, h]
  rfl

variable (hg : g.Named) (hs : Memory.wf s.mem = true) (ht : Memory.wf t.mem = true) (same : s.SameBank t g.k n g.sub) (latch : x.held n = e.held n)
include hg hs ht same latch

theorem wordIn_fate : WordMatches g.k n g.sub (g.fate s e n) (t.wordIn g.k n g.sub g.m g.a g.b g.c (x.held n)) :=
  latch ▸ wordIn_same hg.a hg.b hg.c hs ht same

theorem step_goes {u : State} {v : Row} (h : g.fate s e n = .ok (u, v)) : ∃ t', g.step (t, x, stops) n = (t', x.latches g.written n v, stops) ∧
    Memory.wf t'.mem = true ∧ u.SameBank t' g.k n g.sub ∧ ∀ j, n ≠ j → t.SameBank t' g.k j g.sub := by
  have fates := wordIn_fate hg hs ht same latch
  rw [h] at fates
  generalize hf : t.wordIn g.k n g.sub g.m g.a g.b g.c (x.held n) = r at fates
  cases fates with
  | @goes u u' v own =>
    obtain ⟨wf, other⟩ := wordIn_keeps hg.a hg.b hg.c ht hf
    obtain ⟨hist, wr, events⟩ := rowEvents_keep u' g.k n g.sub x.cmd g.read g.written t.writes
    refine ⟨_, step_of_ok hf, ?_⟩
    rw [events]
    exact ⟨wf, own.trans (sameBank_rfl rfl rfl rfl), fun j hj => (other j hj).trans (sameBank_rfl rfl rfl rfl)⟩

theorem step_expires {p : Nat} (h : g.fate s e n = .error (.watchdog p)) : g.step (t, x, stops) n = (t, x, stops ++ [(n, p)]) := by
  have fates := wordIn_fate hg hs ht same latch
  rw [h] at fates
  generalize hf : t.wordIn g.k n g.sub g.m g.a g.b g.c (x.held n) = r at fates
  cases fates
  exact step_of_watchdog hf

theorem step_poisons {p : Nat} (h : g.fate s e n = .error (.poison p)) : p < 1024 ∧
    g.step (t, x, stops) n = ((t.setRowState g.k n g.sub p .poisoned).setRows g.k n g.sub g.wset .poisoned, x.fails n p, stops) := by
  have fates := wordIn_fate hg hs ht same latch
  rw [h] at fates
  generalize hf : t.wordIn g.k n g.sub g.m g.a g.b g.c (x.held n) = r at fates
  cases fates
  exact ⟨wordIn_poison hg.a hg.b hg.c hf, step_of_poison hf⟩

end Step

theorem held_latches {x : Entry} {written : List Nat} {n j : Nat} {v : Row} :
    ((x.latches written n v).latch.find? (fun l => l.1 == n)).map (·.2) = some v ∧
      (j ≠ n → (x.latches written n v).latch.find? (fun l => l.1 == j) = x.latch.find? (fun l => l.1 == j)) := by
  have dropped : (x.latch.filter (fun l => l.1 != n)).find? (fun l => l.1 == n) = none :=
    List.find?_eq_none.mpr fun l hl => by simpa using (List.mem_filter.mp hl).2
  constructor
  · rw [Entry.latches, List.find?_append, dropped]
    simp
  · intro hj
    have kept : (fun l : Nat × Row => decide ((l.1 != n) = true ∧ (l.1 == j) = true)) = fun l => l.1 == j := by
      funext l
      by_cases h : l.1 = j <;> simp [h, hj]
    rw [Entry.latches, List.find?_append, List.find?_filter, kept]
    simp [hj.symm]

/-- Banks of a list that meet a poisoned row, and those that meet an expired or invalid one. -/
def RowRun.bad (g : RowRun) (s : State) (e : Entry) (l : List Nat) : List Nat := l.filter (fun i => poisons (g.fate s e i))
def RowRun.late (g : RowRun) (s : State) (e : Entry) (l : List Nat) : List Nat := l.filter (fun i => expires (g.fate s e i))

/-- How far the word has come once it has run in some banks. -/
structure RowRun.Progress (g : RowRun) (s : State) (e : Entry) (ran : List Nat) (y : State × Entry × List (Nat × Nat)) : Prop where
  wf : Memory.wf y.1.mem = true
  cmd : y.2.1.cmd = e.cmd
  upc : y.2.1.upc = e.upc
  ctr : y.2.1.ctr = e.ctr
  banks : y.2.1.banks = e.banks.filter (fun i => !(g.bad s e ran).contains i)
  failed : y.2.1.failed = e.failed ++ g.bad s e ran
  first : e.failed = [] → ∀ i p, (g.bad s e ran).head? = some i → g.fate s e i = .error (.poison p) → y.2.1.failRow = p ∧ y.2.1.failWord = e.upc
  stops : y.2.2.map (·.1) = g.late s e ran
  stopRow : ∀ i p, (g.late s e ran).head? = some i → g.fate s e i = .error (.watchdog p) → y.2.2.head? = some (i, p)
  latch : ∀ i ∈ ran, ∀ u v, g.fate s e i = .ok (u, v) → (y.2.1.latch.find? (fun l => l.1 == i)).map (·.2) = some v
  fresh : ∀ i, i ∉ ran → y.2.1.latch.find? (fun l => l.1 == i) = e.latch.find? (fun l => l.1 == i)
  after : ∀ i ∈ ran, (g.after s e i).SameBank y.1 g.k i g.sub
  rest : ∀ i, i ∉ ran → s.SameBank y.1 g.k i g.sub

section Progress
variable {g : RowRun} (hg : g.Named) {s : State} {e : Entry} (hs : Memory.wf s.mem = true)
include hg hs

omit hg in
theorem progress_start : g.Progress s e [] (s, e, []) where
  wf := hs
  cmd := rfl
  upc := rfl
  ctr := rfl
  banks := (List.filter_eq_self.mpr fun _ _ => rfl).symm
  failed := (List.append_nil _).symm
  first := nofun
  stops := rfl
  stopRow := nofun
  latch := nofun
  fresh := fun _ _ => rfl
  after := nofun
  rest := fun _ _ => .refl s

theorem progress_step {ran : List Nat} {y : State × Entry × List (Nat × Nat)} {n : Nat} (h : g.Progress s e ran y) (hn : n ∉ ran) :
    g.Progress s e (ran ++ [n]) (g.step y n) := by
  obtain ⟨t, x, stops⟩ := y
  have held : x.held n = e.held n := by rw [Entry.held, Entry.held, h.fresh n hn]
  have badS : g.bad s e (ran ++ [n]) = g.bad s e ran ++ bif poisons (g.fate s e n) then [n] else [] := by
    rw [RowRun.bad, List.filter_append, List.filter_singleton]
    rfl
  have lateS : g.late s e (ran ++ [n]) = g.late s e ran ++ bif expires (g.fate s e n) then [n] else [] := by
    rw [RowRun.late, List.filter_append, List.filter_singleton]
    rfl
  have split {P : Nat → Prop} (old : ∀ i ∈ ran, P i) (new : P n) : ∀ i ∈ ran ++ [n], P i := by
    intro i hi
    rcases List.mem_append.mp hi with hi | hi
    · exact old i hi
    · exact List.mem_singleton.mp hi ▸ new
  have outside {i : Nat} (hi : i ∉ ran ++ [n]) : i ∉ ran ∧ n ≠ i :=
    ⟨fun h => hi (List.mem_append_left _ h), fun h => hi (List.mem_append_right _ (List.mem_singleton.mpr h.symm))⟩
  have ne_of_ran {i : Nat} (hi : i ∈ ran) : n ≠ i := fun h => hn (h ▸ hi)
  cases fate : g.fate s e n with
  | ok r =>
    obtain ⟨u, v⟩ := r
    obtain ⟨t', stepped, wf, own, other⟩ := step_goes (stops := stops) hg hs h.wf (h.rest n hn) held fate
    have bad : g.bad s e (ran ++ [n]) = g.bad s e ran := by rw [badS, fate]; exact List.append_nil _
    have late : g.late s e (ran ++ [n]) = g.late s e ran := by rw [lateS, fate]; exact List.append_nil _
    have after : g.after s e n = u := by rw [RowRun.after, fate]
    rw [stepped]
    exact {
      wf, cmd := h.cmd, upc := h.upc, ctr := h.ctr
      banks := bad ▸ h.banks, failed := bad ▸ h.failed, first := bad ▸ h.first, stops := late ▸ h.stops, stopRow := late ▸ h.stopRow
      latch := split (fun i hi u v hf => (congrArg _ ((held_latches (x := x) (written := g.written)).2 (ne_of_ran hi).symm)).trans (h.latch i hi u v hf))
        fun u' v' hf => by
          rw [fate] at hf
          cases hf
          exact (held_latches (x := x) (j := n)).1
      fresh := fun i hi => ((held_latches (x := x) (written := g.written)).2 (outside hi).2.symm).trans (h.fresh i (outside hi).1)
      after := split (fun i hi => (h.after i hi).trans (other i (ne_of_ran hi))) (after ▸ own)
      rest := fun i hi => (h.rest i (outside hi).1).trans (other i (outside hi).2) }
  | error f =>
    cases f with
    | watchdog p =>
      have stepped := step_expires (stops := stops) hg hs h.wf (h.rest n hn) held fate
      have bad : g.bad s e (ran ++ [n]) = g.bad s e ran := by rw [badS, fate]; exact List.append_nil _
      have late : g.late s e (ran ++ [n]) = g.late s e ran ++ [n] := by rw [lateS, fate]; rfl
      have after : g.after s e n = s := by rw [RowRun.after, fate]
      rw [stepped]
      exact {
        wf := h.wf, cmd := h.cmd, upc := h.upc, ctr := h.ctr
        banks := bad ▸ h.banks, failed := bad ▸ h.failed, first := bad ▸ h.first
        stops := by rw [late, List.map_append, h.stops]; rfl
        stopRow := fun i q hi hf => by
          rw [late] at hi
          cases old : g.late s e ran with
          | nil =>
            have none_ : stops = [] := List.map_eq_nil_iff.mp (h.stops.trans old)
            rw [old] at hi
            cases hi
            rw [fate] at hf
            cases hf
            rw [none_]
            rfl
          | cons j l =>
            rw [old] at hi
            cases hi
            have head := h.stopRow i q (by rw [old]; rfl) hf
            rw [List.head?_append, show stops.head? = _ from head]
            rfl
        latch := split h.latch fun u v hf => by rw [fate] at hf; cases hf
        fresh := fun i hi => h.fresh i (outside hi).1
        after := split h.after (by rw [after]; exact h.rest n hn)
        rest := fun i hi => h.rest i (outside hi).1 }
    | poison p =>
      obtain ⟨hp, stepped⟩ := step_poisons (stops := stops) hg hs h.wf (h.rest n hn) held fate
      have bad : g.bad s e (ran ++ [n]) = g.bad s e ran ++ [n] := by rw [badS, fate]; rfl
      have late : g.late s e (ran ++ [n]) = g.late s e ran := by rw [lateS, fate]; exact List.append_nil _
      have after : g.after s e n = (s.setRowState g.k n g.sub p .poisoned).setRows g.k n g.sub g.wset .poisoned := by rw [RowRun.after, fate]
      have other {j : Nat} (hj : n ≠ j) : t.SameBank ((t.setRowState g.k n g.sub p .poisoned).setRows g.k n g.sub g.wset .poisoned) g.k j g.sub :=
        (setRowState_other (by decide) hp hj).trans (setRows_other (by decide) _ hg.wset hj)
      rw [stepped]
      exact {
        wf := by rw [setRows_wf]; exact h.wf
        cmd := h.cmd, upc := h.upc, ctr := h.ctr
        banks := by
          show x.banks.filter (fun i => i != n) = _
          rw [show x.banks = _ from h.banks, List.filter_filter, bad]
          refine List.filter_congr fun i _ => ?_
          by_cases hi : i = n <;> simp [hi]
        failed := by
          show x.failed ++ [n] = _
          rw [show x.failed = _ from h.failed, bad, List.append_assoc]
        first := fun hf i q hi hq => by
          rw [bad] at hi
          have failed : x.failed = g.bad s e ran := by rw [show x.failed = _ from h.failed, hf, List.nil_append]
          cases old : g.bad s e ran with
          | nil =>
            rw [old] at hi failed
            cases hi
            rw [fate] at hq
            cases hq
            have upc : x.upc = e.upc := h.upc
            simp only [Entry.fails, failed, List.isEmpty_nil, if_true, upc]
            exact ⟨trivial, trivial⟩
          | cons j l =>
            rw [old] at hi failed
            cases hi
            have first := h.first hf i q (by rw [old]; rfl) hq
            simp only [Entry.fails, failed, List.isEmpty_cons, Bool.false_eq_true, if_false]
            exact first
        stops := late ▸ h.stops, stopRow := late ▸ h.stopRow
        latch := split h.latch fun u v hf => by rw [fate] at hf; cases hf
        fresh := fun i hi => h.fresh i (outside hi).1
        after := split (fun i hi => (h.after i hi).trans (other (ne_of_ran hi))) (after ▸ setRows_same (by decide) _ (setRowState_same (by decide) (h.rest n hn)))
        rest := fun i hi => (h.rest i (outside hi).1).trans (other (outside hi).2) }

theorem progress_run {ran : List Nat} {y : State × Entry × List (Nat × Nat)} (l : List Nat) (h : g.Progress s e ran y) (hn : (ran ++ l).Nodup) :
    g.Progress s e (ran ++ l) (l.foldl g.step y) := by
  induction l generalizing ran y with
  | nil => rwa [List.append_nil]
  | cons n l ih =>
    have fresh : n ∉ ran := fun hm => (List.nodup_append.mp hn).2.2 n hm n (List.mem_cons_self ..) rfl
    rw [List.append_cons] at hn ⊢
    exact ih (progress_step hg hs h fresh) hn

end Progress

/-! ## The turn of a row word -/

/-- The row word at which an entry stands. -/
def Entry.run (e : Entry) (ch : Chan) (k : Nat) (m : Micro) (a b c : RowRef) : RowRun where
  k := k
  sub := blockSub e.cmd.bytes
  m := m
  a := a
  b := b
  c := c
  read := dataRows (if m.op ≤ 1 then [a] else if m.op = 2 then [a, b, c] else [])
  written := dataRows (if m.op = 1 || m.shifts then [b] else if m.op = 2 then [a, b, c] else [])
  wset := ch.writeSet e

section RowSets
variable {e : Entry} {ch : Chan} {k : Nat} {m : Micro} {a b c : RowRef}

theorem run_read_one (h : m.op ≤ 1) : (e.run ch k m a b c).read = dataRows [a] := by rw [Entry.run, if_pos h]

theorem run_read_three (h : m.op = 2) : (e.run ch k m a b c).read = dataRows [a, b, c] := by
  rw [Entry.run, if_neg (by omega), if_pos h]

theorem run_read_none (h : 2 < m.op) : (e.run ch k m a b c).read = [] := by
  rw [Entry.run, if_neg (by omega), if_neg (by omega)]
  rfl

theorem run_written_one (h : m.op = 1 ∨ m.op = 3 ∨ m.op = 4) : (e.run ch k m a b c).written = dataRows [b] := by
  show dataRows (if m.op = 1 || m.shifts then [b] else if m.op = 2 then [a, b, c] else []) = _
  rw [if_pos (by simpa [Micro.shifts] using h)]

theorem run_written_three (h : m.op = 2) : (e.run ch k m a b c).written = dataRows [a, b, c] := by
  show dataRows (if m.op = 1 || m.shifts then [b] else if m.op = 2 then [a, b, c] else []) = _
  rw [if_neg (by simp [Micro.shifts, h]), if_pos h]

theorem run_written_none (h : m.op = 0) : (e.run ch k m a b c).written = [] := by
  show dataRows (if m.op = 1 || m.shifts then [b] else if m.op = 2 then [a, b, c] else []) = _
  rw [if_neg (by simp [Micro.shifts, h]), if_neg (by omega)]
  rfl

end RowSets

section Turn
variable {s t : State} {k : Nat} {e x : Entry} {m : Micro} {a b c : RowRef} {stops : List (Nat × Nat)}
  (ha : e.rowRef m m.a = some a) (hb : e.rowRef m m.b = some b) (hc : e.rowRef m m.c = some c)
  (hy : e.banks.foldl (e.run (s.chan k) k m a b c).step (s, e, []) = (t, x, stops))
include ha hb hc hy

theorem rowWord_goes (h0 : stops = []) (hx : x.banks ≠ []) :
    s.rowWord k e m = t.setChan k (fun ch => { ch with entry := some (x.goto m (e.upc + 1)) }) := by
  have some_bank : x.banks.isEmpty = false := by rwa [List.isEmpty_eq_false_iff]
  simp only [RowRun.step, Entry.run] at hy
  simp only [State.rowWord, ha, hb, hc, hy, h0, some_bank, Bool.false_eq_true, if_false]

theorem rowWord_fails (h0 : stops = []) (hx : x.banks = []) : s.rowWord k e m = t.endEntry k e.cmd (x.poisonFault k) := by
  simp only [RowRun.step, Entry.run] at hy
  simp only [State.rowWord, ha, hb, hc, hy, h0, hx, List.isEmpty_nil, if_true]

theorem rowWord_stops {i p : Nat} (h0 : stops.head? = some (i, p)) : s.rowWord k e m =
    t.endEntry k e.cmd (some (BEAD_WATCHDOG, beadAddr (stops.map (·.1)) k (blockSub e.cmd.bytes) p 0 e.upc)) := by
  simp only [RowRun.step, Entry.run] at hy
  cases stops with
  | nil => cases h0
  | cons y l =>
    cases h0
    simp only [State.rowWord, ha, hb, hc, hy]

end Turn

/-! ## What each word comes to in a bank -/

section Words
variable {s : State} {k n sub : Nat} {m : Micro} {a b c : RowRef} {latch x y z : Row} {f : WordStop}

theorem wordIn_act (h : m.op = 0) (ha : s.readRef k n sub a = .ok x) : s.wordIn k n sub m a b c latch = .ok (s, x) := by
  simp only [State.wordIn, h, ha, except_ok_bind, except_pure]

theorem wordIn_aap (h : m.op = 1) (ha : s.readRef k n sub a = .ok x) :
    s.wordIn k n sub m a b c latch = .ok (s.writeRef k n sub x b, x) := by
  simp only [State.wordIn, h, ha, except_ok_bind, except_pure]

theorem wordIn_tra (h : m.op = 2) (ha : s.readRef k n sub a = .ok x) (hb : s.readRef k n sub b = .ok y) (hc : s.readRef k n sub c = .ok z) :
    s.wordIn k n sub m a b c latch = .ok (((s.writeRef k n sub ((x &&& y) ||| (y &&& z) ||| (x &&& z)) a).writeRef k n sub
      ((x &&& y) ||| (y &&& z) ||| (x &&& z)) b).writeRef k n sub ((x &&& y) ||| (y &&& z) ||| (x &&& z)) c,
      (x &&& y) ||| (y &&& z) ||| (x &&& z)) := by
  simp only [State.wordIn, h, ha, hb, hc, except_ok_bind, except_pure]

theorem wordIn_csl (h : m.op = 3) : s.wordIn k n sub m a b c latch =
    .ok (s.writeRef k n sub ((latch <<< 1) ||| (if m.edge then 1 else 0)) b, latch) := by
  simp only [State.wordIn, h, except_pure]

theorem wordIn_csr (h : m.op = 4) : s.wordIn k n sub m a b c latch =
    .ok (s.writeRef k n sub ((latch >>> 1) ||| (if m.edge then BitVec.twoPow 8192 8191 else 0)) b, latch) := by
  simp only [State.wordIn, h, except_pure]

theorem wordIn_unread (h : m.op ≤ 2) (ha : s.readRef k n sub a = .error f) : s.wordIn k n sub m a b c latch = .error f := by
  have cases_ : m.op = 0 ∨ m.op = 1 ∨ m.op = 2 := by omega
  rcases cases_ with h | h | h <;> simp only [State.wordIn, h, ha, except_error_bind]

end Words

theorem dataRows_cons (a : RowRef) (l : List RowRef) : dataRows (a :: l) = dataRows [a] ++ dataRows l := by
  cases a <;> rfl

/-- The instruction of a row word. -/
def Micro.instr (m : Micro) : Instr :=
  if m.op = 0 then .actWord else if m.op = 1 then .aapWord else if m.op = 2 then .traWord else if m.op = 3 then .cslWord else .csrWord

/-! ## The turn of the entry's word -/

section Runs
variable {s : State} {e : Entry} (tup : s.mod.tup.getLsbD (s.args.unit / 32) = true) (up : s.chanDown s.args.unit = false)
  (he : (s.chan s.args.unit).entry = some e) (parked : (s.chan s.args.unit).parked = 0) (due : e.due s.tide = false)
include tup up he parked due

theorem microTurn_runs {op : Nat} {body : Nat → Entry → Micro → State} (h : (microAt (s.chan s.args.unit).store e.upc).op = op) :
    s.microTurn op body = body s.args.unit e (microAt (s.chan s.args.unit).store e.upc) := by
  simp only [State.microTurn, he, tup, up, parked, due, h, Bool.not_false, decide_true, beq_self_eq_true, Bool.and_self, if_true]

theorem rowWord_exec (h : (microAt (s.chan s.args.unit).store e.upc).op ≤ 4) : exec (microAt (s.chan s.args.unit).store e.upc).instr s =
    .next (s.rowWord s.args.unit e (microAt (s.chan s.args.unit).store e.upc)) := by
  have runs (op : Nat) (h : (microAt (s.chan s.args.unit).store e.upc).op = op) :
      Host.Outcome.next (ρ := Refusal) (φ := Fault) (s.microTurn op s.rowWord) = .next (s.rowWord s.args.unit e (microAt (s.chan s.args.unit).store e.upc)) :=
    congrArg _ (microTurn_runs tup up he parked due h)
  have cases_ : (microAt (s.chan s.args.unit).store e.upc).op = 0 ∨ (microAt (s.chan s.args.unit).store e.upc).op = 1 ∨
      (microAt (s.chan s.args.unit).store e.upc).op = 2 ∨ (microAt (s.chan s.args.unit).store e.upc).op = 3 ∨
      (microAt (s.chan s.args.unit).store e.upc).op = 4 := by omega
  rcases cases_ with h | h | h | h | h <;> simp only [Micro.instr, h] <;> exact runs _ h

end Runs

/-! ## A word in a single bank -/

section Single
variable {s : State} {k n : Nat} {e : Entry} {m : Micro} {a b c : RowRef} (ha : e.rowRef m m.a = some a) (hb : e.rowRef m m.b = some b)
  (hc : e.rowRef m m.c = some c) (banks : e.banks = [n])
include ha hb hc banks

theorem rowWord_single {u : State} {v : Row} (h : s.wordIn k n (blockSub e.cmd.bytes) m a b c (e.held n) = .ok (u, v)) :
    s.rowWord k e m = (u.rowEvents k n (blockSub e.cmd.bytes) e.cmd (e.run (s.chan k) k m a b c).read (e.run (s.chan k) k m a b c).written
      s.writes).setChan k (fun ch => { ch with entry := some ((e.latches (e.run (s.chan k) k m a b c).written n v).goto m (e.upc + 1)) }) := by
  refine rowWord_goes (stops := []) ha hb hc (by rw [banks]; exact step_of_ok h) rfl ?_
  show e.banks ≠ []
  rw [banks]
  exact List.cons_ne_nil _ _

theorem rowWord_single_watchdog {p : Nat} (h : s.wordIn k n (blockSub e.cmd.bytes) m a b c (e.held n) = .error (.watchdog p)) :
    s.rowWord k e m = s.endEntry k e.cmd (some (BEAD_WATCHDOG, beadAddr [n] k (blockSub e.cmd.bytes) p 0 e.upc)) := by
  have run : e.banks.foldl (e.run (s.chan k) k m a b c).step (s, e, []) = (s, e, [(n, p)]) := by
    rw [banks]
    exact step_of_watchdog h
  rw [rowWord_stops ha hb hc run rfl, List.map_singleton]

theorem rowWord_single_poison {p : Nat} (failed : e.failed = [])
    (h : s.wordIn k n (blockSub e.cmd.bytes) m a b c (e.held n) = .error (.poison p)) :
    s.rowWord k e m = State.endEntry (((s.chan k).writeSet e).foldl (fun t w => t.setRowState k n (blockSub e.cmd.bytes) w .poisoned)
      (s.setRowState k n (blockSub e.cmd.bytes) p .poisoned)) k e.cmd (some (BEAD_POISON, beadAddr [n] k (blockSub e.cmd.bytes) p 0 e.upc)) := by
  refine (rowWord_fails (stops := []) ha hb hc (by rw [banks]; exact step_of_poison h) rfl ?_).trans ?_
  · show e.banks.filter (fun i => i != n) = []
    rw [banks]
    simp
  · have fault : (e.fails n p).poisonFault k = some (BEAD_POISON, beadAddr [n] k (blockSub e.cmd.bytes) p 0 e.upc) := by
      simp only [Entry.poisonFault, Entry.fails, failed, List.nil_append, List.isEmpty_cons, List.isEmpty_nil, Bool.false_eq_true, if_false, if_true]
    rw [fault]
    rfl

end Single

/-! ## A word in every bank of a bank set -/

section Every
variable {g : RowRun} {s t : State} {e x : Entry} {stops : List (Nat × Nat)} {i w : Nat} (run : g.Progress s e e.banks (t, x, stops))
include run

theorem run_goes {u : State} {v : Row} (hi : i ∈ e.banks) (h : g.fate s e i = .ok (u, v)) : u.SameBank t g.k i g.sub := by
  have after : g.after s e i = u := by rw [RowRun.after, h]
  exact after ▸ run.after i hi

theorem run_poisoned {p : Nat} (hi : i ∈ e.banks) (h : g.fate s e i = .error (.poison p)) :
    ((s.setRowState g.k i g.sub p .poisoned).setRows g.k i g.sub g.wset .poisoned).SameBank t g.k i g.sub := by
  have after : g.after s e i = (s.setRowState g.k i g.sub p .poisoned).setRows g.k i g.sub g.wset .poisoned := by rw [RowRun.after, h]
  exact after ▸ run.after i hi

theorem run_poisoned_state {p : Nat} (hi : i ∈ e.banks) (h : g.fate s e i = .error (.poison p)) (hw : w < 1024) :
    t.stateOfRow g.k i g.sub w = if w = p ∨ w ∈ g.wset then .poisoned else s.stateOfRow g.k i g.sub w := by
  rw [(run_poisoned run hi h).state w hw, stateOfRow_setRows (by decide)]
  by_cases hp : w = p
  · rw [hp, stateOfRow_set (by decide)]
    simp
  · rw [stateOfRow_set_other (by decide) (rowId_row hp)]
    simp [hp]

/-- A bank in which the word is not run, or meets an expired or invalid row, stands as it did. -/
theorem run_same (h : i ∉ e.banks ∨ i ∈ g.late s e e.banks) : s.SameBank t g.k i g.sub := by
  rcases h with h | h
  · exact run.rest i h
  · obtain ⟨hi, late⟩ := List.mem_filter.mp h
    have after : g.after s e i = s := by
      rw [RowRun.after]
      unfold expires at late
      split at late
      · next p hf => rw [hf]
      · cases late
    exact after ▸ run.after i hi

/-- No bank's row changes where the word fails. -/
theorem run_bits (h : i ∉ e.banks ∨ i ∈ g.late s e e.banks ∨ i ∈ g.bad s e e.banks) (hw : w < 1024) :
    t.rowBits g.k i g.sub w = s.rowBits g.k i g.sub w ∧
      (w < 8 → sget none t.workRows (workKey g.k i g.sub w) = sget none s.workRows (workKey g.k i g.sub w)) := by
  rcases h with h | h | h
  · exact ⟨(run_same run (.inl h)).bits w hw, (run_same run (.inl h)).work w⟩
  · exact ⟨(run_same run (.inr h)).bits w hw, (run_same run (.inr h)).work w⟩
  · obtain ⟨hi, bad⟩ := List.mem_filter.mp h
    unfold poisons at bad
    split at bad
    · next p hf =>
      have same := run_poisoned run hi hf
      obtain ⟨bits, work⟩ := setRows_keep (s := s.setRowState g.k i g.sub p .poisoned) (k := g.k) (n := i) (sub := g.sub) (x := .poisoned) g.wset
      exact ⟨(same.bits w hw).trans ((bits w).trans rowBits_setRowState), fun h => (same.work w h).trans (by rw [work]; rfl)⟩
    · cases bad

theorem run_stops_nil (h : g.late s e e.banks = []) : stops = [] := List.map_eq_nil_iff.mp (run.stops.trans h)

theorem run_banks_nil : x.banks = [] ↔ g.bad s e e.banks = e.banks := by
  rw [show x.banks = _ from run.banks, List.filter_eq_nil_iff]
  constructor
  · intro h
    refine List.filter_eq_self.mpr fun i hi => ?_
    have bad := h i hi
    simp only [Bool.not_eq_true', List.contains_eq_mem, decide_eq_false_iff_not, not_not] at bad
    exact (List.mem_filter.mp bad).2
  · intro h i hi
    rw [h]
    simpa using hi

/-- The fault of an entry whose every bank has met a poisoned row. -/
theorem run_poisonFault {p : Nat} (failed : e.failed = []) (head : (g.bad s e e.banks).head? = some i) (h : g.fate s e i = .error (.poison p)) :
    x.poisonFault g.k = some (BEAD_POISON, beadAddr (g.bad s e e.banks) g.k (blockSub e.cmd.bytes) p 0 e.upc) := by
  have bad : x.failed = g.bad s e e.banks := by rw [show x.failed = _ from run.failed, failed, List.nil_append]
  have cmd : x.cmd = e.cmd := run.cmd
  obtain ⟨row, word⟩ := run.first failed i p head h
  have some_bank : (g.bad s e e.banks).isEmpty = false := by
    cases hbad : g.bad s e e.banks with
    | nil => rw [hbad] at head; cases head
    | cons j l => rfl
  rw [Entry.poisonFault, bad, cmd, some_bank, show x.failRow = p from row, show x.failWord = e.upc from word]
  rfl

end Every

/-! ## REP, BRF, WAIT, END -/

section Others
variable {s : State} {k : Nat} {e : Entry} {m : Micro}

theorem repeatWord_again (idle : (s.chan k).parkers = []) (hop : m.op = 5) (h : 1 < e.ctr.getD m.csel 1) :
    s.repeatWord k e m = s.setChan k (fun i => { i with entry := some { e with
      ctr := e.ctr.set m.csel (e.ctr.getD m.csel 1 - 1), upc := m.tgt, last := e.upc, atSafe := m.isSafe, atRep := true } }) := by
  simp only [State.repeatWord, if_pos h, idle, List.isEmpty_nil, if_true, Entry.goto, hop]
  rfl

theorem repeatWord_over (idle : (s.chan k).parkers = []) (hop : m.op = 5) (h : e.ctr.getD m.csel 1 ≤ 1) :
    s.repeatWord k e m = s.setChan k (fun i => { i with entry := some { e with
      ctr := e.ctr.set m.csel (e.ini.getD m.csel 1), upc := e.upc + 1, last := e.upc, atSafe := m.isSafe, atRep := true } }) := by
  simp only [State.repeatWord, if_neg (Nat.not_lt_of_le h), idle, List.isEmpty_nil, if_true, Entry.goto, hop]
  rfl

theorem setChan_goto {u : Nat} (h : m.op ≠ 5) : s.setChan k (fun i => { i with entry := some (e.goto m u) }) =
    s.setChan k (fun i => { i with entry := some { e with upc := u, last := e.upc, atSafe := m.isSafe, atRep := false } }) := by
  rw [Entry.goto, beq_false_of_ne h]

theorem branchWord_goes (hop : m.op = 6) : s.branchWord k e m = s.setChan k (fun i => { i with entry := some { e with
    upc := if m.cond = 0 ∨ (m.cond = 1 ∧ e.ini.getD m.csel 1 - e.ctr.getD m.csel 1 = 0) ∨
      (m.cond = 2 ∧ 0 < e.ini.getD m.csel 1 - e.ctr.getD m.csel 1) then m.tgt else e.upc + 1
    last := e.upc, atSafe := m.isSafe, atRep := false } }) := by
  rw [State.branchWord, setChan_goto (by omega)]
  simp only [Bool.or_eq_true, Bool.and_eq_true, decide_eq_true_eq, or_assoc]
  rw [Entry.pass]

/-- An entry no bank of which has failed ends without a fault. -/
theorem poisonFault_none (failed : e.failed = []) : e.poisonFault k = none := by
  rw [Entry.poisonFault, failed]
  rfl

theorem finishWord_plain (failed : e.failed = []) (h : m.sealRows = false) : s.finishWord k e m = s.endEntry k e.cmd none := by
  simp only [State.finishWord, poisonFault_none failed, h, Bool.false_eq_true, if_false]

theorem finishWord_seals (failed : e.failed = []) (h : m.sealRows = true) : s.finishWord k e m =
    State.endEntry ((e.wrote.filter (fun w => e.banks.contains w.1)).foldl
      (fun t w => t.setRowState k w.1 (blockSub e.cmd.bytes) w.2 .isSealed) s) k e.cmd none := by
  simp only [State.finishWord, poisonFault_none failed, h, if_true]

/-- A row word whose second operand lies outside its slot. -/
theorem rowWord_outside (h : e.rowRef m m.b = none) : s.rowWord k e m =
    s.endEntry k e.cmd (some (BEAD_ENTRY, beadAddr e.banks k (blockSub e.cmd.bytes) 0 0 e.upc)) := by
  cases ha : e.rowRef m m.a <;> simp only [State.rowWord, ha, h]

end Others

/-! ## Row operands (R420, R423) -/

section Operands
variable {s : State} {k n sub w r : Nat} {v : Row}

theorem readRef_writeRef_work : (s.writeRef k n sub v (.work w)).readRef k n sub (.work w) = .ok (if 6 ≤ w then ~~~v else v) := by
  have found : sget none (s.writeRef k n sub v (.work w)).workRows (workKey k n sub w) = some v := sget_sset_listed _ _ _ (Option.some_ne_none v)
  simp only [State.readRef, found]

theorem stateOfRow_writeRef : (s.writeRef k n sub v (.data r)).stateOfRow k n sub r = .unsealed := by
  rw [State.writeRef, stateOfRow_set (by decide)]

theorem readRef_writeRef_data (hs : Memory.wf s.mem = true) : (s.writeRef k n sub v (.data r)).readRef k n sub (.data r) = .ok v := by
  have bits : (s.writeRef k n sub v (.data r)).rowBits k n sub r = v := by rw [State.writeRef, rowBits_setRowState, rowBits_putRow hs]
  simp only [State.readRef, stateOfRow_writeRef, bits]

theorem get_writeRef_outside (hs : Memory.wf s.mem = true) {p : Nat} (h : p < rowPlace k n sub r ∨ rowPlace k n sub (r + 1) ≤ p) :
    Memory.get (s.writeRef k n sub v (.data r)).mem p = Memory.get s.mem p := by
  rw [State.writeRef, setRowState_mem, get_putRow hs, if_neg]
  unfold rowPlace rowId at *
  omega

end Operands

/-! ## The obligation -/

/-- Settles O35: a row word in one bank by what it comes to there, in a bank set by how far it has come bank by bank. -/
theorem beadWords : Obligations.BeadWords := by
  refine ⟨fun s e n a b c x y z l r => ?_, fun s k n sub w r v hw hr => ?_⟩
  · intro k ch m sub latch goes row word held fate bad late small tup up he parked due
    have rowWords (h : m.op ≤ 4) : exec m.instr s = .next (s.rowWord k e m) := rowWord_exec tup up he parked due h
    have named (i : RowRef) : dataRows [i] = row i := by cases i <;> rfl
    have three : dataRows [a, b, c] = row a ++ row b ++ row c := by
      rw [dataRows_cons, dataRows_cons b, named, named, named, List.append_assoc]
    refine ⟨fun banks ha hb hc => ?_, fun hop inv hk some_bank nodup hbanks ha hb hc sa sb sc => ?_, fun hb hop => ?_,
      fun hop idle => ⟨fun h => ?_, fun h => ?_⟩, fun hop => ?_, fun hop => ?_, fun hop failed => ⟨fun h => ?_, fun h => ?_⟩⟩
    · have goesTo {u : State} {v : Row} {read written : List Nat} (hop : m.op ≤ 4) (hw : s.wordIn k n sub m a b c (e.held n) = .ok (u, v))
          (hr : (e.run ch k m a b c).read = read) (hwr : (e.run ch k m a b c).written = written) :
          Host.Outcome.next (ρ := Refusal) (φ := Fault) (s.rowWord k e m) = goes u v read written := by
        have rep : (m.op == 5) = false := beq_false_of_ne (by omega)
        rw [rowWord_single ha hb hc banks hw, hr, hwr, Entry.goto, rep]
        rfl
      have exec_ (hop : m.op ≤ 4) {i : Instr} (hi : m.instr = i) : exec i s = .next (s.rowWord k e m) := hi ▸ rowWords hop
      have reads (h : m.op ≤ 1) : (e.run ch k m a b c).read = row a := (run_read_one h).trans (named a)
      have writes (h : m.op = 1 ∨ m.op = 3 ∨ m.op = 4) : (e.run ch k m a b c).written = row b := (run_written_one h).trans (named b)
      have eachStops {t : State} (ends : m.op ≤ 2 → exec m.instr s = .next t) : (m.op = 0 → exec .actWord s = .next t) ∧
          (m.op = 1 → exec .aapWord s = .next t) ∧ (m.op = 2 → exec .traWord s = .next t) := by
        refine ⟨fun h => ?_, fun h => ?_, fun h => ?_⟩ <;> rw [← ends (by omega), Micro.instr] <;> simp [h]
      exact ⟨fun h hx => (exec_ (by omega) (by simp [Micro.instr, h])).trans (goesTo (by omega) (wordIn_act h hx) (reads (by omega)) (run_written_none h)),
        fun h hx => (exec_ (by omega) (by simp [Micro.instr, h])).trans (goesTo (by omega) (wordIn_aap h hx) (reads (by omega)) (writes (by omega))),
        fun h hx hy hz hl => (exec_ (by omega) (by simp [Micro.instr, h])).trans
          (goesTo (by omega) (hl ▸ wordIn_tra h hx hy hz) ((run_read_three h).trans three) ((run_written_three h).trans three)),
        fun h => (exec_ (by omega) (by simp [Micro.instr, h])).trans (goesTo (by omega) (wordIn_csl h) (run_read_none (by omega)) (writes (by omega))),
        fun h => (exec_ (by omega) (by simp [Micro.instr, h])).trans (goesTo (by omega) (wordIn_csr h) (run_read_none (by omega)) (writes (by omega))),
        fun hx => eachStops fun h => (rowWords (by omega)).trans
          (congrArg Host.Outcome.next (rowWord_single_watchdog ha hb hc banks (wordIn_unread h hx))),
        fun hx failed => eachStops fun h => (rowWords (by omega)).trans
          (congrArg Host.Outcome.next (rowWord_single_poison ha hb hc banks failed (wordIn_unread h hx)))⟩
    · have rows : (e.run ch k m a b c).Named := ⟨rowRef_named ha sa, rowRef_named hb sb, rowRef_named hc sc, writeSet_rows⟩
      have run := progress_run rows inv.1 e.banks (progress_start (e := e) inv.1) nodup
      generalize hy : e.banks.foldl (e.run ch k m a b c).step (s, e, []) = y at run
      obtain ⟨t, x, stops⟩ := y
      refine ⟨t, fun i w _ hw => ?_, fun hlate hbad => ?_, fun i p head hf => ?_, fun i p hlate hbad failed head hf => ?_⟩
      · refine ⟨fun u v hi hf => ?_, fun p hi hf => ?_, fun h => ?_, fun h => ?_⟩
        · have same := run_goes run hi hf
          exact ⟨same.state w hw, same.bits w hw, same.work w⟩
        · exact run_poisoned_state run hi hf hw
        · exact (run_same run h).state w hw
        · have fails : i ∉ e.banks ∨ i ∈ (e.run ch k m a b c).late s e e.banks ∨ i ∈ (e.run ch k m a b c).bad s e e.banks := h
          obtain ⟨bits, work⟩ := run_bits run fails hw
          exact ⟨bits, work⟩
      · refine ⟨x.goto m (e.upc + 1), (rowWords hop).trans (congrArg Host.Outcome.next (rowWord_goes ha hb hc hy (run_stops_nil run hlate)
          fun h => hbad ((run_banks_nil run).mp h))), rfl, run.ctr, run.banks, run.failed, fun i u v hi hf => run.latch i hi u v hf⟩
      · exact (rowWords hop).trans (congrArg Host.Outcome.next ((rowWord_stops ha hb hc hy (run.stopRow i p head hf)).trans (by rw [run.stops]; rfl)))
      · exact (rowWords hop).trans (congrArg Host.Outcome.next ((rowWord_fails ha hb hc hy (run_stops_nil run hlate)
          ((run_banks_nil run).mpr hbad)).trans (congrArg _ (run_poisonFault run failed head hf))))
    · rw [← rowWord_outside hb, ← rowWords (by omega), Micro.instr]
      simp [hop]
    · exact congrArg Host.Outcome.next ((microTurn_runs tup up he parked due hop).trans (repeatWord_again idle hop h))
    · exact congrArg Host.Outcome.next ((microTurn_runs tup up he parked due hop).trans (repeatWord_over idle hop h))
    · exact ⟨_, congrArg Host.Outcome.next ((microTurn_runs tup up he parked due hop).trans (branchWord_goes hop)), rfl⟩
    · exact congrArg Host.Outcome.next ((microTurn_runs tup up he parked due hop).trans (setChan_goto (by rw [show m.op = 7 from hop]; decide)))
    · exact congrArg Host.Outcome.next ((microTurn_runs tup up he parked due hop).trans (finishWord_plain failed h))
    · exact congrArg Host.Outcome.next ((microTurn_runs tup up he parked due hop).trans (finishWord_seals failed h))
  · refine ⟨fun h => ?_, fun h => ?_, fun h => ?_, fun inv => ⟨readRef_writeRef_data inv.1, stateOfRow_writeRef, fun p hp => get_writeRef_outside inv.1 hp⟩,
      fun h => ?_, fun h => ?_, fun one => ⟨?_, rfl⟩⟩
    · rw [readRef_writeRef_work, if_neg (Nat.not_le_of_lt h)]
    · rw [readRef_writeRef_work, if_pos h]
    · have none_ : sget none s.workRows (workKey k n sub w) = none := h
      simp only [State.readRef, none_]
    · simp only [State.readRef, h]
    · simp only [State.readRef, h]
    · rw [State.readRef, show ~~~(0 : Row) = BitVec.allOnes 8192 from BitVec.not_zero]

end Sys2Proof.Machine

/-! PROOF. O34: bead commands at the head of their queue, and how entries begin and end (14 R428, R430, R433, R437, R444, R446, R449 to
R451). -/

namespace Sys2Proof.Machine

/-! ## Parts of maps -/

section Maps
variable {α : Type} {d : α} {m x : Sparse α} {k lo hi : Nat}

/-- A canonical map lists no key that reads as its default. -/
theorem unlisted_of_canonical [DecidableEq α] {floor : Option Nat} (h : swfFrom d floor m = true) (hk : sget d m k = d) : ∀ e ∈ m, e.1 ≠ k := by
  induction m generalizing floor with
  | nil => nofun
  | cons e m ih =>
    simp only [swfFrom, Bool.and_eq_true, bne_iff_ne] at h
    obtain ⟨⟨-, value⟩, rest⟩ := h
    rw [sget] at hk
    by_cases same : e.1 = k
    · rw [if_pos same] at hk
      exact absurd hk value
    refine List.forall_mem_cons.mpr ⟨same, ?_⟩
    by_cases below : k < e.1
    · exact fun x hx => Nat.ne_of_gt (Nat.lt_trans below (swfFrom_above rest hx))
    · rw [if_neg same, if_neg below] at hk
      exact ih rest hk

/-- What stands outside the part of a canonical map that is cleared. -/
theorem sget_keyRange_kept [DecidableEq α] (h : swf d m = true) (hlh : lo ≤ hi) (hk : k < lo ∨ hi ≤ k) :
    sget d (keyRange m lo hi []) k = sget d m k := by
  by_cases found : sget d m k = d
  · refine (sget_unlisted fun e he => unlisted_of_canonical h found e ?_).trans found.symm
    simp only [keyRange, List.filter_nil, List.append_nil, List.mem_append, List.mem_filter] at he
    exact he.elim And.left And.left
  · exact sget_keyRange_outside hlh hk found

/-- Clearing parts lists no new key. -/
theorem mem_keyRange_nil {e : Nat × α} (he : e ∈ keyRange m lo hi []) : e ∈ m ∧ (e.1 < lo ∨ hi ≤ e.1) := by
  simp only [keyRange, List.filter_nil, List.append_nil, List.mem_append, List.mem_filter, decide_eq_true_eq] at he
  exact he.elim (fun h => ⟨h.1, .inl h.2⟩) fun h => ⟨h.1, .inr h.2⟩

end Maps

/-! ## The turn of a queue command -/

section Turn
variable {s t u : State} {want : Instr → Bool} {body : Nat → Cmd → Except (BitVec 8 × Word) State} {c : Cmd}
  (hc : s.beadHead s.args.unit = some c) (hw : want c.op = true)
include hc hw

theorem beadTurn_waits (h : s.rowClaim s.args.unit c = .error u) : s.beadTurn want body = u := by
  simp only [State.beadTurn, hc, hw, h, if_true]

theorem beadTurn_goes (h : s.rowClaim s.args.unit c = .ok u) (hb : body s.args.unit c = .ok t) :
    s.beadTurn want body = t.beadEnd s.args.unit c none := by
  simp only [State.beadTurn, hc, hw, h, hb, if_true]

theorem beadTurn_fails {f : BitVec 8 × Word} (h : s.rowClaim s.args.unit c = .ok u) (hb : body s.args.unit c = .error f) :
    s.beadTurn want body = s.beadEnd s.args.unit c (some f) := by
  simp only [State.beadTurn, hc, hw, h, hb, if_true]

end Turn

/-- A command that names no row claims none. -/
theorem rowClaim_none {s : State} {k : Nat} {c : Cmd} (h : s.beadRows k c = []) : s.rowClaim k c = .ok s := by
  simp only [State.rowClaim, h, List.isEmpty_nil, if_true]

theorem putClaim_tide (s : State) (x : Claim) : (s.putClaim x).tide = s.tide := by
  rw [State.putClaim]
  split <;> rfl

theorem rowClaim_tide {s u : State} {k : Nat} {c : Cmd} (h : s.rowClaim k c = .ok u) : u.tide = s.tide := by
  rw [State.rowClaim] at h
  split_ifs at h <;> cases h
  · rfl
  · exact putClaim_tide ..

theorem headD_getD {α : Type} (l : List α) (d : α) : l.headD d = l.getD 0 d := by cases l <;> rfl

theorem wakeBank_keeps (s : State) (k n : Nat) : (s.wakeBank k n).mem = s.mem ∧ (s.wakeBank k n).subOwner = s.subOwner := by
  obtain ⟨chans, rows, woken⟩ := wakeBank_eq s k n
  rw [woken]
  exact ⟨rfl, rfl⟩

/-! ## Run commands (R444) -/

/-- The first row of a run that is locked under a foreign key. -/
def State.runClash (s : State) (k : Nat) (a b : Word) : Option Nat :=
  (runRows a b).find? (fun r => s.lockOf k (ptrBank a) (ptrSub a) r != 0 && s.lockOf k (ptrBank a) (ptrSub a) r != runKey b)

section Runs
variable {s u : State} {c : Cmd} {f : FA} {a b : Word} {r : Nat} (hc : s.beadHead s.args.unit = some c) (ha : c.args.getD 0 0 = a)
  (hb : c.args.getD 1 0 = b) (hr : s.rowClaim s.args.unit c = .ok u)
include hc ha hb hr

theorem blockExec_locked (op : c.op = .block f) (hf : s.runClash s.args.unit a b = some r) : exec .blockExec s =
    .next (s.beadEnd s.args.unit c (some (BEAD_LOCKED, beadAddr [ptrBank a] s.args.unit (ptrSub a) r 0 0))) := by
  rw [State.runClash] at hf
  refine congrArg Host.Outcome.next (beadTurn_fails hc (by rw [op]) hr ?_)
  simp only [ha, hb, hf]

theorem blockExec_locks (op : c.op = .block f) (hf : s.runClash s.args.unit a b = none) : exec .blockExec s =
    .next (State.beadEnd ((runRows a b).foldl (fun t r => t.setLock s.args.unit (ptrBank a) (ptrSub a) r (runKey b)) s) s.args.unit c none) := by
  rw [State.runClash] at hf
  refine congrArg Host.Outcome.next (beadTurn_goes hc (by rw [op]) hr ?_)
  simp only [ha, hb, hf]

theorem bunlkExec_unlocks (op : c.op = .bunlk f) : exec .bunlkExec s = .next (State.beadEnd
    (((runRows a b).filter (fun r => s.lockOf s.args.unit (ptrBank a) (ptrSub a) r == runKey b)).foldl
      (fun t r => t.setLock s.args.unit (ptrBank a) (ptrSub a) r 0) s) s.args.unit c none) := by
  refine congrArg Host.Outcome.next (beadTurn_goes hc (by rw [op]) hr ?_)
  simp only [ha, hb]

theorem bsealExec_locked (op : c.op = .bseal f) (hf : s.runClash s.args.unit a b = some r) : exec .bsealExec s =
    .next (s.beadEnd s.args.unit c (some (BEAD_LOCKED, beadAddr [ptrBank a] s.args.unit (ptrSub a) r 0 0))) := by
  rw [State.runClash] at hf
  refine congrArg Host.Outcome.next (beadTurn_fails hc (by rw [op]) hr ?_)
  simp only [ha, hb, hf]

theorem bsealExec_seals (op : c.op = .bseal f) (hf : s.runClash s.args.unit a b = none) : exec .bsealExec s =
    .next (State.beadEnd (State.setRows (s.wakeBank s.args.unit (ptrBank a)) s.args.unit (ptrBank a) (ptrSub a)
      ((runRows a b).filter (fun r => s.stateOfRow s.args.unit (ptrBank a) (ptrSub a) r == .unsealed ||
        s.stateOfRow s.args.unit (ptrBank a) (ptrSub a) r == .expired)) .isSealed) s.args.unit c none) := by
  rw [State.runClash] at hf
  refine congrArg Host.Outcome.next (beadTurn_goes hc (by rw [op]) hr ?_)
  simp only [ha, hb, hf]

/-- A scrub that meets no uncorrectable error in a sealed row of its run. -/
theorem bscrubExec_clean (op : c.op = .bscrub f)
    (h : s.args.flag = false ∨ s.args.sub ∉ runRows a b ∨ s.stateOfRow s.args.unit (ptrBank a) (ptrSub a) s.args.sub ≠ .isSealed) :
    exec .bscrubExec s = .next ((s.wakeBank s.args.unit (ptrBank a)).beadEnd s.args.unit c none) := by
  refine congrArg Host.Outcome.next (beadTurn_goes hc (by rw [op]) hr ?_)
  simp only [ha, hb]
  rw [if_neg]
  rcases h with h | h | h <;> simp [h]

theorem bscrubExec_poisons (op : c.op = .bscrub f) (flag : s.args.flag = true) (row : s.args.sub ∈ runRows a b)
    (sealed_ : s.stateOfRow s.args.unit (ptrBank a) (ptrSub a) s.args.sub = .isSealed) :
    exec .bscrubExec s = .next (State.beadEnd (((s.wakeBank s.args.unit (ptrBank a)).setRowState s.args.unit (ptrBank a) (ptrSub a)
      s.args.sub .poisoned).machineCheck MC_DRAM_UE (s.args.unit / 32) c.who.asid
        (beadAddr [ptrBank a] s.args.unit (ptrSub a) s.args.sub 0 0)) s.args.unit c none) := by
  refine congrArg Host.Outcome.next (beadTurn_goes hc (by rw [op]) hr ?_)
  simp only [ha, hb, flag, sealed_]
  rw [if_pos (by simpa using row)]

/-- A subarray that another address space owns is not assigned. -/
theorem bpartExec_refused {x : BitVec 16} (op : c.op = .bpart f)
    (hx : sget none s.subOwner (subId s.args.unit (ptrBank a) (ptrSub a)) = some x) (other : x ≠ b.setWidth 16) : exec .bpartExec s =
    .next (s.beadEnd s.args.unit c (some (MODE, beadAddr [ptrBank a] s.args.unit (ptrSub a) 0 0 0))) := by
  refine congrArg Host.Outcome.next (beadTurn_fails hc (by rw [op]) hr ?_)
  simp only [ha, hb, hx]
  rw [if_pos (by simpa using other)]

theorem bpartExec_assigns (op : c.op = .bpart f) (h : sget none s.subOwner (subId s.args.unit (ptrBank a) (ptrSub a)) = none ∨
    sget none s.subOwner (subId s.args.unit (ptrBank a) (ptrSub a)) = some (b.setWidth 16)) :
    ∃ hist wr o, exec .bpartExec s = .next (State.beadEnd { (s.wakeBank s.args.unit (ptrBank a)).clearSub s.args.unit (ptrBank a) (ptrSub a) with
      history := hist, writes := wr, subOwner := o } s.args.unit c none) ∧
      o = sset none s.subOwner (subId s.args.unit (ptrBank a) (ptrSub a)) (if b.getLsbD 16 then some (b.setWidth 16) else none) := by
  have owners : (s.wakeBank s.args.unit (ptrBank a)).subOwner = s.subOwner := (wakeBank_keeps ..).2
  refine ⟨?_, ?_, _, congrArg Host.Outcome.next (beadTurn_goes hc (by rw [op]) hr ?run), congrArg (sset none · _ _) owners⟩
  case run =>
    simp only [ha, hb]
    rw [if_neg (by rcases h with h | h <;> simp [h])]
    rfl

end Runs

/-! ## Modes (R432, R449) -/

section Modes
variable {s : State} {c : Cmd} {f : FA} {a : Word} (hc : s.beadHead s.args.unit = some c) (ha : c.args.getD 0 0 = a) (op : c.op = .bmode f)
include hc ha op

/-- A fifth bank of a channel does not enter compute mode. -/
theorem bmodeExec_refused (fn : f.fn = 1)
    (four : 4 ≤ ((List.range 16).filter (fun i => i != ptrBank a && ((s.chan s.args.unit).mode[i]?).getD 0 = 1)).length) :
    exec .bmodeExec s = .next (s.beadEnd s.args.unit c (some (MODE, beadAddr [ptrBank a] s.args.unit 0 0 0 0))) := by
  refine congrArg Host.Outcome.next (beadTurn_fails hc (by rw [op]) (rowClaim_none (by simp only [State.beadRows, op])) ?_)
  simp only [op, (headD_getD c.args 0).trans ha]
  rw [if_pos (by simpa [fn] using four)]

theorem bmodeExec_sets (h : f.fn = 1 ∧ ((List.range 16).filter (fun i => i != ptrBank a && ((s.chan s.args.unit).mode[i]?).getD 0 = 1)).length < 4 ∨
    f.fn = 0) : exec .bmodeExec s = .next (State.beadEnd ((s.wakeBank s.args.unit (ptrBank a)).setChan s.args.unit
      (fun ch => { ch with mode := ch.mode.set (ptrBank a) f.fn.toNat })) s.args.unit c none) := by
  refine congrArg Host.Outcome.next (beadTurn_goes hc (by rw [op]) (rowClaim_none (by simp only [State.beadRows, op])) ?_)
  simp only [op, (headD_getD c.args 0).trans ha]
  rcases h with ⟨fn, few⟩ | fn
  · rw [if_neg (by simpa [fn] using few), if_neg (by simp [fn])]
  · rw [if_neg (by simp [fn]), if_neg (by simp [fn])]

theorem bmodeExec_rests (fn : f.fn = 2) : exec .bmodeExec s = .next (State.beadEnd (s.setChan s.args.unit
    (fun ch => { ch with mode := ch.mode.set (ptrBank a) 2 })) s.args.unit c none) := by
  refine congrArg Host.Outcome.next (beadTurn_goes hc (by rw [op]) (rowClaim_none (by simp only [State.beadRows, op])) ?_)
  simp only [op, (headD_getD c.args 0).trans ha]
  rw [if_neg (by simp [fn]), if_pos (by simp [fn])]
  simp [fn]

end Modes

/-! ## What a bpart leaves (R450) -/

section ClearSub
variable {s : State} {k n sub r i p : Nat}

/-- The keys of a subarray's rows. -/
theorem rowId_inside (hr : r < 1024) : subId k n sub * 1024 ≤ rowId k n sub r ∧ rowId k n sub r < subId k n sub * 1024 + 1024 := by
  unfold rowId
  omega

theorem rowPlace_inside (hr : r < 1024) (hi : i < 1024) :
    subId k n sub * 2 ^ 20 ≤ rowPlace k n sub r + i ∧ rowPlace k n sub r + i < subId k n sub * 2 ^ 20 + 2 ^ 20 := by
  unfold rowPlace rowId
  omega

theorem clearSub_bytes (hr : r < 1024) (hi : i < 1024) : Memory.get (s.clearSub k n sub).mem (rowPlace k n sub r + i) = 0 :=
  sget_keyRange_cleared (rowPlace_inside hr hi).1 (rowPlace_inside hr hi).2

theorem clearSub_row (hr : r < 1024) : (s.clearSub k n sub).stateOfRow k n sub r = .isSealed ∧ (s.clearSub k n sub).lockOf k n sub r = 0 :=
  ⟨sget_keyRange_cleared (rowId_inside hr).1 (rowId_inside hr).2, sget_keyRange_cleared (rowId_inside hr).1 (rowId_inside hr).2⟩

theorem clearSub_work (hi : i < 8) : sget none (s.clearSub k n sub).workRows (subId k n sub * 8 + i) = none :=
  sget_keyRange_cleared (Nat.le_add_right ..) (Nat.add_lt_add_left hi _)

theorem clearSub_other (hs : s.Inv) (hp : p < rowPlace k n sub 0 ∨ rowPlace k n (sub + 1) 0 ≤ p) :
    Memory.get (s.clearSub k n sub).mem p = Memory.get s.mem p := by
  have mem : (s.clearSub k n sub).mem = keyRange s.mem (subId k n sub * 2 ^ 20) (subId k n sub * 2 ^ 20 + 2 ^ 20) [] := rfl
  have next : subId k n (sub + 1) = subId k n sub + 1 := rfl
  have first (x : Nat) : (x * 1024 + 0) * 1024 = x * 2 ^ 20 := by omega
  have outside : p < subId k n sub * 2 ^ 20 ∨ subId k n sub * 2 ^ 20 + 2 ^ 20 ≤ p := by
    rw [rowPlace, rowPlace, rowId, rowId, next, first, first, Nat.succ_mul] at hp
    exact hp
  rw [Memory.get, mem]
  exact sget_keyRange_kept hs.1 (Nat.le_add_right _ _) outside

end ClearSub

/-! ## The turn of an entry's call (R428) -/

section Call
variable {s u : State} {k start : Nat} {c : Cmd}

/-- What a call's rows are locked under is none of its own. -/
def State.badLock (s : State) (k : Nat) (bs : List Byte) (n r : Nat) : Bool :=
  s.lockOf k n (blockSub bs) r != 0 && s.lockOf k n (blockSub bs) r != blockKey bs

theorem badLock_eq (bs : List Byte) (n r : Nat) :
    s.badLock k bs n r = !(s.lockOf k n (blockSub bs) r == 0 || s.lockOf k n (blockSub bs) r == blockKey bs) := by
  rw [State.badLock, Bool.not_or]
  rfl

theorem startEntry_missing (h : entryStart (s.chan k).store (c.args.headD 0).toNat = none) :
    s.startEntry k c = .error (BEAD_ENTRY, beadAddr (blockBanks c.bytes) k (blockSub c.bytes) 0 0 0) := by
  simp only [State.startEntry, h]

variable (h : entryStart (s.chan k).store (c.args.headD 0).toNat = some start)
include h

theorem startEntry_idle (hi : (blockBanks c.bytes).filter (fun n => ((s.chan k).mode[n]?).getD 0 != 1) ≠ []) : s.startEntry k c =
    .error (BEAD_ENTRY, beadAddr ((blockBanks c.bytes).filter (fun n => ((s.chan k).mode[n]?).getD 0 != 1)) k (blockSub c.bytes) 0 0 0) := by
  simp only [State.startEntry, h]
  rw [if_pos (by simpa using hi)]

theorem startEntry_unnamed (hi : (blockBanks c.bytes).filter (fun n => ((s.chan k).mode[n]?).getD 0 != 1) = [])
    (hn : ∃ i ∈ slotsOf (entryReads (s.chan k).store start ++ entryWrites (s.chan k).store start), blockArg c.bytes i = 0) :
    s.startEntry k c = .error (BEAD_ENTRY, beadAddr (blockBanks c.bytes) k (blockSub c.bytes) 0 0 0) := by
  simp only [State.startEntry, h, hi]
  rw [if_neg (by simp), if_pos (by simpa using hn)]

variable (hi : ∀ n ∈ blockBanks c.bytes, ((s.chan k).mode[n]?).getD 0 = 1)
  (hn : ∀ i ∈ slotsOf (entryReads (s.chan k).store start ++ entryWrites (s.chan k).store start), blockArg c.bytes i ≠ 0)
include hi hn

theorem startEntry_waits (hr : s.rowClaim k c = .error u) : s.startEntry k c = .ok u := by
  have idle : (blockBanks c.bytes).filter (fun n => ((s.chan k).mode[n]?).getD 0 != 1) = [] :=
    List.filter_eq_nil_iff.mpr fun n hm => by simp [hi n hm]
  simp only [State.startEntry, h, idle, hr]
  rw [if_neg (by simp), if_neg (by simpa using hn)]

theorem startEntry_locked {b r : Nat} (hr : s.rowClaim k c = .ok u)
    (hb : ((blockBanks c.bytes).filter (fun n =>
      (rowsOf c.bytes (entryReads (s.chan k).store start ++ entryWrites (s.chan k).store start)).any (s.badLock k c.bytes n))).head? = some b)
    (hf : (rowsOf c.bytes (entryReads (s.chan k).store start ++ entryWrites (s.chan k).store start)).find? (s.badLock k c.bytes b) = some r) :
    s.startEntry k c = .error (BEAD_LOCKED, beadAddr ((blockBanks c.bytes).filter (fun n =>
      (rowsOf c.bytes (entryReads (s.chan k).store start ++ entryWrites (s.chan k).store start)).any (s.badLock k c.bytes n)))
        k (blockSub c.bytes) r 0 0) := by
  have idle : (blockBanks c.bytes).filter (fun n => ((s.chan k).mode[n]?).getD 0 != 1) = [] :=
    List.filter_eq_nil_iff.mpr fun n hm => by simp [hi n hm]
  obtain ⟨l, hl⟩ := List.head?_eq_some_iff.mp hb
  rw [hl]
  unfold State.badLock at hl hf
  simp only [State.startEntry, h, idle, hr, hl, hf]
  rw [if_neg (by simp), if_neg (by simpa using hn)]
  rfl

theorem startEntry_starts (hr : s.rowClaim k c = .ok u)
    (hf : ∀ b ∈ blockBanks c.bytes, ∀ r ∈ rowsOf c.bytes (entryReads (s.chan k).store start ++ entryWrites (s.chan k).store start),
      s.badLock k c.bytes b r = false) :
    s.startEntry k c = .ok (u.setChan k (fun ch => { ch with
      entry := some { cmd := c, upc := start, last := 0, ctr := (List.range 4).map (blockInit c.bytes)
                      ini := (List.range 4).map (blockInit c.bytes), banks := blockBanks c.bytes, since := s.tide, wd := (s.chan k).wd.toNat }
      parked := 0 })) := by
  have idle : (blockBanks c.bytes).filter (fun n => ((s.chan k).mode[n]?).getD 0 != 1) = [] :=
    List.filter_eq_nil_iff.mpr fun n hm => by simp [hi n hm]
  have free : (blockBanks c.bytes).filter (fun n =>
      (rowsOf c.bytes (entryReads (s.chan k).store start ++ entryWrites (s.chan k).store start)).any (s.badLock k c.bytes n)) = [] :=
    List.filter_eq_nil_iff.mpr fun n hm => by
      rw [Bool.not_eq_true, List.any_eq_false]
      exact fun r hr => by rw [hf n hm r hr]; decide
  unfold State.badLock at free
  simp only [State.startEntry, h, idle, hr, free]
  rw [if_neg (by simp), if_neg (by simpa using hn), rowClaim_tide hr]

end Call

section Run
variable {s t : State} {c : Cmd} (hc : s.beadHead s.args.unit = some c) (hw : isBcall c.op = true)
include hc hw

theorem beadEntryRun_goes (h : s.startEntry s.args.unit c = .ok t) : exec .beadEntryRun s = .next t := by
  show execBeadEntryRun s = _
  simp only [execBeadEntryRun, hc, hw, h, if_true]

theorem beadEntryRun_fails {f : BitVec 8 × Word} (h : s.startEntry s.args.unit c = .error f) :
    exec .beadEntryRun s = .next (s.beadEnd s.args.unit c (some f)) := by
  show execBeadEntryRun s = _
  simp only [execBeadEntryRun, hc, hw, h, if_true]

end Run

/-! ## The watchdog of an entry (R433) -/

/-- A fault below the machine checks changes the contexts alone. -/
theorem recordFault_quiet {s : State} {j : Nat} {f : FaultRec} (h : f.code.toNat < 0x40) : ∃ x, s.recordFault j f = { s with ctxs := x } := by
  rw [State.recordFault, if_neg (Nat.not_le_of_lt h)]
  exact ⟨_, rfl⟩

/-- How a command of a bead queue ends where no chain block holds any. -/
theorem beadEnd_quiet {s : State} {k : Nat} {c : Cmd} {code : BitVec 8} {a : Word} (hc : s.chains = []) (h : code.toNat < 0x40) :
    ∃ x, s.beadEnd k c (some (code, a)) = { (s.disown (.bead k) c).setQueue (.bead k) (fun q => q.complete c.seq (some (code, a))) with ctxs := x } := by
  have tidy : State.tidyChains ((s.disown (.bead k) c).setQueue (.bead k) (fun q => q.complete c.seq (some (code, a)))) =
      (s.disown (.bead k) c).setQueue (.bead k) (fun q => q.complete c.seq (some (code, a))) := tidyChains_none hc
  unfold State.beadEnd
  rw [tidy]
  cases (s.ctx c.who.ctx).launch with
  | none => exact ⟨_, rfl⟩
  | some l =>
    dsimp only
    split
    · exact recordFault_quiet h
    · exact ⟨_, rfl⟩

theorem complete_issue (q : Queue) (n : Nat) (f : Option (BitVec 8 × Word)) : (q.complete n f).issue = q.issue := (settle_keeps _ _).1

/-- A channel that has taken a command is listed. -/
theorem chan_issued {ch : Chan} (h : 0 < ch.queue.issue) : ch ≠ {} := by
  rintro rfl
  cases h

theorem setChan_keeps (s : State) (k : Nat) (f : Chan → Chan) : s.KeepsBytes (s.setChan k f) := ⟨rfl, rfl, rfl, rfl, rfl, rfl⟩

section Ends
variable {s : State} {k : Nat} {c : Cmd} {code : BitVec 8} {a : Word} (hc : s.chains = []) (h : code.toNat < 0x40)
  (hq : 0 < (s.chan k).queue.issue)
include hc h hq

theorem beadEnd_chan : (s.beadEnd k c (some (code, a))).chan k =
      { s.chan k with queue := (s.chan k).queue.complete c.seq (some (code, a)) } ∧
    s.KeepsBytes (s.beadEnd k c (some (code, a))) ∧ (s.beadEnd k c (some (code, a))).workRows = s.workRows ∧
    (s.beadEnd k c (some (code, a))).self = s.self := by
  have listed := chan_issued (ch := { s.chan k with queue := (s.chan k).queue.complete c.seq (some (code, a)) })
    (lt_of_lt_of_eq hq (complete_issue ..).symm)
  obtain ⟨x, ended⟩ := beadEnd_quiet (s := s) (k := k) (c := c) (a := a) hc h
  have chan := chan_setChan (s := s.disown (.bead k) c) (k := k) (f := fun ch => { ch with queue := ch.queue.complete c.seq (some (code, a)) }) listed
  rw [ended]
  exact ⟨chan, ⟨rfl, rfl, rfl, rfl, rfl, rfl⟩, rfl, rfl⟩

/-- What is left of a channel, and of all else, when its entry ends by a fault. -/
theorem endEntry_quiet : ((s.endEntry k c (some (code, a))).chan k).entry = none ∧
    ((s.endEntry k c (some (code, a))).chan k).mode = (s.chan k).mode ∧ s.KeepsBytes (s.endEntry k c (some (code, a))) ∧
    (s.endEntry k c (some (code, a))).workRows = s.workRows ∧ (s.endEntry k c (some (code, a))).self = s.self := by
  have idle := chan_setChan (s := s) (k := k) (f := fun ch => { ch with
    entry := none, parked := 0, parkers := [], parkersDone := ch.parkersDone ++ ch.parkers }) (chan_issued hq)
  obtain ⟨chan, bytes, rows, self⟩ := beadEnd_chan (s := s.setChan k (fun ch => { ch with
    entry := none, parked := 0, parkers := [], parkersDone := ch.parkersDone ++ ch.parkers })) (c := c) (a := a) hc h (by rw [idle]; exact hq)
  rw [State.endEntry, chan, idle]
  exact ⟨rfl, rfl, (setChan_keeps ..).trans bytes, rows, self⟩

end Ends

theorem setRowStates_eq (l : List (Nat × Nat)) (s : State) (k sub : Nat) (x : RowState) :
    ∃ r, l.foldl (fun t w => t.setRowState k w.1 sub w.2 x) s = { s with rowState := r } := by
  induction l generalizing s with
  | nil => exact ⟨_, rfl⟩
  | cons w l ih =>
    obtain ⟨r, rest⟩ := ih (s.setRowState k w.1 sub w.2 x)
    exact ⟨r, rest⟩

/-- The work rows of some banks, dropped. -/
def droppedRows (k : Nat) (l : List Nat) (m : Sparse (Option Row)) : Sparse (Option Row) :=
  l.foldl (fun m n => keyRange m (bankRows k n).1 (bankRows k n).2 []) m

theorem droppedRows_eq (l : List Nat) (s : State) (k : Nat) :
    l.foldl (fun t n => { t with workRows := keyRange t.workRows (bankRows k n).1 (bankRows k n).2 [] }) s =
      { s with workRows := droppedRows k l s.workRows } := by
  induction l generalizing s with
  | nil => rfl
  | cons n l ih => exact ih _

theorem mem_droppedRows {k : Nat} {l : List Nat} {m : Sparse (Option Row)} {e : Nat × Option Row} (he : e ∈ droppedRows k l m) :
    e ∈ m ∧ ∀ n ∈ l, e.1 < (bankRows k n).1 ∨ (bankRows k n).2 ≤ e.1 := by
  induction l generalizing m with
  | nil => exact ⟨he, nofun⟩
  | cons n l ih =>
    obtain ⟨first, rest⟩ := ih he
    obtain ⟨listed, outside⟩ := mem_keyRange_nil first
    exact ⟨listed, List.forall_mem_cons.mpr ⟨outside, rest⟩⟩

theorem sget_droppedRows {k n sub w : Nat} {l : List Nat} {m : Sparse (Option Row)} (hn : n ∈ l) (hs : sub < 64) (hw : w < 8) :
    sget none (droppedRows k l m) (subId k n sub * 8 + w) = none := by
  refine sget_unlisted fun e he same => ?_
  have outside := (mem_droppedRows he).2 n hn
  obtain ⟨above, below⟩ := subId_between (k := k) (n := n) hs
  simp only [bankRows, same] at outside
  omega

/-- The state in which the rows of an entry have expired and the banks of its channel have left compute mode. -/
def State.expires (s : State) (k : Nat) (e : Entry) : State :=
  let t := e.wrote.foldl (fun t w => t.setRowState k w.1 (blockSub e.cmd.bytes) w.2 .expired) s
  State.setChan { t with workRows := droppedRows k ((List.range 16).filter (fun n => ((s.chan k).mode[n]?).getD 0 == 1)) t.workRows } k
    (fun ch => { ch with mode := ch.mode.map (fun x => if x = 1 then 0 else x) })

theorem expires_eq (s : State) (k : Nat) (e : Entry) : ∃ r, s.expires k e = State.setChan { s with
    rowState := r, workRows := droppedRows k ((List.range 16).filter (fun n => ((s.chan k).mode[n]?).getD 0 == 1)) s.workRows } k
      (fun ch => { ch with mode := ch.mode.map (fun x => if x = 1 then 0 else x) }) := by
  obtain ⟨r, rows⟩ := setRowStates_eq e.wrote s k (blockSub e.cmd.bytes) .expired
  exact ⟨r, by rw [State.expires, rows]⟩

section Watchdog
variable {s : State} {e : Entry} (he : (s.chan s.args.unit).entry = some e)
include he

theorem watchdog_ends (hp : (s.chan s.args.unit).parked = 0) (hw : e.wd ≠ 0) (hd : e.wd ≤ e.count + (s.tide - e.since)) :
    exec .beadWatchdogExpire s = .next (((s.expires s.args.unit e).endEntry s.args.unit e.cmd
      (some (BEAD_WATCHDOG, beadAddr e.banks s.args.unit (blockSub e.cmd.bytes) 0 0 e.last))).watchdogNotice s.args.unit) := by
  have due : e.due s.tide = true := by simp [Entry.due, hw, hd]
  show execBeadWatchdogExpire s = _
  simp only [execBeadWatchdogExpire, he, hp, due, droppedRows_eq]
  rfl

theorem watchdog_rests (h : (s.chan s.args.unit).parked ≠ 0 ∨ e.wd = 0 ∨ e.count + (s.tide - e.since) < e.wd) :
    exec .beadWatchdogExpire s = .next s := by
  have rests : ((s.chan s.args.unit).parked != 0 || !e.due s.tide) = true := by
    rcases h with h | h | h
    · simp [h]
    · simp [Entry.due, h]
    · simp [Entry.due, Nat.not_le_of_lt h]
  show execBeadWatchdogExpire s = _
  simp only [execBeadWatchdogExpire, he, rests, if_true]

end Watchdog

/-! ## An idle bank (R437) -/

section Idle
variable {s : State} {k n : Nat} (h : ((s.chan k).power[n]?).getD 0 = 0)
include h

theorem bankDown_idle (hl : s.bankLive k n = false) : s.bankDown k n = s.setChan k (fun x => { x with power := x.power.set n 1 }) := by
  rw [State.bankDown, h, hl]
  rfl

theorem bankDown_live (hl : s.bankLive k n = true) :
    s.bankDown k n = (s.saveBank k n).setChan k (fun x => { x with power := x.power.set n 2 }) := by
  rw [State.bankDown, h, hl]
  rfl

end Idle

/-! ## The obligation -/

/-- Settles O34. -/
theorem beadCommands : Obligations.BeadCommands := by
  refine ⟨fun s c f a b => ?_, fun s c f e n => ?_⟩
  · intro k n sub row key rows locked clash ready hc ha hb
    have head : c.args.headD 0 = a := (headD_getD c.args 0).trans ha
    refine ⟨fun u hr => ?_, fun r ⟨u, hr⟩ hf op => blockExec_locked hc ha hb hr op hf, fun ⟨u, hr⟩ hf op => blockExec_locks hc ha hb hr op hf,
      fun ⟨u, hr⟩ op => bunlkExec_unlocks hc ha hb hr op, fun r ⟨u, hr⟩ hf op => bsealExec_locked hc ha hb hr op hf,
      fun ⟨u, hr⟩ hf op => bsealExec_seals hc ha hb hr op hf, fun op => ?_, fun op => ⟨bmodeExec_refused hc ha op, bmodeExec_sets hc ha op,
        bmodeExec_rests hc ha op⟩, ?_, fun ⟨u, hr⟩ op => ⟨bscrubExec_clean hc ha hb hr op, bscrubExec_poisons hc ha hb hr op⟩⟩
    · exact ⟨fun op => congrArg Host.Outcome.next (beadTurn_waits hc (by rw [op]) hr),
        fun op => congrArg Host.Outcome.next (beadTurn_waits hc (by rw [op]) hr),
        fun op => congrArg Host.Outcome.next (beadTurn_waits hc (by rw [op]) hr),
        fun op => congrArg Host.Outcome.next (beadTurn_waits hc (by rw [op]) hr),
        fun op => congrArg Host.Outcome.next (beadTurn_waits hc (by rw [op]) hr)⟩
    · have none_ : s.beadRows k c = [] := by simp only [State.beadRows, op]
      exact congrArg Host.Outcome.next (beadTurn_goes hc (by rw [op]) (rowClaim_none none_) rfl)
    · intro owner asid ⟨u, hr⟩ op
      refine ⟨fun x hx other => bpartExec_refused hc ha hb hr op hx other, fun h => ?_⟩
      obtain ⟨hist, wr, o, run, owners⟩ := bpartExec_assigns hc ha hb hr op h
      refine ⟨_, run, owners, fun r i hr hi => clearSub_bytes hr hi, fun r hr => clearSub_row hr, fun w hw => clearSub_work hw, fun inv p hp => ?_⟩
      exact (clearSub_other (wakeBank_inv inv) hp).trans (congrArg (Memory.get · p) (wakeBank_keeps ..).1)
  · intro k ch bs sub fails
    refine ⟨fun hc op => ⟨fun hs => ?_, ?_⟩, fun he hp hq chains hw hd => ?_, fun he h => watchdog_rests he h, fun he => ?_, rfl,
      fun hn hm hp => ⟨fun hl => ?_, fun hl => ?_⟩, fun hn hm => ?_⟩
    · exact beadEntryRun_fails hc (by rw [op]; rfl) (startEntry_missing hs)
    · intro start hs ops free idle locked
      have call : isBcall c.op = true := by rw [op]; rfl
      refine ⟨fun hi => ?_, fun hi hn => ?_, fun hi hn => ⟨fun u hr => ?_, fun u hr hf => ?_, fun u b r hr hb hf => ?_⟩⟩
      · exact beadEntryRun_fails hc call (startEntry_idle hs hi)
      · exact beadEntryRun_fails hc call (startEntry_unnamed hs hi hn)
      · exact beadEntryRun_goes hc call (startEntry_waits hs hi hn hr)
      · exact beadEntryRun_goes hc call (startEntry_starts hs hi hn hr fun b hb r hrow => by
          rw [badLock_eq, show (s.lockOf k b (blockSub c.bytes) r == 0 || s.lockOf k b (blockSub c.bytes) r == blockKey c.bytes) = true from hf b hb r hrow]
          rfl)
      · have same (b : Nat) : s.badLock k bs b = fun r => !free b r := funext fun r => badLock_eq bs b r
        have all : (blockBanks c.bytes).filter (fun n => (rowsOf c.bytes ops).any (s.badLock k c.bytes n)) = locked :=
          List.filter_congr fun b _ => by rw [same]
        have first : (rowsOf c.bytes ops).find? (s.badLock k c.bytes b) = some r := (congrArg (List.find? · _) (same b)).trans hf
        have run := beadEntryRun_fails hc call (startEntry_locked hs hi hn hr ((congrArg List.head? all).trans hb) first)
        rw [all] at run
        exact run
    · obtain ⟨r, gone⟩ := expires_eq s k e
      have listed := chan_issued (ch := { ch with mode := ch.mode.map (fun x => if x = 1 then 0 else x) }) hq
      have chan : (s.expires k e).chan k = { ch with mode := ch.mode.map (fun x => if x = 1 then 0 else x) } := by
        rw [gone]
        exact chan_setChan listed
      obtain ⟨entry, mode, bytes, rows, self⟩ := endEntry_quiet (s := s.expires k e) (k := k) (c := e.cmd) (code := BEAD_WATCHDOG)
        (a := beadAddr e.banks k (blockSub e.cmd.bytes) 0 0 e.last) (by rw [gone]; exact chains) (by decide) (by rw [chan]; exact hq)
      refine ⟨_, watchdog_ends he hp hw hd, entry, mode.trans (congrArg Chan.mode chan), ?_, fun b hb hm x w hx hw => ?_, self.trans (by rw [gone]; rfl)⟩
      · have kept : s.KeepsBytes (s.expires k e) := by rw [gone]; exact ⟨rfl, rfl, rfl, rfl, rfl, rfl⟩
        exact (kept.trans bytes).sameMemory
      · refine (congrArg (sget none · _) rows).trans ?_
        rw [gone]
        exact sget_droppedRows (List.mem_filter.mpr ⟨List.mem_range.mpr hb, beq_iff_eq.mpr hm⟩) hx hw
    · show execBeadWatchdogExpire s = _
      simp only [execBeadWatchdogExpire, show (s.chan s.args.unit).entry = none from he]
    · show execBankPowerDown s = _
      rw [execBankPowerDown, hn, if_pos hm, bankDown_idle hp hl]
    · show execBankPowerDown s = _
      rw [execBankPowerDown, hn, if_pos hm, bankDown_live hp hl]
    · show execBankPowerDown s = _
      rw [execBankPowerDown, hn, if_neg hm]

end Sys2Proof.Machine

/-! PROOF. O38: keys, shoot-downs, migrations and the fates of page faults (15 R469 to R477; 16 R485, R487). -/

namespace Sys2Proof.Machine

/-! ## Walks -/

/-- What a walk does not read: requests, fences, cached translations, copies and strands. -/
structure State.WalksAs (s t : State) : Prop where
  towers : t.towers = s.towers
  mem : t.mem = s.mem
  lineKey : t.lineKey = s.lineKey
  dirty : t.dirty = s.dirty
  poison : t.poison = s.poison
  keys : t.keys = s.keys
  claims : t.claims = s.claims
  inflight : t.inflight = s.inflight
  chans : t.chans = s.chans
  mod : t.mod = s.mod
  codeSize : t.codeSize = s.codeSize

section Walks
variable {s t : State} (h : s.WalksAs t)
include h

theorem State.WalksAs.tower (n : Nat) : t.tower n = s.tower n := by rw [State.tower, h.towers, State.tower]

theorem State.WalksAs.placeOf (policy skew pa o : Nat) : t.placeOf policy skew pa o = s.placeOf policy skew pa o := by
  unfold State.placeOf State.tower
  rw [h.towers]

theorem State.WalksAs.keyOf (slot : Nat) : t.keyOf slot = s.keyOf slot := by rw [State.keyOf, h.keys, State.keyOf]

theorem State.WalksAs.bytesAt (key : Option (BitVec 512)) (p n : Nat) : t.bytesAt key p n = s.bytesAt key p n := by
  unfold State.bytesAt State.underKey
  rw [h.mem, h.lineKey, h.dirty]

theorem State.WalksAs.readPhys (policy pa o n key : Nat) : t.readPhys policy pa o n key = s.readPhys policy pa o n key := by
  rw [State.readPhys, h.keyOf, h.placeOf, h.bytesAt, State.readPhys]

theorem State.WalksAs.readable (p : Nat) : t.readable p = s.readable p := by
  unfold State.readable State.stuck State.flightOf State.unreachable State.memoryOff State.bankBusy State.chan State.tower
  rw [h.inflight, h.dirty, h.towers, h.chans, h.mod]

theorem State.WalksAs.ownedAt (p n : Nat) : t.ownedAt p n = s.ownedAt p n := by rw [State.ownedAt, h.claims, State.ownedAt]
theorem State.WalksAs.poisonedAt (p n : Nat) : t.poisonedAt p n = s.poisonedAt p n := by rw [State.poisonedAt, h.poison, State.poisonedAt]

theorem State.WalksAs.absentMalformed (n e : Nat) : t.absentMalformed n e = s.absentMalformed n e := by
  unfold State.absentMalformed State.rangeOk State.keyOk State.tower
  rw [h.towers, h.keys]
theorem State.WalksAs.leafMalformed (n e : Nat) : t.leafMalformed n e = s.leafMalformed n e := by
  unfold State.leafMalformed State.rangeOk State.keyOk State.tower
  rw [h.towers, h.keys]
theorem State.WalksAs.tableMalformed (n e : Nat) : t.tableMalformed n e = s.tableMalformed n e := by
  unfold State.tableMalformed State.rangeOk State.keyOk State.tower
  rw [h.towers, h.keys]
theorem State.WalksAs.primeBases (e : Nat) : t.primeBases e = s.primeBases e := by rw [State.primeBases, h.towers, State.primeBases]

theorem State.WalksAs.walkFrom (va : Word) (n policy pa key : Nat) : t.walkFrom va n policy pa key = s.walkFrom va n policy pa key := by
  induction n generalizing policy pa key with
  | zero => rfl
  | succ n ih =>
    simp only [State.walkFrom, h.readPhys, h.placeOf, h.readable, h.ownedAt, h.poisonedAt, ih, h.absentMalformed,
      h.leafMalformed, h.tableMalformed, h.primeBases]

theorem State.WalksAs.spaceEntry (n : Nat) (asid : BitVec 16) : t.spaceEntry n asid = s.spaceEntry n asid := by
  simp only [State.spaceEntry, h.tower, h.readPhys, h.placeOf, h.readable, h.ownedAt, h.poisonedAt]

theorem State.WalksAs.walk (n : Nat) (asid : BitVec 16) (va : Word) : t.walk n asid va = s.walk n asid va := by
  have boot : t.bootWalk va = s.bootWalk va := by rw [State.bootWalk, State.bootData, h.codeSize, State.bootWalk, State.bootData]
  have mapped : t.bootMapped asid = s.bootMapped asid := by rw [State.bootMapped, h.tower, State.bootMapped]
  simp only [State.walk, mapped, boot, h.spaceEntry, h.walkFrom]

end Walks

/-- Requests, fences and what they hold back apart, a state in which a write of a register has been performed is the one before. -/
theorem arrives_walks {s u : State} {v : Word} {off : Nat} (h : s.arrives u v off) : s.WalksAs u := by
  obtain ⟨-, -, -, rfl, -⟩ | ⟨r, -, rfl⟩ := h <;> exact ⟨rfl, rfl, rfl, rfl, rfl, rfl, rfl, rfl, rfl, rfl, rfl⟩

theorem arrives_inv {s u : State} {v : Word} {off : Nat} (h : s.arrives u v off) (hs : s.Inv) : u.Inv := by
  obtain ⟨-, -, -, rfl, -⟩ | ⟨r, -, rfl⟩ := h
  · exact hs
  · exact tidy_inv (dropReq_inv hs)

/-! ## Keys (R477) -/

/-- The last 64 bits of KEYDATA. -/
theorem put64_last (x : BitVec 512) (v : Word) : put64 x 7 v = v ++ x.extractLsb' 0 448 := by
  refine BitVec.eq_of_getLsbD_eq fun i hi => Eq.trans ?_ BitVec.getLsbD_append.symm
  simp only [put64, BitVec.getLsbD_or, BitVec.getLsbD_and, BitVec.getLsbD_not, BitVec.getLsbD_shiftLeft, BitVec.getLsbD_setWidth,
    BitVec.getLsbD_allOnes, BitVec.getLsbD_extractLsb', Nat.reduceMul, hi, decide_true, Bool.true_and]
  by_cases h : i < 448
  · simp [h]
  · have high : i - 448 < 64 ∧ i - 448 < 512 := by omega
    simp [h, high]

section Keys
variable {α : Type} {d : α} {m : Sparse α} {k : Nat}

theorem mem_of_sget (h : sget d m k ≠ d) : (k, sget d m k) ∈ m := by
  induction m with
  | nil => exact absurd rfl h
  | cons e m ih =>
    rw [sget] at h ⊢
    split_ifs at h ⊢ with same below
    · exact same ▸ List.mem_cons_self ..
    · exact absurd rfl h
    · exact List.mem_cons_of_mem _ (ih h)

/-- A canonical map reads as each entry that it lists. -/
theorem sget_of_mem [DecidableEq α] {floor : Option Nat} (h : swfFrom d floor m = true) {e : Nat × α} (he : e ∈ m) : sget d m e.1 = e.2 := by
  induction m generalizing floor with
  | nil => cases he
  | cons x m ih =>
    simp only [swfFrom, Bool.and_eq_true] at h
    obtain ⟨-, rest⟩ := h
    rw [sget]
    rcases List.mem_cons.mp he with rfl | he
    · rw [if_pos rfl]
    · have above := swfFrom_above rest he
      rw [if_neg (Nat.ne_of_lt above), if_neg (Nat.lt_asymm above), ih rest he]

/-- The keys of some entries, all given one value. -/
theorem sget_foldl_sset [DecidableEq α] {v : α} (hv : v ≠ d) (l : List (Nat × α)) (m : Sparse α) :
    sget d (l.foldl (fun m e => sset d m e.1 v) m) k = if k ∈ l.map (·.1) then v else sget d m k := by
  induction l generalizing m with
  | nil => rfl
  | cons e l ih =>
    rw [List.foldl_cons, ih, List.map_cons]
    by_cases same : k = e.1
    · rw [same, sget_sset_listed d m e.1 hv, ite_self, if_pos (List.mem_cons_self ..)]
    · rw [sget_sset_listed_other d m hv same]
      exact if_congr (by rw [List.mem_cons, or_iff_right same]) rfl rfl

end Keys

/-- A key that is loaded over another goes to the dirty lines that stand under that one. -/
theorem loadKey_lineKey {s : State} (hs : s.Inv) (slot : Nat) (key : BitVec 512) (l : Nat) :
    sget none (s.loadKey slot key).lineKey l =
      if sget none s.keys slot ≠ none ∧ sget none s.lineKey l = sget none s.keys slot ∧ sget false s.dirty l = true then some key
      else sget none s.lineKey l := by
  cases hold : sget none s.keys slot with
  | none => simp [State.loadKey, hold]
  | some old =>
    have listed : l ∈ (s.lineKey.filter (fun e => e.2 == some old && sget false s.dirty e.1)).map (·.1) ↔
        sget none s.lineKey l = some old ∧ sget false s.dirty l = true := by
      simp only [List.mem_map, List.mem_filter, Bool.and_eq_true, beq_iff_eq]
      constructor
      · rintro ⟨e, ⟨he, hv, hd⟩, rfl⟩
        exact ⟨(sget_of_mem hs.2 he).trans hv, hd⟩
      · rintro ⟨hv, hd⟩
        exact ⟨_, ⟨mem_of_sget (d := none) (hv ▸ Option.some_ne_none old), hv, hd⟩, rfl⟩
    simp only [State.loadKey, hold, Option.isNone_some, Bool.false_eq_true, if_false, ne_eq, Option.some_ne_none, not_false_eq_true, true_and]
    rw [sget_foldl_sset (Option.some_ne_none key)]
    simp only [listed]

section KeyLoad
variable {s u : State} {v : Word} {t : Nat} (hu : s.args.unit % 16 = t) (h : s.arrives u v (towerReg t 0x98))
include hu h

theorem keyLoad_zero (h0 : (u.tower t).kslot = 0) : exec .keyLoad s =
    .next (u.setTower t (fun y => { y with keydata := v ++ (u.tower t).keydata.extractLsb' 0 448 })) := by
  show execKeyLoad s = _
  rw [execKeyLoad, hu, regEvent_arrives h, put64_last]
  exact congrArg Host.Outcome.next (if_pos (congrArg BitVec.toNat h0))

theorem keyLoad_loads (h0 : (u.tower t).kslot ≠ 0) : exec .keyLoad s =
    .next (State.loadKey (u.setTower t (fun y => { y with keydata := v ++ (u.tower t).keydata.extractLsb' 0 448 }))
      (u.tower t).kslot.toNat (v ++ (u.tower t).keydata.extractLsb' 0 448)) := by
  show execKeyLoad s = _
  rw [execKeyLoad, hu, regEvent_arrives h, put64_last]
  exact congrArg Host.Outcome.next (if_neg fun same => h0 (BitVec.eq_of_toNat_eq same))

end KeyLoad

/-! ## Shoot-downs (R469) -/

/-- What is left once all of an address space in a range is dropped. -/
theorem mem_shot {α : Type} {l : List α} {p : α → Bool} {e : α} {a b : Prop} (he : e ∈ l.filter p) (h : a → b → p e = false) : e ∈ l ∧ ¬ (a ∧ b) := by
  obtain ⟨listed, kept⟩ := List.mem_filter.mp he
  exact ⟨listed, fun ⟨ha, hb⟩ => by rw [h ha hb] at kept; cases kept⟩

theorem mem_shoot (s : State) (asid : BitVec 16) (size : Nat) (base : Word) :
    (∀ e ∈ (s.shoot asid size base).tlb, e ∈ s.tlb ∧ ¬ (e.asid = asid ∧ inShoot size base (word (e.page * e.leaf.size)) = true)) ∧
      (∀ e ∈ (s.shoot asid size base).walked, e ∈ s.walked ∧
        ¬ (e.asid = asid ∧ inShoot size base (word (e.region * regionSize e.level)) = true)) ∧
      ∀ c ∈ (s.shoot asid size base).copies, c ∈ s.copies ∧ ¬ (c.asid = asid ∧ inShoot size base (word (128 * c.vline)) = true) := by
  exact ⟨fun e he => mem_shot he fun ha hh => by simp [ha, hh], fun e he => mem_shot he fun ha hh => by simp [ha, hh],
    fun c hc => mem_shot hc fun ha hh => by simp [ha, hh]⟩

theorem shoot_keeps (s : State) (asid : BitVec 16) (size : Nat) (base : Word) :
    s.WalksAs (s.shoot asid size base) ∧ s.KeepsBytes (s.shoot asid size base) ∧ (s.shoot asid size base).ranges = s.ranges :=
  ⟨⟨rfl, rfl, rfl, rfl, rfl, rfl, rfl, rfl, rfl, rfl, rfl⟩, ⟨rfl, rfl, rfl, rfl, rfl, rfl⟩, rfl⟩

section ShootDown
variable {s u : State} {v : Word} {t : Nat} (hu : s.args.unit % 16 = t) (h : s.arrives u v (towerReg t 0x10))
include hu h

theorem shootDown_ignored (hb : (u.tower t).sdbusy = true) : exec .shootDown s = .next u := by
  show execShootDown s = _
  rw [execShootDown, hu, regEvent_arrives h, if_pos hb]

variable (hb : (u.tower t).sdbusy = false)
include hb

theorem shootDown_names (hv : v.getLsbD 0 = false) : exec .shootDown s =
    .next (u.setTower t (fun y => { y with sdasid := v.extractLsb' 48 16, sdsize := v.extractLsb' 46 2 })) := by
  show execShootDown s = _
  simp only [execShootDown, hu, regEvent_arrives h, hb, hv, Bool.false_eq_true, if_false]

theorem shootDown_runs (hv : v.getLsbD 0 = true) : exec .shootDown s =
    .next (State.setTower (State.shoot (u.setTower t (fun y => { y with sdasid := v.extractLsb' 48 16, sdsize := v.extractLsb' 46 2 }))
      (v.extractLsb' 48 16) (v.extractLsb' 46 2).toNat (u.tower t).sdva) t (fun y => { y with
        sdbusy := true, sdmark := u.serial, sdrun := ((u.tower t).sdva, v.extractLsb' 48 16, v.extractLsb' 46 2)
        sdgone := u.dropped (v.extractLsb' 48 16) (v.extractLsb' 46 2).toNat (u.tower t).sdva })) := by
  show execShootDown s = _
  simp only [execShootDown, hu, regEvent_arrives h, hb, hv, Bool.false_eq_true, if_false, if_true]

end ShootDown

section ShootOpen
variable {s : State} {x : Tower}

theorem shootOpen_of_req {r : Req} (hr : r ∈ s.reqs) (young : r.id < x.sdmark) (who : r.who.asid = x.sdrun.2.1) (space : r.space = .g)
    (place : r.place.isSome = true) (inside : inShoot x.sdrun.2.2.toNat x.sdrun.1 r.addr = true)
    (here : (s.crewById r.who.crew).saved = false) : s.shootOpen x = true := by
  simp only [State.shootOpen, Bool.or_eq_true, List.any_eq_true]
  exact .inl ⟨r, hr, by simp [young, who, space, place, inside, here]⟩

theorem shootOpen_of_claim {c : Claim} (hc : c ∈ s.claims) (granted : c.granted = true) (who : c.asid = x.sdrun.2.1)
    (cells : ∃ e ∈ c.cells ++ c.src, Place.isG e.place = true ∧ inShoot x.sdrun.2.2.toNat x.sdrun.1 e.va = true) : s.shootOpen x = true := by
  obtain ⟨e, he, g, inside⟩ := cells
  have cell : (c.cells ++ c.src).any (fun y => Place.isG y.place && (inShoot x.sdrun.2.2.toNat x.sdrun.1 y.va ||
      x.sdgone.any (fun g => g.1 ≤ y.va.toNat && y.va.toNat < g.1 + g.2))) = true := List.any_eq_true.mpr ⟨e, he, by simp [g, inside]⟩
  rw [State.shootOpen, Bool.or_eq_true]
  exact .inr (List.any_eq_true.mpr ⟨c, hc, by rw [granted, who, cell, beq_self_eq_true]; rfl⟩)

end ShootOpen

section ShootDone
variable {s : State} {t : Nat} (hu : s.args.unit % 16 = t)
include hu

theorem shootDownDone_waits (h : (s.tower t).sdbusy = false ∨ s.shootOpen (s.tower t) = true) : exec .shootDownDone s = .next s := by
  show execShootDownDone s = _
  rw [execShootDownDone, hu, if_pos (by rcases h with h | h <;> simp [h])]

end ShootDone

theorem retryHeld_retries {s : State} {asid : BitVec 16} : ∀ c ∈ (s.retryHeld asid).ctxs, c.held = true → c.asid = asid → c.retry = true := by
  intro c hc held same
  obtain ⟨d, -, rfl⟩ := List.mem_map.mp hc
  by_cases hit : (d.held && d.asid == asid) = true
  · rw [if_pos hit]
  · rw [if_neg hit] at held same
    exact absurd (by simp [held, same]) hit

theorem endRanges_eq (s : State) (t : Nat) (asid : BitVec 16) : ∃ r, s.endRanges t asid = { s with ranges := r } := by
  unfold State.endRanges
  split
  · exact ⟨_, rfl⟩
  · exact ⟨_, rfl⟩

theorem endRanges_gone {s : State} {t : Nat} {asid : BitVec 16} (h : s.walk t asid 0 = .noSpace) :
    (s.endRanges t asid).ranges = s.ranges.filter (fun r => r.asid != asid) := by
  simp only [State.endRanges, h]

/-- Only the ranges of the address space are placed anew. -/
theorem relocate_others {s : State} {t : Nat} {asid : BitVec 16} {hit : Word → Bool} (h : ∀ r ∈ s.ranges, r.asid ≠ asid) :
    (s.relocate t asid hit).ranges = s.ranges := by
  refine (List.map_congr_left fun r hr => ?_).trans (List.map_id _)
  rw [if_pos (bne_iff_ne.mpr (h r hr))]
  rfl

/-- How a shoot-down ends, its range dropped. -/
def State.shotDown (s : State) (t : Nat) (asid : BitVec 16) (hit : Word → Bool) : State :=
  ((((s.endRanges t asid).relocate t asid hit).setTower t (fun y => { y with sdbusy := false })).retryHeld asid)

section ShotDown
variable {s : State} {t : Nat} {asid : BitVec 16} {hit : Word → Bool}

theorem shotDown_keeps : s.KeepsBytes (s.shotDown t asid hit) ∧ (s.shotDown t asid hit).copies = s.copies ∧
    (s.shotDown t asid hit).towers = s.towers.modify t (fun y => { y with sdbusy := false }) := by
  obtain ⟨r, ended⟩ := endRanges_eq s t asid
  rw [State.shotDown, ended]
  exact ⟨⟨rfl, rfl, rfl, rfl, rfl, rfl⟩, rfl, rfl⟩

theorem shotDown_idle (h : t < s.towers.length) : ((s.shotDown t asid hit).tower t).sdbusy = false := by
  have ends : (s.shotDown t asid hit).tower t = (s.setTower t (fun y => { y with sdbusy := false })).tower t := by
    rw [State.tower, shotDown_keeps.2.2]
    rfl
  rw [ends, tower_setTower h]

theorem shotDown_retries : ∀ c ∈ (s.shotDown t asid hit).ctxs, c.held = true → c.asid = asid → c.retry = true := retryHeld_retries

theorem shotDown_ranges (h : s.walk t asid 0 = .noSpace) : ∀ r ∈ (s.shotDown t asid hit).ranges, r ∈ s.ranges ∧ r.asid ≠ asid := by
  have gone := endRanges_gone h
  have other : ∀ r ∈ (s.endRanges t asid).ranges, r.asid ≠ asid := by
    rw [gone]
    exact fun r hr => bne_iff_ne.mp (List.mem_filter.mp hr).2
  have ranges : (s.shotDown t asid hit).ranges = (s.endRanges t asid).ranges := relocate_others other
  rw [ranges]
  exact fun r hr => ⟨List.mem_of_mem_filter (gone ▸ hr), other r hr⟩

end ShotDown

section ShootEnds
variable {s : State} {t : Nat} (hu : s.args.unit % 16 = t) (hb : (s.tower t).sdbusy = true) (ho : s.shootOpen (s.tower t) = false)
include hu hb ho

theorem shootDownDone_ends : exec .shootDownDone s = .next ((s.shoot (s.tower t).sdrun.2.1 (s.tower t).sdrun.2.2.toNat (s.tower t).sdrun.1).shotDown t
    (s.tower t).sdrun.2.1 (inShoot (s.tower t).sdrun.2.2.toNat (s.tower t).sdrun.1)) := by
  show execShootDownDone s = _
  rw [execShootDownDone, hu, if_neg (by simp [hb, ho])]
  rfl

theorem shootDownDone_leaves (ht : t < s.towers.length) : ∃ z, exec .shootDownDone s = .next z ∧ (z.tower t).sdbusy = false ∧ s.sameMemory z ∧
    (∀ c ∈ z.copies, c ∈ s.copies ∧
      ¬ (c.asid = (s.tower t).sdrun.2.1 ∧ inShoot (s.tower t).sdrun.2.2.toNat (s.tower t).sdrun.1 (word (128 * c.vline)) = true)) ∧
    (∀ c ∈ z.ctxs, c.held = true → c.asid = (s.tower t).sdrun.2.1 → c.retry = true) ∧
    (s.walk t (s.tower t).sdrun.2.1 0 = .noSpace → ∀ r ∈ z.ranges, r ∈ s.ranges ∧ r.asid ≠ (s.tower t).sdrun.2.1) := by
  have run := shootDownDone_ends hu hb ho
  generalize (s.tower t).sdrun.2.1 = asid at run ⊢
  generalize (s.tower t).sdrun.2.2.toNat = size at run ⊢
  generalize (s.tower t).sdrun.1 = base at run ⊢
  obtain ⟨walks, bytes, ranges⟩ := shoot_keeps s asid size base
  have copies := (mem_shoot s asid size base).2.2
  generalize s.shoot asid size base = a at run walks bytes ranges copies
  obtain ⟨kept, same, -⟩ := shotDown_keeps (s := a) (t := t) (asid := asid) (hit := inShoot size base)
  refine ⟨_, run, shotDown_idle (by rw [walks.towers]; exact ht), (bytes.trans kept).sameMemory, fun c hc => copies c (same ▸ hc),
    shotDown_retries, fun h r hr => ?_⟩
  obtain ⟨listed, other⟩ := shotDown_ranges ((walks.walk t asid 0).trans h) r hr
  exact ⟨ranges ▸ listed, other⟩

end ShootEnds

/-! ## Migrations (R475) -/

/-- Two changes of a tower that come to one. -/
theorem setTower_setTower {s : State} {t : Nat} {f g k : Tower → Tower} (ht : t < s.towers.length) (h : g (f (s.tower t)) = k (s.tower t)) :
    (s.setTower t f).setTower t g = s.setTower t k := by
  have towers : (s.towers.modify t f).modify t g = s.towers.modify t k := by
    refine List.ext_getElem? fun i => ?_
    rw [List.getElem?_modify, List.getElem?_modify, List.getElem?_modify]
    by_cases hi : t = i
    · subst hi
      rw [State.tower, List.getElem?_eq_getElem ht] at h
      simp only [List.getElem?_eq_getElem ht, if_true]
      exact congrArg some h
    · simp only [if_neg hi]
      cases s.towers[i]? <;> rfl
  exact congrArg (fun l => { s with towers := l }) towers

section Begin
variable {u : State} {v : Word} {t : Nat}

theorem beginMigration_names (hv : v.getLsbD 0 = false) : u.beginMigration t v =
    u.setTower t (fun y => { y with mgasid := v.extractLsb' 48 16, mgres := v.extractLsb' 2 2 }) := by
  simp only [State.beginMigration, hv, Bool.not_false, if_true]

variable (ht : t < u.towers.length) (hv : v.getLsbD 0 = true) (hc : canonical (u.tower t).mgva = true)
  (table : (u.tower 0).astbase.getLsbD 0 = true)
include ht hv hc table

theorem beginMigration_leaf {l : Leaf} {k : Nat} (h : u.walk t (v.extractLsb' 48 16) (u.tower t).mgva = .leaf l k) : u.beginMigration t v =
    u.setTower t (fun y => { y with
      mgasid := v.extractLsb' 48 16, mgres := v.extractLsb' 2 2, mgbusy := true
      mgrun := ((u.tower t).mgva, v.extractLsb' 48 16, (u.tower t).mgdst), mgleaf := some (l, u.entryNow l) }) := by
  simp only [State.beginMigration, hv, hc, State.bootMapped, table, h, Bool.not_true, Bool.and_false, Bool.or_self, Bool.false_eq_true, if_false]
  exact setTower_setTower ht rfl

theorem beginMigration_absent {l e p k : Nat} (h : u.walk t (v.extractLsb' 48 16) (u.tower t).mgva = .absent l e p k) : u.beginMigration t v =
    u.setTower t (fun y => { y with
      mgasid := v.extractLsb' 48 16, mgres := v.extractLsb' 2 2, mgbusy := true
      mgrun := ((u.tower t).mgva, v.extractLsb' 48 16, (u.tower t).mgdst), mgleaf := none }) := by
  simp only [State.beginMigration, hv, hc, State.bootMapped, table, h, Bool.not_true, Bool.and_false, Bool.or_self, Bool.false_eq_true, if_false]
  exact setTower_setTower ht rfl

end Begin

section Migration
variable {s : State} {v : Word} {t : Nat} (hu : s.args.unit % 16 = t)
include hu

section Written
variable {r : Req} (h : s.windowStore (towerReg t 0x28) = some (r, v))
include h

theorem migration_ignored (hb : ((s.dropReq r.id).tidy.tower t).mgbusy = true) : exec .migration s = .next (s.dropReq r.id).tidy := by
  show execMigration s = _
  simp only [execMigration, hu, h, if_pos (show (s.tower t).mgbusy = true from hb)]

theorem migration_begins (hb : ((s.dropReq r.id).tidy.tower t).mgbusy = false)
    (hw : ∀ p, (s.dropReq r.id).tidy.walk t (v.extractLsb' 48 16) ((s.dropReq r.id).tidy.tower t).mgva ≠ .waits p) :
    exec .migration s = .next ((s.dropReq r.id).tidy.beginMigration t v) := by
  have same := State.WalksAs.walk (arrives_walks (.inr ⟨r, h, rfl⟩)) t (v.extractLsb' 48 16) (s.tower t).mgva
  show execMigration s = _
  simp only [execMigration, hu, h, show (s.tower t).mgbusy = false from hb, Bool.false_eq_true, if_false]
  split
  · next p found => exact absurd (same.trans found) (hw p)
  · rfl

end Written

section Goes
variable (h : s.windowStore (towerReg t 0x28) = none)
include h

theorem migration_rests (hb : (s.tower t).mgbusy = false) : exec .migration s = .next s := by
  show execMigration s = _
  simp only [execMigration, hu, h, hb, Bool.not_false, if_true]

variable (hb : (s.tower t).mgbusy = true)
include hb

theorem migration_ends {z : State} {k : Nat}
    (hz : s.migrate t (s.tower t).mgrun.2.1 (s.tower t).mgrun.1 (s.tower t).mgleaf (s.tower t).mgrun.2.2.toNat = (z, some k)) :
    exec .migration s = .next (z.setTower t (fun y => { y with mgbusy := false, mgres := BitVec.ofNat 2 k, mgleaf := none })) := by
  show execMigration s = _
  simp only [execMigration, hu, h, hb, hz, Bool.not_true, Bool.false_eq_true, if_false]

theorem migration_waits {z : State}
    (hz : s.migrate t (s.tower t).mgrun.2.1 (s.tower t).mgrun.1 (s.tower t).mgleaf (s.tower t).mgrun.2.2.toNat = (z, none)) :
    exec .migration s = .next z := by
  show execMigration s = _
  simp only [execMigration, hu, h, hb, hz, Bool.not_true, Bool.false_eq_true, if_false]

end Goes

end Migration

/-- A page without a leaf: a malformed destination, or no page. -/
theorem migrate_none {s : State} {n dst : Nat} {asid : BitVec 16} {va : Word} : s.migrate n asid va none dst =
    (s, some (if 3 ≤ bitsOf dst 11 9 ∨ (bitsOf dst 11 9 ≠ 0 ∧ 2 ≤ bitsOf dst 8 7) ∨
      s.rangeOk (bitsOf dst 8 7) (bitsOf dst 11 9) (bitsOf dst 51 12 * 4096) 65536 = false then 1 else 3)) := by
  simp only [State.migrate, Bool.or_eq_true, Bool.and_eq_true, decide_eq_true_eq, bne_iff_ne, Bool.not_eq_true', or_assoc]

/-! ## The fates of a page fault (R470, R471) -/

section Fates
variable {s : State} {f : PageFault}

theorem leaveSource_none (hs : f.source = []) : s.leaveSource f = s := by
  rw [State.leaveSource, hs]
  rfl

theorem resolve_leaf (hs : f.source = []) {l : Leaf} {k : Nat} (h : s.walk f.tower f.asid f.addr = .leaf l k) :
    s.resolve f = s.endPageFault f true := by
  simp only [State.resolve, h, leaveSource_none hs]

theorem resolve_absent (hs : f.source = []) {l e p k : Nat} (h : s.walk f.tower f.asid f.addr = .absent l e p k) :
    (s.mod.duty.getLsbD 0 = false → bitsOf e 2 1 = 0 → s.resolve f = s.endPageFault f false) ∧
      (s.mod.duty.getLsbD 0 = true → s.resolve f = s.toHost f l) := by
  refine ⟨fun duty kind => ?_, fun duty => ?_⟩
  · simp only [State.resolve, h, duty, kind, leaveSource_none hs, if_true, Bool.false_eq_true, if_false]
  · simp only [State.resolve, h, duty, if_true]

theorem resolve_waits {p : Nat} (h : s.walk f.tower f.asid f.addr = .waits p) : s.resolve f = s.wakeAt p := by
  simp only [State.resolve, h]

variable (only : s.pageFaults = [f])
include only

theorem hwFaultResolve_resolves (hid : f.id = s.args.unit) (kind : f.kind = 1) (state : f.state = 0) :
    exec .hwFaultResolve s = .next ((s.resolve f).dropEviction f.tower) := by
  have found : s.pageFaults.find? (fun f => f.id == s.args.unit && f.kind == 1 && f.state == 0) = some f := by
    rw [only, List.find?_cons_of_pos (by simp [hid, kind, state])]
  show execHwFaultResolve s = _
  simp only [execHwFaultResolve, found]

/-- The only page fault is over. -/
theorem endPageFault_last (ok : Bool) : s.endPageFault f ok =
    if ok then State.pageArrived { (s.holdOff 0 (2 ^ 33 + f.id)).holdOff 0 (2 ^ 60 + f.id) with pageFaults := [] } f.asid f.addr
    else State.pageFailed { (s.holdOff 0 (2 ^ 33 + f.id)).holdOff 0 (2 ^ 60 + f.id) with pageFaults := [] } f.asid f.addr := by
  have none_ : s.pageFaults.filter (fun g => g.id != f.id) = [] := by rw [only]; simp
  rw [State.endPageFault, none_]

theorem toHost_last (hs : f.source = []) (l : Nat) : s.toHost f l = { (s.holdOff 0 (2 ^ 33 + f.id)).holdOff 0 (2 ^ 60 + f.id) with
    pageFaults := [{ f with state := 1, host := true, info := f.info % 4 + 4 * l + 32 * (f.info / 32 % 2) }] } := by
  have marked : ((s.holdOff 0 (2 ^ 33 + f.id)).holdOff 0 (2 ^ 60 + f.id)).pageFaults.map (fun g => if g.id == f.id then
      { g with state := 1, host := true, info := f.info % 4 + 4 * l + 32 * (f.info / 32 % 2), source := [] } else g) =
      [{ f with state := 1, host := true, info := f.info % 4 + 4 * l + 32 * (f.info / 32 % 2) }] := by
    rw [show ((s.holdOff 0 (2 ^ 33 + f.id)).holdOff 0 (2 ^ 60 + f.id)).pageFaults = [f] from only, List.map_singleton,
      if_pos (beq_self_eq_true _), ← hs]
  rw [State.toHost, leaveSource_none hs]
  exact congrArg (fun p => { (s.holdOff 0 (2 ^ 33 + f.id)).holdOff 0 (2 ^ 60 + f.id) with pageFaults := p }) marked

end Fates

/-! ## Records in the host's ring, and its answers (16 R485, R487) -/

/-- The size of the host's fault ring, and the place of its next record. -/
def Module.ringSize (m : Module) : Nat := 2 ^ min m.frlog.toNat 16
def Module.ringPlace (m : Module) : Nat := Place.host (m.frbase.toNat + 32 * (m.frtail.toNat % m.ringSize))

section Post
variable {s : State} {f : PageFault} (only : s.pageFaults = [f]) (hid : f.id = s.args.unit) (state : f.state = 1) (kind : f.kind = 1)
include only hid state

theorem faultRecordPost_found : s.pageFaults.find? (fun f => f.id == s.args.unit && f.state == 1) = some f := by
  rw [only, List.find?_cons_of_pos (by simp [hid, state])]

include kind

theorem faultRecordPost_full (h : s.mod.ringSize ≤ s.mod.frtail.toNat - s.mod.frhead.toNat) : exec .faultRecordPost s = .next s := by
  have full : 2 ^ min s.mod.frlog.toNat 16 ≤ s.mod.frtail.toNat - s.mod.frhead.toNat := h
  have host : ¬ (decide (f.kind = 3) && !f.host) = true := by simp [kind]
  show execFaultRecordPost s = _
  simp only [execFaultRecordPost, faultRecordPost_found only hid state, if_neg host, if_pos full]

variable (h : s.mod.frtail.toNat - s.mod.frhead.toNat < s.mod.ringSize)
include h

theorem faultRecordPost_waits {t : State} (hw : s.moduleWrite 66 s.mod.ringPlace 32 = .error t) : exec .faultRecordPost s = .next t := by
  have room : ¬ 2 ^ min s.mod.frlog.toNat 16 ≤ s.mod.frtail.toNat - s.mod.frhead.toNat := Nat.not_le_of_lt h
  have host : ¬ (decide (f.kind = 3) && !f.host) = true := by simp [kind]
  rw [Module.ringPlace, Module.ringSize] at hw
  show execFaultRecordPost s = _
  simp only [execFaultRecordPost, faultRecordPost_found only hid state, if_neg host, if_neg room, hw]

theorem faultRecordPost_posts (hw : s.moduleWrite 66 s.mod.ringPlace 32 = .ok (s.holdOff 0 66)) : exec .faultRecordPost s =
    .next (State.interrupt { (s.holdOff 0 66).writeAt none s.mod.ringPlace (faultRecord f s.mod.frtail.toNat) with
      pageFaults := [{ f with state := 2, seq := s.mod.frtail.toNat % 2 ^ 32 }]
      mod := { s.mod with frtail := s.mod.frtail + 1 } } 64) := by
  have room : ¬ 2 ^ min s.mod.frlog.toNat 16 ≤ s.mod.frtail.toNat - s.mod.frhead.toNat := Nat.not_le_of_lt h
  have host : ¬ (decide (f.kind = 3) && !f.host) = true := by simp [kind]
  have three : ¬ f.kind = 3 := by simp [kind]
  have kept : s.pageFaults.map (fun g => if g.id == f.id then { g with state := 2, seq := s.mod.frtail.toNat % 2 ^ 32 } else g) =
      [{ f with state := 2, seq := s.mod.frtail.toNat % 2 ^ 32 }] := by
    rw [only, List.map_singleton, if_pos (beq_self_eq_true _)]
  have mod : ((s.holdOff 0 66).writeAt none s.mod.ringPlace (faultRecord f s.mod.frtail.toNat)).mod = s.mod :=
    ((putAt_keeps (s.holdOff 0 66) none s.mod.ringPlace (faultRecord f s.mod.frtail.toNat)).1.trans (notes_record ..).writes).mod
  rw [Module.ringPlace, Module.ringSize] at hw mod ⊢
  show execFaultRecordPost s = _
  simp only [execFaultRecordPost, faultRecordPost_found only hid state, if_neg host, if_neg room, hw, if_neg three]
  rw [kept, mod]

end Post

section Answer
variable {s u : State} {v : Word} {f : PageFault}

theorem faultAnswer_waits (h : s.hostAcquires 0x40028 = false) : exec .faultAnswer s = .next s := by
  show execFaultAnswer s = _
  simp only [execFaultAnswer, h, Bool.not_false, if_true]

variable (ha : s.arrives u v 0x40028) (h : s.hostAcquires 0x40028 = true) (only : u.pageFaults = [f])
include ha h only

/-- An answer that names another record. -/
theorem faultAnswer_other (seq : f.seq ≠ wbits v 63 32) : exec .faultAnswer s = .next u := by
  have none_ : u.answered v = none := by
    rw [State.answered, only]
    simp [seq]
  show execFaultAnswer s = _
  simp only [execFaultAnswer, h, regEvent_arrives ha, none_, Bool.not_true, Bool.false_eq_true, if_false]

theorem faultAnswer_ends (state : f.state = 2) (kind : f.kind = 1) (zeros : wbits v 31 1 = 0) (seq : f.seq = wbits v 63 32) :
    exec .faultAnswer s = .next (u.endPageFault f (!v.getLsbD 0)) := by
  have found : u.answered v = some f := by
    rw [State.answered, only, List.find?_cons_of_pos (by simp [state, seq])]
  have good : ¬ (wbits v 31 1 != 0) = true := by simp [zeros]
  show execFaultAnswer s = _
  simp only [execFaultAnswer, h, regEvent_arrives ha, found, Bool.not_true, Bool.false_eq_true, if_false, if_neg good, if_pos kind]

end Answer

/-! ## The obligation -/

/-- Settles O38. -/
theorem translationEvents : Obligations.TranslationEvents := by
  intro s u v t f arrives reg x overWith
  refine ⟨fun ht unit => ?_, fun asid dst => ?_, fun only hid kind state hs => ?_, fun only hid state kind => ?_,
    fun ha only state kind zeros => ?_⟩
  · have hu : s.args.unit % 16 = t := by rw [unit, Nat.mod_eq_of_lt ht]
    refine ⟨fun ha => ?_, fun ha => ?_, ?_, fun r hr hu' => ?_⟩
    · intro key w
      refine ⟨fun h0 => keyLoad_zero hu ha h0, fun h0 hs => ⟨_, keyLoad_loads hu ha h0, rfl, rfl, rfl, rfl, rfl, fun l => ?_⟩⟩
      exact loadKey_lineKey (setTower_inv (arrives_inv ha hs)) x.kslot.toNat key l
    · intro w
      refine ⟨fun hb => shootDown_ignored hu ha hb, fun hb hv => shootDown_names hu ha hb hv, fun hb hv _ => ⟨_, shootDown_runs hu ha hb hv, rfl, ?_, ?_⟩⟩
      · exact State.KeepsBytes.sameMemory ⟨rfl, rfl, rfl, rfl, rfl, rfl⟩
      · exact mem_shoot w (v.extractLsb' 48 16) (v.extractLsb' 46 2).toNat x.sdva
    · intro y asid hit
      refine ⟨fun hb hreqs hclaims hlen => ?_, fun hb => shootDownDone_waits hu (.inl hb), fun r hr young who space place inside here => ?_,
        fun c hc granted who cells => ?_, fun none_ hb => ⟨fun z k hz => migration_ends hu none_ hb hz, fun z hz => migration_waits hu none_ hb hz⟩,
        fun none_ hb => migration_rests hu none_ hb⟩
      · have idle : s.shootOpen (s.tower t) = false := by simp only [State.shootOpen, hreqs, hclaims, List.any_nil, Bool.or_self]
        exact shootDownDone_leaves hu hb idle hlen
      · exact shootDownDone_waits hu (.inr (shootOpen_of_req hr young who space place inside here))
      · exact shootDownDone_waits hu (.inr (shootOpen_of_claim hc granted who cells))
    · subst hu'
      refine ⟨fun hb => migration_ignored hu hr hb, fun hb hv hw => ?_, fun hb hv hc table ht => ⟨fun l k hw => ?_, fun l e p k hw => ?_⟩⟩
      · exact (migration_begins hu hr hb hw).trans (congrArg Host.Outcome.next (beginMigration_names hv))
      · exact (migration_begins hu hr hb fun p => by rw [hw]; nofun).trans (congrArg Host.Outcome.next (beginMigration_leaf ht hv hc table hw))
      · exact (migration_begins hu hr hb fun p => by rw [hw]; nofun).trans (congrArg Host.Outcome.next (beginMigration_absent ht hv hc table hw))
  · intro skew
    refine ⟨fun h => ?_, fun small plain inside => ?_⟩
    · rw [migrate_none, if_pos (or_assoc.mp (.inl h))]
    · rw [migrate_none, if_neg]
      rintro (h | ⟨h, two⟩ | h)
      · exact absurd h (Nat.not_le_of_lt small)
      · exact plain.elim h (Nat.not_lt_of_le two)
      · cases inside.symm.trans h
  · have fate {z : State} (h : s.resolve f = z) : exec .hwFaultResolve s = .next (z.dropEviction f.tower) :=
      h ▸ hwFaultResolve_resolves only hid kind state
    exact ⟨fun l k h => fate ((resolve_leaf hs h).trans (endPageFault_last only true)),
      fun l e p k h duty zero => fate (((resolve_absent hs h).1 duty zero).trans (endPageFault_last only false)),
      fun l e p k h duty => fate (((resolve_absent hs h).2 duty).trans (toHost_last only hs l)), fun p h => fate (resolve_waits h)⟩
  · refine ⟨fun h => faultRecordPost_full only hid state kind h, fun h stuck own host leased => ?_, fun h stuck own host leased => ?_⟩
    · refine faultRecordPost_waits only hid state kind h ((moduleWrite_goes stuck own host 66).trans ?_)
      rw [leased]
      rfl
    · refine faultRecordPost_posts only hid state kind h ((moduleWrite_goes stuck own host 66).trans ?_)
      rw [leased]
      rfl
  · refine ⟨fun h => faultAnswer_waits h, fun h seq ok => ?_, fun h seq ok => ?_, fun h seq => faultAnswer_other ha h only seq⟩
    · refine (faultAnswer_ends ha h only state kind zeros seq).trans ?_
      rw [ok, endPageFault_last only]
      rfl
    · refine (faultAnswer_ends ha h only state kind zeros seq).trans ?_
      rw [ok, endPageFault_last only]
      rfl

end Sys2Proof.Machine

/-! PROOF. O48: reset, the firmware image, towers, the boot launch and attestation (17 R489 to R496). -/

namespace Sys2Proof.Machine

/-! ## Writes of the boot sequencer -/

theorem writes_writeAt (s : State) (key : Option (BitVec 512)) (p : Nat) (bs : List Byte) : s.Writes (s.writeAt key p bs) :=
  (putAt_keeps s key p bs).1.trans (notes_record ..).writes

theorem putAt_towers (s : State) (key : Option (BitVec 512)) (p : Nat) (bs : List Byte) : (s.putAt key p bs).towers = s.towers := by
  have rekeyed : (s.rekey key p).towers = s.towers := by
    dsimp only [State.rekey]
    split <;> rfl
  have fitted (u : State) (k : Nat) : (u.fitL2 k).towers = u.towers := by
    unfold State.fitL2
    split_ifs
    · rfl
    · split
      · rfl
      · split <;> rfl
  unfold State.putAt
  generalize s.rekey key p = t at rekeyed
  dsimp only
  split
  · exact (fitted ..).trans rekeyed
  · exact rekeyed

theorem writeAt_dramPlace (s : State) (key : Option (BitVec 512)) (p : Nat) (bs : List Byte) (t w skew : Nat) :
    (s.writeAt key p bs).dramPlace t w skew = s.dramPlace t w skew := by
  have towers : (s.writeAt key p bs).towers = s.towers := putAt_towers s key p bs
  rw [State.dramPlace, State.tower, towers, State.dramPlace, State.tower]

theorem writes_putTower (n : Nat) (s : State) (w : Nat) (bs : List Byte) : s.Writes (State.putTower n s w bs) := by
  induction n generalizing s w bs with
  | zero => exact .refl s
  | succ n ih =>
    rw [State.putTower]
    split
    · exact .refl s
    · exact (writes_writeAt ..).trans (ih ..)

/-! ## Bytes of a chunk -/

/-- Single bytes written from a place upwards. -/
def State.putBytes (s : State) (p : Nat) (l : List (Byte × Nat)) : State := l.foldl (fun t x => t.writeAt none (p + x.2) [x.1]) s

section PutBytes
variable {s : State} {p : Nat}

theorem writes_putBytes (l : List (Byte × Nat)) (s : State) : s.Writes (s.putBytes p l) := by
  induction l generalizing s with
  | nil => exact .refl s
  | cons x l ih => exact (writes_writeAt ..).trans (ih _)

theorem byteAt_writeAt (hs : s.Inv) {q : Nat} (b : Byte) (hq : q / 128 = p / 128) :
    (s.writeAt none p [b]).byteAt none q = if q = p then b else s.byteAt none q := by
  refine (byteAt_congr rfl rfl rfl none q).trans ((byteAt_putAt hs none [b] hq).trans ?_)
  rw [List.length_singleton]
  by_cases same : q = p
  · rw [if_pos same, if_pos (by omega), same, Nat.sub_self]
    rfl
  · rw [if_neg same, if_neg (by omega)]

/-- Bytes written one by one within a line. -/
theorem byteAt_putBytes (bs : List Byte) (k : Nat) (hs : s.Inv) (fit : p % 128 + k + bs.length ≤ 128) {q : Nat} (hq : q / 128 = p / 128) :
    (s.putBytes p (bs.zipIdx k)).byteAt none q =
      if p + k ≤ q ∧ q < p + k + bs.length then (bs[q - (p + k)]?).getD 0 else s.byteAt none q := by
  induction bs generalizing s k with
  | nil => rw [if_neg (by simp)]; rfl
  | cons b bs ih =>
    rw [List.length_cons] at fit ⊢
    have line : q / 128 = (p + k) / 128 := by omega
    rw [List.zipIdx_cons, State.putBytes, List.foldl_cons]
    refine (ih (k + 1) (writeAt_inv hs ..) (by omega)).trans ?_
    rw [byteAt_writeAt hs b line]
    by_cases first : q = p + k
    · subst first
      rw [if_neg (by omega), if_pos rfl, if_pos (by omega), Nat.sub_self]
      rfl
    · rw [if_neg first]
      by_cases later : p + (k + 1) ≤ q ∧ q < p + (k + 1) + bs.length
      · obtain ⟨j, rfl⟩ := Nat.exists_eq_add_of_le later.1
        rw [if_pos later, if_pos (by omega), Nat.add_sub_cancel_left, show p + (k + 1) + j - (p + k) = j + 1 by omega, List.getElem?_cons_succ]
      · rw [if_neg later, if_neg (by omega)]

end PutBytes

section Chunk
variable {s : State} {o : Nat}

/-- A chunk of the image lies within a line. -/
theorem dramPlace_chunk (h : o % 4 = 0) {i : Nat} (hi : i < 4) : s.dramPlace 0 (o + i) 0 = s.dramPlace 0 o 0 + i := by
  have line : (o + i) / 128 = o / 128 := by omega
  have off : (o + i) % 128 = o % 128 + i := by omega
  have plain (base w : Nat) : dramAt base 0 w 0 = Place.dram 0 (w / 128 % 512) (w / 128 / 512) (w % 128) := rfl
  rw [State.dramPlace, State.dramPlace, plain, plain, line, off, Place.dram, Place.dram, Nat.add_assoc]

theorem dramPlace_mod : s.dramPlace 0 o 0 % 128 = o % 128 := by
  have plain (base w : Nat) : dramAt base 0 w 0 = Place.dram 0 (w / 128 % 512) (w / 128 / 512) (w % 128) := rfl
  rw [State.dramPlace, plain, Place.dram, Nat.mul_add_mod', Nat.mod_mod]

theorem chunk_putBytes (h : o % 4 = 0) (l : List (Byte × Nat)) (hl : ∀ x ∈ l, x.2 < 4) :
    l.foldl (fun (t : State) x => t.writeAt none (t.dramPlace 0 (o + x.2) 0) [x.1]) s = s.putBytes (s.dramPlace 0 o 0) l := by
  induction l generalizing s with
  | nil => simp only [State.putBytes, List.foldl_nil]
  | cons x l ih =>
    obtain ⟨hx, hl⟩ := List.forall_mem_cons.mp hl
    rw [List.foldl_cons, ih hl, writeAt_dramPlace, dramPlace_chunk h hx]
    rfl

end Chunk

/-! ## The image (R490, R493) -/

theorem verifyImage_answers (s : State) : s.verifyImage.answers = s.answers := by
  dsimp only [State.verifyImage]
  split_ifs <;> rfl

/-- What the verification of an image leaves in the registers and the sequencer. -/
theorem verifyImage_leaves (s : State) (good : Bool)
    (h : hssVerify Config.trustedKey (sha256 (s.towerBytes 0 s.header.sigOff)) (s.towerBytes s.header.sigOff s.header.sigSize) = good) :
    s.verifyImage.mod.meas = BitVec.ofNat 256 (leNat (sha256 (s.towerBytes 0 s.header.sigOff))) ∧
      s.verifyImage.mod.berr = (if good then (if s.header.svn < s.mod.fusesvn.toNat then 3 else 0) else 2) ∧
      s.verifyImage.phase = (if good && decide (s.mod.fusesvn.toNat ≤ s.header.svn) then .towers 0 else .failed) ∧
      s.verifyImage.fwsvn = (if good && decide (s.mod.fusesvn.toNat ≤ s.header.svn) then word s.header.svn else s.fwsvn) := by
  unfold State.verifyImage
  dsimp only
  rw [h]
  cases good with
  | false => exact ⟨rfl, rfl, rfl, rfl⟩
  | true =>
    by_cases old : s.header.svn < s.mod.fusesvn.toNat
    · rw [decide_eq_false (Nat.not_le_of_lt old)]
      rw [if_neg (show ¬ (!true) = true by decide), if_pos old, if_pos old]
      exact ⟨rfl, rfl, rfl, rfl⟩
    · rw [decide_eq_true (Nat.le_of_not_lt old)]
      rw [if_neg (show ¬ (!true) = true by decide), if_neg old, if_neg old]
      exact ⟨rfl, rfl, rfl, rfl⟩

section Release
variable {s t : State} (held : s.phase = .held) (up : s.stagingWaits = false)
  (ht : t = State.putTower (2 ^ 19) s.resetRegisters 0 (s.flash.take (2 ^ 26)))
include held up ht

theorem resetRelease_verifies (h : t.header.passes = true) : exec .resetRelease s = .next t.verifyImage := by
  have staged : t = State.putTower (stagingSize / 128) s.resetRegisters 0 (s.resetRegisters.flash.take stagingSize) := ht
  show execResetRelease s = _
  rw [execResetRelease, if_neg (by simp [held, up])]
  dsimp only
  rw [← staged]
  exact if_pos h

theorem resetRelease_stages (h : t.header.passes = false) :
    exec .resetRelease s = .next { t with mod := { t.mod with berr := 1 }, phase := .staged } := by
  have staged : t = State.putTower (stagingSize / 128) s.resetRegisters 0 (s.resetRegisters.flash.take stagingSize) := ht
  show execResetRelease s = _
  rw [execResetRelease, if_neg (by simp [held, up])]
  dsimp only
  rw [← staged]
  exact if_neg (by rw [h]; exact Bool.false_ne_true)

end Release

/-! ## Towers (R492) -/

section Towers
variable {s : State} {n : Nat} (phase : s.phase = .towers n) (h : n < 16)
include phase h

theorem towerStart_starts (flag : s.args.flag = true) (up : (s.tower n).rcDown = false) : exec .towerStart s = .next { s with
    mod := { s.mod with tup := s.mod.tup ||| BitVec.twoPow 16 n }, phase := .towers (n + 1) } := by
  show execTowerStart s = _
  simp only [execTowerStart, phase, if_neg (Nat.not_le_of_lt h), flag, up, Bool.not_false, Bool.and_self, if_true]

theorem towerStart_fails (fails : s.args.flag = false ∨ (s.tower n).rcDown = true) : exec .towerStart s =
    .next { s.setTower n (fun x => { x with rcDown := true }) with
      mod := { s.mod with berr := 4 }, phase := if n = 0 then .failed else .towers (n + 1) } := by
  have fails : ¬ (s.args.flag && !(s.tower n).rcDown) = true := by rcases fails with fails | fails <;> simp [fails]
  show execTowerStart s = _
  simp only [execTowerStart, phase, if_neg (Nat.not_le_of_lt h), if_neg fails]

end Towers

/-! ## Delivery (R496) -/

section Delivery
variable {s : State} (up : s.doeUp = true) (awake : s.stagingWaits = false)
include up awake

theorem doe_busy (h : s.mod.berr ≠ 1) : exec .doeImageChunk s = .next (s.doeAnswer 1) ∧ exec .doeImageDone s = .next (s.doeAnswer 1) := by
  have other : (s.mod.berr != 1) = true := bne_iff_ne.mpr h
  constructor
  · show execDoeImageChunk s = _
    simp only [execDoeImageChunk]
    rw [if_neg (by simp [up, awake]), if_pos (by simp only [other, Bool.true_or])]
  · show execDoeImageDone s = _
    rw [execDoeImageDone, if_neg (by simp [up, awake]), if_pos (by rw [other, Bool.true_or])]

variable (h : s.mod.berr = 1)
include h

theorem doeImageDone_verifies (hp : s.header.passes = true) : exec .doeImageDone s = .next (s.verifyImage.doeAnswer 0) := by
  show execDoeImageDone s = _
  rw [execDoeImageDone, if_neg (by simp [up, awake]), if_neg (by simp [h, hp])]

theorem doeImageChunk_writes (h4 : s.args.unit % 4 = 0) (hl : s.args.bytes.length = 4) (fit : s.args.unit + 4 ≤ 2 ^ 26) :
    exec .doeImageChunk s = .next ((s.putBytes (s.dramPlace 0 s.args.unit 0) s.args.bytes.zipIdx).doeAnswer 0) := by
  have small : ∀ x ∈ s.args.bytes.zipIdx, x.2 < 4 := fun x hx => by
    have := (List.mem_zipIdx hx).2.1
    omega
  have room : ¬ stagingSize < s.args.unit + 4 := Nat.not_lt_of_le fit
  show execDoeImageChunk s = _
  simp only [execDoeImageChunk]
  rw [if_neg (by simp [up, awake]), if_neg (by simp [h, h4, hl, room]), chunk_putBytes h4 _ small]

end Delivery

/-! ## The boot launch (R491) -/

/-- What the passing of a core to an address space leaves. -/
theorem ownCore_keeps (s : State) (asid : BitVec 16) (k : Nat) : (s.ownCore asid k).self = s.self ∧ (s.ownCore asid k).crews = s.crews ∧
    (s.ownCore asid k).phase = s.phase ∧ (s.ownCore asid k).tideOn = s.tideOn ∧ (s.ownCore asid k).tide = s.tide ∧
    (s.ownCore asid k).codeSize = s.codeSize := by
  rw [State.ownCore]
  split
  · exact ⟨rfl, rfl, rfl, rfl, rfl, rfl⟩
  · exact ⟨rfl, rfl, rfl, rfl, rfl, rfl⟩

/-- The strand of the boot launch. -/
def bootStrand (id : Nat) (entry data : Word) : Strand := { freshStrand 0 id 0 entry data 0 [] with priv := true }

theorem placeBoot_places {s : State} (entry data : Word) (h : s.self.crew = 0) :
    (s.placeBoot entry data).self = bootStrand (s.serial + 1) entry data ∧
      (s.placeBoot entry data).crews = s.crews ++ [{ id := s.serial + 1, ctx := bootCtx, isLocal := true, towers := 1, cores := [0] }] ∧
      (s.placeBoot entry data).phase = s.phase ∧ (s.placeBoot entry data).tideOn = s.tideOn ∧ (s.placeBoot entry data).tide = s.tide ∧
      (s.placeBoot entry data).codeSize = s.codeSize := by
  obtain ⟨self, crews, phase, tideOn, tide, codeSize⟩ := ownCore_keeps { s with
    serial := s.serial + 1, crews := s.crews ++ [{ id := s.serial + 1, ctx := bootCtx, isLocal := true, towers := 1, cores := [0] }] } 0 0
  have free : (State.setCtx (State.ownCore { s with serial := s.serial + 1
                                                    crews := s.crews ++ [{ id := s.serial + 1, ctx := bootCtx, isLocal := true, towers := 1, cores := [0] }] } 0 0)
      bootCtx (fun x => { x with launch := some {} })).self.crew = 0 := (congrArg Strand.crew self).trans h
  rw [State.placeBoot]
  dsimp only
  rw [if_pos free]
  exact ⟨rfl, crews, phase, tideOn, tide, codeSize⟩

/-- Its data base stands in g7, and zeros in the others. -/
theorem readG_bootStrand (id : Nat) (entry data : Word) (r : Nat) : (bootStrand id entry data).readG r = if r = 7 then data else 0 := by
  show (freshStrand 0 id 0 entry data 0 []).readG r = _
  by_cases h0 : r = 0
  · rw [h0]
    rfl
  by_cases low : r < 10
  · rw [readG_freshStrand _ _ _ _ _ _ _ h0 (by omega)]
    interval_cases r <;> rfl
  · rw [if_neg (by omega)]
    by_cases high : r < 32
    · exact readG_freshStrand_rest _ _ _ _ _ _ _ (by omega) high
    · rw [Strand.readG, if_neg h0, Vector.getElem?_eq_none (by omega), Option.getD_none]

/-- The image copied to where the boot mapping finds it, and the module that runs. -/
def State.imageCopied (s : State) : State :=
  State.putTower (2 ^ 18) (State.putTower (2 ^ 17) s 0 (s.towerBytes s.header.codeOff s.header.codeSize))
    ((s.header.codeSize + 65535) / 65536 * 65536) (s.towerBytes s.header.dataOff s.header.dataSize)
def State.boots (s t : State) : State :=
  { t with
    unpub := ((List.range ((s.header.codeSize + 127) / 128)).map (fun i => t.dramPlace 0 (128 * i) 0 / 128)).foldl (fun m l => sset false m l false) t.unpub
    tideOn := true
    tide := 0
    codeSize := s.header.codeSize
    phase := .running }

theorem boots_leaves (s t : State) : (s.boots t).self = t.self ∧ (s.boots t).phase = .running ∧ (s.boots t).tideOn = true ∧
    (s.boots t).tide = 0 ∧ (s.boots t).codeSize = s.header.codeSize := ⟨rfl, rfl, rfl, rfl, rfl⟩

section Boot
variable {s : State}

theorem writes_imageCopied : s.Writes s.imageCopied := by
  rw [State.imageCopied]
  exact (writes_putTower ..).trans (writes_putTower ..)

theorem bootLaunchStart_starts (phase : s.phase = .towers 16) (up : s.stagingWaits = false) : exec .bootLaunchStart s =
    .next ((s.boots s.imageCopied).placeBoot (word s.header.entry) (word ((s.header.codeSize + 65535) / 65536 * 65536))) := by
  show execBootLaunchStart s = _
  rw [execBootLaunchStart, if_neg (by simp [phase, up])]
  rfl

end Boot

/-! ## Attestation (R495) -/

section Start
variable {s t : State} {v : Word} (h : s.arrives t v 0x110078)
include h

theorem attestStart_starts (go : v.getLsbD 0 = true) (idle : t.mod.atbusy = false) : exec .attestStart s =
    .next { t with mod := { t.mod with atbusy := true, atreq := t.mod.atnonce, attgt := t.mod.atdst } } := by
  show execAttestStart s = _
  simp only [execAttestStart, regEvent_arrives h, go, idle, Bool.not_false, Bool.and_self, if_true]

theorem attestStart_ignored (none_ : v.getLsbD 0 = false ∨ t.mod.atbusy = true) : exec .attestStart s = .next t := by
  have none_ : ¬ (v.getLsbD 0 && !t.mod.atbusy) = true := by
    rcases none_ with none_ | none_ <;> simp only [none_, Bool.false_and, Bool.not_true, Bool.and_false, Bool.false_eq_true, not_false_eq_true]
  show execAttestStart s = _
  simp only [execAttestStart, regEvent_arrives h, if_neg none_]

end Start

section Attest
variable {s t u w : State} (busy : s.mod.atbusy = true)
include busy

theorem attestReportDone_blocked (h : s.logWrite 68 ((s.mod.attgt &&& ~~~0xFF) + 128) ((s.report s.mod.atreq).drop 128) = .error t) :
    exec .attestReportDone s = .next t := by
  show execAttestReportDone s = _
  simp only [execAttestReportDone, busy, h, except_error_bind]

variable (h : s.logWrite 68 ((s.mod.attgt &&& ~~~0xFF) + 128) ((s.report s.mod.atreq).drop 128) = .ok w)
include h

theorem attestReportDone_waits (h' : s.logWrite 67 (s.mod.attgt &&& ~~~0xFF) ((s.report s.mod.atreq).take 128) = .error t) :
    exec .attestReportDone s = .next t := by
  show execAttestReportDone s = _
  simp only [execAttestReportDone, busy, h, h', except_ok_bind, except_error_bind]

theorem attestReportDone_reports (h' : s.logWrite 67 (s.mod.attgt &&& ~~~0xFF) ((s.report s.mod.atreq).take 128) = .ok t)
    (h2 : t.logWrite 68 ((s.mod.attgt &&& ~~~0xFF) + 128) ((s.report s.mod.atreq).drop 128) = .ok u) :
    exec .attestReportDone s = .next { u with mod := { u.mod with atbusy := false } } := by
  show execAttestReportDone s = _
  simp only [execAttestReportDone, busy, h, h', h2, except_ok_bind]

end Attest

theorem attestReportDone_idle {s : State} (h : s.mod.atbusy = false) : exec .attestReportDone s = .next s := by
  show execAttestReportDone s = _
  simp only [execAttestReportDone, h]

/-! ## The obligation -/

/-- Settles O48. -/
theorem bringUp : Obligations.BringUp := by
  intro s t n
  refine ⟨rfl, fun h => ?_, fun h => ?_, fun held up ht => ⟨resetRelease_verifies held up ht, resetRelease_stages held up ht⟩, fun h => ?_,
    verifyImage_leaves s _ rfl, fun phase h => ⟨towerStart_starts phase h, towerStart_fails phase h⟩, fun phase up free => ?_, fun h => ?_,
    fun up awake berr h4 hl fit => ?_, fun up awake berr => doe_busy up awake berr, fun up awake berr hp => ?_, fun up => ?_, fun r v hr ht => ?_, ?_,
    fun h => attestReportDone_idle h⟩
  · refine ⟨?_, ?_, ?_, ?_⟩
    · show execResetRelease s = _
      rw [execResetRelease, h, Bool.or_true, if_pos rfl]
    · show execBootLaunchStart s = _
      rw [execBootLaunchStart, h, Bool.or_true, if_pos rfl]
    · show execDoeImageChunk s = _
      simp only [execDoeImageChunk, h, Bool.or_true, if_true]
    · show execDoeImageDone s = _
      rw [execDoeImageDone, h, Bool.or_true, if_pos rfl]
  · refine ⟨?_, ?_, ?_, ?_⟩
    · show execDoeImageChunk s = _
      simp only [execDoeImageChunk, h, Bool.not_false, Bool.true_or, if_true]
    · show execDoeImageDone s = _
      rw [execDoeImageDone, h, Bool.not_false, Bool.true_or, if_pos rfl]
    · show execDoeAttestRequest s = _
      rw [execDoeAttestRequest, h, Bool.not_false, if_pos rfl]
    · show execDoeCertChain s = _
      rw [execDoeCertChain, h, Bool.not_false, if_pos rfl]
  · show execResetRelease s = _
    rw [execResetRelease, h, if_pos (by simp)]
  · obtain ⟨kept, running, tideOn, tide, codeSize⟩ := boots_leaves s s.imageCopied
    have start := bootLaunchStart_starts phase up
    have idle : (s.boots s.imageCopied).self.crew = 0 := by rw [kept, writes_imageCopied.self, free]
    generalize s.boots s.imageCopied = u at *
    obtain ⟨self, crews, phase', on, tide', code⟩ := placeBoot_places (word s.header.entry)
      (word ((s.header.codeSize + 65535) / 65536 * 65536)) idle
    refine ⟨_, start, phase'.trans running, on.trans tideOn, tide'.trans tide, code.trans codeSize, ?_⟩
    rw [self, crews]
    refine ⟨rfl, rfl, rfl, ?_, fun i hi => ?_, rfl, rfl, _, List.mem_append_right _ (List.mem_singleton.mpr rfl), rfl, rfl, rfl, rfl⟩
    · rw [readG_bootStrand, if_pos rfl]
    · rw [readG_bootStrand, if_neg hi]
  · show execBootLaunchStart s = _
    rw [execBootLaunchStart, if_pos (by simp [h])]
  · refine ⟨_, doeImageChunk_writes up awake berr h4 hl fit, ?_, fun hs i hi => ?_⟩
    · exact congrArg (· ++ [[0xFA, 0, 0, 0, 0]]) (writes_putBytes _ s).answers
    · have offset := dramPlace_mod (s := s) (o := s.args.unit)
      have line : (s.dramPlace 0 (s.args.unit + i) 0) / 128 = s.dramPlace 0 s.args.unit 0 / 128 := by
        rw [dramPlace_chunk h4 hi]
        omega
      refine (byteAt_congr rfl rfl rfl none _).trans ((byteAt_putBytes _ 0 hs (by omega) line).trans ?_)
      rw [dramPlace_chunk h4 hi, if_pos (by omega), Nat.add_zero, Nat.add_sub_cancel_left]
  · refine (doeImageDone_verifies up awake berr hp).trans ?_
    rw [State.doeAnswer, verifyImage_answers]
    rfl
  · constructor
    · show execDoeAttestRequest s = _
      rw [execDoeAttestRequest, up, Bool.not_true, if_neg Bool.false_ne_true]
    · show execDoeCertChain s = _
      rw [execDoeCertChain, up, Bool.not_true, if_neg Bool.false_ne_true]
  · have arrives : s.arrives t v 0x110078 := .inr ⟨r, hr, ht⟩
    exact ⟨attestStart_starts arrives, attestStart_ignored arrives⟩
  · intro u w a first second busy
    exact ⟨attestReportDone_blocked busy, attestReportDone_waits busy, fun h h' h2 => attestReportDone_reports busy h h' h2⟩

end Sys2Proof.Machine
